-- ==== Sys2Proof/Word.lean ====
section
/-!
DEFINITION. Words and the two containers of the model: bit vectors for what the manual treats as bits, and `AMap`, a list of
(key, value) pairs with rising keys, for everything the part holds by number.
-/

/-- A function of every element, written so that the kernel can evaluate it. -/
def Vector.each {α β : Type} {n : Nat} (v : Vector α n) (f : α → β) : Vector β n := Vector.ofFn fun i => f v[i]

namespace Sys2Proof

/-- A 64-bit register value (R101). -/
abbrev Word := BitVec 64
/-- A byte of memory (R246). -/
abbrev Byte := BitVec 8
/-- A 32-bit lane of a vector register, or a 32-bit element (R135, R168). -/
abbrev Lane := BitVec 32

/-- Things held by number: pairs of a key and a value, keys strictly rising. -/
abbrev AMap (α : Type) := List (Nat × α)

/-- The value at key `k`, if one is listed. -/
def AMap.get? {α : Type} : AMap α → Nat → Option α
  | [], _ => none
  | (j, x) :: m, k => if j = k then some x else AMap.get? m k

/-- The value at key `k`, or `d` where none is listed. -/
def AMap.getD {α : Type} (m : AMap α) (k : Nat) (d : α) : α := (AMap.get? m k).getD d

/-- `m` with `x` at key `k`. -/
def AMap.set {α : Type} : AMap α → Nat → α → AMap α
  | [], k, x => [(k, x)]
  | (j, y) :: m, k, x =>
    if j = k then (k, x) :: m
    else if k < j then (k, x) :: (j, y) :: m
    else (j, y) :: AMap.set m k x

/-- `m` without key `k`. -/
def AMap.erase {α : Type} : AMap α → Nat → AMap α
  | [], _ => []
  | (j, y) :: m, k => if j = k then m else (j, y) :: AMap.erase m k

/-- The keys in rising order. -/
def AMap.keys {α : Type} (m : AMap α) : List Nat := m.map (·.1)

/-- The least key from 0 that is not listed, of at most `n` tried. -/
def AMap.freshBelow {α : Type} (m : AMap α) (n : Nat) : Option Nat :=
  (List.range n).find? fun k => (AMap.get? m k).isNone

/-- An element put before the first that does not come earlier. -/
def insertBy {α : Type} (le : α → α → Bool) (x : α) : List α → List α
  | [] => [x]
  | y :: ys => if le x y then x :: y :: ys else y :: insertBy le x ys

/-- A list in order; elements of equal rank keep their order. -/
def sortBy {α : Type} (le : α → α → Bool) : List α → List α
  | [] => []
  | x :: xs => insertBy le x (sortBy le xs)

/-- A signed reading cut to `n` bits and extended to 64 (SEXT of R9). -/
def sext (n : Nat) (x : Nat) : Word :=
  BitVec.signExtend 64 (BitVec.ofNat n x)

/-- The 64-bit word of an integer, low bits kept (R8). -/
def wordOfInt (x : Int) : Word := BitVec.ofInt 64 x

/-- 1 or 0 as a register value. -/
def boolWord (b : Bool) : Word := if b then 1 else 0

/-- Bits [hi:lo] of a word as a number (R4). -/
def bits (w : Word) (hi lo : Nat) : Nat := (w.toNat >>> lo) % 2 ^ (hi + 1 - lo)

/-- Bit `i` of a word. -/
def bit (w : Word) (i : Nat) : Bool := w.getLsbD i

/-- `w` with bits [hi:lo] replaced by the low bits of `x`. -/
def setBits (w : Word) (hi lo : Nat) (x : Nat) : Word :=
  let field := (2 ^ (hi + 1 - lo) - 1) <<< lo
  BitVec.ofNat 64 ((w.toNat - (w.toNat &&& field)) + ((x % 2 ^ (hi + 1 - lo)) <<< lo))

end Sys2Proof
end

