-- ==== Sys2Proof/Machine/Float.lean ====
section
/-!
DEFINITION. Number formats and arithmetic (R44 to R71): values as exact dyadic numbers, one rounding at the end, and the flags
each operation raises.
-/

namespace Sys2Proof.Machine

/-- What a format's top exponent holds (R44). -/
inductive Special where
  /-- Infinities and NaNs. -/
  | ieee
  /-- One NaN pattern, no infinity (e4m3). -/
  | oneNan
  /-- Neither. -/
  | finite
  deriving DecidableEq, Repr

/-- A floating-point format (R44). -/
structure FloatFormat where
  expBits : Nat
  manBits : Nat
  bias : Nat
  special : Special
  deriving DecidableEq, Repr

namespace FloatFormat

/-- f32. -/
def f32 : FloatFormat := ⟨8, 23, 127, .ieee⟩
/-- f16. -/
def f16 : FloatFormat := ⟨5, 10, 15, .ieee⟩
/-- bf16. -/
def bf16 : FloatFormat := ⟨8, 7, 127, .ieee⟩
/-- e5m2. -/
def e5m2 : FloatFormat := ⟨5, 2, 15, .ieee⟩
/-- e4m3. -/
def e4m3 : FloatFormat := ⟨4, 3, 7, .oneNan⟩
/-- e3m2. -/
def e3m2 : FloatFormat := ⟨3, 2, 3, .finite⟩
/-- e2m3. -/
def e2m3 : FloatFormat := ⟨2, 3, 1, .finite⟩
/-- e2m1. -/
def e2m1 : FloatFormat := ⟨2, 1, 1, .finite⟩

/-- Bits of a value. -/
def width (f : FloatFormat) : Nat := 1 + f.expBits + f.manBits

/-- Exponent of the smallest step: that of the subnormals. -/
def minStep (f : FloatFormat) : Int := 1 - (f.bias : Int) - f.manBits

/-- Exponent of the step of the topmost binade. -/
def maxStep (f : FloatFormat) : Int :=
  (2 ^ f.expBits - 1 - (match f.special with | .ieee => 1 | _ => 0) : Int) - f.bias - f.manBits

/-- The largest finite value in units of that step. -/
def maxSig (f : FloatFormat) : Nat := 2 ^ (f.manBits + 1) - 1 - match f.special with | .oneNan => 1 | _ => 0

/-- The sign bit's weight. -/
def signBit (f : FloatFormat) (neg : Bool) : Nat := if neg then 2 ^ (f.expBits + f.manBits) else 0

/-- The canonical NaN (R46), or +0 where the format has none (R57). -/
def canonicalNan (f : FloatFormat) : Nat :=
  match f.special with
  | .ieee => if f.expBits = 5 ∧ f.manBits = 2 then 0x7F else (2 ^ f.expBits - 1) * 2 ^ f.manBits + 2 ^ (f.manBits - 1)
  | .oneNan => 2 ^ (f.expBits + f.manBits) - 1
  | .finite => 0

/-- The pattern of the largest finite value. -/
def largest (f : FloatFormat) (neg : Bool) : Nat :=
  f.signBit neg + ((f.maxStep + f.manBits + f.bias).toNat * 2 ^ f.manBits + (f.maxSig - 2 ^ f.manBits))

/-- The pattern of an infinity, or of the largest finite value where the format has none. -/
def infinity (f : FloatFormat) (neg : Bool) : Nat :=
  match f.special with
  | .ieee => f.signBit neg + (2 ^ f.expBits - 1) * 2 ^ f.manBits
  | _ => f.largest neg

end FloatFormat

/-- A value read from a format: NaN (signalling or not), infinity, or a sign and an exact m × 2^e. -/
inductive FVal where
  | nan (signalling : Bool)
  | inf (neg : Bool)
  | fin (neg : Bool) (m : Nat) (e : Int)
  deriving DecidableEq, Repr

/-- The rounding modes of FPCTL.RM (R55). -/
inductive Round where
  | rne | rtz | rdn | rup
  deriving DecidableEq, Repr

/-- The mode of an RM value. -/
def roundMode : Nat → Round
  | 0 => .rne | 1 => .rtz | 2 => .rdn | _ => .rup

/-- The flags of R56 in the order of FPCTL [13:8], as a sum of bits. -/
def flagNV : Nat := 1
/-- Division by zero. -/
def flagDZ : Nat := 2
/-- Overflow. -/
def flagOF : Nat := 4
/-- Underflow. -/
def flagUF : Nat := 8
/-- Inexact. -/
def flagNX : Nat := 16
/-- Quantiser saturation. -/
def flagQS : Nat := 32

/-- The value of a pattern (R44). -/
def FloatFormat.read (f : FloatFormat) (x : Nat) : FVal :=
  let neg := x / 2 ^ (f.expBits + f.manBits) % 2 == 1
  let e := x / 2 ^ f.manBits % 2 ^ f.expBits
  let m := x % 2 ^ f.manBits
  let top := 2 ^ f.expBits - 1
  if f.special = .ieee ∧ e = top then
    if m = 0 then .inf neg else .nan (decide (m < 2 ^ (f.manBits - 1)))
  else if f.special = .oneNan ∧ e = top ∧ m = 2 ^ f.manBits - 1 then .nan false
  else if e = 0 then .fin neg m f.minStep
  else .fin neg (2 ^ f.manBits + m) (f.minStep + e - 1)

/-- Whether a value is a signalling NaN. -/
def FVal.signals : FVal → Bool
  | .nan s => s
  | _ => false

/-- Whether a value is a NaN. -/
def FVal.isNan : FVal → Bool
  | .nan _ => true
  | _ => false

/-- The sign of a value; a NaN has none. -/
def FVal.neg : FVal → Bool
  | .nan _ => false
  | .inf n => n
  | .fin n _ _ => n

/-- Whether a value is a zero. -/
def FVal.isZero : FVal → Bool
  | .fin _ m _ => m == 0
  | _ => false

/-- NV for signalling operands (R46, R56). -/
def nvOf (xs : List FVal) : Nat := if xs.any FVal.signals then flagNV else 0

/-- Rounding of (m + sticky) × 2^e to a multiple of 2^q: the multiple, and whether it is inexact. -/
def roundStep (mode : Round) (neg : Bool) (m : Nat) (e : Int) (sticky : Bool) (q : Int) : Nat × Bool :=
  if q ≤ e then (m * 2 ^ (e - q).toNat, sticky)
  else
    let k := (q - e).toNat
    let r := m / 2 ^ k
    let rest := m % 2 ^ k
    let half := 2 ^ (k - 1)
    let inexact := rest != 0 || sticky
    let up := match mode with
      | .rne => decide (half < rest) || (rest == half && (sticky || r % 2 == 1))
      | .rtz => false
      | .rdn => neg && inexact
      | .rup => !neg && inexact
    (if up then r + 1 else r, inexact)

/-- The pattern of r × 2^q, a value of the format's grid. -/
def FloatFormat.pack (f : FloatFormat) (neg : Bool) (r : Nat) (q : Int) : Nat :=
  let rq : Nat × Int := if r = 2 ^ (f.manBits + 1) then (2 ^ f.manBits, q + 1) else (r, q)
  f.signBit neg +
    if rq.1 < 2 ^ f.manBits then rq.1
    else (rq.2 - f.minStep + 1).toNat * 2 ^ f.manBits + (rq.1 - 2 ^ f.manBits)

/-- ROUND of a non-zero exact value ±(m + sticky) × 2^e to a format, with its flags (R56, R57). A sticky value has enough bits
that the rounding step lies above its last. -/
def FloatFormat.round (f : FloatFormat) (mode : Round) (neg : Bool) (m : Nat) (e : Int) (sticky : Bool) : Nat × Nat :=
  if m = 0 ∧ ¬ sticky then (f.signBit neg, 0)
  else
    let q0 : Int := e + (Nat.log2 m : Int) - f.manBits
    let q := max q0 f.minStep
    let r := roundStep mode neg m e sticky q
    let high := f.maxStep ≤ q ∧ f.maxSig < r.1 * 2 ^ (q - f.maxStep).toNat
    if high then
      let toInf : Bool := match mode with | .rne => true | .rtz => false | .rdn => neg | .rup => !neg
      (if f.special == .ieee && toInf then f.infinity neg else f.largest neg, flagOF + flagNX)
    else
      let u := roundStep mode neg m e sticky q0
      let tiny := q0 < f.minStep ∧ ¬ (f.minStep ≤ q0 + 1 ∧ 2 ^ (f.manBits + 1) ≤ u.1)
      (f.pack neg r.1 q, (if r.2 then flagNX else 0) + if r.2 ∧ tiny then flagUF else 0)

/-- A sum of signed dyadic numbers: mantissa and exponent. -/
def dyadicSum : List (Int × Int) → Int × Int
  | [] => (0, 0)
  | (m, e) :: xs =>
    let (n, d) := dyadicSum xs
    if n = 0 then (m, e)
    else if e ≤ d then (m + n * 2 ^ (d - e).toNat, e) else (m * 2 ^ (e - d).toNat + n, d)

/-- A finite value as a signed dyadic number. -/
def FVal.dyadic : FVal → Int × Int
  | .fin neg m e => (if neg then -(m : Int) else m, e)
  | _ => (0, 0)

/-- The exact product of two finite values. -/
def finMul (x y : FVal) : FVal :=
  match x, y with
  | .fin n m e, .fin k p d => .fin (n != k) (m * p) (e + d)
  | a, _ => a

/-- ROUND of the exact sum of finite values, with the zero-sign rule of R120: equal signs keep the sign, any other exact zero is
+0, under RDN −0. -/
def FloatFormat.sum (f : FloatFormat) (mode : Round) (x y : FVal) : Nat × Nat :=
  let (m, e) := dyadicSum [x.dyadic, y.dyadic]
  if m = 0 then
    if x.isZero ∧ y.isZero ∧ x.neg = y.neg then (f.signBit x.neg, 0) else (f.signBit (mode == .rdn), 0)
  else f.round mode (decide (m < 0)) m.natAbs e false

namespace FArith

/-- A NaN result with NV or not. -/
def nanWith (f : FloatFormat) (flags : Nat) : Nat × Nat := (f.canonicalNan, flags)

/-- ROUND(x + y) (R56, R120). -/
def add (f : FloatFormat) (mode : Round) (x y : FVal) : Nat × Nat :=
  match x, y with
  | .nan _, _ => nanWith f (nvOf [x, y])
  | _, .nan _ => nanWith f (nvOf [x, y])
  | .inf a, .inf b => if a = b then (f.infinity a, 0) else nanWith f flagNV
  | .inf a, _ => (f.infinity a, 0)
  | _, .inf b => (f.infinity b, 0)
  | x, y => f.sum mode x y

/-- The value with its sign turned. -/
def negate : FVal → FVal
  | .nan s => .nan s
  | .inf n => .inf !n
  | .fin n m e => .fin (!n) m e

/-- ROUND(x − y). -/
def sub (f : FloatFormat) (mode : Round) (x y : FVal) : Nat × Nat := add f mode x (negate y)

/-- ROUND(x × y). -/
def mul (f : FloatFormat) (mode : Round) (x y : FVal) : Nat × Nat :=
  match x, y with
  | .nan _, _ => nanWith f (nvOf [x, y])
  | _, .nan _ => nanWith f (nvOf [x, y])
  | .inf a, y => if y.isZero then nanWith f flagNV else (f.infinity (a != y.neg), 0)
  | x, .inf b => if x.isZero then nanWith f flagNV else (f.infinity (x.neg != b), 0)
  | .fin n m e, .fin k p d => f.round mode (n != k) (m * p) (e + d) false

/-- ROUND(x × y + z), one rounding (R56, R120). -/
def fma (f : FloatFormat) (mode : Round) (x y z : FVal) : Nat × Nat :=
  if x.isNan || y.isNan || z.isNan then
    let bad := match x, y with
      | .inf _, y => y.isZero
      | x, .inf _ => x.isZero
      | _, _ => false
    nanWith f (if bad then flagNV else nvOf [x, y, z])
  else match x, y with
    | .inf a, y => if y.isZero then nanWith f flagNV else add f mode (.inf (a != y.neg)) z
    | x, .inf b => if x.isZero then nanWith f flagNV else add f mode (.inf (x.neg != b)) z
    | x, y => add f mode (finMul x y) z

/-- ROUND(x / y) (R56, R120). Zero over zero is a NaN from finite operands by division by zero, so it raises DZ; R56's row for NV
names neither it nor ∞ / ∞, which raises nothing (DEDUCED, log 58). -/
def div (f : FloatFormat) (mode : Round) (x y : FVal) : Nat × Nat :=
  match x, y with
  | .nan _, _ => nanWith f (nvOf [x, y])
  | _, .nan _ => nanWith f (nvOf [x, y])
  | .inf _, .inf _ => nanWith f 0
  | .inf a, y => (f.infinity (a != y.neg), 0)
  | x, .inf b => (f.signBit (x.neg != b), 0)
  | .fin n m e, .fin k p d =>
    if p = 0 then if m = 0 then nanWith f flagDZ else (f.infinity (n != k), flagDZ)
    else if m = 0 then (f.signBit (n != k), 0)
    else
      let s := f.manBits + 4 + Nat.log2 p
      f.round mode (n != k) (m * 2 ^ s / p) (e - d - s) (m * 2 ^ s % p != 0)

/-- The integer square root, bit by bit from 2^n down. -/
def isqrt (x : Nat) : (n acc : Nat) → Nat
  | 0, acc => if (acc + 1) * (acc + 1) ≤ x then acc + 1 else acc
  | n + 1, acc => isqrt x n (if (acc + 2 ^ (n + 1)) * (acc + 2 ^ (n + 1)) ≤ x then acc + 2 ^ (n + 1) else acc)

/-- The square root of a number. -/
def sqrtNat (x : Nat) : Nat := isqrt x (Nat.log2 x / 2 + 1) 0

/-- ROUND(√x); √(−0) is −0 (R120). -/
def sqrt (f : FloatFormat) (mode : Round) (x : FVal) : Nat × Nat :=
  match x with
  | .nan s => nanWith f (if s then flagNV else 0)
  | .inf n => if n then nanWith f flagNV else (f.infinity false, 0)
  | .fin n m e =>
    if m = 0 then (f.signBit n, 0)
    else if n then nanWith f flagNV
    else
      let odd := e.emod 2 = 1
      let m2 := if odd then 2 * m else m
      let h : Int := (if odd then e - 1 else e) / 2
      let s := f.manBits + 4
      let r := sqrtNat (m2 * 2 ^ (2 * s))
      f.round mode false r (h - s) (r * r != m2 * 2 ^ (2 * s))

/-- Numeric order of two values that are no NaN: −1, 0 or 1, with −0 equal to +0. -/
def compare (x y : FVal) : Int :=
  match x, y with
  | .inf a, .inf b => if a = b then 0 else if a then -1 else 1
  | .inf a, _ => if a then -1 else 1
  | _, .inf b => if b then 1 else -1
  | x, y =>
    let (m, _) := dyadicSum [x.dyadic, (negate y).dyadic]
    if m < 0 then -1 else if m = 0 then 0 else 1

/-- FMIN or FMAX on patterns: −0 below +0; a NaN operand gives the canonical NaN, with NV for a signalling one (R120). -/
def minMax (f : FloatFormat) (greater : Bool) (a b : Nat) : Nat × Nat :=
  let x := f.read a
  let y := f.read b
  if x.isNan || y.isNan then nanWith f (nvOf [x, y])
  else
    let c := compare x y
    let less := c < 0 || (c == 0 && x.neg && !y.neg)
    (if less != greater then a else b, 0)

/-- A conversion between formats, one rounding; infinities and NaNs as R46 and R57. One that the format lacks raises NV (R57), and NX, since
what is delivered differs from it (R56; DEDUCED, log 58). -/
def convert (f : FloatFormat) (mode : Round) (x : FVal) : Nat × Nat :=
  match x with
  | .nan s =>
    match f.special with
    | .finite => (0, flagNV ||| flagNX)
    | _ => (f.canonicalNan, if s then flagNV else 0)
  | .inf n =>
    match f.special with
    | .ieee => (f.infinity n, 0)
    | _ => (f.largest n, flagNV ||| flagNX)
  | .fin n m e => f.round mode n m e false

/-- A float rounded to an integer in [lo, hi] (R58). -/
def toInt (mode : Round) (lo hi : Int) (x : FVal) : Int × Nat :=
  match x with
  | .nan _ => (0, flagNV)
  | .inf n => (if n then lo else hi, flagNV)
  | .fin n m e =>
    let r := roundStep mode n m e false 0
    let v : Int := if n then -(r.1 : Int) else r.1
    if v < lo then (lo, flagNV) else if hi < v then (hi, flagNV) else (v, if r.2 then flagNX else 0)

/-- An integer rounded to a format; zero is +0. -/
def ofInt (f : FloatFormat) (mode : Round) (x : Int) : Nat × Nat := f.round mode (decide (x < 0)) x.natAbs 0 false

/-! ### Approximations (R61): the exact value rounded to bf16 with RNE -/

/-- A bf16 pattern widened to f32. -/
def widenBf16 (x : Nat × Nat) : Nat × Nat := (x.1 * 65536, x.2)

/-- VRCP. -/
def rcp (x : FVal) : Nat × Nat :=
  widenBf16 <| match x with
  | .nan s => nanWith .bf16 (if s then flagNV else 0)
  | .inf n => (FloatFormat.bf16.signBit n, 0)
  | x => div .bf16 .rne (.fin false 1 0) x

/-- VRSQ. -/
def rsq (x : FVal) : Nat × Nat :=
  widenBf16 <| match x with
  | .nan s => nanWith .bf16 (if s then flagNV else 0)
  | .inf n => if n then nanWith .bf16 flagNV else (0, 0)
  | .fin n m e =>
    if m = 0 then (FloatFormat.bf16.infinity n, flagDZ)
    else if n then nanWith .bf16 flagNV
    else
      let odd := e.emod 2 = 1
      let m2 := if odd then 2 * m else m
      let h : Int := (if odd then e - 1 else e) / 2
      let s := 20 + Nat.log2 m2
      let r := sqrtNat (2 ^ (2 * s) / m2)
      FloatFormat.bf16.round .rne false r (-h - s) (r * r * m2 != 2 ^ (2 * s))

/-- 2^f × 2^p for f given by its `n` remaining bits below weight 2^−i, most significant first, as a product of the successive
square roots of 2 in fixed point of p bits: `root` is 2^(2^−(i−1)). -/
def exp2Frac (p bitsLeft : Nat) (f : Nat) : (n root acc : Nat) → Nat
  | 0, _, acc => acc
  | n + 1, root, acc =>
    let r := sqrtNat (root * 2 ^ p)
    exp2Frac p bitsLeft f n r (if f / 2 ^ n % 2 = 1 then acc * r / 2 ^ p else acc)

/-- VEXP2. -/
def exp2 (x : FVal) : Nat × Nat :=
  widenBf16 <| match x with
  | .nan s => nanWith .bf16 (if s then flagNV else 0)
  | .inf n => if n then (0, 0) else (FloatFormat.bf16.infinity false, 0)
  | .fin n m e =>
    if m = 0 then (FloatFormat.bf16.pack false 128 (-7), 0)
    else if 16 ≤ e + (Nat.log2 m : Int) then
      if n then (0, flagNX + flagUF) else (FloatFormat.bf16.infinity false, flagOF + flagNX)
    else
      let v : Int := if n then -(m : Int) else m
      if 0 ≤ e then FloatFormat.bf16.round .rne false 1 (v * 2 ^ e.toNat) false
      else
        let k := (-e).toNat
        let whole := v.ediv (2 ^ k)
        let frac := (v.emod (2 ^ k)).toNat
        if frac = 0 then FloatFormat.bf16.round .rne false 1 whole false
        else FloatFormat.bf16.round .rne false (exp2Frac 240 k frac k (2 * 2 ^ 240) (2 ^ 240)) (whole - 240) true

/-- The first `n` bits of log2 of y / 2^p, for y from 2^p to below 2^(p+1), by squaring. -/
def log2Frac (p : Nat) : (n y acc : Nat) → Nat
  | 0, _, acc => acc
  | n + 1, y, acc =>
    let z := y * y / 2 ^ p
    if 2 ^ (p + 1) ≤ z then log2Frac p n (z / 2) (2 * acc + 1) else log2Frac p n z (2 * acc)

/-- VLOG2; log2 of 1 is +0. -/
def log2 (x : FVal) : Nat × Nat :=
  widenBf16 <| match x with
  | .nan s => nanWith .bf16 (if s then flagNV else 0)
  | .inf n => if n then nanWith .bf16 flagNV else (FloatFormat.bf16.infinity false, 0)
  | .fin n m e =>
    if m = 0 then (FloatFormat.bf16.infinity true, flagDZ)
    else if n then nanWith .bf16 flagNV
    else
      let l := Nat.log2 m
      let whole : Int := e + l
      if m = 2 ^ l then ofInt .bf16 .rne whole
      else
        let v : Int := whole * 2 ^ 64 + log2Frac 240 64 (m * 2 ^ 240 / 2 ^ l) 0
        if 0 ≤ v then FloatFormat.bf16.round .rne false v.toNat (-64) true
        else FloatFormat.bf16.round .rne true ((-v).toNat - 1) (-64) true

end FArith

/-! ### The quantiser (R71) -/

namespace Quant

/-- emax of a format (R71). -/
def emax (f : FloatFormat) : Int := (f.maxStep + f.manBits)

/-- CONV: x / 2^s rounded with RNE to the format's precision and subnormal step, its exponent unbounded: sign, multiple and step,
and whether it is inexact. -/
def conv (f : FloatFormat) (x : FVal) (s : Int) : Bool × Nat × Int × Bool :=
  match x with
  | .fin n m e =>
    if m = 0 then (n, 0, f.minStep, false)
    else
      let q := max (e - s + (Nat.log2 m : Int) - f.manBits) f.minStep
      let r := roundStep .rne n m (e - s) false q
      (n, r.1, q, r.2)
  | _ => (false, 0, f.minStep, false)

/-- Whether a converted magnitude exceeds the largest finite value. -/
def tooLarge (f : FloatFormat) (y : Bool × Nat × Int × Bool) : Bool :=
  decide (f.maxStep ≤ y.2.2.1) && decide (f.maxSig < y.2.1 * 2 ^ (y.2.2.1 - f.maxStep).toNat)

/-- The block converted at a scale, bumped at most `n` times while an element is too large (R71). -/
def bump (f : FloatFormat) (xs : List FVal) : (n : Nat) → (s : Int) → Int × List (Bool × Nat × Int × Bool)
  | 0, s => (s, xs.map (conv f · s))
  | n + 1, s =>
    let ys := xs.map (conv f · s)
    if ys.any (tooLarge f) && decide (s < 127) then bump f xs n (s + 1) else (s, ys)

/-- FLOOR(LOG2) of the largest magnitude, none when all are zero. -/
def topExp (xs : List FVal) : Option Int :=
  xs.foldl (fun acc x => match x with
    | .fin _ m e => if m = 0 then acc else some (match acc with | none => e + Nat.log2 m | some a => max a (e + Nat.log2 m))
    | _ => acc) none

/-- The quantiser: scale byte, 32 patterns, flags (R71). -/
def block (f : FloatFormat) (xs : List FVal) : Nat × List Nat × Nat :=
  if xs.any fun x => match x with | .fin _ _ _ => false | _ => true then (0xFF, xs.map fun _ => 0, flagNV)
  else
    let s0 : Int := match topExp xs with
      | none => -127
      | some t => max (-127) (min 127 (t - emax f))
    let (s, ys) := bump f xs 2 s0
    let sat := ys.any (tooLarge f)
    let outs := ys.map fun y => if tooLarge f y then f.largest y.1 else f.pack y.1 y.2.1 y.2.2.1
    let nx := ys.any fun y => y.2.2.2 || tooLarge f y
    ((s + 127).toNat, outs, (if sat then flagQS else 0) + if nx then flagNX else 0)

end Quant

end Sys2Proof.Machine
end

