-- ==== Sys2Proof/Config.lean ====
section
/-!
DEFINITION. Config: what one part fixes and the manual does not (R297, R321, R332, R404), and the free values. An opaque
constant has no body: nothing can be proved about its value, and a claim holds whatever it is (log 8, log 9).
-/

namespace Sys2Proof.Config

/-- Bits drawn from the Bezel's random source, the n-th draw of the run (R321, R332; log 8). -/
opaque random : Nat → Word
/-- Which of the things that can happen next does, where the manual gives no order (log 4). -/
opaque pick : Nat → Nat
/-- Core cycles that pass on every core with the n-th step (R110; log 7). -/
opaque cycles : Nat → Nat
/-- Further cycles that a core counts with the n-th step, its clock being its own (R107, R110; log 7). -/
opaque coreCycles : (core n : Nat) → Nat
/-- Cycles of a core that an event which counts time adds in a step (R361; log 17). -/
opaque timedCount : (core event n : Nat) → Nat
/-- Cycles of a core that a job's restore takes in a step (R354; log 7). -/
opaque restoreCycles : (core n : Nat) → Nat
/-- The tag of a handle: 16 bits of a keyed hash of bits [47:0] under the key of boot n (R329; log 9). -/
opaque handleTag : Nat → BitVec 48 → BitVec 16
/-- The tile nearest the L2 slices of a run of bytes: base and length (R351; R200 leaves the slice hash open; log 8). -/
opaque sliceTile : (base length : Nat) → Nat
/-- The set of a core's L1 in which a line lies under a split of its SRAM (R89; no rule gives the L1's sets; log 61). -/
opaque l1Set : (core sp line : Nat) → Nat
/-- The module of a die that carries a line's host traffic (R392; no rule says which of the two; log 62). -/
opaque hostModule : (line : Nat) → Bool
/-- Where the body of a repetition record lay in the I-store, which the record does not tell (R294, R322; log 61). -/
opaque bodyBase : List Byte → Word
/-- Word `i` of the 512 bits of the n-th key that the Bezel draws for a key slot (R332; log 9). -/
opaque keyWord : (n i : Nat) → Word
/-- Whether the host grants E where a step asks it for a line with RdShared (R275; log 3). -/
opaque hostGrantsE : Nat → Bool
/-- The part's RSA-3072 modulus below its top bit, and its key pair: a permutation of the numbers below the modulus as a run of exchanges
(R321, R443; log 9). -/
opaque rsaModulus : BitVec 3071
/-- The exchanges, first to last. -/
opaque rsaExchanges : List (Nat × Nat)
/-- An SLH-DSA signature of `n` bytes by the key of an identifier over a message, made at the d-th draw (R321, R406; log 9). -/
opaque sign : (key : Nat) → (message : List Byte) → (draw n : Nat) → List Byte
/-- Whether an SLH-DSA signature that the part has not made is valid for a message under the key of an identifier (R321; log 9). -/
opaque verify : (key : Nat) → (message signature : List Byte) → Bool
/-- The certificate chain of slot 0 of the part (R405, R443; log 9). -/
opaque certificate : List Byte
/-- The part's serial number, over which a debug authorisation is signed (R412). -/
opaque serial : List Byte
/-- The answer to IDCODE, 32 bits (R412; log 8). -/
opaque idcode : BitVec 32
/-- Bytes of the responder's key exchange: the n-th exchange's public value, and its session secrets (R405; log 9). -/
opaque exchange : (draw n : Nat) → (request : List Byte) → List Byte
/-- The key of the n-th join of the Span, 32 bytes (R419; log 9). -/
opaque linkKey : Nat → List Byte
/-- The direction of what this box sends, in the IV of a sealed record (R419; log 47). -/
opaque spanDirection : BitVec 32
/-- The bytes by which a record of the Span names what it asks, answers or carries, from its fields (R418 gives no form; log 47). -/
opaque spanForm : List Nat → List Byte
/-- The CRC-64 of a flit (R418 names no polynomial; log 47). -/
opaque crc64 : List Byte → BitVec 64
/-- The 32-byte key and the 7-byte salt of the n-th channel opened, from the session's secrets (R402; log 9). -/
opaque channelKey : Nat → List Byte
opaque channelSalt : Nat → List Byte
/-- The page and the offset in it that a channel record's plaintext names (R402 gives no form; log 24). -/
opaque recordPage : List Byte → Nat
opaque recordOffset : List Byte → Nat

end Sys2Proof.Config
end

