-- ==== Sys2Proof/Machine/Aes.lean ====
section
/-!
DEFINITION. AES-256 in the XTS mode, by which lines are sealed (R272 names it and gives the data unit and the tweak), and in the Galois
counter mode, which seals channel records and the Span (R402, R419); the cipher and the modes are those of FIPS 197, IEEE 1619 and NIST SP
800-38D (PRESUMED, log 22).
-/

namespace Sys2Proof.Aes

/-- A byte times x in the field of AES. -/
def timesX (b : Byte) : Byte := (b <<< 1) ^^^ (if b.getLsbD 7 then 0x1B else 0)

/-- The product of two bytes in the field, the second read from bit `n` down. -/
def times (a b : Byte) : Nat → Byte
  | 0 => 0
  | n + 1 => timesX (times a (b >>> 1) n) ^^^ (if b.getLsbD 0 then a else 0)

/-- The inverse of a byte, its 254th power: the product of its powers 2, 4 to 128. -/
def inverse (b : Byte) : Byte :=
  ((List.range 7).foldl (fun (p, acc) _ => let q := times p p 8; (q, times acc q 8)) (b, (1 : Byte))).2

/-- The substitution of a byte and its inverse. -/
def subst (b : Byte) : Byte :=
  let y := inverse b
  [1, 2, 3, 4].foldl (fun z n => z ^^^ y.rotateLeft n) (y ^^^ 0x63)
/-- The inverse of `subst`. -/
def unsubst (b : Byte) : Byte := inverse ([1, 3, 6].foldl (fun z n => z ^^^ b.rotateLeft n) 0x05)

/-- Two runs of bytes added without carries. -/
def add (x y : List Byte) : List Byte := List.zipWith (· ^^^ ·) x y

/-- Bytes of a block permuted: row `r` turned by `r * n` columns. -/
def turnRows (n : Nat) (x : List Byte) : List Byte := (List.range 16).map fun i => x.getD ((i + 4 * n * (i % 4)) % 16) 0

/-- Each column of a block times a circulant matrix, whose first row is given. -/
def mixColumns (row : List Byte) (x : List Byte) : List Byte :=
  (List.range 16).map fun i =>
    (List.range 4).foldl (fun z k => z ^^^ times (x.getD (i / 4 * 4 + k) 0) (row.getD ((k + 4 - i % 4) % 4) 0) 8) 0

/-- The next word of the key schedule behind the last eight, the newest last; `i` is its number. -/
def nextWord (i : Nat) (last : List (List Byte)) : List Byte :=
  let w := last.getLastD []
  let w := if i % 8 = 0 then add ((w.rotateLeft 1).map subst) [BitVec.ofNat 8 (2 ^ (i / 8 - 1)), 0, 0, 0]
    else if i % 8 = 4 then w.map subst else w
  add (last.headD []) w

/-- The words of the key schedule from number `i` on, `n` of them. -/
def schedule (i : Nat) (last : List (List Byte)) : Nat → List (List Byte)
  | 0 => []
  | n + 1 => let w := nextWord i last; w :: schedule (i + 1) (last.drop 1 ++ [w]) n

/-- The fifteen round keys of a 32-byte key. -/
def roundKeys (key : List Byte) : List (List Byte) :=
  let first := (List.range 8).map fun i => (key.drop (4 * i)).take 4
  let words := first ++ schedule 8 first 52
  (List.range 15).map fun r => ((words.drop (4 * r)).take 4).flatten

/-- A block enciphered. -/
def encipher (key block : List Byte) : List Byte :=
  let ks := roundKeys key
  let x := (List.range 13).foldl
    (fun x r => add (mixColumns [2, 3, 1, 1] (turnRows 1 (x.map subst))) (ks.getD (r + 1) [])) (add block (ks.headD []))
  add (turnRows 1 (x.map subst)) (ks.getD 14 [])

/-- A block deciphered. -/
def decipher (key block : List Byte) : List Byte :=
  let ks := roundKeys key
  let x := (turnRows 3 (add block (ks.getD 14 []))).map unsubst
  (List.range 13).foldl
    (fun x r => (turnRows 3 (mixColumns [14, 11, 13, 9] (add x (ks.getD (13 - r) [])))).map unsubst) x |> (add · (ks.headD []))

/-- A tweak times x in the field of XTS, its first byte least significant. -/
def tweakTimesX (t : List Byte) : List Byte :=
  let carried := (List.range 16).map fun i =>
    ((t.getD i 0 : Byte) <<< (1 : Nat)) ^^^ (if i = 0 then 0 else ((t.getD (i - 1) 0 : Byte) >>> (7 : Nat)))
  add carried ((if (t.getD 15 0).getLsbD 7 then 0x87 else 0) :: List.replicate 15 0)

/-- The blocks of a data unit under their tweaks. -/
def blocks (f : List Byte → List Byte) (t data : List Byte) : Nat → List Byte
  | 0 => []
  | n + 1 => add (f (add (data.take 16) t)) t ++ blocks f (tweakTimesX t) (data.drop 16) n

/-- A data unit of eight blocks sealed under a 64-byte key, its number the 16-byte tweak (R272). -/
def sealUnit (key unit data : List Byte) : List Byte := blocks (encipher (key.take 32)) (encipher (key.drop 32) unit) data 8
/-- A data unit opened. -/
def openUnit (key unit data : List Byte) : List Byte := blocks (decipher (key.take 32)) (encipher (key.drop 32) unit) data 8

/-! ### The Galois counter mode -/

/-- Up to 16 bytes as the number of a block, the first byte the highest. -/
def blockOf (x : List Byte) : BitVec 128 :=
  (List.range 16).foldl (fun z i => z <<< (8 : Nat) ||| (x.getD i 0).setWidth 128) 0
/-- The bytes of a block. -/
def bytesOfBlock (z : BitVec 128) : List Byte := (List.range 16).map fun i => (z >>> (8 * (15 - i))).setWidth 8

/-- The product of two blocks in the field of the mode. -/
def hashTimes (x y : BitVec 128) : BitVec 128 :=
  ((List.range 128).foldl (fun (z, v) i =>
    (if x.getMsbD i then z ^^^ v else z, if v.getLsbD 0 then (v >>> (1 : Nat)) ^^^ (0xE1#128 <<< (120 : Nat)) else v >>> (1 : Nat)))
    (0#128, y)).1

/-- The blocks of a run of bytes, the last filled with zeros. -/
def blocksOf (x : List Byte) : List (BitVec 128) := (List.range ((x.length + 15) / 16)).map fun i => blockOf ((x.drop (16 * i)).take 16)

/-- The counter block `n` of a 12-byte IV, enciphered. -/
def counterBlock (key iv : List Byte) (n : Nat) : List Byte :=
  encipher key (iv.take 12 ++ (bytesOfBlock (BitVec.ofNat 128 n)).drop 12)

/-- Bytes under the counters from 2 on; the mode's own inverse. -/
def counterMode (key iv data : List Byte) : List Byte :=
  add data ((List.range ((data.length + 15) / 16)).flatMap fun i => counterBlock key iv (i + 2))

/-- The tag of a ciphertext with its additional data. -/
def gcmTag (key iv aad cipher : List Byte) : List Byte :=
  let h := blockOf (encipher key (List.replicate 16 0))
  let lengths := BitVec.ofNat 128 (8 * aad.length * 2 ^ 64 + 8 * cipher.length)
  let hash := (blocksOf aad ++ blocksOf cipher ++ [lengths]).foldl (fun z x => hashTimes (z ^^^ x) h) 0
  add (bytesOfBlock hash) (counterBlock key iv 1)

end Sys2Proof.Aes
end

