-- ==== Sys2Proof/Machine/Cause.lean ====
section
/-!
DEFINITION. The 96 causes of R371 with their codes and the order in which pending asynchronous causes are taken (R370).
-/

namespace Sys2Proof.Machine

/-- The causes of R371, in the order of their codes. -/
inductive Cause where
  | illZeroWord
  | illOnesWord
  | illReservedMajor
  | illFunction
  | illPrefix
  | illPriv
  | badTarget
  | trapCall
  | breakpoint
  | handlerBlock
  | strandKind
  | vecUngranted
  | vecLength
  | composeState
  | ctxState
  | repBody
  | misaligned
  | localRange
  | peerRange
  | istoreRange
  | pfAddress
  | pfNotValid
  | pfEntry
  | pfUser
  | pfRead
  | pfWrite
  | pfKey
  | keyDead
  | busError
  | memAttr
  | utAlias
  | xlateStuck
  | fpException
  | launchArg
  | engineArg
  | engineOwner
  | timelineArg
  | counterRange
  | tableArg
  | tableFull
  | collMismatch
  | queueFormat
  | imageFormat
  | imageLevel
  | imageFit
  | imageSeal
  | imageMemory
  | fwImage
  | msgFormat
  | handleDenied
  | queueGone
  | linkGone
  | gustOwner
  | sysMessage
  | msgBounce
  | tailWatch
  | aq0Overflow
  | spanDown
  | mailboxFault
  | queueFault
  | grantStale
  | meshUe
  | d2dFail
  | hostlinkFail
  | matOwner
  | matOperand
  | gangMismatch
  | gangState
  | gangTimeout
  | lockArea
  | lockMismatch
  | repState
  | accUe
  | paccUe
  | wbufUe
  | abufParity
  | cbParity
  | rowBusCrc
  | claspFault
  | rowSwitch
  | winOverflow
  | winUnderflow
  | retEmpty
  | preempt
  | freeze
  | cancel
  | xlateRefused
  | sramUe
  | regParity
  | watch
  | singleStep
  | debugHalt
  | tick
  | doubleTrap
  | fwUpdate
  | alarm
  deriving DecidableEq, Repr

namespace Cause

/-- The code of a cause (R371). -/
def code : Cause → Nat
  | .illZeroWord => 0
  | .illOnesWord => 1
  | .illReservedMajor => 2
  | .illFunction => 3
  | .illPrefix => 4
  | .illPriv => 5
  | .badTarget => 6
  | .trapCall => 7
  | .breakpoint => 8
  | .handlerBlock => 9
  | .strandKind => 10
  | .vecUngranted => 11
  | .vecLength => 12
  | .composeState => 13
  | .ctxState => 14
  | .repBody => 15
  | .misaligned => 16
  | .localRange => 17
  | .peerRange => 18
  | .istoreRange => 19
  | .pfAddress => 20
  | .pfNotValid => 21
  | .pfEntry => 22
  | .pfUser => 23
  | .pfRead => 24
  | .pfWrite => 25
  | .pfKey => 26
  | .keyDead => 27
  | .busError => 28
  | .memAttr => 29
  | .utAlias => 30
  | .xlateStuck => 31
  | .fpException => 32
  | .launchArg => 33
  | .engineArg => 34
  | .engineOwner => 35
  | .timelineArg => 36
  | .counterRange => 37
  | .tableArg => 38
  | .tableFull => 39
  | .collMismatch => 40
  | .queueFormat => 41
  | .imageFormat => 42
  | .imageLevel => 43
  | .imageFit => 44
  | .imageSeal => 45
  | .imageMemory => 46
  | .fwImage => 47
  | .msgFormat => 48
  | .handleDenied => 49
  | .queueGone => 50
  | .linkGone => 51
  | .gustOwner => 52
  | .sysMessage => 53
  | .msgBounce => 54
  | .tailWatch => 55
  | .aq0Overflow => 56
  | .spanDown => 57
  | .mailboxFault => 58
  | .queueFault => 59
  | .grantStale => 60
  | .meshUe => 61
  | .d2dFail => 62
  | .hostlinkFail => 63
  | .matOwner => 64
  | .matOperand => 65
  | .gangMismatch => 66
  | .gangState => 67
  | .gangTimeout => 68
  | .lockArea => 69
  | .lockMismatch => 70
  | .repState => 71
  | .accUe => 72
  | .paccUe => 73
  | .wbufUe => 74
  | .abufParity => 75
  | .cbParity => 76
  | .rowBusCrc => 77
  | .claspFault => 78
  | .rowSwitch => 79
  | .winOverflow => 80
  | .winUnderflow => 81
  | .retEmpty => 82
  | .preempt => 83
  | .freeze => 84
  | .cancel => 85
  | .xlateRefused => 86
  | .sramUe => 87
  | .regParity => 88
  | .watch => 89
  | .singleStep => 90
  | .debugHalt => 91
  | .tick => 92
  | .doubleTrap => 93
  | .fwUpdate => 94
  | .alarm => 95

/-- Whether a cause is raised for a core and not for one strand (R369): system messages, TAIL_WATCH, TICK, errors, link failures, ALARM and
FW_UPDATE. -/
def forCore (c : Cause) : Bool :=
  [Cause.sysMessage, .tailWatch, .aq0Overflow, .tick, .alarm, .fwUpdate, .meshUe, .d2dFail, .hostlinkFail, .accUe, .paccUe, .wbufUe,
    .abufParity, .cbParity, .rowBusCrc, .claspFault, .sramUe, .regParity, .spanDown, .msgBounce, .grantStale, .queueFault, .rowSwitch].contains c

/-- The place of an asynchronous cause in the order A1 to A10 (R370); a cause that is never asynchronous comes last. -/
def order : Cause → Nat
  | .keyDead => 7
  | .busError => 7
  | .utAlias => 7
  | .collMismatch => 7
  | .sysMessage => 9
  | .msgBounce => 7
  | .tailWatch => 9
  | .aq0Overflow => 9
  | .spanDown => 8
  | .mailboxFault => 7
  | .queueFault => 9
  | .grantStale => 7
  | .meshUe => 2
  | .d2dFail => 8
  | .hostlinkFail => 8
  | .accUe => 2
  | .paccUe => 2
  | .wbufUe => 2
  | .abufParity => 2
  | .cbParity => 2
  | .rowBusCrc => 2
  | .claspFault => 2
  | .rowSwitch => 9
  | .preempt => 6
  | .freeze => 4
  | .cancel => 5
  | .sramUe => 2
  | .regParity => 2
  | .debugHalt => 3
  | .tick => 10
  | .fwUpdate => 4
  | .alarm => 1
  | .illZeroWord | .illOnesWord | .illReservedMajor | .illFunction | .illPrefix | .illPriv | .badTarget | .trapCall
  | .breakpoint | .handlerBlock | .strandKind | .vecUngranted | .vecLength | .composeState | .ctxState | .repBody
  | .misaligned | .localRange | .peerRange | .istoreRange | .pfAddress | .pfNotValid | .pfEntry | .pfUser | .pfRead | .pfWrite
  | .pfKey | .memAttr | .xlateStuck | .fpException | .launchArg | .engineArg | .engineOwner | .timelineArg | .counterRange
  | .tableArg | .tableFull | .queueFormat | .imageFormat | .imageLevel | .imageFit | .imageSeal | .imageMemory | .fwImage
  | .msgFormat | .handleDenied | .queueGone | .linkGone | .gustOwner | .matOwner | .matOperand | .gangMismatch | .gangState
  | .gangTimeout | .lockArea | .lockMismatch | .repState | .winOverflow | .winUnderflow | .retEmpty | .xlateRefused | .watch
  | .singleStep | .doubleTrap => 11

end Cause

end Sys2Proof.Machine
end

