-- ==== Sys2Proof/Syntax.lean ====
section
/-!
DEFINITION. Syntax: the ONE inductive of everything the part can do in one step (spec/opcode_table.json): 217
instruction words of the native encoding (R72 to R100), with the fields the table gives them, and 120 events of the
part and of its surroundings (spec/95_what_each_step_holds.md). An event's arguments, which name the unit it concerns, are data
of an `EventArgs` record that the state holds while the event happens; only the fate of a word takes its word along.
-/

namespace Sys2Proof

/-- A 5-bit register specifier (R73): a scalar register, or the number of a v, k, acc or pacc register. -/
abbrev Reg := BitVec 5

/-- What a boot meets (R398 to R400, log 19): the outcome of the ROM's two signature checks, the bundle's security version,
the settings of the configuration blob, and the bytes that are measured. -/
structure Boot where
  signaturesVerify : Bool
  version : Nat
  powerLimit : Nat
  maxWeight : Nat
  spanEnable : Bool
  debugPolicy : Nat
  homeHashAgreed : Bool
  identity : List (BitVec 8)
  firmware : List (BitVec 8)
  blob : List (BitVec 8)
  deriving DecidableEq, Repr

/-- A record of a confidential channel (R402): the physical address at which it lies, in the host-written ring or in the mailbox, as the
session named them; and, for one that the device sends, its plaintext. -/
structure ChannelRecord where
  address : Nat
  plaintext : List (BitVec 8)
  deriving DecidableEq, Repr

/-- A debug authorisation shifted in by AUTH (R412): whether both signatures verify over its own fields; the serial number and the nonce
that it carries, the debug states it permits and the key slots it names. -/
structure DebugAuth where
  verifies : Bool
  serial : List (BitVec 8) := []
  nonce : BitVec 64 := 0
  states : List Nat
  slots : List Nat
  deriving DecidableEq, Repr

/-- A request of DBG_REQ (R411): the debug state asked for (0 Off, 1 Observe, 2 Halt, 3 Frost) and the strand it concerns. -/
structure DebugRequest where
  state : Nat
  core : Nat
  slot : Nat
  step : Bool
  watch : List (BitVec 64)
  deriving DecidableEq, Repr

/-- A flit received from the Kutric Span (R418, R420): whether its CRC and its zero fields hold, and the seal of its record. `address` is
where page data lies, or the message's place; `job` the job of a message's target, which travels below its header (R376). -/
structure SpanFlit where
  seq : Nat
  ack : Nat
  cls : Nat
  crcOk : Bool
  gcmOk : Bool
  address : Nat
  job : Option Nat := none
  payload : List (BitVec 8)
  deriving DecidableEq, Repr

/-- A SPAN-scope atomic that reaches this box (R283): the page's place in its region, the physical address, the operation as in
R81, its width in bytes, and its operands. -/
structure SpanAtomic where
  page : Nat
  address : Nat
  op : Nat
  bytes : Nat
  operand : BitVec 64
  expected : BitVec 64
  deriving DecidableEq, Repr

/-- The arguments of an event, each by the name of what it numbers; an event reads those its description uses. -/
structure EventArgs where
  /-- A core, flat number (R15). -/
  core : Nat := 0
  /-- A slot of that core. -/
  slot : Nat := 0
  /-- A context of an engine, or a register bank. -/
  ctx : Nat := 0
  /-- A die. -/
  die : Nat := 0
  /-- A launch queue. -/
  queue : Nat := 0
  /-- A cluster row. -/
  row : Nat := 0
  /-- A launch, or the number of an instance. -/
  launch : Nat := 0
  /-- A line of memory: physical address divided by 128. -/
  line : Nat := 0
  /-- A place in a list or a table. -/
  index : Nat := 0
  /-- One of a few kinds, as the event's description numbers them. -/
  kind : Nat := 0
  /-- A measured amount. -/
  amount : Nat := 0
  /-- A 64-bit value or address. -/
  word : BitVec 64 := 0
  /-- A yes or no of the event. -/
  flag : Bool := false
  /-- A second one. -/
  flag2 : Bool := false
  /-- A message's bytes. -/
  bytes : List (BitVec 8) := []
  boot : Boot := { signaturesVerify := true, version := 0, powerLimit := 0, maxWeight := 0, spanEnable := false, debugPolicy := 0, homeHashAgreed := true, identity := [], firmware := [], blob := [] }
  record : ChannelRecord := { address := 0, plaintext := [] }
  auth : DebugAuth := { verifies := false, states := [], slots := [] }
  request : DebugRequest := { state := 0, core := 0, slot := 0, step := false, watch := [] }
  flit : SpanFlit := { seq := 0, ack := 0, cls := 0, crcOk := true, gcmOk := true, address := 0, payload := [] }
  atomic : SpanAtomic := { page := 0, address := 0, op := 0, bytes := 0, operand := 0, expected := 0 }
  deriving DecidableEq, Repr

/-- One constructor per row of spec/opcode_table.json: the words, then the fate of a word, then the events, each in the table's
order. -/
inductive Instr where
  /-- SRD (R126). Reads a system register into a scalar register. -/
  | srd (d : Reg) (n : BitVec 11)
  /-- SWR (R126). Writes a scalar register into a system register under the rules of that register. -/
  | swr (a : Reg) (n : BitVec 11)
  /-- TRAP (R127). Enters the micro-kernel with TRAP_CALL and the code in INFO. -/
  | trap (c : BitVec 11)
  /-- ERET (R128). Returns from a trap to EPC, restoring MODE and IE and clearing NEST. -/
  | eret
  /-- BRK (R127). Enters the micro-kernel with BREAK and the code in INFO. -/
  | brk (c : BitVec 11)
  /-- WFM (R129). Waits until a selected arrival queue holds an unbound arrival, without taking it. -/
  | wfm (m : BitVec 4)
  /-- EXIT (R130). Ends a resident strand with a SYSTEM release and frees its slot. -/
  | exit
  /-- CKPT (R164). Checks the checkpoint area and, in a lockstep pair, commits held effects and writes a checkpoint image. -/
  | ckpt (a : Reg) (c : BitVec 2)
  /-- TLBINV (R132). Supervisor shootdown of a page, an address space or all translations, retiring when complete. -/
  | tlbinv (a : Reg) (k : BitVec 11)
  /-- CTXSV (R133). Supervisor save of one part of a slot's state to memory, in steps. -/
  | ctxsv (s : Reg) (a : Reg) (p : BitVec 11)
  /-- CTXLD (R133). Supervisor load of one part of a slot's state from memory after checking it, in steps. -/
  | ctxld (s : Reg) (a : Reg) (p : BitVec 11)
  /-- ADD (R117). Wrapping 64-bit addition. -/
  | add (d : Reg) (a : Reg) (b : Reg)
  /-- SUB (R117). Wrapping 64-bit subtraction. -/
  | sub (d : Reg) (a : Reg) (b : Reg)
  /-- AND (R117). Bitwise AND. -/
  | and (d : Reg) (a : Reg) (b : Reg)
  /-- OR (R117). Bitwise OR. -/
  | or (d : Reg) (a : Reg) (b : Reg)
  /-- XOR (R117). Bitwise XOR. -/
  | xor (d : Reg) (a : Reg) (b : Reg)
  /-- ANDN (R117). wa AND NOT wb. -/
  | andn (d : Reg) (a : Reg) (b : Reg)
  /-- SHL (R117). Left shift by wb[5:0]. -/
  | shl (d : Reg) (a : Reg) (b : Reg)
  /-- SHR (R117). Logical right shift by wb[5:0]. -/
  | shr (d : Reg) (a : Reg) (b : Reg)
  /-- SRA (R117). Arithmetic right shift by wb[5:0]. -/
  | sra (d : Reg) (a : Reg) (b : Reg)
  /-- ROT (R117). Rotate right by wb[5:0]. -/
  | rot (d : Reg) (a : Reg) (b : Reg)
  /-- CLZ (R117). Counts leading zero bits. -/
  | clz (d : Reg) (a : Reg)
  /-- CTZ (R117). Counts trailing zero bits. -/
  | ctz (d : Reg) (a : Reg)
  /-- POPC (R117). Counts set bits. -/
  | popc (d : Reg) (a : Reg)
  /-- MIN (R117). Signed minimum. -/
  | min (d : Reg) (a : Reg) (b : Reg)
  /-- MAX (R117). Signed maximum. -/
  | max (d : Reg) (a : Reg) (b : Reg)
  /-- MINU (R117). Unsigned minimum. -/
  | minu (d : Reg) (a : Reg) (b : Reg)
  /-- MAXU (R117). Unsigned maximum. -/
  | maxu (d : Reg) (a : Reg) (b : Reg)
  /-- SEL (R117). Selects wa if the old wd is non-zero, else wb. -/
  | sel (d : Reg) (a : Reg) (b : Reg)
  /-- CMPEQ (R117). Sets wd to 1 if equal, else 0. -/
  | cmpeq (d : Reg) (a : Reg) (b : Reg)
  /-- CMPLT (R117). Sets wd to 1 if signed less, else 0. -/
  | cmplt (d : Reg) (a : Reg) (b : Reg)
  /-- CMPLTU (R117). Sets wd to 1 if unsigned less, else 0. -/
  | cmpltu (d : Reg) (a : Reg) (b : Reg)
  /-- ADDI (R118). Adds a sign-extended immediate. -/
  | addi (d : Reg) (a : Reg) (i : BitVec 16)
  /-- ANDI (R118). ANDs a zero-extended immediate. -/
  | andi (d : Reg) (a : Reg) (i : BitVec 16)
  /-- ORI (R118). ORs a zero-extended immediate. -/
  | ori (d : Reg) (a : Reg) (i : BitVec 16)
  /-- XORI (R118). XORs a zero-extended immediate. -/
  | xori (d : Reg) (a : Reg) (i : BitVec 16)
  /-- SHLI (R118). Left shift by an immediate. -/
  | shli (d : Reg) (a : Reg) (s : BitVec 6)
  /-- SHRI (R118). Logical right shift by an immediate. -/
  | shri (d : Reg) (a : Reg) (s : BitVec 6)
  /-- SRAI (R118). Arithmetic right shift by an immediate. -/
  | srai (d : Reg) (a : Reg) (s : BitVec 6)
  /-- CMPEQI (R118). Sets wd to 1 if wa equals the immediate. -/
  | cmpeqi (d : Reg) (a : Reg) (i : BitVec 16)
  /-- CMPLTI (R118). Sets wd to 1 if wa is signed less than the immediate. -/
  | cmplti (d : Reg) (a : Reg) (i : BitVec 16)
  /-- MOVHI (R118). Writes the immediate times 65,536. -/
  | movhi (d : Reg) (i : BitVec 16)
  /-- ADDPC (R118). Writes PC plus the immediate times 65,536. -/
  | addpc (d : Reg) (i : BitVec 16)
  /-- MUL (R119). Low 64 bits of the product. -/
  | mul (d : Reg) (a : Reg) (b : Reg)
  /-- MULH (R119). High 64 bits of the signed product. -/
  | mulh (d : Reg) (a : Reg) (b : Reg)
  /-- MULHU (R119). High 64 bits of the unsigned product. -/
  | mulhu (d : Reg) (a : Reg) (b : Reg)
  /-- DIV (R119). Signed quotient as R50. -/
  | div (d : Reg) (a : Reg) (b : Reg)
  /-- DIVU (R119). Unsigned quotient as R50. -/
  | divu (d : Reg) (a : Reg) (b : Reg)
  /-- REM (R119). Signed remainder as R50. -/
  | rem (d : Reg) (a : Reg) (b : Reg)
  /-- REMU (R119). Unsigned remainder as R50. -/
  | remu (d : Reg) (a : Reg) (b : Reg)
  /-- FADD (R120). f32 addition in the FPCTL mode. -/
  | fadd (d : Reg) (a : Reg) (b : Reg)
  /-- FSUB (R120). f32 subtraction. -/
  | fsub (d : Reg) (a : Reg) (b : Reg)
  /-- FMUL (R120). f32 multiplication. -/
  | fmul (d : Reg) (a : Reg) (b : Reg)
  /-- FFMA (R120). f32 fused multiply-add into the old wd, one rounding. -/
  | ffma (d : Reg) (a : Reg) (b : Reg)
  /-- FDIV (R120). f32 division. -/
  | fdiv (d : Reg) (a : Reg) (b : Reg)
  /-- FSQRT (R120). f32 square root. -/
  | fsqrt (d : Reg) (a : Reg)
  /-- FMIN (R120). f32 minimum, NaN giving canonical NaN. -/
  | fmin (d : Reg) (a : Reg) (b : Reg)
  /-- FMAX (R120). f32 maximum. -/
  | fmax (d : Reg) (a : Reg) (b : Reg)
  /-- FCMP (R121). f32 comparison by predicate, writing 1 or 0. -/
  | fcmp (d : Reg) (a : Reg) (b : Reg) (p : BitVec 2)
  /-- FCVTIF (R121). Integer to f32 conversion. -/
  | fcvtif (d : Reg) (a : Reg) (m : BitVec 2)
  /-- FCVTFI (R121). f32 to integer conversion by R58. -/
  | fcvtfi (d : Reg) (a : Reg) (m : BitVec 3)
  /-- BEQ (R122). Branches if equal; smaller specifier in srcA. -/
  | beq (a : Reg) (b : Reg) (o : BitVec 16)
  /-- BNE (R122). Branches if different; larger specifier in srcA. -/
  | bne (a : Reg) (b : Reg) (o : BitVec 16)
  /-- JL (R123). Jump and link, encoded with srcA equal to srcB. -/
  | jl (s : Reg) (o : BitVec 16)
  /-- BLT (R122). Branches if signed less. -/
  | blt (a : Reg) (b : Reg) (o : BitVec 16)
  /-- BGE (R122). Branches if signed greater or equal. -/
  | bge (a : Reg) (b : Reg) (o : BitVec 16)
  /-- BLTU (R122). Branches if unsigned less. -/
  | bltu (a : Reg) (b : Reg) (o : BitVec 11)
  /-- BGEU (R122). Branches if unsigned greater or equal. -/
  | bgeu (a : Reg) (b : Reg) (o : BitVec 11)
  /-- JR (R123). Jumps to the address in wa. -/
  | jr (a : Reg)
  /-- CALLR (R125). Calls the address in wa, opening a new window frame. -/
  | callr (a : Reg)
  /-- RET (R125). Returns to RPC, closing the current frame. -/
  | ret
  /-- J (R123). Jumps by a 26-bit word offset. -/
  | j (o : BitVec 26)
  /-- CALL (R125). Calls by a 26-bit word offset, opening a new frame. -/
  | call (o : BitVec 26)
  /-- LDB (R228). Loads a sign-extended byte. -/
  | ldb (d : Reg) (a : Reg) (o : BitVec 13)
  /-- LDBU (R228). Loads a zero-extended byte. -/
  | ldbu (d : Reg) (a : Reg) (o : BitVec 13)
  /-- LDH (R228). Loads a sign-extended half-word. -/
  | ldh (d : Reg) (a : Reg) (o : BitVec 13)
  /-- LDHU (R228). Loads a zero-extended half-word. -/
  | ldhu (d : Reg) (a : Reg) (o : BitVec 13)
  /-- LDW (R228). Loads a sign-extended word. -/
  | ldw (d : Reg) (a : Reg) (o : BitVec 13)
  /-- LDWU (R228). Loads a zero-extended word. -/
  | ldwu (d : Reg) (a : Reg) (o : BitVec 13)
  /-- LDD (R228). Loads a double-word. -/
  | ldd (d : Reg) (a : Reg) (o : BitVec 13)
  /-- STB (R228). Stores a byte. -/
  | stb (s : Reg) (a : Reg) (o : BitVec 13)
  /-- STH (R228). Stores a half-word. -/
  | sth (s : Reg) (a : Reg) (o : BitVec 13)
  /-- STW (R228). Stores a word. -/
  | stw (s : Reg) (a : Reg) (o : BitVec 13)
  /-- STD (R228). Stores a double-word. -/
  | std (s : Reg) (a : Reg) (o : BitVec 13)
  /-- AMOADD (R233). Atomic add returning the old value. -/
  | amoadd (d : Reg) (a : Reg) (b : Reg) (w : BitVec 1)
  /-- AMOAND (R233). Atomic AND. -/
  | amoand (d : Reg) (a : Reg) (b : Reg) (w : BitVec 1)
  /-- AMOOR (R233). Atomic OR. -/
  | amoor (d : Reg) (a : Reg) (b : Reg) (w : BitVec 1)
  /-- AMOXOR (R233). Atomic XOR. -/
  | amoxor (d : Reg) (a : Reg) (b : Reg) (w : BitVec 1)
  /-- AMOMIN (R233). Atomic signed minimum. -/
  | amomin (d : Reg) (a : Reg) (b : Reg) (w : BitVec 1)
  /-- AMOMAX (R233). Atomic signed maximum. -/
  | amomax (d : Reg) (a : Reg) (b : Reg) (w : BitVec 1)
  /-- AMOMINU (R233). Atomic unsigned minimum. -/
  | amominu (d : Reg) (a : Reg) (b : Reg) (w : BitVec 1)
  /-- AMOMAXU (R233). Atomic unsigned maximum. -/
  | amomaxu (d : Reg) (a : Reg) (b : Reg) (w : BitVec 1)
  /-- AMOSWP (R233). Atomic swap. -/
  | amoswp (d : Reg) (a : Reg) (b : Reg) (w : BitVec 1)
  /-- AMOCAS (R233). Atomic compare-and-swap against the old wd. -/
  | amocas (d : Reg) (a : Reg) (b : Reg) (w : BitVec 1)
  /-- AMOFADD (R233). Atomic f32 add with RNE, 32-bit only. -/
  | amofadd (d : Reg) (a : Reg) (b : Reg)
  /-- FENCE (R235). Orders the strand's own accesses by class at a scope. -/
  | fence (s : BitVec 3) (c : BitVec 3)
  /-- WAITA (R236). Waits until a memory word differs from an expected value and returns it with acquire. -/
  | waita (d : Reg) (a : Reg) (b : Reg) (w : BitVec 1)
  /-- FLUSHR (R237). Hands a range write-back to the cache walker with a barrier word. -/
  | flushr (c : Reg) (a : Reg) (b : Reg)
  /-- INVR (R237). Hands a range invalidation to the cache walker with a barrier word. -/
  | invr (c : Reg) (a : Reg) (b : Reg)
  /-- PREF (R240). Prefetches a line, never trapping beyond its word checks. -/
  | pref (a : Reg) (i : BitVec 2)
  /-- VLD (R231). Loads consecutive 32-bit elements into active lanes. -/
  | vld (d : Reg) (a : Reg) (m : BitVec 1) (k : BitVec 3)
  /-- VST (R231). Stores active lanes to consecutive elements. -/
  | vst (d : Reg) (a : Reg) (m : BitVec 1) (k : BitVec 3)
  /-- VLDS (R231). Strided vector load, one step per lane. -/
  | vlds (d : Reg) (a : Reg) (s : Reg) (m : BitVec 1) (k : BitVec 3)
  /-- VSTS (R231). Strided vector store, one step per lane. -/
  | vsts (d : Reg) (a : Reg) (s : Reg) (m : BitVec 1) (k : BitVec 3)
  /-- VGATH (R231). Indexed vector gather, one step per lane. -/
  | vgath (d : Reg) (a : Reg) (b : Reg) (m : BitVec 1) (k : BitVec 3)
  /-- VSCAT (R231). Indexed vector scatter, one step per lane. -/
  | vscat (d : Reg) (a : Reg) (b : Reg) (m : BitVec 1) (k : BitVec 3)
  /-- MOD (R85). Prefix word setting the memory attributes of the following access. -/
  | mod (u : BitVec 4) (p : BitVec 2) (e : BitVec 2) (s : BitVec 3) (c : BitVec 3)
  /-- EXT (R84). Prefix word widening the immediate of the following word. -/
  | ext (e : BitVec 26)
  /-- VADD (R142). Vector floating-point addition. -/
  | vadd (d : Reg) (a : Reg) (b : Reg) (t : BitVec 3) (s : BitVec 4) (x : BitVec 1)
  /-- VSUB (R142). Vector floating-point subtraction. -/
  | vsub (d : Reg) (a : Reg) (b : Reg) (t : BitVec 3) (s : BitVec 4) (x : BitVec 1)
  /-- VMUL (R142). Vector floating-point multiplication. -/
  | vmul (d : Reg) (a : Reg) (b : Reg) (t : BitVec 3) (s : BitVec 4) (x : BitVec 1)
  /-- VFMA (R142). Vector fused multiply-add into the old vd. -/
  | vfma (d : Reg) (a : Reg) (b : Reg) (t : BitVec 3) (s : BitVec 4) (x : BitVec 1)
  /-- VMIN (R142). Vector floating-point minimum. -/
  | vmin (d : Reg) (a : Reg) (b : Reg) (t : BitVec 3) (s : BitVec 4) (x : BitVec 1)
  /-- VMAX (R142). Vector floating-point maximum. -/
  | vmax (d : Reg) (a : Reg) (b : Reg) (t : BitVec 3) (s : BitVec 4) (x : BitVec 1)
  /-- VABS (R142). Clears the sign bit of each value. -/
  | vabs (d : Reg) (a : Reg) (t : BitVec 3) (s : BitVec 4)
  /-- VNEG (R142). Inverts the sign bit of each value. -/
  | vneg (d : Reg) (a : Reg) (t : BitVec 3) (s : BitVec 4)
  /-- VRCP (R143). Per-lane reciprocal rounded to bf16. -/
  | vrcp (d : Reg) (a : Reg)
  /-- VRSQ (R143). Per-lane reciprocal square root rounded to bf16. -/
  | vrsq (d : Reg) (a : Reg)
  /-- VEXP2 (R143). Per-lane power of two rounded to bf16. -/
  | vexp2 (d : Reg) (a : Reg)
  /-- VLOG2 (R143). Per-lane base-2 logarithm rounded to bf16. -/
  | vlog2 (d : Reg) (a : Reg)
  /-- VCVT (R144). Converts between f32 and i32 or u32 within a lane. -/
  | vcvt (d : Reg) (a : Reg) (t : BitVec 3)
  /-- VPACK (R145). Narrows lanes into a part of each destination lane. -/
  | vpack (d : Reg) (a : Reg) (b : Reg) (t : BitVec 3) (s : BitVec 4)
  /-- VUNPACK (R146). Widens one narrow value per lane. -/
  | vunpack (d : Reg) (a : Reg) (t : BitVec 3) (s : BitVec 4)
  /-- VQNT (R147). Quantises 32 f32 lanes to an MX block with its scale. -/
  | vqnt (d : Reg) (a : Reg) (t : BitVec 3)
  /-- VIADD (R148). Vector integer addition. -/
  | viadd (d : Reg) (a : Reg) (b : Reg) (t : BitVec 3) (s : BitVec 4) (x : BitVec 1)
  /-- VISUB (R148). Vector integer subtraction. -/
  | visub (d : Reg) (a : Reg) (b : Reg) (t : BitVec 3) (s : BitVec 4) (x : BitVec 1)
  /-- VIMUL (R148). Vector integer multiplication. -/
  | vimul (d : Reg) (a : Reg) (b : Reg) (t : BitVec 3) (s : BitVec 4) (x : BitVec 1)
  /-- VIMAC (R148). Vector integer multiply-accumulate into the old vd. -/
  | vimac (d : Reg) (a : Reg) (b : Reg) (t : BitVec 3) (s : BitVec 4) (x : BitVec 1)
  /-- VSHL (R148). Vector left shift. -/
  | vshl (d : Reg) (a : Reg) (b : Reg) (t : BitVec 3) (s : BitVec 4) (x : BitVec 1)
  /-- VSHR (R148). Vector logical right shift. -/
  | vshr (d : Reg) (a : Reg) (b : Reg) (t : BitVec 3) (s : BitVec 4) (x : BitVec 1)
  /-- VSRA (R148). Vector arithmetic right shift. -/
  | vsra (d : Reg) (a : Reg) (b : Reg) (t : BitVec 3) (s : BitVec 4) (x : BitVec 1)
  /-- VCMP (R149). Writes a mask from a per-lane predicate. -/
  | vcmp (k : Reg) (a : Reg) (b : Reg) (t : BitVec 3)
  /-- VSEL (R150). Selects lanes by a mask register. -/
  | vsel (d : Reg) (a : Reg) (b : Reg) (n : BitVec 3)
  /-- VAND (R150). Lane-wise bitwise AND. -/
  | vand (d : Reg) (a : Reg) (b : Reg)
  /-- VOR (R150). Lane-wise bitwise OR. -/
  | vor (d : Reg) (a : Reg) (b : Reg)
  /-- VXOR (R150). Lane-wise bitwise XOR. -/
  | vxor (d : Reg) (a : Reg) (b : Reg)
  /-- KAND (R151). Mask AND. -/
  | kand (d : Reg) (a : Reg) (b : Reg)
  /-- KOR (R151). Mask OR. -/
  | kor (d : Reg) (a : Reg) (b : Reg)
  /-- KNOT (R151). Mask NOT. -/
  | knot (d : Reg) (a : Reg)
  /-- KPOPC (R151). Counts set mask bits among active lanes into a scalar. -/
  | kpopc (d : Reg) (a : Reg)
  /-- VGRANT (R140). Requests or releases the vector register and length grant. -/
  | vgrant (d : Reg) (a : Reg) (t : BitVec 3)
  /-- VREDADD (R152). Tree sum of active lanes into a scalar. -/
  | vredadd (d : Reg) (a : Reg) (t : BitVec 3)
  /-- VREDMAX (R152). Tree maximum of active lanes into a scalar. -/
  | vredmax (d : Reg) (a : Reg) (t : BitVec 3)
  /-- VREDMIN (R152). Tree minimum of active lanes into a scalar. -/
  | vredmin (d : Reg) (a : Reg) (t : BitVec 3)
  /-- VPERM (R153). Permutes lanes by indices in vb. -/
  | vperm (d : Reg) (a : Reg) (b : Reg)
  /-- VSLIDE (R153). Slides lanes by a signed scalar offset. -/
  | vslide (d : Reg) (a : Reg) (s : Reg)
  /-- VBCAST (R153). Broadcasts a scalar into every active lane. -/
  | vbcast (d : Reg) (s : Reg)
  /-- VEXTR (R153). Extracts one lane into a scalar. -/
  | vextr (d : Reg) (a : Reg) (s : Reg)
  /-- VINS (R153). Inserts a scalar into one lane. -/
  | vins (d : Reg) (w : Reg) (s : Reg)
  /-- NPUT (R156). Writes a value into a link register of another logical core, waiting while it is full. -/
  | nput (a : Reg) (n : BitVec 3) (o : BitVec 6)
  /-- NGET (R156). Waits for and takes the own link register's value. -/
  | nget (d : Reg) (n : BitVec 3)
  /-- NTRY (R156). Takes the own link value if present, with status. -/
  | ntry (d : Reg) (n : BitVec 3)
  /-- NTRY_PUT (R156). Writes a remote link register if it is empty, with status. -/
  | ntryPut (d : Reg) (a : Reg) (n : BitVec 3) (o : BitVec 6)
  /-- NCLR (R156). Clears the own link register's presence. -/
  | nclr (n : BitVec 3)
  /-- CMPS (R159). Composes a cuff of 2, 4 or 8 S-cores. -/
  | cmps (k : BitVec 2)
  /-- DCMP (R160). Decomposes a cuff back to its leader. -/
  | dcmp
  /-- MGANG (R181). Opens or closes a gang session on the row clasp. -/
  | mgang (e : BitVec 1)
  /-- MWAIT (R182). Waits for the matrix queue or named accumulators to complete. -/
  | mwait (m : BitVec 8)
  /-- MZERO (R183). Queues zeroing of named acc or pacc registers. -/
  | mzero (p : BitVec 1) (m : BitVec 8)
  /-- MMOV (R184). Moves half a row between an acc or pacc and a vector register. -/
  | mmov (v : Reg) (a : Reg) (p : BitVec 1) (d : BitVec 1) (h : BitVec 1) (r : Reg)
  /-- MLDA (R185). Loads an A operand into an A half, with issue and data stages. -/
  | mlda (d : Reg) (a : Reg) (b : Reg) (g : BitVec 1) (h : BitVec 1) (l : BitVec 1)
  /-- MLDB (R186). Copies bytes into the weight buffer, with issue and data stages. -/
  | mldb (d : Reg) (a : Reg) (b : Reg) (l : BitVec 1)
  /-- MSTD (R190). Stores rows of an acc or pacc to memory, in row steps. -/
  | mstd (d : Reg) (a : Reg) (b : Reg) (p : BitVec 1) (l : BitVec 1)
  /-- MMA (R187). Queues a dense matrix product into an accumulator. -/
  | mma (d : Reg) (a : Reg) (g : BitVec 1) (h : BitVec 1) (z : BitVec 1) (f : BitVec 3)
  /-- MCB (R187). Queues a codebook matrix product into an accumulator. -/
  | mcb (d : Reg) (a : Reg) (g : BitVec 1) (h : BitVec 1) (z : BitVec 1) (s : BitVec 3)
  /-- MMX (R188). Queues exact MX block sums into pacc. -/
  | mmx (a : Reg) (g : BitVec 1) (h : BitVec 1) (f : BitVec 3) (p : BitVec 3)
  /-- MSCA (R189). Queues scaling of pacc sums into an accumulator. -/
  | msca (d : Reg) (a : Reg) (g : BitVec 1) (h : BitVec 1) (f : BitVec 3) (p : BitVec 3)
  /-- QPUSH (R287). Pushes a value into a queue register of a logical core, waiting for room. -/
  | qpush (a : Reg) (q : BitVec 3) (o : BitVec 6)
  /-- QPOP (R287). Waits for and pops the head of an own queue register. -/
  | qpop (d : Reg) (q : BitVec 3)
  /-- QPOP_AQ (R287). Waits for and takes the header of an unbound arrival of an arrival queue. -/
  | qpopAq (d : Reg) (n : BitVec 2)
  /-- QTRY (R287). Non-blocking pop of an own queue register with status. -/
  | qtry (d : Reg) (q : BitVec 3)
  /-- QTRY_AQ (R287). Non-blocking take of an unbound arrival header with status. -/
  | qtryAq (d : Reg) (n : BitVec 2)
  /-- QPUTT (R287). Non-blocking push to a remote queue register with status. -/
  | qputt (d : Reg) (a : Reg) (q : BitVec 3) (o : BitVec 6)
  /-- QDEPTH (R287). Returns the entries in an own queue register. -/
  | qdepth (d : Reg) (q : BitVec 3)
  /-- QDEPTH_AQ (R287). Returns the messages waiting in an arrival queue. -/
  | qdepthAq (d : Reg) (n : BitVec 2)
  /-- SEND (R298). Sends a message through a granted handle, waiting on backpressure. -/
  | send (a : Reg) (b : Reg)
  /-- SENDT (R298). Non-blocking message send with status. -/
  | sendt (d : Reg) (a : Reg) (b : Reg)
  /-- RECV (R299). Waits for and takes the oldest unbound message of an arrival queue. -/
  | recv (d : Reg) (n : BitVec 2)
  /-- RECVT (R299). Non-blocking take of an unbound message with status. -/
  | recvt (d : Reg) (n : BitVec 2)
  /-- HRET (R300). Ends a handler or gust strand with a SYSTEM release. -/
  | hret
  /-- GUST (R304). Moves the strand's context as a gust to the owner of an address. -/
  | gust (a : Reg)
  /-- GSPAWN (R304). Sends a copy of the strand's context as a gust to the owner of an address. -/
  | gspawn (a : Reg)
  /-- REPB (R290). Captures the following words as a repetition body. -/
  | repb (n : Reg)
  /-- REPE (R291). Starts the repetition sequencer with a count and stagger. -/
  | repe (a : Reg) (s : Reg)
  /-- REPWAIT (R292). Waits until the sequencer has completed every iteration. -/
  | repwait
  /-- CPY (R314). Issues a linear copy to a copy context, returning its ticket. -/
  | cpy (d : Reg) (a : Reg) (b : Reg) (c : BitVec 2) (s : BitVec 2) (e : BitVec 2)
  /-- CPY2D (R314). Issues a two-dimensional strided copy. -/
  | cpy2d (d : Reg) (a : Reg) (b : Reg) (c : BitVec 2) (s : BitVec 2) (e : BitVec 2)
  /-- CPYN (R314). Issues a copy followed by a completion word write to a PEER address. -/
  | cpyn (d : Reg) (a : Reg) (b : Reg) (c : BitVec 2) (s : BitVec 2) (e : BitVec 2)
  /-- BATCH (R317). Closes the open batch of a copy context. -/
  | batch (c : BitVec 2)
  /-- COLL (R319). Issues a collective under a schedule from the table. -/
  | coll (d : Reg) (a : Reg) (b : Reg) (c : BitVec 3)
  /-- HASHC (R321). Bezel SHA-384 engine command. -/
  | hashc (d : Reg) (a : Reg) (b : Reg) (m : BitVec 2)
  /-- SIGNC (R321). Bezel signature sign or verify command. -/
  | signc (d : Reg) (a : Reg) (o : BitVec 2)
  /-- RNDG (R321). Bezel read of 64 random bits. -/
  | rndg (d : Reg)
  /-- TLWAIT (R341). Waits until a timeline reaches a ticket, with acquire. -/
  | tlwait (a : Reg) (t : Reg)
  /-- TLWAITB (R342). Waits until at most N batches of a copy context are outstanding. -/
  | tlwaitb (n : Reg) (t : Reg)
  /-- TLREAD (R343). Reads REACHED or ISSUED of a timeline. -/
  | tlread (d : Reg) (i : BitVec 1) (t : Reg)
  /-- CNTWAIT (R347). Waits until a window counter is reached and returns it. -/
  | cntwait (d : Reg) (a : Reg) (b : Reg)
  /-- CANCEL (R348). Cancels the live instances of a level named by a counter. -/
  | cancel (a : Reg) (l : BitVec 3)
  /-- PHADV (R359). Publishes untracked writes and raises the core's PHASE. -/
  | phadv (d : Reg)
  /-- PHREAD (R360). Waits until GPHASE exceeds a value and returns it. -/
  | phread (d : Reg) (a : Reg)
  /-- PCNT (R362). Reads, selects the event of, or writes a performance counter. -/
  | pcnt (d : Reg) (a : Reg) (b : Reg) (f : BitVec 2)
  /-- LAUNCH (R312). Places a launch descriptor in the die's ready pool from device code. -/
  | launch (d : Reg) (a : Reg)
  /-- CBLOAD (R331). Loads a codebook slot from memory. -/
  | cbload (a : Reg) (s : BitVec 3)
  /-- HTSET (R326). Writes or removes a handler table entry. -/
  | htset (a : Reg) (b : Reg)
  /-- EPREQ (R329). Asks the Bezel to make, remove or define endpoints, with status. -/
  | epreq (d : Reg) (a : Reg) (f : BitVec 3)
  /-- OWNSET (R334). Writes a gust owner rule. -/
  | ownset (a : Reg) (b : Reg)
  /-- CMAP (R328). Creates, writes or frees a core map. -/
  | cmap (d : Reg) (a : Reg) (b : Reg) (h : BitVec 1) (f : BitVec 2)
  /-- URTSET (R333). Supervisor write of an untracked range table entry. -/
  | urtset (a : Reg) (b : Reg)
  /-- SCHSET (R335). Installs a collective schedule from an image. -/
  | schset (a : Reg) (b : Reg) (f : BitVec 1)
  /-- SEQNEW (R332). Supervisor request for a new key slot with a fresh key. -/
  | seqnew (d : Reg)
  /-- SEQEND (R332). Supervisor end of a sequence, killing its key slot. -/
  | seqend (a : Reg)
  /-- MEXT (R336). Bezel extend or read of a measurement register. -/
  | mext (a : Reg) (b : Reg) (x : BitVec 1) (n : BitVec 3)
  /-- HALIGN (R33). Hint stalling until cluster peers of the launch reach the same HALIGN. -/
  | halign (r : Reg) (i : BitVec 16)
  /-- HPREF (R89). Hint starting a line read into L1 without walking. -/
  | hpref (a : Reg) (i : BitVec 16)
  /-- HEVICT (R89). Hint marking an L1 line as next to replace. -/
  | hevict (r : Reg) (i : BitVec 16)
  /-- HPRIO (R89). Hint setting the strand's consecutive issue turns. -/
  | hprio (r : Reg) (i : BitVec 16)
  /-- HLIKELY (R89). Hint giving static prediction for the next branch. -/
  | hlikely (r : Reg) (i : BitVec 16)
  /-- NOT_AN_INSTRUCTION_WORD (R88). A fetched word whose fate is not an assigned instruction traps with its cause, or executes as a hint no-operation. -/
  | notAnInstructionWord (w : BitVec 32)
  /-- ASYNC_CAUSE_TAKEN (R367). A latched asynchronous cause is taken at the next instruction boundary with IE set. -/
  | asyncCauseTaken
  /-- WAIT_SATISFIED (R11). A strand blocked in WAITFOR resumes once its condition holds. -/
  | waitSatisfied
  /-- FAULT_REPLY (R214). The host's reply status in a fault record is seen and delivered to the faulting core. -/
  | faultReply
  /-- SLOT_FILL (R25). A free slot is filled with the first eligible pending start or head activation. -/
  | slotFill
  /-- GALE (R30). A launch wake message reaches a core, which records its pending starts. -/
  | gale
  /-- MESSAGE_ARRIVAL (R295). A message reaches an arrival queue of its target core. -/
  | messageArrival
  /-- GUST_ARRIVAL (R305). A gust reaches its owner and joins AQ3, the spill ring or is refused. -/
  | gustArrival
  /-- LINK_LANDING (R157). An accepted link value lands in its target register and sets presence. -/
  | linkLanding
  /-- QUEUE_PUSH_LANDING (R288). An accepted remote push lands in its target queue register. -/
  | queuePushLanding
  /-- CLASP_RELEASE (R175). The clasp compares the gang words and starts the operation on all eight cores. -/
  | claspRelease
  /-- GANG_TIMEOUT (R177). Row watchdog expiry traps every member waiting at the clasp. -/
  | gangTimeout
  /-- HALIGN_TIMEOUT (R33). A HALIGN stall ends after 256 cycles. -/
  | halignTimeout
  /-- MATRIX_ZEROING_DONE (R170). Zeroing of the matrix state for a new owner completes. -/
  | matrixZeroingDone
  /-- MATRIX_OP_COMPLETE (R173). A queued matrix operation writes its last element and leaves the queue. -/
  | matrixOpComplete
  /-- DATA_STAGE_COMPLETE (R174). An MLDA or MLDB data stage completes and TLM reaches its ticket. -/
  | dataStageComplete
  /-- LOCKSTEP_MISMATCH (R165). A compare mismatch rolls back to the last image or traps. -/
  | lockstepMismatch
  /-- BANK_RETENTION (R138). An unused vector bank enters retention after its idle time. -/
  | bankRetention
  /-- COPY_COMMAND_COMPLETE (R315). An engine copy command completes and its timeline may advance. -/
  | copyCommandComplete
  /-- COLL_COMPLETE (R320). A collective's destination is complete and its ticket is reached. -/
  | collComplete
  /-- BEZEL_ENGINE_COMPLETE (R321). A HASHC or SIGNC command completes on its timeline. -/
  | bezelEngineComplete
  /-- RANGE_WALK_COMPLETE (R239). The cache walker finishes a range and increments the barrier word. -/
  | rangeWalkComplete
  /-- INSTANCE_COMPLETION (R345). An instance of a work level completes and advances its counters. -/
  | instanceCompletion
  /-- NODE_DISPATCH (R351). The ready pool dispatches a ready node and sends its gale. -/
  | nodeDispatch
  /-- TAIL_WATCH (R307). The dispatcher rereads TAIL after its watched line is taken and accepts slots. -/
  | tailWatch
  /-- NOP_COMMAND (R308). Submission command that completes on acceptance. -/
  | nopCommand
  /-- LAUNCH_COMMAND (R310). Submission command placing a launch. -/
  | launchCommand
  /-- GRAPH (R311). Submission command placing N graph nodes. -/
  | graph
  /-- WAITCNT (R308). Submission command holding later commands until a counter is reached. -/
  | waitcnt
  /-- SIGNAL (R308). Submission command writing a word once earlier commands complete. -/
  | signal
  /-- PHASE_COMMAND (R308). Submission command closing the job's current phase. -/
  | phaseCommand
  /-- CANCEL_COMMAND (R348). Submission command cancelling instances of a level. -/
  | cancelCommand
  /-- TICK (R371). Periodic 8,192-cycle event driving metering, load averaging and ring rereads. -/
  | tick
  /-- PREEMPT (R373). A pre-emption request halts a strand at a boundary and saves it. -/
  | preempt
  /-- GPHASE_PUBLISH (R358). The isobar tree delivers a new minimum phase and caches drop clean untracked lines. -/
  | gphasePublish
  /-- DRDS (R269). Die request to the home to read a line shared. -/
  | drds
  /-- DRDX (R269). Die request to the home to read a line for ownership. -/
  | drdx
  /-- DUPG (R269). Die request to upgrade S or O to M without data. -/
  | dupg
  /-- DWB (R269). Die drop of a dirty line with data. -/
  | dwb
  /-- DEVICT (R269). Die drop of a clean line. -/
  | devict
  /-- DFWDS (R269). Home snoop telling the owner die to forward the line and keep it. -/
  | dfwds
  /-- DFWDX (R269). Home snoop telling the owner die to forward the line and give it up. -/
  | dfwdx
  /-- DINV (R269). Home snoop invalidating a die's copies. -/
  | dinv
  /-- DRSP (R269). Die answer to a snoop with kept state. -/
  | drsp
  /-- DCOMP (R270). Home notice that all invalidations for a request are answered. -/
  | dcomp
  /-- DDONE (R270). Requester notice to the home that the line is installed, ending busy. -/
  | ddone
  /-- DDATA (R269). Sealed line data with granted state and completion mark to a requester. -/
  | ddata
  /-- SNP_SHARED (R276). Host snoop asking for a shared copy. -/
  | snpShared
  /-- SNP_INV (R276). Host snoop invalidating the part's copies. -/
  | snpInv
  /-- INVAL (R210). Host shootdown message propagated to every die. -/
  | inval
  /-- SHOOTDOWN_COMPLETE (R211). A shootdown completes after all removals and affected accesses. -/
  | shootdownComplete
  /-- WB_ACK (R394). Host acceptance of a write-back, ending busy. -/
  | wbAck
  /-- CMP (R394). Host completion of Upgrade, Evict, WrNC or Persist. -/
  | cmp
  /-- ATOMIC_RSP (R394). Host return of an atomic's old value. -/
  | atomicRsp
  /-- DATA (R394). Host line data with granted state. -/
  | data
  /-- HOSTLINK_FAIL (R392). A UCIe module goes down and its traffic begins moving to the other module. -/
  | hostlinkFail
  /-- HOST_MODULE_FAILOVER (R392). Traffic of a failed module completes its move to the die's other module. -/
  | hostModuleFailover
  /-- D2D_FAIL (R371). Die-to-die retry count exhausted. -/
  | d2dFail
  /-- MESH_UE (R371). An uncorrectable mesh message is lost. -/
  | meshUe
  /-- SRAM_UE (R372). Uncorrectable SRAM error poisons the data and cancels its job. -/
  | sramUe
  /-- ACC_UE (R372). Uncorrectable accumulator error cancels the unit's launch. -/
  | accUe
  /-- PACC_UE (R372). Uncorrectable pacc error cancels the unit's launch. -/
  | paccUe
  /-- WBUF_UE (R372). Uncorrectable weight buffer error cancels the unit's launch. -/
  | wbufUe
  /-- ABUF_PARITY (R372). A buffer parity error cancels the unit's launch. -/
  | abufParity
  /-- CB_PARITY (R372). Codebook parity error cancels the unit's launch. -/
  | cbParity
  /-- ROW_BUS_CRC (R372). Damaged A-share on the row bus cancels the unit's launch. -/
  | rowBusCrc
  /-- CLASP_FAULT (R372). Clasp self-check failure cancels the unit's launch. -/
  | claspFault
  /-- REG_PARITY (R372). Register file parity error cancels the unit's launch. -/
  | regParity
  /-- ROW_SWITCH (R386). At a gang boundary of a shared row the micro-kernel switches matrix state. -/
  | rowSwitch
  /-- KEY_SWEEP_COMPLETE (R274). A die's L2 sweep of a dead slot ends; the slot becomes Free when all are done. -/
  | keySweepComplete
  /-- REGISTER (R397). Management operation creating a resident queue and its job. -/
  | register
  /-- TEARDOWN (R396). Management operation cancelling and removing a queue's job. -/
  | teardown
  /-- FREEZE (R378). Management operation freezing a job into a context image. -/
  | freeze
  /-- DRAIN_COMPLETE (R379). The job's in-flight message counts reach zero and the image is written. -/
  | drainComplete
  /-- RESUME (R384). Management operation checking and restoring a context image. -/
  | resume
  /-- SPAN_REGION (R396). Management operation declaring a Span region. -/
  | spanRegion
  /-- FW_UPDATE (R389). Management operation freezing all queues, resetting and resuming under new firmware. -/
  | fwUpdate
  /-- SPAN_JOIN (R419). Management operation authenticating the Span partner and deriving the link key. -/
  | spanJoin
  /-- FAULTQ (R217). Management operation registering the device fault queue. -/
  | faultq
  /-- SIDEBAND_REGISTER_WRITE (R395). Host write of a sideband register such as MGMT_BASE or BOOT_PA. -/
  | sidebandRegisterWrite
  /-- POWER_ON (R398). The Bezel ROM verifies the bundle, measures it and releases the cores. -/
  | powerOn
  /-- RESET (R413). A reset ends Frost and boots as after power-on. -/
  | reset
  /-- POWER_OFF (R414). The host removes power, losing all state. -/
  | powerOff
  /-- POWER_MEASURE (R415). Every 1,600 cycles the power manager adjusts the clock against the limit. -/
  | powerMeasure
  /-- THERMAL_TRIP (R416). Junction temperature reaches 115 °C and the part goes Off. -/
  | thermalTrip
  /-- ROW_GATE (R414). An idle row's matrix state is gated after 1,600,000 cycles. -/
  | rowGate
  /-- DIE_RETENTION_ENTRY (R414). A die with no strand and no pending start enters retention. -/
  | dieRetentionEntry
  /-- DIE_RETENTION_EXIT (R414). A retained die completes its wake after a gale, arrival or debug request. -/
  | dieRetentionExit
  /-- ALARM (R410). Tamper or glitch zeroises keys, kills slots and cancels sealed jobs. -/
  | alarm
  /-- GET_VERSION (R405). SPDM request for the supported version. -/
  | getVersion
  /-- GET_CAPABILITIES (R405). SPDM request for capabilities. -/
  | getCapabilities
  /-- NEGOTIATE_ALGORITHMS (R406). SPDM request selecting the fixed algorithm set. -/
  | negotiateAlgorithms
  /-- GET_DIGESTS (R405). SPDM request for certificate digests. -/
  | getDigests
  /-- GET_CERTIFICATE (R405). SPDM request for part of the slot 0 certificate chain. -/
  | getCertificate
  /-- CHALLENGE (R405). SPDM challenge signed with both keys. -/
  | challenge
  /-- GET_MEASUREMENTS (R405). SPDM request for signed measurement blocks. -/
  | getMeasurements
  /-- KEY_EXCHANGE (R405). SPDM ECDHE key exchange opening a secure session. -/
  | keyExchange
  /-- FINISH (R405). SPDM request finishing the secure session handshake. -/
  | finish
  /-- END_SESSION (R405). SPDM request ending the secure session and any lock. -/
  | endSession
  /-- LOCK_INTERFACE (R408). Vendor-defined request freezing the external configuration. -/
  | lockInterface
  /-- CHANNEL_OPEN (R402). Vendor-defined request opening a confidential channel to a sequence. -/
  | channelOpen
  /-- CHANNEL_RECORD (R403). A confidential channel record is checked and written sealed, or kills the channel. -/
  | channelRecord
  /-- IDCODE (R412). TAP instruction reading the identification code. -/
  | idcode
  /-- AUTH (R412). TAP instruction shifting in a debug authorisation. -/
  | auth
  /-- DBG_REQ (R411). TAP instruction requesting a debug state. -/
  | dbgReq
  /-- FROST_ENTER (R413). TAP instruction stopping all clocks, erasing sealed state if unauthorised. -/
  | frostEnter
  /-- SCAN_SELECT (R412). TAP instruction selecting a scan chain. -/
  | scanSelect
  /-- SCAN_READ (R412). TAP instruction reading the selected scan chain. -/
  | scanRead
  /-- BYPASS (R412). TAP bypass instruction; other codes alarm when Sealed. -/
  | bypass
  /-- SPAN_FLIT (R418). A Span flit is received, checked and delivered or replayed. -/
  | spanFlit
  /-- SPAN_RETRAIN (R420). After 16 replays the Span link retrains and SPAN_DOWN is raised. -/
  | spanRetrain
  /-- PAGE_REQ (R282). A Span page request makes the home box recall and hand over the page. -/
  | pageReq
  /-- SPAN_ATOMIC (R283). A SPAN-scope atomic arrives at the page's home box and is performed or refused. -/
  | spanAtomic
  /-- SPAN_LINK_TIMEOUT (R284). An access waiting on a down Span link traps after 1 ms. -/
  | spanLinkTimeout
  /-- HOST_ERROR_ANSWER (R200). The host answers an access with an error, failing a load precisely or raising BUS_ERROR asynchronously for a store already past its trap point. -/
  | hostErrorAnswer
  /-- HOST_PROTOCOL_ERROR (R394). A host message with an unknown OP or a non-zero reserved field is discarded and counted as a protocol error. -/
  | hostProtocolError
  /-- UNKNOWN_MANAGEMENT_OP (R396). A management request with an unassigned OP is refused with cause ILL_FUNCTION. -/
  | unknownManagementOp
  /-- UNSUPPORTED_REQUEST (R405). An SPDM request that the responder does not serve receives ERROR UnsupportedRequest. -/
  | unsupportedRequest
  /-- SPAN_LINK_RECOVERED (R284). The Span link returns after being down, and accesses that waited for a hand-over proceed. -/
  | spanLinkRecovered
  /-- CORRECTED_ERROR (R417). A corrected SRAM or link error raises no cause and is counted per array in the management registers. -/
  | correctedError
  deriving DecidableEq, Repr

namespace Instr

/-- Whether the constructor stands for a word of the encoding; the others are events and word fates. -/
def isWord : Instr → Bool
  | .srd _ _ => true
  | .swr _ _ => true
  | .trap _ => true
  | .eret => true
  | .brk _ => true
  | .wfm _ => true
  | .exit => true
  | .ckpt _ _ => true
  | .tlbinv _ _ => true
  | .ctxsv _ _ _ => true
  | .ctxld _ _ _ => true
  | .add _ _ _ => true
  | .sub _ _ _ => true
  | .and _ _ _ => true
  | .or _ _ _ => true
  | .xor _ _ _ => true
  | .andn _ _ _ => true
  | .shl _ _ _ => true
  | .shr _ _ _ => true
  | .sra _ _ _ => true
  | .rot _ _ _ => true
  | .clz _ _ => true
  | .ctz _ _ => true
  | .popc _ _ => true
  | .min _ _ _ => true
  | .max _ _ _ => true
  | .minu _ _ _ => true
  | .maxu _ _ _ => true
  | .sel _ _ _ => true
  | .cmpeq _ _ _ => true
  | .cmplt _ _ _ => true
  | .cmpltu _ _ _ => true
  | .addi _ _ _ => true
  | .andi _ _ _ => true
  | .ori _ _ _ => true
  | .xori _ _ _ => true
  | .shli _ _ _ => true
  | .shri _ _ _ => true
  | .srai _ _ _ => true
  | .cmpeqi _ _ _ => true
  | .cmplti _ _ _ => true
  | .movhi _ _ => true
  | .addpc _ _ => true
  | .mul _ _ _ => true
  | .mulh _ _ _ => true
  | .mulhu _ _ _ => true
  | .div _ _ _ => true
  | .divu _ _ _ => true
  | .rem _ _ _ => true
  | .remu _ _ _ => true
  | .fadd _ _ _ => true
  | .fsub _ _ _ => true
  | .fmul _ _ _ => true
  | .ffma _ _ _ => true
  | .fdiv _ _ _ => true
  | .fsqrt _ _ => true
  | .fmin _ _ _ => true
  | .fmax _ _ _ => true
  | .fcmp _ _ _ _ => true
  | .fcvtif _ _ _ => true
  | .fcvtfi _ _ _ => true
  | .beq _ _ _ => true
  | .bne _ _ _ => true
  | .jl _ _ => true
  | .blt _ _ _ => true
  | .bge _ _ _ => true
  | .bltu _ _ _ => true
  | .bgeu _ _ _ => true
  | .jr _ => true
  | .callr _ => true
  | .ret => true
  | .j _ => true
  | .call _ => true
  | .ldb _ _ _ => true
  | .ldbu _ _ _ => true
  | .ldh _ _ _ => true
  | .ldhu _ _ _ => true
  | .ldw _ _ _ => true
  | .ldwu _ _ _ => true
  | .ldd _ _ _ => true
  | .stb _ _ _ => true
  | .sth _ _ _ => true
  | .stw _ _ _ => true
  | .std _ _ _ => true
  | .amoadd _ _ _ _ => true
  | .amoand _ _ _ _ => true
  | .amoor _ _ _ _ => true
  | .amoxor _ _ _ _ => true
  | .amomin _ _ _ _ => true
  | .amomax _ _ _ _ => true
  | .amominu _ _ _ _ => true
  | .amomaxu _ _ _ _ => true
  | .amoswp _ _ _ _ => true
  | .amocas _ _ _ _ => true
  | .amofadd _ _ _ => true
  | .fence _ _ => true
  | .waita _ _ _ _ => true
  | .flushr _ _ _ => true
  | .invr _ _ _ => true
  | .pref _ _ => true
  | .vld _ _ _ _ => true
  | .vst _ _ _ _ => true
  | .vlds _ _ _ _ _ => true
  | .vsts _ _ _ _ _ => true
  | .vgath _ _ _ _ _ => true
  | .vscat _ _ _ _ _ => true
  | .mod _ _ _ _ _ => true
  | .ext _ => true
  | .vadd _ _ _ _ _ _ => true
  | .vsub _ _ _ _ _ _ => true
  | .vmul _ _ _ _ _ _ => true
  | .vfma _ _ _ _ _ _ => true
  | .vmin _ _ _ _ _ _ => true
  | .vmax _ _ _ _ _ _ => true
  | .vabs _ _ _ _ => true
  | .vneg _ _ _ _ => true
  | .vrcp _ _ => true
  | .vrsq _ _ => true
  | .vexp2 _ _ => true
  | .vlog2 _ _ => true
  | .vcvt _ _ _ => true
  | .vpack _ _ _ _ _ => true
  | .vunpack _ _ _ _ => true
  | .vqnt _ _ _ => true
  | .viadd _ _ _ _ _ _ => true
  | .visub _ _ _ _ _ _ => true
  | .vimul _ _ _ _ _ _ => true
  | .vimac _ _ _ _ _ _ => true
  | .vshl _ _ _ _ _ _ => true
  | .vshr _ _ _ _ _ _ => true
  | .vsra _ _ _ _ _ _ => true
  | .vcmp _ _ _ _ => true
  | .vsel _ _ _ _ => true
  | .vand _ _ _ => true
  | .vor _ _ _ => true
  | .vxor _ _ _ => true
  | .kand _ _ _ => true
  | .kor _ _ _ => true
  | .knot _ _ => true
  | .kpopc _ _ => true
  | .vgrant _ _ _ => true
  | .vredadd _ _ _ => true
  | .vredmax _ _ _ => true
  | .vredmin _ _ _ => true
  | .vperm _ _ _ => true
  | .vslide _ _ _ => true
  | .vbcast _ _ => true
  | .vextr _ _ _ => true
  | .vins _ _ _ => true
  | .nput _ _ _ => true
  | .nget _ _ => true
  | .ntry _ _ => true
  | .ntryPut _ _ _ _ => true
  | .nclr _ => true
  | .cmps _ => true
  | .dcmp => true
  | .mgang _ => true
  | .mwait _ => true
  | .mzero _ _ => true
  | .mmov _ _ _ _ _ _ => true
  | .mlda _ _ _ _ _ _ => true
  | .mldb _ _ _ _ => true
  | .mstd _ _ _ _ _ => true
  | .mma _ _ _ _ _ _ => true
  | .mcb _ _ _ _ _ _ => true
  | .mmx _ _ _ _ _ => true
  | .msca _ _ _ _ _ _ => true
  | .qpush _ _ _ => true
  | .qpop _ _ => true
  | .qpopAq _ _ => true
  | .qtry _ _ => true
  | .qtryAq _ _ => true
  | .qputt _ _ _ _ => true
  | .qdepth _ _ => true
  | .qdepthAq _ _ => true
  | .send _ _ => true
  | .sendt _ _ _ => true
  | .recv _ _ => true
  | .recvt _ _ => true
  | .hret => true
  | .gust _ => true
  | .gspawn _ => true
  | .repb _ => true
  | .repe _ _ => true
  | .repwait => true
  | .cpy _ _ _ _ _ _ => true
  | .cpy2d _ _ _ _ _ _ => true
  | .cpyn _ _ _ _ _ _ => true
  | .batch _ => true
  | .coll _ _ _ _ => true
  | .hashc _ _ _ _ => true
  | .signc _ _ _ => true
  | .rndg _ => true
  | .tlwait _ _ => true
  | .tlwaitb _ _ => true
  | .tlread _ _ _ => true
  | .cntwait _ _ _ => true
  | .cancel _ _ => true
  | .phadv _ => true
  | .phread _ _ => true
  | .pcnt _ _ _ _ => true
  | .launch _ _ => true
  | .cbload _ _ => true
  | .htset _ _ => true
  | .epreq _ _ _ => true
  | .ownset _ _ => true
  | .cmap _ _ _ _ _ => true
  | .urtset _ _ => true
  | .schset _ _ _ => true
  | .seqnew _ => true
  | .seqend _ => true
  | .mext _ _ _ _ => true
  | .halign _ _ => true
  | .hpref _ _ => true
  | .hevict _ _ => true
  | .hprio _ _ => true
  | .hlikely _ _ => true
  | .notAnInstructionWord _ => false
  | .asyncCauseTaken => false
  | .waitSatisfied => false
  | .faultReply => false
  | .slotFill => false
  | .gale => false
  | .messageArrival => false
  | .gustArrival => false
  | .linkLanding => false
  | .queuePushLanding => false
  | .claspRelease => false
  | .gangTimeout => false
  | .halignTimeout => false
  | .matrixZeroingDone => false
  | .matrixOpComplete => false
  | .dataStageComplete => false
  | .lockstepMismatch => false
  | .bankRetention => false
  | .copyCommandComplete => false
  | .collComplete => false
  | .bezelEngineComplete => false
  | .rangeWalkComplete => false
  | .instanceCompletion => false
  | .nodeDispatch => false
  | .tailWatch => false
  | .nopCommand => false
  | .launchCommand => false
  | .graph => false
  | .waitcnt => false
  | .signal => false
  | .phaseCommand => false
  | .cancelCommand => false
  | .tick => false
  | .preempt => false
  | .gphasePublish => false
  | .drds => false
  | .drdx => false
  | .dupg => false
  | .dwb => false
  | .devict => false
  | .dfwds => false
  | .dfwdx => false
  | .dinv => false
  | .drsp => false
  | .dcomp => false
  | .ddone => false
  | .ddata => false
  | .snpShared => false
  | .snpInv => false
  | .inval => false
  | .shootdownComplete => false
  | .wbAck => false
  | .cmp => false
  | .atomicRsp => false
  | .data => false
  | .hostlinkFail => false
  | .hostModuleFailover => false
  | .d2dFail => false
  | .meshUe => false
  | .sramUe => false
  | .accUe => false
  | .paccUe => false
  | .wbufUe => false
  | .abufParity => false
  | .cbParity => false
  | .rowBusCrc => false
  | .claspFault => false
  | .regParity => false
  | .rowSwitch => false
  | .keySweepComplete => false
  | .register => false
  | .teardown => false
  | .freeze => false
  | .drainComplete => false
  | .resume => false
  | .spanRegion => false
  | .fwUpdate => false
  | .spanJoin => false
  | .faultq => false
  | .sidebandRegisterWrite => false
  | .powerOn => false
  | .reset => false
  | .powerOff => false
  | .powerMeasure => false
  | .thermalTrip => false
  | .rowGate => false
  | .dieRetentionEntry => false
  | .dieRetentionExit => false
  | .alarm => false
  | .getVersion => false
  | .getCapabilities => false
  | .negotiateAlgorithms => false
  | .getDigests => false
  | .getCertificate => false
  | .challenge => false
  | .getMeasurements => false
  | .keyExchange => false
  | .finish => false
  | .endSession => false
  | .lockInterface => false
  | .channelOpen => false
  | .channelRecord => false
  | .idcode => false
  | .auth => false
  | .dbgReq => false
  | .frostEnter => false
  | .scanSelect => false
  | .scanRead => false
  | .bypass => false
  | .spanFlit => false
  | .spanRetrain => false
  | .pageReq => false
  | .spanAtomic => false
  | .spanLinkTimeout => false
  | .hostErrorAnswer => false
  | .hostProtocolError => false
  | .unknownManagementOp => false
  | .unsupportedRequest => false
  | .spanLinkRecovered => false
  | .correctedError => false

end Instr

/-- An event that is to happen, with its arguments. -/
structure Event where
  what : Instr
  args : EventArgs := {}
  deriving DecidableEq, Repr

end Sys2Proof
end

