-- ==== Sys2Proof/Machine/State.lean ====
section
/-!
DEFINITION. State: everything the manual says the part holds, as plain data. A field's default is its value at reset (R23,
R55, R103 to R116, R344 and the tables of 15); where the manual gives none, the default is zero or nothing (log 1, log 2).
-/

namespace Sys2Proof.Machine

/-! ### Strands -/

/-- An address space (R194). -/
inductive Space where
  | global | local | peer | istore
  deriving DecidableEq, Repr

/-- The kind of a core (R108 KIND). -/
inductive CoreKind where
  | mcore | score | bezel
  deriving DecidableEq, Repr

/-- The kind of a strand (R23, R108 SKIND). -/
inductive StrandKind where
  | resident | handler | gust
  deriving DecidableEq, Repr

/-- The prefixes taken of an open instruction group (R86): the MOD's five fields, the EXT's ext26, and the address of the first
word. -/
structure Prefix where
  mod : Option (BitVec 3 × BitVec 3 × BitVec 2 × BitVec 2 × BitVec 4)
  ext : Option (BitVec 26)
  start : Word
  deriving DecidableEq, Repr

/-- An older resident frame: w0 to w15 and RPC; its w16 to w23 are the next frame's w0 to w7 (R102, R104). -/
structure Frame where
  w : Vector Word 16
  rpc : Word
  deriving DecidableEq, Repr

/-- A link register (R154): presence, and reservation by an accepted write that has not landed (R157). -/
structure Link where
  value : Word := 0
  present : Bool := false
  reserved : Bool := false
  deriving DecidableEq, Repr

/-- A queue register (R286): entries from the head, and entries reserved by pushes that have not landed (R288). -/
structure Queue where
  items : List Word := []
  reserved : Nat := 0
  deriving DecidableEq, Repr

/-- The scalar values that the sequencer's snapshot holds (R291), and those of the scalar stream while a body word runs. -/
structure Snapshot where
  g : Vector Word 8 := Vector.replicate 8 0
  w : Vector Word 24 := Vector.replicate 24 0
  memdef : Word := 0
  fpctl : Word := 0
  pc : Word := 0
  deriving DecidableEq, Repr

/-- The repetition state (R290 to R294, R322). -/
structure Rep where
  captured : Bool := false
  active : Bool := false
  fromBody : Bool := false
  body : List (BitVec 32) := []
  base : Word := 0
  stagger : Nat := 0
  next : Nat := 0
  count : Nat := 0
  iteration : Nat := 0
  spc : Word := 0
  /-- Progress of the body word to which a trap of its own returns (R294). -/
  prog : Nat := 0
  snap : Snapshot := {}
  /-- The scalar stream's values while a body group executes. -/
  stream : Option Snapshot := none
  deriving DecidableEq, Repr

/-- A strand's view of one collective context of its die (R339) and the COLLs withdrawn from it (R364): wb, source, destination,
ticket, mod. -/
structure CollView where
  issued : Word := 0
  reached : Word := 0
  withdrawn : List (Word × Word × Word × Word × Nat) := []
  /-- The images that the withdrawn commands started with, with the launches that installed them (R335). -/
  images : List (List Byte × Option Nat) := []
  deriving DecidableEq, Repr

/-- The power state of a vector bank (R138). -/
inductive Bank where
  | off | retention | active
  deriving DecidableEq, Repr

/-- The fault record that a strand or an engine waits on (R213, R217): the claimed slot number, whether it has been written, what it
says, whether it was withdrawn, how many faults in a row it is under the repeat rule, and the generation of the reply once taken
(R215). -/
structure FaultRecord where
  claim : Nat
  written : Bool
  va : Word
  asn : Nat
  core : Nat
  slot : Nat
  cause : Nat
  flags : Nat
  job : Nat
  generation : Nat
  withdrawn : Bool := false
  attempts : Nat := 1
  replied : Option Nat := none
  deriving DecidableEq, Repr

/-- A run of bytes that translation has resolved: first cell, length, key slot, untracked, and the POLICY of the access: 0 norm, 1 strm,
2 last (R223). -/
structure Segment where
  key : Nat
  length : Nat
  slot : Nat := 0
  untracked : Bool := false
  policy : Nat := 0
  deriving DecidableEq, Repr

/-- A strand: all that R107 lists per strand, its register files, and what it belongs to. -/
structure Strand where
  kind : StrandKind := .resident
  /-- The job, by its queue number (R26). -/
  job : Option Nat := none
  /-- The launch that the unit counts toward (R26). -/
  launch : Option Nat := none
  /-- The launch whose logical cores LCORE and LCOUNT, links, queues and PEER name (R110). -/
  home : Option Nat := none
  /-- The unit's number in the table of units. -/
  unit : Option Nat := none
  lcore : Nat := 0
  lcount : Nat := 0
  g : Vector Word 8 := Vector.replicate 8 0
  w : Vector Word 24 := Vector.replicate 24 0
  rpc : Word := 0
  /-- Older resident frames, the newest first. -/
  frames : List Frame := []
  wspilled : Nat := 0
  pc : Word := 0
  fpctl : Word := 0
  memdef : Word := 0x18
  wsp : Word := 0
  vlen : Nat := 0
  vregs : Nat := 0
  v : Vector (Vector Lane 32) 32 := Vector.replicate 32 (Vector.replicate 32 0)
  banks : Vector Bank 4 := Vector.replicate 4 .off
  k : Vector (BitVec 32) 8 := Vector.replicate 8 0
  links : Vector Link 8 := Vector.replicate 8 {}
  queues : Vector Queue 8 := Vector.replicate 8 {}
  rep : Rep := {}
  views : Vector CollView 8 := Vector.replicate 8 {}
  /-- log2 of the cuff's members, 0 outside a cuff (R108 CUFF). -/
  cuff : Nat := 0
  /-- Inside a gang session (R175). -/
  session : Bool := false
  /-- Gang-issued instructions of the session joined so far (R175). -/
  clasps : Nat := 0
  /-- The number of the clasp that released the strand's gang-issued instruction; the eight members have the same (R175, R176). -/
  claspId : Nat := 0
  /-- The mode and place of a SEND that has passed its checks and waits (R11, R338). -/
  admitted : Option (Bool × Word) := none
  /-- The rows or pieces that the issue stage of an interrupted MLDA or MLDB has translated, EPROG.STEP counting them (R178, R185, R186):
  each a run of data and a run of scales. -/
  issue : List (List Segment × List Segment) := []
  /-- Keep regions of a handler activation, offset and size (R327), and the index of its table entry (R382). -/
  keeps : List (Nat × Nat) := []
  entry : Nat := 0xFFFFFFFF
  hprio : Nat := 0
  /-- The hidden window base and size on a core shared after resume (R386). -/
  window : Option (Nat × Nat) := none
  /-- The largest GPHASE value read (R259). -/
  sawPhase : Word := 0
  /-- Matrix state that has left the core, by a switch of its shared row or by pre-emption (R170, R179, R386): cells, tags, and TLM's
  ISSUED and REACHED. -/
  parked : Option (List Host.Cell × List Nat × Word × Word) := none
  /-- A GUST of the strand has been accepted, and the strand ends once its sequencer is done (R292, R304). -/
  leaving : Bool := false
  /-- The last translation fault: pc, step and record (R215). -/
  lastFault : Option (Word × Nat × FaultRecord) := none
  deriving DecidableEq, Repr

/-- A copy command in its context (R314, R364). -/
structure CopyCmd where
  op : Nat
  mod : Nat
  batch : Nat
  ticket : Word
  a : List Word
  wb : Word
  done : Nat := 0
  paused : Bool := false
  started : Bool := false
  finished : Bool := false
  core : Nat
  slot : Nat
  unit : Option Nat
  job : Option Nat
  home : Option Nat
  fault : Option FaultRecord := none
  /-- The POLICY of its GLOBAL accesses (R223, R315). -/
  policy : Nat := 1
  /-- The cells that it has written so far (R254). -/
  wrote : List Segment := []
  deriving DecidableEq, Repr

/-- A collective command at its die (R319). -/
structure CollCmd where
  core : Nat
  slot : Nat
  unit : Option Nat
  job : Option Nat
  home : Option Nat
  lcore : Nat
  wb : Word
  src : Word
  dst : Word
  ticket : Word
  mod : Nat
  /-- The schedule's image at issue and the launch that installed it (R335). -/
  image : List Byte
  launch : Option Nat
  /-- A translation fault that its participant has yet to have resolved (R213). -/
  fault : Option FaultRecord := none
  deriving DecidableEq, Repr

/-- A walk command (R237). -/
structure WalkCmd where
  invalidate : Bool
  base : Word
  length : Nat
  barrier : Segment
  scope : Nat
  /-- Cores of the strand: a cuff's members, a pair's two (R238). -/
  members : Nat := 1
  unit : Option Nat
  job : Option Nat
  pos : Nat := 0
  /-- Lines whose Persist the host has yet to answer (R238, R275). -/
  persisting : List Nat := []
  paused : Bool := false
  fault : Option FaultRecord := none
  deriving DecidableEq, Repr

/-- An effect that leaves its strand: performed at once, or held by a lockstep pair until a commit (R163). -/
inductive Effect where
  /-- Bytes to cells of memory. -/
  | store (place : Segment) (bytes : List Byte)
  /-- Bytes to an untracked place, in the L1 of the core (R257). -/
  | untracked (core : Nat) (place : Segment) (bytes : List Byte)
  /-- A message or gust for an arrival queue of a core. -/
  | message (core queue : Nat) (header : Word) (payload : List Word) (launch job : Option Nat) (home : Nat × Nat) (handle : Word)
  /-- A value for a link register of a unit's strand in a slot. -/
  | link (core slot n : Nat) (value : Word) (unit : Option Nat)
  /-- A value for a queue register of a unit's strand in a slot. -/
  | push (core slot n : Nat) (value : Word) (unit : Option Nat)
  /-- A message for the other Span box (R298). -/
  | spanMessage (handle header : Word) (payload : List Word)
  /-- A mailbox message of a job (R330). -/
  | mailbox (job n : Nat) (header : Word) (payload : List Word)
  /-- A copy command for a context (R314). -/
  | copy (core ctx : Nat) (cmd : CopyCmd)
  /-- A collective command for a context of a die (R319). -/
  | coll (die ctx : Nat) (cmd : CollCmd)
  /-- A walk command of a core (R237). -/
  | walk (core : Nat) (cmd : WalkCmd)
  /-- A launch descriptor for a ready pool (R312). -/
  | launch (die : Nat) (job : Nat) (bytes : List Byte)
  /-- The raise of PHASE with its write-backs (R257). -/
  | phase (core : Nat)
  /-- A page-table walk's A and D bits for the entry at an address: its value before and after (R204, R242). -/
  | mark (a : Nat) (old new : Word)
  /-- A dirty-log append of a job for an address whose leaf is of a level (R220, R242). -/
  | dirty (job : Option Nat) (va : Word) (level : Nat)
  deriving DecidableEq, Repr

/-- A lockstep pair (R162 to R165): the held effects in program order, the last image, the area it lies in. -/
structure Pair where
  held : List Effect := []
  /-- The last image: the strand at the place where it resumes, its progress, and the covered acc and pacc bytes. -/
  image : Option (Strand × Nat × List Host.Cell) := none
  /-- The instruction that executes is a commit point, whose image is taken again as it completes; whether it performs an effect of its
  own (R163, R192). -/
  due : Option Bool := none
  /-- The state at the strand's start (R37). -/
  start : Option Strand := none
  area : Option (Nat × Nat) := none
  half : Nat := 0
  cover : Nat := 0
  mismatches : Nat := 0
  unprotected : Bool := false
  areaRaised : Bool := false
  /-- acc or pacc written since the last image (R165): bit 0 and bit 1. -/
  touched : Nat := 0
  deriving DecidableEq, Repr

/-- What a strand in the Waiting state waits for (R11). A strand that waits has not executed its instruction and executes it anew
when the condition holds, but for the last four. -/
inductive Wait where
  /-- Some arrival queue of the mask holds an unbound arrival (R129, R287, R299). -/
  | message (mask : Nat)
  /-- A value in an own link register (R156). -/
  | linkValue (n : Nat)
  /-- Room in a link register of a logical core, or its end (R156). -/
  | linkTarget (launch lcore n : Nat)
  /-- A value in an own queue register (R287). -/
  | queueValue (n : Nat)
  /-- Room in a queue register of a logical core, or its end (R287). -/
  | queueTarget (launch lcore n : Nat)
  /-- Room in an arrival queue of a core (R298). -/
  | room (core queue : Nat)
  /-- Room in a host mailbox (R330). -/
  | mailbox (job n : Nat)
  /-- Cells of memory that differ from a value (R236). -/
  | watch (key n : Nat) (old : Word)
  /-- A timeline at a ticket (R341). -/
  | timeline (tl : Nat) (ticket : Word)
  /-- At most so many outstanding batches (R342). -/
  | batches (ctx n : Nat)
  /-- A counter at a value (R347). -/
  | counter (c : Nat) (value : BitVec 32)
  /-- GPHASE above a value (R360). -/
  | gphase (value : Word)
  /-- Room in a copy context, a collective context, the walk commands or the matrix queue (R313, R319, R237, R173). -/
  | copyRoom (ctx : Nat) | collRoom (ctx : Nat) | walkRoom | matrixRoom
  /-- The matrix queue and every data stage of the core done (R173, R191). -/
  | drained
  /-- The matrix queue and every data stage of the strand done, or just the writers of some accumulators (R182). -/
  | matrix (mask : Nat)
  /-- The data stages into a half, or into bytes of the weight buffer, done (R173). -/
  | half (h : Nat) | weights (offset length : Nat)
  /-- The zeroing of a claim (R170). -/
  | zeroing
  /-- The codebook fetches of a slot done (R69). -/
  | codebook (slot : Nat)
  /-- The clasp, with the word issued (R175). -/
  | clasp (word : BitVec 32)
  /-- The opening of a gang session (R181). -/
  | gangOpen
  /-- The physical row held by another logical row or launch (R179). -/
  | rowFree
  /-- The other cores of the cluster at an HALIGN (R33). -/
  | align (pc : Word)
  /-- The sequencer's run (R292), and every engine command of the strand (R359). -/
  | repetition | engines
  /-- A shootdown (R211). -/
  | shootdown (i : Nat)
  /-- The placing of a launch that a message names (R298). -/
  | placed (launch : Nat)
  /-- The other box's hand-over of the page of an address (R282); the answer of the page's home box to an atomic of SPAN scope, with
  its destination and size (R283); the Span link (R298). -/
  | span (va : Word) (write : Bool)
  /-- A line that its home cannot serve now (R270, R271). -/
  | line (line : Nat)
  | spanAtomic (va : Word) (d n : Nat) (zero : Bool) | spanLink
  /-- The host's reply to the fault record (R213). -/
  | reply
  /-- The copy contexts of a slot's strand pause at a batch boundary (R318, R364). -/
  | paused (slot : Nat)
  /-- The landing of an accepted link value or push completes the instruction (R157, R288). -/
  | landing
  /-- The answer of a gust's owner completes the instruction (R304). -/
  | answer
  /-- The HALIGN has been reached by all, or its time has passed. -/
  | aligned
  deriving DecidableEq, Repr

/-- Why a strand is Halted (R22). -/
inductive Halt where
  | preempt | freeze | debug | core | frost
  deriving DecidableEq, Repr

/-- The state of a slot (R22). -/
inductive Status where
  | free | ready | waiting (w : Wait) | halted (h : Halt)
  deriving DecidableEq, Repr

/-- A latched asynchronous cause (R367). -/
structure Latched where
  cause : Cause
  eaddr : Word := 0
  info : Nat := 0
  deriving DecidableEq, Repr

/-- A strand slot (R22) with its trap registers (R107), supervisor frame (R106) and the strand it holds. -/
structure Slot where
  status : Status := .free
  closed : Bool := false
  mode : Bool := false
  ie : Bool := true
  nest : Bool := false
  epc : Word := 0
  ecause : Word := 0
  eaddr : Word := 0
  eprog : Nat := 0
  /-- The words that a CTXLD of a record checked as a whole has moved so far, EPROG.STEP of them (R133). -/
  moved : List Byte := []
  /-- ECAUSE and EPC of the trap that user code raised and that the supervisor serves, whatever nests in the service (R177, R368). -/
  outer : Option (Word × Word) := none
  /-- The supervisor frame. -/
  sw : Vector Word 24 := Vector.replicate 24 0
  /-- The pc of the supervisor's code. -/
  spc : Word := 0
  latched : List Latched := []
  /-- The micro-kernel's own service of the trap just entered is due, with its cause (log 5). -/
  service : Option Cause := none
  fault : Option FaultRecord := none
  /-- Debug single step (R411). -/
  step : Bool := false
  /-- The slot holds no strand: the micro-kernel serves a cause of its core there in its idle context (R369). -/
  idle : Bool := false
  pre : Option Prefix := none
  u : Strand := {}
  pair : Option Pair := none
  deriving DecidableEq, Repr

/-! ### Cores -/

/-- A message in an arrival queue or on its way (R295, R296), with the launch and job of its sender (R26), and for a gust the
launch and logical core of its owner (R110, R303). -/
structure Msg where
  header : Word
  payload : List Word := []
  launch : Option Nat := none
  job : Option Nat := none
  home : Option (Nat × Nat) := none
  deriving DecidableEq, Repr

/-- A message on its way to an arrival queue. -/
structure Flight where
  core : Nat
  queue : Nat
  msg : Msg
  /-- The handle that it was sent with (R298). -/
  handle : Option Word := none
  /-- The slot that waits for a gust's answer, and whether its strand goes on (GSPAWN) (R304). -/
  sender : Option (Nat × Nat × Bool) := none
  deriving DecidableEq, Repr

/-- A pending start (R30), of an early consumer or not: one is barred from the progress slot while a producer has a unit to start (R352). -/
structure Start where
  launch : Nat
  lcore : Nat
  barred : Bool := false
  deriving DecidableEq, Repr

/-- A handler table entry (R326). -/
structure Handler where
  q : Nat
  type : Nat
  pc : Word
  keeps : List (Nat × Nat)
  launch : Option Nat
  lcore : Nat
  job : Option Nat
  deriving DecidableEq, Repr

/-- A copy context (R313, R340). -/
structure CopyCtx where
  owner : Option (Nat × Option Nat) := none
  issued : Word := 0
  reached : Word := 0
  cmds : List CopyCmd := []
  batch : Nat := 0
  /-- Whether a command has joined the open batch (R317). -/
  joined : Bool := false
  pausing : Bool := false
  deriving DecidableEq, Repr

/-- A data stage of MLDA or MLDB in progress (R173, R174): per row its segments, or none while a peer's share is missing. -/
structure DataStage where
  ticket : Word
  unit : Option Nat
  job : Option Nat
  /-- Half for MLDA; none for MLDB. -/
  half : Option Nat
  rb : Nat
  nb : Nat
  nr : Nat
  rows : List (Option (List Segment × List Segment))
  /-- Offset in the weight buffer for MLDB; the number of its clasp for a gang-issued MLDA. -/
  offset : Nat
  gang : Bool
  deriving DecidableEq, Repr

/-- An issued matrix operation still in the queue (R173): the registers it writes, the codebook slot it fetches. -/
structure MatrixOp where
  acc : Nat
  pacc : Nat
  codebook : Option Nat
  deriving DecidableEq, Repr

/-- A cached translation (R207). -/
structure TlbEntry where
  asn : Option Nat
  page : Nat
  level : Nat
  leaf : Word
  /-- An uncorrectable error has hit the entry in its L1 TLB (R372). -/
  poison : Bool := false
  deriving DecidableEq, Repr

/-- A state of a line (R265). -/
inductive LineState where
  | i | s | e | m | o
  deriving DecidableEq, Repr

/-- An untracked line of an L1 (R257, R278): its key slot, the clean copy of its 128 bytes, if one was read, and the dirty bytes by their
offsets. -/
structure UtLine where
  slot : Nat := 0
  copy : Option (List Byte) := none
  dirty : AMap Byte := []
  deriving DecidableEq, Repr

/-- A core (R22) and all that it holds. -/
structure Core where
  slots : Vector Slot 4 := Vector.replicate 4 {}
  tvec : Word := 0
  sp : Nat := 0
  gspill : Word := 0x2040
  phase : Word := 0
  active : Bool := false
  aq : Vector (List Msg) 4 := Vector.replicate 4 []
  ring : List Msg := []
  /-- Entries written to the spill ring so far (R305). -/
  ringNext : Nat := 0
  starts : List Start := []
  passed : Vector Nat 5 := Vector.replicate 5 0
  handlers : AMap Handler := []
  grants : List Word := []
  copies : Vector CopyCtx 4 := Vector.replicate 4 {}
  walks : List WalkCmd := []
  /-- Matrix owner: slot and unit (R170). -/
  owner : Option (Nat × Option Nat) := none
  /-- Whether the matrix state has had an owner since reset, and that owner's job. -/
  lastJob : Option (Option Nat) := none
  zeroing : Bool := false
  matrix : List MatrixOp := []
  stages : List DataStage := []
  tags : Vector Nat 8 := Vector.replicate 8 0
  tlmIssued : Word := 0
  tlmReached : Word := 0
  /-- TLM tickets done out of order. -/
  tlmDone : List Word := []
  /-- Cycles that the core has counted beyond those that every core has (R107, R110). -/
  cycles : Word := 0
  pmc : Vector Word 4 := Vector.replicate 4 0
  events : Vector Nat 4 := Vector.replicate 4 0
  tlb : List TlbEntry := []
  /-- Tracked lines of the L1 with their key slots (R265, R272). -/
  lines : AMap (LineState × Nat) := []
  /-- Untracked lines of the L1 (R257, R278). -/
  untracked : AMap UtLine := []
  /-- Lines marked as the next to replace (R89 HEVICT, R223). -/
  marked : List Nat := []
  job : Option Nat := none
  /-- The cycle meter in quarter M-core-cycles (R354). -/
  meter : Nat := 0
  /-- Watchpoints (R411). -/
  watch : List Word := []
  /-- A DOUBLE_TRAP has halted the core and the Bezel has not yet reset it (R368). -/
  doubled : Bool := false
  /-- Poisoned words, by cell; of an L1 tag, the line by its address (R372). -/
  poison : List Nat := []
  latched : List Latched := []
  /-- Slots and units whose register files have failed and whose REG_PARITY has yet to be served (R372). -/
  parity : List (Nat × Option Nat) := []
  /-- The slot that issued last, and its consecutive turns (R22, HPRIO). -/
  last : Nat := 3
  streak : Nat := 0
  /-- Physical row's holder while several logical rows share it (R179): a launch and its logical row. -/
  rowHolder : Option (Nat × Nat) := none
  deriving DecidableEq, Repr

/-! ### Dies and the device -/

/-- What a coherence message between two dies says (R269). A DData to the home is the dirty data of a victim (R271). -/
inductive Coh where
  | fwdS | fwdX | inv
  /-- DRsp: the state that the die keeps, and whether its copy was dirty. -/
  | rsp (kept : LineState) (dirty : Bool)
  | comp | done
  /-- DData: the granted state and the completion mark. -/
  | data (grant : LineState) (mark : Bool)
  deriving DecidableEq, Repr

/-- A coherence message on its way: the line, the die that sent it and the die that it goes to. -/
structure CohMsg where
  line : Nat
  source : Nat
  target : Nat
  what : Coh
  deriving DecidableEq, Repr

/-- An entry of a home directory (R265, R270): die presence, owner, and what makes the line busy: the die and the kind of its request (0
DRdS, 1 DRdX, 2 DUpg), or the line's own eviction (5). -/
structure DirEntry where
  state : LineState := .i
  present : List Nat := []
  owner : Option Nat := none
  busy : Option (Nat × Nat) := none
  /-- Dies whose snoops are not yet answered; whether one of them had dirty data; whether the host's grant is awaited. -/
  pending : List Nat := []
  dirtySeen : Bool := false
  hostPending : Bool := false
  /-- The key slot of the access that the request serves; what the requester has received, and whether it has installed the line. -/
  slot : Nat := 0
  gotData : Option LineState := none
  gotComp : Bool := false
  installed : Bool := false
  deriving DecidableEq, Repr

/-- A request for a line that waits at its home (R270): the die, its kind (0 DRdS, 1 DRdX, 2 DUpg, 3 DWb, 4 DEvict), and the key slot of the
access that it serves. -/
structure LineReq where
  line : Nat
  die : Nat
  kind : Nat
  slot : Nat := 0
  deriving DecidableEq, Repr

/-- A line in a die's L2 (R265): state, L1 presence, key slot; poisoned by an error (R372); poisoned by its slot's death (R274). -/
structure L2Line where
  state : LineState := .i
  present : List Nat := []
  slot : Nat := 0
  poison : Bool := false
  dead : Bool := false
  deriving DecidableEq, Repr

/-- A node of a ready pool or a placed launch (R34, R310, R311). -/
structure Launch where
  job : Nat
  smallCores : Bool
  pair : Bool
  cuff : Nat
  count : Nat
  entry : Word
  map : Nat
  counter : Option Nat
  inst : Nat
  args : List Word
  startWaits : List (Nat × BitVec 32)
  dataWaits : List (Nat × BitVec 32)
  tile : Option (Nat × Nat × Bool) := none
  graph : Option Nat := none
  phase : Nat := 0
  die : Nat := 0
  dispatched : Bool := false
  /-- Flat core of each logical core. -/
  cores : List Nat := []
  /-- The hidden windows of its logical cores on cores shared after a resume, base and size; none elsewhere (R386). -/
  windows : List (Nat × Nat) := []
  /-- Per logical core: 0 not started, 1 started, 2 ended (R381). -/
  states : List Nat := []
  unitsDone : Nat := 0
  unitsStarted : Nat := 0
  cancelled : Bool := false
  done : Bool := false
  /-- Some data wait of it was not reached at its dispatch (R35). -/
  early : Bool := false
  /-- The dispatcher chose its map (R357). -/
  chosen : Bool := false
  /-- Placed by a LAUNCH instruction: no command of the queue (R309). -/
  device : Bool := false
  deriving DecidableEq, Repr

/-- A unit (R26). -/
structure UnitRec where
  job : Option Nat
  launch : Option Nat
  outstanding : Nat := 0
  ended : Bool := false
  cancelled : Bool := false
  resident : Bool := true
  lcore : Nat := 0
  deriving DecidableEq, Repr

/-- A graph (R26, R311). -/
structure Graph where
  job : Nat
  phase : Nat
  counter : Option Nat
  inst : Nat
  launches : List Nat
  /-- Nodes in all. -/
  count : Nat
  cancelled : Bool := false
  done : Bool := false
  deriving DecidableEq, Repr

/-- A counter (R344). -/
structure Counter where
  val : BitVec 32 := 0
  can : BitVec 16 := 0
  deriving DecidableEq, Repr

/-- A phase of a job (R26). -/
structure Phase where
  closed : Bool := false
  counter : Option Nat := none
  cancelled : Bool := false
  done : Bool := false
  /-- The phase's instance count (R344, R345). -/
  inst : Counter := {}
  deriving DecidableEq, Repr

/-- A core map (R328). -/
structure CoreMap where
  job : Option Nat
  smallCores : Bool
  pair : Bool
  cuff : Nat
  cores : List Nat
  freed : Bool := false
  deriving DecidableEq, Repr

/-- An owner rule (R334). -/
structure OwnerRule where
  base : Nat
  length : Nat
  shift : Nat
  count : Nat
  first : Nat
  launch : Option Nat
  deriving DecidableEq, Repr

/-- What holds back the commands after the last accepted one (R309): a WAITCNT's counter and value, or a SIGNAL's write (address,
value, whether it adds), each with the completion counter of the command. -/
inductive Hold where
  | nothing
  | counter (c : Nat) (value : BitVec 32) (done : Option Nat)
  | signal (a value : Word) (add : Bool) (done : Option Nat)
  deriving DecidableEq, Repr

/-- A job's share of a core while another job has it (R376): SPSIZE.SP, GSPILL, codebook bytes, tables, copy contexts, the arrivals that came
meanwhile, and the saved strands by slot; its scratchpad bytes stand in a region of memory of their own (savedCell). -/
structure Share where
  sp : Nat
  gspill : Word := 0x2040
  cells : List Host.Cell
  handlers : AMap Handler
  grants : List Word
  copies : List CopyCtx
  arrivals : List (Nat × Msg)
  slots : AMap Slot
  /-- The slot whose strand owned the matrix state (R170). -/
  owner : Option Nat
  deriving DecidableEq, Repr

/-- A queue context: the job it makes, its ring, dispatcher, window and registrations (R306, R344, R353, R397). -/
structure Job where
  control : Word
  logSlots : Nat
  weight : Nat
  windowBase : Nat
  windowSize : Nat
  untracked : Bool
  logging : Bool
  spanPartner : Option Nat
  root : Nat
  asn : Nat
  logPa : Nat
  savePa : Nat
  mailboxes : List Nat
  keySlot : Nat
  dispatcher : Nat
  head : Word := 0
  tailRead : Word := 0
  status : Word := 0
  hold : Hold := .nothing
  /-- Nodes of an accepted GRAPH that wait for room in the ready pool or for an instance counter (R344). -/
  unplaced : List Launch := []
  phase : Nat := 0
  phases : AMap Phase := []
  /-- The job's instance count (R344, R345). -/
  inst : Counter := {}
  /-- The queue's deficit in quarter M-core-cycles (R353, R354). -/
  deficit : Int := 0
  cancelled : Bool := false
  /-- A STATUS word that the micro-kernel has yet to write (R306, R349). -/
  statusDue : Option Word := none
  tearing : Bool := false
  frozen : Bool := false
  fault : Option FaultRecord := none
  /-- GPHASE offset after a resume (R388). -/
  phaseOffset : Word := 0
  regions : AMap (Nat × Nat × Option Nat) := []
  owners : AMap OwnerRule := []
  mailboxTail : AMap Word := []
  drained : List (Nat × Nat × Msg) := []
  image : Option (Nat × Nat × Nat) := none
  /-- Saved shares of cores (R376). -/
  shares : AMap Share := []
  /-- Handles entered for cores that another job has, and of which the job has saved no share (R329). -/
  grants : AMap (List Word) := []
  deriving DecidableEq, Repr

/-- A key slot's state (R332). -/
inductive KeyState where
  | free | live | sweeping
  deriving DecidableEq, Repr

/-- A key slot: its state, the number of its key among all keys drawn, its binding, and the dies whose sweep has not ended. -/
structure KeySlot where
  state : KeyState := .free
  key : Nat := 0
  bound : Option Nat := none
  sweeps : List Nat := []
  deriving DecidableEq, Repr

/-- A transaction open at the host, as its header and what follows it say (R393): opcode, line, ATTR, operands of an atomic. -/
structure HostTx where
  op : Nat
  line : Nat
  attr : Nat := 0
  operands : List Byte := []
  deriving DecidableEq, Repr

/-- A die. -/
structure Die where
  pool : List Nat := []
  lastServed : Option Nat := none
  /-- Queues passed over in their turn and not served since, the one longest passed over first (R351). -/
  passedOver : List Nat := []
  l2 : AMap L2Line := []
  /-- The L2 TLB's entries with their slices (R207). -/
  l2tlb : List (Nat × TlbEntry) := []
  walkCache : List (Nat × Nat × Nat × Nat) := []
  /-- Copies of untracked lines in the L2, with their key slots (R278). -/
  l2clean : AMap (Nat × List Byte) := []
  dir : AMap DirEntry := []
  /-- Order of allocation of directory entries, oldest first (R271). -/
  order : List Nat := []
  writeback : List Nat := []
  /-- Requests that wait at this home in order of arrival (R270). -/
  requests : List LineReq := []
  /-- Host snoops that wait for a busy line, oldest first: line, and whether SnpInv (R276). -/
  snoops : List (Nat × Bool) := []
  coll : Vector (List CollCmd) 8 := Vector.replicate 8 []
  /-- Schedules by job and number, with the launch that installed each (R324, R335). -/
  schedules : AMap (List Byte × Option Nat) := []
  modulesUp : Vector Bool 2 := Vector.replicate 2 true
  retained : Bool := false
  deriving DecidableEq, Repr

/-- A link value or a push accepted and on its way (R157, R288). -/
structure Landing where
  push : Bool
  core : Nat
  slot : Nat
  n : Nat
  value : Word
  writer : Option (Nat × Nat)
  /-- Whether the writer's instruction completes with it; one that a lockstep pair held has retired before (R163). -/
  completes : Bool := true
  /-- The unit of the strand whose register was reserved. -/
  unit : Option Nat := none
  /-- The pair d, d+1 in which the writer reports the landing, for NTRY.put and QPUTT. -/
  report : Option (BitVec 5) := none
  deriving DecidableEq, Repr

/-- A shootdown in progress (R210, R211). -/
structure Shootdown where
  kind : Nat
  asn : Nat
  page : Nat
  /-- The TXID of the host's message, or none for a TLBINV. -/
  host : Option Nat
  deriving DecidableEq, Repr

/-- A confidential channel (R402, R403). -/
structure Channel where
  keySlot : Nat
  key : Nat
  /-- Its number among all channels opened, which its key and salt belong to (R402). -/
  opening : Nat := 0
  hostCtr : Option Nat := none
  deviceCtr : Option Nat := none
  dead : Bool := false
  deriving DecidableEq, Repr

/-- The SPDM responder's connection (R404 to R408, R442 to R447): its state 0 to 3 (R445), the transcripts M and L, the length of the
VCA in both, the secure session: being opened, open; and the interface lock. -/
structure Spdm where
  stage : Nat := 0
  m : List Byte := []
  l : List Byte := []
  vca : Nat := 0
  handshaking : Bool := false
  session : Bool := false
  locked : Bool := false
  /-- Requests that wait at the sideband in order of arrival; whether the last one delivered has no response sent yet; the bytes of the
  last response sent (R442). -/
  waiting : List Event := []
  unsent : Bool := false
  response : List Byte := []
  /-- Channels opened so far (R402). -/
  opened : Nat := 0
  deriving DecidableEq, Repr

/-- The debug port (R411, R412). -/
structure Debug where
  ir : BitVec 8 := 0xFF
  state : Nat := 0
  authStates : List Nat := []
  authSlots : List Nat := []
  /-- The nonce that DBG_REQ read last, if any. -/
  nonce : Option Word := none
  chain : Nat := 0
  out : List Byte := []
  deriving DecidableEq, Repr

/-- A page of a Span region (R281 to R283): its state here, 0 E, 1 S, 2 R; whether this box is its home; the other box's request that
has yet to be served, and whether its hand-over has begun; the request of this box for it, 1 read, 2 write; the bytes of it that have come;
refusals of atomics in a row. -/
structure SpanPage where
  state : Nat := 0
  home : Bool := true
  asked : Option Bool := none
  handing : Bool := false
  wanted : Nat := 0
  received : List Byte := []
  refusals : Nat := 0
  deriving DecidableEq, Repr

/-- What this box sends over the Span (R282, R283, R298, R418). -/
inductive SpanOut where
  | pageReq (page : Nat) (write : Bool)
  /-- The 32 lines of a page, or none where the box that upgrades needs none. -/
  | pageData (page : Nat) (bytes : List Byte)
  | message (handle header : Word) (payload : List Word)
  /-- A message of the other box that has come too late, returned to its sender's core (R379). -/
  | bounce (header : Word) (payload : List Word)
  /-- An atomic of the strand in a slot: its word, address, width, operand and expected value. -/
  | atomic (core slot : Nat) (word : BitVec 32) (va : Word) (bytes operand expected : Nat)
  /-- The other box's atomic performed, with the old value; or refused, with the hint whether its own box is the new home. -/
  | performed (old : Word)
  | refused (asker : Bool)
  deriving DecidableEq, Repr

/-- The Span unit (R281 to R284, R418 to R420). -/
structure Span where
  joined : Bool := false
  up : Bool := true
  /-- Declared regions by number: base page and length in pages. -/
  regions : AMap (Nat × Nat) := []
  /-- Pages by virtual page number. -/
  pages : AMap SpanPage := []
  /-- The last flit of this box that the other has acknowledged, the sequence number awaited, replays in a row (R418, R420). -/
  acked : Nat := 0
  expect : Nat := 0
  replays : Nat := 0
  /-- All that this box has sent, the oldest first. -/
  out : List SpanOut := []
  /-- The sequence number of the next flit sent, and the flits sent that the other box has not acknowledged, which a replay sends again
  (R418, R420). -/
  seq : Nat := 0
  unacked : List (Nat × List Byte) := []
  /-- Records sealed in this direction under the key of the join of a number (R419). -/
  sealed : Nat := 0
  joins : Nat := 0
  /-- Atomics of the other box that wait for this home to have their page in E, or a line of it (R270, R283). -/
  atomics : List SpanAtomic := []
  /-- Messages of this box that have come back undelivered, to be sent again: job, handle, header, payload (R379). -/
  bounced : List (Option Nat × Word × Word × List Word) := []
  /-- The link has been down for 1 ms: engine accesses that need a hand-over fail (R284). -/
  timedOut : Bool := false
  deriving DecidableEq, Repr

/-- The management registers and ring (R394 to R398, R417). -/
structure Mgmt where
  base : Word := 0
  bootPa : Word := 0
  bootStatus : Nat := 0
  head : Word := 0
  protocolErrors : Nat := 0
  corrected : AMap Nat := []
  faultQueue : Option (Nat × Nat) := none
  /-- Withdrawn records whose claimed slots the full ring does not yet let the part write (R218). -/
  owed : List FaultRecord := []
  /-- The request at HEAD of the ring is being served (R395). -/
  busy : Bool := false
  /-- Numbers of queues torn down and not registered since (R421). -/
  torn : List Nat := []
  /-- A firmware update: whether one goes on, where its area continues, and the images in it: queue, address, length (R389). -/
  updating : Bool := false
  area : Nat := 0
  images : List (Nat × Nat × Nat) := []
  deriving DecidableEq, Repr

/-- A command of the Bezel's hash engine (R321): its mode, the input and, where it finishes, the place of the digest. -/
structure HashCmd where
  mode : Nat
  input : List Segment
  output : List Segment
  unit : Option Nat
  deriving DecidableEq, Repr

/-- A command of the Bezel's signature engine (R321): operation, key identifier, message, signature, place of RESULT. -/
structure SignCmd where
  op : Nat
  key : Nat
  message : List Segment
  signature : List Segment
  result : List Segment
  unit : Option Nat
  deriving DecidableEq, Repr

/-- The Bezel's own state (R321, R336, R398 to R400, R409). -/
structure Bezel where
  meas : Vector (List Byte) 8 := Vector.replicate 8 (List.replicate 48 0)
  locked : Bool := false
  hashIssued : Word := 0
  hashReached : Word := 0
  signIssued : Word := 0
  signReached : Word := 0
  hashOpen : Bool := false
  hashData : List Byte := []
  hashCmds : List HashCmd := []
  signCmds : List SignCmd := []
  released : Bool := false
  counter : Nat := 0
  powerLimit : Nat := 195
  maxWeight : Nat := 255
  spanEnable : Bool := false
  debugPolicy : Nat := 0
  boots : Nat := 0
  alarmed : Bool := false
  /-- Clock in tenths of a GHz (R415). -/
  clock : Nat := 16
  temperature : Nat := 0
  off : Bool := false
  frost : Bool := false
  deriving DecidableEq, Repr

/-- The whole package. -/
structure State where
  /-- All bytes: platform memory by physical address, and every SRAM in a region of its own (Ops). Addresses strictly rising, no
  entry equal to zero. -/
  mem : List Host.Cell := []
  cores : AMap Core := []
  dies : AMap Die := []
  gphase : Word := 0
  /-- Cycles since reset that every core has counted (R110). -/
  cycle : Word := 0
  counters : AMap Counter := []
  launches : AMap Launch := []
  graphs : AMap Graph := []
  units : AMap UnitRec := []
  jobs : AMap Job := []
  maps : AMap CoreMap := []
  keys : AMap KeySlot := []
  /-- The number of the key under which a line was last written; an absent line was written under none. -/
  seals : AMap Nat := []
  ranges : AMap (Nat × Nat) := []
  net : List Flight := []
  landings : List Landing := []
  shootdowns : AMap Shootdown := []
  /-- Coherence messages between the dies, oldest first (R269). -/
  mesh : List CohMsg := []
  /-- The phase of the last write to an untracked byte of platform memory, where it is not below GPHASE, and the job that wrote (R259). -/
  stamps : AMap (Nat × Option Nat) := []
  /-- The last answer to a host snoop of a line: its opcode, and ATTR, the state that the part keeps (R276, R394). -/
  answers : AMap (Nat × Nat) := []
  /-- TXIDs of the host's shootdowns that InvalAck has answered, the oldest first (R211, R394). -/
  acks : List Nat := []
  /-- The part's state of a line at the host (R265). -/
  hostLines : AMap LineState := []
  /-- Transactions open at the host by module and TXID: number 65,536 · module + TXID (R391, R393). -/
  hostTx : AMap HostTx := []
  /-- What the host holds of a line of a key slot that the part has made dirty: its sealed bytes and their key's number (R274). -/
  hostCopies : AMap (List Byte × Nat) := []
  /-- Physical ranges that the host answers with an error (R200): base and length. -/
  holes : List (Nat × Nat) := []
  /-- The generation of an endpoint, by job and scope (R297), and the launch that a generation is bound to. -/
  generations : AMap Nat := []
  endpoints : AMap Nat := []
  bezel : Bezel := {}
  mgmt : Mgmt := {}
  spdm : Spdm := {}
  channels : AMap Channel := []
  port : Debug := {}
  span : Span := {}
  /-- Numbers given out so far to launches, units, keys, channels and shootdowns. -/
  nextId : Nat := 1
  keysDrawn : Nat := 0
  /-- The model's own fields: the slot whose word executes, the arguments of the event that happens, the events and the turns that
  come next (log 4), the steps taken and free values drawn (log 8), whether the micro-kernel's services are the model's (log 5). -/
  cur : Nat × Nat := (0, 0)
  ev : EventArgs := {}
  agenda : List Event := []
  turns : List (Nat × Nat) := []
  steps : Nat := 0
  drawn : Nat := 0
  native : Bool := true
  deriving DecidableEq, Repr

/-- The part right after reset: every field at its default above. -/
def State.reset : State := {}

/-- How a step can stop with a fault. -/
inductive Fault where
  /-- Raised by the step while the part is Off or in Frost, where no clock runs (R413, R414). Safe: the part goes on only by
  POWER_ON or RESET from outside, which the agenda can hold. -/
  | clocksStopped
  deriving DecidableEq, Repr

/-- How a step can be refused. -/
inductive Refusal where
  /-- Raised by an arm of the dispatcher that has no meaning yet. Safe: nothing is claimed of the instruction. -/
  | notModelled (mnemonic : String)
  deriving DecidableEq, Repr

/-- What a meaning answers. -/
abbrev Out := Host.Outcome State Fault Refusal

end Sys2Proof.Machine
end

