-- ==== Sys2Proof/Machine/Memory.lean ====
section
/-!
DEFINITION. Memory as one list of cells in canonical form, the places of the part's SRAMs in it, and little-endian accesses
over it (R4, R168, R194, R246).
-/

namespace Sys2Proof.Machine

/-- A memory: bytes by address. -/
abbrev Memory := List Host.Cell

namespace Memory

/-- What an unlisted address reads as: zero (log 2). -/
def blank : Byte := 0

/-- The byte at an address. -/
def get : Memory → Nat → Byte
  | [], _ => blank
  | (b, x) :: m, a => if b = a then x else if a < b then blank else get m a

/-- The cells of bytes from `a` upward; a blank byte has none. -/
def cells : Nat → List Byte → Memory
  | _, [] => []
  | a, x :: xs => if x = blank then cells (a + 1) xs else (a, x) :: cells (a + 1) xs

/-- Bytes stored from `a` upward. -/
def puts (m : Memory) (a : Nat) (bs : List Byte) : Memory :=
  m.takeWhile (fun c => decide (c.1 < a)) ++ cells a bs ++ m.dropWhile (fun c => decide (c.1 < a + bs.length))

/-- One byte stored. -/
def put (m : Memory) (a : Nat) (x : Byte) : Memory := puts m a [x]

/-- The canonical form: addresses strictly rising, no entry blank. -/
def wf (m : Memory) : Bool := decide (m.Pairwise fun c d => c.1 < d.1) && m.all fun c => c.2 != blank

/-- The `n` bytes from `a` upward of a memory that lists nothing below `a`. -/
def read : Memory → Nat → Nat → List Byte
  | _, _, 0 => []
  | [], _, n + 1 => List.replicate (n + 1) blank
  | (b, x) :: m, a, n + 1 => if b = a then x :: read m (a + 1) n else blank :: read ((b, x) :: m) (a + 1) n

/-- The `n` bytes from `a` upward. -/
def gets (m : Memory) (a n : Nat) : List Byte := read (m.dropWhile fun c => decide (c.1 < a)) a n

/-- Every address from `a` to `a + n - 1` blank. -/
def clear (m : Memory) (a n : Nat) : Memory := m.filter fun c => !(decide (a ≤ c.1) && decide (c.1 < a + n))

end Memory

/-- The number that bytes spell, the first least significant (R4). -/
def leNat : List Byte → Nat
  | [] => 0
  | b :: bs => b.toNat + 256 * leNat bs

/-- The low `n` bytes of a number, least significant first. -/
def leBytes : Nat → Nat → List Byte
  | 0, _ => []
  | n + 1, x => BitVec.ofNat 8 x :: leBytes n (x / 256)

/-- A word from bytes. -/
def leWord (bs : List Byte) : Word := BitVec.ofNat 64 (leNat bs)

/-! ### Places -/

/-- Where an SRAM region begins: above every physical address (52 bits), a region of 2^40 per unit. -/
def region (r unit : Nat) : Nat := 2 ^ 64 * (r + 1) + 2 ^ 40 * unit

/-- A byte of the scratchpad of a core (R196). -/
def localCell (core off : Nat) : Nat := region 0 core + off
/-- A byte of an I-store: M-core c is unit c, S-cluster k is unit 128 + k, the Bezel is unit 192 (R17, R197). -/
def istoreCell (unit off : Nat) : Nat := region 1 unit + off
/-- A byte of a core's weight buffer (R168). -/
def weightCell (core off : Nat) : Nat := region 2 core + off
/-- Element (i, j) of an acc begins here (R169). -/
def accCell (core n i j : Nat) : Nat := region 3 core + n * 8192 + (i * 64 + j) * 4
/-- Element (i, j) of a pacc begins here (R169). -/
def paccCell (core n i j : Nat) : Nat := region 4 core + n * 8192 + (i * 64 + j) * 4
/-- A byte of row i of an A half (R168). -/
def halfCell (core h i b : Nat) : Nat := region 5 core + h * 8192 + i * 256 + b
/-- A byte of scale row i of an A half (R168). -/
def scaleCell (core h i b : Nat) : Nat := region 6 core + h * 512 + i * 16 + b
/-- A byte of a codebook slot (R331). -/
def codebookCell (core slot b : Nat) : Nat := region 7 core + slot * 32 + b

/-- A byte of the scratchpad share that a job saved of a core (R376). -/
def savedCell (job core off : Nat) : Nat := region 8 (job * 1024 + core) + off

/-- Whether a cell is platform memory. -/
def isPhysical (key : Nat) : Bool := decide (key < 2 ^ 52)

/-- The line of a physical address (R265). -/
def lineOf (pa : Nat) : Nat := pa / 128

namespace State

/-- The byte of a cell. -/
def byte (s : State) (a : Nat) : Byte := Memory.get s.mem a
/-- `n` bytes. -/
def bytes (s : State) (a n : Nat) : List Byte := Memory.gets s.mem a n
/-- An `n`-byte little-endian number. -/
def num (s : State) (a n : Nat) : Nat := leNat (s.bytes a n)
/-- The state with bytes stored. -/
def store (s : State) (a : Nat) (bs : List Byte) : State := { s with mem := Memory.puts s.mem a bs }
/-- The state with an `n`-byte number stored. -/
def storeNum (s : State) (a n x : Nat) : State := s.store a (leBytes n x)
/-- The state with a run of cells zeroed. -/
def wipe (s : State) (a n : Nat) : State := { s with mem := Memory.clear s.mem a n }
/-- The saved shares of a job gone, with their bytes (R376). -/
def dropShares (s : State) (job : Nat) : State :=
  { (s.wipe (savedCell job 0 0) (1024 * 2 ^ 40)) with
    jobs := s.jobs.map fun (q, j) => (q, if q = job then { j with shares := [] } else j) }
/-- The state with a run of cells moved from `a` to `b`. -/
def moveCells (s : State) (a b n : Nat) : State := (s.store b (s.bytes a n)).wipe a n

end State

end Sys2Proof.Machine
end

