-- ==== Sys2Proof/Machine/Place.lean ====
section
/-!
DEFINITION. Where things are: the geometry of the part (R13 to R22, R268), and reading and writing a core, a slot, a strand and
the scalar registers of the strand whose word executes.
-/

namespace Sys2Proof.Machine

/-- The kind of a flat core number, none where it names no core (R20). -/
def coreKind? (c : Nat) : Option CoreKind :=
  if c < 128 then some .mcore else if c < 640 then some .score else if c = 1023 then some .bezel else none

/-- The kind of an existing core. -/
def coreKind (c : Nat) : CoreKind := (coreKind? c).getD .bezel

/-- Every core of the part (R15). -/
def allCores : List Nat := List.range 640 ++ [1023]

/-- The die of a core (R20). -/
def dieOf (c : Nat) : Nat := if c < 128 then c / 32 else if c < 640 then (c - 128) / 128 else 0

/-- The package row of an M-core (R14). -/
def rowOf (c : Nat) : Nat := c / 8

/-- The column of an M-core in its row (R14). -/
def columnOf (c : Nat) : Nat := c % 8

/-- The tile of a core within its die (R13, R20). -/
def tileOf (c : Nat) : Nat :=
  if c < 128 then (c % 32) / 8 * 4 + (c % 8) / 2 else if c < 640 then ((c - 128) % 128) / 8 else 0

/-- The unit of the I-store from which a core fetches (R72). -/
def istoreUnit (c : Nat) : Nat := if c < 128 then c else if c < 640 then 128 + (c - 128) / 8 else 192

/-- The size of a core's I-store in bytes (R124). -/
def istoreSize (c : Nat) : Nat := match coreKind c with | .mcore => 65536 | .score => 131072 | .bezel => 131072

/-- Slots of a core (R22). -/
def slotCount (c : Nat) : Nat := match coreKind c with | .mcore => 4 | .score => 2 | .bezel => 2

/-- Lanes of a vector register (R135). -/
def maxLanes (c : Nat) : Nat := match coreKind c with | .mcore => 32 | .score => 4 | .bezel => 4

/-- Frames of a window stack (R103). -/
def maxFrames (c : Nat) : Nat := match coreKind c with | .mcore => 8 | .score => 4 | .bezel => 4

/-- Data SRAM in KiB, of which the scratchpad takes its part (R17, R111). -/
def sramKib (c : Nat) : Nat := match coreKind c with | .mcore => 512 | .score => 128 | .bezel => 272

/-- Copy contexts of a core (R313). -/
def copyContexts (c : Nat) : Nat := match coreKind c with | .mcore => 4 | .score => 2 | .bezel => 0

/-- Whether a core of a kind has a timeline (R339). -/
def timelineOn (k : CoreKind) (t : Nat) : Bool :=
  if t ≤ 1 then k != .bezel
  else if t ≤ 4 then k == .mcore
  else if t = 16 ∨ t = 17 then k == .bezel
  else decide (8 ≤ t ∧ t ≤ 15)

/-- Whether a core of a kind has the state of a part. -/
def partOn (k : CoreKind) (part : Nat) : Bool :=
  match part with
  | 4 => k == .mcore
  | 5 => k == .mcore
  | 6 => k == .mcore
  | 7 => k == .mcore
  | 9 => k == .mcore
  | 10 => k != .bezel
  | _ => true

/-- The home die of a physical address (R268). -/
def homeDie (pa : Nat) : Nat :=
  (pa / 2 ^ 7 % 4) ^^^ (pa / 2 ^ 19 % 4) ^^^ (pa / 2 ^ 31 % 4) ^^^ (pa / 2 ^ 43 % 4)

/-- Depth of an arrival queue (R295). -/
def aqDepth (n : Nat) : Nat := match n with | 0 => 8 | 1 => 32 | 2 => 32 | _ => 16

namespace State

/-- A core. -/
def core (s : State) (c : Nat) : Core := AMap.getD s.cores c {}
/-- The state with a core replaced. -/
def setCore (s : State) (c : Nat) (x : Core) : State := { s with cores := AMap.set s.cores c x }
/-- A die. -/
def die (s : State) (d : Nat) : Die := AMap.getD s.dies d {}
/-- The state with a die replaced. -/
def setDie (s : State) (d : Nat) (x : Die) : State := { s with dies := AMap.set s.dies d x }

/-- A slot of a core. -/
def slotAt (s : State) (c i : Nat) : Slot := (s.core c).slots[i]?.getD {}
/-- The state with a slot replaced. -/
def setSlotAt (s : State) (c i : Nat) (x : Slot) : State :=
  s.setCore c { s.core c with slots := (s.core c).slots.setIfInBounds i x }

/-- The core whose word executes. -/
def me (s : State) : Core := s.core s.cur.1
/-- The state with that core replaced. -/
def setMe (s : State) (x : Core) : State := s.setCore s.cur.1 x
/-- The slot whose word executes. -/
def slot (s : State) : Slot := s.slotAt s.cur.1 s.cur.2
/-- The state with that slot replaced. -/
def setSlot (s : State) (x : Slot) : State := s.setSlotAt s.cur.1 s.cur.2 x
/-- The strand whose word executes, or that the supervisor code serves. -/
def u (s : State) : Strand := s.slot.u
/-- The state with that strand replaced. -/
def setU (s : State) (x : Strand) : State := s.setSlot { s.slot with u := x }

/-- The kind of the core whose word executes. -/
def kind (s : State) : CoreKind := coreKind s.cur.1

/-- The strand in a slot. -/
def strandAt (s : State) (c i : Nat) : Strand := (s.slotAt c i).u
/-- The state with the strand of a slot replaced. -/
def setStrandAt (s : State) (c i : Nat) (x : Strand) : State := s.setSlotAt c i { s.slotAt c i with u := x }

/-- The address of the word that executes. -/
def pc (s : State) : Word := if s.slot.mode then s.slot.spc else s.u.pc

/-- The state with the next word at `x`. -/
def setPc (s : State) (x : Word) : State :=
  if s.slot.mode then s.setSlot { s.slot with spc := x } else s.setU { s.u with pc := x }

/-- A scalar register (R73): g0 reads as zero; w registers are the frame's, or the supervisor frame's (R106). -/
def reg (s : State) (r : Reg) : Word :=
  if r.toNat = 0 then 0
  else if r.toNat < 8 then s.u.g[r.toNat]?.getD 0
  else if s.slot.mode then s.slot.sw[r.toNat - 8]?.getD 0
  else s.u.w[r.toNat - 8]?.getD 0

/-- The state with a scalar register written; a write to g0 is discarded (R73, R101). -/
def setReg (s : State) (r : Reg) (x : Word) : State :=
  if r.toNat = 0 then s
  else if r.toNat < 8 then s.setU { s.u with g := s.u.g.setIfInBounds r.toNat x }
  else if s.slot.mode then s.setSlot { s.slot with sw := s.slot.sw.setIfInBounds (r.toNat - 8) x }
  else s.setU { s.u with w := s.u.w.setIfInBounds (r.toNat - 8) x }

/-- Word `i` of the register block that begins at `r` (R298, R314, R325). -/
def block (s : State) (r : Reg) (i : Nat) : Word := s.reg (r + BitVec.ofNat 5 i)

/-- Whether the strand may not block (R24). -/
def activation (s : State) : Bool := s.u.kind != .resident

/-- The job of the strand. -/
def job? (s : State) : Option Job := s.u.job.bind fun j => AMap.get? s.jobs j

/-- The key slot of the strand's sequence (R113). -/
def seqSlot (s : State) : Nat := match s.job? with | some j => j.keySlot | none => 0

/-- A key slot's entry; slot 0 is always Live and open (R332). -/
def keySlot (s : State) (k : Nat) : KeySlot := if k = 0 then { state := .live } else AMap.getD s.keys k {}

/-- A key slot is dead unless it is Live (R274, R332). -/
def keyDead (s : State) (k : Nat) : Bool := (s.keySlot k).state != .live

/-- A draw of a free value. -/
def draw (s : State) : Word × State := (Config.random s.drawn, { s with drawn := s.drawn + 1 })

/-- A launch. -/
def launch? (s : State) (l : Option Nat) : Option Launch := l.bind fun n => AMap.get? s.launches n

/-- The hidden window of a logical core of a launch, where it has one (R386). -/
def launchWindow (s : State) (l : Option Nat) (lc : Nat) : Option (Nat × Nat) := (s.launch? l).bind fun x => x.windows[lc]?

/-- The state with a launch changed, if it is there. -/
def mapLaunch (s : State) (n : Nat) (f : Launch → Launch) : State :=
  match AMap.get? s.launches n with
  | some l => { s with launches := AMap.set s.launches n (f l) }
  | none => s

/-- The state with a job changed, if it is there. -/
def mapJob (s : State) (n : Nat) (f : Job → Job) : State :=
  match AMap.get? s.jobs n with
  | some j => { s with jobs := AMap.set s.jobs n (f j) }
  | none => s

/-- The state with a unit changed, if it is there. -/
def mapUnit (s : State) (n : Option Nat) (f : UnitRec → UnitRec) : State :=
  match n.bind fun k => (AMap.get? s.units k).map fun x => (k, x) with
  | some (k, x) => { s with units := AMap.set s.units k (f x) }
  | none => s

/-- A cause latched for a slot (R367, R369); a cause already latched there with the same particulars is not doubled. -/
def latch (s : State) (c i : Nat) (l : Latched) : State :=
  let x := s.slotAt c i
  if x.latched.contains l then s else s.setSlotAt c i { x with latched := x.latched ++ [l] }

/-- The Span unit changed. -/
def withSpan (s : State) (f : Span → Span) : State := { s with span := f s.span }

/-- The class of what this box sends, and its bytes before they are sealed (R418; of the bytes, those that name things are free values;
log 47). -/
def spanRecord : SpanOut → Nat × List Byte
  | .pageReq n w => (0, Config.spanForm [0, n, w.toNat])
  | .pageData n bs => (1, Config.spanForm [1, n] ++ bs)
  | .message h w ws => (2, Config.spanForm [2, h.toNat] ++ (w :: ws).flatMap fun x => leBytes 8 x.toNat)
  | .bounce w ws => (2, Config.spanForm [3] ++ (w :: ws).flatMap fun x => leBytes 8 x.toNat)
  | .atomic c i w va n x e => (3, Config.spanForm [4, c, i, w.toNat, va.toNat, n, x, e])
  | .performed old => (3, Config.spanForm [5] ++ leBytes 8 old.toNat)
  | .refused asker => (3, Config.spanForm [6, asker.toNat])

/-- The 280 bytes of a flit: sequence, acknowledged sequence and class, 250 bytes of payload, the CRC, zeros (R418). -/
def flitBytes (seq ack cls : Nat) (payload : List Byte) : List Byte :=
  let body := leBytes 8 (seq + ack * 2 ^ 8 + cls * 2 ^ 16) ++ (payload ++ List.replicate 250 0).take 250
  body ++ leBytes 8 (Config.crc64 body).toNat ++ List.replicate 14 0

/-- A record sent over the Span: sealed under the link key, the IV of direction and count, unless it is control; and cut into flits, which
are kept until they are acknowledged (R418 to R420). -/
def sendRecordOut (x : Span) (o : SpanOut) : Span :=
  let (cls, plain) := spanRecord o
  let iv := leBytes 4 Config.spanDirection.toNat ++ leBytes 8 x.sealed
  let key := Config.linkKey x.joins
  let cipher := Aes.counterMode key iv plain
  let bytes := if cls = 0 then plain else cipher ++ Aes.gcmTag key iv [] cipher
  let n := (bytes.length + 249) / 250
  { x with
    out := x.out ++ [o], seq := (x.seq + n) % 256, sealed := if cls = 0 then x.sealed else x.sealed + 1
    unacked := x.unacked ++ (List.range n).map fun i =>
      ((x.seq + i) % 256, flitBytes ((x.seq + i) % 256) ((x.expect + 255) % 256) cls (bytes.drop (250 * i))) }

/-- Records that this box sends over the Span. -/
def sendSpan (s : State) (l : List SpanOut) : State := s.withSpan fun x => l.foldl sendRecordOut x

/-- Messages of the jobs that satisfy `p` that have come back undelivered, sent again (R379). -/
def resendBounced (s : State) (p : Option Nat → Bool) : State :=
  let mine := s.span.bounced.filter fun x => p x.1
  (s.withSpan fun x => { x with bounced := x.bounced.filter fun y => !p y.1 }).sendSpan (mine.map fun (_, h, w, ws) => .message h w ws)

/-- The core on which a cause of a core is reported: the leader of the cuff that it is a member of, else itself (R161). -/
def reportCore (s : State) (c : Nat) : Nat :=
  if coreKind? c == some .score then
    ((List.range ((c - 128) % 8 + 1)).map (c - ·)).find?
      (fun b => (s.strandAt b 0).cuff != 0 && decide (c < b + 2 ^ (s.strandAt b 0).cuff)) |>.getD c
  else c

/-- Where the strand of a slot is held, if there is one: a lockstep pair's strand, which runs on both cores, at the even one (R162). -/
def holderOf (s : State) (c i : Nat) : Option (Nat × Nat) :=
  if (s.slotAt c i).status != .free then some (c, i)
  else if coreKind? c == some .mcore && c % 2 == 1 && (s.slotAt (c - 1) i).pair.isSome then some (c - 1, i)
  else none

/-- The strands that a core runs, by slot. -/
def strandsOn (s : State) (c : Nat) : List (Nat × Nat) := (List.range (slotCount c)).filterMap (s.holderOf c)

/-- A cause raised for a core goes to the lowest-numbered slot whose strand has IE set; with no strand on the core, to the idle
context of slot 0; with strands but none that accepts, it waits at the core (R369). A cuff's causes are reported on its leader, a
lockstep pair's on its even core. -/
def latchCore (s : State) (c : Nat) (l : Latched) : State :=
  let c := s.reportCore c
  let held := s.strandsOn c
  match held.find? fun x => (s.slotAt x.1 x.2).ie with
  | some (k, i) => s.latch k i l
  | none => if held.isEmpty then s.latch c 0 l else s.setCore c { s.core c with latched := (s.core c).latched ++ [l] }

/-! ### Performance counters (R361) -/

/-- One more event of a code on a core. -/
def count (s : State) (c code n : Nat) : State :=
  let k := s.core c
  if k.events.toList.all (· != code) then s
  else s.setCore c { k with pmc := Vector.ofFn fun i => if k.events[i] == code then k.pmc[i] + BitVec.ofNat 64 n else k.pmc[i] }

/-! ### Causes and strands of a core -/

/-- Whether an asynchronous cause is pending for the strand of a slot with IE set: its own, or one that waits at the core for the lowest
slot that accepts it (R367, R369). -/
def causePends (s : State) (c i : Nat) : Bool :=
  let x := s.slotAt c i
  x.ie && (!x.latched.isEmpty ||
    (!(s.core c).latched.isEmpty && ((s.strandsOn c).find? fun y => (s.slotAt y.1 y.2).ie) == some (c, i)))

/-- The slots in use, as (core, slot), of every core. -/
def occupied (s : State) : List (Nat × Nat) :=
  s.cores.flatMap fun (c, x) =>
    (List.range (slotCount c)).filterMap fun i =>
      if (x.slots[i]?.getD {}).status != .free then some (c, i) else none

/-- Where the resident strand of a logical core of a launch sits. -/
def findStrand (s : State) (launch lcore : Nat) : Option (Nat × Nat) :=
  s.occupied.find? fun (c, i) =>
    let t := s.strandAt c i
    t.kind == .resident && t.launch == some launch && t.lcore == lcore

/-- Whether a core's die is in retention; the Bezel stays powered (R401, R414). -/
def asleep (s : State) (c : Nat) : Bool := coreKind c != .bezel && (s.die (dieOf c)).retained

/-- A die in retention wakes, and what woke it happens after its exit (R414). -/
def afterExit (s : State) (d : Nat) (e : Event) : State :=
  { s with agenda := { what := .dieRetentionExit, args := { die := d } } :: e :: s.agenda }

end State

end Sys2Proof.Machine
end

