-- ==== Sys2Proof/Machine/Records.lean ====
section
/-!
DEFINITION. The byte layouts in which a strand's state is saved: frame records (R104), the scalar record (R133), vector parts
(R166), the queue and repetition record (R322), collective views and copy contexts (R364) and the STRAND record (R382), each
with its reader.
-/

namespace Sys2Proof.Machine

namespace Record

/-- Words as bytes, 8 each. -/
def words (ws : List Word) : List Byte := ws.flatMap fun w => leBytes 8 w.toNat

/-- Zero bytes. -/
def zeros (n : Nat) : List Byte := List.replicate n 0

/-- The word at a byte offset. -/
def word (bs : List Byte) (off : Nat) : Word := leWord ((bs.drop off).take 8)

/-- Whether `n` bytes from an offset are zero. -/
def blank (bs : List Byte) (off n : Nat) : Bool := ((bs.drop off).take n).all (· == 0)

/-! ### Scalar state -/

/-- A frame record of 144 bytes (R104). -/
def frame (f : Frame) : List Byte := words f.w.toList ++ words [f.rpc, 0]

/-- A frame read back; RPC keeps its read-only bits at zero (R110). -/
def readFrame (bs : List Byte) : Frame :=
  { w := Vector.ofFn fun i => word bs (8 * i.val), rpc := word bs 128 &&& ~~~3 }

/-- The scalar record of 320 bytes (R133); a run in progress records its snapshots of MEMDEF and FPCTL (R322). -/
def scalar (pc : Word) (u : Strand) : List Byte :=
  let fpctl := if u.rep.active then (u.fpctl &&& 0x3F00) ||| (u.rep.snap.fpctl &&& 0x3F0003) else u.fpctl
  let memdef := if u.rep.active then u.rep.snap.memdef else u.memdef
  words ([pc, u.rpc] ++ u.g.toList.drop 1 ++ u.w.toList ++ [fpctl, memdef, u.wsp, BitVec.ofNat 64 u.wspilled]) ++ zeros 24

/-- A MEMDEF value that no MOD would refuse (R85, R109). One with a reserved bit set is invalid too (DESIGN CHOICE: R133 refuses an invalid
MEMDEF and does not say what its reserved bits do in a record; log 61). -/
def memdefValid (x : Word) : Bool :=
  decide (bits x 2 0 ≤ 4) && decide (bits x 5 3 ≤ 5) && bits x 9 8 != 3 && bits x 63 10 == 0

/-- Whether a scalar record passes the checks of CTXLD part 1 (R133). -/
def scalarValid (bs : List Byte) : Bool :=
  bits (word bs 0) 1 0 == 0 && blank bs 296 24 && memdefValid (word bs 272) && decide ((word bs 288).toNat ≤ 65535)

/-- A scalar record loaded; RPC and FPCTL keep their read-only bits at zero. A run in progress takes its snapshots of MEMDEF and FPCTL from it
(R322). -/
def readScalar (bs : List Byte) (u : Strand) : Strand :=
  { u with
    rep := if u.rep.active then
      { u.rep with snap := { u.rep.snap with memdef := word bs 272, fpctl := word bs 264 &&& 0x3F3F03 } } else u.rep
    pc := word bs 0
    rpc := word bs 8 &&& ~~~3
    g := Vector.ofFn fun i => if i.val = 0 then 0 else word bs (16 + 8 * (i.val - 1))
    w := Vector.ofFn fun i => word bs (72 + 8 * i.val)
    fpctl := word bs 264 &&& 0x3F3F03
    memdef := word bs 272
    wsp := word bs 280
    wspilled := (word bs 288).toNat
    frames := [] }

/-! ### Vector, mask and link state -/

/-- v0 to v31 in registers of `n` lanes; registers not granted are zero (R166 part 2). -/
def vectors (n : Nat) (u : Strand) : List Byte :=
  (List.range 32).flatMap fun r =>
    if r < u.vregs then (List.range n).flatMap fun i => leBytes 4 (((u.v[r]?.getD (Vector.replicate 32 0))[i]?.getD 0).toNat)
    else zeros (4 * n)

/-- Part 2 loaded from a record of `m`-lane registers into registers of `n` lanes (R166). -/
def readVectors (m n : Nat) (bs : List Byte) (u : Strand) : Strand :=
  { u with
    v := Vector.ofFn fun r =>
      if r.val < u.vregs then
        Vector.ofFn fun i => if i.val < n then BitVec.ofNat 32 (leNat ((bs.drop ((r.val * m + i.val) * 4)).take 4)) else 0
      else u.v[r.val] }

/-- VGRANTED as a word (R112). -/
def vgranted (u : Strand) : Word := BitVec.ofNat 64 (u.vlen + u.vregs * 256)

/-- Part 3, 160 bytes (R166). -/
def masks (u : Strand) : List Byte :=
  words ([vgranted u] ++ u.k.toList.map (·.setWidth 64) ++ u.links.toList.map (·.value) ++
    [BitVec.ofNat 64 (((List.range 8).map fun i => if (u.links[i]?.getD {}).present then 2 ^ i else 0).sum)]) ++ zeros 16

/-- Whether the VLEN and VREGS of part 3 fit a core of `n` lanes. -/
def grantFits (n : Nat) (bs : List Byte) : Bool := decide (bits (word bs 0) 5 0 ≤ n) && decide (bits (word bs 0) 13 8 ≤ 32)

/-- Whether part 3 is in order whatever the core: VREGS a multiple of 8, and reserved bytes zero (R166). -/
def masksShaped (bs : List Byte) : Bool :=
  let vg := word bs 0
  bits vg 13 8 % 8 == 0 && bits vg 7 6 == 0 && bits vg 63 14 == 0 &&
  ((List.range 8).all fun i => blank bs (12 + 8 * i) 4) && blank bs 137 7 && blank bs 144 16

/-- Whether part 3 passes its checks on a core of `n` lanes (R166). -/
def masksValid (n : Nat) (bs : List Byte) : Bool := grantFits n bs && masksShaped bs

/-- The banks that a grant of `n` registers gives, those that were off reading +0 (R138). -/
def bankStates (n : Nat) : Vector Bank 4 := Vector.ofFn fun b => if 8 * b.val < n then .active else .off

/-- Part 3 loaded on a core of `n` lanes; it grants the recorded registers and lanes, which read +0. Mask bits of no lane read zero
(R139), and a link register keeps its reservation for a value on its way (R157). -/
def readMasks (n : Nat) (bs : List Byte) (u : Strand) : Strand :=
  let vg := word bs 0
  let vregs := bits vg 13 8
  { u with
    vlen := bits vg 5 0
    vregs := vregs
    banks := bankStates vregs
    v := Vector.ofFn fun r => if r.val < min vregs u.vregs then u.v[r.val] else Vector.replicate 32 0
    k := Vector.ofFn fun i => BitVec.ofNat 32 ((word bs (8 + 8 * i.val)).toNat % 2 ^ n)
    links := Vector.ofFn fun i =>
      { value := word bs (72 + 8 * i.val), present := bit (word bs 136) i.val, reserved := u.links[i].reserved } }

/-! ### Queue and repetition state -/

/-- Part 8, 1,408 bytes (R322). -/
def queues (u : Strand) : List Byte :=
  let r := u.rep
  let q (n : Nat) : List Word := ((u.queues[n]?.getD {}).items ++ List.replicate 16 0).take 16
  let flags : Nat := (if r.captured then 1 else 0) + (if r.active then 2 else 0) + (if r.fromBody then 4 else 0) +
    r.body.length * 2 ^ 8 + r.stagger * 2 ^ 16 + r.next * 2 ^ 24
  words ((List.range 8).flatMap q) ++
  (List.range 8).map (fun n => BitVec.ofNat 8 (u.queues[n]?.getD {}).items.length) ++
  words [BitVec.ofNat 64 flags, BitVec.ofNat 64 r.count, BitVec.ofNat 64 r.iteration, r.spc] ++
  (r.body ++ List.replicate (32 - r.body.length) 0#32).flatMap (fun w : BitVec 32 => leBytes 4 w.toNat) ++
  words (r.snap.g.toList.drop 1 ++ r.snap.w.toList.take 16) ++ zeros 32

/-- Whether part 8 passes its checks (R322). -/
def queuesValid (mcore : Bool) (bs : List Byte) : Bool :=
  let f := word bs 1032
  ((List.range 8).all fun i => decide ((bs.getD (1024 + i) 0).toNat ≤ 16)) &&
  bits f 7 3 == 0 && bits f 15 14 == 0 && bits f 23 21 == 0 && bits f 63 29 == 0 && blank bs 1376 32 &&
  !(bit f 1 && (bits f 13 8 == 0 || decide (bits f 13 8 > 32))) && (mcore || !bit f 0)

/-- Part 8 loaded. The address of the body is that of the next body word where a trap had left the strand at it; otherwise the record does
not tell it, and it is a free value (log 61). -/
def readQueues (pc : Word) (bs : List Byte) (u : Strand) : Strand :=
  let f := word bs 1032
  let n := bits f 13 8
  { u with
    queues := Vector.ofFn fun i =>
      { items := (List.range (bs.getD (1024 + i.val) 0).toNat).map fun e => word bs (i.val * 128 + e * 8)
        reserved := u.queues[i].reserved }
    rep :=
      { captured := bit f 0, active := bit f 1, fromBody := bit f 2
        body := (List.range n).map fun i => BitVec.ofNat 32 (leNat ((bs.drop (1064 + 4 * i)).take 4))
        base := if bit f 2 then pc - BitVec.ofNat 64 (4 * bits f 28 24) else Config.bodyBase bs &&& ~~~3
        stagger := bits f 20 16, next := bits f 28 24, count := (word bs 1040).toNat, iteration := (word bs 1048).toNat
        spc := word bs 1056
        snap :=
          { g := Vector.ofFn fun i => if i.val = 0 then 0 else word bs (1192 + 8 * (i.val - 1))
            w := Vector.ofFn fun i => if i.val < 16 then word bs (1248 + 8 * i.val) else 0
            memdef := u.memdef, fpctl := u.fpctl } } }

/-! ### Timelines -/

/-- A collective view (R364), 320 bytes. -/
def view (x : CollView) : List Byte :=
  words [x.issued, x.reached, BitVec.ofNat 64 x.withdrawn.length] ++ zeros 40 ++
  (x.withdrawn.flatMap fun (wb, a, b, t, m) => words [wb, a, b, t, BitVec.ofNat 64 m] ++ zeros 24) ++
  zeros (64 * (4 - x.withdrawn.length))

/-- A copy command record (R364), 64 bytes. -/
def copyCmd (x : CopyCmd) : List Byte :=
  words ([BitVec.ofNat 64 (x.op + x.mod * 64 + x.batch * 2 ^ 32), x.ticket] ++ (x.a ++ List.replicate 4 0).take 4 ++
    [x.wb, BitVec.ofNat 64 (x.done + if x.paused then 2 ^ 63 else 0)])

/-- A copy context (R364), 1,088 bytes, of the commands that the timeline has not reached; one done before an older one has all its bytes
done. -/
def copyCtx (x : CopyCtx) : List Byte :=
  let cs := x.cmds
  let inOpen := (cs.filter fun d => d.batch == x.batch).length
  words [x.issued, x.reached, BitVec.ofNat 64 (cs.length + inOpen * 256), BitVec.ofNat 64 x.batch] ++ zeros 32 ++
  cs.flatMap copyCmd ++ zeros (64 * (16 - cs.length))

/-- Part 10, 6,976 bytes (R364): `tlm` is the matrix-load timeline where the slot is matrix owner, `held` the contexts that the
strand holds. -/
def timelines (tlm : Word × Word) (held : List (Option CopyCtx)) (u : Strand) : List Byte :=
  words [tlm.1, tlm.2,
    BitVec.ofNat 64 (((List.range 4).map fun n => if (held.getD n none).isSome then 2 ^ n else 0).sum)] ++ zeros 40 ++
  u.views.toList.flatMap view ++
  (List.range 4).flatMap fun n => match held.getD n none with | some x => copyCtx x | none => zeros 1088

/-! ### The STRAND record -/

/-- A frame of a strand with WSPILLED raised for those that a save writes (R133): the frames but the current one, oldest first. -/
def spilled (u : Strand) : List Byte := u.frames.reverse.flatMap frame

/-- The STRAND record of R382, 8,192 bytes, of a strand that resumes at `pc` with progress `eprog`. -/
def strand (lanes launch : Nat) (waiting : Bool) (pc : Word) (eprog : Nat) (locked hasMatrix hasTimeline : Bool)
    (u : Strand) : List Byte :=
  let kind : Nat := match u.kind with | .resident => 0 | .handler => 1 | .gust => 2
  let f := u.frames.length
  let cstat := kind * 16 + u.cuff * 2 ^ 28 + if locked then 2 ^ 30 else 0
  leBytes 4 launch ++ leBytes 2 u.lcore ++ leBytes 1 kind ++ leBytes 1 (if waiting then 1 else 0) ++
  words [BitVec.ofNat 64 cstat, BitVec.ofNat 64 eprog] ++
  leBytes 4 (if u.kind == .resident then 0xFFFFFFFF else u.entry) ++
  leBytes 4 ((if hasMatrix then 1 else 0) + if hasTimeline then 2 else 0) ++ zeros 32 ++
  scalar pc { u with wspilled := u.wspilled + f, frames := [] } ++ masks u ++
  vectors lanes u ++ zeros (4096 - 128 * lanes) ++ queues u ++
  words [BitVec.ofNat 64 f] ++ spilled u ++ zeros (1008 - 144 * f) ++ zeros 1128

end Record

end Sys2Proof.Machine
end

