-- ==== Sys2Proof/Machine/Cache.lean ====
section
/-!
DEFINITION. Physical memory under key slots (R272 to R274), untracked lines in L1s and L2s (R257 to R261, R278), and the states that a
tracked access gives its line in L1s, L2s, home directory and host (R265 to R271, R273, R275). Tracked data has one value, in memory; the
line states follow the accesses (log 3).
-/

namespace Sys2Proof.Machine

/-- The XTS key of number `n`, 64 bytes (R332). -/
def slotKey (n : Nat) : List Byte := (List.range 8).flatMap fun i => leBytes 8 (Config.keyWord n i).toNat

/-- A line's data sealed under key `a`, 0 being none, as an access under key `b` opens it (R272, R273). -/
def crossed (a b line : Nat) (data : List Byte) : List Byte :=
  if a = b then data
  else
    let unit := leBytes 16 (line * 128)
    let out := if a = 0 then data else Aes.sealUnit (slotKey a) unit data
    if b = 0 then out else Aes.openUnit (slotKey b) unit out

/-- The byte of an untracked line that its L1 holds at an offset: dirty, or of the copy (R257). -/
def UtLine.at? (x : UtLine) (o : Nat) : Option Byte :=
  match AMap.get? x.dirty o with | some b => some b | none => x.copy.bind (·[o]?)

/-- The AtomicReq of an atomic (R393): its op as in R81, bit 4 the width of 4 bytes, and the two operands, 8
bytes each (DESIGN CHOICE: R393 gives 16 bytes of operands and no order; log 62). -/
def atomicReq (op n operand expected : Nat) : HostTx :=
  { op := 6, line := 0, attr := op + if n = 4 then 16 else 0, operands := leBytes 8 operand ++ leBytes 8 expected }

namespace State

/-! ### Sealed lines -/

/-- The key of a slot; slot 0 is open (R272). -/
def keyOf (s : State) (slot : Nat) : Nat := (s.keySlot slot).key

/-- The key under which the line of a physical address was last written. -/
def sealOf (s : State) (pa : Nat) : Nat := AMap.getD s.seals (lineOf pa) 0

/-- A line of physical memory as an access under a key reads it (R273). -/
def plainLine (s : State) (line key : Nat) : List Byte :=
  crossed (AMap.getD s.seals line 0) key line (s.bytes (line * 128) 128)

/-- A byte of physical memory as an access under a key reads it. -/
def plainByte (s : State) (pa key : Nat) : Byte :=
  if s.sealOf pa = key then s.byte pa else (s.plainLine (lineOf pa) key).getD (pa % 128) 0

/-- The line of a physical address made one of `key`: its bytes become what an access under that key reads (R273). -/
def resealLine (s : State) (pa key : Nat) : State :=
  if s.sealOf pa = key then s
  else
    { s.store (lineOf pa * 128) (s.plainLine (lineOf pa) key) with
      seals := if key = 0 then AMap.erase s.seals (lineOf pa) else AMap.set s.seals (lineOf pa) key }

/-- A line as the host and platform memory hold it: sealed under the key that it was last written under (R272). -/
def sealedLine (s : State) (line : Nat) : List Byte := crossed (AMap.getD s.seals line 0) 0 line (s.bytes (line * 128) 128)

/-- Physical bytes read under a key slot. -/
def physBytes (s : State) (pa n slot : Nat) : List Byte := (List.range n).map fun i => s.plainByte (pa + i) (s.keyOf slot)

/-- Lines in a run of bytes, none in an empty one. -/
def lineSpan (pa n : Nat) : Nat := if n = 0 then 0 else lineOf (pa + n - 1) - lineOf pa + 1

/-- The lines of a run of bytes. -/
def linesIn (pa n : Nat) : List Nat := (List.range (lineSpan pa n)).map (lineOf pa + ·)

/-- Physical bytes written under a key slot, each line sealed under its key; a write under a dead slot is discarded (R272, R274). -/
def physStore (s : State) (pa : Nat) (bs : List Byte) (slot : Nat) : State :=
  if s.keyDead slot then s
  else ((List.range (lineSpan pa bs.length)).foldl (fun s i => s.resealLine ((lineOf pa + i) * 128) (s.keyOf slot)) s).store pa bs

/-- Bytes of any cell region: platform memory under a slot, or an SRAM. -/
def cellBytes (s : State) (key n slot : Nat) : List Byte := if isPhysical key then s.physBytes key n slot else s.bytes key n

/-- Bytes stored to any cell region. -/
def cellStore (s : State) (key : Nat) (bs : List Byte) (slot : Nat) : State :=
  if isPhysical key then s.physStore key bs slot else s.store key bs

/-- What the host holds of a line of a key slot kept, as the part is about to make the line dirty (R274). Slot 0 never dies. -/
def noteHost (s : State) (line slot : Nat) : State :=
  if slot = 0 || (AMap.get? s.hostCopies line).isSome then s
  else { s with hostCopies := AMap.set s.hostCopies line (s.bytes (line * 128) 128, AMap.getD s.seals line 0) }

/-- The host has the part's data of a line, or the line is the part's no more. -/
def forgetHost (s : State) (line : Nat) : State := { s with hostCopies := AMap.erase s.hostCopies line }

/-- The data of a line lost with its only copy: memory keeps the ciphertext that the host last got (R274). -/
def loseLine (s : State) (line : Nat) : State :=
  match AMap.get? s.hostCopies line with
  | none => s
  | some (bs, key) =>
    { (s.store (line * 128) bs).forgetHost line with
      seals := if key = 0 then AMap.erase s.seals line else AMap.set s.seals line key }

/-- A read or write of a line that an L1 lacks, in its die's L2 or not (R361). -/
def countMiss (s : State) (c : Nat) (inL2 : Bool) : State :=
  let s := s.count c 3 1
  if inL2 then s else s.count c 4 1

/-! ### Untracked lines -/

/-- An untracked line of an L1. -/
def utLine (s : State) (c line : Nat) : UtLine := AMap.getD (s.core c).untracked line {}

/-- An untracked line of an L1 set; one that holds nothing is not listed. -/
def setUt (s : State) (c line : Nat) (x : UtLine) : State :=
  let k := s.core c
  s.setCore c { k with
    untracked := if x.copy.isNone && x.dirty.isEmpty then AMap.erase k.untracked line else AMap.set k.untracked line x }

/-- Whether a byte of platform memory holds a write of a job in a phase later than one. -/
def laterWrite (s : State) (job : Option Nat) (pa phase : Nat) : Bool :=
  match AMap.get? s.stamps pa with | some (p, j) => j == job && decide (phase < p) | none => false

/-- A byte of an untracked line written to platform memory by a core, in its phase and for its job: one of a later phase of the job stands
(R259), and a copy in the die's L2 is updated (R278). -/
def publishByte (s : State) (c pa slot : Nat) (b : Byte) : State :=
  let job := (s.core c).job
  let phase := (s.core c).phase.toNat
  let d := dieOf c
  if s.laterWrite job pa phase then s
  else
    let s := s.physStore pa [b] slot
    let s := if phase = 0 then s else { s with stamps := AMap.set s.stamps pa (phase, job) }
    let x := s.die d
    match AMap.get? x.l2clean (lineOf pa) with
    | some (n, bs) => s.setDie d { x with
        l2clean := if n = slot then AMap.set x.l2clean (lineOf pa) (n, bs.set (pa % 128) b) else AMap.erase x.l2clean (lineOf pa) }
    | none => s

/-- Untracked bytes written to platform memory in a phase of a core (R254, R278). -/
def untrackedWriteBack (s : State) (c pa slot : Nat) : List Byte → State
  | [] => s
  | b :: bs => untrackedWriteBack (s.publishByte c pa slot b) c (pa + 1) slot bs

/-- The dirty bytes of an untracked line written to platform memory (R257, R278). -/
def publishLine (s : State) (c line : Nat) : State :=
  let x := s.utLine c line
  x.dirty.foldl (fun s (o, b) => s.publishByte c (line * 128 + o) x.slot b) s

/-- The bytes of an untracked line in the die's L2, which a miss fills from memory (R278); a copy of another slot is dropped (R273). -/
def l2Untracked (s : State) (d line slot : Nat) : List Byte × State :=
  let x := s.die d
  match AMap.get? x.l2clean line with
  | some (n, bs) => if n = slot then (bs, s) else fresh x
  | none => fresh x
where
  /-- The line read from memory into the L2. -/
  fresh (x : Die) : List Byte × State :=
    let bs := s.plainLine line (s.keyOf slot)
    (bs, s.setDie d { x with l2clean := AMap.set x.l2clean line (slot, bs) })

/-- An untracked line of an L1 as an access under a slot meets it: a copy of another slot is written back and dropped (R273). -/
def meetSlot (s : State) (c line slot : Nat) : State :=
  if (AMap.get? (s.core c).untracked line).all (·.slot == slot) then s else (s.publishLine c line).setUt c line {}

/-- Bytes `o` to `o + n - 1` of an untracked line read by a core (R259, R278): from its L1 where that has them, else with the line, which
comes from the L2 and, but for POLICY strm, enters the L1 (R223). -/
def untrackedPiece (s : State) (c line slot policy o n : Nat) : List Byte × State :=
  let s := s.meetSlot c line slot
  let x := s.utLine c line
  let held := (List.range n).map fun i => x.at? (o + i)
  if held.all (·.isSome) then (held.map (·.getD 0), s)
  else
    let s := s.countMiss c ((AMap.get? (s.die (dieOf c)).l2clean line).any (·.1 == slot))
    let (bs, s) := s.l2Untracked (dieOf c) line slot
    let y : UtLine := { x with slot := slot, copy := some bs }
    ((List.range n).map fun i => (y.at? (o + i)).getD 0, if policy = 1 then s else s.setUt c line y)

/-- A run of untracked bytes read by a core. -/
def untrackedBytes (s : State) (c : Nat) (g : Segment) : List Byte × State :=
  (linesIn g.key g.length).foldl (fun (bs, s) l =>
    let a := Nat.max g.key (l * 128)
    let r := s.untrackedPiece c l g.slot g.policy (a % 128) (Nat.min (g.key + g.length) (l * 128 + 128) - a)
    (bs ++ r.1, r.2)) ([], s)

/-- A line of an L1 marked as the next to replace, if it is there (R89, R223). -/
def markLine (s : State) (c line : Nat) : State :=
  let k := s.core c
  if ((AMap.get? k.lines line).isSome || (AMap.get? k.untracked line).isSome) && !k.marked.contains line then
    s.setCore c { k with marked := k.marked ++ [line] } else s

/-- An untracked byte written by a core enters its L1 (R257); with POLICY strm, a line that the L1 lacks is not brought there, and the
byte goes to platform memory (R223). -/
def untrackedWrite (s : State) (c pa slot policy : Nat) (b : Byte) : State :=
  let line := lineOf pa
  let s := s.meetSlot c line slot
  if policy = 1 && (AMap.get? (s.core c).untracked line).isNone then s.publishByte c pa slot b
  else
    let x := s.utLine c line
    s.setUt c line { x with slot := slot, dirty := AMap.set x.dirty (pa % 128) b }

/-- Untracked bytes written by a core from an address on; POLICY last marks their lines (R223). -/
def untrackedStore (s : State) (c pa slot policy : Nat) : List Byte → State
  | [] => s
  | b :: bs =>
    let t := s.untrackedWrite c pa slot policy b
    untrackedStore (if policy = 2 then t.markLine c (lineOf pa) else t) c (pa + 1) slot policy bs

/-- The dirty bytes of an L1's untracked lines that satisfy `p` written to platform memory, the lines left clean and valid (R238, R257). -/
def flushUntracked (s : State) (c : Nat) (p : Nat → Bool) : State :=
  ((s.core c).untracked.filter fun (l, x) => p l && !x.dirty.isEmpty).foldl (fun s (l, x) =>
    let s := s.publishLine c l
    let (bs, s) := match x.copy with
      | some bs => (x.dirty.foldl (fun (bs : List Byte) (o, b) => bs.set o b) bs, s)
      | none => s.l2Untracked (dieOf c) l x.slot
    s.setUt c l { x with copy := some bs, dirty := [] }) s

/-- The untracked lines of an L1 that satisfy `p` dropped without a write (R238 INVR, R257 step 3). -/
def dropUntracked (s : State) (c : Nat) (p : Nat → Bool) : State :=
  let k := s.core c
  s.setCore c { k with untracked := k.untracked.filter fun (l, _) => !p l }

/-- The untracked lines of a die's L2 that satisfy `p` dropped. -/
def dropL2Untracked (s : State) (d : Nat) (p : Nat → Bool) : State :=
  let x := s.die d
  s.setDie d { x with l2clean := x.l2clean.filter fun (l, _) => !p l }

/-- Every clean untracked copy of the part dropped, as a rise of GPHASE requires (R258). -/
def dropCleanUntracked (s : State) : State :=
  { s with
    cores := s.cores.map fun (c, x) => (c, { x with
      untracked := (x.untracked.map fun (l, y) => (l, { y with copy := none })).filter fun (_, y) => !y.dirty.isEmpty })
    dies := s.dies.map fun (d, x) => (d, { x with l2clean := [] }) }

/-! ### Line states -/

/-- The state of a line in a core's L1. -/
def l1State (s : State) (c line : Nat) : LineState := (AMap.getD (s.core c).lines line (.i, 0)).1

/-- The L1 state of a line set; I is not listed, and is marked no more. -/
def setL1 (s : State) (c line : Nat) (x : LineState) (slot : Nat) : State :=
  let k := s.core c
  s.setCore c (if x = .i then { k with lines := AMap.erase k.lines line, marked := k.marked.erase line }
    else { k with lines := AMap.set k.lines line (x, slot) })

/-- The L2 entry of a line on a die. -/
def l2Line (s : State) (d line : Nat) : L2Line := AMap.getD (s.die d).l2 line {}

/-- The L2 entry of a line that the die holds. -/
def holdL2 (s : State) (d line : Nat) (x : L2Line) : State := s.setDie d { s.die d with l2 := AMap.set (s.die d).l2 line x }

/-- The L2 entry of a line set; an I entry is not listed. -/
def setL2 (s : State) (d line : Nat) (x : L2Line) : State :=
  if x.state = .i then s.setDie d { s.die d with l2 := AMap.erase (s.die d).l2 line } else s.holdL2 d line x

/-- The home directory's entry of a line. -/
def dirLine (s : State) (line : Nat) : DirEntry := AMap.getD (s.die (homeDie (line * 128))).dir line {}

/-- The directory entry of a line in use. -/
def holdDir (s : State) (line : Nat) (x : DirEntry) : State :=
  let h := homeDie (line * 128)
  let k := s.die h
  s.setDie h { k with dir := AMap.set k.dir line x, order := if k.order.contains line then k.order else k.order ++ [line] }

/-- The directory entry of a line set; an entry for no die that serves nothing is freed. -/
def setDir (s : State) (line : Nat) (x : DirEntry) : State :=
  let h := homeDie (line * 128)
  let k := s.die h
  if x.state = .i ∧ x.busy = none then
    s.setDie h { k with dir := AMap.erase k.dir line, order := k.order.filter (· != line) }
  else s.holdDir line x

/-- The part's state of a line at the host set. -/
def setHostLine (s : State) (line : Nat) (x : LineState) : State :=
  if x = .i then { s.forgetHost line with hostLines := AMap.erase s.hostLines line }
  else { s with hostLines := AMap.set s.hostLines line x }

/-- The part's state of a line at the host. -/
def hostLine (s : State) (line : Nat) : LineState := AMap.getD s.hostLines line .i

/-- Whether a level must write a line back before it drops it (R266). -/
def dirtyState : LineState → Bool
  | .m => true | .o => true | _ => false

/-- A dirty state made clean: M to E, O to S. -/
def cleaned : LineState → LineState
  | .m => .e | .o => .s | x => x

/-- The L1 copies of a line on a die recalled by their presence bits, all but that of one core: to S or to I. A dirty copy leaves the L2
with M (R267). -/
def recallL1s (s : State) (d line : Nat) (keepShared : Bool) (but : Option Nat := none) : State :=
  let x := s.l2Line d line
  let asked := x.present.filter (some · != but)
  if asked.isEmpty then s else
  let dirty := asked.any fun c => s.l1State c line == .m
  let s := asked.foldl
    (fun s c => if s.l1State c line == .i then s else s.setL1 c line (if keepShared then .s else .i) x.slot) s
  s.setL2 d line { x with
    state := if dirty && x.state == .e then .m else x.state
    present := x.present.filter fun c => some c == but || (keepShared && s.l1State c line != .i) }

/-- Whether a die holds dirty data of a line, in its L2 or in an L1; poison of a dead slot is no data (R274). -/
def dieDirty (s : State) (d line : Nat) : Bool :=
  !(s.l2Line d line).dead &&
    (dirtyState (s.l2Line d line).state || (s.l2Line d line).present.any fun c => s.l1State c line == .m)

/-- Every copy of a line on a die dropped. -/
def invalidateDie (s : State) (d line : Nat) : State :=
  let s := s.recallL1s d line false
  s.setL2 d line { s.l2Line d line with state := .i }

/-- Every copy of a line in the part dropped, and its directory entry freed; the host then holds the data (R271). -/
def backInvalidate (s : State) (line : Nat) : State :=
  let e := s.dirLine line
  let s := e.present.foldl (fun s d => s.invalidateDie d line) s
  (s.setDir line {}).setHostLine line .i

/-! ### The host's transactions (R275, R393) -/

/-- The module that carries a line's traffic: one of the two of its home die, the other while that one is down (R391, R392). -/
def moduleOf (s : State) (line : Nat) : Nat :=
  let h := homeDie (line * 128)
  let m := if Config.hostModule line then 1 else 0
  2 * h + if (s.die h).modulesUp[m]?.getD true then m else 1 - m

/-- The lowest TXID that no open transaction of a module has (R393). -/
def freshTx (s : State) (module : Nat) : Option Nat :=
  AMap.freshBelow ((s.hostTx.filter fun (n, _) => n / 65536 == module).map fun (n, x) => (n % 65536, x)) 65536

/-- A transaction opened at the host on its line's module (R393). -/
def sendHost (s : State) (t : HostTx) : State :=
  let m := s.moduleOf t.line
  match s.freshTx m with
  | some n => { s with hostTx := AMap.set s.hostTx (65536 * m + n) t }
  | none => s

/-- A transaction without operands opened for a line. -/
def openTx (s : State) (op line : Nat) : State := s.sendHost { op, line }

/-- The transactions of a line that satisfy `p` closed. -/
def closeTx (s : State) (line : Nat) (p : Nat → Bool) : State :=
  { s with hostTx := s.hostTx.filter fun (_, t) => !(t.line == line && p t.op) }

/-- CLS of an opcode (R393, R394). -/
def txClass (op : Nat) : Nat := if op < 0x10 then 0 else if op < 0x20 then 1 else if op < 0x30 then 2 else 3

/-- The 16 bytes of a message's header: OP, CLS, ATTR, TXID and bits [51:7] of the address; the fields of shootdowns and the reserved ones
are zero (R393). -/
def hostHeader (op attr txid line : Nat) : List Byte := leBytes 16 (op + txClass op * 2 ^ 8 + attr * 2 ^ 10 + txid * 2 ^ 16 + line * 2 ^ 32)

/-- The message of an open transaction: its header, then the sealed line of a write-back, or the operands of an atomic (R272, R393). -/
def hostMessage (s : State) (n : Nat) (t : HostTx) : List Byte :=
  hostHeader t.op t.attr (n % 65536) t.line ++
    if t.op = 4 ∨ t.op = 9 then s.sealedLine t.line else t.operands

/-- A line leaves the part: dirty data with WbDirty, the line in the home's write-back buffer until the host has it; a clean one with
Evict (R271, R275). -/
def leaveHost (s : State) (line : Nat) (dirty : Bool) : State :=
  let s := s.setHostLine line .i
  if dirty then
    let h := homeDie (line * 128)
    let k := s.die h
    (s.setDie h { k with writeback := if k.writeback.contains line then k.writeback else k.writeback ++ [line] }).openTx 4 line
  else s.openTx 5 line

/-- Dirty data written to the host with WbKeep: the part keeps a clean copy (R275). -/
def keepHost (s : State) (line : Nat) : State :=
  ((s.forgetHost line).setHostLine line (match s.hostLine line with | .o => .s | .s => .s | .i => .i | _ => .e)).openTx 9 line

/-- Whether some die holds dirty data of a line. -/
def partDirty (s : State) (line : Nat) : Bool := (s.dirLine line).present.any fun d => s.dieDirty d line

/-- A line and its data out of the part, if the part holds it. -/
def evictLine (s : State) (line : Nat) : State :=
  if (s.dirLine line).state = .i ∧ s.hostLine line = .i then s
  else (s.backInvalidate line).leaveHost line (s.partDirty line)

/-! ### The home (R270, R271) -/

/-- Whether a line is in a home's write-back buffer. -/
def inWriteback (s : State) (line : Nat) : Bool := (s.die (homeDie (line * 128))).writeback.contains line

/-- The entries of the snoop filter's set of a line, the oldest first. -/
def filterSet (s : State) (line : Nat) : List Nat :=
  (s.die (homeDie (line * 128))).order.filter fun l => l / 4 % 65536 == line / 4 % 65536

/-- The entry that gives way to a line in its set: none where one is free or the line has one; the way allocated longest ago that is not
busy (R271). -/
def filterVictim (s : State) (line : Nat) : Option Nat :=
  let set := s.filterSet line
  if set.length < 12 || set.contains line then none else set.find? fun l => (s.dirLine l).busy.isNone

/-- Whether a set has neither a way for a line nor one that can give way (R271). -/
def filterFull (s : State) (line : Nat) : Bool :=
  decide (12 ≤ (s.filterSet line).length) && !(s.filterSet line).contains line && (s.filterVictim line).isNone

/-- Whether the home of a line cannot serve it now: it is busy, being written back, requested by others, or its set is full of busy ways
(R270, R271). -/
def homeBusy (s : State) (line : Nat) : Bool :=
  (s.dirLine line).busy.isSome || s.inWriteback line ||
    ((s.die (homeDie (line * 128))).requests.any fun r => r.line == line) || s.filterFull line

/-- Whether the home cannot perform an atomic of a die on a line now: as for any access, but that the die's own atomic has its turn where it
is the first to wait (R270, R277). -/
def atomicBusy (s : State) (d line : Nat) : Bool :=
  (s.dirLine line).busy.isSome || s.inWriteback line || s.filterFull line ||
    match (s.die (homeDie (line * 128))).requests.find? fun r => r.line == line with
    | some r => !(r.kind == 6 && r.die == d)
    | none => false

/-- Room made in the snoop filter's set of a line by an access (R271). -/
def makeRoom (s : State) (line : Nat) : State :=
  match s.filterVictim line with | some v => s.evictLine v | none => s

/-- Whether a die holds a line under another slot (R273). -/
def slotClash (s : State) (line slot : Nat) : Bool :=
  (List.range 4).any fun d => (s.l2Line d line).state != .i && (s.l2Line d line).slot != slot

/-- Whether an access of a core needs the line's home: its die's L2 cannot serve it, or some die holds the line under another slot (R267,
R273). -/
def homeNeeded (s : State) (c line : Nat) (write : Bool) (slot : Nat) : Bool :=
  let x := (s.l2Line (dieOf c) line).state
  s.slotClash line slot || (if write then x != .e && x != .m else x == .i)

/-- A line brought to a die by its home for reading or for ownership, the host asked and the other dies snooped as it needs: the states
after the whole transaction (R269, R270, R275). A copy under another slot leaves the part first (R273). -/
def homeGrant (s : State) (d line : Nat) (write : Bool) (slot : Nat) : State :=
  let s := (if s.slotClash line slot then s.evictLine line else s).makeRoom line
  let e := s.dirLine line
  let others := e.present.filter (· != d)
  if write then
    let dirty := e.present.any fun k => s.dieDirty k line
    let s := others.foldl (fun s k => s.invalidateDie k line) s
    let st : LineState := if dirty then .m else .e
    let host : LineState := match s.hostLine line with | .m => .m | .o => .m | _ => .e
    ((s.holdL2 d line { s.l2Line d line with state := st, slot }).holdDir line { state := st, present := [d], owner := some d })
      |>.setHostLine line host
  else match e.state with
    | .i =>
      let st : LineState := if Config.hostGrantsE s.steps then .e else .s
      ((s.holdL2 d line { state := st, slot }).holdDir line
        { state := st, present := [d], owner := if st = .e then some d else none }).setHostLine line st
    | _ =>
      let dirty := e.owner.any fun o => s.dieDirty o line
      let s := match e.owner with
        | some o =>
          let s := s.recallL1s o line true
          s.setL2 o line { s.l2Line o line with state := if dirty then .o else .s }
        | none => s
      (s.holdL2 d line { state := .s, slot }).holdDir line { e with
        state := if dirty then .o else .s, present := others ++ [d], owner := if dirty then e.owner else none }

/-- A line that the L2 of a core's die can serve, served to the core's L1 (R267); with POLICY strm a line that the L1 lacks stays in the
L2 (R223). -/
def serveL1 (s : State) (c line : Nat) (write : Bool) (slot policy : Nat) : State :=
  let d := dieOf c
  let held := s.l1State c line
  if write then
    let s := (s.recallL1s d line false (some c)).noteHost line slot
    let x := s.l2Line d line
    if policy = 1 && held == .i then s.holdL2 d line { x with state := .m }
    else (s.holdL2 d line { x with present := [c] }).setL1 c line .m slot
  else if held != .i then s
  else
    let s := s.recallL1s d line true
    let x := s.l2Line d line
    if policy = 1 then s
    else (s.holdL2 d line { x with present := x.present.filter (· != c) ++ [c] }).setL1 c line .s slot

/-- A tracked read or write of a line by a core leaves the states that the transactions of R267 to R273 and R275 leave. A line that its
home cannot serve now is left alone: whoever can wait has waited for it (R270). POLICY last marks the line (R223). -/
def touch (s : State) (c line : Nat) (write : Bool) (slot : Nat) (policy : Nat := 0) : State :=
  let needed := s.homeNeeded c line write slot
  if needed && s.homeBusy line then s
  else
    let s := if s.l1State c line = .i then s.countMiss c ((s.l2Line (dieOf c) line).state != .i) else s
    let s := (if needed then s.homeGrant (dieOf c) line write slot else s).serveL1 c line write slot policy
    if policy = 2 then s.markLine c line else s

/-- A line held by a core's L1 in E or M, without a write: an atomic that writes nothing, and PREF of intent 1 (R234, R240). With POLICY strm
a line that the L1 lacks stays in the L2, in M (DESIGN CHOICE: R223 keeps it out of the L1, where R234 would have it; log 61). -/
def own (s : State) (c line slot policy : Nat) : State :=
  let dirty := s.l1State c line == .m
  let t := s.touch c line true slot policy
  if dirty || t.l1State c line != .m then t else t.setL1 c line .e slot

/-- The first tracked line of resolved bytes that an access must wait for at its home: `home` where it is performed there (R270, R271,
R277), with the key slot. -/
def lineStop (s : State) (c : Nat) (write home : Bool) (segs : List Segment) : Option (Nat × Nat) :=
  segs.findSome? fun g =>
    if !isPhysical g.key || g.untracked then none
    else ((linesIn g.key g.length).find? fun l =>
      if home then s.atomicBusy (dieOf c) l
      else s.homeNeeded c l write g.slot && (s.homeBusy l || (s.slotClash l g.slot && s.partDirty l))).map fun l => (l, g.slot)

/-- A request of a die for a line waits at the home in order of arrival; a die has one at a time (R270). -/
def enqueue (s : State) (r : LineReq) : State :=
  let h := homeDie (r.line * 128)
  let k := s.die h
  if k.requests.any fun x => x.line == r.line && x.die == r.die then s else s.setDie h { k with requests := k.requests ++ [r] }

/-- A die's request for a line that its home cannot serve now (R270). A dirty copy under another slot is written back and dropped first
(R273). -/
def askHome (s : State) (c line : Nat) (write : Bool) (slot : Nat) : State :=
  let d := dieOf c
  if (s.dirLine line).busy.any fun (r, n) => r == d && n < 3 then s
  else
    let s := if !s.homeBusy line && s.slotClash line slot then s.evictLine line else s
    s.enqueue { line, die := d, kind := if write then 1 else 0, slot }

/-- An atomic of a die that its home is to perform, waiting there in order of arrival (R270, R277). -/
def askAtomic (s : State) (c line : Nat) : State := s.enqueue { line, die := dieOf c, kind := 6 }

/-- Whether some die holds poison of a dead slot for a line (R274). -/
def deadLine (s : State) (line : Nat) : Bool := (List.range 4).any fun d => (s.l2Line d line).dead

/-- A SYSTEM-scope atomic leaves a line at its home: in the home die's L2 when the part held it in E or M, else at the host, which
performs it on the AtomicReq `t`; the dies' copies are invalidated first, with WbDirty for O (R277). An S copy goes without an Evict: the
AtomicReq tells the host (DESIGN CHOICE: R277 names no message for S; log 61). -/
def homeAtomic (s : State) (line slot : Nat) (wrote : Bool) (t : HostTx) : State :=
  let e := s.dirLine line
  let h := homeDie (line * 128)
  let t := { t with op := 6, line }
  let s := s.setDie h { s.die h with requests := match (s.die h).requests.find? fun r => r.line == line with
    | some r => if r.kind = 6 then (s.die h).requests.erase r else (s.die h).requests
    | none => (s.die h).requests }
  if e.busy.isSome then s
  else
    let dirty := s.partDirty line
    match e.state with
    | .i => s.sendHost t
    | .s => (s.backInvalidate line).sendHost t
    | .o => ((s.backInvalidate line).leaveHost line true).sendHost t
    | _ =>
      let st : LineState := if dirty || wrote then .m else .e
      let s := e.present.foldl (fun s d => s.invalidateDie d line) s
      let s := if wrote then s.noteHost line slot else s
      (s.setL2 h line { state := st, slot }).setDir line { state := st, present := [h], owner := some h }

/-- A die's drop of a line, dirty with data or clean without: its copies go, and the directory and the host follow (R269, R275). -/
def dropLine (s : State) (line d : Nat) (dirty : Bool) : State :=
  let e := s.dirLine line
  if !e.present.contains d then s
  else
    let s := s.invalidateDie d line
    let rest := e.present.filter (· != d)
    if rest.isEmpty then (s.setDir line { e with state := .i, present := [], owner := none }).leaveHost line dirty
    else
      let owned := e.owner == some d
      let s := s.setDir line { e with
        state := if owned then .s else e.state, present := rest, owner := e.owner.filter (· != d) }
      if owned && dirty then s.keepHost line else s

/-! ### Replacement (R266, R267) -/

/-- A line of an L1 replaced: dropped where it is clean, written to the slice where it is in M; an untracked one with dirty bytes written
to platform memory (R267, R278). -/
def replaceL1 (s : State) (c line : Nat) : State :=
  let d := dieOf c
  let x := s.l2Line d line
  let s := if s.l1State c line = .m then s.setL2 d line { x with state := if x.state = .e then .m else x.state } else s
  let s := s.setL1 c line .i 0
  let s := if (AMap.get? (s.core c).untracked line).isSome then (s.publishLine c line).setUt c line {} else s
  s.setCore c { s.core c with marked := (s.core c).marked.erase line }

/-- Lines of an L1 that may be replaced next: of each set the marked ones, where it has any (R89). -/
def replaceable (s : State) (c : Nat) : List Nat :=
  let k := s.core c
  let setOf := Config.l1Set c k.sp
  (AMap.keys k.lines ++ AMap.keys k.untracked).filter fun l => k.marked.contains l || k.marked.all fun m => setOf m != setOf l

/-- A line of a die's L2 replaced, once its home can take the drop: recalled from the die's L1s, then given up with DWb or DEvict (R267,
R269); an untracked copy is clean. -/
def replaceL2 (s : State) (d line : Nat) : State :=
  let s := s.dropL2Untracked d (· == line)
  if (s.l2Line d line).state = .i || s.homeBusy line then s
  else s.dropLine line d (s.dieDirty d line)

end State

end Sys2Proof.Machine
end

