-- ==== Sys2Proof/Machine/Work.lean ====
section
/-!
DEFINITION. Units of work: counters (R344, R345), launches, graphs and phases (R26, R310), core maps (R28, R328), the ends of
strands (R130, R300), cancellation (R348, R349).
-/

namespace Sys2Proof.Machine

/-! ### Counters -/

/-- The test of R344: ((VAL − x) mod 2^32) < 2^31. -/
def reachedAt (val x : BitVec 32) : Bool := decide ((val - x).toNat < 2 ^ 31)

namespace State

/-- A counter of the table (R344). -/
def counter (s : State) (c : Nat) : Counter := AMap.getD s.counters c {}

/-- A counter as the 64 bits that CNTWAIT returns (R344, R347). -/
def counterWord (s : State) (c : Nat) : Word :=
  0#16 ++ (s.counter c).can ++ (s.counter c).val

/-- A count after one completion more, which was a cancellation or not (R344, R345). -/
def raised (x : Counter) (cancelled : Bool) : Counter :=
  { val := x.val + 1, can := if cancelled && x.can != 0xFFFF then x.can + 1 else x.can }

/-- A counter raised by one completion, which was a cancellation or not (R345). -/
def advance (s : State) (c : Nat) (cancelled : Bool) : State :=
  { s with counters := AMap.set s.counters c (raised (s.counter c) cancelled) }

/-- A counter raised by a number of cancelled instances. -/
def advanceBy (s : State) (c n : Nat) : State := (List.range n).foldl (fun s _ => s.advance c true) s

/-- One completion more in the instance count of a phase of a job, which its queue context keeps (R344, R345). -/
def advancePhase (s : State) (q p : Nat) (cancelled : Bool) : State :=
  s.mapJob q fun j => match AMap.get? j.phases p with
    | some x => { j with phases := AMap.set j.phases p { x with inst := raised x.inst cancelled } }
    | none => j

/-- The same for a counter that may be absent. -/
def advance? (s : State) (c : Option Nat) (cancelled : Bool) : State :=
  match c with | some c => s.advance c cancelled | none => s

/-- A counter reached at a value. -/
def reached (s : State) (w : Nat × BitVec 32) : Bool := reachedAt (s.counter w.1).val w.2

/-- The absolute number of a job's counter, none beyond its window (R344). -/
def windowCounter (j : Job) (n : Nat) : Option Nat := if n < j.windowSize then some (j.windowBase + n) else none

/-- A free instance counter (R344): one that no live launch or graph holds. -/
def freeInstance (s : State) : Option Nat :=
  (List.range 1024).map (· + 3072) |>.find? fun c =>
    (s.launches.all fun (_, l) => l.done || l.inst != c) && (s.graphs.all fun (_, g) => g.done || g.inst != c)

/-! ### Core maps -/

/-- Pending starts of a core, and slots that hold a strand (R357). -/
def load (s : State) (c : Nat) : Nat :=
  (s.core c).starts.length + ((List.range (slotCount c)).filter fun i => (s.slotAt c i).status != .free).length

/-- Starts that gales on their way will record on a core (R30). -/
def galesTo (s : State) (c : Nat) : Nat :=
  ((s.agenda.filter fun e => e.what == .gale && e.args.core == c).map fun e =>
    match AMap.get? s.launches e.args.launch with
    | some l => ((List.range l.count).filter fun lc => l.cores.getD lc 1024 == c && l.states.getD lc 2 == 0).length
    | none => 0).sum

/-- Starts that a core holds or is to hold. -/
def pending (s : State) (c : Nat) : Nat := (s.core c).starts.length + s.galesTo c

/-- A free core holds no strand and no pending start (R351). -/
def freeCore (s : State) (c : Nat) : Bool := s.load c == 0 && s.galesTo c == 0

/-- The cores of a map's units in an order that begins at a die and a tile (R351): rows for an M launch, leaders for cuffs. -/
def mapUnits (small pair : Bool) (k die tile : Nat) (spread : Bool) : List (List Nat) :=
  let dies := (List.range 4).map fun i => (die + i) % 4
  let unitsOf (d : Nat) : List (List Nat) :=
    if small then
      (List.range 16).flatMap fun t =>
        (List.range (8 / k)).map fun i => [128 + d * 128 + ((tile + t) % 16) * 8 + i * k]
    else
      (List.range 4).map fun r =>
        let row := (tile / 4 + r) % 4
        if pair then (List.range 4).map fun x => d * 32 + row * 8 + 2 * x
        else (List.range 8).map fun x => d * 32 + row * 8 + x
  if spread then
    let n := if small then 16 * (8 / k) else 4
    (List.range n).flatMap fun i => dies.filterMap fun d => (unitsOf d)[i]?
  else dies.flatMap unitsOf

/-- Whether every core of a unit, with the members that a cuff or a pair adds, is free. -/
def unitFree (s : State) (small pair : Bool) (k : Nat) (unit : List Nat) : Bool :=
  unit.all fun c =>
    if small then (List.range k).all fun i => s.freeCore (c + i) else s.freeCore c && (!pair || s.freeCore (c + 1))

/-- The cores for `n` logical cores (R28, R328, R351): free units first, in order; then, unless one core each is asked for, cores
that already hold starts, up to 16 each. None where the part cannot hold the map. -/
def chooseCores (s : State) (small pair : Bool) (cuff n die tile : Nat) (spread single : Bool) : Option (List Nat) :=
  let k := 2 ^ cuff
  let units := mapUnits small pair k die tile spread
  let free := units.filter (s.unitFree small pair k)
  let rest := units.filter fun x => !s.unitFree small pair k x && (single || x.all fun c => decide (s.pending c < 16))
  let base := (free ++ rest).flatten
  if n ≤ base.length then some (base.take n)
  else if single || !small then none
  else
    let all := (List.replicate 16 (free ++ rest).flatten).flatten
    let all := (all.foldl (fun (acc : List Nat × AMap Nat) c =>
      let used := AMap.getD acc.2 c (s.pending c)
      if used < 16 then (acc.1 ++ [c], AMap.set acc.2 c (used + 1)) else acc) ([], [])).1
    if n ≤ all.length then some (all.take n) else none

/-- Whether an explicit list of cores obeys R28 and R328. -/
def mapLegal (small pair : Bool) (cuff : Nat) (share : Bool) (cores : List Nat) : Bool :=
  let k := 2 ^ cuff
  let kindOk := cores.all fun c =>
    if small then coreKind? c == some .score && (c - 128) % 8 % k == 0
    else coreKind? c == some .mcore && (!pair || c % 2 == 0)
  let per := if pair then 4 else 8
  let column (j : Nat) : Nat := if pair then 2 * (j % 4) else j % 8
  let rowsOk := small ||
    (List.range cores.length).all fun j =>
      let c := cores.getD j 0
      columnOf c == column j && rowOf c == rowOf (cores.getD (j / per * per) 0)
  let rows := (List.range ((cores.length + per - 1) / per)).map fun j => rowOf (cores.getD (j * per) 0)
  let sharedOk := small || share || rows.Nodup
  kindOk && rowsOk && sharedOk && (cores.all fun c => decide (cores.count c ≤ 16))

/-! ### Launches -/

/-- A field of a descriptor: bits [hi:lo] of the doubleword at a byte offset. -/
def field (bs : List Byte) (off hi lo : Nat) : Nat := bits (leWord (bs.drop off |>.take 8)) hi lo

/-- The launch that a valid descriptor of R310 names, for a job; none for one that breaks its fields. -/
def descriptor? (s : State) (job : Nat) (j : Job) (bs : List Byte) : Option Launch :=
  let small := field bs 8 0 0 == 1
  let pair := field bs 8 1 1 == 1
  let cuff := field bs 8 3 2
  let n := field bs 8 19 8
  let entry := field bs 8 48 32
  let map := field bs 16 11 0
  let sw := field bs 24 63 0
  let cnt := field bs 0 27 16
  let cen := field bs 0 28 28 == 1
  let reserved := field bs 0 15 9 == 0 && field bs 0 63 29 == 0 && field bs 8 7 4 == 0 && field bs 8 31 20 == 0 &&
    field bs 8 63 49 == 0 && field bs 16 63 12 == 0 && field bs 24 31 13 == 0
  let mapOk := map == 0xFFF || match AMap.get? s.maps map with
    | some m => m.job == some job && !m.freed && m.smallCores == small && m.pair == pair && m.cuff == cuff &&
        m.cores.length == n
    | none => false
  let waitCounter := windowCounter j (sw % 4096)
  let size := if small then 131072 else 65536
  if field bs 0 7 0 == 1 && reserved && decide (1 ≤ n ∧ n ≤ 2048) && !(pair && small) && !(cuff != 0 && !small) &&
      entry % 4 == 0 && decide (entry < size) && mapOk && (!cen || (windowCounter j cnt).isSome) &&
      (sw / 4096 % 2 == 0 || waitCounter.isSome) then
    some { job := job, smallCores := small, pair := pair, cuff := cuff, count := n, entry := BitVec.ofNat 64 entry, map := map
           counter := if cen then windowCounter j cnt else none, inst := 0
           args := (List.range 4).map (fun i => leWord (bs.drop (32 + 8 * i) |>.take 8))
           startWaits := if sw / 4096 % 2 == 1 then (waitCounter.map fun c => [(c, BitVec.ofNat 32 (sw / 2 ^ 32))]).getD []
             else []
           dataWaits := [], phase := j.phase }
  else none

/-- A launch placed in a die's ready pool with an instance counter; none when the pool is full or no counter is free (R312,
R344). A launch of a job that is being torn down or is cancelled is placed and at once cancelled (R42, R350). -/
def placeLaunch (s : State) (d : Nat) (l : Launch) : Option (Nat × State) :=
  match s.freeInstance with
  | none => none
  | some c =>
    if (s.die d).pool.length ≥ 256 then none
    else
      let id := s.nextId
      let dead := match AMap.get? s.jobs l.job with | some j => j.tearing || j.cancelled | none => true
      let l := { l with
        inst := c, die := d, states := List.replicate l.count 0, cancelled := dead
        unitsDone := if dead then l.count else 0 }
      let s := { s with
        nextId := id + 1
        launches := AMap.set s.launches id l
        counters := AMap.set s.counters c {} }
      some (id, if dead then s.advanceBy c l.count else s.setDie d { s.die d with pool := (s.die d).pool ++ [id] })

/-- Whether a message is bound in the handler table of a core; every arrival on AQ3 is (R25). -/
def bound (x : Core) (q : Nat) (m : Msg) : Bool :=
  q == 3 || x.handlers.any fun (_, h) => h.q == q && h.type == bits m.header 7 0

/-- Whether something sent by a unit of a launch holds it open (R26), also where its target is away or frozen (R376, R379). -/
def held (s : State) (l : Nat) : Bool :=
  (s.net.any fun f => f.msg.launch == some l) ||
  (s.cores.any fun (_, x) =>
    ((List.range 4).any fun q => (x.aq[q]?.getD []).any fun m => m.launch == some l && bound x q m) ||
    x.ring.any fun m => m.launch == some l) ||
  (s.jobs.any fun (_, j) =>
    (j.shares.any fun (_, h) => h.arrivals.any fun (q, m) => m.launch == some l && bound { handlers := h.handlers } q m) ||
    j.drained.any fun (c, q, m) => m.launch == some l && bound (s.core c) q m) ||
  (s.units.any fun (_, t) => !t.resident && t.launch == some l)

/-! ### Units and their ends -/

/-- A unit begun. -/
def newUnit (s : State) (t : UnitRec) : Nat × State :=
  (s.nextId, { s with nextId := s.nextId + 1, units := AMap.set s.units s.nextId t })

/-- One engine command of a unit done. -/
def engineDone (s : State) (t : Option Nat) : State := s.mapUnit t fun x => { x with outstanding := x.outstanding - 1 }

/-- One more engine command of a unit. -/
def engineIssued (s : State) (t : Option Nat) : State := s.mapUnit t fun x => { x with outstanding := x.outstanding + 1 }

/-- The state of a logical core of a launch (R381). -/
def setLcoreState (s : State) (l : Option Nat) (lcore x : Nat) : State :=
  match l with | some n => s.mapLaunch n fun l => { l with states := l.states.set lcore x } | none => s

/-- A job's grant table of a core: the core's own while the job has it, else that of its saved share, else what waits for the core to be given
to it (R324, R329, R376). -/
def grantsOf (s : State) (job : Option Nat) (c : Nat) : List Word :=
  if (s.core c).job == job then (s.core c).grants
  else match job.bind fun q => AMap.get? s.jobs q with
    | none => []
    | some j => match AMap.get? j.shares c with
      | some h => h.grants
      | none => AMap.getD j.grants c []

/-- The same table set. -/
def setGrants (s : State) (job : Option Nat) (c : Nat) (l : List Word) : State :=
  if (s.core c).job == job then s.setCore c { s.core c with grants := l }
  else match job with
    | none => s
    | some q => s.mapJob q fun j => match AMap.get? j.shares c with
        | some h => { j with shares := AMap.set j.shares c { h with grants := l } }
        | none => { j with grants := AMap.set j.grants c l }

/-- A deficit as the scheduler keeps it: 64 bits, signed, of M-core-cycles (R353), with the two bits of the quarters below them (R354;
DEDUCED, log 41). -/
def deficitOf (x : Int) : Int := (BitVec.ofInt 66 x).toInt

/-- A core's cycle meter charged to the queue of the job that holds the core (R353, R354). -/
def chargeMeter (s : State) (c : Nat) : State :=
  let k := s.core c
  match k.job with
  | none => s
  | some j => (s.setCore c { k with meter := 0 }).mapJob j fun x => { x with deficit := deficitOf (x.deficit - k.meter) }

/-- Whether engine commands of a core are still to be done (R257 step 1). -/
def enginesBusy (s : State) (c : Nat) : Bool :=
  let k := s.core c
  k.copies.toList.any (fun x => x.cmds.any fun d => !d.finished) || !k.walks.isEmpty || k.stages.any (fun t => t.ticket != 0) ||
    (s.dies.any fun (_, x) => x.coll.toList.any fun cs => cs.any fun d => d.core == c) ||
    (coreKind c == .bezel && !(s.bezel.hashCmds.isEmpty && s.bezel.signCmds.isEmpty))

/-- A core of a job with untracked phases that holds a strand joins the minimum (R358). -/
def joinMinimum (s : State) (c : Nat) (job : Option Nat) : State :=
  let phased := match job.bind fun j => AMap.get? s.jobs j with | some j => j.untracked | none => false
  let k := s.core c
  if phased && !k.active then
    s.setCore c { k with active := true, phase := if k.phase.ult s.gphase then s.gphase else k.phase }
  else s

/-- A core of a job with untracked phases that holds no strand becomes passive once its engines are done: its untracked lines go as in
R257, and it leaves the minimum (R358). -/
def becomePassive (s : State) (c : Nat) : State :=
  let k := s.core c
  if k.active && ((List.range (slotCount c)).all fun i => (s.slotAt c i).status == .free) && !s.enginesBusy c then
    let s := (s.flushUntracked c fun _ => true).dropUntracked c fun _ => true
    s.setCore c { s.core c with active := false }
  else s

/-- The SRAM of an M-core, of which a lockstep pair's odd core keeps the same as the even one (R162, R192, R196). While the pair runs the
two are equal and are held once, at the even core; this lays the even core's cells of the regions `rs` down at the odd one. -/
def mirrorCore (s : State) (c : Nat) (rs : List Nat) : State :=
  let inOf (core : Nat) (a : Nat) : Bool := rs.any fun r => decide (region r core ≤ a) && decide (a < region r (core + 1))
  let copied := s.mem.filterMap fun (a, b) => if inOf c a then some (a + 2 ^ 40, b) else none
  { s with mem := copied.foldl (fun m (a, b) => Memory.put m a b) (s.mem.filter fun (a, _) => !inOf (c + 1) a) }

/-- A pair parts: the odd core is left with the even one's scratchpad, and with its matrix state where the pair's strand owned that, which
both cores then give up (R162, R170, R192, R196). -/
def partPair (s : State) (c i : Nat) : State :=
  if (s.core c).owner == some (i, (s.strandAt c i).unit) then
    let s := s.mirrorCore c [0, 2, 3, 4, 5, 6, 7]
    let k := s.core c
    s.setCore (c + 1) { s.core (c + 1) with
      tags := k.tags, owner := none, lastJob := k.lastJob, tlmIssued := k.tlmIssued, tlmReached := k.tlmReached }
  else s.mirrorCore c [0]

/-- A strand leaves its slot: the slot is Free, its banks are off, its link and queue registers and a matrix claim go, a cuff's
members or a pair's odd core open again, and its unit has ended (R36, R37, R130, R138, R170, R300, R349); the core's meter is charged
(R353), and a core without strands becomes passive (R358). A cause of the core that the strand had yet to take goes to another strand or to
the idle context (R369). -/
def endStrand (s : State) (c i : Nat) (cancelled : Bool) : State :=
  let x := s.slotAt c i
  let t := x.u
  let s := s.mapUnit t.unit fun r => { r with ended := true, cancelled := r.cancelled || cancelled }
  let s := if t.kind == .resident then s.setLcoreState t.launch t.lcore 2 else s
  let s := (List.range (2 ^ t.cuff)).foldl (fun s m =>
      if t.cuff = 0 then s
      else s.setCore (c + m) { s.core (c + m) with slots := (s.core (c + m)).slots.each fun y => { y with closed := false } }) s
  let s := if x.pair.isSome then (s.partPair c i).setSlotAt (c + 1) i { s.slotAt (c + 1) i with closed := false } else s
  let s := s.setSlotAt c i { (s.slotAt c i) with
    status := .free, mode := false, ie := true, nest := false, service := none, fault := none, pre := none, pair := none
    latched := [], step := false, u := {} }
  let s := s.setCore c { s.core c with latched := (s.core c).latched ++ x.latched.filter (·.cause.forCore) }
  let k := s.core c
  let s := if k.owner == some (i, t.unit) then s.setCore c { k with owner := none } else s
  (s.chargeMeter c).becomePassive c

/-- A copy timeline moved over the commands that have completed in order (R339). -/
def settleCopies (x : CopyCtx) : CopyCtx :=
  x.cmds.foldl (fun y _ =>
    match y.cmds.find? fun d => d.finished && d.ticket == y.reached + 1 with
    | some d => { y with reached := y.reached + 1, cmds := y.cmds.erase d }
    | none => y) x

/-- A copy context of a unit that is cancelled: its commands that have not started are done without, and the others run on (R349). -/
def dropUnstarted (unit : Option Nat) (x : CopyCtx) : CopyCtx := settleCopies { x with
  pausing := false, cmds := x.cmds.map fun d => if d.unit == unit && !d.started && d.done == 0 then { d with finished := true } else d }

/-- Commands of a unit in a copy context that have not started. -/
def unstarted (unit : Option Nat) (x : CopyCtx) : Nat :=
  (x.cmds.filter fun d => d.unit == unit && !d.finished && !d.started && d.done == 0).length

/-- Copy commands of a unit that have not started are discarded (R349). -/
def discardCopies (s : State) (c : Nat) (unit : Option Nat) : State :=
  let k := s.core c
  let gone := (k.copies.toList.map (unstarted unit)).sum
  let s := s.setCore c { k with copies := k.copies.each fun x =>
    { dropUnstarted unit x with pausing := x.pausing && x.owner.all (·.2 != unit) } }
  s.mapUnit unit fun x => { x with outstanding := x.outstanding - gone }

/-- Collective commands of a unit, which have not started while a participant is missing, are discarded (R349). -/
def discardColls (s : State) (d : Nat) (unit : Option Nat) : State :=
  let k := s.die d
  let gone := ((List.range 8).map fun n => ((k.coll[n]?.getD []).filter fun x => x.unit == unit).length).sum
  let s := s.setDie d { k with coll := k.coll.each fun xs => xs.filter fun x => x.unit != unit }
  s.mapUnit unit fun x => { x with outstanding := x.outstanding - gone }

/-- Walk commands of a unit that have not started are discarded (R349). -/
def discardWalks (s : State) (c : Nat) (unit : Option Nat) : State :=
  let k := s.core c
  let waiting (w : WalkCmd) : Bool := w.unit == unit && w.pos == 0 && !w.paused && w.persisting.isEmpty
  let gone := (k.walks.filter waiting).length
  let s := s.setCore c { k with walks := k.walks.filter fun w => !waiting w }
  s.mapUnit unit fun x => { x with outstanding := x.outstanding - gone }

/-- Commands of a unit's engines that have not started are discarded (R349). -/
def discardUnstarted (s : State) (c : Nat) (unit : Option Nat) : State :=
  ((s.discardCopies c unit).discardColls (dieOf c) unit).discardWalks c unit

/-- A saved share without its strands that satisfy `p`; what they started runs to completion once the share is back on its core. -/
def cancelShare (p : Strand → Bool) (h : Share) : Share :=
  let gone := (h.slots.filter fun (_, x) => p x.u).map fun (_, x) => x.u.unit
  { h with
    slots := h.slots.filter fun (_, x) => !p x.u
    copies := h.copies.map fun x => match x.owner with | some (_, unit) => if gone.contains unit then dropUnstarted unit x else x | none => x }

/-- Saved strands of a job that satisfy `p` are cancelled in its save area: their units end, and the commands of their saved contexts that
have not started are discarded (R349, R376). -/
def cancelSaved (s : State) (job : Nat) (p : Strand → Bool) : State :=
  match AMap.get? s.jobs job with
  | none => s
  | some j =>
    let gone := j.shares.flatMap fun (_, h) => (h.slots.filter fun (_, x) => p x.u).map fun (_, x) => (h, x.u)
    let s := gone.foldl (fun s (h, u) =>
      let s := s.mapUnit u.unit fun t => { t with
        ended := true, cancelled := true, outstanding := t.outstanding - (h.copies.map (unstarted u.unit)).sum }
      if u.kind == .resident then s.setLcoreState u.launch u.lcore 2 else s) s
    s.mapJob job fun j => { j with shares := j.shares.map fun (c, h) => (c, cancelShare p h) }

/-- A running strand is told to end: CANCEL is latched for it (R349, R371). -/
def cancelStrand (s : State) (c i level : Nat) : State := s.latch c i { cause := .cancel, info := level }

/-- The units of a launch that have not started are cancelled: pending starts and a node still in a pool (R348 level 1). -/
def cancelUnstarted (s : State) (n : Nat) : State :=
  match AMap.get? s.launches n with
  | none => s
  | some l =>
    if l.done then s
    else if !l.dispatched then
      let s := s.setDie l.die { s.die l.die with pool := (s.die l.die).pool.filter (· != n) }
      (s.advanceBy l.inst l.count).mapLaunch n fun l => { l with cancelled := true, unitsDone := l.count, states := l.states.map fun _ => 2 }
    else
      let gone := (l.states.filter (· == 0)).length
      let s : State := { s with cores := s.cores.map fun (c, x) => (c, { x with starts := x.starts.filter fun t => t.launch != n }) }
      (s.advanceBy l.inst gone).mapLaunch n fun l => { l with
        unitsDone := l.unitsDone + gone, states := l.states.map fun x => if x == 0 then 2 else x }

/-- A launch cancelled with every running unit of it (R348 level 2). -/
def cancelLaunch (s : State) (n : Nat) (level : Nat) : State :=
  let s := s.cancelUnstarted n
  let s := s.mapLaunch n fun l => { l with cancelled := true }
  let s := match AMap.get? s.launches n with | some l => s.cancelSaved l.job fun u => u.launch == some n | none => s
  s.occupied.foldl (fun s (c, i) => if (s.strandAt c i).launch == some n then s.cancelStrand c i level else s) s

/-- Nodes of a job's graphs that have not been placed and satisfy `p`, cancelled: their counters and their graph's rise as for any
cancelled node, and their graphs have so many fewer to come (R345, R348). -/
def dropUnplaced (s : State) (job : Nat) (p : Launch → Bool) : State :=
  match AMap.get? s.jobs job with
  | none => s
  | some j =>
    let gone := j.unplaced.filter p
    let s := s.mapJob job fun j => { j with unplaced := j.unplaced.filter fun l => !p l }
    gone.foldl (fun s l =>
      let s := s.advance? l.counter true
      match l.graph.bind fun g => (AMap.get? s.graphs g).map fun x => (g, x) with
      | some (g, x) => ({ s with graphs := AMap.set s.graphs g { x with count := x.count - 1 } } : State).advance x.inst true
      | none => s) s

/-- A graph cancelled (R348 level 3). -/
def cancelGraph (s : State) (n level : Nat) : State :=
  match AMap.get? s.graphs n with
  | none => s
  | some g =>
    let s := { s with graphs := AMap.set s.graphs n { g with cancelled := true } }
    let s := s.dropUnplaced g.job fun l => l.graph == some n
    g.launches.foldl (fun s l => s.cancelLaunch l level) s

/-- A phase of a job cancelled (R348 level 4). -/
def cancelPhase (s : State) (job p level : Nat) : State :=
  let s := s.mapJob job fun j => { j with phases := AMap.set j.phases p { AMap.getD j.phases p {} with cancelled := true } }
  let s := (s.graphs.filter fun (_, g) => g.job == job && g.phase == p && !g.done).foldl
    (fun s (n, _) => s.cancelGraph n level) s
  (s.launches.filter fun (_, l) => l.job == job && l.phase == p && l.graph.isNone && !l.done).foldl
    (fun s (n, _) => s.cancelLaunch n level) s

/-- Everything of a job cancelled, its graphs and phases with it; the queue accepts no further command (R348 level 5). -/
def cancelJob (s : State) (job : Nat) : State :=
  let s := (s.mapJob job fun j => { j with
    cancelled := true
    phases := j.phases.map fun (n, p) => (n, if p.done then p else { p with cancelled := true }) }).dropUnplaced job fun _ => true
  let s : State := { s with
    graphs := s.graphs.map fun (n, g) => (n, if g.job = job ∧ !g.done then { g with cancelled := true } else g) }
  let s := (s.launches.filter fun (_, l) => l.job == job && !l.done).foldl (fun s (n, _) => s.cancelLaunch n 5) s
  let s := s.cancelSaved job fun _ => true
  s.occupied.foldl (fun s (c, i) => if (s.strandAt c i).job == some job then s.cancelStrand c i 5 else s) s

/-- The STATUS word of a recorded reason (R349): level code 5, 6 or 7, HEAD, the cause and a second cause. -/
def statusWord (code : Nat) (head : Word) (cause : Cause) (second : Option Cause) : Word :=
  BitVec.ofNat 64 (code + (head.toNat % 2 ^ 32) * 2 ^ 8 + cause.code * 2 ^ 40 + 2 ^ 47 +
    (match second with | some c => c.code * 2 ^ 48 | none => 0))

/-- A reason recorded for a job's queue: the first stands (R349). -/
def recordReason (s : State) (job : Option Nat) (code : Nat) (cause : Cause) (second : Option Cause) : State :=
  match job with
  | none => s
  | some n => s.mapJob n fun j =>
      if j.status != 0 then j
      else
        let w := statusWord code j.head cause second
        { j with status := w, statusDue := some w }

/-- A job cancelled for a reason (R349). -/
def cancelJobFor (s : State) (job : Nat) (cause : Cause) : State := (s.recordReason (some job) 5 cause none).cancelJob job

/-- A launch cancelled for an error of R372. -/
def cancelUnitFor (s : State) (c i : Nat) (cause : Cause) : State :=
  let t := s.strandAt c i
  let s := s.recordReason t.job 6 cause none
  match t.launch with | some l => s.cancelLaunch l 2 | none => s.cancelStrand c i 2

end State

end Sys2Proof.Machine
end

