-- ==== Sys2Proof/Machine/Translate.lean ====
section
/-!
DEFINITION. Translation of GLOBAL addresses: the walk of R204, the TLBs and walk caches (R205, R207), the dirty log (R220), the
alias detector (R279), and the removals of a shootdown (R210, R211).
-/

namespace Sys2Proof.Machine

/-- A translation context (R203) with the job's key slot: job, level-0 table, ASN, key slot. -/
structure Ctx where
  job : Option Nat
  root : Nat
  asn : Nat
  keySlot : Nat

/-- What asks for a translation: the context, the core and slot to which it is charged, and the access. -/
structure Request where
  ctx : Ctx
  core : Nat
  slot : Nat
  user : Bool
  reads : Bool
  writes : Bool
  atomic : Bool := false
  /-- The page must be writable though the access writes nothing: INVR, and PREF of intent 1 (R238, R240). -/
  needsW : Bool := false
  /-- Made by an engine. -/
  engine : Bool := false
  /-- Made by the strand whose word executes, whose pair's held effects it follows (R163, R242). -/
  strand : Bool := false
  /-- An atomic of SPAN scope, which asks for its page only where it does not travel to it (R283). -/
  spanAtomic : Bool := false

/-- A place in physical memory as a leaf gives it. -/
structure Place where
  pa : Nat
  slot : Nat
  untracked : Bool

/-- Why an access does not go on: a cause with the fields of R208 (of BUS_ERROR `limit` says that the Span's link is down, R284), a
hand-over of a Span page (R281), or a line that its home cannot serve now (R270). -/
inductive Miss where
  | fault (cause : Cause) (level : Nat) (limit : Bool) (key : Nat)
  | span (va : Word) (write : Bool)
  | line (line : Nat)

namespace Miss

/-- ECAUSE.INFO of a translation cause (R208). -/
def info (q : Request) : Miss → Nat
  | .fault _ level limit key =>
    (if q.writes then 1 else 0) + (if q.atomic then 2 else 0) + level * 4 + (if limit then 16 else 0) + key * 32
  | _ => 0

end Miss

/-! ### Entries (R201) -/

/-- PPN of an entry. -/
def ppn (e : Word) : Nat := bits e 51 12
/-- KS of an entry. -/
def entrySlot (e : Word) : Nat := bits e 59 52
/-- The low bits of an address that a leaf of a level leaves as they are. -/
def pageBits (level : Nat) : Nat := 12 + 9 * (3 - level)
/-- The virtual page number of an address at a level. -/
def pageOf (va : Word) (level : Nat) : Nat := bits va 47 0 / 2 ^ pageBits level
/-- The low bits of an address that a cached leaf serves as one page: a CT leaf of level 3 serves its run of 64 KiB (R202). -/
def reachBits (e : Word) (level : Nat) : Nat := if bit e 9 && level == 3 then 16 else pageBits level
/-- A canonical address: bits [63:47] all equal (R194). -/
def canonical (va : Word) : Bool := bits va 63 47 == 0 || bits va 63 47 == 2 ^ 17 - 1
/-- The physical address that a leaf gives; a CT leaf gives a frame of its run, which [15:12] of the address select (R202). -/
def leafAddress (e va : Word) (level : Nat) : Nat :=
  ppn e * 4096 / 2 ^ reachBits e level * 2 ^ reachBits e level + bits va 47 0 % 2 ^ reachBits e level

/-- The first check of a leaf that fails (R204). -/
def leafCheck (s : State) (q : Request) (e va : Word) (level : Nat) : Option Miss :=
  if level = 0 ∨ (bit e 2 ∧ ¬ bit e 1) then some (.fault .pfEntry level false 0)
  else if bit e 9 ∧ (level ≠ 3 ∨ ppn e % 16 ≠ bits va 15 12) then some (.fault .pfEntry level false 0)
  else if (level = 1 ∧ ppn e % 2 ^ 18 ≠ 0) ∨ (level = 2 ∧ ppn e % 2 ^ 9 ≠ 0) then some (.fault .pfEntry level false 0)
  else if entrySlot e ≠ 0 ∧ entrySlot e ≠ q.ctx.keySlot then some (.fault .pfKey level false (entrySlot e))
  else if entrySlot e ≠ 0 ∧ s.keyDead (entrySlot e) then some (.fault .keyDead level false (entrySlot e))
  else if q.user ∧ ¬ bit e 4 then some (.fault .pfUser level false 0)
  else if q.reads ∧ ¬ bit e 1 then some (.fault .pfRead level false 0)
  else if (q.writes ∨ q.needsW) ∧ ¬ bit e 2 then some (.fault .pfWrite level false 0)
  else none

namespace State

/-- Whether the part holds a line as the only one, so that a write of it asks nothing of the host (R275). -/
def ownsLine (s : State) (line : Nat) : Bool := match s.hostLine line with | .e => true | .m => true | _ => false

/-- Whether an access of a core needs the host for a line: a read where the part has no copy, and a write where the part is not the only one
to hold it (R392); an untracked line where neither the core's L1 has the byte nor the die's L2 the line, and for a write where it passes
the L1 by (R223, R278). -/
def needsHost (s : State) (c pa : Nat) (untracked writes past : Bool) : Bool :=
  let line := lineOf pa
  if untracked then
    if writes then past && (AMap.get? (s.core c).untracked line).isNone
    else ((s.utLine c line).at? (pa % 128)).isNone && (AMap.get? (s.die (dieOf c)).l2clean line).isNone
  else (s.dirLine line).state == .i || (writes && !s.ownsLine line)

/-- Whether the host answers an access of a core to a physical address with an error (R200), or cannot be reached for it (R392). -/
def hostError (s : State) (c pa : Nat) (untracked writes past : Bool) : Bool :=
  (s.holes.any fun (b, n) => decide (b ≤ pa) && decide (pa < b + n)) ||
  ((s.die (homeDie pa)).modulesUp.toList.all (!·) && s.needsHost c pa untracked writes past)

/-- The offset of the first of `n` bytes from a physical address that the host answers with an error, line by line. -/
def errorAt (s : State) (c pa n : Nat) (untracked writes past : Bool) : Option Nat :=
  (List.range ((pa + n - 1) / 128 + 1 - pa / 128)).findSome? fun i =>
    let a := Nat.max pa ((pa / 128 + i) * 128)
    if s.hostError c a untracked writes past then some (a - pa) else none

/-- DIRTYLOG (R220). -/
def dirtyLog (s : State) (job : Option Nat) (va : Word) (level : Nat) : State :=
  match job.bind fun n => AMap.get? s.jobs n with
  | none => s
  | some j =>
    if !j.logging then s
    else
      let head := s.num j.logPa 8
      let tail := s.num (j.logPa + 8) 8
      let ctl := s.num (j.logPa + 16) 8
      let size := 2 ^ (ctl / 4 % 64)
      if ctl % 2 = 0 ∨ ctl / 2 % 2 = 1 then s
      else if (head + 2 ^ 64 - tail) % 2 ^ 64 < size then
        let entry := bits va 47 0 / 2 ^ pageBits level * 2 ^ pageBits level + (3 - level)
        (s.physStore (j.logPa + 64 + 8 * (head % size)) (leBytes 8 entry) 0).physStore j.logPa (leBytes 8 (head + 1)) 0
      else s.physStore (j.logPa + 16) (leBytes 8 (ctl + 2)) 0

/-- The alias detector's check of a fill (R279), made on the leaf's own frame: UT_ALIAS with the overlapping entry, or 63. -/
def aliasCheck (s : State) (q : Request) (va e : Word) (level : Nat) : State :=
  let frame := ppn e * 4096 / 2 ^ pageBits level * 2 ^ pageBits level
  let size := 2 ^ pageBits level
  let hit := s.ranges.find? fun (_, b, n) => decide (b < frame + size) && decide (frame < b + n * 4096)
  let within := s.ranges.any fun (_, b, n) => decide (b ≤ frame) && decide (frame + size ≤ b + n * 4096)
  if (bit e 8 && !within) || (!bit e 8 && hit.isSome) then
    s.latch q.core q.slot { cause := .utAlias, eaddr := va, info := match hit with | some (i, _) => i | none => 63 }
  else s

/-- The home slice of a translation for an address in its page: every page size hashes on the 2 MiB region of the address (R207). -/
def tlbSlice (asn : Option Nat) (va : Word) : Nat :=
  ((va.toNat / 2 ^ 21 % 2 ^ 16) ^^^ (va.toNat / 2 ^ 37 % 2 ^ 11) ^^^ asn.getD 0) % 160

/-- Whether two cached translations serve the same addresses: of a CT run, only the entry last filled is kept (R202). -/
def sameReach (t x : TlbEntry) : Bool :=
  t.asn == x.asn && t.level == x.level && reachBits t.leaf t.level == reachBits x.leaf x.level &&
    t.page * 2 ^ pageBits t.level / 2 ^ reachBits t.leaf t.level == x.page * 2 ^ pageBits x.level / 2 ^ reachBits x.leaf x.level

/-- A fill of both TLB levels for an access to an address, in L2 in the home slice of its region; the oldest entry gives way in a full
L1 TLB or slice (R204, R207). -/
def fillTlb (s : State) (c : Nat) (va : Word) (t : TlbEntry) : State :=
  let k := s.core c
  let l1 := k.tlb.filter (!sameReach t ·)
  let s := s.setCore c { k with tlb := (if l1.length < 64 then l1 else l1.drop 1) ++ [t] }
  let d := s.die (dieOf c)
  let home := tlbSlice t.asn va
  let l2 := d.l2tlb.filter fun (i, x) => !(i == home && sameReach t x)
  let same := l2.filter fun (i, _) => i == home
  let l2 := if same.length < 1024 then l2 else match same.head? with | some x => l2.erase x | none => l2
  s.setDie (dieOf c) { d with l2tlb := l2 ++ [(home, t)] }

/-- Whether a cached translation matches an address; one of a CT leaf matches every page of its run (DESIGN CHOICE: R202 lets a CT leaf
be cached so, and here it always is; log 60). -/
def tlbMatch (asn : Nat) (va : Word) (t : TlbEntry) : Bool :=
  (t.asn.isNone || t.asn == some asn) &&
    t.page * 2 ^ pageBits t.level / 2 ^ reachBits t.leaf t.level == bits va 47 0 / 2 ^ reachBits t.leaf t.level

/-- The L2 TLB's translation of an address: that of its home slice alone (R207). -/
def l2Match (s : State) (d asn : Nat) (va : Word) : Option TlbEntry :=
  ((s.die d).l2tlb.find? fun (i, t) => tlbMatch asn va t && i == tlbSlice t.asn va).map (·.2)

/-- Whether a cached leaf serves an access as it is; else the entry is discarded and the walk made afresh (R204). The leaf is looked at as
that of its own page. -/
def tlbServes (s : State) (q : Request) (t : TlbEntry) : Bool :=
  (leafCheck s q t.leaf (BitVec.ofNat 64 (t.page * 2 ^ pageBits t.level)) t.level).isNone && (!q.writes || bit t.leaf 7)

/-- The cached leaf that serves a hint, which never walks (R89). -/
def cachedLeaf (s : State) (q : Request) (va : Word) : Option TlbEntry :=
  if !canonical va then none
  else (((s.core q.core).tlb.find? (tlbMatch q.ctx.asn va)).orElse fun _ => s.l2Match (dieOf q.core) q.ctx.asn va).filter (tlbServes s q)

/-- An entry taken out of the L1 TLB of a core and the L2 TLB of its die. -/
def dropTlb (s : State) (c : Nat) (t : TlbEntry) : State :=
  let s := s.setCore c { s.core c with tlb := (s.core c).tlb.filter (!sameReach t ·) }
  s.setDie (dieOf c) { s.die (dieOf c) with l2tlb := (s.die (dieOf c)).l2tlb.filter fun (_, x) => !sameReach t x }

/-- Where a walk begins: the deepest table that the die's walk cache holds a pointer to (R205), or the root. -/
def walkStart (s : State) (d asn root : Nat) (va : Word) : Nat × Nat :=
  let wc := (s.die d).walkCache
  let held (lvl : Nat) := wc.find? fun (a, l, p, _) => a == asn && l == lvl && p == pageOf va (lvl - 1)
  match held 3 with
  | some (_, _, _, b) => (3, b)
  | none => match held 2 with
    | some (_, _, _, b) => (2, b)
    | none => match held 1 with | some (_, _, _, b) => (1, b) | none => (0, root)

/-- The held stores of a pair laid over memory, as its own loads and walks see them (R163, R248). -/
def withHeldStores (s : State) : State :=
  match s.slot.pair with
  | none => s
  | some p => p.held.foldl (fun s e => match e with
      | .store g bs => s.cellStore g.key bs g.slot
      | .untracked c g bs => s.untrackedStore c g.key g.slot g.policy bs
      | .mark a _ new => s.physStore a (leBytes 8 new.toNat) 0
      | _ => s) s

/-- An entry as a walk reads it: a pair's own walk after its held stores (R242, R248). -/
def entryAt (s : State) (q : Request) (a : Nat) : Word :=
  BitVec.ofNat 64 ((if q.strand then s.withHeldStores else s).num a 8)

/-- The A and D bits of an entry set: a SYSTEM-scope compare-and-swap, performed at the entry's home (R204, R263, R277). -/
def markEntry (s : State) (a : Nat) (old new : Word) : State :=
  if BitVec.ofNat 64 (s.num a 8) = old then
    (s.homeAtomic (lineOf a) 0 true
      (atomicReq 9 8 new.toNat old.toNat)).physStore a (leBytes 8 new.toNat) 0
  else s

/-- An event of a pair's walk, which its next commit performs behind its earlier effects (R163, R242). -/
def holdEvent (s : State) (e : Effect) : State :=
  s.setSlot { s.slot with pair := s.slot.pair.map fun p => { p with held := p.held ++ [e] } }

/-- The walk of R204 from a level downward, with at most `n` entry reads. -/
def walk (q : Request) (va : Word) : (n level base restarts : Nat) → State → Except Miss TlbEntry × State
  | 0, level, _, _, s => (.error (.fault .pfEntry level true 0), s)
  | n + 1, level, base, restarts, s =>
    let a := base + 8 * (bits va 47 0 / 2 ^ pageBits level % 512)
    if s.hostError q.core a false false false then (.error (.fault .busError level false 0), s)
    else
      let e : Word := s.entryAt q a
      if !bit e 0 then (.error (.fault .pfNotValid level false 0), s)
      else if bit e 63 || bits e 11 10 != 0 then (.error (.fault .pfEntry level false 0), s)
      else if !bit e 1 && !bit e 2 && !bit e 3 then
        if level = 3 ∨ bits e 9 4 ≠ 0 ∨ entrySlot e ≠ 0 then (.error (.fault .pfEntry level false 0), s)
        else
          let d := s.die (dieOf q.core)
          let s := s.setDie (dieOf q.core)
            { d with walkCache := (q.ctx.asn, level + 1, pageOf va level, ppn e * 4096) :: d.walkCache }
          walk q va n (level + 1) (ppn e * 4096) restarts s
      else match leafCheck s q e va level with
        | some m => (.error m, s)
        | none =>
          let new : Word := e ||| 0x40 ||| (if q.writes then 0x80 else 0)
          let held := q.strand && s.slot.pair.isSome
          if new != e && !held && s.atomicBusy (dieOf q.core) (lineOf a) then (.error (.line (lineOf a)), s.askAtomic q.core (lineOf a))
          else
          let logged := if q.writes && !bit e 7 then
              if held then s.holdEvent (.dirty q.ctx.job va level) else s.dirtyLog q.ctx.job va level
            else s
          if new != e && logged.entryAt q a != e then
            if restarts ≥ 64 then (.error (.fault .pfEntry level true 0), logged)
            else walk q va n 0 q.ctx.root (restarts + 1) logged
          else
            let s := if new != e then if held then logged.holdEvent (.mark a e new) else logged.markEntry a e new else s
            let t : TlbEntry :=
              { asn := if bit e 5 then none else some q.ctx.asn, page := pageOf va level, level := level, leaf := new }
            (.ok t, (s.aliasCheck q va new level).fillTlb q.core va t)

/-- Whether the page of an address is one of a Span region of a job that has a Span partner. -/
def spanPage? (s : State) (job : Option Nat) (va : Word) : Option SpanPage :=
  match job.bind fun n => AMap.get? s.jobs n with
  | some j => if j.spanPartner.isSome then AMap.get? s.span.pages (pageOf va 3) else none
  | none => none

/-- Whether a page's state lets this box make an access (R281). -/
def pagePermits (p : SpanPage) (writes : Bool) : Bool := !(p.handing || p.state == 2 || (p.state == 1 && writes))

/-- Whether the Span unit stalls an access of a job (R281). -/
def spanHolds (s : State) (job : Option Nat) (va : Word) (writes : Bool) : Bool :=
  match s.spanPage? job va with | some p => !pagePermits p writes | none => false

/-- A request of this box for a Span page: sent at once, or, while the page is being handed over, after that (R282). -/
def askPage (s : State) (n : Nat) (write : Bool) : State :=
  match AMap.get? s.span.pages n with
  | none => s
  | some p =>
    let w := if write then 2 else 1
    if w ≤ p.wanted then s
    else (s.withSpan fun x => { x with pages := AMap.set x.pages n { p with wanted := w } }).sendSpan
      (if p.handing then [] else [.pageReq n write])

/-- The use of a TLB entry that an error has poisoned raises SRAM_UE again (R372). -/
def poisonedTranslation (s : State) (c : Nat) (va : Word) (t : TlbEntry) : State :=
  if t.poison then s.latchCore c { cause := .sramUe, eaddr := va, info := 4 } else s

/-- The translation of one address (R204 to R207): from a TLB that serves the access, or by a walk. -/
def translate (s : State) (q : Request) (va : Word) : Except Miss Place × State :=
  if !canonical va then (.error (.fault .pfAddress 0 false 0), s)
  else
    let hit := (s.core q.core).tlb.find? (tlbMatch q.ctx.asn va)
    let s := if hit.isNone then s.count q.core 5 1 else s
    let hit := match hit with | some t => some t | none => s.l2Match (dieOf q.core) q.ctx.asn va
    let found := match hit with
      | some t => if s.tlbServes q t then some t else none
      | none => none
    let r : Except Miss TlbEntry × State := match found with
      | some t => (.ok t,
        if (s.core q.core).tlb.contains t then s.poisonedTranslation q.core va t else (s.aliasCheck q va t.leaf t.level).fillTlb q.core va t)
      | none =>
        let s := match hit with | some t => s.dropTlb q.core t | none => s
        let s := s.count q.core 6 1
        let start := s.walkStart (dieOf q.core) q.ctx.asn q.ctx.root va
        walk q va 260 start.1 start.2 0 s
    match r with
    | (.error m, s) => (.error m, s)
    | (.ok t, s) =>
      let pa := leafAddress t.leaf va t.level
      if s.hostError q.core pa (bit t.leaf 8) q.writes false && (q.reads || !q.writes) then (.error (.fault .busError 0 false 0), s)
      else if s.spanHolds q.ctx.job va q.writes then
        if q.engine && s.span.timedOut then (.error (.fault .busError 0 true 0), s)
        else (.error (.span va q.writes), if q.engine then s.askPage (pageOf va 3) q.writes else s)
      else (.ok { pa, slot := entrySlot t.leaf, untracked := bit t.leaf 8 }, s)

/-- The translation of `n` bytes from `va` on, page by page from the lowest (R206): the segments, or the miss with the first
failing byte's address; a line that the host answers with an error fails an access that reads (R200), and one that the death of its slot
has poisoned fails any (R274). -/
def translateRange (q : Request) : (fuel n : Nat) → (va : Word) → State → Except (Miss × Word) (List Segment) × State
  | 0, _, _, s => (.ok [], s)
  | fuel + 1, n, va, s =>
    if n = 0 then (.ok [], s)
    else
      let here := min n (4096 - va.toNat % 4096)
      match s.translate q va with
      | (.error m, s) => (.error (m, va), s)
      | (.ok p, s) =>
        match (if q.reads || !q.writes then s.errorAt q.core p.pa here p.untracked q.writes false else none) with
        | some o => (.error (.fault .busError 0 false 0, va + BitVec.ofNat 64 o), s)
        | none =>
        match (linesIn p.pa here).find? s.deadLine with
        | some l => (.error (.fault .keyDead 0 false p.slot, va + BitVec.ofNat 64 (l * 128 - p.pa)), s)
        | none =>
        match translateRange q fuel (n - here) (va + BitVec.ofNat 64 here) s with
        | (.error m, s) => (.error m, s)
        | (.ok rest, s) =>
          (.ok ({ key := p.pa, length := here, slot := p.slot, untracked := p.untracked } :: rest), s)

/-! ### Contexts -/

/-- The translation context of a job; a strand of no job has the zero context (log 6). -/
def ctxOf (s : State) (job : Option Nat) : Ctx :=
  match job.bind fun n => AMap.get? s.jobs n with
  | some j => { job, root := j.root, asn := j.asn, keySlot := j.keySlot }
  | none => { job := none, root := 0, asn := 0, keySlot := 0 }

/-! ### Removal (R210) -/

/-- Whether a shootdown of a kind may concern what a job's accesses have used: of a page, any job's, since a G leaf serves them all; of an
address space, its own (R210, R211). -/
def shootConcerns (s : State) (kind asn : Nat) (job : Option Nat) : Bool := kind != 1 || (s.ctxOf job).asn == asn

/-- Whether a shootdown of a kind removes a cached translation. -/
def shootsEntry (kind asn page : Nat) (t : TlbEntry) : Bool :=
  match kind with
  | 0 => tlbMatch asn (BitVec.ofNat 64 (page * 4096)) t
  | 1 => t.asn == some asn
  | _ => true

/-- Every translation that a shootdown names removed from every TLB and walk cache of the part (R210, R211); the rows that an interrupted
MLDA or MLDB which it concerns has translated are translated anew, also those of a strand in a saved share (R376). -/
def shoot (s : State) (kind asn page : Nat) : State :=
  let again (y : Slot) : Slot := if y.u.issue.isEmpty || !s.shootConcerns kind asn y.u.job then y else { y with u := { y.u with issue := [] } }
  { s with
    jobs := s.jobs.map fun (q, j) => (q, { j with shares := j.shares.map fun (c, h) => (c, { h with
      slots := h.slots.map fun (i, y) => (i, again y) }) })
    cores := s.cores.map fun (c, x) => (c, { x with
      tlb := x.tlb.filter fun t => !shootsEntry kind asn page t
      slots := x.slots.each again })
    dies := s.dies.map fun (d, x) => (d, { x with
      l2tlb := x.l2tlb.filter fun (_, t) => !shootsEntry kind asn page t
      walkCache := x.walkCache.filter fun (a, _, _, _) => kind ≤ 1 && a != asn }) }

end State

end Sys2Proof.Machine
end

