-- ==== Sys2Proof/Machine/Effect.lean ====
section
/-!
DEFINITION. Effects that leave their strand (R163): performed at once, or held by a lockstep pair and performed by its commits
in program order, with the image that a commit writes (R164).
-/

namespace Sys2Proof.Machine

namespace State

/-! ### A job's memory as the micro-kernel and the engines reach it (R203, R448) -/

/-- Bytes read from segments by a core: untracked ones through its caches, tracked ones with the line states that follow. -/
def readSegments (s : State) (c : Nat) : List Segment → List Byte × State
  | [] => ([], s)
  | g :: gs =>
    let (bs, s) :=
      if !isPhysical g.key then (s.bytes g.key g.length, s)
      else if g.untracked then
        let r := s.untrackedBytes c g
        (r.1, if g.policy = 2 then (linesIn g.key g.length).foldl (fun s l => s.markLine c l) r.2 else r.2)
      else (s.physBytes g.key g.length g.slot, (linesIn g.key g.length).foldl (fun s l => s.touch c l false g.slot g.policy) s)
    let (rest, s) := readSegments s c gs
    (bs ++ rest, s)

/-- A read of a job's GLOBAL bytes through its context by a core, charged to a slot; a line that its home cannot serve now is a miss
(R270). -/
def jobLoad (s : State) (job : Option Nat) (c i : Nat) (va : Word) (n : Nat) : Except (Miss × Word) (List Byte) × State :=
  let q : Request := { ctx := s.ctxOf job, core := c, slot := i, user := false, reads := true, writes := false }
  match State.translateRange q (n / 4096 + 2) n va s with
  | (.error m, s) => (.error m, s)
  | (.ok segs, s) => match s.lineStop c false false segs with
    | some (l, k) => (.error (.line l, va), s.askHome c l false k)
    | none =>
      let (bs, s) := s.readSegments c segs
      (.ok bs, s)

/-- Bytes laid over segments in order. -/
def storeSegments (s : State) : List Segment → List Byte → State
  | [], _ => s
  | g :: gs, bs => storeSegments (s.cellStore g.key (bs.take g.length) g.slot) gs (bs.drop g.length)

/-- A line of a core's write made its own for it, then the bytes stored (R267). -/
def cellOwned (s : State) (c : Nat) (g : Segment) (bs : List Byte) : State :=
  (if isPhysical g.key then (linesIn g.key bs.length).foldl (fun s l => s.touch c l true g.slot g.policy) s else s).cellStore g.key bs g.slot

/-- Bytes that an engine of a core lays over segments: untracked ones go straight to platform memory, tracked lines where their POLICY has
them (R223, R254, R278). -/
def engineLay (s : State) (c : Nat) : List Segment → List Byte → State
  | [], _ => s
  | g :: gs, bs =>
    let part := bs.take g.length
    let s := if isPhysical g.key && g.untracked then s.untrackedWriteBack c g.key g.slot part else s.cellOwned c g part
    engineLay s c gs (bs.drop g.length)

/-- A write of a job's GLOBAL bytes through its context by a core; a line that its home cannot serve now is a miss, unless the write has been
waited for already (R270). -/
def jobStore (s : State) (job : Option Nat) (c i : Nat) (va : Word) (bs : List Byte) (waited : Bool := false) :
    Except (Miss × Word) Unit × State :=
  let q : Request := { ctx := s.ctxOf job, core := c, slot := i, user := false, reads := false, writes := true }
  match State.translateRange q (bs.length / 4096 + 2) bs.length va s with
  | (.error m, s) => (.error m, s)
  | (.ok segs, s) => match if waited then none else s.lineStop c true false segs with
    | some (l, k) => (.error (.line l, va), s.askHome c l true k)
    | none => (.ok (), s.engineLay c segs bs)

/-! ### Room -/

/-- Whether an arrival queue has room for one more message, those on their way to it counted (R295). -/
def aqRoom (s : State) (c q : Nat) : Bool :=
  decide ((((s.core c).aq[q]?.getD []).length + (s.net.filter fun f => f.core == c && f.queue == q).length) < aqDepth q)

/-- Slots of a host mailbox: as many as the job's submission queue has (log 20). -/
def mailboxSlots (j : Job) : Nat := 2 ^ (j.logSlots + 4)

/-- Messages for a host mailbox that lockstep pairs hold (R163). -/
def heldMail (s : State) (job n : Nat) : Nat :=
  (s.occupied.map fun (c, i) => match (s.slotAt c i).pair with
    | some p => (p.held.filter fun e => match e with | .mailbox j k _ _ => j == job && k == n | _ => false).length
    | none => 0).sum

/-- Whether a host mailbox can take a message beside those held for it: HEAD read through the job's context (R330). A mailbox that cannot
be read is full. -/
def mailboxRoom (s : State) (job n : Nat) : Bool :=
  match AMap.get? s.jobs job with
  | none => false
  | some j =>
    let va := BitVec.ofNat 64 (j.mailboxes.getD n 0)
    match s.jobLoad (some job) j.dispatcher 0 (va + 128) 8 with
    | (.ok bs, _) => decide (((AMap.getD j.mailboxTail n 0) - leWord bs).toNat + s.heldMail job n < mailboxSlots j)
    | (.error _, _) => false

/-! ### Performing -/

/-- The link register of a strand reserved for a value on its way (R157). -/
def reserveLink (s : State) (c i n : Nat) : State :=
  let t := s.strandAt c i
  s.setStrandAt c i { t with links := t.links.setIfInBounds n { t.links[n]?.getD {} with reserved := true } }

/-- An entry of a queue register reserved for a value on its way (R288). -/
def reserveQueue (s : State) (c i n : Nat) : State :=
  let t := s.strandAt c i
  let q := t.queues[n]?.getD {}
  s.setStrandAt c i { t with queues := t.queues.setIfInBounds n { q with reserved := q.reserved + 1 } }

/-- PHADV's steps 2 to 4 on a core (R257, R359, R388): dirty untracked bytes written, untracked lines dropped, PHASE raised if
the core's job has untracked phases. -/
def raisePhase (s : State) (c : Nat) : State :=
  let s := (s.flushUntracked c fun _ => true).dropUntracked c fun _ => true
  let k := s.core c
  let phased := match k.job.bind fun n => AMap.get? s.jobs n with | some j => j.untracked | none => false
  if phased then s.setCore c { k with phase := k.phase + 1 } else s

/-- An effect performed. -/
def perform (s : State) : Effect → State
  | .store g bs => s.cellOwned s.cur.1 g bs
  | .untracked c g bs => s.untrackedStore c g.key g.slot g.policy bs
  | .message c q h p l j home hd =>
    { s with net := s.net ++ [{ core := c, queue := q, msg := { header := h, payload := p, launch := l, job := j, home := some home }
                                handle := some hd }] }
  | .link c i n v unit =>
    { s with landings := s.landings ++ [{ push := false, core := c, slot := i, n := n, value := v, writer := some s.cur, completes := false, unit }] }
  | .push c i n v unit =>
    { s with landings := s.landings ++ [{ push := true, core := c, slot := i, n := n, value := v, writer := some s.cur, completes := false, unit }] }
  | .spanMessage hd h p => s.sendSpan [.message hd h p]
  | .mailbox job n h p =>
    match AMap.get? s.jobs job with
    | none => s
    | some j =>
      let va := BitVec.ofNat 64 (j.mailboxes.getD n 0)
      let tail := AMap.getD j.mailboxTail n 0
      let bs := leBytes 8 h.toNat ++ (p.flatMap fun w => leBytes 8 w.toNat)
      let place := va + 256 + BitVec.ofNat 64 (64 * (tail.toNat % mailboxSlots j))
      match s.jobStore (some job) s.cur.1 s.cur.2 place bs true with
      | (.error (m, a), s) => s.latch s.cur.1 s.cur.2 { cause := .mailboxFault, eaddr := a, info := match m with
          | .fault _ l _ k => 1 + l * 4 + k * 32 | _ => 1 }
      | (.ok _, s) =>
        match s.jobStore (some job) s.cur.1 s.cur.2 va (leBytes 8 (tail + 1).toNat) true with
        | (.error (_, a), s) => s.latch s.cur.1 s.cur.2 { cause := .mailboxFault, eaddr := a, info := 1 }
        | (.ok _, s) => s.mapJob job fun j => { j with mailboxTail := AMap.set j.mailboxTail n (tail + 1) }
  | .copy c ctx cmd =>
    let k := s.core c
    let x := k.copies[ctx]?.getD {}
    s.setCore c { k with copies := k.copies.setIfInBounds ctx { x with cmds := x.cmds ++ [cmd] } }
  | .coll d ctx cmd =>
    let k := s.die d
    s.setDie d { k with coll := k.coll.setIfInBounds ctx ((k.coll[ctx]?.getD []) ++ [cmd]) }
  | .walk c w => s.setCore c { s.core c with walks := (s.core c).walks ++ [w] }
  | .launch d job bs =>
    match AMap.get? s.jobs job with
    | none => s
    | some j => match s.descriptor? job j bs with
      | none => s
      | some l => match s.placeLaunch d { l with device := true } with | some (_, s) => s | none => s
  | .phase c => s.raisePhase c
  | .mark a old new => s.markEntry a old new
  | .dirty job va level => s.dirtyLog job va level

/-- The covered acc and pacc bytes of a core that are not zero (R164). -/
def coveredCells (s : State) (c cover : Nat) : List Host.Cell :=
  s.mem.filter fun (a, _) =>
    (cover % 2 == 1 && decide (accCell c 0 0 0 ≤ a) && decide (a < accCell c 0 0 0 + 65536)) ||
    (cover / 2 % 2 == 1 && decide (paccCell c 0 0 0 ≤ a) && decide (a < paccCell c 0 0 0 + 65536))

/-- The strand of a slot at the place where an image of it resumes: its group's first word, EPC while its trap is served, and between
two words of a repetition body the scalar stream's place (R86, R133, R163). -/
def imageStrand (x : Slot) : Strand :=
  let pc := match x.pre with | some q => q.start | none => if x.mode then x.epc else x.u.pc
  match x.u.rep.stream with
  | none => { x.u with pc := pc }
  | some t => { x.u with
      g := t.g, w := t.w, memdef := t.memdef, fpctl := (x.u.fpctl &&& 0x3F00) ||| (t.fpctl &&& ~~~0x3F00), pc := t.pc
      rep := { x.u.rep with stream := none } }

/-- The checkpoint image of a slot's pair written to the half of its area that does not hold the last one, and made the last
(R164). The first image of an area goes to its upper half (DESIGN CHOICE: R164 does not say which; log 32). -/
def writeImage (s : State) (c i : Nat) : State :=
  let x := s.slotAt c i
  match x.pair with
  | none => s
  | some p => match p.area with
    | none => s
    | some (a, cover) =>
      let size := 8192 + 65536 * (cover % 2 + cover / 2 % 2)
      let half := 1 - p.half
      let at0 := localCell c (a + half * size)
      let u := imageStrand x
      let rec0 := Record.strand (maxLanes c) (u.launch.getD 0) false u.pc x.eprog true false false u
      let acc := if cover % 2 = 1 then s.bytes (accCell c 0 0 0) 65536 else []
      let pacc := if cover / 2 % 2 = 1 then s.bytes (paccCell c 0 0 0) 65536 else []
      let s := s.store at0 (rec0 ++ acc ++ pacc)
      s.setSlotAt c i { s.slotAt c i with pair := some { p with
        half := half, mismatches := 0, touched := 0, image := some (u, x.eprog, s.coveredCells c cover), unprotected := false
        due := none } }

/-- A commit of the pair in a slot (R163): its held effects performed in program order, and the image written where there is an
area; effects performed without an image leave the pair unprotected. -/
def commit (s : State) (c i : Nat) : State :=
  match (s.slotAt c i).pair with
  | none => s
  | some p =>
    let s := s.setSlotAt c i { s.slotAt c i with pair := some { p with
      held := [], unprotected := p.unprotected || (p.area.isNone && !p.held.isEmpty) } }
    let back := s.cur
    ({ p.held.foldl perform { s with cur := (c, i) } with cur := back }).writeImage c i

end State

end Sys2Proof.Machine
end

