-- ==== Sys2Proof/Machine/Ops.lean ====
section
/-!
DEFINITION. The operations that instructions share: stopping (R10, R11), taking a trap (R366 to R368) and returning from one
(R128), completing a group (R86, R115), and the checks that come before an instruction's own (R84, R88, R292).
-/

namespace Sys2Proof.Machine

/-- How an instruction ends without completing: a trap (cause, INFO, EADDR, progress) or a wait. The state kept is the one before
the instruction unless another is named (R10). -/
inductive Stop where
  | trap (cause : Cause) (info : Nat) (eaddr : Word) (step : Nat) (kept : Option State)
  | wait (w : Wait) (kept : Option State)

/-- A result of an instruction, or how it stops. -/
abbrev Res (α : Type) := Except Stop α

/-- TRAP(cause) with nothing further (R10). -/
def raise {α : Type} (c : Cause) : Res α := .error (.trap c 0 0 0 none)
/-- TRAP(cause) with INFO and EADDR. -/
def raiseAt {α : Type} (c : Cause) (info : Nat) (eaddr : Word) : Res α := .error (.trap c info eaddr 0 none)
/-- WAITFOR with nothing done (R11). -/
def waitFor {α : Type} (w : Wait) : Res α := .error (.wait w none)
/-- A check: TRAP(cause) unless `ok`. -/
def ensure (ok : Bool) (c : Cause) : Res Unit := if ok then .ok () else raise c

namespace State

/-! ### Taking a trap -/

/-- Where a trap enters (R114, R366). -/
def trapVector (tvec : Word) (code : Nat) : Word :=
  (tvec &&& 0xFFFFC) + if bit tvec 0 then BitVec.ofNat 64 (256 * (code / 16)) else 0

/-- ECAUSE of an entry (R115). -/
def causeWord (cause : Cause) (precise mode ie : Bool) (info : Nat) : Word :=
  BitVec.ofNat 64 (cause.code + (if precise then 2 ^ 8 else 0) + (if mode then 2 ^ 9 else 0) + (if ie then 2 ^ 10 else 0) +
    info % 2 ^ 48 * 2 ^ 16)

/-- The scalar stream's values put back after a body word, its own address kept apart (R291, R294). -/
def leaveBody (u : Strand) : Strand :=
  match u.rep.stream with
  | none => u
  | some t => { u with
      g := t.g, w := t.w, memdef := t.memdef, fpctl := (u.fpctl &&& 0x3F00) ||| (t.fpctl &&& ~~~0x3F00), pc := t.pc
      rep := { u.rep with stream := none } }

/-- The address to which a trap of the slot returns: the first word of the open group, or of the next one (R86, R366). -/
def groupStart (x : Slot) : Word :=
  match x.pre with
  | some p => p.start
  | none => if x.mode then x.spc else x.u.pc

/-- The slot after the trap entry of R366. -/
def enteredSlot (tvec : Word) (native precise : Bool) (cause : Cause) (info : Nat) (eaddr : Word) (step : Nat)
    (x : Slot) : Slot :=
  let inBody := x.u.rep.stream.isSome
  let u := leaveBody x.u
  { x with
    status := .ready
    epc := groupStart x
    ecause := causeWord cause precise x.mode x.ie info
    outer := if x.mode then x.outer else some (causeWord cause precise x.mode x.ie info, groupStart x)
    eaddr := eaddr
    eprog := step
    nest := x.nest || x.mode
    mode := true
    ie := false
    spc := trapVector tvec cause.code
    pre := none
    service := if native && !x.mode then some cause else none
    pair := x.pair.map fun p => { p with areaRaised := p.areaRaised || cause == .lockArea, due := none }
    u := if inBody then { u with rep := { u.rep with fromBody := true, spc := u.pc } } else u }

/-- A synchronous trap while NEST is set halts every slot of the core and is reported to the Bezel (R368). -/
def doubleTrap (s : State) (c : Nat) : State :=
  let k := s.core c
  s.setCore c { k with
    doubled := true
    slots := k.slots.each fun x => if x.status = .free then x else { x with status := .halted .core } }

/-- Taking a trap on a slot: THE trap entry of the part (R366 to R368). -/
def takeTrap (s : State) (c i : Nat) (precise : Bool) (cause : Cause) (info : Nat) (eaddr : Word) (step : Nat) : State :=
  if precise && (s.slotAt c i).nest then s.doubleTrap c
  else
    let s := s.commit c i
    let s := if precise then s.count c 11 1 else s
    s.setSlotAt c i (enteredSlot (s.core c).tvec s.native precise cause info eaddr step (s.slotAt c i))

/-- A precise trap of the slot whose word executes. -/
def trap (s : State) (cause : Cause) (info : Nat) (eaddr : Word) (step : Nat) : State :=
  s.takeTrap s.cur.1 s.cur.2 true cause info eaddr step

/-! ### Completing -/

/-- The strand without the fault that its completed instruction at `pc` had met: a later one there is a first fault (R215). A body word leaves
the scalar stream's admitted SEND as it is (R298). -/
def withoutFault (u : Strand) (pc : Word) : Strand :=
  { u with admitted := if u.rep.stream.isSome then u.admitted else none, lastFault := u.lastFault.filter (·.1 ≠ pc) }

/-- The image of a commit point as it completes (R163, R192): a rollback never runs back across it. Without an area an effect of its own
leaves the pair unprotected. -/
def sealPoint (s : State) : State :=
  match s.slot.pair with
  | none => s
  | some p => match p.due with
    | none => s
    | some effect =>
      let s := s.setSlot { s.slot with pair := some { p with due := none, unprotected := p.unprotected || (effect && p.area.isNone) } }
      s.writeImage s.cur.1 s.cur.2

/-- The group completes with the next word at `pc`: group closed, a user instruction's progress zero (R86, R115, R133); under debug single
step the trap of R411 follows. -/
def complete (s : State) (pc : Word) : State :=
  let start := groupStart s.slot
  let s := s.setPc pc
  let x := s.slot
  let s := s.setSlot { x with
    pre := none, eprog := if x.mode then x.eprog else 0, status := .ready
    u := if x.mode then { x.u with admitted := x.u.admitted.filter (!·.1) } else withoutFault x.u start }
  let s := (s.count s.cur.1 1 1).sealPoint
  if s.slot.step && !s.slot.mode then s.trap .singleStep 0 0 0 else s

/-- The group completes and the next word in order follows. -/
def retire (s : State) : State := s.complete (s.pc + 4)

/-- Whether a slot is in one of the short waits, whose instruction has begun and completes: no boundary (R157, R283, R304). -/
def shortWait (x : Slot) : Bool :=
  match x.status with
  | .waiting .landing => true
  | .waiting .answer => true
  | .waiting (.spanAtomic _ _ _ _) => true
  | _ => false

/-- The slot waits (R11). -/
def setWait (s : State) (w : Wait) : State := s.setSlot { s.slot with status := .waiting w }

/-- The state that an instruction leaves: its own, or its trap's, or the wait's. -/
def finish (s : State) : Res State → State
  | .ok t => t
  | .error (.trap c info a n kept) => (kept.getD s).trap c info a n
  | .error (.wait w kept) => (kept.getD s).setWait w

/-! ### Return from a trap -/

/-- ERET (R128) on the slot whose word executes: a return to user mode makes the user's frame current, and one to a body word
resumes the sequencer there at its progress and the scalar stream at SPC (R294). A commit of a lockstep pair (R163). One from the idle
context leaves slot 0 free (R369). -/
def returnFromTrap (s : State) : State :=
  let s := s.commit s.cur.1 s.cur.2
  let x := s.slot
  let toSuper := bit x.ecause 9
  let u := x.u
  let u := if toSuper then u
    else if u.rep.fromBody then
      let at0 := (x.epc - u.rep.base).toNat / 4
      let past := decide (u.rep.body.length ≤ at0)
      { u with pc := u.rep.spc, rep := { u.rep with
          fromBody := false, prog := x.eprog, next := if past then 0 else at0
          iteration := if past then u.rep.iteration + 1 else u.rep.iteration } }
    else { u with pc := x.epc }
  let idle := x.idle && !toSuper
  s.setSlot { x with
    idle := x.idle && toSuper, outer := if toSuper then x.outer else none
    mode := toSuper, ie := bit x.ecause 10, nest := false, pre := none, service := none, status := if idle then .free else .ready
    eprog := if !toSuper && x.u.rep.fromBody then 0 else x.eprog
    spc := if toSuper then x.epc else x.spc, u := u }

/-! ### Checks before an instruction's own -/

/-- Whether a word may follow the prefixes taken: MOD and EXT each only before its targets (R84, R85). -/
def prefixFits (s : State) (mod ext : Bool) : Bool :=
  match s.slot.pre with
  | none => true
  | some p => (p.mod.isNone || mod) && (p.ext.isNone || ext)

/-- The checks of R88 that concern the group, for a word that takes no prefix. -/
def plain (s : State) (k : State → Res State) : Out :=
  .next (s.finish (do ensure (s.prefixFits false false) .illPrefix; k s))

/-- The same for a word that only some kinds of core or some values of its fields make well-formed: ILL_FUNCTION comes before
ILL_PREFIX (R88). -/
def plainWhere (s : State) (legal : Bool) (k : State → Res State) : Out :=
  .next (s.finish (do ensure legal .illFunction; ensure (s.prefixFits false false) .illPrefix; k s))

/-- The same for a word that takes EXT. -/
def withExt (s : State) (k : State → Res State) : Out :=
  .next (s.finish (do ensure (s.prefixFits false true) .illPrefix; k s))

/-- The same for a word that takes MOD. -/
def withMod (s : State) (k : State → Res State) : Out :=
  .next (s.finish (do ensure (s.prefixFits true false) .illPrefix; k s))

/-- The same for a word that takes both. -/
def withBoth (s : State) (k : State → Res State) : Out :=
  .next (s.finish (do ensure (s.prefixFits true true) .illPrefix; k s))

/-- Supervisor-only words trap in user mode (R83). -/
def needSupervisor (s : State) : Res Unit := ensure s.slot.mode .illPriv

/-- Blocking forms trap in handlers and gusts (R24). -/
def needResident (s : State) : Res Unit := ensure (!s.activation) .handlerBlock

/-- While the sequencer runs, the scalar stream leaves these words alone (R292). -/
def needIdleSequencer (s : State) : Res Unit :=
  ensure (!(s.u.rep.active && s.u.rep.stream.isNone && !s.slot.mode)) .repState

/-! ### Effects of an instruction -/

/-- The first commit of a pair that performs effects, held ones or one of the instruction's own, comes without an area: LOCK_AREA. It is
raised once, and not after a commit that raises nothing has performed effects (R163). -/
def needArea (p : Pair) (effect : Bool) : Res Unit :=
  ensure (!(p.area.isNone && (effect || !p.held.isEmpty) && !p.areaRaised && !p.unprotected)) .lockArea

/-- The held stores of a pair wait for a line that its home cannot serve now (R270). -/
def awaitHeld (s : State) (p : Pair) : Res Unit :=
  match p.held.findSome? fun e => match e with
      | .store g bs => s.lineStop s.cur.1 true false [{ g with length := bs.length }]
      | _ => none with
  | some (l, k) => .error (.wait (.line l) (some (s.askHome s.cur.1 l true k)))
  | none => .ok ()

/-- A full commit buffer commits (R163). -/
def commitFull (s : State) : Res State :=
  match s.slot.pair with
  | none => .ok s
  | some p => do
    State.needArea p false
    s.awaitHeld p
    pure (s.commit s.cur.1 s.cur.2)

/-- Every held effect of the strand's pair performed before what the classes, or the instruction itself, order behind them (R235, R250, R262,
R263). -/
def performHeld (s : State) : Res State :=
  match s.slot.pair with
  | none => .ok s
  | some p => if p.held.isEmpty then .ok s else do
    s.awaitHeld p
    pure (s.commit s.cur.1 s.cur.2)

/-- An effect of the instruction: performed, or held by the pair, whose full buffer commits first (R163). -/
def emit (s : State) (e : Effect) : Res State :=
  match s.slot.pair with
  | none => .ok (s.perform e)
  | some p => do
    let s ← if p.held.length < 64 then pure s else s.commitFull
    match s.slot.pair with
    | none => pure s
    | some p => pure (s.setSlot { s.slot with pair := some { p with held := p.held ++ [e] } })

/-- A commit point of R163: an instruction whose result comes from outside the pair, and whether it performs an effect of its own, as
an atomic does. The image is taken again as it completes. -/
def commitPoint (s : State) (effect : Bool) : Res State :=
  match s.slot.pair with
  | none => .ok s
  | some p => do
    State.needArea p effect
    s.awaitHeld p
    let s := s.commit s.cur.1 s.cur.2
    pure (s.setSlot { s.slot with pair := s.slot.pair.map fun p => { p with due := some effect } })

end State

end Sys2Proof.Machine
end

