-- ==== Sys2Proof/Machine/Flags.lean ====
section
/-!
DEFINITION. FPCTL (R55): its rounding mode, the flags an instruction raises into it, and the FP_EXCEPTION trap (R59).
-/

namespace Sys2Proof.Machine

/-- The writable bits of FPCTL (R55). -/
def fpctlMask : Word := 0x3F3F03

namespace State

/-- The rounding mode in force (R55). -/
def rounding (s : State) : Round := roundMode (bits s.u.fpctl 1 0)

/-- FPCTL with flags raised: the OR with what it holds (R59). -/
def orFlags (s : State) (flags : Nat) : State :=
  s.setU { s.u with fpctl := s.u.fpctl ||| BitVec.ofNat 64 (flags % 64 * 256) }

/-- Whether a raised flag has its enable bit set (R59). -/
def enabledFlag (s : State) (flags : Nat) : Bool := bits s.u.fpctl 21 16 &&& flags % 64 != 0

/-- The flags of an instruction raised: with an enabled one among them the instruction traps with FP_EXCEPTION, the flags kept
and EADDR naming them; else the destination is written by `k` (R59). -/
def withFlags (s : State) (flags : Nat) (k : State → State) : Res State :=
  let t := s.orFlags flags
  if s.enabledFlag flags then .error (.trap .fpException 0 (BitVec.ofNat 64 (flags % 64)) 0 (some t))
  else .ok (k t).retire

end State

end Sys2Proof.Machine
end

