-- ==== Sys2Proof/Machine/Operands.lean ====
section
/-!
DEFINITION. Operand forms: immediates as an EXT widens them (R84), the pairs d, d+1 that report a status, selectors of narrow
values (R54), and the lanes of vector registers (R135, R141).
-/

namespace Sys2Proof.Machine

namespace State

/-! ### Immediates (R84) -/

/-- The EXT taken in front of the word. -/
def ext? (s : State) : Option (BitVec 26) := s.slot.pre.bind (·.ext)

/-- A field of `n` bits as W, sign-extended with or without EXT. -/
def immSigned (s : State) {n : Nat} (f : BitVec n) : Word :=
  match s.ext? with
  | some e => sext (26 + n) (e.toNat * 2 ^ n + f.toNat)
  | none => sext n f.toNat

/-- A field of 16 bits as W for ANDI, ORI and XORI: zero-extended, with EXT and without (R84). -/
def immLogical (s : State) (f : BitVec 16) : Word :=
  match s.ext? with
  | some e => BitVec.ofNat 64 (e.toNat * 2 ^ 16 + f.toNat)
  | none => f.setWidth 64

/-! ### Registers -/

/-- A register and the one after it written: value and status (R156, R287, R298). -/
def setPair (s : State) (d : Reg) (x status : Word) : State := (s.setReg d x).setReg (d + 1) status

/-- Bits [31:0] of a register as an f32 value (R120). -/
def regF32 (s : State) (r : Reg) : FVal := FloatFormat.f32.read ((s.reg r).toNat % 2 ^ 32)

/-- A register's low 32 bits as a pattern. -/
def reg32 (s : State) (r : Reg) : Nat := (s.reg r).toNat % 2 ^ 32

/-! ### Vector registers -/

/-- A vector register. -/
def vreg (s : State) (r : Reg) : Vector Lane 32 := s.u.v[r.toNat]?.getD (Vector.replicate 32 0)

/-- A lane of a vector register. -/
def lane (s : State) (r : Reg) (i : Nat) : Lane := (s.vreg r)[i]?.getD 0

/-- A vector register written in the lanes that `f` gives, the others kept. -/
def setLanes (s : State) (r : Reg) (f : Nat → Option Lane) : State :=
  let old := s.vreg r
  s.setU { s.u with v := s.u.v.setIfInBounds r.toNat (Vector.ofFn fun i => (f i.val).getD old[i]) }

/-- A bank named by an instruction is active again (R138). -/
def wakeBanks (s : State) (rs : List Reg) : State :=
  s.setU { s.u with banks := Vector.ofFn fun b =>
    if s.u.banks[b] = .retention ∧ rs.any (fun r => r.toNat / 8 == b.val) then .active else s.u.banks[b] }

/-- The active lanes (R136). -/
def activeLanes (s : State) : List Nat := List.range s.u.vlen

/-- The grant's checks for a vector word that names these v registers (R136, R292): a renamed or named register at or above VREGS,
or no grant at all, is VEC_UNGRANTED. -/
def needGrant (s : State) (rs : List Reg) : Res Unit := do
  s.needIdleSequencer
  ensure (s.u.vregs != 0 && rs.all fun r => decide (r.toNat < s.u.vregs)) .vecUngranted

/-- A mask register. -/
def mask (s : State) (k : Nat) : BitVec 32 := s.u.k[k]?.getD 0

/-- A mask register written; bits from VLEN upward are zero (R139). -/
def setMask (s : State) (k : Nat) (x : BitVec 32) : State :=
  s.setU { s.u with k := s.u.k.setIfInBounds k (x &&& BitVec.ofNat 32 (2 ^ s.u.vlen - 1)) }

end State

/-! ### Narrow values (R54) -/

/-- The bits that a selector picks out of a lane: byte bb of 01bb, nibble nnn of 1nnn, else the whole. -/
def pick (sel : BitVec 4) (x : Lane) : Nat :=
  if sel.getLsbD 3 then x.toNat / 2 ^ (4 * (sel.toNat % 8)) % 16
  else if sel.getLsbD 2 then x.toNat / 2 ^ (8 * (sel.toNat % 4)) % 256
  else x.toNat

/-- A lane with the part that a selector names replaced. -/
def place (sel : BitVec 4) (old : Lane) (x : Nat) : Lane :=
  if sel.getLsbD 3 then
    let sh := 4 * (sel.toNat % 8)
    (old &&& ~~~(BitVec.ofNat 32 (15 * 2 ^ sh))) ||| BitVec.ofNat 32 (x % 16 * 2 ^ sh)
  else if sel.getLsbD 2 then
    let sh := 8 * (sel.toNat % 4)
    (old &&& ~~~(BitVec.ofNat 32 (255 * 2 ^ sh))) ||| BitVec.ofNat 32 (x % 256 * 2 ^ sh)
  else BitVec.ofNat 32 x

/-- The narrow format of a type of major 0x19 (R82). -/
def narrowFormat (t : Nat) : FloatFormat :=
  match t with
  | 0 => .f32 | 1 => .bf16 | 2 => .f16 | 3 => .e4m3 | 4 => .e5m2 | 5 => .e3m2 | 6 => .e2m3 | _ => .e2m1

/-- A narrow pattern cut to its format: a byte of e3m2 or e2m3 gives its low six bits (R52, R54). -/
def cut (f : FloatFormat) (x : Nat) : Nat := x % 2 ^ f.width

/-- A narrow value widened exactly to f32: pattern and flags; a NaN is canonical, NV for a signalling one (R54). -/
def widen (f : FloatFormat) (x : Nat) : Nat × Nat := FArith.convert .f32 .rne (f.read (cut f x))

/-- The sign-extension of an `n`-bit number. -/
def signedOf (n x : Nat) : Int := (BitVec.ofNat n x).toInt

end Sys2Proof.Machine
end

