-- ==== Sys2Proof/Machine/System.lean ====
section
/-!
DEFINITION. System registers (R107 to R116), the system instructions (R126 to R132) and the hints (R33, R89).
-/

namespace Sys2Proof.Machine

namespace State

/-- Something done as the strand of a slot. -/
def as (s : State) (c i : Nat) (f : State → State) : State := { f { s with cur := (c, i) } with cur := s.cur }

/-! ### Reading system registers -/

/-- CSTAT (R108). -/
def cstat (s : State) : Word :=
  let x := s.slot
  let u := x.u
  let kind : Nat := match s.kind with | .mcore => 0 | .score => 1 | .bezel => 2
  let skind : Nat := match u.kind with | .resident => 0 | .handler => 1 | .gust => 2
  BitVec.ofNat 64 ((if x.mode then 1 else 0) + (if x.ie then 2 else 0) + kind * 4 + skind * 16 + s.cur.2 % 4 * 64 +
    (u.frames.length + 1) % 16 * 2 ^ 8 + u.wspilled % 65536 * 2 ^ 12 + u.cuff % 4 * 2 ^ 28 +
    (if x.pair.isSome then 2 ^ 30 else 0) + if x.nest then 2 ^ 31 else 0)

/-- SPSIZE (R111): the Bezel reads 256 and 16. A strand with a window on a shared core reads the window's size as SP (R386), and as L1
what the core's own split leaves (DESIGN CHOICE: no rule gives L1 there; log 23). -/
def spsize (s : State) : Word :=
  match s.kind with
  | .bezel => BitVec.ofNat 64 (256 + 16 * 2 ^ 16)
  | _ => match s.u.window with
    | some (_, n) => BitVec.ofNat 64 (n / 1024 + (sramKib s.cur.1 - s.me.sp) * 2 ^ 16)
    | none => BitVec.ofNat 64 (s.me.sp + (sramKib s.cur.1 - s.me.sp) * 2 ^ 16)

/-- Scratchpad bytes that LOCAL reaches (R194, R196). -/
def scratchBytes (s : State) (c : Nat) : Nat := match coreKind c with | .bezel => 262144 | _ => (s.core c).sp * 1024

/-- The hidden offset of a resumed job's phases (R388). -/
def phaseOffset (s : State) : Word := match s.job? with | some j => if j.untracked then j.phaseOffset else 0 | none => 0

/-- SEQ (R113): the key slot to which the strand's queue context is bound, and whether its key is live; zero, its reset value, for a
strand of no queue context. -/
def seqWord (s : State) : Word :=
  match s.job? with
  | some j => BitVec.ofNat 64 (j.keySlot + if s.keyDead j.keySlot then 0 else 256)
  | none => 0

/-- A system register's value (R107 to R116). -/
def readSys (s : State) (n : Nat) : Word :=
  match n with
  | 0 => s.cstat
  | 1 => s.u.memdef
  | 2 => s.u.fpctl
  | 3 => BitVec.ofNat 64 s.u.lcore
  | 4 => BitVec.ofNat 64 s.u.lcount
  | 5 => s.u.wsp
  | 6 => s.u.rpc
  | 7 => s.spsize
  | 8 => Record.vgranted s.u
  | 9 => s.seqWord
  | 10 => s.me.phase + s.phaseOffset
  | 11 => s.gphase + s.phaseOffset
  | 12 => s.cycle + s.me.cycles
  | 16 => s.me.tvec
  | 17 => s.slot.epc
  | 18 => s.slot.ecause
  | 19 => s.slot.eaddr
  | 20 => BitVec.ofNat 64 s.slot.eprog
  | 21 => s.me.gspill
  | _ => 0

/-- Whether a number may be read in the current mode (R107). -/
def sysReadable (mode : Bool) (n : Nat) : Bool := mode || !(decide (16 ≤ n) && decide (n ≤ 20))

/-- Whether a number may be written in the current mode (R107). -/
def sysWritable (mode : Bool) (n : Nat) : Bool := if mode then [1, 2, 5, 6, 7, 16, 17, 18, 19, 20, 21].contains n else [1, 2, 5].contains n

/-- The strand has seen a value of GPHASE (R259). -/
def seePhase (s : State) (x : Word) : State := s.setU { s.u with sawPhase := if s.u.sawPhase.ult x then x else s.u.sawPhase }

/-! ### Writing them -/

/-- A value of SPSIZE.SP that the core can have (R111). -/
def spLegal (c n : Nat) : Bool :=
  match coreKind c with
  | .mcore => n % 64 == 0 && decide (n ≤ 448)
  | .score => n % 16 == 0 && decide (n ≤ 112)
  | .bezel => false

/-- Every L1 line of a core written back and invalidated (R198 step 1). -/
def flushL1 (s : State) (c : Nat) : State :=
  let s := (s.flushUntracked c fun _ => true).dropUntracked c fun _ => true
  let d := dieOf c
  let s := (s.core c).lines.foldl (fun s (l, st, _) =>
    let x := s.l2Line d l
    s.setL2 d l { x with
      state := if st == .m && x.state == .e then .m else x.state, present := x.present.filter (· != c) }) s
  s.setCore c { s.core c with lines := [], marked := [] }

/-- A change of split (R198): L1 out, every byte of the scratchpad zero, the new split in force. -/
def resplit (s : State) (c sp : Nat) : State :=
  let s := (s.flushL1 c).wipe (localCell c 0) (sramKib c * 1024)
  s.setCore c { s.core c with sp := sp }

/-- A value of GSPILL that R116 accepts, for a scratchpad of so many bytes. -/
def gspillLegal (x : Word) (room : Nat) : Bool :=
  bits x 7 0 != 0 && bits x 15 8 != 0 && bits x 21 16 == 0 && decide (bits x 34 16 + 64 * bits x 7 0 ≤ room)

/-- Whether a register takes a value: the check of stage S1, before that of the mode (R109, R111, R116, R370). -/
def sysValueOk (s : State) (n : Nat) (x : Word) : Bool :=
  match n with
  | 1 => Record.memdefValid (x &&& 0x3FF)
  | 7 => spLegal s.cur.1 (bits x 15 0)
  | 21 => gspillLegal x (s.scratchBytes s.cur.1)
  | _ => true

/-- SWR of a register that takes the value (R107 to R116). -/
def writeSys (s : State) (n : Nat) (x : Word) : Res State :=
  match n with
  | 1 => do
    let y := x &&& 0x3FF
    ensure (s.slot.mode || bits y 7 6 != 3) .illPriv
    s.needIdleSequencer
    pure (s.setU { s.u with memdef := y })
  | 2 => do
    s.needIdleSequencer
    pure (s.setU { s.u with fpctl := x &&& fpctlMask })
  | 5 => .ok (s.setU { s.u with wsp := x })
  | 6 => .ok (s.setU { s.u with rpc := x &&& ~~~3 })
  | 7 => .ok (s.resplit s.cur.1 (bits x 15 0))
  | 16 => .ok (s.setMe { s.me with tvec := x &&& 0xFFFFD })
  | 17 => .ok (s.setSlot { s.slot with epc := x &&& ~~~3 })
  | 18 => .ok (s.setSlot { s.slot with ecause := x &&& 0xFFFFFFFFFFFF077F })
  | 19 => .ok (s.setSlot { s.slot with eaddr := x })
  | 20 => .ok (s.setSlot { s.slot with eprog := bits x 15 0 })
  | 21 => .ok (s.setMe { s.me with gspill := x &&& 0x7FFFFFFFF })
  | _ => .ok s

/-! ### Waits on arrivals (R129) -/

/-- The arrivals of a queue that no handler is bound to (R25). -/
def unbound (x : Core) (q : Nat) : List Msg := (x.aq[q]?.getD []).filter fun m => !bound x q m

/-- Whether some arrival queue of a mask holds an unbound arrival. -/
def someUnbound (s : State) (c mask : Nat) : Bool :=
  (List.range 4).any fun q => mask / 2 ^ q % 2 == 1 && !(unbound (s.core c) q).isEmpty

/-- Whether the unit of a slot's strand has been cancelled, so that its wait ends (R129, R347, R349, R360). -/
def cancelledAt (s : State) (c i : Nat) : Bool := (s.slotAt c i).latched.any fun l => l.cause == .cancel

/-- The same of the strand whose word executes. -/
def unitCancelled (s : State) : Bool := s.cancelledAt s.cur.1 s.cur.2

/-- A strand whose sequencer runs waits for it before it ends (R292). -/
def awaitSequencer (s : State) : Res Unit := if s.u.rep.active && decide (s.u.rep.iteration < s.u.rep.count) then waitFor .repetition else .ok ()

/-- Whether a data stage in progress may use a translation that a shootdown of a kind removes (R174, R211). -/
def stageUses (s : State) (kind asn : Nat) : Bool :=
  s.cores.any fun (_, x) => x.stages.any fun t => s.shootConcerns kind asn t.job

/-- Whether an access that has yet to be performed may use a translation that a shootdown of a kind removed (R211, R253): a data stage, the
barrier word of a walk, a command of the Bezel's engines, or a store that a lockstep pair holds. -/
def translationUsed (s : State) (kind asn : Nat) : Bool :=
  s.stageUses kind asn || (s.cores.any fun (_, k) => k.walks.any fun w => s.shootConcerns kind asn w.job) ||
  !s.bezel.hashCmds.isEmpty || !s.bezel.signCmds.isEmpty ||
  s.occupied.any fun (c, i) => s.shootConcerns kind asn (s.strandAt c i).job && (s.slotAt c i).pair.any fun p =>
    p.held.any fun e => match e with
      | .store g _ => isPhysical g.key
      | .untracked _ _ _ => true
      | .walk _ _ => true
      | _ => false

end State

/-- SRD. -/
def execSrd (d : Reg) (n : BitVec 11) (s : State) : Out :=
  s.plain fun s => do
    ensure (State.sysReadable s.slot.mode n.toNat) .illPriv
    let x := s.readSys n.toNat
    let s := if n = 11 then s.seePhase x else s
    pure (s.setReg d x).retire

/-- SWR. -/
def execSwr (a : Reg) (n : BitVec 11) (s : State) : Out :=
  s.plain fun s => do
    ensure (s.sysValueOk n.toNat (s.reg a)) .illFunction
    ensure (State.sysWritable s.slot.mode n.toNat) .illPriv
    let t ← s.writeSys n.toNat (s.reg a)
    pure t.retire

/-- TRAP: TRAP_CALL with its code, precise at the word itself (R127). -/
def execTrap (c : BitVec 11) (s : State) : Out := s.plain fun _ => raiseAt .trapCall c.toNat 0

/-- BRK: BREAK with its code (R127). -/
def execBrk (c : BitVec 11) (s : State) : Out := s.plain fun _ => raiseAt .breakpoint c.toNat 0

/-- WFM (R129). -/
def execWfm (m : BitVec 4) (s : State) : Out :=
  s.plainWhere (m != 0) fun s => do
    s.needResident
    if s.someUnbound s.cur.1 m.toNat || s.unitCancelled then pure s.retire else waitFor (.message m.toNat)

/-- EXIT: the resident strand ends (R130, R163, R292). -/
def execExit (s : State) : Out :=
  s.plain fun s => do
    s.needResident
    s.awaitSequencer
    let c := s.cur.1
    let i := s.cur.2
    pure (((s.commit c i).count c 1 1).endStrand c i false)

/-- TLBINV (R132, R210, R211): the translations go; it retires once no access that uses one of them is left to perform. The stores that the
strand's own pair holds are performed first. -/
def execTlbinv (a : Reg) (k : BitVec 11) (s : State) : Out :=
  s.plain fun s => do
    s.needSupervisor
    let s ← s.performHeld
    let asn := (s.ctxOf s.u.job).asn
    let page := bits (s.reg a) 47 12
    let t := s.shoot k.toNat asn page
    if t.translationUsed k.toNat asn then
      let i := t.nextId
      let r : Shootdown := { kind := k.toNat, asn := asn, page := page, host := none }
      .error (.wait (.shootdown i) (some { t with nextId := i + 1, shootdowns := AMap.set t.shootdowns i r }))
    else pure t.retire

/-! ### Hints (R33, R89) -/

namespace State

/-- The other slots of the cluster that an HALIGN waits for: they run a strand of the same launch and are neither halted nor waiting
on anything but the same HALIGN (R33). -/
def alignPeers (s : State) : List (Nat × Nat) :=
  let c := s.cur.1
  match s.kind, s.u.launch with
  | .score, some l =>
    s.occupied.filter fun (k, i) =>
      k != c && istoreUnit k == istoreUnit c && (s.strandAt k i).launch == some l &&
      (match (s.slotAt k i).status with
       | .ready => true | .waiting (.align a) => a == s.pc | _ => false)
  | _, _ => []

/-- Whether a slot stands at an HALIGN of an address. -/
def atAlign (s : State) (pc : Word) (k i : Nat) : Bool := (s.slotAt k i).status == .waiting (.align pc)

end State

/-- HALIGN: stalls the core until its cluster's cores of the launch stand at the same HALIGN (R33). -/
def execHalign (_r : Reg) (_i : BitVec 16) (s : State) : Out :=
  s.plain fun s =>
    let pc := s.pc
    let peers := s.alignPeers
    if peers.all fun (k, i) => s.atAlign pc k i then
      .ok ((peers.foldl (fun s (k, i) => s.as k i State.retire) s).retire)
    else waitFor (.align pc)

/-- HPREF: the line at wa + SEXT(off) starts into the L1 where a cached translation serves it; it never walks or faults. -/
def execHpref (a : Reg) (i : BitVec 16) (s : State) : Out :=
  s.plain fun s =>
    let va := s.reg a + sext 16 i.toNat
    let q : Request := { ctx := s.ctxOf s.u.job, core := s.cur.1, slot := s.cur.2, user := !s.slot.mode, reads := true, writes := false }
    match s.cachedLeaf q va with
    | some t =>
      let line := lineOf (leafAddress t.leaf va t.level)
      let slot := entrySlot t.leaf
      if bits s.u.memdef 7 6 ≠ 0 then .ok s.retire
      else if bit t.leaf 8 then .ok (s.untrackedPiece s.cur.1 line slot 0 0 128).2.retire
      else .ok (s.touch s.cur.1 line false slot).retire
    | none => .ok s.retire

/-- HEVICT: the line at wa + SEXT(off), where a cached translation names it and the L1 has it, is marked as the next to replace. In a space
other than GLOBAL there is no line to mark (DESIGN CHOICE: R89 names MEMDEF's space for HPREF alone; log 61). -/
def execHevict (a : Reg) (i : BitVec 16) (s : State) : Out :=
  s.plain fun s =>
    let va := s.reg a + sext 16 i.toNat
    let q : Request := { ctx := s.ctxOf s.u.job, core := s.cur.1, slot := s.cur.2, user := !s.slot.mode, reads := true, writes := false }
    match s.cachedLeaf q va with
    | some t => .ok (if bits s.u.memdef 7 6 ≠ 0 then s else s.markLine s.cur.1 (lineOf (leafAddress t.leaf va t.level))).retire
    | none => .ok s.retire

/-- HPRIO: consecutive issue turns of the strand. -/
def execHprio (_r : Reg) (i : BitVec 16) (s : State) : Out :=
  s.plain fun s => .ok (if i.toNat ≤ 3 then s.setU { s.u with hprio := i.toNat } else s).retire

/-- HLIKELY: static prediction. -/
def execHlikely (_r : Reg) (_i : BitVec 16) (s : State) : Out := s.plain fun s => .ok s.retire

end Sys2Proof.Machine
end

