-- ==== Sys2Proof/Machine/Access.lean ====
section
/-!
DEFINITION. One memory access of a strand: attributes (R221, R224), the checks of R225 from alignment to key, the four spaces
(R194 to R197, R327, R386), and reading and writing what it resolves to (R163, R200, R227, R372, R411).
-/

namespace Sys2Proof.Machine

/-- The resolved attributes (R221), with the USE bits that say which came from MOD. -/
structure Attr where
  cls : Nat
  scope : Nat
  space : Nat
  policy : Nat
  use : Nat

/-- The rows of R224. -/
inductive AccessKind where
  | load | store | vload | vstore | atomic | waita | walk
  deriving DecidableEq, Repr

/-- An access as translation and R208 see it. -/
structure Access where
  attr : Attr
  reads : Bool
  writes : Bool
  atomic : Bool := false

namespace Access

/-- ECAUSE.INFO of a cause that no walk raises (R208). -/
def info (x : Access) : Nat := (if x.writes then 1 else 0) + if x.atomic then 2 else 0

end Access

/-- The classes that a row permits: 0 RLX, 1 ACQ, 2 REL, 3 AR, 4 SC. -/
def classPermitted : AccessKind → Nat → Bool
  | .load, c => c == 0 || c == 1 || c == 4
  | .store, c => c == 0 || c == 2 || c == 4
  | .vload, c => c == 0 || c == 1
  | .vstore, c => c == 0 || c == 2
  | .atomic, _ => true
  | .waita, c => c == 0 || c == 1 || c == 4
  | .walk, _ => true

/-- The spaces that a row permits. -/
def spacePermitted : AccessKind → Nat → Bool
  | .load, _ => true
  | .store, _ => true
  | .waita, p => p == 0 || p == 1
  | .walk, p => p == 0
  | _, p => p != 3

namespace State

/-- The attributes of a memory instruction that ignores the MOD fields of a mask: a USE bit for one is ILL_PREFIX (R221). -/
def attrs (s : State) (ignored : Nat) : Res Attr :=
  let d := s.u.memdef
  match s.slot.pre.bind (·.mod) with
  | none => .ok { cls := bits d 2 0, scope := bits d 5 3, space := bits d 7 6, policy := bits d 9 8, use := 0 }
  | some (c, sc, sp, p, u) =>
    if u.toNat &&& ignored ≠ 0 then raise .illPrefix
    else .ok {
      cls := if u.getLsbD 0 then c.toNat else bits d 2 0
      scope := if u.getLsbD 1 then sc.toNat else bits d 5 3
      space := if u.getLsbD 2 then sp.toNat else bits d 7 6
      policy := if u.getLsbD 3 then p.toNat else bits d 9 8
      use := u.toNat }

/-- MEM_ATTR with its code and whether the field came from MOD (R224). -/
def memAttr (a : Attr) (code field : Nat) : Res Unit :=
  raiseAt .memAttr (code + if a.use / 2 ^ field % 2 = 1 then 16 else 0) 0

/-- The attribute checks of R224 for a row: class, then scope, then space. ISTORE where a row has none reports the access's first
byte (R194). -/
def attrCheck (k : AccessKind) (x : Access) (va : Word) : Res Unit :=
  let a := x.attr
  if !classPermitted k a.cls then memAttr a 1 0
  else if a.scope = 5 ∧ (a.space ≠ 0 ∨ k = .walk) then memAttr a 2 1
  else if a.space = 3 ∧ ¬ spacePermitted k 3 then raiseAt .istoreRange x.info va
  else if !spacePermitted k a.space then memAttr a 3 2
  else .ok ()

/-- ISTORE in user mode (R225 check 2). -/
def istorePrivilege (s : State) (a : Attr) : Res Unit := ensure (a.space != 3 || s.slot.mode) .illPriv

/-- MISALIGNED unless the address is a multiple of `n` (R226). -/
def aligned (x : Access) (a : Word) (n step : Nat) : Res Unit :=
  if a.toNat % n = 0 then .ok () else .error (.trap .misaligned x.info a step none)

/-! ### Ranges (R194) -/

/-- The scratchpad base and size that LOCAL of a strand on a core has: the whole, or a window after a resume (R386). -/
def localWindow (s : State) (c : Nat) (u : Strand) : Nat × Nat :=
  match u.window with | some w => w | none => (0, s.scratchBytes c)

/-- The scratchpad that PEER of a logical core reaches, its first cell and its size: that of the strand's core, or a core that the launch
has now; the saved share of one that has passed to another job; none where nothing of the job is left there (R199, R376, R386). -/
def peerArea (s : State) (job home : Option Nat) (lc : Nat) : Option (Nat × Nat) := do
  let l ← s.launch? home
  let c ← l.cores[lc]?
  match home.bind fun n => s.findStrand n lc with
  | some (k, i) =>
    let w := s.localWindow k (s.strandAt k i)
    some (localCell k w.1, w.2)
  | none =>
    if (s.core c).job == job then
      let w := (s.launchWindow home lc).getD (0, s.scratchBytes c)
      some (localCell c w.1, w.2)
    else
      let q ← job
      let h ← (AMap.get? s.jobs q).bind fun j => AMap.get? j.shares c
      let w := (s.launchWindow home lc).getD (0, h.sp * 1024)
      some (savedCell q c w.1, w.2)

/-- Whether a LOCAL byte is open to the strand: a handler activation reaches its keep regions only (R327). -/
def keepOpen (s : State) (off : Nat) : Bool :=
  s.u.kind != .handler || s.slot.mode || s.u.keeps.any fun (b, n) => decide (b ≤ off) && decide (off < b + n)

/-- The first of `n` bytes from `off` that fails a test. -/
def firstBad (ok : Nat → Bool) (off : Nat) : Nat → Option Nat
  | 0 => none
  | n + 1 => if ok off then firstBad ok (off + 1) n else some off

/-- A run of SRAM bytes. -/
def sramRun (key n : Nat) : List Segment := [{ key := key, length := n }]

/-- The cells that an SRAM access names, or its range cause with the first failing byte (R194 to R197). -/
def sramCells (s : State) (x : Access) (a : Word) (n : Nat) : Except (Cause × Word) (List Segment) :=
  match x.attr.space with
  | 1 =>
    let (base, size) := s.localWindow s.cur.1 s.u
    if bits a 63 24 ≠ 0 then .error (.localRange, a)
    else match firstBad (fun o => decide (o < size) && s.keepOpen o) a.toNat n with
      | some o => .error (.localRange, BitVec.ofNat 64 o)
      | none => .ok (sramRun (localCell s.cur.1 (base + a.toNat)) n)
  | 2 =>
    let lc := bits a 34 24
    let off := bits a 23 0
    match s.peerArea s.u.job s.u.home lc with
    | none => .error (.peerRange, a)
    | some (base, size) =>
      if bits a 63 35 ≠ 0 ∨ s.u.lcount ≤ lc then .error (.peerRange, a)
      else match firstBad (fun o => decide (o < size)) off n with
        | some o => .error (.peerRange, BitVec.ofNat 64 (lc * 2 ^ 24 + o))
        | none => .ok (sramRun (base + off) n)
  | _ =>
    let off := bits a 16 0
    let c := bits a 27 17
    if bits a 63 30 ≠ 0 then .error (.istoreRange, a)
    else if bit a 28 then
      let small := bit a 29
      if c ≠ 0 ∨ x.reads ∨ off + n > (if small then 131072 else 65536) then .error (.istoreRange, a)
      else .ok ((List.range (if small then 64 else 128)).map fun k =>
        { key := istoreCell (if small then 128 + k else k) off, length := n })
    else match coreKind? c with
      | none => .error (.istoreRange, a)
      | some .bezel => .error (.istoreRange, a)
      | some _ => if off + n > istoreSize c then .error (.istoreRange, a) else .ok (sramRun (istoreCell (istoreUnit c) off) n)

/-! ### Translation -/

/-- What a translation of the strand's access is charged to. -/
def requestFor (s : State) (x : Access) : Request :=
  { ctx := s.ctxOf s.u.job, core := s.cur.1, slot := s.cur.2, user := !s.slot.mode, reads := x.reads, writes := x.writes
    atomic := x.atomic, strand := true, spanAtomic := x.atomic && x.attr.scope == 5 }

/-- The debug watchpoint that an access meets (R371, R411). -/
def watchHit (s : State) (a : Word) (n : Nat) : Option Nat :=
  (List.range s.me.watch.length).find? fun i => decide (((s.me.watch.getD i 0) - a).toNat < n)

/-- The progress of an instruction that waits. EPROG of supervisor code that has made none is left as the served strand has it (R115). -/
def noteStep (t : State) (step : Nat) : State := if t.slot.mode && step = 0 then t else t.setSlot { t.slot with eprog := step }

/-- A miss as the trap or the wait that it makes, at a step; INFO as R208 has it, and of BUS_ERROR as R371 has it: [0] a store. -/
def missStop (q : Request) (m : Miss) (va : Word) (step : Nat) (t : State) : Stop :=
  match m with
  | .span _ w =>
    let t := if q.spanAtomic then t else t.askPage (pageOf va 3) w
    .wait (.span va w) (some (t.noteStep step))
  | .line l => .wait (.line l) (some (t.noteStep step))
  | .fault .busError _ _ _ => .trap .busError (if q.writes then 1 else 0) va step (some t)
  | .fault c l r k => .trap c ((Miss.fault c l r k).info q) va step (some t)

/-- The range check, translation and watchpoints of an access of `n` bytes (R225 checks 7 to 9): its segments. An access whose last byte lies
beyond 2^64 has its first failing byte at address 0 (DESIGN CHOICE: R194 does not speak of it; log 61). -/
def resolve (s : State) (x : Access) (a : Word) (n step : Nat) : Res (List Segment × State) :=
  if n = 0 then .ok ([], s)
  else if x.attr.space = 0 then
    let last := a + BitVec.ofNat 64 (n - 1)
    let q := s.requestFor x
    if !canonical a then .error (.trap .pfAddress x.info a step none)
    else if !canonical last || bit a 63 != bit last 63 then
      .error (.trap .pfAddress x.info (if bit a 63 then 0 else 0x800000000000) step none)
    else match translateRange q (n / 4096 + 2) n a s with
      | (.error (m, va), t) => .error (missStop q m va step t)
      | (.ok segs, t) => match t.watchHit a n with
        | some w => .error (.trap .watch w a step (some t))
        | none =>
          let segs := segs.map fun g => { g with policy := x.attr.policy }
          match t.lineStop t.cur.1 x.writes (x.atomic && decide (4 ≤ x.attr.scope)) segs with
          | some (l, k) => .error (missStop q (.line l) a step (if x.atomic && decide (4 ≤ x.attr.scope) then t.askAtomic t.cur.1 l
              else t.askHome t.cur.1 l (x.writes || x.atomic) k))
          | none => .ok (segs, t)
  else match s.sramCells x a n with
    | .error (c, e) => .error (.trap c x.info e step none)
    | .ok segs => .ok (segs, s)

/-- Walk commands of the core, with those that the strand's pair holds. -/
def walkCount (s : State) : Nat :=
  s.me.walks.length + match s.slot.pair with
    | some p => (p.held.filter fun e => match e with | .walk _ _ => true | _ => false).length
    | none => 0

/-- Whether any page of an access is untracked. -/
def untrackedRun (segs : List Segment) : Bool := segs.any (·.untracked)

/-- The UT check of R224: MEM_ATTR with code 4. -/
def refuseUntracked (segs : List Segment) (a : Word) (t : State) : Res Unit :=
  if untrackedRun segs then .error (.trap .memAttr 4 a 0 (some t)) else .ok ()

/-! ### Reading and writing -/

/-- A poisoned word or line that is read raises SRAM_UE again (R372). -/
def poisonRead (s : State) (c : Nat) (segs : List Segment) : State :=
  segs.foldl (fun s g =>
    if isPhysical g.key then
      (linesIn g.key g.length).foldl (fun s l =>
        if (s.core c).poison.contains (l * 128) then
          s.latchCore c { cause := .sramUe, eaddr := BitVec.ofNat 64 (l * 128), info := 1 }
        else if (s.l2Line (dieOf c) l).poison then
          s.latchCore c { cause := .sramUe, eaddr := BitVec.ofNat 64 (l * 128), info := 3 }
        else s) s
    else
      let k := (g.key - 2 ^ 64) / 2 ^ 40
      match (s.core k).poison.find? fun p => decide (p + 8 > g.key) && decide (p < g.key + g.length) with
      | some p => s.latchCore k { cause := .sramUe, eaddr := BitVec.ofNat 64 (p - localCell k 0), info := 0 }
      | none => s) s

/-- The bytes of an access as its strand reads them, its pair's held stores laid over memory (R163). -/
def readAccess (s : State) (segs : List Segment) : List Byte × State :=
  let s := s.poisonRead s.cur.1 segs
  if s.slot.pair.isSome then ((s.withHeldStores.readSegments s.cur.1 segs).1, (s.readSegments s.cur.1 segs).2)
  else s.readSegments s.cur.1 segs

/-- The effects of a store, one to each segment; flooded segments each take all the bytes. -/
def storeEffects (c : Nat) (flood : Bool) : List Segment → List Byte → List Effect
  | [], _ => []
  | g :: gs, bs =>
    let part := bs.take g.length
    (if isPhysical g.key && g.untracked then .untracked c g part else .store g part) ::
      storeEffects c flood gs (if flood then bs else bs.drop g.length)

/-- Effects emitted in order. -/
def emitEach (s : State) : List Effect → Res State
  | [] => .ok s
  | e :: es => do
    let s ← s.emit e
    emitEach s es

/-- The effects of one instruction: a pair's buffer without room for all of them commits first (R163, R167). -/
def emitAll (s : State) (es : List Effect) : Res State := do
  let s ← match s.slot.pair with
    | some p => if p.held.length + es.length > 64 && !p.held.isEmpty then s.commitFull else pure s
    | none => pure s
  s.emitEach es

/-- Whether the host answers a store to these segments with an error (R200). -/
def storeError (s : State) (segs : List Segment) : Bool := segs.any fun g =>
  isPhysical g.key && (s.errorAt s.cur.1 g.key g.length g.untracked true (g.policy == 1)).isSome

/-- Whether two runs of physical bytes meet. -/
def meets (g h : Segment) : Bool := decide (g.key < h.key + h.length) && decide (h.key < g.key + g.length)

/-- A store to bytes that a data stage of the strand has yet to read waits for it (R174). -/
def stageGuard (s : State) (segs : List Segment) : Res Unit :=
  if s.me.stages.any fun t => t.unit == s.u.unit && t.rows.any fun r => match r with
      | some (a, b) => (a ++ b).any fun g => segs.any (meets g)
      | none => false
  then waitFor (.matrix 0) else .ok ()

/-- A store of bytes to resolved segments. One that the host answers with an error is lost and raises BUS_ERROR for the strand
(R200). -/
def writeAccess (s : State) (flood : Bool) (a : Word) (segs : List Segment) (bs : List Byte) : Res State :=
  if s.storeError segs then .ok (s.latch s.cur.1 s.cur.2 { cause := .busError, eaddr := a, info := 1 })
  else do
    s.stageGuard segs
    s.emitAll (storeEffects s.cur.1 flood segs bs)

/-- Whether an access floods. -/
def floods (x : Access) (a : Word) : Bool := x.attr.space == 3 && bit a 28

/-- A load of `n` bytes after its own checks (R228). One of class SC comes after every earlier store of class SC. -/
def loadAccess (s : State) (x : Access) (a : Word) (n step : Nat) : Res (List Byte × State) := do
  let (segs, s) ← s.resolve x a n step
  let s ← if x.attr.cls = 4 then s.performHeld else pure s
  pure (s.readAccess segs)

/-- A store of bytes after its own checks. -/
def storeAccess (s : State) (x : Access) (a : Word) (bs : List Byte) (step : Nat) : Res State := do
  let (segs, s) ← s.resolve x a bs.length step
  s.writeAccess (floods x a) a segs bs

/-! ### Steps (R209) -/

/-- The instruction completes with no progress left (R231). -/
def finishSteps (s : State) : State := (s.setSlot { s.slot with eprog := 0 }).retire

/-- A stop of step `i` keeps the steps before it. -/
def keepSteps (t : State) (i : Nat) : Stop → Stop
  | .trap c info a n kept => .trap c info a n (some (kept.getD t))
  | .wait w kept =>
    .wait w (some ((kept.getD t).noteStep i))

end State

end Sys2Proof.Machine
end

