-- ==== Sys2Proof/Machine/Gust.lean ====
section
/-!
DEFINITION. Gusts: GUST and GSPAWN (R302 to R304).
-/

namespace Sys2Proof.Machine

/-- Whether a rule's range holds an address (R303, R334). -/
def ruleHolds (r : OwnerRule) (a : Word) : Bool :=
  canonical a && decide (r.base ≤ bits a 47 0) && decide (bits a 47 0 < r.base + r.length)

/-- The logical core that a rule gives an address. -/
def ruleCore (r : OwnerRule) (a : Word) : Nat := r.first + a.toNat / 2 ^ r.shift % r.count

/-- The header of a gust (R296). -/
def gustHeader (lcore : Nat) (pc : Word) (rule : Nat) : Word :=
  BitVec.ofNat 64 (255 + 56 * 2 ^ 8 + 3 * 2 ^ 14 + lcore % 2048 * 2 ^ 16 + bits pc 16 2 * 2 ^ 32 + rule % 16 * 2 ^ 48)

namespace State

/-- The owner of an address: rule, logical core and physical core, or GUST_OWNER (R303). -/
def ownerOf (s : State) (a : Word) : Res (Nat × OwnerRule × Nat × Nat) :=
  match (s.job?.map (·.owners)).getD [] |>.find? fun (_, r) => ruleHolds r a with
  | none => raiseAt .gustOwner 0 0
  | some (i, r) =>
    match s.launch? r.launch with
    | none => raiseAt .gustOwner 1 0
    | some l =>
      if s.kind ≠ (if l.smallCores then .score else .mcore) then raiseAt .gustOwner 1 0
      else .ok (i, r, ruleCore r a, l.cores.getD (ruleCore r a) 0)

/-- Gusts that count against the spawn limit of a core (R304). -/
def liveGusts (s : State) (c : Nat) : Nat :=
  ((List.range (slotCount c)).filter fun i =>
    (s.slotAt c i).status != .free && (s.strandAt c i).kind == .gust).length +
  ((s.core c).aq[3]?.getD []).length + (s.core c).ring.length

/-- A gust sent to its owner; the strand waits for the answer (R304). -/
def sendGust (s : State) (a : Word) (spawn : Bool) : Res State := do
  let (i, r, lc, c) ← s.ownerOf a
  if spawn && decide (bits s.me.gspill 15 8 ≤ s.liveGusts s.cur.1) then pure (s.setReg 8 2).retire
  else
    let s ← s.commitPoint true
    let m : Msg :=
      { header := gustHeader s.u.lcore (s.pc + 4) i
        payload := (List.range 7).map fun n => s.reg (BitVec.ofNat 5 (9 + n))
        launch := s.u.launch, job := s.u.job, home := r.launch.map fun l => (l, lc) }
    .error (.wait .answer (some { s with
      net := s.net ++ [{ core := c, queue := 3, msg := m, sender := some (s.cur.1, s.cur.2, spawn) }] }))

/-- The strand of an accepted GUST ends (R304). -/
def leave (s : State) : State := (s.commit s.cur.1 s.cur.2).count s.cur.1 1 1 |>.endStrand s.cur.1 s.cur.2 false

/-- The answer of the owner (R304): refused, the strand goes on with status 2; accepted, a GSPAWN goes on with status 0, and a GUST
ends, once a sequencer that runs is done (R292). -/
def answerGust (s : State) (accepted spawn : Bool) : State :=
  if !accepted then (s.setReg 8 2).retire
  else if spawn then (s.setReg 8 0).retire
  else if s.u.rep.active && decide (s.u.rep.iteration < s.u.rep.count) then
    s.setSlot { s.slot with status := .waiting .repetition, u := { s.u with leaving := true } }
  else s.leave

end State

/-- GUST. -/
def execGust (a : Reg) (s : State) : Out :=
  s.plain fun s => do
    if s.u.leaving then
      s.awaitSequencer
      pure s.leave
    else s.sendGust (s.reg a) false

/-- GSPAWN. -/
def execGspawn (a : Reg) (s : State) : Out := s.plain fun s => s.sendGust (s.reg a) true

end Sys2Proof.Machine
end

