-- ==== Sys2Proof/Machine/Sha.lean ====
section
/-!
DEFINITION. SHA-384, as FIPS 180-4 defines it (R321, R336 name it and do not give it; PRESUMED, log 22).
-/

namespace Sys2Proof.Sha384

/-- The four words of a row of the tables below, the first at the top. -/
def rowWords (row : Nat) : List Word := [3, 2, 1, 0].map fun i => BitVec.ofNat 64 (row >>> (64 * i))

/-- The first ten rows of round constants. -/
def rowsLow : List Nat := [
   0x428a2f98d728ae227137449123ef65cdb5c0fbcfec4d3b2fe9b5dba58189dbbc,
   0x3956c25bf348b53859f111f1b605d019923f82a4af194f9bab1c5ed5da6d8118,
   0xd807aa98a303024212835b0145706fbe243185be4ee4b28c550c7dc3d5ffb4e2,
   0x72be5d74f27b896f80deb1fe3b1696b19bdc06a725c71235c19bf174cf692694,
   0xe49b69c19ef14ad2efbe4786384f25e30fc19dc68b8cd5b5240ca1cc77ac9c65,
   0x2de92c6f592b02754a7484aa6ea6e4835cb0a9dcbd41fbd476f988da831153b5,
   0x983e5152ee66dfaba831c66d2db43210b00327c898fb213fbf597fc7beef0ee4,
   0xc6e00bf33da88fc2d5a79147930aa72506ca6351e003826f142929670a0e6e70,
   0x27b70a8546d22ffc2e1b21385c26c9264d2c6dfc5ac42aed53380d139d95b3df,
   0x650a73548baf63de766a0abb3c77b2a881c2c92e47edaee692722c851482353b]

/-- The last ten rows of round constants. -/
def rowsHigh : List Nat := [
   0xa2bfe8a14cf10364a81a664bbc423001c24b8b70d0f89791c76c51a30654be30,
   0xd192e819d6ef5218d69906245565a910f40e35855771202a106aa07032bbd1b8,
   0x19a4c116b8d2d0c81e376c085141ab532748774cdf8eeb9934b0bcb5e19b48a8,
   0x391c0cb3c5c95a634ed8aa4ae3418acb5b9cca4f7763e373682e6ff3d6b2b8a3,
   0x748f82ee5defb2fc78a5636f43172f6084c87814a1f0ab728cc702081a6439ec,
   0x90befffa23631e28a4506cebde82bde9bef9a3f7b2c67915c67178f2e372532b,
   0xca273eceea26619cd186b8c721c0c207eada7dd6cde0eb1ef57d4f7fee6ed178,
   0x06f067aa72176fba0a637dc5a2c898a6113f9804bef90dae1b710b35131c471b,
   0x28db77f523047d8432caab7b40c724933c9ebe0a15c9bebc431d67c49c100d4c,
   0x4cc5d4becb3e42b6597f299cfc657e2a5fcb6fab3ad6faec6c44198c4a475817]

/-- The round constants, one to a round. -/
def constants : List Word := (rowsLow ++ rowsHigh).flatMap rowWords

/-- The chaining value before the first block. -/
def start : List Word := rowWords 0xcbbb9d5dc1059ed8629a292a367cd5079159015a3070dd17152fecd8f70e5939 ++ rowWords
  0x67332667ffc00b318eb44a8768581511db0c2e0d64f98fa747b5481dbefa4fa4

/-- The sum without carries of a word turned right by each of some amounts. -/
def turned (amounts : List Nat) (x : Word) : Word := amounts.foldl (fun y n => y ^^^ x.rotateRight n) 0

/-- The word that enters the schedule behind a window of sixteen, oldest first. -/
def entering (window : List Word) : Word :=
  let at0 := fun i => window.getD i 0
  let early := turned [1, 8] (at0 1) ^^^ at0 1 >>> 7
  let late := turned [19, 61] (at0 14) ^^^ at0 14 >>> 6
  at0 0 + early + at0 9 + late

/-- The two tapes of a compression: each round puts one word on top of each, and reads the top four. -/
structure Tapes where
  left : List Word
  right : List Word
  deriving DecidableEq, Repr

/-- A round with its constant and its word of the schedule. -/
def turn (t : Tapes) (constant word : Word) : Tapes :=
  let l := fun i => t.left.getD i 0
  let r := fun i => t.right.getD i 0
  let chosen := r 2 ^^^ (r 0 &&& (r 1 ^^^ r 2))
  let common := (l 0 &&& l 1) ||| (l 2 &&& (l 0 ||| l 1))
  let fresh := r 3 + chosen + turned [14, 18, 41] (r 0) + word + constant
  { left := (fresh + common + turned [28, 34, 39] (l 0)) :: t.left.take 3, right := (fresh + l 3) :: t.right.take 3 }

/-- The rounds of a list of constants, the schedule's window sliding on with each. -/
def turns : List Word → List Word → Tapes → Tapes
  | [], _, t => t
  | k :: ks, window, t => turns ks (window.drop 1 ++ [entering window]) (turn t k (window.headD 0))

/-- Bytes read as one number, the first at the top. -/
def topFirst (bs : List Byte) : Nat := bs.foldl (fun n b => n * 256 + b.toNat) 0

/-- A number of `n` bytes, the top one first. -/
def bytesDown (n x : Nat) : List Byte := (List.range n).reverse.map fun i => BitVec.ofNat 8 (x >>> (8 * i))

/-- The chaining value after one block more. -/
def absorb (chain : List Word) (block : List Byte) : List Word :=
  let window := (List.range 16).map fun i => BitVec.ofNat 64 (topFirst ((block.drop (8 * i)).take 8))
  let t := turns constants window { left := chain.take 4, right := chain.drop 4 }
  List.zipWith (· + ·) chain (t.left ++ t.right)

/-- The chaining value after the first `n` blocks of a message. -/
def absorbAll (message : List Byte) : (n : Nat) → List Word
  | 0 => start
  | n + 1 => absorb (absorbAll message n) ((message.drop (128 * n)).take 128)

/-- A message filled up to whole blocks: a one bit, zeros, and its length in bits in the last 16 bytes. -/
def filled (bs : List Byte) : List Byte :=
  bs ++ [0x80] ++ List.replicate ((239 - bs.length % 128) % 128) 0 ++ bytesDown 16 (8 * bs.length)

/-- The 48-byte digest of a message. -/
def digest (bs : List Byte) : List Byte :=
  ((absorbAll (filled bs) (bs.length / 128 + if bs.length % 128 < 112 then 1 else 2)).take 6).flatMap fun x => bytesDown 8 x.toNat

end Sys2Proof.Sha384
end

