-- ==== Sys2Proof/Machine/Pss.lean ====
section
/-!
DEFINITION. RSA-3072 PSS with SHA-384, MGF1 with SHA-384 and a 48-byte salt (R321, R406), in the layout of RFC 8017 (PRESUMED, log 22). The
part's RSA key is a free value: a modulus of 3,072 bits, and a permutation of the numbers below it with its inverse (log 9).
-/

namespace Sys2Proof.Machine.Pss

/-- The modulus: its top bit is set. -/
def modulus : Nat := 2 ^ 3071 + Config.rsaModulus.toNat

/-- Two numbers exchanged. -/
def exchange (x : Nat) (p : Nat × Nat) : Nat := if x = p.1 then p.2 else if x = p.2 then p.1 else x

/-- The key as exchanges of numbers below the modulus. -/
def key : List (Nat × Nat) := Config.rsaExchanges.filter fun p => decide (p.1 < modulus) && decide (p.2 < modulus)

/-- The operation of the signing key, and that of the public key, its inverse. -/
def signing (x : Nat) : Nat := key.foldl exchange x
/-- The operation of the public key. -/
def opening (x : Nat) : Nat := key.reverse.foldl exchange x

/-- The mask of `n` bytes that a seed generates. -/
def mask (seed : List (BitVec 8)) (n : Nat) : List (BitVec 8) :=
  ((List.range ((n + 47) / 48)).flatMap fun i => Sha384.digest (seed ++ Sha384.bytesDown 4 i)).take n

/-- The 384-byte block that is signed for a message under a salt: masked data, the salted hash, and the trailer. -/
def block (message salt : List (BitVec 8)) : List (BitVec 8) :=
  let hash := Sha384.digest (List.replicate 8 0 ++ Sha384.digest message ++ salt)
  let data := (List.replicate 286 0 ++ [1] ++ salt).zipWith (· ^^^ ·) (mask hash 335)
  [data.headD 0 &&& 0x7F] ++ data.drop 1 ++ hash ++ [0xBC]

/-- The salt that a block hides. -/
def saltOf (b : List (BitVec 8)) : List (BitVec 8) :=
  ((b.take 335).zipWith (· ^^^ ·) (mask ((b.drop 335).take 48) 335)).drop 287

/-- The signature of a message under a salt, 384 bytes. -/
def sign (message salt : List (BitVec 8)) : List (BitVec 8) := Sha384.bytesDown 384 (signing (Sha384.topFirst (block message salt)))

/-- Whether a signature is valid for a message: the block that it opens to is that of the message under the salt found in it. -/
def valid (message signature : List (BitVec 8)) : Bool :=
  let x := Sha384.topFirst signature
  let b := Sha384.bytesDown 384 (opening x)
  decide (x < modulus) && decide (opening x < 2 ^ 3072) && b == block message (saltOf b)

end Sys2Proof.Machine.Pss
end

