-- ==== Sys2Proof/Machine/Bezel.lean ====
section
/-!
DEFINITION. The Bezel's engines and measurement registers: HASHC, SIGNC, RNDG (R321) and MEXT (R336), and the memory operands of
the table instructions (R325).
-/

namespace Sys2Proof.Machine

namespace State

/-! ### Memory operands in the space of MEMDEF (R325) -/

/-- An access through MEMDEF alone. -/
def plainAccess (s : State) (writes : Bool) : Access :=
  let d := s.u.memdef
  { attr := { cls := bits d 2 0, scope := bits d 5 3, space := bits d 7 6, policy := bits d 9 8, use := 0 }
    reads := !writes, writes }

/-- SPACE must be GLOBAL or LOCAL (R325). -/
def operandSpace (s : State) : Res Unit := if bits s.u.memdef 7 6 ≤ 1 then .ok () else memAttr (s.plainAccess false).attr 3 2

/-- The bytes of a memory operand, read whole before any table changes. -/
def readOperand (s : State) (a : Word) (n : Nat) : Res (List Byte × State) := do
  s.operandSpace
  s.loadAccess (s.plainAccess false) a n 0

/-- TABLE_ARG for a word of the block, or 15 for another operand, and the low bit of its field (R325). -/
def tableArg (ok : Bool) (word low : Nat) : Res Unit := if ok then .ok () else raiseAt .tableArg (word + 16 * low) 0

/-- The Bezel's own part changed. -/
def withBezel (s : State) (f : Bezel → Bezel) : State := { s with bezel := f s.bezel }

end State

/-- HASHC (R321): a command for the hash engine, with the next ticket of HASH. -/
def execHashc (d a b : Reg) (m : BitVec 2) (s : State) : Out :=
  s.plainWhere (s.kind == .bezel) fun s => do
    let z := s.bezel
    let len := s.reg b
    let mode := m.toNat
    ensure (bits len 63 32 == 0 && (z.hashOpen == decide (2 ≤ mode))) .engineArg
    s.operandSpace
    let finishing := decide (mode = 0 ∨ mode = 3)
    let (input, s) ← s.resolve (s.plainAccess false) (s.block a 0) len.toNat 0
    let (output, s) ← s.resolve (s.plainAccess true) (s.block a 1) (if finishing then 48 else 0) 0
    let ticket := z.hashIssued + 1
    let cmd : HashCmd := { mode, input, output, unit := s.u.unit }
    let s := s.withBezel fun z => { z with hashIssued := ticket, hashOpen := !finishing, hashCmds := z.hashCmds ++ [cmd] }
    pure ((s.engineIssued s.u.unit).setReg d ticket).retire

/-- Bytes of a signature for an operation (R321). -/
def signatureBytes (op : Nat) : Nat := if op < 2 then 384 else 7856

/-- SIGNC (R321): a command for the signature engine, with the next ticket of SIGN. Its block is read, and its ranges translated,
at issue. -/
def execSignc (d a : Reg) (o : BitVec 2) (s : State) : Out :=
  s.plainWhere (s.kind == .bezel) fun s => do
    s.operandSpace
    let at0 := s.reg a
    let op := o.toNat
    let (bs, s) ← s.loadAccess (s.plainAccess false) at0 40 0
    let field (n : Nat) : Word := leWord ((bs.drop n).take 8)
    let (message, s) ← s.resolve (s.plainAccess false) (field 0) (field 8).toNat 0
    let (signature, s) ← s.resolve (s.plainAccess (op % 2 == 0)) (field 16) (signatureBytes op) 0
    let (result, s) ← s.resolve (s.plainAccess true) (at0 + 32) 8 0
    let ticket := s.bezel.signIssued + 1
    let cmd : SignCmd := { op, key := bits (field 24) 7 0, message, signature, result, unit := s.u.unit }
    let s := s.withBezel fun z => { z with signIssued := ticket, signCmds := z.signCmds ++ [cmd] }
    pure ((s.engineIssued s.u.unit).setReg d ticket).retire

/-- RNDG (R321): 64 bits of the random source, a free value (log 8). -/
def execRndg (d : Reg) (s : State) : Out :=
  s.plainWhere (s.kind == .bezel) fun s => do
    let (x, s) := s.draw
    pure (s.setReg d x).retire

/-- MEXT (R336): an extend, or a read, of a measurement register. -/
def execMext (a b : Reg) (x : BitVec 1) (n : BitVec 3) (s : State) : Out :=
  s.plainWhere (s.kind == .bezel) fun s => do
    s.needSupervisor
    let k := n.toNat
    let meas := s.bezel.meas[k]?.getD []
    if x = 1 then
      let len := s.reg b
      State.tableArg (bits len 63 32 == 0) 15 0
      let (bs, s) ← s.readOperand (s.reg a) len.toNat
      State.tableArg (!(s.bezel.locked && decide (k ≤ 3))) 15 0
      pure (s.withBezel fun z => { z with meas := z.meas.setIfInBounds k (Sha384.digest (meas ++ bs)) }).retire
    else do
      s.operandSpace
      let s ← s.storeAccess (s.plainAccess true) (s.reg a) meas 0
      pure s.retire

/-! ### The engines' completions (R321) -/

namespace State

/-- Bytes laid over segments: the writes of a Bezel engine. -/
def engineWrite (s : State) (segs : List Segment) (bs : List Byte) : State := s.engineLay 1023 segs bs

/-- The oldest command of the hash engine completes: its bytes are absorbed, and the digest of the message written at its finish. -/
def completeHash (s : State) : State :=
  match s.bezel.hashCmds with
  | [] => s
  | h :: rest =>
    let (bs, s) := s.readSegments 1023 h.input
    let data := (if h.mode ≤ 1 then [] else s.bezel.hashData) ++ bs
    let finishing := decide (h.mode = 0 ∨ h.mode = 3)
    let s := if finishing then s.engineWrite h.output (Sha384.digest data) else s
    let s := s.withBezel fun z => { z with
      hashCmds := rest, hashReached := z.hashReached + 1, hashData := if finishing then [] else data }
    s.engineDone h.unit

/-- Whether a key identifier holds a key of the operation's algorithm (R321, R443): 1 the RSA-3072 key, 2 the SLH-DSA key. -/
def keyPresent (op key : Nat) : Bool := key == op / 2 + 1

/-- A signature by a key over a message: RSA-3072 PSS with a salt of 48 bytes drawn, or SLH-DSA, a free value (R321; log 9). -/
def makeSignature (s : State) (key : Nat) (m : List Byte) : List Byte × State :=
  if key = 1 then
    (Pss.sign m ((List.range 6).flatMap fun i => leBytes 8 (Config.random (s.drawn + i)).toNat), { s with drawn := s.drawn + 6 })
  else ((Config.sign key m s.drawn 7856 ++ List.replicate 7856 0).take 7856, { s with drawn := s.drawn + 1 })

/-- The verdict on a signature: an SLH-DSA signature that the part has made is valid. -/
def checkSignature (s : State) (key : Nat) (m sig : List Byte) : Bool :=
  if key = 1 then Pss.valid m sig
  else Config.verify key m sig ||
    (List.range s.drawn).any fun d => (Config.sign key m d 7856 ++ List.replicate 7856 0).take 7856 == sig

/-- The oldest command of the signature engine completes: the signature or its verdict, then RESULT. -/
def completeSign (s : State) : State :=
  match s.bezel.signCmds with
  | [] => s
  | g :: rest =>
    let (m, s) := s.readSegments 1023 g.message
    let s : State :=
      if !keyPresent g.op g.key then s.engineWrite g.result (leBytes 8 2)
      else if g.op % 2 = 0 then
        let (bs, s) := s.makeSignature g.key m
        (s.engineWrite g.signature bs).engineWrite g.result (leBytes 8 0)
      else
        let (sig, s) := s.readSegments 1023 g.signature
        s.engineWrite g.result (leBytes 8 (if s.checkSignature g.key m sig then 0 else 1))
    let s := s.withBezel fun z => { z with signCmds := rest, signReached := z.signReached + 1 }
    s.engineDone g.unit

end State

end Sys2Proof.Machine
end

