-- ==== Sys2Proof/Machine/Service.lean ====
section
/-!
DEFINITION. The device fault queue (R213, R217, R218), and the memory side of engines: the accesses of a command through its job's
context, in the spaces that it may name (R203, R315, R316).
-/

namespace Sys2Proof.Machine

/-- Whose command it is: core, slot, unit, job, and the launch that PEER names. -/
structure Engine where
  core : Nat
  slot : Nat
  unit : Option Nat
  job : Option Nat
  home : Option Nat
  /-- The POLICY of its GLOBAL accesses (R223, R315). -/
  policy : Nat := 1

namespace State

/-! ### Fault records (R213, R217) -/

/-- Record slots of the registered ring. -/
def faultSlots (s : State) : Nat := match s.mgmt.faultQueue with | some (_, n) => 2 ^ n | none => 0

/-- The control block of the registered ring. -/
def faultBase (s : State) : Nat := match s.mgmt.faultQueue with | some (b, _) => b | none => 0

/-- Where a record lies. -/
def recordAt (s : State) (k : Nat) : Nat := s.faultBase + 256 + 32 * (k % s.faultSlots)

/-- Whether a claimed slot may be written: k below HEAD + E. -/
def recordRoom (s : State) (k : Nat) : Bool := decide (k < s.num (s.faultBase + 128) 8 + s.faultSlots)

/-- A claimed record written, VALID last; a withdrawn one with status 4 (R217, R218). -/
def writeRecord (s : State) (r : FaultRecord) : State :=
  let a := s.recordAt r.claim
  let body := leBytes 8 r.va.toNat ++ leBytes 2 r.asn ++ leBytes 2 r.core ++ leBytes 1 r.slot ++ leBytes 1 r.cause
  let tail := leBytes 4 r.job ++ leBytes 4 r.generation ++ leBytes 4 (if r.withdrawn then 4 else 0) ++ leBytes 4 0
  ((s.physStore a body 0).physStore (a + 16) tail 0).physStore (a + 14) (leBytes 2 (r.flags + 2 ^ 15)) 0

/-- A record claimed, and written where the ring has room for it (R217). -/
def postRecord (s : State) (r : FaultRecord) : FaultRecord × State :=
  let k := s.num s.faultBase 8
  let s := s.physStore s.faultBase (leBytes 8 (k + 1)) 0
  let r := { r with claim := k, written := s.recordRoom k }
  (r, if r.written then s.writeRecord r else s)

/-- The status of a record's reply. -/
def replyStatus (s : State) (r : FaultRecord) : Nat := s.num (s.recordAt r.claim + 24) 4
/-- The generation of a record's reply. -/
def replyGeneration (s : State) (r : FaultRecord) : Nat := s.num (s.recordAt r.claim + 28) 4
/-- The part writes a record's status. -/
def setReply (s : State) (r : FaultRecord) (x : Nat) : State := s.physStore (s.recordAt r.claim + 24) (leBytes 4 x) 0

/-- The header of the AQ0 message in which the device delivers a reply: TYPE 254, LEN 24, SYS (DESIGN CHOICE, as are its payload's three
words: R214 gives the message, not its bytes; log 39). -/
def replyHeader : Word := BitVec.ofNat 64 (254 + 24 * 2 ^ 8 + 2 ^ 27)

/-- Whether the refusal in the record of claim `k` is on its way to the micro-kernel of its core, or lies in AQ0 there (R214). -/
def refusalUnderway (s : State) (r : FaultRecord) : Bool :=
  let refusal (m : Msg) : Bool := m.header == replyHeader && m.payload.take 2 == [BitVec.ofNat 64 r.claim, 2]
  (s.net.any fun f => f.core == r.core && f.queue == 0 && refusal f.msg) || (s.core r.core).aq[0].any refusal

/-- A record withdrawn (R218): status 0 becomes 4; a reply already given is taken, also one on its way to the core; one not yet written is
owed.
Whether a refusal was found. -/
def withdrawRecord (s : State) (r : FaultRecord) : Bool × State :=
  if !r.written then (false, { s with mgmt := { s.mgmt with owed := s.mgmt.owed ++ [{ r with withdrawn := true }] } })
  else match s.replyStatus r with
    | 0 => (false, s.setReply r 4)
    | 1 => (false, s.setReply r 3)
    | 2 => (true, s.setReply r 3)
    | _ => (s.refusalUnderway r, s)

/-- A record under the repeat rule (R215), `prev` being that of the last fault of the same instruction and step, or of the same
command: a fault of the same cause and page carries the generation of the last reply, and counts on unless that generation was a new
one. -/
def repeated (prev : Option FaultRecord) (r : FaultRecord) : FaultRecord :=
  match prev with
  | none => r
  | some p =>
    if p.cause = r.cause ∧ p.va.toNat / 4096 = r.va.toNat / 4096 then
      match p.replied with
      | none => r
      | some g => { r with generation := g, attempts := if p.generation ≠ 0 ∧ p.generation ≠ g then 1 else p.attempts + 1 }
    else r

/-- The record posted, or, at the fourth repeat, the job cancelled with XLATE_STUCK (R215). -/
def postRepeat (s : State) (prev : Option FaultRecord) (r : FaultRecord) : Option FaultRecord × State :=
  let r := repeated prev r
  if r.attempts ≥ 5 then (none, s.cancelJobFor r.job .xlateStuck)
  else
    let (r, s) := s.postRecord r
    (some r, s)

/-- The record of a translation fault of an engine command or a queue access (R213 flag [2]). A command of no job makes none, and is
given up (log 6). -/
def engineRecord (s : State) (prev : Option FaultRecord) (job : Option Nat) (c i : Nat) (q : Request) (cause : Cause) (va : Word) :
    Option FaultRecord × State :=
  if job.isNone then (none, s) else
  s.postRepeat prev {
    claim := 0, written := false, va := va, asn := q.ctx.asn, core := c, slot := i, cause := cause.code
    flags := (if q.writes then 1 else 0) + (if q.atomic then 2 else 0) + 4 + if q.user then 8 else 0
    job := job.getD 0, generation := 0 }

/-- Whether a command or a strand still waits for a reply. -/
def unanswered (r : Option FaultRecord) : Bool := match r with | some r => r.replied.isNone && !r.withdrawn | none => false

/-! ### Engine accesses -/

/-- A cause raised by a command of a unit: for its strand while that holds the slot, else for the core (R369). -/
def latchUnit (s : State) (e : Engine) (l : Latched) : State :=
  if (s.slotAt e.core e.slot).status != .free && (s.strandAt e.core e.slot).unit == e.unit then s.latch e.core e.slot l
  else s.latchCore e.core l

/-- The request of an engine's GLOBAL access. -/
def engineRequest (s : State) (e : Engine) (reads writes : Bool) : Request :=
  { ctx := s.ctxOf e.job, core := e.core, slot := e.slot, user := true, reads, writes, engine := true }

/-- INFO of an engine's BUS_ERROR: [0] a store, [1] the Span (R371). -/
def busInfo (write span : Bool) : Nat := (if write then 1 else 0) + if span then 2 else 0

/-- The scratchpad cell that an engine's LOCAL or PEER address names; its range was checked at issue. -/
def engineCell (s : State) (e : Engine) (space : Nat) (a : Word) : Nat :=
  if space = 1 then
    let base := if (s.strandAt e.core e.slot).unit == e.unit then (s.localWindow e.core (s.strandAt e.core e.slot)).1 else 0
    localCell e.core (base + bits a 23 0)
  else
    ((s.peerArea e.job e.home (bits a 34 24)).map (·.1)).getD (savedCell (e.job.getD 0) 1023 0) + bits a 23 0

/-- KEY_DEAD of a transfer under a key slot (R208, R316). -/
def transferDead (s : State) (e : Engine) (a : Word) (key : Nat) : State :=
  s.latchUnit e { cause := .keyDead, eaddr := a &&& ~~~127, info := key * 32 }

/-- Bytes that an engine reads: those of a line under a dead key slot are zero, and KEY_DEAD is raised (R174, R316); where the host
answers with an error they are free values, and BUS_ERROR is raised (log 8). -/
def engineLoad (s : State) (e : Engine) (space : Nat) (a : Word) (n : Nat) : Except (Miss × Word) (List Byte) × State :=
  if space ≠ 0 then
    let at0 := s.engineCell e space a
    (.ok (s.bytes at0 n), s.poisonRead e.core (sramRun at0 n))
  else match translateRange (s.engineRequest e true false) (n / 4096 + 2) n a s with
    | (.error (.fault .keyDead _ _ k, va), s) => (.ok (List.replicate n 0), s.transferDead e va k)
    | (.error (.fault .busError _ x _, va), s) =>
      (.ok ((List.range n).map fun i => (Config.random (s.drawn + i)).setWidth 8),
        { s with drawn := s.drawn + n }.latchUnit e { cause := .busError, eaddr := va, info := busInfo false x })
    | (.error m, s) => (.error m, s)
    | (.ok segs, s) =>
      match s.lineStop e.core false false segs with
      | some (l, k) => (.error (.line l, a), s.askHome e.core l false k)
      | none =>
        let segs := segs.map fun g => { g with policy := e.policy }
        let (bs, s) := (s.poisonRead e.core segs).readSegments e.core segs
        (.ok bs, s)

/-- Bytes that an engine writes, untracked ones straight to platform memory (R278); those under a dead key slot are discarded. -/
def engineStore (s : State) (e : Engine) (space : Nat) (a : Word) (bs : List Byte) : Except (Miss × Word) Unit × State :=
  if space ≠ 0 then (.ok (), s.store (s.engineCell e space a) bs)
  else match translateRange (s.engineRequest e false true) (bs.length / 4096 + 2) bs.length a s with
    | (.error (.fault .keyDead _ _ _, _), s) => (.ok (), s)
    | (.error (.fault .busError _ x _, va), s) =>
      (.ok (), s.latchUnit e { cause := .busError, eaddr := va, info := busInfo true x })
    | (.error m, s) => (.error m, s)
    | (.ok segs, s) =>
      if s.storeError segs then (.ok (), s.latchUnit e { cause := .busError, eaddr := a, info := 1 })
      else match s.lineStop e.core true false segs with
      | some (l, k) => (.error (.line l, a), s.askHome e.core l true k)
      | none => (.ok (), s.engineLay e.core (segs.map fun g => { g with policy := e.policy }) bs)

end State

end Sys2Proof.Machine
end

