-- ==== Sys2Proof/Machine/Copy.lean ====
section
/-!
DEFINITION. The copy engines (R313 to R318, R340): CPY, CPY2D, CPYN, BATCH, and the transfer of a command.
-/

namespace Sys2Proof.Machine

/-- A row of a transfer: destination, source, length. -/
abbrev CopyRow := Word × Word × Nat

/-- The `n`-th row of a command of op 0 (CPY), 1 (CPY2D) or 2 (CPYN) (R314, R315). -/
def copyRow (op : Nat) (a : List Word) (wb : Word) (n : Nat) : CopyRow :=
  let d := a.getD 0 0
  let r := a.getD 1 0
  if op = 1 then
    let strides := a.getD 2 0
    (d + BitVec.ofNat 64 n * (strides.extractLsb' 0 32).signExtend 64, r + BitVec.ofNat 64 n * (strides.extractLsb' 32 32).signExtend 64,
      bits wb 23 0)
  else (d, r, bits wb 31 0)

/-- The rows of a command. -/
def copyRows (op : Nat) (wb : Word) : Nat := if op = 1 then bits wb 47 32 else 1

/-- The limits of wb (R314). -/
def copySizeLegal (op : Nat) (wb : Word) : Bool :=
  if op = 1 then
    decide (1 ≤ bits wb 23 0) && decide (1 ≤ bits wb 47 32) && bits wb 31 24 == 0 && bits wb 63 48 == 0 &&
      decide (bits wb 23 0 * bits wb 47 32 ≤ 67108864)
  else decide (1 ≤ bits wb 31 0 ∧ bits wb 31 0 ≤ 67108864) && bits wb 63 32 == 0

namespace State

/-- A copy context of the core whose word executes. -/
def copyCtx (s : State) (n : Nat) : CopyCtx := s.me.copies[n]?.getD {}

/-- Commands of a context that its timeline has not reached: one done before an older one is still outstanding (DEDUCED from the 16 records of
R364, which must hold them; R313, log 61). -/
def outstanding (x : CopyCtx) : Nat := x.cmds.length

/-- Commands of a context that have not completed. -/
def unfinished (x : CopyCtx) : Nat := (x.cmds.filter fun d => !d.finished).length

/-- Commands for a context that a pair holds. -/
def heldCopies (s : State) (n : Nat) : Nat :=
  match s.slot.pair with
  | none => 0
  | some p => (p.held.filter fun e => match e with | .copy _ k _ => k == n | _ => false).length

/-- The holder of a context: its claim ends when its strand has ended and every command has completed (R340). -/
def ctxHolder (s : State) (x : CopyCtx) : Option (Nat × Option Nat) :=
  x.owner.filter fun (_, t) =>
    outstanding x != 0 || (match t with
      | some k => (match AMap.get? s.units k with | some r => !r.ended | none => false)
      | none => true)

/-- The claim of a context by the strand, or ENGINE_OWNER (R340). -/
def claimCtx (s : State) (n : Nat) : Res State :=
  let x := s.copyCtx n
  let mine := (s.cur.2, s.u.unit)
  match s.ctxHolder x with
  | some o => if o == mine then .ok s else raise .engineOwner
  | none =>
    .ok (s.setMe { s.me with copies := s.me.copies.setIfInBounds n { owner := some mine } })

/-- The range checks of R194 on `n` bytes at an end of a transfer, which reads or writes there. -/
def endRange (s : State) (space : Nat) (writes : Bool) (a : Word) (n : Nat) : Res Unit :=
  let x : Access := { attr := { cls := 0, scope := 0, space, policy := 0, use := 0 }, reads := !writes, writes }
  if space = 0 then
    let last := a + BitVec.ofNat 64 (n - 1)
    if !canonical a then raiseAt .pfAddress x.info a
    else if !canonical last || bit a 63 != bit last 63 then
      raiseAt .pfAddress x.info (if bit a 63 then 0 else 0x800000000000)
    else .ok ()
  else match s.sramCells x a n with
    | .error (c, e) => raiseAt c x.info e
    | .ok _ => .ok ()

/-- Every row's ends checked, destinations first. -/
def rowRanges (s : State) (op dst src : Nat) (a : List Word) (wb : Word) : (n i : Nat) → Res Unit
  | 0, _ => .ok ()
  | n + 1, i => do
    let (d, r, len) := copyRow op a wb i
    s.endRange dst true d len
    s.endRange src false r len
    rowRanges s op dst src a wb n (i + 1)

/-- The issue of a copy command: claim, wb, completion word, ranges, room, ticket (R313, R314). -/
def issueCopy (s : State) (op : Nat) (d a b : Reg) (ctx src dst : Nat) : Res State := do
  let full := decide (outstanding (s.copyCtx ctx) + s.heldCopies ctx ≥ 16)
  ensure (!(full && s.activation)) .handlerBlock
  let t ← s.claimCtx ctx
  let wb := s.reg b
  let block := (List.range 4).map fun i => if i < (if op = 2 then 4 else if op = 1 then 3 else 2) then s.block a i else 0
  ensure (copySizeLegal op wb) .engineArg
  let word := block.getD 2 0
  if op = 2 ∧ word.toNat % 8 ≠ 0 then raiseAt .misaligned 1 word
  else do
    s.rowRanges op dst src block wb (copyRows op wb) 0
    if op = 2 then s.endRange 2 true word 8
    if full then waitFor (.copyRoom ctx)
    else do
      let x := t.copyCtx ctx
      let ticket := x.issued + 1
      let cmd : CopyCmd :=
        { op, mod := dst + 4 * src + 16 * ctx, batch := x.batch, ticket, a := block, wb, core := t.cur.1, slot := t.cur.2
          unit := t.u.unit, job := t.u.job, home := t.u.home, policy := bits t.u.memdef 9 8 }
      let t := t.setMe { t.me with copies := t.me.copies.setIfInBounds ctx { x with issued := ticket, joined := true } }
      let t ← t.emit (.copy t.cur.1 ctx cmd)
      pure ((t.engineIssued t.u.unit).setReg d ticket).retire

end State

/-- CPY. -/
def execCpy (d a b : Reg) (c r e : BitVec 2) (s : State) : Out :=
  s.plainWhere (decide (c.toNat < copyContexts s.cur.1)) fun s => s.issueCopy 0 d a b c.toNat r.toNat e.toNat
/-- CPY2D. -/
def execCpy2d (d a b : Reg) (c r e : BitVec 2) (s : State) : Out :=
  s.plainWhere (decide (c.toNat < copyContexts s.cur.1)) fun s => s.issueCopy 1 d a b c.toNat r.toNat e.toNat
/-- CPYN. -/
def execCpyn (d a b : Reg) (c r e : BitVec 2) (s : State) : Out :=
  s.plainWhere (decide (c.toNat < copyContexts s.cur.1)) fun s => s.issueCopy 2 d a b c.toNat r.toNat e.toNat

/-- BATCH: a non-empty open batch is closed (R317). -/
def execBatch (c : BitVec 2) (s : State) : Out :=
  s.plainWhere (decide (c.toNat < copyContexts s.cur.1)) fun s => do
    let s ← s.claimCtx c.toNat
    let x := s.copyCtx c.toNat
    let y := if x.joined then { x with batch := x.batch + 1, joined := false } else x
    pure (s.setMe { s.me with copies := s.me.copies.setIfInBounds c.toNat y }).retire

/-! ### Transfers (R315, R316) -/

namespace State

/-- A command's engine. -/
def copyEngine (d : CopyCmd) : Engine := { core := d.core, slot := d.slot, unit := d.unit, job := d.job, home := d.home, policy := d.policy }

/-- The cells that an engine's store of `n` bytes reaches. -/
def engineReach (s : State) (e : Engine) (space : Nat) (a : Word) (n : Nat) : List Segment :=
  if space ≠ 0 then sramRun (s.engineCell e space a) n
  else match translateRange (s.engineRequest e false true) (n / 4096 + 2) n a s with
    | (.ok segs, _) => segs
    | (.error _, _) => []

/-- What a command has written up to its progress, as its engine reaches it now. -/
def wroteBy (s : State) (d : CopyCmd) : List Segment :=
  (List.range (copyRows d.op d.wb)).flatMap fun n =>
    let (x, _, len) := copyRow d.op d.a d.wb n
    if d.done ≤ n * len then [] else s.engineReach (copyEngine d) (d.mod % 4) x (min len (d.done - n * len))

/-- A copy context read back from a record, with what its commands have written (R254). -/
def withWritten (s : State) (x : CopyCtx) : CopyCtx := { x with cmds := x.cmds.map fun d => { d with wrote := s.wroteBy d } }

/-- The bytes that two runs of cells share, as a run. -/
def sharedRun (g h : Segment) : Option Segment :=
  let lo := max g.key h.key
  let hi := min (g.key + g.length) (h.key + h.length)
  if lo < hi then some { g with key := lo, length := hi - lo } else none

/-- A write of a command's engine that leaves what a command of a higher ticket of its context has written: that is the later write of
the byte (R254). -/
def beneath (shield segs : List Segment) (c : Nat) (old new : State) : State :=
  (segs.flatMap fun g => shield.filterMap (sharedRun g)).foldl (fun t g => t.engineLay c [g] (old.cellBytes g.key g.length g.slot)) new

/-- What the commands of a context with higher tickets have written. -/
def shieldOf (x : CopyCtx) (d : CopyCmd) : List Segment := (x.cmds.filter fun y => decide (d.ticket < y.ticket)).flatMap (·.wrote)

/-- Bytes of a command from its progress to its end, at most `n` runs that cross no page at either end, beneath what shields them: the
progress and the cells written, with the request that failed and why. -/
def transfer (d : CopyCmd) (shield : List Segment) : (n done : Nat) → List Segment → State →
    Nat × List Segment × Option (Request × Miss × Word) × State
  | 0, done, wrote, s => (done, wrote, none, s)
  | n + 1, done, wrote, s =>
    let (_, _, len) := copyRow d.op d.a d.wb 0
    let total := len * copyRows d.op d.wb
    if total ≤ done then (done, wrote, none, s)
    else
      let (x, y, _) := copyRow d.op d.a d.wb (done / len)
      let off := done % len
      let x := x + BitVec.ofNat 64 off
      let y := y + BitVec.ofNat 64 off
      let run := min (len - off) (min (4096 - x.toNat % 4096) (4096 - y.toNat % 4096))
      let e := copyEngine d
      match s.engineLoad e (d.mod / 4 % 4) y run with
      | (.error (m, va), s) => (done, wrote, some (s.engineRequest e true false, m, va), s)
      | (.ok bs, s) => match s.engineStore e (d.mod % 4) x bs with
        | (.error (m, va), s) => (done, wrote, some (s.engineRequest e false true, m, va), s)
        | (.ok _, t) =>
          let segs := s.engineReach e (d.mod % 4) x run
          transfer d shield n (done + run) (wrote ++ segs) (beneath shield segs d.core s t)

/-- A copy context of a core with a command replaced and its timeline settled. -/
def setCopy (s : State) (c ctx : Nat) (old new : CopyCmd) : State :=
  let k := s.core c
  let x := k.copies[ctx]?.getD {}
  let y := settleCopies { x with cmds := x.cmds.map fun d => if d == old then new else d }
  s.setCore c { k with copies := k.copies.setIfInBounds ctx y }

/-- A command leaves its context. -/
def endCopy (s : State) (c ctx : Nat) (d : CopyCmd) (done : Nat) (wrote : List Segment) : State :=
  (s.setCopy c ctx d { d with done, wrote, paused := false, finished := true, fault := none }).engineDone d.unit

/-- A command runs to its end, or to a fault that pauses it (R316); CPYN's completion word follows the last byte (R315). One that
meets a page on its way to the other Span box, or a line that its home cannot serve now, keeps its progress and goes on later (R270, R281). -/
def runCopy (s : State) (c ctx : Nat) (d : CopyCmd) : State :=
  let len := (copyRow d.op d.a d.wb 0).2.2
  let rows := copyRows d.op d.wb
  let shield := shieldOf ((s.core c).copies[ctx]?.getD {}) d
  match transfer d shield (rows * (len / 2048 + 3)) d.done d.wrote s with
  | (done, wrote, some (q, .fault cause _ _ _, va), s) =>
    match s.engineRecord d.fault d.job d.core d.slot q cause va with
    | (some r, s) => s.setCopy c ctx d { d with done, wrote, paused := true, started := true, fault := some r }
    | (none, s) => s.endCopy c ctx d done wrote
  | (done, wrote, some _, s) => s.setCopy c ctx d { d with done, wrote, started := true }
  | (done, wrote, none, s) =>
    if d.op = 2 then
      let word := sramRun (s.engineCell (copyEngine d) 2 (d.a.getD 2 0)) 8
      (beneath shield word c s (s.store (s.engineCell (copyEngine d) 2 (d.a.getD 2 0)) (leBytes 8 (d.a.getD 3 0).toNat))).endCopy c ctx d done
        (wrote ++ word)
    else s.endCopy c ctx d done wrote

end State

end Sys2Proof.Machine
end

