-- ==== Sys2Proof/Machine/Coll.lean ====
section
/-!
DEFINITION. Collectives: COLL (R319), schedules as their image gives them (R335), and the run of a collective whose participants
have all issued (R320, R364).
-/

namespace Sys2Proof.Machine

/-! ### Schedules (R335) -/

namespace Sched

/-- A number in an image. -/
def at' (im : List Byte) (off n : Nat) : Nat := leNat ((im.drop off).take n)
/-- Kind: 0 all-reduce, 1 all-gather, 2 reduce-scatter, 3 broadcast. -/
def kind (im : List Byte) : Nat := at' im 0 1
/-- Participants. -/
def members (im : List Byte) : Nat := at' im 2 2
/-- Chunks. -/
def chunks (im : List Byte) : Nat := at' im 4 2
/-- Steps. -/
def steps (im : List Byte) : Nat := at' im 8 4
/-- A participant: its logical core, and whether it lies in the other box. -/
def member (im : List Byte) (p : Nat) : Nat × Bool := (at' im (16 + 4 * p) 4 % 2048, at' im (16 + 4 * p) 4 / 2048 % 2 == 1)

/-- A step: who performs it, 0 send, 1 receive and combine or 2 receive and store, its peer, its chunk. -/
structure Move where
  who : Nat
  action : Nat
  peer : Nat
  chunk : Nat
  deriving DecidableEq, Repr

/-- A step of an image. -/
def move (im : List Byte) (i : Nat) : Move :=
  let o := 16 + 4 * members im + 16 * i
  { who := at' im o 2, action := at' im (o + 2) 1, peer := at' im (o + 4) 2, chunk := at' im (o + 8) 2 }

/-- The steps in image order. -/
def moves (im : List Byte) : List Move := (List.range (steps im)).map (move im)

end Sched

/-- Bytes of an element of a type: f32, bf16, f16, i32. -/
def collWidth (ty : Nat) : Nat := if ty = 1 ∨ ty = 2 then 2 else 4

/-- The float format of a type other than i32. -/
def collFormat (ty : Nat) : FloatFormat := match ty with | 0 => .f32 | 1 => .bf16 | _ => .f16

/-- One combining step of two elements (R320): sum, max or min, no flag raised. -/
def combine (ty op x y : Nat) : Nat :=
  if ty = 3 then
    let a := signedOf 32 x
    let b := signedOf 32 y
    match op with
    | 0 => (x + y) % 2 ^ 32
    | 1 => if a < b then y else x
    | _ => if b < a then y else x
  else
    let f := collFormat ty
    match op with
    | 0 => (FArith.add f .rne (f.read x) (f.read y)).1
    | 1 => (FArith.minMax f true x y).1
    | _ => (FArith.minMax f false x y).1

/-- The elements of `n`-byte width in bytes. -/
def elements (w : Nat) (bs : List Byte) : List Nat := (List.range (bs.length / w)).map fun i => leNat ((bs.drop (w * i)).take w)

/-- A collective in progress: what each participant holds, the steps left, and the values sent and not yet received. -/
structure CollRun where
  data : List (List Nat)
  left : List Sched.Move
  sent : List (Nat × Nat × List Nat)

/-- The elements of a chunk in COUNT elements (R335). -/
def chunkRange (count q c : Nat) : Nat × Nat := (c * count / q, (c + 1) * count / q)

/-- Whether a step may be performed: it is its participant's next, and a receive finds its send. -/
def CollRun.ready (r : CollRun) (i : Nat) (m : Sched.Move) : Bool :=
  ((r.left.take i).all fun x => x.who != m.who) &&
  (m.action == 0 || r.sent.any fun (a, b, _) => a == m.peer && b == m.who)

/-- One step performed. A value that no send supplies, in a chunk longer than the one sent, is free (log 8). -/
def CollRun.perform (free : Nat → Nat) (ty op count q : Nat) (r : CollRun) (i : Nat) (m : Sched.Move) : CollRun :=
  let (lo, hi) := chunkRange count q m.chunk
  let own := r.data.getD m.who []
  let left := r.left.eraseIdx i
  if m.action = 0 then { r with left, sent := r.sent ++ [(m.who, m.peer, (own.drop lo).take (hi - lo))] }
  else
    match r.sent.find? fun (a, b, _) => a == m.peer && b == m.who with
    | none => r
    | some x =>
      let new := (List.range own.length).map fun k =>
        let old := own.getD k 0
        if lo ≤ k ∧ k < hi then
          let v := x.2.2.getD (k - lo) (free k)
          if m.action = 1 then combine ty op old v else v
        else old
      { data := r.data.set m.who new, left, sent := r.sent.erase x }

/-- Steps performed while one can be; a schedule whose steps wait for each other stays unfinished. -/
def CollRun.run (free : Nat → Nat) (ty op count q : Nat) : (n : Nat) → CollRun → CollRun
  | 0, r => r
  | n + 1, r =>
    match (List.range r.left.length).find? fun i => (r.left[i]?.map (r.ready i)).getD false with
    | none => r
    | some i => match r.left[i]? with
      | none => r
      | some m => run free ty op count q n (r.perform free ty op count q i m)

/-- Whether an operation suits the kind of a schedule (R319): none for a gathering kind only. -/
def collSuits (kind op : Nat) : Bool := if kind = 0 ∨ kind = 2 then decide (op ≤ 2) else op == 3

namespace State

/-- A collective context of a die. -/
def collCtx (s : State) (d n : Nat) : List CollCmd := (s.die d).coll[n]?.getD []

/-- The key of a job's schedule of a number in a die's table, whose entries are the job's own (R324). -/
def schedKey (job : Option Nat) (n : Nat) : Nat := (match job with | some q => q + 1 | none => 0) * 4096 + n

/-- A job's schedule of a number on a die. -/
def schedule? (s : State) (d : Nat) (job : Option Nat) (n : Nat) : Option (List Byte × Option Nat) :=
  AMap.get? (s.die d).schedules (schedKey job n)

/-- Collectives for a context that a pair holds. -/
def heldColls (s : State) (n : Nat) : Nat :=
  match s.slot.pair with
  | none => 0
  | some p => (p.held.filter fun e => match e with | .coll _ k _ => k == n | _ => false).length

end State

/-- COLL (R319). -/
def execColl (d a b : Reg) (c : BitVec 3) (s : State) : Out :=
  s.plain fun s => do
    let die := dieOf s.cur.1
    let full := decide ((s.collCtx die c.toNat).length + s.heldColls c.toNat ≥ 4)
    ensure (!(full && s.activation)) .handlerBlock
    let wb := s.reg b
    match s.schedule? (dieOf s.cur.1) s.u.job (bits wb 11 0) with
    | none => raise .engineArg
    | some (im, launch) => do
      let count := bits wb 63 32
      ensure (decide (bits wb 14 12 ≤ 3 ∧ bits wb 17 15 ≤ 3 ∧ 1 ≤ count) && bits wb 31 18 == 0 &&
        collSuits (Sched.kind im) (bits wb 17 15)) .engineArg
      let n := count * collWidth (bits wb 14 12)
      let src := s.block a 0
      let dst := s.block a 1
      s.endRange 0 false src n
      s.endRange 0 true dst n
      if full then waitFor (.collRoom c.toNat)
      else do
        let v := s.u.views[c.toNat]?.getD {}
        let ticket := v.issued + 1
        let cmd : CollCmd :=
          { core := s.cur.1, slot := s.cur.2, unit := s.u.unit, job := s.u.job, home := s.u.home, lcore := s.u.lcore
            wb, src, dst, ticket, mod := c.toNat, image := im, launch }
        let s := s.setU { s.u with views := s.u.views.setIfInBounds c.toNat { v with issued := ticket } }
        let s ← s.emit (.coll die c.toNat cmd)
        pure ((s.engineIssued s.u.unit).setReg d ticket).retire

/-! ### Running a collective -/

namespace State

/-- The commands of every die in a context. -/
def collCmds (s : State) (n : Nat) : List (Nat × CollCmd) := s.dies.flatMap fun (d, x) => (x.coll[n]?.getD []).map fun c => (d, c)

/-- The participants' commands for the collective of a command, none in the place of one in the other box; nothing while a
participant of this box has not issued. -/
def collGroup (s : State) (n : Nat) (x : CollCmd) : Option (List (Option (Nat × CollCmd))) :=
  (List.range (Sched.members x.image)).mapM fun p =>
    let (lc, other) := Sched.member x.image p
    if other then if s.span.joined && s.span.up then some none else none
    else ((s.collCmds n).find? fun (_, c) => c.home == x.launch && c.lcore == lc).map some

/-- A collective command of a die changed. -/
def setColl (s : State) (d n : Nat) (old new : CollCmd) : State :=
  let k := s.die d
  s.setDie d { k with coll := k.coll.setIfInBounds n ((k.coll[n]?.getD []).map fun c => if c == old then new else c) }

/-- A command done: it leaves its context, its ticket is reached in its strand's view, and its unit has one command fewer. -/
def endColl (s : State) (d n : Nat) (c : CollCmd) : State :=
  let k := s.die d
  let s := s.setDie d { k with coll := k.coll.setIfInBounds n ((k.coll[n]?.getD []).erase c) }
  let t := s.strandAt c.core c.slot
  let s := if t.unit == c.unit && (s.slotAt c.core c.slot).status != .free then
      let v := t.views[n]?.getD {}
      s.setStrandAt c.core c.slot { t with views := t.views.setIfInBounds n { v with reached := c.ticket } }
    else s
  s.engineDone c.unit

/-- A command's engine. -/
def collEngine (c : CollCmd) : Engine := { core := c.core, slot := c.slot, unit := c.unit, job := c.job, home := c.home }

/-- A translation fault of a participant's transfer: its record, and the command paused (R213, R216). A page on its way to the other
Span box, or a busy line, holds the collective back (R270, R281). -/
def pauseColl (s : State) (d n : Nat) (c : CollCmd) (writes : Bool) (m : Miss × Word) : State :=
  match m.1 with
  | .fault cause _ _ _ =>
    match s.engineRecord c.fault c.job c.core c.slot (s.engineRequest (collEngine c) (!writes) writes) cause m.2 with
    | (some r, s) => s.setColl d n c { c with fault := some r }
    | (none, s) => s.endColl d n c
  | _ => s

/-- The sources of the participants in order, those of the other box taken from `other`; or the pause of one (R335). -/
def collSources (n len : Nat) : List (Option (Nat × CollCmd)) → List Byte → State → Except State (List (List Byte)) × State
  | [], _, s => (.ok [], s)
  | none :: gs, other, s =>
    match collSources n len gs (other.drop len) s with
    | (.ok rest, s) => (.ok ((other ++ List.replicate len 0).take len :: rest), s)
    | e => e
  | some (d, c) :: gs, other, s =>
    match s.engineLoad (collEngine c) 0 c.src len with
    | (.error m, s) => (.error (s.pauseColl d n c false m), s)
    | (.ok bs, s) => match collSources n len gs other s with
      | (.ok rest, s) => (.ok (bs :: rest), s)
      | e => e

/-- The first destination whose translation fails, before any destination is written. -/
def collReach (n len : Nat) : List (Option (Nat × CollCmd)) → State → Option State × State
  | [], s => (none, s)
  | none :: gs, s => collReach n len gs s
  | some (d, c) :: gs, s =>
    match translateRange (s.engineRequest (collEngine c) false true) (len / 4096 + 2) len c.dst s with
    | (.error (.fault .keyDead _ _ _, _), s) => collReach n len gs s
    | (.error m, s) => (some (s.pauseColl d n c true m), s)
    | (.ok segs, s) => match s.lineStop c.core true false segs with
      | some (l, k) => (some (s.askHome c.core l true k), s)
      | none => collReach n len gs s

/-- A collective whose participants have all issued runs to its end: COLL_MISMATCH where they disagree, else every destination
complete (R319, R320, R335). `other` holds the sources of the other box's participants, in order; `differ` says that one of those
disagrees. -/
def runColl (s : State) (n : Nat) (x : CollCmd) (other : List Byte) (differ : Bool := false) : State :=
  match s.collGroup n x with
  | none => s
  | some group =>
    let cmds := group.filterMap id
    if cmds.any fun (_, c) => unanswered c.fault then s
    else if differ || cmds.any fun (_, c) => c.wb != x.wb then
      cmds.foldl (fun s (d, c) => (s.latchUnit (collEngine c) { cause := .collMismatch }).endColl d n c) s
    else
      let ty := bits x.wb 14 12
      let op := bits x.wb 17 15
      let count := bits x.wb 63 32
      let w := collWidth ty
      match collSources n (count * w) group other s with
      | (.error t, _) => t
      | (.ok sources, s) => match collReach n (count * w) group s with
        | (some t, _) => t
        | (none, s) =>
          let moves := Sched.moves x.image
          let free (k : Nat) : Nat := (Config.random (s.drawn + k)).toNat % 2 ^ (8 * w)
          let start : CollRun := { data := sources.map (elements w), left := moves, sent := [] }
          let r := CollRun.run free ty op count (Sched.chunks x.image) moves.length start
          if !r.left.isEmpty then s
          else
            let s : State := { s with drawn := s.drawn + count }
            (List.range group.length).foldl (fun s p =>
              match group.getD p none with
              | none => s
              | some (d, c) =>
                let bs := (r.data.getD p []).flatMap (leBytes w)
                ((s.engineStore (collEngine c) 0 c.dst bs).2).endColl d n c) s

/-- The first command of a context of a die whose collective can run. -/
def readyColl (s : State) (d n : Nat) : Option CollCmd :=
  (s.collCtx d n).find? fun x =>
    match s.collGroup n x with
    | some g => (g.filterMap id).all fun (_, c) => !unanswered c.fault
    | none => false

/-- The commands of a strand withdrawn into its view, as a save of part 10 does (R364). -/
def withdrawColls (s : State) (c i : Nat) : State :=
  let t := s.strandAt c i
  let d := dieOf c
  (List.range 8).foldl (fun s n =>
    let mine := (s.collCtx d n).filter fun x => x.core == c && x.slot == i && x.unit == t.unit
    mine.foldl (fun s x =>
      let k := s.die d
      let s := s.setDie d { k with coll := k.coll.setIfInBounds n ((k.coll[n]?.getD []).erase x) }
      let t := s.strandAt c i
      let v := t.views[n]?.getD {}
      let s := s.setStrandAt c i { t with
        views := t.views.setIfInBounds n { v with
          withdrawn := v.withdrawn ++ [(x.wb, x.src, x.dst, x.ticket, x.mod)], images := v.images ++ [(x.image, x.launch)] } }
      s.engineDone x.unit) s) s

/-- The withdrawn commands of a strand issued again with their tickets, and the images they started with, when its slot is resumed; one whose
image did not travel in its record takes that of the table (R335, R364). -/
def reissueWithdrawn (s : State) (c i : Nat) : State :=
  let d := dieOf c
  (List.range 8).foldl (fun s n =>
    let t := s.strandAt c i
    let v := t.views[n]?.getD {}
    let s := s.setStrandAt c i { t with views := t.views.setIfInBounds n { v with withdrawn := [], images := [] } }
    (List.range v.withdrawn.length).foldl (fun s k =>
      let (wb, src, dst, ticket, m) := v.withdrawn.getD k (0, 0, 0, 0, 0)
      let (im, launch) := v.images.getD k ((s.schedule? d t.job (bits wb 11 0)).getD ([], none))
      let cmd : CollCmd :=
        { core := c, slot := i, unit := t.unit, job := t.job, home := t.home, lcore := t.lcore, wb, src, dst, ticket, mod := m
          image := im, launch }
      let k := s.die d
      (s.setDie d { k with coll := k.coll.setIfInBounds n ((k.coll[n]?.getD []) ++ [cmd]) }).engineIssued t.unit) s) s

end State

end Sys2Proof.Machine
end

