-- ==== Sys2Proof/WellFormed.lean ====
section
/-!
DEFINITION. WellFormed: which field values a word of the encoding may hold, beyond the zero fields that the encoding itself
fixes. A word that breaks one of these traps with ILL_FUNCTION (R75).
-/

namespace Sys2Proof

namespace WellFormed

/-- The system register numbers of R107. -/
def sysRegNumbers : List Nat :=
  [0, 1, 2, 3, 4, 5, 6, 7, 8, 9, 10, 11, 12, 16, 17, 18, 19, 20, 21]

/-- A register specifier within limits (register blocks: R156, R185, R287, R298, R314, R325). -/
def within (r : Reg) (lo hi : Nat) : Bool := decide (lo ≤ r.toNat) && decide (r.toNat ≤ hi)

/-- A field that names one of eight registers (R73). -/
def below8 (r : Reg) : Bool := decide (r.toNat < 8)

/-- Selector classes of R54: sel 0000 is none, 01bb a byte, 1nnn a nibble. -/
def selNone (s : BitVec 4) : Bool := s == 0
/-- A byte selector. -/
def selByte (s : BitVec 4) : Bool := s.extractLsb' 2 2 == 1#2
/-- A nibble selector. -/
def selNibble (s : BitVec 4) : Bool := s.extractLsb' 3 1 == 1#1

/-- Type and selector of major 0x19 (R82). selb is used only with a selector (R75). -/
def fpSel (t : BitVec 3) (s : BitVec 4) (x : BitVec 1) : Bool :=
  if t.toNat ≤ 2 then selNone s && x == 0 else if t.toNat ≤ 6 then selByte s else selNibble s

/-- Type and selector of major 0x1B (R148). -/
def intSel (t : BitVec 3) (s : BitVec 4) (x : BitVec 1) : Bool :=
  if t.toNat ≤ 5 then selNone s && x == 0 else if t.toNat = 6 then selByte s else selNibble s

/-- The shifts of major 0x1B take types 0, 2, 4, 6 and 7 only (R148). -/
def shiftType (t : BitVec 3) : Bool := t != 1 && t != 3 && t != 5

/-- Type and destination part of VPACK (R145). -/
def packSel (b : Reg) (t : BitVec 3) (s : BitVec 4) : Bool :=
  if t.toNat = 1 || t.toNat = 2 then selNone s
  else b == 0 && (if t.toNat = 7 then selNibble s else selByte s)

/-- Type and selector of VUNPACK (R146). -/
def unpackSel (t : BitVec 3) (s : BitVec 4) : Bool :=
  if t.toNat = 1 || t.toNat = 2 then selNone s else if t.toNat = 7 then selNibble s else selByte s

/-- A timeline number that some core has (R339). -/
def timeline (t : BitVec 5) : Bool := decide (t.toNat ≤ 4) || decide (8 ≤ t.toNat ∧ t.toNat ≤ 17)

end WellFormed

open WellFormed

/-- The well-formed instructions (R73 to R85 and the field tables of each instruction). Events have no encoding to break. -/
def Instr.wf : Instr → Bool
  | .srd _ n => sysRegNumbers.contains n.toNat
  | .swr _ n => sysRegNumbers.contains n.toNat
  | .tlbinv a k => decide (k.toNat ≤ 2) && (k == 0 || a == 0)
  | .ctxsv _ _ p => decide (p.toNat ≤ 10)
  | .ctxld _ _ p => decide (p.toNat ≤ 10)
  | .beq a b _ => decide (a.toNat < b.toNat)
  | .bne a b _ => decide (b.toNat < a.toNat)
  | .fence s c => decide (s.toNat ≤ 5) && decide (1 ≤ c.toNat ∧ c.toNat ≤ 4)
  | .pref _ i => i != 3
  | .vld _ _ m k => m == 1 || k == 0
  | .vst _ _ m k => m == 1 || k == 0
  | .vlds _ _ _ m k => m == 1 || k == 0
  | .vsts _ _ _ m k => m == 1 || k == 0
  | .vgath d _ b m k => (m == 1 || k == 0) && d != b
  | .vscat _ _ _ m k => m == 1 || k == 0
  | .mod _ p _ s c => p != 3 && decide (s.toNat ≤ 5) && decide (c.toNat ≤ 4)
  | .vadd _ _ _ t s x => fpSel t s x
  | .vsub _ _ _ t s x => fpSel t s x
  | .vmul _ _ _ t s x => fpSel t s x
  | .vfma _ _ _ t s x => fpSel t s x
  | .vmin _ _ _ t s x => fpSel t s x
  | .vmax _ _ _ t s x => fpSel t s x
  | .vabs _ _ t s => fpSel t s 0
  | .vneg _ _ t s => fpSel t s 0
  | .vcvt _ _ t => decide (t.toNat ≤ 3)
  | .vpack _ _ b t s => packSel b t s
  | .vunpack _ _ t s => unpackSel t s
  | .vqnt _ _ t => decide (3 ≤ t.toNat)
  | .viadd _ _ _ t s x => intSel t s x
  | .visub _ _ _ t s x => intSel t s x
  | .vimul _ _ _ t s x => intSel t s x
  | .vimac _ _ _ t s x => intSel t s x
  | .vshl _ _ _ t s x => intSel t s x && shiftType t
  | .vshr _ _ _ t s x => intSel t s x && shiftType t
  | .vsra _ _ _ t s x => intSel t s x && shiftType t
  | .vcmp k _ _ _ => below8 k
  | .kand d a b => below8 d && below8 a && below8 b
  | .kor d a b => below8 d && below8 a && below8 b
  | .knot d a => below8 d && below8 a
  | .kpopc _ a => below8 a
  | .vgrant _ a t => decide (t.toNat ≤ 5) && (t != 5 || a == 0)
  | .vredadd _ _ t => decide (t.toNat ≤ 1)
  | .vredmax _ _ t => decide (t.toNat ≤ 2)
  | .vredmin _ _ t => decide (t.toNat ≤ 2)
  | .ntry d _ => within d 8 30
  | .ntryPut d _ _ _ => within d 8 30
  | .cmps k => k != 0
  | .mzero _ m => m != 0
  | .mmov _ a _ _ _ _ => below8 a
  | .mlda _ a _ _ _ _ => within a 8 29
  | .mstd d _ _ _ _ => below8 d
  | .mma d _ _ _ _ f => below8 d && decide (f.toNat ≤ 5)
  | .mcb d _ _ _ _ _ => below8 d
  | .mmx _ _ _ f p => decide (f.toNat ≤ 4) && (decide (f.toNat < 3) || p.getLsbD 0 == false)
  | .msca d _ _ _ f p => below8 d && decide (f.toNat ≤ 4) && (decide (f.toNat < 3) || p.getLsbD 0 == false)
  | .qtry d _ => within d 8 30
  | .qtryAq d _ => within d 8 30
  | .qputt d _ _ _ => within d 8 30
  | .send a _ => within a 8 31
  | .sendt d a _ => within d 8 30 && within a 8 31
  | .recv d n => within d 8 24 && n != 3
  | .recvt d n => within d 8 23 && n != 3
  | .cpy _ a _ _ s e => within a 8 30 && s != 3 && e != 3
  | .cpy2d _ a _ _ s e => within a 8 29 && s != 3 && e != 3
  | .cpyn _ a _ _ s e => within a 8 28 && s != 3 && e != 3
  | .coll _ a _ _ => within a 8 30
  | .hashc _ a _ _ => within a 8 30
  | .tlwait _ t => timeline t
  | .tlwaitb n t => decide (n.toNat ≤ 16) && decide (t.toNat ≤ 3)
  | .tlread _ _ t => timeline t
  | .cancel _ l => decide (1 ≤ l.toNat ∧ l.toNat ≤ 5)
  | .pcnt _ _ b f => f != 3 && (f != 0 || b == 0)
  | .htset a _ => within a 8 29
  | .epreq d a f => within d 8 30 && within a 8 30 && decide (f.toNat ≤ 4)
  | .ownset a _ => within a 8 28
  | .cmap d a b _ f => f != 3 && (f != 0 || a == 0) && (f != 2 || (b == 0 && d == 0))
  | .urtset a _ => within a 8 30
  | .schset a _ _ => within a 8 29
  | .mext _ b x _ => x == 1 || b == 0
  | _ => true

end Sys2Proof
end

