-- ==== Sys2Proof/Decode.lean ====
section
/-!
DEFINITION. Decode: from bytes and words to instructions, rejecting by name what is no instruction (R72 to R89); after it the
encoder, written from the same tables (R74, R76 to R82).
-/

namespace Sys2Proof

/-- Why a word is no instruction (R88). -/
inductive Illegal where
  /-- The word 0x0000_0000. -/
  | zeroWord
  /-- The word 0xFFFF_FFFF. -/
  | onesWord
  /-- A major from 0x2D to 0x3B. -/
  | reservedMajor
  /-- An assigned major with an unassigned or malformed secondary. -/
  | function
  /-- Fewer than four bytes are left. -/
  | truncated
  deriving DecidableEq, Repr

namespace Fmt

/-- Bits [31:26], the major opcode (R72). -/
def major (w : BitVec 32) : BitVec 6 := w.extractLsb' 26 6
/-- Bits [25:21]. -/
def d (w : BitVec 32) : Reg := w.extractLsb' 21 5
/-- Bits [20:16]. -/
def a (w : BitVec 32) : Reg := w.extractLsb' 16 5
/-- Bits [15:11]. -/
def b (w : BitVec 32) : Reg := w.extractLsb' 11 5
/-- Bits [10:6], op of RR. -/
def op (w : BitVec 32) : BitVec 5 := w.extractLsb' 6 5
/-- Bits [5:0], mod of RR. -/
def md (w : BitVec 32) : BitVec 6 := w.extractLsb' 0 6
/-- Bits [15:0], imm16 and off16. -/
def imm16 (w : BitVec 32) : BitVec 16 := w.extractLsb' 0 16
/-- Bits [10:0], imm11 and off11. -/
def imm11 (w : BitVec 32) : BitVec 11 := w.extractLsb' 0 11
/-- Bits [15:13], kind of LS. -/
def kind (w : BitVec 32) : BitVec 3 := w.extractLsb' 13 3
/-- Bits [12:0], off13 of LS. -/
def off13 (w : BitVec 32) : BitVec 13 := w.extractLsb' 0 13
/-- Bits [25:0], off26, ext26 and the fields of MOD. -/
def off26 (w : BitVec 32) : BitVec 26 := w.extractLsb' 0 26
/-- Bits [10:8], type of V and op of M. -/
def ty (w : BitVec 32) : BitVec 3 := w.extractLsb' 8 3
/-- Bits [7:5], op of V. -/
def vop (w : BitVec 32) : BitVec 3 := w.extractLsb' 5 3
/-- Bits [4:1], sel of V. -/
def sel (w : BitVec 32) : BitVec 4 := w.extractLsb' 1 4
/-- Bit [0], selb of V. -/
def selb (w : BitVec 32) : BitVec 1 := w.extractLsb' 0 1
/-- Bits [7:0] of M. -/
def low8 (w : BitVec 32) : BitVec 8 := w.extractLsb' 0 8

end Fmt

/-- The instruction, if its unused fields are zero and its fields are well formed; else ILL_FUNCTION (R75). -/
def accept (zero : Bool) (i : Instr) : Except Illegal Instr :=
  if zero && i.wf then .ok i else .error .function

/-- Major 0x00 by its op field (R77 to R82). -/
def decodeSystem (w : BitVec 32) : Except Illegal Instr :=
  match (Fmt.b w).toNat with
  | 1 => accept (Fmt.a w == 0#5) (.srd (Fmt.d w) (Fmt.imm11 w))
  | 2 => accept (Fmt.d w == 0#5) (.swr (Fmt.a w) (Fmt.imm11 w))
  | 3 => accept (Fmt.d w == 0#5 && Fmt.a w == 0#5) (.trap (Fmt.imm11 w))
  | 4 => accept (Fmt.d w == 0#5 && Fmt.a w == 0#5 && Fmt.imm11 w == 0#11) (.eret)
  | 5 => accept (Fmt.d w == 0#5 && Fmt.a w == 0#5) (.brk (Fmt.imm11 w))
  | 6 => accept (Fmt.d w == 0#5 && Fmt.a w == 0#5 && (Fmt.imm11 w).extractLsb' 4 7 == 0#7) (.wfm ((Fmt.imm11 w).extractLsb' 0 4))
  | 7 => accept (Fmt.d w == 0#5 && Fmt.a w == 0#5 && Fmt.imm11 w == 0#11) (.exit)
  | 8 => accept (Fmt.d w == 0#5 && (Fmt.imm11 w).extractLsb' 2 9 == 0#9) (.ckpt (Fmt.a w) ((Fmt.imm11 w).extractLsb' 0 2))
  | 9 => accept (Fmt.d w == 0#5) (.tlbinv (Fmt.a w) (Fmt.imm11 w))
  | 10 => accept (true) (.ctxsv (Fmt.d w) (Fmt.a w) (Fmt.imm11 w))
  | 11 => accept (true) (.ctxld (Fmt.d w) (Fmt.a w) (Fmt.imm11 w))
  | _ => .error .function

/-- Major 0x01 by its op field (R77 to R82). -/
def decodeInt (w : BitVec 32) : Except Illegal Instr :=
  match (Fmt.op w).toNat with
  | 0 => accept (Fmt.md w == 0#6) (.add (Fmt.d w) (Fmt.a w) (Fmt.b w))
  | 1 => accept (Fmt.md w == 0#6) (.sub (Fmt.d w) (Fmt.a w) (Fmt.b w))
  | 2 => accept (Fmt.md w == 0#6) (.and (Fmt.d w) (Fmt.a w) (Fmt.b w))
  | 3 => accept (Fmt.md w == 0#6) (.or (Fmt.d w) (Fmt.a w) (Fmt.b w))
  | 4 => accept (Fmt.md w == 0#6) (.xor (Fmt.d w) (Fmt.a w) (Fmt.b w))
  | 5 => accept (Fmt.md w == 0#6) (.andn (Fmt.d w) (Fmt.a w) (Fmt.b w))
  | 6 => accept (Fmt.md w == 0#6) (.shl (Fmt.d w) (Fmt.a w) (Fmt.b w))
  | 7 => accept (Fmt.md w == 0#6) (.shr (Fmt.d w) (Fmt.a w) (Fmt.b w))
  | 8 => accept (Fmt.md w == 0#6) (.sra (Fmt.d w) (Fmt.a w) (Fmt.b w))
  | 9 => accept (Fmt.md w == 0#6) (.rot (Fmt.d w) (Fmt.a w) (Fmt.b w))
  | 10 => accept (Fmt.b w == 0#5 && Fmt.md w == 0#6) (.clz (Fmt.d w) (Fmt.a w))
  | 11 => accept (Fmt.b w == 0#5 && Fmt.md w == 0#6) (.ctz (Fmt.d w) (Fmt.a w))
  | 12 => accept (Fmt.b w == 0#5 && Fmt.md w == 0#6) (.popc (Fmt.d w) (Fmt.a w))
  | 13 => accept (Fmt.md w == 0#6) (.min (Fmt.d w) (Fmt.a w) (Fmt.b w))
  | 14 => accept (Fmt.md w == 0#6) (.max (Fmt.d w) (Fmt.a w) (Fmt.b w))
  | 15 => accept (Fmt.md w == 0#6) (.minu (Fmt.d w) (Fmt.a w) (Fmt.b w))
  | 16 => accept (Fmt.md w == 0#6) (.maxu (Fmt.d w) (Fmt.a w) (Fmt.b w))
  | 17 => accept (Fmt.md w == 0#6) (.sel (Fmt.d w) (Fmt.a w) (Fmt.b w))
  | 18 => accept (Fmt.md w == 0#6) (.cmpeq (Fmt.d w) (Fmt.a w) (Fmt.b w))
  | 19 => accept (Fmt.md w == 0#6) (.cmplt (Fmt.d w) (Fmt.a w) (Fmt.b w))
  | 20 => accept (Fmt.md w == 0#6) (.cmpltu (Fmt.d w) (Fmt.a w) (Fmt.b w))
  | _ => .error .function

/-- Major 0x06: the shift is selected by imm16[9:8] (R78). -/
def decodeShift (w : BitVec 32) : Except Illegal Instr :=
  match ((Fmt.imm16 w).extractLsb' 6 10).toNat with
  | 0 => accept true (.shli (Fmt.d w) (Fmt.a w) ((Fmt.imm16 w).extractLsb' 0 6))
  | 4 => accept true (.shri (Fmt.d w) (Fmt.a w) ((Fmt.imm16 w).extractLsb' 0 6))
  | 8 => accept true (.srai (Fmt.d w) (Fmt.a w) ((Fmt.imm16 w).extractLsb' 0 6))
  | _ => .error .function

/-- Major 0x09: srcA selects MOVHI or ADDPC (R78). -/
def decodeHigh (w : BitVec 32) : Except Illegal Instr :=
  match (Fmt.a w).toNat with
  | 0 => accept true (.movhi (Fmt.d w) (Fmt.imm16 w))
  | 1 => accept true (.addpc (Fmt.d w) (Fmt.imm16 w))
  | _ => .error .function

/-- Major 0x0a by its op field (R77 to R82). -/
def decodeMulDiv (w : BitVec 32) : Except Illegal Instr :=
  match (Fmt.op w).toNat with
  | 0 => accept (Fmt.md w == 0#6) (.mul (Fmt.d w) (Fmt.a w) (Fmt.b w))
  | 1 => accept (Fmt.md w == 0#6) (.mulh (Fmt.d w) (Fmt.a w) (Fmt.b w))
  | 2 => accept (Fmt.md w == 0#6) (.mulhu (Fmt.d w) (Fmt.a w) (Fmt.b w))
  | 3 => accept (Fmt.md w == 0#6) (.div (Fmt.d w) (Fmt.a w) (Fmt.b w))
  | 4 => accept (Fmt.md w == 0#6) (.divu (Fmt.d w) (Fmt.a w) (Fmt.b w))
  | 5 => accept (Fmt.md w == 0#6) (.rem (Fmt.d w) (Fmt.a w) (Fmt.b w))
  | 6 => accept (Fmt.md w == 0#6) (.remu (Fmt.d w) (Fmt.a w) (Fmt.b w))
  | _ => .error .function

/-- Major 0x0b by its op field (R77 to R82). -/
def decodeFloat (w : BitVec 32) : Except Illegal Instr :=
  match (Fmt.op w).toNat with
  | 0 => accept (Fmt.md w == 0#6) (.fadd (Fmt.d w) (Fmt.a w) (Fmt.b w))
  | 1 => accept (Fmt.md w == 0#6) (.fsub (Fmt.d w) (Fmt.a w) (Fmt.b w))
  | 2 => accept (Fmt.md w == 0#6) (.fmul (Fmt.d w) (Fmt.a w) (Fmt.b w))
  | 3 => accept (Fmt.md w == 0#6) (.ffma (Fmt.d w) (Fmt.a w) (Fmt.b w))
  | 4 => accept (Fmt.md w == 0#6) (.fdiv (Fmt.d w) (Fmt.a w) (Fmt.b w))
  | 5 => accept (Fmt.b w == 0#5 && Fmt.md w == 0#6) (.fsqrt (Fmt.d w) (Fmt.a w))
  | 6 => accept (Fmt.md w == 0#6) (.fmin (Fmt.d w) (Fmt.a w) (Fmt.b w))
  | 7 => accept (Fmt.md w == 0#6) (.fmax (Fmt.d w) (Fmt.a w) (Fmt.b w))
  | 8 => accept ((Fmt.md w).extractLsb' 2 4 == 0#4) (.fcmp (Fmt.d w) (Fmt.a w) (Fmt.b w) ((Fmt.md w).extractLsb' 0 2))
  | 9 => accept (Fmt.b w == 0#5 && (Fmt.md w).extractLsb' 2 4 == 0#4) (.fcvtif (Fmt.d w) (Fmt.a w) ((Fmt.md w).extractLsb' 0 2))
  | 10 => accept (Fmt.b w == 0#5 && (Fmt.md w).extractLsb' 3 3 == 0#3) (.fcvtfi (Fmt.d w) (Fmt.a w) ((Fmt.md w).extractLsb' 0 3))
  | _ => .error .function

/-- Major 0x0C: BEQ, BNE and JL by register order (R79). -/
def decodeEqual (w : BitVec 32) : Except Illegal Instr :=
  if Fmt.d w == Fmt.a w then accept true (.jl (Fmt.d w) (Fmt.imm16 w))
  else if decide ((Fmt.d w).toNat < (Fmt.a w).toNat) then accept true (.beq (Fmt.d w) (Fmt.a w) (Fmt.imm16 w))
  else accept true (.bne (Fmt.d w) (Fmt.a w) (Fmt.imm16 w))

/-- Major 0x0f by its op field (R77 to R82). -/
def decodeBranchU (w : BitVec 32) : Except Illegal Instr :=
  match (Fmt.b w).toNat with
  | 0 => accept (true) (.bltu (Fmt.d w) (Fmt.a w) (Fmt.imm11 w))
  | 1 => accept (true) (.bgeu (Fmt.d w) (Fmt.a w) (Fmt.imm11 w))
  | 2 => accept (Fmt.a w == 0#5 && Fmt.imm11 w == 0#11) (.jr (Fmt.d w))
  | 3 => accept (Fmt.a w == 0#5 && Fmt.imm11 w == 0#11) (.callr (Fmt.d w))
  | 4 => accept (Fmt.d w == 0#5 && Fmt.a w == 0#5 && Fmt.imm11 w == 0#11) (.ret)
  | _ => .error .function

/-- Major 0x12 by its kind field (R77 to R82). -/
def decodeLoad (w : BitVec 32) : Except Illegal Instr :=
  match (Fmt.kind w).toNat with
  | 0 => accept (true) (.ldb (Fmt.d w) (Fmt.a w) (Fmt.off13 w))
  | 1 => accept (true) (.ldbu (Fmt.d w) (Fmt.a w) (Fmt.off13 w))
  | 2 => accept (true) (.ldh (Fmt.d w) (Fmt.a w) (Fmt.off13 w))
  | 3 => accept (true) (.ldhu (Fmt.d w) (Fmt.a w) (Fmt.off13 w))
  | 4 => accept (true) (.ldw (Fmt.d w) (Fmt.a w) (Fmt.off13 w))
  | 5 => accept (true) (.ldwu (Fmt.d w) (Fmt.a w) (Fmt.off13 w))
  | 6 => accept (true) (.ldd (Fmt.d w) (Fmt.a w) (Fmt.off13 w))
  | _ => .error .function

/-- Major 0x13 by its kind field (R77 to R82). -/
def decodeStore (w : BitVec 32) : Except Illegal Instr :=
  match (Fmt.kind w).toNat with
  | 0 => accept (true) (.stb (Fmt.d w) (Fmt.a w) (Fmt.off13 w))
  | 1 => accept (true) (.sth (Fmt.d w) (Fmt.a w) (Fmt.off13 w))
  | 2 => accept (true) (.stw (Fmt.d w) (Fmt.a w) (Fmt.off13 w))
  | 3 => accept (true) (.std (Fmt.d w) (Fmt.a w) (Fmt.off13 w))
  | _ => .error .function

/-- Major 0x14 by its op field (R77 to R82). -/
def decodeAtomic (w : BitVec 32) : Except Illegal Instr :=
  match (Fmt.op w).toNat with
  | 0 => accept ((Fmt.md w).extractLsb' 0 5 == 0#5) (.amoadd (Fmt.d w) (Fmt.a w) (Fmt.b w) ((Fmt.md w).extractLsb' 5 1))
  | 1 => accept ((Fmt.md w).extractLsb' 0 5 == 0#5) (.amoand (Fmt.d w) (Fmt.a w) (Fmt.b w) ((Fmt.md w).extractLsb' 5 1))
  | 2 => accept ((Fmt.md w).extractLsb' 0 5 == 0#5) (.amoor (Fmt.d w) (Fmt.a w) (Fmt.b w) ((Fmt.md w).extractLsb' 5 1))
  | 3 => accept ((Fmt.md w).extractLsb' 0 5 == 0#5) (.amoxor (Fmt.d w) (Fmt.a w) (Fmt.b w) ((Fmt.md w).extractLsb' 5 1))
  | 4 => accept ((Fmt.md w).extractLsb' 0 5 == 0#5) (.amomin (Fmt.d w) (Fmt.a w) (Fmt.b w) ((Fmt.md w).extractLsb' 5 1))
  | 5 => accept ((Fmt.md w).extractLsb' 0 5 == 0#5) (.amomax (Fmt.d w) (Fmt.a w) (Fmt.b w) ((Fmt.md w).extractLsb' 5 1))
  | 6 => accept ((Fmt.md w).extractLsb' 0 5 == 0#5) (.amominu (Fmt.d w) (Fmt.a w) (Fmt.b w) ((Fmt.md w).extractLsb' 5 1))
  | 7 => accept ((Fmt.md w).extractLsb' 0 5 == 0#5) (.amomaxu (Fmt.d w) (Fmt.a w) (Fmt.b w) ((Fmt.md w).extractLsb' 5 1))
  | 8 => accept ((Fmt.md w).extractLsb' 0 5 == 0#5) (.amoswp (Fmt.d w) (Fmt.a w) (Fmt.b w) ((Fmt.md w).extractLsb' 5 1))
  | 9 => accept ((Fmt.md w).extractLsb' 0 5 == 0#5) (.amocas (Fmt.d w) (Fmt.a w) (Fmt.b w) ((Fmt.md w).extractLsb' 5 1))
  | 10 => accept (Fmt.md w == 32#6) (.amofadd (Fmt.d w) (Fmt.a w) (Fmt.b w))
  | _ => .error .function

/-- Major 0x15 by its op field (R77 to R82). -/
def decodeFence (w : BitVec 32) : Except Illegal Instr :=
  match (Fmt.op w).toNat with
  | 0 => accept (Fmt.d w == 0#5 && Fmt.a w == 0#5 && Fmt.b w == 0#5) (.fence ((Fmt.md w).extractLsb' 3 3) ((Fmt.md w).extractLsb' 0 3))
  | 1 => accept ((Fmt.md w).extractLsb' 0 5 == 0#5) (.waita (Fmt.d w) (Fmt.a w) (Fmt.b w) ((Fmt.md w).extractLsb' 5 1))
  | 2 => accept (Fmt.md w == 0#6) (.flushr (Fmt.d w) (Fmt.a w) (Fmt.b w))
  | 3 => accept (Fmt.md w == 0#6) (.invr (Fmt.d w) (Fmt.a w) (Fmt.b w))
  | 4 => accept (Fmt.d w == 0#5 && Fmt.b w == 0#5 && (Fmt.md w).extractLsb' 2 4 == 0#4) (.pref (Fmt.a w) ((Fmt.md w).extractLsb' 0 2))
  | _ => .error .function

/-- Major 0x16 by its op field (R77 to R82). -/
def decodeVMem (w : BitVec 32) : Except Illegal Instr :=
  match (Fmt.vop w).toNat with
  | 0 => accept (Fmt.b w == 0#5 && (Fmt.ty w).extractLsb' 1 2 == 0#2 && (Fmt.sel w).extractLsb' 3 1 == 0#1 && Fmt.selb w == 0#1) (.vld (Fmt.d w) (Fmt.a w) ((Fmt.ty w).extractLsb' 0 1) ((Fmt.sel w).extractLsb' 0 3))
  | 1 => accept (Fmt.b w == 0#5 && (Fmt.ty w).extractLsb' 1 2 == 0#2 && (Fmt.sel w).extractLsb' 3 1 == 0#1 && Fmt.selb w == 0#1) (.vst (Fmt.d w) (Fmt.a w) ((Fmt.ty w).extractLsb' 0 1) ((Fmt.sel w).extractLsb' 0 3))
  | 2 => accept ((Fmt.ty w).extractLsb' 1 2 == 0#2 && (Fmt.sel w).extractLsb' 3 1 == 0#1 && Fmt.selb w == 0#1) (.vlds (Fmt.d w) (Fmt.a w) (Fmt.b w) ((Fmt.ty w).extractLsb' 0 1) ((Fmt.sel w).extractLsb' 0 3))
  | 3 => accept ((Fmt.ty w).extractLsb' 1 2 == 0#2 && (Fmt.sel w).extractLsb' 3 1 == 0#1 && Fmt.selb w == 0#1) (.vsts (Fmt.d w) (Fmt.a w) (Fmt.b w) ((Fmt.ty w).extractLsb' 0 1) ((Fmt.sel w).extractLsb' 0 3))
  | 4 => accept ((Fmt.ty w).extractLsb' 1 2 == 0#2 && (Fmt.sel w).extractLsb' 3 1 == 0#1 && Fmt.selb w == 0#1) (.vgath (Fmt.d w) (Fmt.a w) (Fmt.b w) ((Fmt.ty w).extractLsb' 0 1) ((Fmt.sel w).extractLsb' 0 3))
  | 5 => accept ((Fmt.ty w).extractLsb' 1 2 == 0#2 && (Fmt.sel w).extractLsb' 3 1 == 0#1 && Fmt.selb w == 0#1) (.vscat (Fmt.d w) (Fmt.a w) (Fmt.b w) ((Fmt.ty w).extractLsb' 0 1) ((Fmt.sel w).extractLsb' 0 3))
  | _ => .error .function

/-- Major 0x19 by its op field (R77 to R82). -/
def decodeVFloat (w : BitVec 32) : Except Illegal Instr :=
  match (Fmt.vop w).toNat with
  | 0 => accept (true) (.vadd (Fmt.d w) (Fmt.a w) (Fmt.b w) (Fmt.ty w) (Fmt.sel w) (Fmt.selb w))
  | 1 => accept (true) (.vsub (Fmt.d w) (Fmt.a w) (Fmt.b w) (Fmt.ty w) (Fmt.sel w) (Fmt.selb w))
  | 2 => accept (true) (.vmul (Fmt.d w) (Fmt.a w) (Fmt.b w) (Fmt.ty w) (Fmt.sel w) (Fmt.selb w))
  | 3 => accept (true) (.vfma (Fmt.d w) (Fmt.a w) (Fmt.b w) (Fmt.ty w) (Fmt.sel w) (Fmt.selb w))
  | 4 => accept (true) (.vmin (Fmt.d w) (Fmt.a w) (Fmt.b w) (Fmt.ty w) (Fmt.sel w) (Fmt.selb w))
  | 5 => accept (true) (.vmax (Fmt.d w) (Fmt.a w) (Fmt.b w) (Fmt.ty w) (Fmt.sel w) (Fmt.selb w))
  | 6 => accept (Fmt.b w == 0#5 && Fmt.selb w == 0#1) (.vabs (Fmt.d w) (Fmt.a w) (Fmt.ty w) (Fmt.sel w))
  | 7 => accept (Fmt.b w == 0#5 && Fmt.selb w == 0#1) (.vneg (Fmt.d w) (Fmt.a w) (Fmt.ty w) (Fmt.sel w))
  | _ => .error .function

/-- Major 0x1a by its op field (R77 to R82). -/
def decodeVConv (w : BitVec 32) : Except Illegal Instr :=
  match (Fmt.vop w).toNat with
  | 0 => accept (Fmt.b w == 0#5 && Fmt.ty w == 0#3 && Fmt.sel w == 0#4 && Fmt.selb w == 0#1) (.vrcp (Fmt.d w) (Fmt.a w))
  | 1 => accept (Fmt.b w == 0#5 && Fmt.ty w == 0#3 && Fmt.sel w == 0#4 && Fmt.selb w == 0#1) (.vrsq (Fmt.d w) (Fmt.a w))
  | 2 => accept (Fmt.b w == 0#5 && Fmt.ty w == 0#3 && Fmt.sel w == 0#4 && Fmt.selb w == 0#1) (.vexp2 (Fmt.d w) (Fmt.a w))
  | 3 => accept (Fmt.b w == 0#5 && Fmt.ty w == 0#3 && Fmt.sel w == 0#4 && Fmt.selb w == 0#1) (.vlog2 (Fmt.d w) (Fmt.a w))
  | 4 => accept (Fmt.b w == 0#5 && Fmt.sel w == 0#4 && Fmt.selb w == 0#1) (.vcvt (Fmt.d w) (Fmt.a w) (Fmt.ty w))
  | 5 => accept (Fmt.selb w == 0#1) (.vpack (Fmt.d w) (Fmt.a w) (Fmt.b w) (Fmt.ty w) (Fmt.sel w))
  | 6 => accept (Fmt.b w == 0#5 && Fmt.selb w == 0#1) (.vunpack (Fmt.d w) (Fmt.a w) (Fmt.ty w) (Fmt.sel w))
  | 7 => accept (Fmt.b w == 0#5 && Fmt.sel w == 0#4 && Fmt.selb w == 0#1) (.vqnt (Fmt.d w) (Fmt.a w) (Fmt.ty w))
  | _ => .error .function

/-- Major 0x1b by its op field (R77 to R82). -/
def decodeVInt (w : BitVec 32) : Except Illegal Instr :=
  match (Fmt.vop w).toNat with
  | 0 => accept (true) (.viadd (Fmt.d w) (Fmt.a w) (Fmt.b w) (Fmt.ty w) (Fmt.sel w) (Fmt.selb w))
  | 1 => accept (true) (.visub (Fmt.d w) (Fmt.a w) (Fmt.b w) (Fmt.ty w) (Fmt.sel w) (Fmt.selb w))
  | 2 => accept (true) (.vimul (Fmt.d w) (Fmt.a w) (Fmt.b w) (Fmt.ty w) (Fmt.sel w) (Fmt.selb w))
  | 3 => accept (true) (.vimac (Fmt.d w) (Fmt.a w) (Fmt.b w) (Fmt.ty w) (Fmt.sel w) (Fmt.selb w))
  | 4 => accept (true) (.vshl (Fmt.d w) (Fmt.a w) (Fmt.b w) (Fmt.ty w) (Fmt.sel w) (Fmt.selb w))
  | 5 => accept (true) (.vshr (Fmt.d w) (Fmt.a w) (Fmt.b w) (Fmt.ty w) (Fmt.sel w) (Fmt.selb w))
  | 6 => accept (true) (.vsra (Fmt.d w) (Fmt.a w) (Fmt.b w) (Fmt.ty w) (Fmt.sel w) (Fmt.selb w))
  | _ => .error .function

/-- Major 0x1c by its op field (R77 to R82). -/
def decodeVLogic (w : BitVec 32) : Except Illegal Instr :=
  match (Fmt.vop w).toNat with
  | 0 => accept (Fmt.sel w == 0#4 && Fmt.selb w == 0#1) (.vcmp (Fmt.d w) (Fmt.a w) (Fmt.b w) (Fmt.ty w))
  | 1 => accept (Fmt.ty w == 0#3 && (Fmt.sel w).extractLsb' 3 1 == 0#1 && Fmt.selb w == 0#1) (.vsel (Fmt.d w) (Fmt.a w) (Fmt.b w) ((Fmt.sel w).extractLsb' 0 3))
  | 2 => accept (Fmt.ty w == 0#3 && Fmt.sel w == 0#4 && Fmt.selb w == 0#1) (.vand (Fmt.d w) (Fmt.a w) (Fmt.b w))
  | 3 => accept (Fmt.ty w == 0#3 && Fmt.sel w == 0#4 && Fmt.selb w == 0#1) (.vor (Fmt.d w) (Fmt.a w) (Fmt.b w))
  | 4 => accept (Fmt.ty w == 0#3 && Fmt.sel w == 0#4 && Fmt.selb w == 0#1) (.vxor (Fmt.d w) (Fmt.a w) (Fmt.b w))
  | 5 =>
    if Fmt.ty w == 0#3 && Fmt.sel w == 0#4 && Fmt.selb w == 0#1 then accept true (.kand (Fmt.d w) (Fmt.a w) (Fmt.b w))
    else if Fmt.ty w == 1#3 && Fmt.sel w == 0#4 && Fmt.selb w == 0#1 then accept true (.kor (Fmt.d w) (Fmt.a w) (Fmt.b w))
    else if Fmt.b w == 0#5 && Fmt.ty w == 2#3 && Fmt.sel w == 0#4 && Fmt.selb w == 0#1 then accept true (.knot (Fmt.d w) (Fmt.a w))
    else if Fmt.b w == 0#5 && Fmt.ty w == 3#3 && Fmt.sel w == 0#4 && Fmt.selb w == 0#1 then accept true (.kpopc (Fmt.d w) (Fmt.a w))
    else .error .function
  | 6 => accept (Fmt.b w == 0#5 && Fmt.sel w == 0#4 && Fmt.selb w == 0#1) (.vgrant (Fmt.d w) (Fmt.a w) (Fmt.ty w))
  | _ => .error .function

/-- Major 0x1d by its op field (R77 to R82). -/
def decodeVPerm (w : BitVec 32) : Except Illegal Instr :=
  match (Fmt.vop w).toNat with
  | 0 => accept (Fmt.b w == 0#5 && Fmt.sel w == 0#4 && Fmt.selb w == 0#1) (.vredadd (Fmt.d w) (Fmt.a w) (Fmt.ty w))
  | 1 => accept (Fmt.b w == 0#5 && Fmt.sel w == 0#4 && Fmt.selb w == 0#1) (.vredmax (Fmt.d w) (Fmt.a w) (Fmt.ty w))
  | 2 => accept (Fmt.b w == 0#5 && Fmt.sel w == 0#4 && Fmt.selb w == 0#1) (.vredmin (Fmt.d w) (Fmt.a w) (Fmt.ty w))
  | 3 => accept (Fmt.ty w == 0#3 && Fmt.sel w == 0#4 && Fmt.selb w == 0#1) (.vperm (Fmt.d w) (Fmt.a w) (Fmt.b w))
  | 4 => accept (Fmt.ty w == 0#3 && Fmt.sel w == 0#4 && Fmt.selb w == 0#1) (.vslide (Fmt.d w) (Fmt.a w) (Fmt.b w))
  | 5 => accept (Fmt.b w == 0#5 && Fmt.ty w == 0#3 && Fmt.sel w == 0#4 && Fmt.selb w == 0#1) (.vbcast (Fmt.d w) (Fmt.a w))
  | 6 => accept (Fmt.ty w == 0#3 && Fmt.sel w == 0#4 && Fmt.selb w == 0#1) (.vextr (Fmt.d w) (Fmt.a w) (Fmt.b w))
  | 7 => accept (Fmt.ty w == 0#3 && Fmt.sel w == 0#4 && Fmt.selb w == 0#1) (.vins (Fmt.d w) (Fmt.a w) (Fmt.b w))
  | _ => .error .function

/-- Major 0x1e by its op field (R77 to R82). -/
def decodeLink (w : BitVec 32) : Except Illegal Instr :=
  match (Fmt.op w).toNat with
  | 0 => accept (Fmt.d w == 0#5 && (Fmt.b w).extractLsb' 3 2 == 0#2) (.nput (Fmt.a w) ((Fmt.b w).extractLsb' 0 3) (Fmt.md w))
  | 1 => accept (Fmt.a w == 0#5 && (Fmt.b w).extractLsb' 3 2 == 0#2 && Fmt.md w == 0#6) (.nget (Fmt.d w) ((Fmt.b w).extractLsb' 0 3))
  | 2 =>
    if Fmt.a w == 0#5 && (Fmt.b w).extractLsb' 3 2 == 0#2 && Fmt.md w == 0#6 then accept true (.ntry (Fmt.d w) ((Fmt.b w).extractLsb' 0 3))
    else if (Fmt.b w).extractLsb' 3 2 == 2#2 then accept true (.ntryPut (Fmt.d w) (Fmt.a w) ((Fmt.b w).extractLsb' 0 3) (Fmt.md w))
    else .error .function
  | 3 => accept (Fmt.d w == 0#5 && Fmt.a w == 0#5 && (Fmt.b w).extractLsb' 3 2 == 0#2 && Fmt.md w == 0#6) (.nclr ((Fmt.b w).extractLsb' 0 3))
  | _ => .error .function

/-- Major 0x1f by its op field (R77 to R82). -/
def decodeCompose (w : BitVec 32) : Except Illegal Instr :=
  match (Fmt.op w).toNat with
  | 0 => accept (Fmt.d w == 0#5 && Fmt.a w == 0#5 && Fmt.b w == 0#5 && (Fmt.md w).extractLsb' 2 4 == 0#4) (.cmps ((Fmt.md w).extractLsb' 0 2))
  | 1 => accept (Fmt.d w == 0#5 && Fmt.a w == 0#5 && Fmt.b w == 0#5 && Fmt.md w == 0#6) (.dcmp)
  | _ => .error .function

/-- Major 0x20 by its op field (R77 to R82). -/
def decodeMCtl (w : BitVec 32) : Except Illegal Instr :=
  match (Fmt.ty w).toNat with
  | 0 => accept (Fmt.d w == 0#5 && Fmt.a w == 0#5 && Fmt.b w == 0#5 && (Fmt.low8 w).extractLsb' 1 7 == 0#7) (.mgang ((Fmt.low8 w).extractLsb' 0 1))
  | 1 => accept (Fmt.d w == 0#5 && Fmt.a w == 0#5 && Fmt.b w == 0#5) (.mwait (Fmt.low8 w))
  | 2 => accept (Fmt.d w == 0#5 && (Fmt.a w).extractLsb' 1 4 == 0#4 && Fmt.b w == 0#5) (.mzero ((Fmt.a w).extractLsb' 0 1) (Fmt.low8 w))
  | 3 => accept (Fmt.b w == 0#5) (.mmov (Fmt.d w) (Fmt.a w) ((Fmt.low8 w).extractLsb' 7 1) ((Fmt.low8 w).extractLsb' 6 1) ((Fmt.low8 w).extractLsb' 5 1) ((Fmt.low8 w).extractLsb' 0 5))
  | _ => .error .function

/-- Major 0x21 by its op field (R77 to R82). -/
def decodeMMem (w : BitVec 32) : Except Illegal Instr :=
  match (Fmt.ty w).toNat with
  | 0 => accept ((Fmt.low8 w).extractLsb' 5 1 == 0#1 && (Fmt.low8 w).extractLsb' 0 4 == 0#4) (.mlda (Fmt.d w) (Fmt.a w) (Fmt.b w) ((Fmt.low8 w).extractLsb' 7 1) ((Fmt.low8 w).extractLsb' 6 1) ((Fmt.low8 w).extractLsb' 4 1))
  | 1 => accept ((Fmt.low8 w).extractLsb' 5 3 == 0#3 && (Fmt.low8 w).extractLsb' 0 4 == 0#4) (.mldb (Fmt.d w) (Fmt.a w) (Fmt.b w) ((Fmt.low8 w).extractLsb' 4 1))
  | 2 => accept ((Fmt.low8 w).extractLsb' 5 2 == 0#2 && (Fmt.low8 w).extractLsb' 0 4 == 0#4) (.mstd (Fmt.d w) (Fmt.a w) (Fmt.b w) ((Fmt.low8 w).extractLsb' 7 1) ((Fmt.low8 w).extractLsb' 4 1))
  | _ => .error .function

/-- Major 0x22 by its op field (R77 to R82). -/
def decodeMDense (w : BitVec 32) : Except Illegal Instr :=
  match (Fmt.ty w).toNat with
  | 0 => accept (Fmt.b w == 0#5 && (Fmt.low8 w).extractLsb' 0 2 == 0#2) (.mma (Fmt.d w) (Fmt.a w) ((Fmt.low8 w).extractLsb' 7 1) ((Fmt.low8 w).extractLsb' 6 1) ((Fmt.low8 w).extractLsb' 5 1) ((Fmt.low8 w).extractLsb' 2 3))
  | 1 => accept (Fmt.b w == 0#5 && (Fmt.low8 w).extractLsb' 0 2 == 0#2) (.mcb (Fmt.d w) (Fmt.a w) ((Fmt.low8 w).extractLsb' 7 1) ((Fmt.low8 w).extractLsb' 6 1) ((Fmt.low8 w).extractLsb' 5 1) ((Fmt.low8 w).extractLsb' 2 3))
  | _ => .error .function

/-- Major 0x23 by its op field (R77 to R82). -/
def decodeMMx (w : BitVec 32) : Except Illegal Instr :=
  match (Fmt.ty w).toNat with
  | 0 => accept (Fmt.d w == 0#5 && Fmt.b w == 0#5) (.mmx (Fmt.a w) ((Fmt.low8 w).extractLsb' 7 1) ((Fmt.low8 w).extractLsb' 6 1) ((Fmt.low8 w).extractLsb' 3 3) ((Fmt.low8 w).extractLsb' 0 3))
  | 1 => accept (Fmt.b w == 0#5) (.msca (Fmt.d w) (Fmt.a w) ((Fmt.low8 w).extractLsb' 7 1) ((Fmt.low8 w).extractLsb' 6 1) ((Fmt.low8 w).extractLsb' 3 3) ((Fmt.low8 w).extractLsb' 0 3))
  | _ => .error .function

/-- Major 0x24 by its op field (R77 to R82). -/
def decodeQueue (w : BitVec 32) : Except Illegal Instr :=
  match (Fmt.op w).toNat with
  | 0 => accept (Fmt.d w == 0#5 && (Fmt.b w).extractLsb' 3 2 == 0#2) (.qpush (Fmt.a w) ((Fmt.b w).extractLsb' 0 3) (Fmt.md w))
  | 1 =>
    if Fmt.a w == 0#5 && (Fmt.b w).extractLsb' 3 2 == 0#2 && Fmt.md w == 0#6 then accept true (.qpop (Fmt.d w) ((Fmt.b w).extractLsb' 0 3))
    else if Fmt.a w == 0#5 && (Fmt.b w).extractLsb' 2 3 == 2#3 && Fmt.md w == 0#6 then accept true (.qpopAq (Fmt.d w) ((Fmt.b w).extractLsb' 0 2))
    else .error .function
  | 2 =>
    if Fmt.a w == 0#5 && (Fmt.b w).extractLsb' 3 2 == 0#2 && Fmt.md w == 0#6 then accept true (.qtry (Fmt.d w) ((Fmt.b w).extractLsb' 0 3))
    else if Fmt.a w == 0#5 && (Fmt.b w).extractLsb' 2 3 == 2#3 && Fmt.md w == 0#6 then accept true (.qtryAq (Fmt.d w) ((Fmt.b w).extractLsb' 0 2))
    else .error .function
  | 3 => accept ((Fmt.b w).extractLsb' 3 2 == 0#2) (.qputt (Fmt.d w) (Fmt.a w) ((Fmt.b w).extractLsb' 0 3) (Fmt.md w))
  | 4 =>
    if Fmt.a w == 0#5 && (Fmt.b w).extractLsb' 3 2 == 0#2 && Fmt.md w == 0#6 then accept true (.qdepth (Fmt.d w) ((Fmt.b w).extractLsb' 0 3))
    else if Fmt.a w == 0#5 && (Fmt.b w).extractLsb' 2 3 == 2#3 && Fmt.md w == 0#6 then accept true (.qdepthAq (Fmt.d w) ((Fmt.b w).extractLsb' 0 2))
    else .error .function
  | _ => .error .function

/-- Major 0x25 by its op field (R77 to R82). -/
def decodeMessage (w : BitVec 32) : Except Illegal Instr :=
  match (Fmt.op w).toNat with
  | 0 => accept (Fmt.d w == 0#5 && Fmt.md w == 0#6) (.send (Fmt.a w) (Fmt.b w))
  | 1 => accept (Fmt.md w == 0#6) (.sendt (Fmt.d w) (Fmt.a w) (Fmt.b w))
  | 2 => accept (Fmt.a w == 0#5 && Fmt.b w == 0#5 && (Fmt.md w).extractLsb' 2 4 == 0#4) (.recv (Fmt.d w) ((Fmt.md w).extractLsb' 0 2))
  | 3 => accept (Fmt.a w == 0#5 && Fmt.b w == 0#5 && (Fmt.md w).extractLsb' 2 4 == 0#4) (.recvt (Fmt.d w) ((Fmt.md w).extractLsb' 0 2))
  | 4 => accept (Fmt.d w == 0#5 && Fmt.a w == 0#5 && Fmt.b w == 0#5 && Fmt.md w == 0#6) (.hret)
  | _ => .error .function

/-- Major 0x26 by its op field (R77 to R82). -/
def decodeGust (w : BitVec 32) : Except Illegal Instr :=
  match (Fmt.op w).toNat with
  | 0 => accept (Fmt.d w == 0#5 && Fmt.b w == 0#5 && Fmt.md w == 0#6) (.gust (Fmt.a w))
  | 1 => accept (Fmt.d w == 0#5 && Fmt.b w == 0#5 && Fmt.md w == 0#6) (.gspawn (Fmt.a w))
  | _ => .error .function

/-- Major 0x27 by its op field (R77 to R82). -/
def decodeRep (w : BitVec 32) : Except Illegal Instr :=
  match (Fmt.op w).toNat with
  | 0 => accept (Fmt.d w == 0#5 && Fmt.a w == 0#5 && Fmt.b w == 0#5 && (Fmt.md w).extractLsb' 5 1 == 0#1) (.repb ((Fmt.md w).extractLsb' 0 5))
  | 1 => accept (Fmt.d w == 0#5 && Fmt.b w == 0#5 && (Fmt.md w).extractLsb' 5 1 == 0#1) (.repe (Fmt.a w) ((Fmt.md w).extractLsb' 0 5))
  | 2 => accept (Fmt.d w == 0#5 && Fmt.a w == 0#5 && Fmt.b w == 0#5 && Fmt.md w == 0#6) (.repwait)
  | _ => .error .function

/-- Major 0x28 by its op field (R77 to R82). -/
def decodeCopy (w : BitVec 32) : Except Illegal Instr :=
  match (Fmt.op w).toNat with
  | 0 => accept (true) (.cpy (Fmt.d w) (Fmt.a w) (Fmt.b w) ((Fmt.md w).extractLsb' 4 2) ((Fmt.md w).extractLsb' 2 2) ((Fmt.md w).extractLsb' 0 2))
  | 1 => accept (true) (.cpy2d (Fmt.d w) (Fmt.a w) (Fmt.b w) ((Fmt.md w).extractLsb' 4 2) ((Fmt.md w).extractLsb' 2 2) ((Fmt.md w).extractLsb' 0 2))
  | 2 => accept (true) (.cpyn (Fmt.d w) (Fmt.a w) (Fmt.b w) ((Fmt.md w).extractLsb' 4 2) ((Fmt.md w).extractLsb' 2 2) ((Fmt.md w).extractLsb' 0 2))
  | 3 => accept (Fmt.d w == 0#5 && Fmt.a w == 0#5 && Fmt.b w == 0#5 && (Fmt.md w).extractLsb' 0 4 == 0#4) (.batch ((Fmt.md w).extractLsb' 4 2))
  | _ => .error .function

/-- Major 0x29 by its op field (R77 to R82). -/
def decodeColl (w : BitVec 32) : Except Illegal Instr :=
  match (Fmt.op w).toNat with
  | 0 => accept ((Fmt.md w).extractLsb' 3 3 == 0#3) (.coll (Fmt.d w) (Fmt.a w) (Fmt.b w) ((Fmt.md w).extractLsb' 0 3))
  | 1 => accept ((Fmt.md w).extractLsb' 2 4 == 0#4) (.hashc (Fmt.d w) (Fmt.a w) (Fmt.b w) ((Fmt.md w).extractLsb' 0 2))
  | 2 => accept (Fmt.b w == 0#5 && (Fmt.md w).extractLsb' 2 4 == 0#4) (.signc (Fmt.d w) (Fmt.a w) ((Fmt.md w).extractLsb' 0 2))
  | 3 => accept (Fmt.a w == 0#5 && Fmt.b w == 0#5 && Fmt.md w == 0#6) (.rndg (Fmt.d w))
  | _ => .error .function

/-- Major 0x2a by its op field (R77 to R82). -/
def decodeCounter (w : BitVec 32) : Except Illegal Instr :=
  match (Fmt.op w).toNat with
  | 0 => accept (Fmt.d w == 0#5 && Fmt.b w == 0#5 && (Fmt.md w).extractLsb' 5 1 == 0#1) (.tlwait (Fmt.a w) ((Fmt.md w).extractLsb' 0 5))
  | 1 => accept (Fmt.d w == 0#5 && Fmt.a w == 0#5 && (Fmt.md w).extractLsb' 5 1 == 0#1) (.tlwaitb (Fmt.b w) ((Fmt.md w).extractLsb' 0 5))
  | 2 => accept (Fmt.a w == 0#5 && Fmt.b w == 0#5) (.tlread (Fmt.d w) ((Fmt.md w).extractLsb' 5 1) ((Fmt.md w).extractLsb' 0 5))
  | 3 => accept (Fmt.md w == 0#6) (.cntwait (Fmt.d w) (Fmt.a w) (Fmt.b w))
  | 4 => accept (Fmt.d w == 0#5 && Fmt.b w == 0#5 && (Fmt.md w).extractLsb' 3 3 == 0#3) (.cancel (Fmt.a w) ((Fmt.md w).extractLsb' 0 3))
  | 5 => accept (Fmt.a w == 0#5 && Fmt.b w == 0#5 && Fmt.md w == 0#6) (.phadv (Fmt.d w))
  | 6 => accept (Fmt.b w == 0#5 && Fmt.md w == 0#6) (.phread (Fmt.d w) (Fmt.a w))
  | 7 => accept ((Fmt.md w).extractLsb' 2 4 == 0#4) (.pcnt (Fmt.d w) (Fmt.a w) (Fmt.b w) ((Fmt.md w).extractLsb' 0 2))
  | _ => .error .function

/-- Major 0x2b by its op field (R77 to R82). -/
def decodeLaunch (w : BitVec 32) : Except Illegal Instr :=
  match (Fmt.op w).toNat with
  | 0 => accept (Fmt.b w == 0#5 && Fmt.md w == 0#6) (.launch (Fmt.d w) (Fmt.a w))
  | _ => .error .function

/-- Major 0x2c by its op field (R77 to R82). -/
def decodeTable (w : BitVec 32) : Except Illegal Instr :=
  match (Fmt.op w).toNat with
  | 0 => accept (Fmt.d w == 0#5 && Fmt.b w == 0#5 && (Fmt.md w).extractLsb' 3 3 == 0#3) (.cbload (Fmt.a w) ((Fmt.md w).extractLsb' 0 3))
  | 1 => accept (Fmt.d w == 0#5 && Fmt.md w == 0#6) (.htset (Fmt.a w) (Fmt.b w))
  | 2 => accept (Fmt.b w == 0#5 && (Fmt.md w).extractLsb' 3 3 == 0#3) (.epreq (Fmt.d w) (Fmt.a w) ((Fmt.md w).extractLsb' 0 3))
  | 3 => accept (Fmt.d w == 0#5 && Fmt.md w == 0#6) (.ownset (Fmt.a w) (Fmt.b w))
  | 4 => accept ((Fmt.md w).extractLsb' 3 3 == 0#3) (.cmap (Fmt.d w) (Fmt.a w) (Fmt.b w) ((Fmt.md w).extractLsb' 2 1) ((Fmt.md w).extractLsb' 0 2))
  | 5 => accept (Fmt.d w == 0#5 && Fmt.md w == 0#6) (.urtset (Fmt.a w) (Fmt.b w))
  | 6 => accept (Fmt.d w == 0#5 && (Fmt.md w).extractLsb' 1 5 == 0#5) (.schset (Fmt.a w) (Fmt.b w) ((Fmt.md w).extractLsb' 0 1))
  | 7 => accept (Fmt.a w == 0#5 && Fmt.b w == 0#5 && Fmt.md w == 0#6) (.seqnew (Fmt.d w))
  | 8 => accept (Fmt.d w == 0#5 && Fmt.b w == 0#5 && Fmt.md w == 0#6) (.seqend (Fmt.a w))
  | 9 => accept (Fmt.d w == 0#5 && (Fmt.md w).extractLsb' 4 2 == 0#2) (.mext (Fmt.a w) (Fmt.b w) ((Fmt.md w).extractLsb' 3 1) ((Fmt.md w).extractLsb' 0 3))
  | _ => .error .function

/-- Major 0x3C: the hints of R89; every other code is a hint that does nothing. -/
def decodeHint (w : BitVec 32) : Except Illegal Instr :=
  match (Fmt.d w).toNat with
  | 0 => .ok (.halign (Fmt.a w) (Fmt.imm16 w))
  | 1 => .ok (.hpref (Fmt.a w) (Fmt.imm16 w))
  | 2 => .ok (.hevict (Fmt.a w) (Fmt.imm16 w))
  | 3 => .ok (.hprio (Fmt.a w) (Fmt.imm16 w))
  | 4 => .ok (.hlikely (Fmt.a w) (Fmt.imm16 w))
  | _ => .ok (.notAnInstructionWord w)

/-- The instruction of a word, by its major opcode (R76), or the fate that makes it none (R88). -/
def decodeWord (w : BitVec 32) : Except Illegal Instr :=
  if w == 0#32 then .error .zeroWord
  else if w == BitVec.allOnes 32 then .error .onesWord
  else match (Fmt.major w).toNat with
    | 0 => decodeSystem w
    | 1 => decodeInt w
    | 2 => accept (true) (.addi (Fmt.d w) (Fmt.a w) (Fmt.imm16 w))
    | 3 => accept (true) (.andi (Fmt.d w) (Fmt.a w) (Fmt.imm16 w))
    | 4 => accept (true) (.ori (Fmt.d w) (Fmt.a w) (Fmt.imm16 w))
    | 5 => accept (true) (.xori (Fmt.d w) (Fmt.a w) (Fmt.imm16 w))
    | 6 => decodeShift w
    | 7 => accept (true) (.cmpeqi (Fmt.d w) (Fmt.a w) (Fmt.imm16 w))
    | 8 => accept (true) (.cmplti (Fmt.d w) (Fmt.a w) (Fmt.imm16 w))
    | 9 => decodeHigh w
    | 10 => decodeMulDiv w
    | 11 => decodeFloat w
    | 12 => decodeEqual w
    | 13 => accept (true) (.blt (Fmt.d w) (Fmt.a w) (Fmt.imm16 w))
    | 14 => accept (true) (.bge (Fmt.d w) (Fmt.a w) (Fmt.imm16 w))
    | 15 => decodeBranchU w
    | 16 => accept (true) (.j (Fmt.off26 w))
    | 17 => accept (true) (.call (Fmt.off26 w))
    | 18 => decodeLoad w
    | 19 => decodeStore w
    | 20 => decodeAtomic w
    | 21 => decodeFence w
    | 22 => decodeVMem w
    | 23 => accept ((Fmt.off26 w).extractLsb' 14 12 == 0#12) (.mod ((Fmt.off26 w).extractLsb' 10 4) ((Fmt.off26 w).extractLsb' 8 2) ((Fmt.off26 w).extractLsb' 6 2) ((Fmt.off26 w).extractLsb' 3 3) ((Fmt.off26 w).extractLsb' 0 3))
    | 24 => accept (true) (.ext (Fmt.off26 w))
    | 25 => decodeVFloat w
    | 26 => decodeVConv w
    | 27 => decodeVInt w
    | 28 => decodeVLogic w
    | 29 => decodeVPerm w
    | 30 => decodeLink w
    | 31 => decodeCompose w
    | 32 => decodeMCtl w
    | 33 => decodeMMem w
    | 34 => decodeMDense w
    | 35 => decodeMMx w
    | 36 => decodeQueue w
    | 37 => decodeMessage w
    | 38 => decodeGust w
    | 39 => decodeRep w
    | 40 => decodeCopy w
    | 41 => decodeColl w
    | 42 => decodeCounter w
    | 43 => decodeLaunch w
    | 44 => decodeTable w
    | 60 => decodeHint w
    | 61 => .ok (.notAnInstructionWord w)
    | 62 => .ok (.notAnInstructionWord w)
    | 63 => .ok (.notAnInstructionWord w)
    | _ => .error .reservedMajor

/-- The word that four bytes hold, the first at the lowest address (R4, R72). -/
def wordOfBytes (b0 b1 b2 b3 : Byte) : BitVec 32 := b3 ++ b2 ++ b1 ++ b0

/-- The four bytes of a word, the first at the lowest address. -/
def bytesOfWord (w : BitVec 32) : List Byte :=
  [w.extractLsb' 0 8, w.extractLsb' 8 8, w.extractLsb' 16 8, w.extractLsb' 24 8]

/-- Decoding of any bytes: the instruction of the first word and the bytes after it. -/
def decode : List Byte → Except Illegal (Instr × List Byte)
  | b0 :: b1 :: b2 :: b3 :: rest =>
    match decodeWord (wordOfBytes b0 b1 b2 b3) with
    | .ok i => .ok (i, rest)
    | .error e => .error e
  | _ => .error .truncated

/-- What the decoder reads from a table row's bits (bit 0 the least significant of the only word), laid out as stored. -/
def decodeTableWord (_nbits w : Nat) : Option Instr :=
  match decode (bytesOfWord (BitVec.ofNat 32 w)) with
  | .ok (i, _) => some i
  | .error _ => none

/-! ### The encoder (R74) -/

namespace Fmt

/-- Format RR. -/
def encRR (mj : BitVec 6) (d a b : Reg) (op : BitVec 5) (md : BitVec 6) : BitVec 32 := mj ++ d ++ a ++ b ++ op ++ md
/-- Formats RI, B and H. -/
def encRI (mj : BitVec 6) (d a : Reg) (i : BitVec 16) : BitVec 32 := mj ++ d ++ a ++ i
/-- Formats S and BU. -/
def encS (mj : BitVec 6) (d a : Reg) (op : BitVec 5) (i : BitVec 11) : BitVec 32 := mj ++ d ++ a ++ op ++ i
/-- Format LS. -/
def encLS (mj : BitVec 6) (d a : Reg) (k : BitVec 3) (o : BitVec 13) : BitVec 32 := mj ++ d ++ a ++ k ++ o
/-- Formats J, X and P. -/
def encJ (mj : BitVec 6) (o : BitVec 26) : BitVec 32 := mj ++ o
/-- Format V. -/
def encV (mj : BitVec 6) (d a b : Reg) (t o : BitVec 3) (s : BitVec 4) (x : BitVec 1) : BitVec 32 :=
  mj ++ d ++ a ++ b ++ t ++ o ++ s ++ x
/-- Format M. -/
def encM (mj : BitVec 6) (d a b : Reg) (o : BitVec 3) (l : BitVec 8) : BitVec 32 := mj ++ d ++ a ++ b ++ o ++ l

end Fmt

/-- The word of an instruction (R74 to R89). An event has none; the word of a hint that does nothing is itself. -/
def encode : Instr → BitVec 32
  | .srd d n => Fmt.encS 0#6 d 0#5 1#5 n
  | .swr a n => Fmt.encS 0#6 0#5 a 2#5 n
  | .trap c => Fmt.encS 0#6 0#5 0#5 3#5 c
  | .eret => Fmt.encS 0#6 0#5 0#5 4#5 0#11
  | .brk c => Fmt.encS 0#6 0#5 0#5 5#5 c
  | .wfm m => Fmt.encS 0#6 0#5 0#5 6#5 (0#7 ++ m)
  | .exit => Fmt.encS 0#6 0#5 0#5 7#5 0#11
  | .ckpt a c => Fmt.encS 0#6 0#5 a 8#5 (0#9 ++ c)
  | .tlbinv a k => Fmt.encS 0#6 0#5 a 9#5 k
  | .ctxsv s a p => Fmt.encS 0#6 s a 10#5 p
  | .ctxld s a p => Fmt.encS 0#6 s a 11#5 p
  | .add d a b => Fmt.encRR 1#6 d a b 0#5 0#6
  | .sub d a b => Fmt.encRR 1#6 d a b 1#5 0#6
  | .and d a b => Fmt.encRR 1#6 d a b 2#5 0#6
  | .or d a b => Fmt.encRR 1#6 d a b 3#5 0#6
  | .xor d a b => Fmt.encRR 1#6 d a b 4#5 0#6
  | .andn d a b => Fmt.encRR 1#6 d a b 5#5 0#6
  | .shl d a b => Fmt.encRR 1#6 d a b 6#5 0#6
  | .shr d a b => Fmt.encRR 1#6 d a b 7#5 0#6
  | .sra d a b => Fmt.encRR 1#6 d a b 8#5 0#6
  | .rot d a b => Fmt.encRR 1#6 d a b 9#5 0#6
  | .clz d a => Fmt.encRR 1#6 d a 0#5 10#5 0#6
  | .ctz d a => Fmt.encRR 1#6 d a 0#5 11#5 0#6
  | .popc d a => Fmt.encRR 1#6 d a 0#5 12#5 0#6
  | .min d a b => Fmt.encRR 1#6 d a b 13#5 0#6
  | .max d a b => Fmt.encRR 1#6 d a b 14#5 0#6
  | .minu d a b => Fmt.encRR 1#6 d a b 15#5 0#6
  | .maxu d a b => Fmt.encRR 1#6 d a b 16#5 0#6
  | .sel d a b => Fmt.encRR 1#6 d a b 17#5 0#6
  | .cmpeq d a b => Fmt.encRR 1#6 d a b 18#5 0#6
  | .cmplt d a b => Fmt.encRR 1#6 d a b 19#5 0#6
  | .cmpltu d a b => Fmt.encRR 1#6 d a b 20#5 0#6
  | .addi d a i => Fmt.encRI 2#6 d a i
  | .andi d a i => Fmt.encRI 3#6 d a i
  | .ori d a i => Fmt.encRI 4#6 d a i
  | .xori d a i => Fmt.encRI 5#6 d a i
  | .shli d a s => Fmt.encRI 6#6 d a (0#10 ++ s)
  | .shri d a s => Fmt.encRI 6#6 d a (4#10 ++ s)
  | .srai d a s => Fmt.encRI 6#6 d a (8#10 ++ s)
  | .cmpeqi d a i => Fmt.encRI 7#6 d a i
  | .cmplti d a i => Fmt.encRI 8#6 d a i
  | .movhi d i => Fmt.encRI 9#6 d 0#5 i
  | .addpc d i => Fmt.encRI 9#6 d 1#5 i
  | .mul d a b => Fmt.encRR 10#6 d a b 0#5 0#6
  | .mulh d a b => Fmt.encRR 10#6 d a b 1#5 0#6
  | .mulhu d a b => Fmt.encRR 10#6 d a b 2#5 0#6
  | .div d a b => Fmt.encRR 10#6 d a b 3#5 0#6
  | .divu d a b => Fmt.encRR 10#6 d a b 4#5 0#6
  | .rem d a b => Fmt.encRR 10#6 d a b 5#5 0#6
  | .remu d a b => Fmt.encRR 10#6 d a b 6#5 0#6
  | .fadd d a b => Fmt.encRR 11#6 d a b 0#5 0#6
  | .fsub d a b => Fmt.encRR 11#6 d a b 1#5 0#6
  | .fmul d a b => Fmt.encRR 11#6 d a b 2#5 0#6
  | .ffma d a b => Fmt.encRR 11#6 d a b 3#5 0#6
  | .fdiv d a b => Fmt.encRR 11#6 d a b 4#5 0#6
  | .fsqrt d a => Fmt.encRR 11#6 d a 0#5 5#5 0#6
  | .fmin d a b => Fmt.encRR 11#6 d a b 6#5 0#6
  | .fmax d a b => Fmt.encRR 11#6 d a b 7#5 0#6
  | .fcmp d a b p => Fmt.encRR 11#6 d a b 8#5 (0#4 ++ p)
  | .fcvtif d a m => Fmt.encRR 11#6 d a 0#5 9#5 (0#4 ++ m)
  | .fcvtfi d a m => Fmt.encRR 11#6 d a 0#5 10#5 (0#3 ++ m)
  | .beq a b o => Fmt.encRI 12#6 a b o
  | .bne a b o => Fmt.encRI 12#6 a b o
  | .jl s o => Fmt.encRI 12#6 s s o
  | .blt a b o => Fmt.encRI 13#6 a b o
  | .bge a b o => Fmt.encRI 14#6 a b o
  | .bltu a b o => Fmt.encS 15#6 a b 0#5 o
  | .bgeu a b o => Fmt.encS 15#6 a b 1#5 o
  | .jr a => Fmt.encS 15#6 a 0#5 2#5 0#11
  | .callr a => Fmt.encS 15#6 a 0#5 3#5 0#11
  | .ret => Fmt.encS 15#6 0#5 0#5 4#5 0#11
  | .j o => Fmt.encJ 16#6 o
  | .call o => Fmt.encJ 17#6 o
  | .ldb d a o => Fmt.encLS 18#6 d a 0#3 o
  | .ldbu d a o => Fmt.encLS 18#6 d a 1#3 o
  | .ldh d a o => Fmt.encLS 18#6 d a 2#3 o
  | .ldhu d a o => Fmt.encLS 18#6 d a 3#3 o
  | .ldw d a o => Fmt.encLS 18#6 d a 4#3 o
  | .ldwu d a o => Fmt.encLS 18#6 d a 5#3 o
  | .ldd d a o => Fmt.encLS 18#6 d a 6#3 o
  | .stb s a o => Fmt.encLS 19#6 s a 0#3 o
  | .sth s a o => Fmt.encLS 19#6 s a 1#3 o
  | .stw s a o => Fmt.encLS 19#6 s a 2#3 o
  | .std s a o => Fmt.encLS 19#6 s a 3#3 o
  | .amoadd d a b w => Fmt.encRR 20#6 d a b 0#5 (w ++ 0#5)
  | .amoand d a b w => Fmt.encRR 20#6 d a b 1#5 (w ++ 0#5)
  | .amoor d a b w => Fmt.encRR 20#6 d a b 2#5 (w ++ 0#5)
  | .amoxor d a b w => Fmt.encRR 20#6 d a b 3#5 (w ++ 0#5)
  | .amomin d a b w => Fmt.encRR 20#6 d a b 4#5 (w ++ 0#5)
  | .amomax d a b w => Fmt.encRR 20#6 d a b 5#5 (w ++ 0#5)
  | .amominu d a b w => Fmt.encRR 20#6 d a b 6#5 (w ++ 0#5)
  | .amomaxu d a b w => Fmt.encRR 20#6 d a b 7#5 (w ++ 0#5)
  | .amoswp d a b w => Fmt.encRR 20#6 d a b 8#5 (w ++ 0#5)
  | .amocas d a b w => Fmt.encRR 20#6 d a b 9#5 (w ++ 0#5)
  | .amofadd d a b => Fmt.encRR 20#6 d a b 10#5 32#6
  | .fence s c => Fmt.encRR 21#6 0#5 0#5 0#5 0#5 (s ++ c)
  | .waita d a b w => Fmt.encRR 21#6 d a b 1#5 (w ++ 0#5)
  | .flushr c a b => Fmt.encRR 21#6 c a b 2#5 0#6
  | .invr c a b => Fmt.encRR 21#6 c a b 3#5 0#6
  | .pref a i => Fmt.encRR 21#6 0#5 a 0#5 4#5 (0#4 ++ i)
  | .vld d a m k => Fmt.encV 22#6 d a 0#5 (0#2 ++ m) 0#3 (0#1 ++ k) 0#1
  | .vst d a m k => Fmt.encV 22#6 d a 0#5 (0#2 ++ m) 1#3 (0#1 ++ k) 0#1
  | .vlds d a s m k => Fmt.encV 22#6 d a s (0#2 ++ m) 2#3 (0#1 ++ k) 0#1
  | .vsts d a s m k => Fmt.encV 22#6 d a s (0#2 ++ m) 3#3 (0#1 ++ k) 0#1
  | .vgath d a b m k => Fmt.encV 22#6 d a b (0#2 ++ m) 4#3 (0#1 ++ k) 0#1
  | .vscat d a b m k => Fmt.encV 22#6 d a b (0#2 ++ m) 5#3 (0#1 ++ k) 0#1
  | .mod u p e s c => Fmt.encJ 23#6 (0#12 ++ u ++ p ++ e ++ s ++ c)
  | .ext e => Fmt.encJ 24#6 e
  | .vadd d a b t s x => Fmt.encV 25#6 d a b t 0#3 s x
  | .vsub d a b t s x => Fmt.encV 25#6 d a b t 1#3 s x
  | .vmul d a b t s x => Fmt.encV 25#6 d a b t 2#3 s x
  | .vfma d a b t s x => Fmt.encV 25#6 d a b t 3#3 s x
  | .vmin d a b t s x => Fmt.encV 25#6 d a b t 4#3 s x
  | .vmax d a b t s x => Fmt.encV 25#6 d a b t 5#3 s x
  | .vabs d a t s => Fmt.encV 25#6 d a 0#5 t 6#3 s 0#1
  | .vneg d a t s => Fmt.encV 25#6 d a 0#5 t 7#3 s 0#1
  | .vrcp d a => Fmt.encV 26#6 d a 0#5 0#3 0#3 0#4 0#1
  | .vrsq d a => Fmt.encV 26#6 d a 0#5 0#3 1#3 0#4 0#1
  | .vexp2 d a => Fmt.encV 26#6 d a 0#5 0#3 2#3 0#4 0#1
  | .vlog2 d a => Fmt.encV 26#6 d a 0#5 0#3 3#3 0#4 0#1
  | .vcvt d a t => Fmt.encV 26#6 d a 0#5 t 4#3 0#4 0#1
  | .vpack d a b t s => Fmt.encV 26#6 d a b t 5#3 s 0#1
  | .vunpack d a t s => Fmt.encV 26#6 d a 0#5 t 6#3 s 0#1
  | .vqnt d a t => Fmt.encV 26#6 d a 0#5 t 7#3 0#4 0#1
  | .viadd d a b t s x => Fmt.encV 27#6 d a b t 0#3 s x
  | .visub d a b t s x => Fmt.encV 27#6 d a b t 1#3 s x
  | .vimul d a b t s x => Fmt.encV 27#6 d a b t 2#3 s x
  | .vimac d a b t s x => Fmt.encV 27#6 d a b t 3#3 s x
  | .vshl d a b t s x => Fmt.encV 27#6 d a b t 4#3 s x
  | .vshr d a b t s x => Fmt.encV 27#6 d a b t 5#3 s x
  | .vsra d a b t s x => Fmt.encV 27#6 d a b t 6#3 s x
  | .vcmp k a b t => Fmt.encV 28#6 k a b t 0#3 0#4 0#1
  | .vsel d a b n => Fmt.encV 28#6 d a b 0#3 1#3 (0#1 ++ n) 0#1
  | .vand d a b => Fmt.encV 28#6 d a b 0#3 2#3 0#4 0#1
  | .vor d a b => Fmt.encV 28#6 d a b 0#3 3#3 0#4 0#1
  | .vxor d a b => Fmt.encV 28#6 d a b 0#3 4#3 0#4 0#1
  | .kand d a b => Fmt.encV 28#6 d a b 0#3 5#3 0#4 0#1
  | .kor d a b => Fmt.encV 28#6 d a b 1#3 5#3 0#4 0#1
  | .knot d a => Fmt.encV 28#6 d a 0#5 2#3 5#3 0#4 0#1
  | .kpopc d a => Fmt.encV 28#6 d a 0#5 3#3 5#3 0#4 0#1
  | .vgrant d a t => Fmt.encV 28#6 d a 0#5 t 6#3 0#4 0#1
  | .vredadd d a t => Fmt.encV 29#6 d a 0#5 t 0#3 0#4 0#1
  | .vredmax d a t => Fmt.encV 29#6 d a 0#5 t 1#3 0#4 0#1
  | .vredmin d a t => Fmt.encV 29#6 d a 0#5 t 2#3 0#4 0#1
  | .vperm d a b => Fmt.encV 29#6 d a b 0#3 3#3 0#4 0#1
  | .vslide d a s => Fmt.encV 29#6 d a s 0#3 4#3 0#4 0#1
  | .vbcast d s => Fmt.encV 29#6 d s 0#5 0#3 5#3 0#4 0#1
  | .vextr d a s => Fmt.encV 29#6 d a s 0#3 6#3 0#4 0#1
  | .vins d w s => Fmt.encV 29#6 d w s 0#3 7#3 0#4 0#1
  | .nput a n o => Fmt.encRR 30#6 0#5 a (0#2 ++ n) 0#5 o
  | .nget d n => Fmt.encRR 30#6 d 0#5 (0#2 ++ n) 1#5 0#6
  | .ntry d n => Fmt.encRR 30#6 d 0#5 (0#2 ++ n) 2#5 0#6
  | .ntryPut d a n o => Fmt.encRR 30#6 d a (2#2 ++ n) 2#5 o
  | .nclr n => Fmt.encRR 30#6 0#5 0#5 (0#2 ++ n) 3#5 0#6
  | .cmps k => Fmt.encRR 31#6 0#5 0#5 0#5 0#5 (0#4 ++ k)
  | .dcmp => Fmt.encRR 31#6 0#5 0#5 0#5 1#5 0#6
  | .mgang e => Fmt.encM 32#6 0#5 0#5 0#5 0#3 (0#7 ++ e)
  | .mwait m => Fmt.encM 32#6 0#5 0#5 0#5 1#3 m
  | .mzero p m => Fmt.encM 32#6 0#5 (0#4 ++ p) 0#5 2#3 m
  | .mmov v a p d h r => Fmt.encM 32#6 v a 0#5 3#3 (p ++ d ++ h ++ r)
  | .mlda d a b g h l => Fmt.encM 33#6 d a b 0#3 (g ++ h ++ 0#1 ++ l ++ 0#4)
  | .mldb d a b l => Fmt.encM 33#6 d a b 1#3 (0#3 ++ l ++ 0#4)
  | .mstd d a b p l => Fmt.encM 33#6 d a b 2#3 (p ++ 0#2 ++ l ++ 0#4)
  | .mma d a g h z f => Fmt.encM 34#6 d a 0#5 0#3 (g ++ h ++ z ++ f ++ 0#2)
  | .mcb d a g h z s => Fmt.encM 34#6 d a 0#5 1#3 (g ++ h ++ z ++ s ++ 0#2)
  | .mmx a g h f p => Fmt.encM 35#6 0#5 a 0#5 0#3 (g ++ h ++ f ++ p)
  | .msca d a g h f p => Fmt.encM 35#6 d a 0#5 1#3 (g ++ h ++ f ++ p)
  | .qpush a q o => Fmt.encRR 36#6 0#5 a (0#2 ++ q) 0#5 o
  | .qpop d q => Fmt.encRR 36#6 d 0#5 (0#2 ++ q) 1#5 0#6
  | .qpopAq d n => Fmt.encRR 36#6 d 0#5 (2#3 ++ n) 1#5 0#6
  | .qtry d q => Fmt.encRR 36#6 d 0#5 (0#2 ++ q) 2#5 0#6
  | .qtryAq d n => Fmt.encRR 36#6 d 0#5 (2#3 ++ n) 2#5 0#6
  | .qputt d a q o => Fmt.encRR 36#6 d a (0#2 ++ q) 3#5 o
  | .qdepth d q => Fmt.encRR 36#6 d 0#5 (0#2 ++ q) 4#5 0#6
  | .qdepthAq d n => Fmt.encRR 36#6 d 0#5 (2#3 ++ n) 4#5 0#6
  | .send a b => Fmt.encRR 37#6 0#5 a b 0#5 0#6
  | .sendt d a b => Fmt.encRR 37#6 d a b 1#5 0#6
  | .recv d n => Fmt.encRR 37#6 d 0#5 0#5 2#5 (0#4 ++ n)
  | .recvt d n => Fmt.encRR 37#6 d 0#5 0#5 3#5 (0#4 ++ n)
  | .hret => Fmt.encRR 37#6 0#5 0#5 0#5 4#5 0#6
  | .gust a => Fmt.encRR 38#6 0#5 a 0#5 0#5 0#6
  | .gspawn a => Fmt.encRR 38#6 0#5 a 0#5 1#5 0#6
  | .repb n => Fmt.encRR 39#6 0#5 0#5 0#5 0#5 (0#1 ++ n)
  | .repe a s => Fmt.encRR 39#6 0#5 a 0#5 1#5 (0#1 ++ s)
  | .repwait => Fmt.encRR 39#6 0#5 0#5 0#5 2#5 0#6
  | .cpy d a b c s e => Fmt.encRR 40#6 d a b 0#5 (c ++ s ++ e)
  | .cpy2d d a b c s e => Fmt.encRR 40#6 d a b 1#5 (c ++ s ++ e)
  | .cpyn d a b c s e => Fmt.encRR 40#6 d a b 2#5 (c ++ s ++ e)
  | .batch c => Fmt.encRR 40#6 0#5 0#5 0#5 3#5 (c ++ 0#4)
  | .coll d a b c => Fmt.encRR 41#6 d a b 0#5 (0#3 ++ c)
  | .hashc d a b m => Fmt.encRR 41#6 d a b 1#5 (0#4 ++ m)
  | .signc d a o => Fmt.encRR 41#6 d a 0#5 2#5 (0#4 ++ o)
  | .rndg d => Fmt.encRR 41#6 d 0#5 0#5 3#5 0#6
  | .tlwait a t => Fmt.encRR 42#6 0#5 a 0#5 0#5 (0#1 ++ t)
  | .tlwaitb n t => Fmt.encRR 42#6 0#5 0#5 n 1#5 (0#1 ++ t)
  | .tlread d i t => Fmt.encRR 42#6 d 0#5 0#5 2#5 (i ++ t)
  | .cntwait d a b => Fmt.encRR 42#6 d a b 3#5 0#6
  | .cancel a l => Fmt.encRR 42#6 0#5 a 0#5 4#5 (0#3 ++ l)
  | .phadv d => Fmt.encRR 42#6 d 0#5 0#5 5#5 0#6
  | .phread d a => Fmt.encRR 42#6 d a 0#5 6#5 0#6
  | .pcnt d a b f => Fmt.encRR 42#6 d a b 7#5 (0#4 ++ f)
  | .launch d a => Fmt.encRR 43#6 d a 0#5 0#5 0#6
  | .cbload a s => Fmt.encRR 44#6 0#5 a 0#5 0#5 (0#3 ++ s)
  | .htset a b => Fmt.encRR 44#6 0#5 a b 1#5 0#6
  | .epreq d a f => Fmt.encRR 44#6 d a 0#5 2#5 (0#3 ++ f)
  | .ownset a b => Fmt.encRR 44#6 0#5 a b 3#5 0#6
  | .cmap d a b h f => Fmt.encRR 44#6 d a b 4#5 (0#3 ++ h ++ f)
  | .urtset a b => Fmt.encRR 44#6 0#5 a b 5#5 0#6
  | .schset a b f => Fmt.encRR 44#6 0#5 a b 6#5 (0#5 ++ f)
  | .seqnew d => Fmt.encRR 44#6 d 0#5 0#5 7#5 0#6
  | .seqend a => Fmt.encRR 44#6 0#5 a 0#5 8#5 0#6
  | .mext a b x n => Fmt.encRR 44#6 0#5 a b 9#5 (0#2 ++ x ++ n)
  | .halign r i => Fmt.encRI 60#6 0#5 r i
  | .hpref a i => Fmt.encRI 60#6 1#5 a i
  | .hevict r i => Fmt.encRI 60#6 2#5 r i
  | .hprio r i => Fmt.encRI 60#6 3#5 r i
  | .hlikely r i => Fmt.encRI 60#6 4#5 r i
  | .notAnInstructionWord w => w
  | .asyncCauseTaken => 0#32
  | .waitSatisfied => 0#32
  | .faultReply => 0#32
  | .slotFill => 0#32
  | .gale => 0#32
  | .messageArrival => 0#32
  | .gustArrival => 0#32
  | .linkLanding => 0#32
  | .queuePushLanding => 0#32
  | .claspRelease => 0#32
  | .gangTimeout => 0#32
  | .halignTimeout => 0#32
  | .matrixZeroingDone => 0#32
  | .matrixOpComplete => 0#32
  | .dataStageComplete => 0#32
  | .lockstepMismatch => 0#32
  | .bankRetention => 0#32
  | .copyCommandComplete => 0#32
  | .collComplete => 0#32
  | .bezelEngineComplete => 0#32
  | .rangeWalkComplete => 0#32
  | .instanceCompletion => 0#32
  | .nodeDispatch => 0#32
  | .tailWatch => 0#32
  | .nopCommand => 0#32
  | .launchCommand => 0#32
  | .graph => 0#32
  | .waitcnt => 0#32
  | .signal => 0#32
  | .phaseCommand => 0#32
  | .cancelCommand => 0#32
  | .tick => 0#32
  | .preempt => 0#32
  | .gphasePublish => 0#32
  | .drds => 0#32
  | .drdx => 0#32
  | .dupg => 0#32
  | .dwb => 0#32
  | .devict => 0#32
  | .dfwds => 0#32
  | .dfwdx => 0#32
  | .dinv => 0#32
  | .drsp => 0#32
  | .dcomp => 0#32
  | .ddone => 0#32
  | .ddata => 0#32
  | .snpShared => 0#32
  | .snpInv => 0#32
  | .inval => 0#32
  | .shootdownComplete => 0#32
  | .wbAck => 0#32
  | .cmp => 0#32
  | .atomicRsp => 0#32
  | .data => 0#32
  | .hostlinkFail => 0#32
  | .hostModuleFailover => 0#32
  | .d2dFail => 0#32
  | .meshUe => 0#32
  | .sramUe => 0#32
  | .accUe => 0#32
  | .paccUe => 0#32
  | .wbufUe => 0#32
  | .abufParity => 0#32
  | .cbParity => 0#32
  | .rowBusCrc => 0#32
  | .claspFault => 0#32
  | .regParity => 0#32
  | .rowSwitch => 0#32
  | .keySweepComplete => 0#32
  | .register => 0#32
  | .teardown => 0#32
  | .freeze => 0#32
  | .drainComplete => 0#32
  | .resume => 0#32
  | .spanRegion => 0#32
  | .fwUpdate => 0#32
  | .spanJoin => 0#32
  | .faultq => 0#32
  | .sidebandRegisterWrite => 0#32
  | .powerOn => 0#32
  | .reset => 0#32
  | .powerOff => 0#32
  | .powerMeasure => 0#32
  | .thermalTrip => 0#32
  | .rowGate => 0#32
  | .dieRetentionEntry => 0#32
  | .dieRetentionExit => 0#32
  | .alarm => 0#32
  | .getVersion => 0#32
  | .getCapabilities => 0#32
  | .negotiateAlgorithms => 0#32
  | .getDigests => 0#32
  | .getCertificate => 0#32
  | .challenge => 0#32
  | .getMeasurements => 0#32
  | .keyExchange => 0#32
  | .finish => 0#32
  | .endSession => 0#32
  | .lockInterface => 0#32
  | .channelOpen => 0#32
  | .channelRecord => 0#32
  | .idcode => 0#32
  | .auth => 0#32
  | .dbgReq => 0#32
  | .frostEnter => 0#32
  | .scanSelect => 0#32
  | .scanRead => 0#32
  | .bypass => 0#32
  | .spanFlit => 0#32
  | .spanRetrain => 0#32
  | .pageReq => 0#32
  | .spanAtomic => 0#32
  | .spanLinkTimeout => 0#32
  | .hostErrorAnswer => 0#32
  | .hostProtocolError => 0#32
  | .unknownManagementOp => 0#32
  | .unsupportedRequest => 0#32
  | .spanLinkRecovered => 0#32
  | .correctedError => 0#32

/-- The bytes of an instruction as the I-store holds them. -/
def encodeBytes (i : Instr) : List Byte := bytesOfWord (encode i)

end Sys2Proof
end

