-- ==== Sys2Proof/Machine/Fetch.lean ====
section
/-!
DEFINITION. Fetching a word, the fates of words that are no instruction (R88), and the prefixes MOD and EXT (R84 to R86).
-/

namespace Sys2Proof.Machine

/-- The cause of a word that is no instruction (R88). -/
def illegalCause : Illegal → Cause
  | .zeroWord => .illZeroWord
  | .onesWord => .illOnesWord
  | .reservedMajor => .illReservedMajor
  | .function => .illFunction
  | .truncated => .badTarget

/-- Whether a word is a prefix: MOD or EXT. -/
def isPrefixWord (w : BitVec 32) : Bool := w.extractLsb' 26 6 == 0x17#6 || w.extractLsb' 26 6 == 0x18#6

/-- The place of a cause in the order of R88 among the faults of one group. -/
def groupOrder : Cause → Nat
  | .illZeroWord => 0
  | .illOnesWord => 0
  | .illReservedMajor => 1
  | .illFunction => 2
  | _ => 3

/-- Of two faults of a group the one that R88 reports. -/
def worseFault (a b : Cause) : Cause := if groupOrder b < groupOrder a then b else a

/-- Whether an instruction, of word `w`, is one on core `c`: some are only on some kinds of core or for some values of their fields,
and are ILL_FUNCTION elsewhere (R83, R88). -/
def legalOn (c : Nat) (w : BitVec 32) : Instr → Bool
  | .hashc .. => coreKind c == .bezel
  | .signc .. => coreKind c == .bezel
  | .rndg .. => coreKind c == .bezel
  | .mext .. => coreKind c == .bezel
  | .ctxsv _ _ p => partOn (coreKind c) p.toNat
  | .ctxld _ _ p => partOn (coreKind c) p.toNat
  | .cpy _ _ _ n _ _ => decide (n.toNat < copyContexts c)
  | .cpy2d _ _ _ n _ _ => decide (n.toNat < copyContexts c)
  | .cpyn _ _ _ n _ _ => decide (n.toNat < copyContexts c)
  | .batch n => decide (n.toNat < copyContexts c)
  | .tlwait _ t => timelineOn (coreKind c) t.toNat
  | .tlwaitb _ t => timelineOn (coreKind c) t.toNat
  | .tlread _ _ t => timelineOn (coreKind c) t.toNat
  | .cmps _ => coreKind c == .score
  | .repb _ => coreKind c == .mcore
  | .repe _ _ => coreKind c == .mcore
  | .repwait => coreKind c == .mcore
  | .cbload _ _ => coreKind c == .mcore
  | .wfm m => m != 0
  | .vgrant _ a t => t != 5 || a == 0
  | _ =>
    let major := (w.extractLsb' 26 6).toNat
    !(decide (0x20 ≤ major) && decide (major ≤ 0x23)) || coreKind c == .mcore

namespace State

/-- The word at an I-store address of the core whose word executes: the newest at once, although R32 lets a fetch return the old word
until the next gale (DESIGN CHOICE, log 56). -/
def wordAt (s : State) (pc : Nat) : BitVec 32 := BitVec.ofNat 32 (s.num (istoreCell (istoreUnit s.cur.1) pc) 4)

/-- The word of the group that executes at an address: of the captured body where the sequencer issues it (R290), else of the I-store; none
past its end. -/
def groupWord (s : State) (pc : Nat) : Option (BitVec 32) :=
  if s.u.rep.stream.isSome then s.u.rep.body[(BitVec.ofNat 64 pc - s.u.rep.base).toNat / 4]?
  else if pc ≥ istoreSize s.cur.1 then none else some (s.wordAt pc)

/-- The fault that a group reports which already has fault `f` in a prefix, with the words from `pc` on looked at through its
target (R88). -/
def groupFault (s : State) : (fuel pc : Nat) → (f : Cause) → Cause
  | 0, _, f => f
  | n + 1, pc, f =>
    match s.groupWord pc with
    | none => f
    | some w =>
      let f := match decodeWord w with
        | .error e => worseFault f (illegalCause e)
        | .ok i => if legalOn s.cur.1 w i then f else worseFault f .illFunction
      if isPrefixWord w then groupFault s n (pc + 4) f else f

/-- A prefix taken: the next word follows in the same group; a prefix out of order or in the last word is ILL_PREFIX (R86). -/
def takePrefix (s : State) (inOrder : Bool) (f : Prefix → Prefix) : State :=
  let p := s.slot.pre.getD { mod := none, ext := none, start := s.pc }
  let size := istoreSize s.cur.1
  if !inOrder || (s.groupWord (s.pc.toNat + 4)).isNone then
    s.trap (s.groupFault (size / 4) (s.pc.toNat + 4) .illPrefix) 0 0 0
  else
    let s := s.setSlot { s.slot with pre := some (f p) }
    s.setPc (s.pc + 4)

/-- A word that is no instruction: an unassigned hint does nothing; any other word traps with its cause (R88), and a malformed
prefix gives way to a worse fault of its group. -/
def wordFate (s : State) (w : BitVec 32) : State :=
  match decodeWord w with
  | .ok _ => if s.prefixFits false false then s.retire else s.trap .illPrefix 0 0 0
  | .error e =>
    let c := illegalCause e
    if isPrefixWord w then s.trap (s.groupFault (istoreSize s.cur.1 / 4) (s.pc.toNat + 4) c) 0 0 0 else s.trap c 0 0 0

/-- Sequential fetch past the last word of the I-store traps with EPC and EADDR at its size (R124). A pc beyond it, to which an ERET
has returned, traps the same way with EPC and EADDR at that pc (DESIGN CHOICE: no rule names a cause there; log 59). -/
def fetchPastEnd (s : State) : State := s.trap .badTarget 0 s.pc 0

end State

/-- MOD: attributes for the access that follows (R85). -/
def execMod (u : BitVec 4) (p : BitVec 2) (sp : BitVec 2) (sc : BitVec 3) (c : BitVec 3) (s : State) : Out :=
  .next (s.takePrefix s.slot.pre.isNone fun q => { q with mod := some (c, sc, sp, p, u) })

/-- EXT: 26 more bits for the immediate of the word that follows (R84). -/
def execExt (e : BitVec 26) (s : State) : Out :=
  .next (s.takePrefix ((s.slot.pre.map fun p => p.ext.isNone).getD true) fun q => { q with ext := some e })

/-- The fate of a word that is no instruction (R88). -/
def execNotAnInstructionWord (w : BitVec 32) (s : State) : Out := .next (s.wordFate w)

end Sys2Proof.Machine
end

