-- ==== Sys2Proof/Machine/Matrix.lean ====
section
/-!
DEFINITION. The matrix instructions (R168 to R193) and the sums of R62 to R70. An operation has its effect at issue and leaves
the queue at its completion event; the data stages of MLDA and MLDB have theirs at their completion (log 21).
-/

namespace Sys2Proof.Machine

/-! ### Sums (R62 to R68) -/

/-- The exact product of two values, NaN for 0 × ∞ (R63). -/
def productOf (x y : FVal) : FVal :=
  match x, y with
  | .nan _, _ => .nan false
  | _, .nan _ => .nan false
  | .inf a, y => if y.isZero then .nan false else .inf (a != y.neg)
  | x, .inf b => if x.isZero then .nan false else .inf (x.neg != b)
  | x, y => finMul x y

/-- Whether a value is an infinity of a sign. -/
def FVal.isInf (neg : Bool) : FVal → Bool
  | .inf n => n == neg
  | _ => false

/-- The exact sum of the products of a k-group, its zero signed as R63. -/
def groupSum (ps : List FVal) : FVal :=
  if ps.any FVal.isNan || (ps.any (FVal.isInf false) && ps.any (FVal.isInf true)) then .nan false
  else if ps.any (FVal.isInf false) then .inf false
  else if ps.any (FVal.isInf true) then .inf true
  else
    let (m, e) := dyadicSum (ps.map FVal.dyadic)
    if m = 0 then .fin (ps.all fun p => p.isZero && p.neg) 0 0 else .fin (decide (m < 0)) m.natAbs e

/-- An f32 pattern with an exact value added, one RNE (R62). -/
def accumulate (acc : Nat) (t : FVal) : Nat := (FArith.add .f32 .rne (FloatFormat.f32.read acc) t).1

/-- acc after the k-groups of a floating-point product: `a` and `b` give elements k. -/
def floatSum (group groups : Nat) (a b : Nat → FVal) (acc : Nat) : Nat :=
  (List.range groups).foldl (fun acc g =>
    accumulate acc (groupSum ((List.range group).map fun u => productOf (a (g * group + u)) (b (g * group + u))))) acc

/-- acc after an i8 product: exact sum, wrapped (R64). -/
def intSum (k : Nat) (a b : Nat → Int) (acc : Nat) : Nat :=
  let t := (List.range k).foldl (fun t i => t + a i * b i) 0
  (BitVec.ofInt 32 (acc + t)).toNat

/-- The unit exponent p of a format code of MMX (R65, R68). -/
def mxUnit (fmt : Nat) : Nat := match fmt with | 0 => 2 | 1 => 6 | 2 => 8 | 3 => 18 | _ => 26

/-- The format of a code of MMX. -/
def mxFormat (fmt : Nat) : FloatFormat :=
  match fmt with | 0 => .e2m1 | 1 => .e2m3 | 2 => .e3m2 | 3 => .e4m3 | _ => .e5m2

/-- The marker of a pair (R67). -/
def mxMarker : Int := -(2 ^ 63)

/-- The block sum of 32 products in units of 2^−p: exact but for e5m2's one RNE; the marker for a special value (R65 to R67). -/
def blockSum (p : Nat) (ps : List FVal) : Int :=
  if ps.any fun x => match x with | .fin _ _ _ => false | _ => true then mxMarker
  else
    let (m, e) := dyadicSum (ps.map FVal.dyadic)
    let r := (roundStep .rne (decide (m < 0)) m.natAbs e false (-p)).1
    if m < 0 then -(r : Int) else r

/-- One scaled sum added to an acc element (R68). -/
def scaleSum (p sa sb : Nat) (x : Int) (marked : Bool) (acc : Nat) : Nat :=
  if sa = 255 ∨ sb = 255 ∨ marked then FloatFormat.f32.canonicalNan
  else accumulate acc (.fin (decide (x < 0)) x.natAbs ((sa : Int) + sb - 254 - p))

/-! ### Operand layout (R169 to R172) -/

/-- Element `k` of a packed run (R53). -/
def packed (w run k : Nat) : Nat := run / 2 ^ (w * k) % 2 ^ w

/-- The value that 2:4 metadata and the two kept values give at a position (R70). -/
def keptAt (nibble first second pos : Nat) : Nat :=
  if nibble / 4 % 4 = pos then second else if nibble % 4 = pos then first else 0

/-- The metadata nibble of column j for k row `k` of a compressed B. -/
def metaAt (b : Array (Nat × Nat × Nat)) (k j : Nat) : Nat := (b.getD (k / 4) (0, 0, 0)).2.2 / 2 ^ (4 * j) % 16

/-- Packed value (k, j) of B, dense or compressed (R70, R172). -/
def bValue (b : Array (Nat × Nat × Nat)) (z : Bool) (w k j : Nat) : Nat :=
  if z then
    let g := b.getD (k / 4) (0, 0, 0)
    keptAt (metaAt b k j) (packed w g.1 j) (packed w g.2.1 j) (k % 4)
  else packed w (b.getD k (0, 0, 0)).1 j

/-- Little-endian 32-bit elements of bytes. -/
def quads : List Byte → List Nat
  | x :: y :: z :: u :: rest => leNat [x, y, z, u] :: quads rest
  | _ => []

/-- Values of a function of row and k for every row of A or column of B, computed once. -/
def operand {α : Type} (n k : Nat) (f : Nat → Nat → α) : Array (Array α) :=
  ((List.range n).map fun i => ((List.range k).map (f i)).toArray).toArray

/-- One value of an operand. -/
def pickOf {α : Type} (x : Array (Array α)) (d : α) (i k : Nat) : α := (x.getD i #[]).getD k d

namespace State

/-- Row i of an A half, read as one packed run. -/
def aRow (s : State) (c h i : Nat) : Nat := s.num (halfCell c h i 0) 256
/-- The 32 rows of an A half. -/
def aRows (s : State) (c h : Nat) : Array Nat := ((List.range 32).map (s.aRow c h)).toArray

/-- B as it lies in the weight buffer: the run of each of `k` rows, or of each four rows the two kept runs and the metadata; w bits a
value (R172). -/
def bRuns (s : State) (c : Nat) (z : Bool) (w off k : Nat) : Array (Nat × Nat × Nat) :=
  let rb := 8 * w
  let group (g : Nat) : Nat × Nat × Nat :=
    let at0 := weightCell c (off + g * (2 * rb + 32))
    (s.num at0 rb, s.num (at0 + rb) rb, s.num (at0 + 2 * rb) 32)
  if z then ((List.range ((k + 3) / 4)).map group).toArray
  else ((List.range k).map fun n => (s.num (weightCell c (off + n * rb)) rb, 0, 0)).toArray

/-- The 2,048 elements of a register, row by row. -/
def tile (s : State) (cell : Nat) : Array Nat := (quads (s.bytes cell 8192)).toArray

/-- All 2,048 elements of a register written from a function of row and column. -/
def storeTile (s : State) (cell : Nat) (f : Nat → Nat → Nat) : State :=
  s.store cell ((List.range 32).flatMap fun i => (List.range 64).flatMap fun j => leBytes 4 (f i j))


/-! ### Ownership and the queue (R170, R173) -/

/-- Whether a strand's core is shared with other groups after a resume (R386). -/
def sharedRow (s : State) : Bool := s.u.window.isSome

/-- The strand's logical row of its launch (R28). -/
def logicalRow (s : State) : Nat × Nat := (s.u.launch.getD 0, s.u.lcore / 8)

/-- Whether a slot's strand is pre-empted. -/
def isPreempted (x : Slot) : Bool := match x.status with | .halted .preempt => true | _ => false

/-- Whether the owner of a core's matrix state is pre-empted, which ends its ownership once the state is saved (R170). -/
def ownerAway (s : State) (c : Nat) : Bool :=
  match (s.core c).owner with
  | some (i, _) => isPreempted (s.slotAt c i)
  | none => false

/-- Whether the odd core of the strand's pair has an owner of its own (R170, R192). -/
def oddOwned (s : State) : Bool :=
  s.slot.pair.isSome && (s.core (s.cur.1 + 1)).owner.any (· != (s.cur.2, s.u.unit))

/-- The owner of the matrix state of a core set, and for a pair's strand that of the odd core with it (R170, R192). -/
def setOwner (s : State) (c : Nat) (pair : Bool) (owner : Option (Nat × Option Nat)) (job : Option (Option Nat)) : State :=
  let s := s.setCore c { s.core c with owner, lastJob := job }
  if pair then s.setCore (c + 1) { s.core (c + 1) with owner, lastJob := job } else s

/-- The ownership check: MAT_OWNER, or a wait on a shared row (R170, R179). -/
def checkOwner (s : State) : Res Unit :=
  if s.sharedRow && s.me.rowHolder.any (· != s.logicalRow) then waitFor .rowFree
  else if s.oddOwned && !s.ownerAway (s.cur.1 + 1) then raise .matOwner
  else match s.me.owner with
    | none => .ok ()
    | some o =>
      if o == (s.cur.2, s.u.unit) then .ok ()
      else if s.sharedRow then waitFor .rowFree
      else if s.ownerAway s.cur.1 then .ok () else raise .matOwner

/-- The matrix state of a core zeroed: registers, tags, halves, weight buffer, codebooks, timeline (R170, R331,
R340). -/
def zeroMatrix (s : State) (c : Nat) : State :=
  let s := ((((s.wipe (accCell c 0 0 0) 65536).wipe (paccCell c 0 0 0) 65536).wipe (halfCell c 0 0 0) 16384).wipe
    (scaleCell c 0 0 0) 1024).wipe (weightCell c 0) 262144
  let s := s.wipe (codebookCell c 0 0) 256
  s.setCore c { s.core c with tags := Vector.replicate 8 0, tlmIssued := 0, tlmReached := 0, tlmDone := [] }

/-- The cells of a core's matrix state: weight buffer, accs, paccs, halves, scales, codebooks. -/
def matrixCell (c a : Nat) : Bool :=
  (decide (weightCell c 0 ≤ a) && decide (a < weightCell c 0 + 262144)) || (decide (accCell c 0 0 0 ≤ a) && decide (a < accCell c 0 0 0 + 65536)) ||
  (decide (paccCell c 0 0 0 ≤ a) && decide (a < paccCell c 0 0 0 + 65536)) ||
  (decide (halfCell c 0 0 0 ≤ a) && decide (a < halfCell c 0 0 0 + 16384)) ||
  (decide (scaleCell c 0 0 0 ≤ a) && decide (a < scaleCell c 0 0 0 + 1024)) ||
  (decide (codebookCell c 0 0 ≤ a) && decide (a < codebookCell c 0 0 + 256))

/-- Whether a core's matrix unit has nothing in flight (R173). -/
def matrixIdle (s : State) (c : Nat) : Bool := (s.core c).matrix.isEmpty && (s.core c).stages.isEmpty

/-- The owner's matrix state of a core saved with its strand, its ownership over; what the core holds stays (R170, R375). -/
def parkOwner (s : State) (c : Nat) : State :=
  match (s.core c).owner with
  | none => s
  | some (i, unit) =>
    let k := s.core c
    let t := s.strandAt c i
    let s := if t.unit == unit then
        s.setStrandAt c i { t with
          parked := some (s.mem.filter fun (a, _) => matrixCell c a, k.tags.toList, k.tlmIssued, k.tlmReached) }
      else s
    s.setOwner c (s.slotAt c i).pair.isSome none k.lastJob

/-- A strand's parked matrix state put back on its core, of which it becomes the owner. -/
def unparkMatrix (s : State) (c i : Nat) : State :=
  let t := s.strandAt c i
  match t.parked with
  | none => s
  | some (cells, tags, issued, reached) =>
    let s := (s.zeroMatrix c).setStrandAt c i { t with parked := none }
    let s : State := { s with mem := cells.foldl (fun m (a, b) => Memory.put m a b) s.mem }
    (s.setCore c { s.core c with
      tags := Vector.ofFn fun n => tags.getD n.val 0, tlmIssued := issued, tlmReached := reached }).setOwner c
        (s.slotAt c i).pair.isSome (some (i, t.unit)) (some t.job)

/-- The claim of a core without an owner, with the zeroing that another job's use calls for (R170); a strand whose state was saved has
it back. -/
def claimFree (s : State) : Res State :=
  let k := s.me
  if s.u.parked.isSome then .ok (s.unparkMatrix s.cur.1 s.cur.2)
  else
    let mine (s : State) : State := s.setOwner s.cur.1 s.slot.pair.isSome (some (s.cur.2, s.u.unit)) (some s.u.job)
    if k.lastJob == some s.u.job then .ok (mine s)
    else if !k.matrix.isEmpty || !k.stages.isEmpty then waitFor (.matrix 0)
    else
      let t := mine s
      .error (.wait .zeroing (some ((t.setMe { t.me with zeroing := true }).zeroMatrix s.cur.1)))

/-- The claim of the matrix state: the owner has it once its zeroing is over; a pre-empted owner's state is saved first, when what is in
flight has ended (R170, R373). -/
def claimMatrix (s : State) : Res State :=
  let s := if s.oddOwned then s.parkOwner (s.cur.1 + 1) else s
  match s.me.owner with
  | none => s.claimFree
  | some o =>
    if s.me.zeroing then waitFor .zeroing
    else if o == (s.cur.2, s.u.unit) then .ok s
    else if s.matrixIdle s.cur.1 then (s.parkOwner s.cur.1).claimFree
    else waitFor (.matrix 0)

/-- Room in the queue for one more operation. -/
def needQueue (s : State) : Res Unit := if s.me.matrix.length < 4 then .ok () else waitFor .matrixRoom

/-- An operation entered in the queue; what it writes is noted for a pair's images (R165). -/
def enqueueOp (s : State) (op : MatrixOp) : State :=
  let s := s.setMe { s.me with matrix := s.me.matrix ++ [op] }
  s.setSlot { s.slot with pair := s.slot.pair.map fun p => { p with
    touched := p.touched ||| ((if op.acc = 0 then 0 else 1) + if op.pacc = 0 then 0 else 2) } }

/-- The interlock of a read of a register: earlier queued operations that write it have completed (R173). Bits [15:8] of the mask
are paccs. -/
def needWritten (s : State) (mask : Nat) : Res Unit :=
  if s.me.matrix.any fun o => o.acc &&& mask ≠ 0 || o.pacc &&& mask / 256 ≠ 0 then waitFor (.matrix mask) else .ok ()

/-- The interlock of a product on its half (R173). -/
def needHalf (s : State) (h : Nat) : Res Unit :=
  if s.me.stages.any fun t => t.ticket != 0 && t.half == some h then waitFor (.half h) else .ok ()

/-- The interlock of a product on bytes of the weight buffer (R173). -/
def needWeights (s : State) (off n : Nat) : Res Unit :=
  if s.me.stages.any fun t => t.half.isNone && decide (t.offset < off + n) && decide (off < t.offset + t.rb) then
    waitFor (.weights off n)
  else .ok ()

/-- The checks of R180 in order around an instruction's operand checks, then the claim, and the clasp of a gang-issued form. -/
def matrixChecks (s : State) (gang blocking : Bool) (operands : Res Unit) : Res State := do
  ensure (!s.activation) (if gang || blocking then .handlerBlock else .matOwner)
  s.needIdleSequencer
  s.checkOwner
  ensure (!gang || (s.u.session && s.slot.pair.isNone)) .gangState
  operands
  let s ← s.claimMatrix
  if gang && s.slot.eprog == 0 then .error (.wait (.clasp (s.wordAt s.pc.toNat)) (some s)) else pure s

/-- A word of majors 0x20 to 0x23. -/
def matrixWord (s : State) (gang blocking : Bool) (operands : State → Res Unit) (k : State → Res State) : Out :=
  s.plainWhere (s.kind == .mcore) fun s => do
    let s ← s.matrixChecks gang blocking (operands s)
    match k s with
    | .ok t => .ok t
    | .error (.wait w kept) => .error (.wait w (some (kept.getD s)))
    | .error (.trap c i a n kept) => .error (.trap c i a n (some (kept.getD s)))

/-- MAT_OPERAND with the operand that failed (R180). -/
def matOperand (ok : Bool) (operand : Nat) : Res Unit := if ok then .ok () else raiseAt .matOperand operand 0

/-! ### Gang sessions (R175, R181) -/

/-- The slots that hold the eight strands of the strand's logical row on its physical row, by column. -/
def rowMembers (s : State) (c : Nat) (launch lrow : Nat) : List (Nat × Nat) :=
  s.occupied.filter fun (k, i) =>
    let t := s.strandAt k i
    coreKind? k == some .mcore && rowOf k == rowOf c && t.kind == .resident && t.launch == some launch && t.lcore / 8 == lrow

/-- Whether a session is open on a physical row. -/
def rowOpen (s : State) (c : Nat) : Bool :=
  s.occupied.any fun (k, i) => coreKind? k == some .mcore && rowOf k == rowOf c && (s.strandAt k i).session

/-- Whether a slot waits for its session to open. -/
def waitsGang (s : State) (k i : Nat) : Bool := (s.slotAt k i).status == .waiting .gangOpen

/-- The holder of a row noted on its cores (R179). -/
def holdRow (s : State) (c : Nat) (x : Option (Nat × Nat)) : State :=
  (List.range 8).foldl (fun s j => s.setCore (rowOf c * 8 + j) { s.core (rowOf c * 8 + j) with rowHolder := x }) s

/-- The session opened on a member, whose MGANG completes. -/
def joinSession (s : State) : State := (s.setU { s.u with session := true, clasps := 0 }).retire

end State

/-- MGANG: #1 opens the session when all eight members have issued it and the row is free; #0 joins a clasp and closes it. -/
def execMgang (e : BitVec 1) (s : State) : Out :=
  s.matrixWord false true
    (fun s => do
      ensure (s.slot.pair.isNone && (if e = 1 then !s.u.session else s.u.session)) .gangState)
    fun s =>
      let (l, r) := s.logicalRow
      if e = 1 then
        let others := (s.rowMembers s.cur.1 l r).filter (· != s.cur)
        if others.length = 7 && others.all (fun (k, i) => s.waitsGang k i) && !s.rowOpen s.cur.1 then
          .ok ((others.foldl (fun s (k, i) => s.as k i State.joinSession) (s.holdRow s.cur.1 (some (l, r)))).joinSession)
        else waitFor .gangOpen
      else if s.slot.eprog = 0 then waitFor (.clasp (s.wordAt s.pc.toNat))
      else
        let s := (s.setU { s.u with session := false, clasps := 0 }).finishSteps
        .ok (if s.rowOpen s.cur.1 then s else s.holdRow s.cur.1 none)

/-- MWAIT: for the queue and every data stage, or for the writers of some accs (R182). -/
def execMwait (m : BitVec 8) (s : State) : Out :=
  s.matrixWord false true (fun _ => .ok ()) fun s =>
    let busy := if m = 0 then !s.me.matrix.isEmpty || s.me.stages.any fun t => t.unit == s.u.unit
      else s.me.matrix.any fun o => o.acc &&& m.toNat != 0
    if busy then waitFor (.matrix m.toNat) else .ok s.retire

/-- The registers named by a mask. -/
def maskedRegs (m : Nat) : List Nat := (List.range 8).filter fun n => m / 2 ^ n % 2 == 1

/-- MZERO (R183). -/
def execMzero (p : BitVec 1) (m : BitVec 8) (s : State) : Out :=
  s.matrixWord false false (fun _ => .ok ()) fun s => do
    s.needQueue
    let c := s.cur.1
    if p = 0 then
      let s := (maskedRegs m.toNat).foldl (fun s n => s.wipe (accCell c n 0 0) 8192) s
      pure (s.enqueueOp { acc := m.toNat, pacc := 0, codebook := none }).retire
    else
      let s := (maskedRegs m.toNat).foldl (fun s n =>
        (s.wipe (paccCell c n 0 0) 8192).setCore c { s.core c with tags := (s.core c).tags.setIfInBounds n 0 }) s
      pure (s.enqueueOp { acc := 0, pacc := m.toNat, codebook := none }).retire

namespace State

/-- Element (row, column) of an acc or pacc lies here. -/
def tileCell (c : Nat) (p : Bool) (n i j : Nat) : Nat := if p then paccCell c n i j else accCell c n i j

/-- The mask of a register for the interlocks. -/
def regMask (p : Bool) (n : Nat) : Nat := if p then 2 ^ (n + 8) else 2 ^ n

end State

/-- MMOV (R184). -/
def execMmov (v a : Reg) (p d h : BitVec 1) (r : BitVec 5) (s : State) : Out :=
  s.matrixWord false false
    (fun s => ensure (s.u.vregs != 0 && decide (v.toNat < s.u.vregs)) .vecUngranted)
    fun s => do
      let s := s.wakeBanks [v]
      let c := s.cur.1
      let cell (i : Nat) := State.tileCell c (p == 1) a.toNat r.toNat (32 * h.toNat + i)
      if d = 0 then do
        s.needWritten (State.regMask (p == 1) a.toNat)
        pure (s.setLanes v fun i => if i < s.u.vlen then some (BitVec.ofNat 32 (s.num (cell i) 4)) else none).retire
      else do
        s.needQueue
        let s := s.activeLanes.foldl (fun s i => s.storeNum (cell i) 4 (s.lane v i).toNat) s
        let s := if p = 1 then s.setMe { s.me with tags := s.me.tags.setIfInBounds a.toNat 0 } else s
        pure (s.enqueueOp (if p = 1 then { acc := 0, pacc := 2 ^ a.toNat, codebook := none }
          else { acc := 2 ^ a.toNat, pacc := 0, codebook := none })).retire

/-! ### Loads and stores (R185, R186, R190) -/

namespace State

/-- MEMDEF's attributes with the space that the L bit chooses (R174). -/
def matrixAttr (s : State) (l : BitVec 1) : Attr :=
  { cls := bits s.u.memdef 2 0, scope := bits s.u.memdef 5 3, space := l.toNat, policy := bits s.u.memdef 9 8, use := 0 }

/-- The next ticket of TLM taken. -/
def nextTlm (s : State) : Word × State :=
  let t := s.me.tlmIssued + 1
  (t, s.setMe { s.me with tlmIssued := t })

/-- The issue stage of a load goes on where an interruption left it: at the rows or pieces already translated (R115, R185, R186). Where
a shootdown, an image or a record has lost them, the steps before EPROG.STEP are translated again first, which is no progress (log 21). -/
def resumeIssue (s : State) (done : Nat) : State :=
  if s.u.issue.length ≤ done then s else s.setU { s.u with issue := [] }

/-- At most `n` more rows or pieces resolved in order, the next being number `k` of the stage, by `run` at its step; each is added to those
that the strand keeps. A stop keeps them, with EPROG.STEP counting `gang` and their number, but never less than it was. -/
def resolveSteps (run : (k step : Nat) → State → Res ((List Segment × List Segment) × State)) (gang : Nat) :
    (n k : Nat) → State → Res State
  | 0, _, s => .ok s
  | n + 1, k, s =>
    let step := max (k + gang) s.slot.eprog
    match run k step s with
    | .error e => .error (keepSteps s step e)
    | .ok (r, t) => resolveSteps run gang n (k + 1) (t.setU { t.u with issue := t.u.issue ++ [r] })

/-- One row of an MLDA resolved, the run that lies lower first: its A bytes and its scale bytes; a row beyond NR has none. -/
def resolveRow (x : Access) (a stride base : Word) (rb nb nr first n step : Nat) (s : State) :
    Res ((List Segment × List Segment) × State) :=
  let row := first + n
  let at0 := a + BitVec.ofNat 64 row * stride
  let scales := base + BitVec.ofNat 64 (row * nb)
  if nr ≤ row then .ok (([], []), s)
  else if scales.ult at0 then do
    let (h, s) ← s.resolve x scales nb step
    let (g, s) ← s.resolve x at0 rb step
    pure ((g, h), s)
  else do
    let (g, s) ← s.resolve x at0 rb step
    let (h, s) ← s.resolve x scales nb step
    pure ((g, h), s)

/-- LOCAL_RANGE of the first row or piece that a solo form would take, found before the claim (R180); that of a later one comes when the
steps before it are done, and that of a gang-issued form after the clasp, with STEP as R185 has it (DEDUCED: the list of R180 has
it before the clasp; log 52). -/
def localFirst (s : State) (x : Access) (runs : List (Word × Nat)) : Res Unit :=
  if x.attr.space ≠ 1 then .ok ()
  else match runs.findSome? fun (a, n) => match s.sramCells x a n with
      | .error e => if n = 0 then none else some e
      | .ok _ => none with
    | some (c, e) => .error (.trap c x.info e s.slot.eprog none)
    | none => .ok ()

/-- The rows that a gang load's member has resolved laid into the stage of a core of the row, which is made if it is not there (R176,
R178). The stage of a member that has yet to issue has no unit and no ticket. -/
def shareRows (s : State) (c half clasp first : Nat) (rows : List (List Segment × List Segment)) : State :=
  let k := s.core c
  let blank : DataStage := { ticket := 0, unit := none, job := none, half := some half, rb := 0, nb := 0, nr := 0
                             rows := List.replicate 32 none, offset := clasp, gang := true }
  let mine (t : DataStage) : Bool := t.gang && t.offset == clasp
  let old := (k.stages.find? mine).getD blank
  let new : DataStage := { old with rows := old.rows.take first ++ rows.map some ++ old.rows.drop (first + rows.length) }
  s.setCore c { k with stages := if k.stages.any mine then k.stages.map fun t => if mine t then new else t else k.stages ++ [new] }

/-- The access of MLDA and MLDB. -/
def stageAccess (s : State) (l : BitVec 1) : Access := { attr := s.matrixAttr l, reads := true, writes := false }

/-- At most `n` rows more of an MLDA's issue stage, with those before EPROG.STEP that have been lost. -/
def issueRows (s : State) (a b : Reg) (g l : BitVec 1) (n : Nat) : Res State :=
  let w := s.reg b
  let first := if g = 1 then 4 * columnOf s.cur.1 else 0
  let count := if g = 1 then 4 else 32
  let done := s.slot.eprog - g.toNat
  let s := s.resumeIssue done
  let at0 := s.u.issue.length
  resolveSteps (resolveRow (s.stageAccess l) (s.reg a) (s.block a 1) (s.block a 2) (bits w 8 0) (bits w 28 24) (bits w 20 16 + 1)
    first) g.toNat (Nat.min (n + (done - at0)) (count - at0)) at0 s

/-- LOCAL_RANGE of the row at which a solo MLDA starts (R180). -/
def rowRange (s : State) (a b : Reg) (g l : BitVec 1) : Res Unit :=
  let w := s.reg b
  let row := s.slot.eprog
  if g = 1 ∨ bits w 20 16 < row then .ok ()
  else
    let x := (s.reg a + BitVec.ofNat 64 row * s.block a 1, bits w 8 0)
    let y := (s.block a 2 + BitVec.ofNat 64 (row * bits w 28 24), bits w 28 24)
    s.localFirst (s.stageAccess l) (if y.1.ult x.1 then [y, x] else [x, y])

end State

/-- The operand check of MLDA (R185). -/
def mldaOperand (w : Word) : Bool :=
  decide (1 ≤ bits w 8 0 ∧ bits w 8 0 ≤ 256) && decide (bits w 28 24 ≤ 16) && bits w 15 9 == 0 && bits w 23 21 == 0 &&
    bits w 63 29 == 0

/-- MLDA: the issue stage resolves the rows of the strand's share and takes a ticket; the data stage follows (R185). -/
def execMlda (d a b : Reg) (g h l : BitVec 1) (s : State) : Out :=
  let w := s.reg b
  s.matrixWord (g == 1) false
    (fun s => do
      State.matOperand (mldaOperand w) 1
      s.rowRange a b g l)
    fun s => do
      let s ← s.commitPoint false
      let s ← s.issueRows a b g l 32
      let rows := s.u.issue
      let s := s.setU { s.u with issue := [] }
      let (ticket, s) := s.nextTlm
      let s := (s.setReg d ticket).engineIssued s.u.unit
      let c := s.cur.1
      let t : DataStage := { ticket, unit := s.u.unit, job := s.u.job, half := some h.toNat
                             rb := bits w 8 0, nb := bits w 28 24, nr := bits w 20 16 + 1
                             rows := rows.map some, offset := 0, gang := false }
      if g = 0 then pure (s.setMe { s.me with stages := s.me.stages ++ [t] }).finishSteps
      else
        let id := s.u.claspId
        let s := (List.range 8).foldl (fun s j => s.shareRows (rowOf c * 8 + j) h.toNat id (4 * columnOf c) rows) s
        let mine (y : DataStage) : Bool := y.gang && y.offset == id
        let rows := ((s.me.stages.find? mine).map (·.rows)).getD []
        pure (s.setMe { s.me with stages := (s.me.stages.filter fun y => !mine y) ++
          [{ t with rows, offset := id, gang := true }] }).finishSteps

namespace State

/-- One piece of 128 bytes of an MLDB resolved. -/
def resolvePiece (x : Access) (a : Word) (n step : Nat) (s : State) : Res ((List Segment × List Segment) × State) := do
  let (g, s) ← s.resolve x (a + BitVec.ofNat 64 (128 * n)) 128 step
  pure ((g, []), s)

/-- At most `n` pieces more of an MLDB's issue stage. -/
def issuePieces (s : State) (a b : Reg) (l : BitVec 1) (n : Nat) : Res State :=
  let count := bits (s.reg b) 63 32 / 128
  let done := s.slot.eprog
  let s := s.resumeIssue done
  let at0 := s.u.issue.length
  resolveSteps (resolvePiece (s.stageAccess l) (s.reg a)) 0 (Nat.min (n + (done - at0)) (count - at0)) at0 s

/-- LOCAL_RANGE of the piece at which an MLDB starts (R180). -/
def pieceRange (s : State) (a b : Reg) (l : BitVec 1) : Res Unit :=
  if bits (s.reg b) 63 32 / 128 ≤ s.slot.eprog then .ok ()
  else s.localFirst (s.stageAccess l) [(s.reg a + BitVec.ofNat 64 (128 * s.slot.eprog), 128)]

/-- The operand checks of MLDB: its fields, then the weight-buffer range, then the address (R180, R186). -/
def mldbOperands (a w : Word) : Res Unit := do
  let off := bits w 17 0
  let n := bits w 63 32
  State.matOperand (off % 128 == 0 && bits w 31 18 == 0 && n % 128 == 0 && decide (128 ≤ n ∧ n ≤ 32768)) 1
  State.matOperand (decide (off + n ≤ 262144)) 3
  if a.toNat % 16 = 0 then .ok () else raiseAt .misaligned 0 a

end State

/-- MLDB: the issue stage resolves the pieces and takes a ticket; the data stage fills the weight buffer (R186). -/
def execMldb (d a b : Reg) (l : BitVec 1) (s : State) : Out :=
  let w := s.reg b
  s.matrixWord false false
    (fun s => do
      State.mldbOperands (s.reg a) w
      s.pieceRange a b l)
    fun s => do
      let s ← s.commitPoint false
      let s ← s.issuePieces a b l 256
      let segs := s.u.issue.flatMap (·.1)
      let s := s.setU { s.u with issue := [] }
      let (ticket, s) := s.nextTlm
      let s := (s.setReg d ticket).engineIssued s.u.unit
      let t : DataStage := { ticket, unit := s.u.unit, job := s.u.job, half := none, rb := bits w 63 32, nb := 0, nr := 0
                             rows := [some (segs, [])], offset := bits w 17 0, gang := false }
      pure (s.setMe { s.me with stages := s.me.stages ++ [t] }).finishSteps

namespace State

/-- Rows of an acc or pacc stored in order from a step on (R190). -/
def storeRows (s : State) (x : Access) (p : Bool) (n : Nat) (a : Word) (stride nc : Nat) : (k row : Nat) → Res State
  | 0, _ => .ok s
  | k + 1, row =>
    let bs := s.bytes (tileCell s.cur.1 p n row 0) (4 * nc)
    match s.storeAccess x (a + BitVec.ofNat 64 (row * stride)) bs row with
    | .ok s => storeRows s x p n a stride nc k (row + 1)
    | .error e => .error (keepSteps s row e)

/-- `n` rows more of an MSTD. -/
def issueStores (s : State) (d a b : Reg) (p l : BitVec 1) (n : Nat) : Res State :=
  let w := s.reg b
  let x : Access := { attr := s.matrixAttr l, reads := false, writes := true }
  s.storeRows x (p == 1) d.toNat (s.reg a) (bits w 15 0) (bits w 30 24) n s.slot.eprog

/-- LOCAL_RANGE of the row at which an MSTD starts (R180). -/
def storeRange (s : State) (a b : Reg) (l : BitVec 1) : Res Unit :=
  let w := s.reg b
  let row := s.slot.eprog
  if bits w 20 16 < row then .ok ()
  else s.localFirst { attr := s.matrixAttr l, reads := false, writes := true }
    [(s.reg a + BitVec.ofNat 64 (row * bits w 15 0), 4 * bits w 30 24)]

end State

/-- MSTD (R190). -/
def execMstd (d a b : Reg) (p l : BitVec 1) (s : State) : Out :=
  let w := s.reg b
  s.matrixWord false false
    (fun s => do
      State.matOperand (bits w 15 0 % 4 == 0 && decide (1 ≤ bits w 30 24 ∧ bits w 30 24 ≤ 64) && bits w 23 21 == 0 && bits w 63 31 == 0) 1
      if (s.reg a).toNat % 4 = 0 then .ok () else raiseAt .misaligned 1 (s.reg a)
      s.storeRange a b l)
    fun s => do
      s.needWritten (State.regMask (p == 1) d.toNat)
      let s ← s.issueStores d a b p l (bits w 20 16 + 1 - s.slot.eprog)
      pure s.finishSteps

namespace State

/-- Whether the strand in the current slot is the matrix owner, with its zeroing over. -/
def ownsMatrix (s : State) : Bool := s.me.owner == some (s.cur.2, s.u.unit) && !s.me.zeroing

/-- The state after `n` steps more of an issue stage that then stops at a boundary: EPROG.STEP counts them (R179). A stage that stops of
itself makes none. -/
def partly (s : State) (n : Nat) (r : Res State) : State :=
  match r with
  | .ok t => t.setSlot { t.slot with eprog := s.slot.eprog + n }
  | .error _ => s

/-- Steps left of the issue stage of the MLDA, MLDB or MSTD at the strand's pc, once its clasp has released it; none for another
word (R179, R185, R186, R190). -/
def stepsLeft (s : State) : Nat :=
  if s.slot.mode || s.slot.pre.isSome || !s.ownsMatrix then 0
  else match decodeWord (s.wordAt s.pc.toNat) with
  | .ok (.mlda _ _ b g _ _) =>
    if mldaOperand (s.reg b) && decide (g.toNat ≤ s.slot.eprog) then (if g = 1 then 4 else 32) + g.toNat - s.slot.eprog else 0
  | .ok (.mldb _ _ b _) => bits (s.reg b) 63 32 / 128 - s.slot.eprog
  | .ok (.mstd _ _ b _ _) => bits (s.reg b) 20 16 + 1 - s.slot.eprog
  | _ => 0

/-- The strand stopped inside the issue stage of its MLDA, MLDB or MSTD, `n` steps further on: what a pre-emption or another
asynchronous cause finds (R179, R193). -/
def stepPartly (s : State) (n : Nat) : State :=
  if n = 0 ∨ s.stepsLeft < n then s
  else match decodeWord (s.wordAt s.pc.toNat) with
  | .ok (.mlda _ a b g _ l) => s.partly n (s.issueRows a b g l n)
  | .ok (.mldb _ a b l) => match mldbOperands (s.reg a) (s.reg b) with
    | .ok _ => s.partly n (s.issuePieces a b l n)
    | .error _ => s
  | .ok (.mstd d a b p l) =>
    let w := s.reg b
    if bits w 15 0 % 4 == 0 && decide (1 ≤ bits w 30 24 ∧ bits w 30 24 ≤ 64) && bits w 23 21 == 0 && bits w 63 31 == 0 &&
        (s.reg a).toNat % 4 == 0 then
      s.partly n (do
        s.needWritten (State.regMask (p == 1) d.toNat)
        s.issueStores d a b p l n)
    else s
  | _ => s

end State

/-! ### Products (R187 to R189) -/

/-- A product's interlocks and its place in the queue, then its effect at issue; its k-steps are counted (R361). -/
def product (s : State) (half : Nat) (off n steps : Nat) (op : MatrixOp) (effect : State → State) : Res State := do
  s.needQueue
  s.needHalf half
  s.needWeights off n
  pure (((effect s).enqueueOp op).count s.cur.1 7 steps).finishSteps

/-- Bits per value, values of a k-group and K limit of an MMA format (R187). -/
def mmaShape (f : Nat) : Nat × Nat × Nat :=
  match f with | 0 => (4, 8, 512) | 1 => (8, 4, 256) | 2 => (8, 4, 256) | 3 => (8, 4, 256) | _ => (16, 2, 128)

/-- The float format of an MMA code other than i8. -/
def mmaFormat (f : Nat) : FloatFormat :=
  match f with | 0 => .e2m1 | 1 => .e4m3 | 2 => .e5m2 | 4 => .bf16 | _ => .f16

/-- Bytes of B (R187). -/
def bBytes (z : Bool) (w k : Nat) : Nat := if z then k / 4 * (16 * w + 32) else k * (8 * w)

/-- The operand checks of MMA and MCB: group size, K limit, B width (R187). -/
def productOperands (w : Word) (z : Bool) (group limit bw : Nat) : Res Unit := do
  let k := bits w 31 20
  State.matOperand (bits w 17 0 % 128 == 0 && bits w 19 18 == 0 && bits w 63 32 == 0 && decide (group ≤ k ∧ k ≤ limit) &&
    k % group == 0 && (!z || k % 4 == 0)) 0
  State.matOperand (decide (bits w 17 0 + bBytes z bw k ≤ 262144)) 3

namespace State

/-- The acc of an MMA: every element from its A row and B column (R187). -/
def mmaEffect (s : State) (c acc h off k : Nat) (z : Bool) (f : Nat) : State :=
  let (w, group, _) := mmaShape f
  let old := s.tile (accCell c acc 0 0)
  let runs := s.bRuns c z w off k
  if f = 3 then
    let a := operand 32 k (let rows := s.aRows c h; fun i n => signedOf 8 (packed 8 (rows.getD i 0) n))
    let b := operand 64 k fun j n => signedOf 8 (bValue runs z 8 n j)
    s.storeTile (accCell c acc 0 0) fun i j => intSum k (pickOf a 0 i) (pickOf b 0 j) (old.getD (i * 64 + j) 0)
  else
    let fmt := mmaFormat f
    let a := operand 32 k (let rows := s.aRows c h; fun i n => fmt.read (packed w (rows.getD i 0) n))
    let b := operand 64 k fun j n => fmt.read (bValue runs z w n j)
    s.storeTile (accCell c acc 0 0) fun i j =>
      floatSum group (k / group) (pickOf a (.nan false) i) (pickOf b (.nan false) j) (old.getD (i * 64 + j) 0)

/-- The acc of an MCB: bf16 A, B codes expanded by a codebook slot (R69). -/
def mcbEffect (s : State) (c acc h off k : Nat) (z : Bool) (slot : Nat) : State :=
  let old := s.tile (accCell c acc 0 0)
  let runs := s.bRuns c z 4 off k
  let codes := s.num (codebookCell c slot 0) 32
  let a := operand 32 k (let rows := s.aRows c h; fun i n => FloatFormat.bf16.read (packed 16 (rows.getD i 0) n))
  let b := operand 64 k fun j n =>
    let nib := metaAt runs n j
    let kept := !z || nib / 4 % 4 == n % 4 || nib % 4 == n % 4
    FloatFormat.bf16.read (if kept then packed 16 codes (bValue runs z 4 n j) else 0)
  s.storeTile (accCell c acc 0 0) fun i j =>
    floatSum 2 (k / 2) (pickOf a (.nan false) i) (pickOf b (.nan false) j) (old.getD (i * 64 + j) 0)

end State

/-- MMA. -/
def execMma (d a : Reg) (g h z : BitVec 1) (f : BitVec 3) (s : State) : Out :=
  let w := s.reg a
  let (bw, group, limit) := mmaShape f.toNat
  let k := bits w 31 20
  s.matrixWord (g == 1) false (fun _ => productOperands w (z == 1) group limit bw) fun s =>
    product s h.toNat (bits w 17 0) (bBytes (z == 1) bw k) k { acc := 2 ^ d.toNat, pacc := 0, codebook := none } fun s =>
      s.mmaEffect s.cur.1 d.toNat h.toNat (bits w 17 0) k (z == 1) f.toNat

/-- MCB. -/
def execMcb (d a : Reg) (g h z : BitVec 1) (slot : BitVec 3) (s : State) : Out :=
  let w := s.reg a
  let k := bits w 31 20
  s.matrixWord (g == 1) false (fun _ => productOperands w (z == 1) 2 128 4) fun s =>
    product s h.toNat (bits w 17 0) (bBytes (z == 1) 4 k) k { acc := 2 ^ d.toNat, pacc := 0, codebook := some slot.toNat } fun s =>
      s.mcbEffect s.cur.1 d.toNat h.toNat (bits w 17 0) k (z == 1) slot.toNat

/-- The pacc that holds block b, for a format that writes pairs or not. -/
def paccOf (fmt p b : Nat) : Nat := if fmt ≥ 3 then p + 2 * b else p + b

/-- Whether nb blocks from p on fit the eight paccs. -/
def paccFits (fmt p nb : Nat) : Bool := decide (paccOf fmt p nb ≤ 8)

/-- The mask of the paccs of nb blocks. -/
def paccMask (fmt p nb : Nat) : Nat :=
  (List.range nb).foldl (fun m b => m ||| 2 ^ paccOf fmt p b ||| if fmt ≥ 3 then 2 ^ (paccOf fmt p b + 1) else 0) 0

/-- Blocks of a row of A in an MX format (R171). -/
def blocksPerRow (fmt : Nat) : Nat := match fmt with | 0 => 16 | 1 => 10 | 2 => 10 | _ => 8

/-- Bits of an MX value. -/
def mxWidth (fmt : Nat) : Nat := match fmt with | 0 => 4 | 1 => 6 | 2 => 6 | _ => 8

/-- Bytes of one block of B (R172). -/
def blockBytes (z : Bool) (fmt : Nat) : Nat := bBytes z (mxWidth fmt) 32

namespace State

/-- One block sum into a pacc or a pair, with its tag (R188). -/
def mmxBlock (s : State) (c h a0 off b fmt p : Nat) (z : Bool) : State :=
  let w := mxWidth fmt
  let f := mxFormat fmt
  let d := paccOf fmt p b
  let runs := s.bRuns c z w (off + b * blockBytes z fmt) 32
  let x := operand 32 32 (let rows := s.aRows c h; fun i u => f.read (packed w (rows.getD i 0) (32 * (a0 + b) + u)))
  let y := operand 64 32 fun j u => f.read (bValue runs z w u j)
  let sums := operand 32 64 fun i j =>
    blockSum (mxUnit fmt) ((List.range 32).map fun u => productOf (pickOf x (.nan false) i u) (pickOf y (.nan false) j u))
  let t := s.storeTile (paccCell c d 0 0) fun i j => ((pickOf sums 0 i j).emod (2 ^ 32)).toNat
  let t := if fmt ≥ 3 then t.storeTile (paccCell c (d + 1) 0 0) fun i j => ((pickOf sums 0 i j / 2 ^ 32).emod (2 ^ 32)).toNat else t
  let tags := (t.core c).tags.setIfInBounds d (fmt + 1)
  t.setCore c { t.core c with tags := if fmt ≥ 3 then tags.setIfInBounds (d + 1) (fmt + 1) else tags }

/-- One block of MSCA (R189). -/
def mscaBlock (s : State) (c acc h a0 soff b fmt p : Nat) : State :=
  let d := paccOf fmt p b
  let old := s.tile (accCell c acc 0 0)
  let low := s.tile (paccCell c d 0 0)
  let high := s.tile (paccCell c (d + 1) 0 0)
  let sa := ((List.range 32).map fun i => s.num (scaleCell c h i (a0 + b)) 1).toArray
  let sb := (s.bytes (weightCell c (soff + 64 * b)) 64).toArray
  s.storeTile (accCell c acc 0 0) fun i j =>
    let n := i * 64 + j
    let x : Int := if fmt ≥ 3 then (BitVec.ofNat 64 (low.getD n 0 + 2 ^ 32 * high.getD n 0)).toInt else signedOf 32 (low.getD n 0)
    scaleSum (mxUnit fmt) (sa.getD i 0) (sb.getD j 0).toNat x (decide (fmt ≥ 3) && x == mxMarker) (old.getD n 0)

end State

/-- MMX. -/
def execMmx (a : Reg) (g h : BitVec 1) (f p : BitVec 3) (s : State) : Out :=
  let w := s.reg a
  let off := bits w 17 0
  let a0 := bits w 27 24
  let nb := bits w 30 28 + 1
  let z := bit w 31
  s.matrixWord (g == 1) false
    (fun _ => do
      State.matOperand (off % 128 == 0 && bits w 23 18 == 0 && bits w 63 32 == 0 && paccFits f.toNat p.toNat nb &&
        decide (a0 + nb ≤ blocksPerRow f.toNat)) 0
      State.matOperand (decide (off + nb * blockBytes z f.toNat ≤ 262144)) 3)
    fun s =>
      product s h.toNat off (nb * blockBytes z f.toNat) (32 * nb)
        { acc := 0, pacc := paccMask f.toNat p.toNat nb, codebook := none } fun s =>
        (List.range nb).foldl (fun s b => s.mmxBlock s.cur.1 h.toNat a0 off b f.toNat p.toNat z) s

/-- MSCA. -/
def execMsca (d a : Reg) (g h : BitVec 1) (f p : BitVec 3) (s : State) : Out :=
  let w := s.reg a
  let off := bits w 17 0
  let a0 := bits w 27 24
  let nb := bits w 30 28 + 1
  s.matrixWord (g == 1) false
    (fun s => do
      State.matOperand (off % 64 == 0 && bits w 23 18 == 0 && bits w 63 31 == 0 && paccFits f.toNat p.toNat nb &&
        decide (a0 + nb ≤ 16)) 0
      State.matOperand (decide (off + 64 * nb ≤ 262144)) 3
      State.matOperand ((List.range 8).all fun n => paccMask f.toNat p.toNat nb / 2 ^ n % 2 == 0 ||
        s.me.tags[n]?.getD 0 == f.toNat + 1) 2)
    fun s =>
      product s h.toNat off (64 * nb) 0 { acc := 2 ^ d.toNat, pacc := 0, codebook := none } fun s =>
        (List.range nb).foldl (fun s b => s.mscaBlock s.cur.1 d.toNat h.toNat a0 off b f.toNat p.toNat) s

/-! ### Data stages (R173, R174) -/

namespace State

/-- A run of physical bytes cut at the lines. -/
def lineRuns (g : Segment) : List Segment :=
  if !isPhysical g.key then [g]
  else (linesIn g.key g.length).map fun l =>
    let a := Nat.max g.key (l * 128)
    { g with key := a, length := Nat.min (g.key + g.length) (l * 128 + 128) - a }

/-- Bytes that an engine reads for a core: those of a line under a dead key slot are zero, and KEY_DEAD is raised with the physical
address of that line in EADDR (R174; DESIGN CHOICE: R174 says the line's address and not which; log 52). -/
def stageRead (s : State) (c : Nat) (slot : Option (Nat × Nat)) (segs : List Segment) : List Byte × State :=
  (segs.flatMap lineRuns).foldl (fun (acc, s) g =>
    if isPhysical g.key && (s.keyDead g.slot || s.deadLine (lineOf g.key)) then
      let l : Latched := { cause := .keyDead, eaddr := BitVec.ofNat 64 (g.key / 128 * 128), info := g.slot * 32 }
      (acc ++ List.replicate g.length 0, match slot with | some (k, i) => s.latch k i l | none => s.latchCore c l)
    else
      let (bs, s) := s.readSegments c [g]
      (acc ++ bs, s)) ([], s)

/-- The first line of a load's rows that its home cannot serve now (R270). -/
def stageStop (s : State) (c : Nat) (t : DataStage) : Option (Nat × Nat) :=
  t.rows.findSome? fun r => r.bind fun (x, y) => s.lineStop c false false (x ++ y)

/-- TLM has done a ticket (R339). -/
def tlmComplete (s : State) (c : Nat) (ticket : Word) : State :=
  let k := s.core c
  let done := k.tlmDone ++ [ticket]
  let (r, left) := (List.range done.length).foldl (fun (r, left) _ =>
    if left.contains (r + 1) then (r + 1, left.filter (· != r + 1)) else (r, left)) (k.tlmReached, done)
  s.setCore c { k with tlmReached := r, tlmDone := left }

/-- The slot of a core that a unit's strand holds. -/
def slotOfUnit (s : State) (c : Nat) (unit : Option Nat) : Option (Nat × Nat) :=
  s.occupied.find? fun (k, i) => k == c && (s.strandAt k i).unit == unit

/-- `n` bytes of a list, filled up with zeros. -/
def padTo (n : Nat) (bs : List Byte) : List Byte := (bs ++ List.replicate n 0).take n

/-- The bytes of a row of a stage as the core that resolved it reads them, with its scales; KEY_DEAD is raised for that core's strand
(R174, R176). -/
def readRow (s : State) (c : Nat) (unit : Option Nat) (r : List Segment × List Segment) : (List Byte × List Byte) × State :=
  let slot := s.slotOfUnit c unit
  let (x, s) := s.stageRead c slot r.1
  let (y, s) := s.stageRead c slot r.2
  ((x, y), s)

/-- The bytes of all rows of a load, row `i` read by the core `by_ i` for its own strand. -/
def readRows (s : State) (by_ : Nat → Nat × Option Nat) : (i : Nat) → List (Option (List Segment × List Segment)) →
    List (List Byte × List Byte) × State
  | _, [] => ([], s)
  | i, r :: rs =>
    let (b, s) := s.readRow (by_ i).1 (by_ i).2 (r.getD ([], []))
    let (rest, s) := readRows s by_ (i + 1) rs
    (b :: rest, s)

/-- Rows laid into the half of a core's stage with their scales, as that core's own RB, NB and NR have it: bytes that the share's owner
did not read are zero (DESIGN CHOICE: R185 does not say what members whose fields differ find; log 52). -/
def layRows (s : State) (c : Nat) (t : DataStage) (bytes : List (List Byte × List Byte)) : State :=
  match t.half with
  | some h =>
    (List.range 32).foldl (fun s i =>
      let (x, y) := bytes.getD i ([], [])
      let used := decide (i < t.nr)
      (s.store (halfCell c h i 0) (padTo 256 (if used then x.take t.rb else []))).store (scaleCell c h i 0)
        (padTo 16 (if used then y.take t.nb else []))) s
  | none => s.store (weightCell c t.offset) (bytes.headD ([], [])).1

/-- A data stage with its bytes complete: laid down, its ticket reached, its command done (R174, R130). -/
def endStage (s : State) (c : Nat) (t : DataStage) (bytes : List (List Byte × List Byte)) : State :=
  let s := s.layRows c t bytes
  let s := s.setCore c { s.core c with stages := (s.core c).stages.erase t }
  (s.tlmComplete c t.ticket).engineDone t.unit

/-- A data stage of a core alone complete (R174). -/
def completeStage (s : State) (c : Nat) (t : DataStage) : State :=
  let (bytes, s) := s.readRows (fun _ => (c, t.unit)) 0 t.rows
  s.endStage c t bytes

/-- Whether two data stages write the same half or some of the same weights. -/
def stagesMeet (t u : DataStage) : Bool :=
  match t.half, u.half with
  | some h, some k => h == k
  | none, none => decide (t.offset < u.offset + u.rb) && decide (u.offset < t.offset + t.rb)
  | _, _ => false

/-- Whether no stage issued before one of a core writes what it writes: they take effect in program order (R173). -/
def stageFirst (s : State) (c : Nat) (t : DataStage) : Bool :=
  ((s.core c).stages.takeWhile (· != t)).all fun u => u.ticket == 0 || !stagesMeet t u

/-- Whether a stage has every row, and its own strand has issued it. -/
def stageReady (t : DataStage) : Bool := t.rows.all (·.isSome) && t.ticket != 0

end State

end Sys2Proof.Machine
end

