-- ==== Sys2Proof/Machine/Link.lean ====
section
/-!
DEFINITION. Link registers (R154 to R157): NPUT, NGET, NTRY and NCLR.
-/

namespace Sys2Proof.Machine

/-- What a link write or a push finds at its target (R155, R156, R287). -/
inductive Target where
  /-- The resident strand, in its slot. -/
  | here (core slot : Nat)
  /-- Started, but saved and in no slot. -/
  | away
  | notStarted
  | ended
  deriving DecidableEq, Repr

namespace State

/-- The logical core that a signed offset names (R155). -/
def offsetCore (s : State) (off : BitVec 6) : Nat := ((s.u.lcore : Int) + off.toInt).emod s.u.lcount |>.toNat

/-- The resident strand of a logical core of the strand's launch. -/
def targetOf (s : State) (lc : Nat) : Target :=
  match s.u.home with
  | none => .ended
  | some l => match s.findStrand l lc with
    | some (c, i) => .here c i
    | none => match (s.launch? (some l)).map fun x => x.states.getD lc 2 with
      | some 0 => .notStarted
      | some 1 => .away
      | _ => .ended

/-- Whether a link register can accept a write (R157). -/
def linkFree (s : State) (c i n : Nat) : Bool :=
  let k := (s.strandAt c i).links[n]?.getD {}
  !k.present && !k.reserved

/-- A value on its way to a reserved register of a slot; the writer completes when it lands (R157, R288). -/
def sendLanding (s : State) (push : Bool) (c i n : Nat) (v : Word) (report : Option Reg) : State :=
  { s with landings := s.landings ++
      [{ push, core := c, slot := i, n, value := v, writer := some s.cur, unit := (s.strandAt c i).unit, report }] }

/-- An accepted write: the register is reserved; the strand waits for the landing, or a pair holds the effect (R157, R163). -/
def acceptLink (s : State) (c i n : Nat) (v : Word) : Res State :=
  let s := s.reserveLink c i n
  if s.slot.pair.isSome then do
    let s ← s.emit (.link c i n v (s.strandAt c i).unit)
    pure s.retire
  else .error (.wait .landing (some (s.sendLanding false c i n v none)))

/-- A link register of the strand changed. -/
def setLink (s : State) (n : Nat) (f : Link → Link) : State :=
  s.setU { s.u with links := s.u.links.setIfInBounds n (f (s.u.links[n]?.getD {})) }

/-- An own link register. -/
def link (s : State) (n : Nat) : Link := s.u.links[n]?.getD {}

end State

/-- NPUT: waits until the target's register is empty; a target that has ended is LINK_GONE. -/
def execNput (a : Reg) (n : BitVec 3) (o : BitVec 6) (s : State) : Out :=
  s.plain fun s => do
    s.needResident
    let lc := s.offsetCore o
    let w : Wait := .linkTarget (s.u.home.getD 0) lc n.toNat
    match s.targetOf lc with
    | .ended => raiseAt .linkGone 0 (BitVec.ofNat 64 lc)
    | .notStarted => waitFor w
    | .away => waitFor w
    | .here c i => if s.linkFree c i n.toNat then s.acceptLink c i n.toNat (s.reg a) else waitFor w

/-- NGET: waits until the own register is present, and empties it. The value of an empty register is zero, as at the start
(DESIGN CHOICE: R156 clears the presence bit and names no value; log 61). -/
def execNget (d : Reg) (n : BitVec 3) (s : State) : Out :=
  s.plain fun s => do
    s.needResident
    let s ← s.commitPoint false
    if (s.link n.toNat).present then
      pure ((s.setReg d (s.link n.toNat).value).setLink n.toNat fun _ => {}).retire
    else .error (.wait (.linkValue n.toNat) (some s))

/-- NTRY with P = 0: status 1 when empty, 2 in a handler or gust. -/
def execNtry (d : Reg) (n : BitVec 3) (s : State) : Out :=
  s.plain fun s => do
    let s ← s.commitPoint false
    if s.activation then pure (s.setReg (d + 1) 2).retire
    else if (s.link n.toNat).present then
      pure ((s.setPair d (s.link n.toNat).value 0).setLink n.toNat fun _ => {}).retire
    else pure (s.setReg (d + 1) 1).retire

/-- NTRY.put: as NPUT where the register is free, else a status. A target that has started and is saved, in no slot, gives status 1
(DESIGN CHOICE: R156 does not name it; log 29). A commit of a pair performs an effect of its own only where the value is sent (R163). -/
def execNtryPut (d a : Reg) (n : BitVec 3) (o : BitVec 6) (s : State) : Out :=
  s.plain fun s => do
    let sends := match s.targetOf (s.offsetCore o) with
      | .here c i => s.linkFree c i n.toNat
      | _ => false
    let s ← s.commitPoint sends
    let v := s.reg a
    match s.targetOf (s.offsetCore o) with
    | .ended => pure (s.setPair d 0 2).retire
    | .here c i =>
      if s.linkFree c i n.toNat then
        let s := (s.reserveLink c i n.toNat).sendLanding false c i n.toNat v (some d)
        .error (.wait .landing (some s))
      else pure (s.setPair d 0 1).retire
    | _ => pure (s.setPair d 0 1).retire

/-- NCLR: the register is empty; in a handler or gust nothing happens. A pair commits as it does at NGET, so that no rollback meets the
discarded value again (DESIGN CHOICE: R163 does not list NCLR; log 61). -/
def execNclr (n : BitVec 3) (s : State) : Out :=
  s.plain fun s => do
    if s.activation then pure s.retire
    else
      let s ← s.commitPoint false
      pure (s.setLink n.toNat fun k => { k with value := 0, present := false }).retire

end Sys2Proof.Machine
end

