-- ==== Sys2Proof/Machine/Queue.lean ====
section
/-!
DEFINITION. Queue registers and arrival queues as queue operands (R286 to R288).
-/

namespace Sys2Proof.Machine

namespace State

/-- An own queue register. -/
def queue (s : State) (n : Nat) : Queue := s.u.queues[n]?.getD {}

/-- An own queue register's entries set. -/
def setItems (s : State) (n : Nat) (xs : List Word) : State :=
  s.setU { s.u with queues := s.u.queues.setIfInBounds n { s.queue n with items := xs } }

/-- Whether a queue register can accept one more push (R288). -/
def queueFree (s : State) (c i n : Nat) : Bool :=
  let q := (s.strandAt c i).queues[n]?.getD {}
  decide (q.items.length + q.reserved < 16)

/-- An accepted push: an entry reserved, the value on its way, or held by a pair. -/
def acceptPush (s : State) (c i n : Nat) (v : Word) (report : Option Reg) : Res State :=
  let s := s.reserveQueue c i n
  if s.slot.pair.isSome then do
    let s ← s.emit (.push c i n v (s.strandAt c i).unit)
    pure (match report with | some d => s.setPair d 0 0 | none => s).retire
  else .error (.wait .landing (some (s.sendLanding true c i n v report)))

/-- AQ0 is open to supervisor code only (R287, R299). -/
def needQueuePrivilege (s : State) (n : Nat) : Res Unit := ensure (n != 0 || s.slot.mode) .illPriv

/-- The oldest arrival of a queue that no handler is bound to, taken with its payload (R25, R299). -/
def takeUnbound (s : State) (q : Nat) : Option (Msg × State) :=
  let k := s.me
  match (unbound k q).head? with
  | none => none
  | some m =>
    let s := s.setMe { k with aq := k.aq.setIfInBounds q ((k.aq[q]?.getD []).erase m) }
    some (m, s.count s.cur.1 10 1)

end State

/-- QPUSH. -/
def execQpush (a : Reg) (n : BitVec 3) (o : BitVec 6) (s : State) : Out :=
  s.plain fun s => do
    s.needResident
    let lc := s.offsetCore o
    let w : Wait := .queueTarget (s.u.home.getD 0) lc n.toNat
    match s.targetOf lc with
    | .ended => raiseAt .queueGone 0 (BitVec.ofNat 64 lc)
    | .notStarted => waitFor w
    | .away => waitFor w
    | .here c i => if s.queueFree c i n.toNat then s.acceptPush c i n.toNat (s.reg a) none else waitFor w

/-- QPOP of a queue register. Its result comes from outside the pair, as NGET's does: a pair commits, its own held pushes with it
(DEDUCED from R163, whose list names no QPOP; log 61). -/
def execQpop (d : Reg) (n : BitVec 3) (s : State) : Out :=
  s.plain fun s => do
    s.needResident
    let s ← s.commitPoint false
    match (s.queue n.toNat).items with
    | [] => .error (.wait (.queueValue n.toNat) (some s))
    | x :: xs => pure ((s.setItems n.toNat xs).setReg d x).retire

/-- QPOP of an arrival queue: the header; the payload is removed with it. -/
def execQpopAq (d : Reg) (n : BitVec 2) (s : State) : Out :=
  s.plain fun s => do
    s.needQueuePrivilege n.toNat
    s.needResident
    let s ← s.commitPoint false
    match s.takeUnbound n.toNat with
    | none => .error (.wait (.message (2 ^ n.toNat)) (some s))
    | some (m, s) => pure (s.setReg d m.header).retire

/-- QTRY of a queue register: status 0 with the value, 1 without, 2 in a handler or gust. -/
def execQtry (d : Reg) (n : BitVec 3) (s : State) : Out :=
  s.plain fun s => do
    if s.activation then pure (s.setPair d 0 2).retire
    else
      let s ← s.commitPoint false
      match (s.queue n.toNat).items with
      | [] => pure (s.setPair d 0 1).retire
      | x :: xs => pure ((s.setItems n.toNat xs).setPair d x 0).retire

/-- QTRY of an arrival queue. -/
def execQtryAq (d : Reg) (n : BitVec 2) (s : State) : Out :=
  s.plain fun s => do
    s.needQueuePrivilege n.toNat
    if s.activation then pure (s.setPair d 0 2).retire
    else
      let s ← s.commitPoint false
      match s.takeUnbound n.toNat with
      | none => pure (s.setPair d 0 1).retire
      | some (m, s) => pure (s.setPair d m.header 0).retire

/-- QPUTT: a push that never waits for room. -/
def execQputt (d a : Reg) (n : BitVec 3) (o : BitVec 6) (s : State) : Out :=
  s.plain fun s =>
    let v := s.reg a
    if s.activation && o == 0 then .ok (s.setPair d 0 2).retire
    else match s.targetOf (s.offsetCore o) with
      | .ended => .ok (s.setPair d 0 2).retire
      | .here c i => if s.queueFree c i n.toNat then s.acceptPush c i n.toNat v (some d) else .ok (s.setPair d 0 1).retire
      | _ => .ok (s.setPair d 0 1).retire

/-- QDEPTH of a queue register. -/
def execQdepth (d : Reg) (n : BitVec 3) (s : State) : Out :=
  s.plain fun s => .ok (s.setReg d (BitVec.ofNat 64 (s.queue n.toNat).items.length)).retire

/-- QDEPTH of an arrival queue: messages waiting, bound or not. -/
def execQdepthAq (d : Reg) (n : BitVec 2) (s : State) : Out :=
  s.plain fun s => do
    s.needQueuePrivilege n.toNat
    pure (s.setReg d (BitVec.ofNat 64 (s.me.aq[n.toNat]?.getD []).length)).retire

end Sys2Proof.Machine
end

