-- ==== Sys2Proof/Machine/Message.lean ====
section
/-!
DEFINITION. Messages: SEND, SENDT, RECV, RECVT (R295 to R299, R330), and the end of an activation with HRET (R300).
-/

namespace Sys2Proof.Machine

/-- Where a handle leads at the moment of a send (R297, R298, R330). -/
inductive Endpoint where
  /-- A logical core of a launch, on its core. -/
  | core (c launch lcore : Nat)
  | mailbox (n : Nat)
  /-- A logical core of a launch that has not been dispatched. -/
  | unplaced (launch : Nat)
  /-- A logical core that has ended. -/
  | gone
  /-- The other Span box. -/
  | otherBox
  deriving DecidableEq, Repr

/-- The header that the part writes (R296). -/
def messageHeader (sys : Bool) (src : Nat) (w handle : Word) : Word :=
  BitVec.ofNat 64 (bits w 7 0 + bits w 13 8 * 2 ^ 8 + bits w 15 14 * 2 ^ 14 + (if sys then 2 ^ 27 else src % 2048 * 2 ^ 16) +
    bits w 47 32 * 2 ^ 32 + bits handle 63 48 * 2 ^ 48)

/-- The key of an endpoint's generation: job and scope, regions apart from launches. -/
def endpointKey (job kind scope : Nat) : Nat := (job * 8 + kind) * 4096 + scope

/-- The key of a handle's bound launch. -/
def bindingKey (job scope gen : Nat) : Nat := endpointKey job 0 scope * 65536 + gen

namespace State

/-- A logical core of a launch as a message target. -/
def launchEndpoint (s : State) (l : Option Nat) (lc : Nat) : Endpoint :=
  match l with
  | none => .gone
  | some n => match AMap.get? s.launches n with
    | none => .gone
    | some x =>
      if x.states.getD lc 2 == 2 then .gone
      else match x.cores[lc]? with | some c => .core c n lc | none => if x.dispatched then .gone else .unplaced n

/-- Where a handle leads. -/
def endpointOf (s : State) (h : Word) : Endpoint :=
  let target := bits h 15 0
  let scope := bits h 31 20
  let job := s.u.job.getD 0
  match bits h 18 16 with
  | 0 =>
    if scope = 0 then s.launchEndpoint s.u.home target
    else s.launchEndpoint (AMap.get? s.endpoints (bindingKey job scope (bits h 47 32))) target
  | 1 => match s.job?.bind fun j => AMap.get? j.regions scope with
    | some (first, _, l) => s.launchEndpoint l (first + target)
    | none => .gone
  | 2 => .mailbox target
  | _ => .otherBox

/-- The payload: LEN bytes of the block after the handle, in words. -/
def payloadWords (s : State) (a : Reg) (len : Nat) : List Word :=
  (List.range ((len + 7) / 8)).map fun i =>
    let x := s.block a (i + 1)
    if 8 * i + 8 ≤ len then x else BitVec.ofNat 64 (x.toNat % 2 ^ (8 * (len - 8 * i)))

/-- Whether the SEND at this place has passed its checks before and has waited since (R11, R338). -/
def admittedHere (s : State) : Bool := s.u.admitted == some (s.slot.mode, s.pc)

/-- A SEND that has passed its checks waits: they are not made again (R11, R338). -/
def sendWaits (s : State) (w : Wait) : Res State :=
  .error (.wait w (some (s.setU { s.u with admitted := some (s.slot.mode, s.pc) })))

/-- The checks of SEND and SENDT after the strand's kind (R298). -/
def messageChecks (s : State) (a : Reg) (w : Word) : Res Unit := do
  let len := bits w 13 8
  let q := bits w 15 14
  ensure (bits w 7 0 != 255 && decide (len ≤ 56) && q != 3 && (q != 0 || s.slot.mode) && bits w 31 16 == 0 &&
    bits w 63 48 == 0 && decide (a.toNat - 8 + (len + 7) / 8 ≤ 23)) .msgFormat
  let h := s.reg a
  if s.me.grants.contains h || s.admittedHere then .ok () else raiseAt .handleDenied 0 h

/-- The slot of a mailbox and its TAIL probed as the message's writes meet them: the first line that its home cannot serve now (R270). -/
def mailboxBusy (s : State) (j : Job) (n : Nat) : Option (Nat × State) :=
  let va := BitVec.ofNat 64 (j.mailboxes.getD n 0)
  let tail := AMap.getD j.mailboxTail n 0
  let place := va + 256 + BitVec.ofNat 64 (64 * (tail.toNat % mailboxSlots j))
  let probe (a : Word) : Option (Nat × State) := match s.jobStore s.u.job s.cur.1 s.cur.2 a (leBytes 8 0) with
    | (.error (.line l, _), t) => some (l, t)
    | _ => none
  match probe place with
  | some x => some x
  | none => probe va

/-- HEAD of a host mailbox read through the job's context, once the lines of the message can be had: room or not, or the miss (R270, R330). -/
def mailboxState (s : State) (n : Nat) : Except (Miss × Word) Bool × State :=
  match s.job? with
  | none => (.ok false, s)
  | some j =>
    match s.jobLoad s.u.job s.cur.1 s.cur.2 (BitVec.ofNat 64 (j.mailboxes.getD n 0) + 128) 8 with
    | (.ok bs, s) =>
      if decide ((AMap.getD j.mailboxTail n 0 - leWord bs).toNat + s.heldMail (s.u.job.getD 0) n < mailboxSlots j) then
        match s.mailboxBusy j n with
        | some (l, t) => (.error (.line l, 0), t)
        | none => (.ok true, s)
      else (.ok false, s)
    | (.error m, s) => (.error m, s)

/-- MAILBOX_FAULT raised for the strand (R371). -/
def mailboxFault (s : State) (write : Bool) (m : Miss × Word) : State :=
  let q : Request := { ctx := s.ctxOf s.u.job, core := s.cur.1, slot := s.cur.2, user := false, reads := !write, writes := write }
  s.latch s.cur.1 s.cur.2 { cause := .mailboxFault, eaddr := m.2, info := m.1.info q }

/-- A message that is accepted leaves its strand (R163, R298, R361). -/
def sendTo (s : State) (a : Reg) (w : Word) (e : Endpoint) : Res State := do
  let h := s.reg a
  let header := messageHeader s.slot.mode s.u.lcore w h
  let payload := s.payloadWords a (bits w 13 8)
  let s ← match e with
    | .core c l lc =>
      let launch := if s.slot.mode then none else s.u.launch
      s.emit (.message c (bits w 15 14) header payload launch s.u.job (l, lc) h)
    | .mailbox n => s.emit (.mailbox (s.u.job.getD 0) n header payload)
    | .otherBox => s.emit (.spanMessage h header payload)
    | _ => pure s
  pure (s.count s.cur.1 9 1)

/-- Whether the other box can be reached (R284, R419). -/
def spanReady (s : State) : Bool := s.span.joined && s.span.up

/-- What the other box answers to a message for it, 0 accepted, 1 full, 2 gone, a free value (DESIGN CHOICE: its queues are no state of
this part; log 27), and 2 where it cannot be reached (R298). -/
def spanAccepts (s : State) : Nat × State :=
  if s.spanReady then
    let (x, s) := s.draw
    (x.toNat % 3, s)
  else (2, s)

end State

/-- SEND: waits until the target accepts; a message to a logical core that has ended is discarded. -/
def execSend (a b : Reg) (s : State) : Out :=
  s.plain fun s => do
    s.needResident
    let w := s.reg b
    s.messageChecks a w
    let e := s.endpointOf (s.reg a)
    match e with
    | .gone => pure s.retire
    | .core c _ _ =>
      if s.aqRoom c (bits w 15 14) then
        let s ← s.sendTo a w e
        pure s.retire
      else s.sendWaits (.room c (bits w 15 14))
    | .unplaced l => s.sendWaits (.placed l)
    | .otherBox =>
      if !s.spanReady then s.sendWaits .spanLink
      else match s.spanAccepts with
        | (0, s) =>
          let s ← s.sendTo a w e
          pure s.retire
        | (1, s) => s.sendWaits .spanLink
        | (_, s) => pure s.retire
    | .mailbox n =>
      match s.mailboxState n with
      | (.ok true, s) =>
        let s ← s.sendTo a w e
        pure s.retire
      | (.ok false, s) => s.sendWaits (.mailbox (s.u.job.getD 0) n)
      | (.error (.line l, _), s) => s.sendWaits (.line l)
      | (.error m, s) => pure (s.mailboxFault false m).retire

/-- SENDT: never waits; status 0 accepted, 1 full, 2 gone or unreachable. -/
def execSendt (d a b : Reg) (s : State) : Out :=
  s.plain fun s => do
    let w := s.reg b
    s.messageChecks a w
    let e := s.endpointOf (s.reg a)
    let accept (s : State) : Res State := do
      let s ← s.sendTo a w e
      pure (s.setPair d 0 0).retire
    match e with
    | .gone => pure (s.setPair d 0 2).retire
    | .unplaced _ => pure (s.setPair d 0 2).retire
    | .core c _ _ => if s.aqRoom c (bits w 15 14) then accept s else pure (s.setPair d 0 1).retire
    | .otherBox =>
      match s.spanAccepts with
      | (0, s) => accept s
      | (n, s) => pure (s.setPair d 0 (BitVec.ofNat 64 n)).retire
    | .mailbox n =>
      match s.mailboxState n with
      | (.ok true, s) => accept s
      | (.ok false, s) => pure (s.setPair d 0 1).retire
      | (.error (.line l, _), s) => .error (.wait (.line l) (some s))
      | (.error m, s) => pure ((s.mailboxFault false m).setPair d 0 2).retire

namespace State

/-- A message delivered into w(d) to w(d+7), zero-filled beyond its payload (R299). -/
def deliverMessage (s : State) (d : Reg) (m : Msg) : State :=
  (List.range 7).foldl (fun s i => s.setReg (d + BitVec.ofNat 5 (i + 1)) (m.payload.getD i 0)) (s.setReg d m.header)

end State

/-- RECV: the oldest unbound message of a queue; waits for one. -/
def execRecv (d : Reg) (n : BitVec 2) (s : State) : Out :=
  s.plain fun s => do
    s.needQueuePrivilege n.toNat
    s.needResident
    let s ← s.commitPoint false
    match s.takeUnbound n.toNat with
    | none => .error (.wait (.message (2 ^ n.toNat)) (some s))
    | some (m, s) => pure (s.deliverMessage d m).retire

/-- RECVT: status 0 with a message, 1 without, 2 in a handler or gust. -/
def execRecvt (d : Reg) (n : BitVec 2) (s : State) : Out :=
  s.plain fun s => do
    s.needQueuePrivilege n.toNat
    let s ← s.commitPoint false
    if s.activation then pure (s.setReg (d + 8) 2).retire
    else match s.takeUnbound n.toNat with
      | none => pure (s.setReg (d + 8) 1).retire
      | some (m, s) => pure ((s.deliverMessage d m).setReg (d + 8) 0).retire

/-- HRET: a handler or gust ends (R163, R292, R300). -/
def execHret (s : State) : Out :=
  s.plain fun s => do
    ensure s.activation .strandKind
    s.awaitSequencer
    let c := s.cur.1
    let i := s.cur.2
    pure (((s.commit c i).count c 1 1).endStrand c i false)

end Sys2Proof.Machine
end

