-- ==== Sys2Proof/Machine/Table.lean ====
section
/-!
DEFINITION. The table instructions (R325 to R335): CBLOAD, HTSET, EPREQ, OWNSET, CMAP, URTSET, SCHSET, SEQNEW and SEQEND. A table
write is a release at DEVICE scope after every earlier access of the strand: what a lockstep pair holds is performed before it
(`State.performHeld`).
-/

namespace Sys2Proof.Machine

/-- CBLOAD (R331, R69): a codebook slot from 32 bytes, once every earlier MCB that names it has left the queue. -/
def execCbload (a : Reg) (n : BitVec 3) (s : State) : Out :=
  s.plainWhere (s.kind == .mcore) fun s => do
    ensure (!s.activation) .matOwner
    s.checkOwner
    s.operandSpace
    let x := s.plainAccess false
    State.aligned x (s.reg a) 32 0
    let (bs, t) ← s.loadAccess x (s.reg a) 32 0
    let t ← t.performHeld
    let t ← t.claimMatrix
    if t.me.matrix.any fun o => o.codebook == some n.toNat then .error (.wait (.codebook n.toNat) (some t))
    else pure (t.store (codebookCell t.cur.1 n.toNat 0) bs).retire

/-! ### Handler table (R326) -/

namespace State

/-- A keep region of word `i` of the block, checked: none for size 0. -/
def keepRegion (s : State) (a : Reg) (i : Nat) : Res (List (Nat × Nat)) := do
  let w := s.block a i
  let off := bits w 23 0
  let size := bits w 48 32
  tableArg (bits w 31 24 == 0) i 24
  tableArg (bits w 63 49 == 0) i 49
  tableArg (off % 64 == 0) i 0
  tableArg (size % 64 == 0 && decide (size ≤ 65536)) i 32
  tableArg (size == 0 || decide (off + size ≤ (s.localWindow s.cur.1 s.u).2)) i 0
  pure (if size = 0 then [] else [(off, size)])

/-- Whether two keep regions share a byte. -/
def keepsMeet (xs ys : List (Nat × Nat)) : Bool :=
  xs.any fun (a, n) => ys.any fun (b, m) => decide (a < b + m) && decide (b < a + n)

end State

/-- HTSET (R326). -/
def execHtset (a b : Reg) (s : State) : Out :=
  s.plain fun s => do
    let w := s.block a 0
    let q := bits w 1 0
    let type := bits w 15 8
    let pc := bits w 48 32
    let valid := bit w 16
    ensure (!(valid && q == 0 && !s.slot.mode)) .illPriv
    let i := (s.reg b).toNat
    State.tableArg (decide (i ≤ 63)) 15 0
    let k := s.me
    if !valid then do
      let s ← s.performHeld
      pure (s.setMe { s.me with handlers := AMap.erase s.me.handlers i }).retire
    else do
      State.tableArg (bits w 7 2 == 0) 0 2
      State.tableArg (bits w 31 17 == 0) 0 17
      State.tableArg (bits w 63 49 == 0) 0 49
      State.tableArg (q != 3) 0 0
      State.tableArg (type != 255) 0 8
      State.tableArg (pc % 4 == 0 && decide (pc < istoreSize s.cur.1)) 0 32
      let x ← s.keepRegion a 1
      let y ← s.keepRegion a 2
      State.tableArg (!State.keepsMeet x y) 2 0
      State.tableArg (k.handlers.all fun (j, h) => j == i || h.q != q || h.type != type) 0 0
      let h : Handler :=
        { q, type, pc := BitVec.ofNat 64 pc, keeps := x ++ y, launch := s.u.home, lcore := s.u.lcore, job := s.u.job }
      let s ← s.performHeld
      pure (s.setMe { s.me with handlers := AMap.set s.me.handlers i h }).retire

/-! ### Endpoints (R297, R329) -/

namespace State

/-- The launches that SCOPE n of KIND 0 names: live, of the job, with the counter (R297). -/
def scopeLaunches (s : State) (n : Nat) : List Nat :=
  match s.job? with
  | none => []
  | some j =>
    let c := windowCounter j (n - 1)
    (s.launches.filter fun (_, l) => some l.job == s.u.job && !l.done && l.counter.isSome && l.counter == c).map (·.1)

/-- Whether the Bezel makes a handle for a request (R329); whether the other box's job has registered a scope is free (log 8). -/
def requestOk (s : State) (r : Word) : Bool :=
  let target := bits r 15 0
  let scope := bits r 31 20
  !bit r 19 && bits r 63 32 == 0 &&
  match bits r 18 16 with
  | 0 =>
    if scope = 0 then decide (target < s.u.lcount)
    else match s.scopeLaunches scope with
      | [l] => decide (target < ((s.launch? (some l)).map (·.count)).getD 0)
      | _ => false
  | 1 => match s.job?.bind fun j => AMap.get? j.regions scope with
    | some (_, size, _) => decide (target < size)
    | none => false
  | 2 => match s.job? with
    | some j => j.mailboxes.getD target 0 != 0
    | none => false
  | 3 => s.spanReady && bit (Config.random s.drawn) 0
  | _ => false

/-- The generation for a request; a scope of KIND 0 that has come to name another launch takes the next one (R297). -/
def bindRequest (s : State) (r : Word) : Nat × State :=
  let job := s.u.job.getD 0
  let kind := bits r 18 16
  let scope := bits r 31 20
  let key := endpointKey job kind scope
  let gen := AMap.getD s.generations key 0
  if kind = 0 ∧ scope ≠ 0 then
    let l := (s.scopeLaunches scope).headD 0
    match AMap.get? s.endpoints (bindingKey job scope gen) with
    | some m =>
      if m = l then (gen, s)
      else
        let g := (gen + 1) % 65536
        (g, { s with generations := AMap.set s.generations key g, endpoints := AMap.set s.endpoints (bindingKey job scope g) l })
    | none => (gen, { s with endpoints := AMap.set s.endpoints (bindingKey job scope gen) l })
  else (gen, s)

/-- The handle of a request (R297). -/
def makeHandle (s : State) (r : Word) (gen : Nat) : Word :=
  let low : BitVec 48 := BitVec.ofNat 48 (bits r 31 0 + gen * 2 ^ 32)
  Config.handleTag s.bezel.boots low ++ low

/-- A handle entered in a job's grant tables, of 128 entries each; whether one was full. -/
def grant (s : State) (job : Option Nat) (cs : List Nat) (h : Word) : Bool × State :=
  cs.foldl (fun (full, s) c =>
    let l := s.grantsOf job c
    if l.contains h then (full, s)
    else if l.length ≥ 128 then (true, s)
    else (full, s.setGrants job c (l ++ [h]))) (false, s)

/-- A handle removed from a job's grant tables. -/
def ungrant (s : State) (job : Option Nat) (cs : List Nat) (h : Word) : State :=
  cs.foldl (fun s c => s.setGrants job c ((s.grantsOf job c).filter (· != h))) s

/-- The cores of the strand's core map, or its own. -/
def mapCores (s : State) : List Nat := match s.launch? s.u.home with | some l => l.cores.eraseDups | none => [s.cur.1]

/-- Every KIND 1 handle of a region retired: removed from every grant table, the generation raised (R297, R329). -/
def retireRegion (s : State) (job region : Nat) : State :=
  let key := endpointKey job 1 region
  let gen := AMap.getD s.generations key 0
  let live (l : List Word) : List Word :=
    l.filter fun h => !(bits h 18 16 == 1 && bits h 31 20 == region && bits h 47 32 == gen)
  let s : State := { s with
    generations := AMap.set s.generations key ((gen + 1) % 65536)
    cores := s.cores.map fun (c, k) => (c, if k.job = some job then { k with grants := live k.grants } else k) }
  s.mapJob job fun j =>
      { j with
        shares := j.shares.map fun (c, h) => (c, { h with grants := live h.grants })
        grants := j.grants.map fun (c, l) => (c, live l) }

/-- The definition of a region (R329), or its refusal. -/
def defineRegion (s : State) (r : Word) : Nat × State :=
  let region := bits r 11 0
  let first := bits r 26 16
  let size := bits r 43 32
  let ok := bits r 15 12 == 0 && bits r 31 27 == 0 && bits r 63 44 == 0 && size != 0 && decide (size ≤ 2048) &&
    decide (first + size ≤ s.u.lcount)
  if !ok then (2, s)
  else
    let job := s.u.job.getD 0
    let old := (s.job?.bind fun j => AMap.get? j.regions region).isSome
    let s := if old then s.retireRegion job region else s
    (0, s.mapJob job fun j => { j with regions := AMap.set j.regions region (first, size, s.u.home) })

/-- What EPREQ asks of the Bezel, done: the handle and the status in w(d) and w(d+1) (R329). After an alarm the Bezel refuses every request
(R410). -/
def askBezel (s : State) (d a : Reg) (f : Nat) : State :=
  let r := s.reg a
  let done (s : State) (h : Word) (status : Nat) : State := s.setPair d h (BitVec.ofNat 64 status)
  let cs := if f % 2 = 1 then s.mapCores else [s.cur.1]
  if s.bezel.alarmed then done s 0 2
  else match f with
    | 2 => done (s.ungrant s.u.job cs r) 0 0
    | 3 => done (s.ungrant s.u.job cs r) 0 0
    | 4 =>
      let (status, s) := s.defineRegion r
      done s 0 status
    | _ =>
      let ok := s.requestOk r
      let s : State := if bits r 18 16 = 3 then { s with drawn := s.drawn + 1 } else s
      if !ok then done s 0 2
      else
        let (gen, s) := s.bindRequest r
        let h := s.makeHandle r gen
        let (full, s) := s.grant s.u.job cs h
        done s h (if full then 1 else 0)

end State

/-- EPREQ (R329). It never traps on values. -/
def execEpreq (d a : Reg) (f : BitVec 3) (s : State) : Out :=
  s.plain fun s => do
    let s ← s.performHeld
    pure (s.askBezel d a f.toNat).retire

/-- OWNSET (R334). -/
def execOwnset (a b : Reg) (s : State) : Out :=
  s.plain fun s => do
    let i := (s.reg b).toNat
    State.tableArg (decide (i ≤ 15)) 15 0
    let w2 := s.block a 2
    State.tableArg (bits (s.block a 0) 63 48 == 0) 0 48
    State.tableArg (bits (s.block a 1) 63 48 == 0) 1 48
    State.tableArg (bits w2 15 6 == 0) 2 6
    State.tableArg (bits w2 31 28 == 0) 2 28
    State.tableArg (bits w2 63 43 == 0) 2 43
    State.tableArg (s.block a 3 == 0) 3 0
    let length := bits (s.block a 1) 47 0
    let job := s.u.job.getD 0
    if length = 0 then do
      let s ← s.performHeld
      pure (s.mapJob job fun j => { j with owners := AMap.erase j.owners i }).retire
    else do
      let shift := bits w2 5 0
      let count := bits w2 27 16
      let first := bits w2 42 32
      State.tableArg (decide (shift ≤ 47)) 2 0
      State.tableArg (decide (1 ≤ count ∧ count ≤ 2048)) 2 16
      State.tableArg (decide (first + count ≤ s.u.lcount)) 2 32
      let rule : OwnerRule := { base := bits (s.block a 0) 47 0, length, shift, count, first, launch := s.u.home }
      let s ← s.performHeld
      pure (s.mapJob job fun j => { j with owners := AMap.set j.owners i rule }).retire

/-! ### Core maps (R328) -/

namespace State

/-- Maps freed whose last launch that named them has been dispatched or has ended are gone. -/
def dropMaps (s : State) : State :=
  { s with maps := s.maps.filter fun (n, m) =>
      !m.freed || s.launches.any fun (_, l) => l.map == n && !l.dispatched && !l.done }

/-- The lowest free map number. -/
def freeMap (s : State) : Option Nat := AMap.freshBelow s.maps 256

/-- The flat core numbers of an explicit map. -/
def coreList (bs : List Byte) : List Nat := (List.range (bs.length / 2)).map fun i => leNat ((bs.drop (2 * i)).take 2)

end State

/-- CMAP (R328). -/
def execCmap (d a b : Reg) (h : BitVec 1) (f : BitVec 2) (s : State) : Out :=
  s.plain fun s => do
    let s := s.dropMaps
    ensure (!((f == 1 || h == 1) && !s.slot.mode)) .illPriv
    ensure (!(h == 1 && f == 0)) .illPriv
    let w := s.reg b
    let small := bit w 0
    let pair := bit w 1
    let cuff := bits w 3 2
    let n := bits w 19 8
    if f = 2 then
      let k := (s.reg a).toNat
      match AMap.get? s.maps k with
      | none => raiseAt .tableArg 15 0
      | some m => do
        State.tableArg (m.job == s.u.job && !m.freed) 15 0
        let s ← s.performHeld
        pure ({ s with maps := AMap.set s.maps k { m with freed := true } }.dropMaps).retire
    else do
      let (list, s) ← if f = 1 then do
          s.operandSpace
          State.aligned (s.plainAccess false) (s.reg a) 2 0
          let (bs, s) ← s.loadAccess (s.plainAccess false) (s.reg a) (2 * n) 0
          pure (some (State.coreList bs), s)
        else pure (none, s)
      State.tableArg (!(pair && small)) 15 1
      State.tableArg (!(cuff != 0 && !small)) 15 2
      State.tableArg (bits w 7 4 == 0) 15 4
      State.tableArg (decide (1 ≤ n ∧ n ≤ 2048)) 15 8
      State.tableArg (bits w 21 20 != 3) 15 20
      State.tableArg (bits w 63 22 == 0) 15 22
      let place := bits w 21 20
      State.tableArg (place != 2 || (list.getD []).Nodup) 15 20
      let cores := match list with
        | some cs => if State.mapLegal small pair cuff (h == 1) cs then some cs else none
        | none => s.chooseCores small pair cuff n (if place = 1 then dieOf s.cur.1 else 0) 0 (place == 0) (place == 2)
      match cores with
      | none => if f = 1 then raiseAt .tableArg 15 0 else raiseAt .tableArg (15 + 16 * 20) 0
      | some cs => match s.freeMap with
        | none => raise .tableFull
        | some k => do
          let m : CoreMap := { job := s.u.job, smallCores := small, pair, cuff, cores := cs }
          let s ← s.performHeld
          pure ({ s with maps := AMap.set s.maps k m }.setReg d (BitVec.ofNat 64 k)).retire

/-- URTSET (R333). -/
def execUrtset (a b : Reg) (s : State) : Out :=
  s.plain fun s => do
    s.needSupervisor
    let i := (s.reg b).toNat
    let base := s.block a 0
    let pages := (s.block a 1).toNat
    State.tableArg (decide (i ≤ 63)) 15 0
    State.tableArg (bits base 11 0 == 0) 0 0
    State.tableArg (bits base 63 52 == 0) 0 52
    State.tableArg (decide (pages ≤ 2 ^ 28)) 1 0
    let others := AMap.erase s.ranges i
    if pages = 0 then do
      let s ← s.performHeld
      pure { s with ranges := others }.retire
    else do
      let lo := base.toNat
      let hi := lo + pages * 4096
      State.tableArg (decide (hi ≤ 2 ^ 52)) 0 12
      State.tableArg (others.all fun (_, b, n) => decide (hi ≤ b) || decide (b + n * 4096 ≤ lo)) 0 12
      let s ← s.performHeld
      pure { s with ranges := AMap.set s.ranges i (lo, pages) }.retire

/-! ### Collective schedules (R335) -/

namespace Sched

/-- Whether the bytes of a range are zero. -/
def blank (im : List Byte) (off n : Nat) : Bool := at' im off n == 0

/-- Sends of one participant to another, before a step. -/
def sends (ms : List Move) (p q : Nat) : Nat := (ms.filter fun m => m.action == 0 && m.who == p && m.peer == q).length

/-- Receives of one participant from another. -/
def receives (ms : List Move) (q p : Nat) : Nat := (ms.filter fun m => m.action != 0 && m.who == q && m.peer == p).length

/-- The offset of the field at which an image fails, for a launch of so many logical cores; none for a legal one. A send that no receive
matches fails at its action. -/
def fault? (im : List Byte) (lcount : Nat) : Option Nat :=
  let p := members im
  let n := steps im
  let first := 16 + 4 * p
  if kind im > 3 ∨ !blank im 1 1 ∨ p < 2 ∨ p > 2048 ∨ chunks im < 1 ∨ chunks im > 4096 ∨ !blank im 6 2 ∨ !blank im 12 4 ∨
      im.length ≠ (first + 16 * n + 15) / 16 * 16 then some 0
  else
    let badMember := (List.range p).find? fun i =>
      let x := at' im (16 + 4 * i) 4
      decide (x ≥ 4096) || (x / 2048 == 0 && decide (lcount ≤ x % 2048))
    match badMember with
    | some i => some (16 + 4 * i)
    | none =>
      let ms := moves im
      let bad := (List.range n).findSome? fun i =>
        let m := move im i
        let o := first + 16 * i
        if m.who ≥ p then some o
        else if m.action > 2 then some (o + 2)
        else if !blank im (o + 3) 1 then some (o + 3)
        else if m.peer ≥ p then some (o + 4)
        else if !blank im (o + 6) 2 then some (o + 6)
        else if m.chunk ≥ chunks im then some (o + 8)
        else ((List.range 6).find? fun k => !blank im (o + 10 + k) 1).map fun k => o + 10 + k
      let lone := (List.range n).find? fun i =>
        let m := move im i
        m.action == 0 && decide (receives ms m.peer m.who ≤ sends (ms.take i) m.who m.peer)
      match bad with
      | some o => some o
      | none => lone.map fun i => first + 16 * i + 2

end Sched

namespace State

/-- Whether a die's schedule table takes an image: 64 schedules and 256 KiB (R335). -/
def schedRoom (s : State) (d n : Nat) (im : List Byte) : Bool :=
  let rest := AMap.erase (s.die d).schedules n
  decide (rest.length < 64) && decide ((rest.map fun (_, x, _) => x.length).sum + im.length ≤ 262144)

end State

/-- SCHSET (R335). -/
def execSchset (a b : Reg) (f : BitVec 1) (s : State) : Out :=
  s.plain fun s => do
    let at0 := s.block a 0
    let len := (s.block a 1).toNat
    State.tableArg (len % 16 == 0 && decide (len ≤ 65536)) 1 0
    s.operandSpace
    State.aligned (s.plainAccess false) at0 16 0
    let (im, s) ← s.loadAccess (s.plainAccess false) at0 len 0
    State.tableArg (decide ((s.reg b).toNat < 4096)) 15 0
    match Sched.fault? im s.u.lcount with
    | some off => raiseAt .tableArg (off / 16 % 256 * 16) 0
    | none => do
      let n := State.schedKey s.u.job (s.reg b).toNat
      let ds := if f = 1 then List.range 4 else [dieOf s.cur.1]
      ensure (ds.all fun d => s.schedRoom d n im) .tableFull
      let s ← s.performHeld
      pure (ds.foldl (fun s d => s.setDie d { s.die d with
        schedules := AMap.set (s.die d).schedules n (im, s.u.home) }) s).retire

/-! ### Sequences (R274, R332) -/

namespace State

/-- The lines of a key slot of which some die, or a message on its way to one, holds dirty data. -/
def dirtyLines (s : State) (k : Nat) : List Nat :=
  (s.dies.flatMap fun (d, x) => x.l2.filterMap fun (l, y) => if y.slot == k && s.dieDirty d l then some l else none) ++
  s.mesh.filterMap fun m => match m.what with
    | .data .m _ => if (s.dirLine m.line).slot == k then some m.line else none
    | _ => none

/-- The death of a key slot (R274): its L1 lines go and dirty plaintext is lost, its L2 lines are poison, and the dies begin to sweep
them. -/
def killKey (s : State) (k : Nat) : State :=
  let s := (s.dirtyLines k).foldl loseLine s
  let s : State := { s with
    cores := s.cores.map fun (c, x) => (c, { x with
      lines := x.lines.filter fun (_, _, n) => n != k
      untracked := x.untracked.filter fun (_, y) => y.slot != k })
    dies := s.dies.map fun (d, x) => (d, { x with
      l2 := x.l2.map fun (l, y) => (l, if y.slot == k then { y with present := [], dead := true } else y)
      l2clean := x.l2clean.filter fun (_, n, _) => n != k }) }
  { s with keys := AMap.set s.keys k { s.keySlot k with state := .sweeping, bound := none, sweeps := List.range 4 } }

end State

/-- SEQNEW (R332): the lowest Free slot from 1 to 255 becomes Live and unbound under a fresh key; 0 where none is Free, and after an
alarm (R410). -/
def execSeqnew (d : Reg) (s : State) : Out :=
  s.plain fun s => do
    s.needSupervisor
    let s ← s.performHeld
    if s.bezel.alarmed then pure (s.setReg d 0).retire
    else match ((List.range 255).map (· + 1)).find? fun k => (s.keySlot k).state == .free with
    | none => pure (s.setReg d 0).retire
    | some k =>
      let n := s.keysDrawn + 1
      let s : State := { s with keysDrawn := n, keys := AMap.set s.keys k { state := .live, key := n } }
      pure (s.setReg d (BitVec.ofNat 64 k)).retire

/-- SEQEND (R332). -/
def execSeqend (a : Reg) (s : State) : Out :=
  s.plain fun s => do
    s.needSupervisor
    let k := (s.reg a).toNat
    State.tableArg (decide (1 ≤ k ∧ k ≤ 255) && (s.keySlot k).state == .live) 15 0
    let s ← s.performHeld
    pure (s.killKey k).retire

end Sys2Proof.Machine
end

