-- ==== Sys2Proof/Machine/Arrivals.lean ====
section
/-!
DEFINITION. What is on its way arrives: messages (R295, R297), gusts (R304, R305), link values (R157) and pushes (R288).
-/

namespace Sys2Proof.Machine

namespace State

/-- The flight at a place of the network that comes before it to the same queue: messages arrive in the order sent (R295). -/
def firstFlight (s : State) (i : Nat) : Option Flight :=
  (s.net[i]?).bind fun f => s.net.find? fun g => g.core == f.core && g.queue == f.queue

/-- A flight taken out of the network. -/
def landFlight (s : State) (f : Flight) : State := { s with net := s.net.erase f }

/-- Whether the handle that a message was sent with has been retired: a region handle of an older generation (R297, R329). -/
def retiredHandle (s : State) (f : Flight) : Bool :=
  match f.handle, f.msg.job with
  | some h, some j => bits h 18 16 == 1 && AMap.getD s.generations (endpointKey j 1 (bits h 31 20)) 0 != bits h 47 32
  | _, _ => false

/-- Whether the logical core that a message is for has ended, or its launch has (R298). -/
def homeEnded (s : State) (m : Msg) : Bool :=
  match m.home with
  | none => false
  | some (l, lc) => match AMap.get? s.launches l with
    | none => true
    | some x => x.states.getD lc 2 == 2

/-- The job whose share of a core is saved and to which a message belongs (R376). -/
def awayJob (s : State) (c : Nat) (m : Msg) : Option Nat :=
  m.job.filter fun j => match AMap.get? s.jobs j with | some x => (AMap.get? x.shares c).isSome | none => false

/-- Whether the messages of a job are being drained (R379). -/
def draining (s : State) (m : Msg) : Option Nat :=
  m.job.filter fun j => match AMap.get? s.jobs j with | some x => x.frozen && x.image.isSome | none => false

/-- A message taken in for a job whose share is away, or whose freeze drains it; none where neither holds. -/
def divert (s : State) (c q : Nat) (m : Msg) : Option State :=
  match s.draining m with
  | some j => some (s.mapJob j fun x => { x with drained := x.drained ++ [(c, q, m)] })
  | none => match s.awayJob c m with
    | some j => some (s.mapJob j fun x => match AMap.get? x.shares c with
        | some h => { x with shares := AMap.set x.shares c { h with arrivals := h.arrivals ++ [(q, m)] } }
        | none => x)
    | none => none

/-- A message joins an arrival queue; one on AQ0 raises SYS_MESSAGE (R371). -/
def deliver (s : State) (c q : Nat) (m : Msg) : State :=
  let k := s.core c
  let s := s.setCore c { k with aq := k.aq.setIfInBounds q ((k.aq[q]?.getD []) ++ [m]) }
  if q = 0 then s.latchCore c { cause := .sysMessage, info := 0 } else s

/-- The arrival of a message (R295, R297, R298, R376, R379): a retired handle or a logical core that has ended discards it, a full queue
holds it back. -/
def arrive (s : State) (f : Flight) : State :=
  if s.retiredHandle f then (s.landFlight f).latchCore f.core { cause := .grantStale }
  else if s.homeEnded f.msg then s.landFlight f
  else match (s.landFlight f).divert f.core f.queue f.msg with
    | some t => if f.queue = 0 then (s.landFlight f).deliver f.core f.queue f.msg else t
    | none =>
      if ((s.core f.core).aq[f.queue]?.getD []).length < aqDepth f.queue then (s.landFlight f).deliver f.core f.queue f.msg
      else if f.queue = 0 then s.latchCore f.core { cause := .aq0Overflow }
      else s

/-- Whether a gust finds a place at its owner, and the state with it placed (R305). -/
def placeGust (s : State) (f : Flight) : Option State :=
  match s.divert f.core 3 f.msg with
  | some t => some t
  | none =>
    let k := s.core f.core
    let size := bits k.gspill 7 0
    let base := bits k.gspill 34 16
    if k.ring.isEmpty && k.aq[3].length < 16 then some (s.setCore f.core { k with aq := k.aq.set 3 (k.aq[3] ++ [f.msg]) })
    else if k.ring.length < size then
      let s := s.setCore f.core { k with ring := k.ring ++ [f.msg], ringNext := (k.ringNext + 1) % size }
      some (s.store (localCell f.core (base + 64 * (k.ringNext % size)))
        (((f.msg.header :: f.msg.payload).take 8).flatMap fun w => leBytes 8 w.toNat))
    else none

/-- The owner's answer reaches the slot that waits for it (R304). -/
def answer (s : State) (f : Flight) (accepted : Bool) : State :=
  match f.sender with
  | some (c, i, spawn) =>
    if (s.slotAt c i).status = .waiting .answer then s.as c i fun s => s.answerGust accepted spawn else s
  | none => s

end State

/-- MESSAGE_ARRIVAL (index): the message at a place of the network, or the one before it to the same queue, reaches its core. -/
def execMessageArrival (s : State) : Out :=
  .next (match s.firstFlight s.ev.index with
    | some f =>
      if f.queue = 3 then s
      else if s.asleep f.core then s.afterExit (dieOf f.core) { what := .messageArrival, args := s.ev }
      else s.arrive f
    | none => s)

/-- GUST_ARRIVAL (index): a gust reaches its owner, which accepts or refuses it. -/
def execGustArrival (s : State) : Out :=
  .next (match s.firstFlight s.ev.index with
    | some f =>
      if f.queue ≠ 3 then s
      else if s.asleep f.core then s.afterExit (dieOf f.core) { what := .gustArrival, args := s.ev }
      else match (s.landFlight f).placeGust f with
        | some t => t.answer f true
        | none => (s.landFlight f).answer f false
    | none => s)

namespace State

/-- The `n`-th landing of a kind, if it is the oldest of its writer for its register (R157, R286). -/
def landing? (s : State) (push : Bool) (n : Nat) : Option Landing :=
  match (s.landings.filter fun l => l.push == push)[n]? with
  | none => none
  | some l =>
    let same (m : Landing) : Bool :=
      m.push == l.push && m.writer == l.writer && m.core == l.core && m.slot == l.slot && m.n == l.n && m.unit == l.unit
    if s.landings.find? same == some l then some l else none

/-- The writer of a landing completes its instruction, or, where the target has ended, executes it anew (R157, R288). The value of a
pair's write that had retired is then lost (DESIGN CHOICE: no rule names the case; log 61). -/
def releaseWriter (s : State) (l : Landing) (landed : Bool) : State :=
  match l.writer with
  | some (c, i) =>
    if !l.completes || (s.slotAt c i).status ≠ .waiting .landing then s
    else if !landed then s.setSlotAt c i { s.slotAt c i with status := .ready }
    else s.as c i fun s => (match l.report with | some d => s.setPair d 0 0 | none => s).retire
  | none => s

/-- The value of a landing in a strand's register: appended to a queue register, or in a link register with its presence bit set. -/
def withLanding (l : Landing) (u : Strand) : Strand :=
  if l.push then
    let q := u.queues[l.n]?.getD {}
    { u with queues := u.queues.setIfInBounds l.n { q with items := q.items ++ [l.value] } }
  else
    let k := u.links[l.n]?.getD {}
    { u with links := u.links.setIfInBounds l.n { k with value := l.value, present := true } }

/-- The reservation that a landing ends. -/
def settled (l : Landing) (u : Strand) : Strand :=
  if l.push then
    let q := u.queues[l.n]?.getD {}
    { u with queues := u.queues.setIfInBounds l.n { q with reserved := q.reserved - 1 } }
  else { u with links := u.links.setIfInBounds l.n { u.links[l.n]?.getD {} with reserved := false } }

/-- A value lands in the register that was reserved for it, and in what a rollback of a target pair restores: what arrives from outside is
not undone (R157, R165, R242). A strand that has ended takes none. -/
def land (s : State) (l : Landing) : State :=
  let s : State := { s with landings := s.landings.erase l }
  let x := s.slotAt l.core l.slot
  let landed := x.u.unit == l.unit
  let s := if !landed then s
    else s.setSlotAt l.core l.slot { x with
      u := settled l (withLanding l x.u)
      pair := x.pair.map fun p => { p with
        image := p.image.map fun (u, g, m) => (withLanding l u, g, m)
        start := p.start.map (withLanding l) } }
  s.releaseWriter l landed

end State

/-- LINK_LANDING (index): an accepted link value lands, and its writer's instruction completes (R157). -/
def execLinkLanding (s : State) : Out :=
  .next (match s.landing? false s.ev.index with | some l => s.land l | none => s)

/-- QUEUE_PUSH_LANDING (index): an accepted push lands at the tail of its queue register (R288). -/
def execQueuePushLanding (s : State) : Out :=
  .next (match s.landing? true s.ev.index with | some l => s.land l | none => s)

end Sys2Proof.Machine
end

