-- ==== Sys2Proof/Machine/Context.lean ====
section
/-!
DEFINITION. Saving and loading a strand's state: CTXSV and CTXLD (R133) with all their parts (R166, R191, R322, R331, R364), and
ERET (R128), after which what a save held back goes on (R318, R364).
-/

namespace Sys2Proof.Machine

/-! ### Records of part 10 read back (R364) -/

namespace Record

/-- A collective view. -/
def readView (bs : List Byte) : CollView :=
  { issued := word bs 0, reached := word bs 8
    withdrawn := (List.range (word bs 16).toNat).map fun i =>
      let o := 64 + 64 * i
      (word bs o, word bs (o + 8), word bs (o + 16), word bs (o + 24), (word bs (o + 32)).toNat) }

/-- Whether a collective view passes its checks. -/
def viewValid (bs : List Byte) : Bool :=
  let n := (word bs 16).toNat
  decide ((word bs 8).toNat ≤ (word bs 0).toNat) && decide (n ≤ 4) && blank bs 24 40 &&
  (List.range (Nat.min n 4)).all fun i => blank bs (64 + 64 * i + 40) 24

/-- A copy command of a strand. One with all its bytes done has completed before an older one; one paused by a fault starts again with its
context, with the POLICY that its strand's MEMDEF has then (DEDUCED: the record has no field for it; R315, R318, log 61). -/
def readCopyCmd (c i : Nat) (u : Strand) (bs : List Byte) : CopyCmd :=
  let h := word bs 0
  let a := (List.range 4).map fun k => word bs (16 + 8 * k)
  let total := (copyRow (bits h 5 0) a (word bs 48) 0).2.2 * copyRows (bits h 5 0) (word bs 48)
  let done := bits (word bs 56) 62 0
  { op := bits h 5 0, mod := bits h 11 6, batch := bits h 63 32, ticket := word bs 8
    a, wb := word bs 48, policy := bits u.memdef 9 8, finished := decide (total ≤ done) && !bit (word bs 56) 63
    done, paused := bit (word bs 56) 63, started := bit (word bs 56) 63
    core := c, slot := i, unit := u.unit, job := u.job, home := u.home }

/-- A copy context that a strand holds, paused until the strand goes on. -/
def readCopyCtx (c i : Nat) (u : Strand) (bs : List Byte) : CopyCtx :=
  { owner := some (i, u.unit), issued := word bs 0, reached := word bs 8, batch := (word bs 24).toNat
    joined := bits (word bs 16) 15 8 != 0, pausing := true
    cmds := (List.range (bits (word bs 16) 7 0)).map fun k => readCopyCmd c i u ((bs.drop (64 + 64 * k)).take 64) }

/-- Whether a copy context passes its checks. -/
def copyCtxValid (bs : List Byte) : Bool :=
  let n := bits (word bs 16) 7 0
  decide ((word bs 8).toNat ≤ (word bs 0).toNat) && decide (n ≤ 16) && decide (bits (word bs 16) 15 8 ≤ n) &&
  bits (word bs 16) 63 16 == 0 && blank bs 32 32 &&
  (List.range (Nat.min n 16)).all fun k => bits (word bs (64 + 64 * k)) 31 12 == 0 && decide (bits (word bs (64 + 64 * k)) 5 0 ≤ 2)

/-- The part of a part-10 record for a view. -/
def viewAt (bs : List Byte) (m : Nat) : List Byte := (bs.drop (64 + 320 * m)).take 320
/-- The part for a copy context. -/
def ctxAt (bs : List Byte) (n : Nat) : List Byte := (bs.drop (2624 + 1088 * n)).take 1088

/-- Whether part 10 passes its checks on a core with so many contexts. -/
def timelinesValid (contexts : Nat) (bs : List Byte) : Bool :=
  let held := word bs 16
  decide ((word bs 8).toNat ≤ (word bs 0).toNat) && bits held 63 4 == 0 && blank bs 24 40 &&
  ((List.range 8).all fun m => viewValid (viewAt bs m)) &&
  (List.range 4).all fun n => (!bit held n || decide (n < contexts)) && copyCtxValid (ctxAt bs n)

end Record

namespace State

/-! ### What a part needs (R133, R166, R191, R322, R364) -/

/-- The bytes of a part on a core. -/
def partBytes (c part : Nat) : Nat :=
  match part with
  | 0 => 144
  | 1 => 320
  | 2 => 128 * maxLanes c
  | 3 => 160
  | 4 => 65536
  | 5 => 65536
  | 6 => 17440
  | 7 => 262144
  | 8 => 1408
  | 9 => 256
  | _ => 6976

/-- The parts of the matrix state. -/
def matrixPart (part : Nat) : Bool := [4, 5, 6, 7, 9].contains part

/-- Where the cells of a plain matrix part begin. -/
def partCells (c part : Nat) : Nat :=
  match part with | 4 => accCell c 0 0 0 | 5 => paccCell c 0 0 0 | 7 => weightCell c 0 | _ => codebookCell c 0 0

/-- The strand that slot `i` names may be saved or loaded: the served one, or a Halted one. -/
def slotOpen (s : State) (i : Word) : Bool :=
  decide (i.toNat < slotCount s.cur.1) &&
  (i.toNat == s.cur.2 || match (s.slotAt s.cur.1 i.toNat).status with | .halted _ => true | _ => false)

/-- Whether a slot's strand is the matrix owner. -/
def isOwner (s : State) (i : Nat) : Bool := s.me.owner == some (i, (s.strandAt s.cur.1 i).unit)

/-- The requirement of a part for a save. -/
def saveAllowed (s : State) (part i : Nat) : Bool :=
  let u := s.strandAt s.cur.1 i
  match part with
  | 0 => !u.frames.isEmpty && decide (u.wspilled < 65535)
  | 1 => u.frames.isEmpty
  | _ => !matrixPart part || s.isOwner i

/-- The requirement of a part for a load. -/
def loadAllowed (s : State) (part i : Nat) : Bool :=
  let u := s.strandAt s.cur.1 i
  match part with
  | 0 => decide (1 ≤ u.wspilled) && decide (u.frames.length + 1 < maxFrames s.cur.1)
  | 1 => u.frames.isEmpty
  | _ => !matrixPart part || s.me.owner.isNone || s.isOwner i

/-- The drain that a matrix part waits for: the queue is empty and every data stage of the core has completed (R173, R191). -/
def needDrained (s : State) (part : Nat) : Res Unit :=
  if matrixPart part && (!s.me.matrix.isEmpty || s.me.stages.any fun t => t.ticket != 0) then waitFor .drained else .ok ()

/-- The pc that a part records of a slot: EPC of the served one. -/
def savedPc (s : State) (i : Nat) : Word := if i = s.cur.2 then s.slot.epc else (s.strandAt s.cur.1 i).pc

/-- The contexts of the core that a slot's strand holds. -/
def heldContexts (s : State) (c i : Nat) : List (Option CopyCtx) :=
  let k := s.core c
  let t := (i, (s.strandAt c i).unit)
  (List.range 4).map fun n =>
    let x := k.copies[n]?.getD {}
    if s.ctxHolder x == some t then some x else none

/-- The record of a part. -/
def partRecord (s : State) (part i : Nat) : List Byte :=
  let c := s.cur.1
  let u := s.strandAt c i
  match part with
  | 0 => match u.frames.getLast? with | some f => Record.frame f | none => []
  | 1 => Record.scalar (s.savedPc i) u
  | 2 => Record.vectors (maxLanes c) u
  | 3 => Record.masks u
  | 6 =>
    Record.words [BitVec.ofNat 64 ((if u.session then 1 else 0) + 2), if i = s.cur.2 then 0 else BitVec.ofNat 64 (s.slotAt c i).eprog] ++
    s.me.tags.toList.map (BitVec.ofNat 8) ++ Record.zeros 8 ++
    s.bytes (halfCell c 0 0 0) 8192 ++ s.bytes (scaleCell c 0 0 0) 512 ++ s.bytes (halfCell c 1 0 0) 8192 ++
    s.bytes (scaleCell c 1 0 0) 512
  | 8 => Record.queues u
  | 10 =>
    let tlm := if s.isOwner i then (s.me.tlmIssued, s.me.tlmReached) else (0, 0)
    Record.timelines tlm (s.heldContexts c i) u
  | _ => s.bytes (partCells c part) (partBytes c part)

/-! ### Before a save of part 10 (R318, R364) -/

/-- Every copy context of a slot's strand pauses or goes on. -/
def pauseCopies (s : State) (c i : Nat) (pausing : Bool) : State :=
  let k := s.core c
  let t := (i, (s.strandAt c i).unit)
  s.setCore c { k with copies := k.copies.each fun x => if x.owner == some t then { x with pausing } else x }

/-- Whether every participant of a collective lies in this box: whether one of the other box has issued is known at COLL_COMPLETE alone
(DESIGN CHOICE; log 21). -/
def allHere (x : CollCmd) : Bool := (List.range (Sched.members x.image)).all fun p => !(Sched.member x.image p).2

/-- Every COLL of a strand whose participants have all issued runs to completion; the others are withdrawn (R364). -/
def settleColls (s : State) (c i : Nat) : State :=
  let d := dieOf c
  let unit := (s.strandAt c i).unit
  let s := (List.range 32).foldl (fun s k =>
    match (s.collCtx d (k / 4)).find? fun x => x.core == c && x.unit == unit && !unanswered x.fault && allHere x && (s.collGroup (k / 4) x).isSome with
    | some x => s.runColl (k / 4) x []
    | none => s) s
  s.withdrawColls c i

/-- Whether the copy contexts of a slot's strand have paused at a batch boundary: what has started of the batch of the oldest incomplete
command is complete or paused by a fault (R318). -/
def copiesPaused (s : State) (c i : Nat) : Bool :=
  let t := (i, (s.strandAt c i).unit)
  (s.core c).copies.toList.all fun x => x.owner != some t ||
    match x.cmds.find? fun d => !d.finished with
    | none => true
    | some o => x.cmds.all fun d => d.finished || d.paused || !d.started || d.batch != o.batch

/-- The engines of a strand held back for a save. -/
def holdEngines (s : State) (c i : Nat) : State := (s.pauseCopies c i true).settleColls c i

/-- The engines of a strand that goes on: its contexts run, and its withdrawn collectives are issued again. -/
def resumeEngines (s : State) (c i : Nat) : State := (s.pauseCopies c i false).reissueWithdrawn c i

/-! ### Loading (R133) -/

/-- Part 10 laid into its core for a slot's strand (R364). -/
def loadTimelines (s : State) (i : Nat) (bs : List Byte) : State :=
  let c := s.cur.1
  let u := s.strandAt c i
  let k := s.me
  let held := Record.word bs 16
  let mine := some (i, u.unit)
  let old := ((List.range 4).map fun n =>
    let x := k.copies[n]?.getD {}
    if x.owner == mine then unfinished x else 0).sum
  let copies : Vector CopyCtx 4 := Vector.ofFn fun n =>
    if bit held n.val then s.withWritten (Record.readCopyCtx c i u (Record.ctxAt bs n.val))
    else if k.copies[n].owner == mine then {} else k.copies[n]
  let new := ((List.range 4).map fun n => if bit held n then unfinished (copies[n]?.getD {}) else 0).sum
  let k := { k with copies }
  let k := if s.isOwner i then { k with tlmIssued := Record.word bs 0, tlmReached := Record.word bs 8, tlmDone := [] } else k
  let s := (s.setMe k).mapUnit u.unit fun x => { x with outstanding := x.outstanding + new - old }
  s.setStrandAt c i { s.strandAt c i with views := Vector.ofFn fun m => Record.readView (Record.viewAt bs m.val) }

/-- Whether part 10 would take a context that another strand holds or still uses (R364). -/
def timelinesOpen (s : State) (i : Nat) (bs : List Byte) : Bool :=
  let mine := some (i, (s.strandAt s.cur.1 i).unit)
  (List.range 4).all fun n =>
    !bit (Record.word bs 16) n ||
    (let x := s.me.copies[n]?.getD {}
     match s.ctxHolder x with | none => true | some o => some o == mine)

/-- A record of a part that is checked as a whole laid into a slot's strand; none where a check fails. -/
def loadRecord (s : State) (part i : Nat) (bs : List Byte) : Option State :=
  let c := s.cur.1
  let u := s.strandAt c i
  match part with
  | 0 => some (s.setStrandAt c i { u with frames := u.frames ++ [Record.readFrame bs], wspilled := u.wspilled - 1 })
  | 1 =>
    if !Record.scalarValid bs then none
    else
      let pc := Record.word bs 0
      if i = s.cur.2 then
        let s := s.setStrandAt c i { Record.readScalar bs u with pc := u.pc }
        some (s.setSlot { s.slot with epc := pc })
      else some (s.setStrandAt c i (Record.readScalar bs u))
  | 3 => if Record.masksValid (maxLanes c) bs then some (s.setStrandAt c i (Record.readMasks (maxLanes c) bs u)) else none
  | 6 =>
    let flags := Record.word bs 0
    let tags := (bs.drop 16).take 8
    if bits flags 63 2 ≠ 0 ∨ !Record.blank bs 24 8 ∨ !tags.all (fun b => decide (b.toNat ≤ 5)) then none
    else
      let s := (((s.store (halfCell c 0 0 0) ((bs.drop 32).take 8192)).store (scaleCell c 0 0 0) ((bs.drop 8224).take 512)).store
        (halfCell c 1 0 0) ((bs.drop 8736).take 8192)).store (scaleCell c 1 0 0) ((bs.drop 16928).take 512)
      let s := s.setMe { s.me with tags := Vector.ofFn fun n => (tags.getD n.val 0).toNat }
      let s := s.setStrandAt c i { u with session := bit flags 0, clasps := 0 }
      some (if i = s.cur.2 then s else s.setSlotAt c i { s.slotAt c i with eprog := bits (Record.word bs 8) 15 0 })
  | 8 =>
    if Record.queuesValid (s.kind == .mcore) bs then some (s.setStrandAt c i (Record.readQueues (s.savedPc i) bs u)) else none
  | 10 =>
    if Record.timelinesValid (copyContexts c) bs && s.timelinesOpen i bs then some (s.loadTimelines i bs) else none
  | _ => some s

/-- Bytes of a part that is loaded word by word, laid in from an offset on. -/
def loadPiece (s : State) (part i off : Nat) (bs : List Byte) : State :=
  let c := s.cur.1
  if part = 2 then
    let u := s.strandAt c i
    let n := maxLanes c
    let old := Record.vectors n u
    s.setStrandAt c i (Record.readVectors n n (old.take off ++ bs ++ old.drop (off + bs.length)) u)
  else s.store (partCells c part + off) bs

/-- Whether a part is loaded word by word. -/
def pieceLoaded (part : Nat) : Bool := [2, 4, 5, 7, 9].contains part

/-! ### Moving words (R133) -/

/-- GLOBAL at class RLX and scope CORE. -/
def contextAccess (writes : Bool) : Access :=
  { attr := { cls := 0, scope := 0, space := 0, policy := 0, use := 0 }, reads := !writes, writes }

/-- Words stored in order, page by page; progress counts those moved. -/
def moveOut (a : Word) : (n k : Nat) → List Byte → State → Res State
  | 0, _, _, s => .ok s
  | n + 1, k, bs, s =>
    if bs.isEmpty then .ok s
    else
      let at0 := a + BitVec.ofNat 64 (8 * k)
      let len := Nat.min bs.length (4096 - at0.toNat % 4096)
      match s.storeAccess (contextAccess true) at0 (bs.take len) k with
      | .error e => .error (keepSteps s k e)
      | .ok s => moveOut a n (k + len / 8) (bs.drop len) s

/-- Words read in order, page by page, each run given to `take` with its offset. -/
def moveIn (a : Word) (take : Nat → List Byte → State → State) : (n k left : Nat) → State → Res State
  | 0, _, _, s => .ok s
  | n + 1, k, left, s =>
    if left = 0 then .ok s
    else
      let at0 := a + BitVec.ofNat 64 (8 * k)
      let len := Nat.min left (4096 - at0.toNat % 4096)
      match s.loadAccess (contextAccess false) at0 len k with
      | .error e => .error (keepSteps s k e)
      | .ok (bs, s) => moveIn a take n (k + len / 8) (left - len) (take (8 * k) bs s)

/-- A record checked as a whole, read on from the words already moved, `got`: a stop keeps them with their number. -/
def readRecord (a : Word) : (n : Nat) → (got : List Byte) → (left : Nat) → State → Res (List Byte × State)
  | 0, got, _, s => .ok (got, s)
  | n + 1, got, left, s =>
    if left = 0 then .ok (got, s)
    else
      let k := got.length / 8
      let at0 := a + BitVec.ofNat 64 (8 * k)
      let len := Nat.min left (4096 - at0.toNat % 4096)
      match s.loadAccess (contextAccess false) at0 len k with
      | .error e => .error (keepSteps (s.setSlot { s.slot with moved := got }) k e)
      | .ok (bs, s) => readRecord a n (got ++ bs) (left - len) s

/-- The words that a resumed CTXLD has moved, where the slot holds EPROG.STEP of them; else none, and it reads them all (log 34). -/
def movedWords (s : State) : List Byte := if s.slot.moved.length = 8 * s.slot.eprog then s.slot.moved else []

/-- The checks common to CTXSV and CTXLD, for a part that the core has (R133, R208). -/
def contextChecks (s : State) (ws wa : Word) (allowed writes : Bool) : Res Unit := do
  s.needSupervisor
  ensure (s.slotOpen ws && allowed) .ctxState
  aligned (contextAccess writes) wa 16 0

end State

/-- CTXSV (R133). -/
def execCtxsv (d a : Reg) (p : BitVec 11) (s : State) : Out :=
  s.plainWhere (partOn s.kind p.toNat) fun s => do
    let ws := s.reg d
    let part := p.toNat
    let i := ws.toNat
    s.contextChecks ws (s.reg a) (s.saveAllowed part i) true
    s.needDrained part
    let s := if part = 10 then s.holdEngines s.cur.1 i else s
    if part = 10 && !s.copiesPaused s.cur.1 i then .error (.wait (.paused i) (some s)) else do
    let k := s.slot.eprog
    let bs := s.partRecord part i
    let s ← State.moveOut (s.reg a) (bs.length / 4096 + 2) k (bs.drop (8 * k)) s
    let u := s.strandAt s.cur.1 i
    let s := if part = 0 then s.setStrandAt s.cur.1 i { u with frames := u.frames.dropLast, wspilled := u.wspilled + 1 } else s
    pure s.finishSteps

/-- CTXLD (R133). -/
def execCtxld (d a : Reg) (p : BitVec 11) (s : State) : Out :=
  s.plainWhere (partOn s.kind p.toNat) fun s => do
    let ws := s.reg d
    let part := p.toNat
    let i := ws.toNat
    s.contextChecks ws (s.reg a) (s.loadAllowed part i) false
    s.needDrained part
    let n := State.partBytes s.cur.1 part
    let own (s : State) : State :=
      if State.matrixPart part then
        let u := s.strandAt s.cur.1 i
        s.setMe { s.me with owner := some (i, u.unit), lastJob := some u.job }
      else s
    if State.pieceLoaded part then do
      let k := s.slot.eprog
      let s ← State.moveIn (s.reg a) (fun off bs s => s.loadPiece part i off bs) (n / 4096 + 2) k (n - 8 * k) (own s)
      pure s.finishSteps
    else do
      let got := s.movedWords
      let (bs, s) ← State.readRecord (s.reg a) (n / 4096 + 2) got (n - got.length) s
      match (own (s.setSlot { s.slot with moved := [] })).loadRecord part i bs with
      | none => raise .ctxState
      | some s => pure s.finishSteps

/-- ERET: the return from a trap (R128); engines that a save held back go on with their strand (R318). -/
def execEret (s : State) : Out :=
  s.plain fun s => do
    s.needSupervisor
    let t := s.returnFromTrap.count s.cur.1 1 1
    pure (if t.slot.mode then t else t.resumeEngines t.cur.1 t.cur.2)

end Sys2Proof.Machine
end

