-- ==== Sys2Proof/Machine/Counter.lean ====
section
/-!
DEFINITION. Timelines and counters: TLWAIT, TLWAITB, TLREAD, CNTWAIT, CANCEL, PHADV, PHREAD, PCNT (R339 to R348, R357 to R363).
-/

namespace Sys2Proof.Machine

namespace State

/-- ISSUED and REACHED of a timeline (R339). -/
def timelineOf (s : State) (t : Nat) : Word × Word :=
  if t ≤ 3 then ((s.copyCtx t).issued, (s.copyCtx t).reached)
  else if t = 4 then (s.me.tlmIssued, s.me.tlmReached)
  else if t = 16 then (s.bezel.hashIssued, s.bezel.hashReached)
  else if t = 17 then (s.bezel.signIssued, s.bezel.signReached)
  else
    let v := s.u.views[t - 8]?.getD {}
    (v.issued, v.reached)

/-- Batches of a context with a command that has not completed (R342), those that a pair holds among them. -/
def openBatches (s : State) (n : Nat) : Nat :=
  let held := match s.slot.pair with
    | none => []
    | some p => p.held.filterMap fun e => match e with | .copy _ k d => if k == n then some d.batch else none | _ => none
  (((s.copyCtx n).cmds.filter fun d => !d.finished).map (·.batch) ++ held).eraseDups.length

/-- The absolute number of a counter of the strand's job, or COUNTER_RANGE (R344, R346). -/
def ownCounter (s : State) (n : Nat) : Res Nat :=
  match s.job?.bind fun j => State.windowCounter j n with
  | some c => .ok c
  | none => raiseAt .counterRange 0 (BitVec.ofNat 64 n)

end State

/-- TLWAIT (R341). -/
def execTlwait (a t : Reg) (s : State) : Out :=
  s.plainWhere (timelineOn s.kind t.toNat) fun s => do
    s.needResident
    let n := s.reg a
    let (issued, reached) := s.timelineOf t.toNat
    if issued.ult n then raiseAt .timelineArg 0 n
    else if reached.ult n then waitFor (.timeline t.toNat n)
    else pure s.retire

/-- TLWAITB (R342). -/
def execTlwaitb (n t : Reg) (s : State) : Out :=
  s.plainWhere (timelineOn s.kind t.toNat) fun s => do
    s.needResident
    if n.toNat < s.openBatches t.toNat then waitFor (.batches t.toNat n.toNat) else pure s.retire

/-- TLREAD (R343). -/
def execTlread (d : Reg) (i : BitVec 1) (t : Reg) (s : State) : Out :=
  s.plainWhere (timelineOn s.kind t.toNat) fun s => do
    let (issued, reached) := s.timelineOf t.toNat
    pure (s.setReg d (if i = 1 then issued else reached)).retire

/-- CNTWAIT (R347). -/
def execCntwait (d a b : Reg) (s : State) : Out :=
  s.plain fun s => do
    s.needResident
    let c ← s.ownCounter (bits (s.reg a) 11 0)
    let v := BitVec.ofNat 32 (bits (s.reg b) 31 0)
    if s.reached (c, v) || s.unitCancelled then pure (s.setReg d (s.counterWord c)).retire else waitFor (.counter c v)

namespace State

/-- CANCEL of a level (R348): every live instance of the level, in a job, whose command carried CEN with the counter. -/
def cancelLevel (s : State) (job level c : Nat) : State :=
  let launches := s.launches.filter fun (_, l) => l.job == job && !l.done && l.counter == some c
  let graphs := s.graphs.filter fun (_, g) => g.job == job && !g.done && g.counter == some c
  let phases := ((AMap.get? s.jobs job).map fun j => j.phases.filter fun (_, p) => !p.done && p.counter == some c).getD []
  match level with
  | 1 => launches.foldl (fun s (n, _) => s.cancelUnstarted n) (s.dropUnplaced job fun l => l.counter == some c)
  | 2 => launches.foldl (fun s (n, _) => s.cancelLaunch n 2) (s.dropUnplaced job fun l => l.counter == some c)
  | 3 => graphs.foldl (fun s (n, _) => s.cancelGraph n 3) s
  | 4 => phases.foldl (fun s (n, _) => s.cancelPhase job n 4) s
  | _ => s.cancelJob job

end State

/-- CANCEL (R348). -/
def execCancel (a : Reg) (l : BitVec 3) (s : State) : Out :=
  s.plain fun s => do
    let n := bits (s.reg a) 11 0
    let c ← if l.toNat = 5 then pure 0 else s.ownCounter n
    match s.u.job with
    | none => pure s.retire
    | some j => pure (s.retire.cancelLevel j l.toNat c)

namespace State

/-- Engine commands that the strand's pair holds, and the PHADVs among what it holds (R163). -/
def heldEngines (s : State) : Bool × Nat :=
  match s.slot.pair with
  | none => (false, 0)
  | some p => (p.held.any fun e => match e with | .copy .. => true | .coll .. => true | .walk .. => true | _ => false,
      (p.held.filter fun e => match e with | .phase _ => true | _ => false).length)

end State

/-- PHADV (R257, R359): once every engine command that the core issued has reached its timeline, the dirty untracked bytes go out,
the untracked lines are dropped, and PHASE rises. A pair holds it. -/
def execPhadv (d : Reg) (s : State) : Out :=
  s.plain fun s => do
    let s := if s.heldEngines.1 then s.commit s.cur.1 s.cur.2 else s
    let k := s.me
    if s.enginesBusy s.cur.1 then .error (.wait .engines (some s))
    else
      let phased := match k.job.bind fun n => AMap.get? s.jobs n with | some j => j.untracked | none => false
      let before := s.heldEngines.2
      let s ← s.emit (.phase s.cur.1)
      let new := k.phase + (if phased then BitVec.ofNat 64 (before + 1) else 0) + s.phaseOffset
      pure (s.setReg d new).retire

/-- PHREAD (R360). -/
def execPhread (d a : Reg) (s : State) : Out :=
  s.plain fun s => do
    s.needResident
    let x := s.gphase + s.phaseOffset
    if (s.reg a).ult x || s.unitCancelled then pure ((s.seePhase x).setReg d x).retire else waitFor (.gphase (s.reg a))

/-- PCNT (R362). -/
def execPcnt (d a b : Reg) (f : BitVec 2) (s : State) : Out :=
  s.plain fun s => do
    let n := bits (s.reg a) 1 0
    if f = 0 then pure (s.setReg d (s.me.pmc[n]?.getD 0)).retire
    else do
      ensure s.slot.mode .illPriv
      if f = 1 then
        let e := bits (s.reg a) 15 8
        ensure (decide (e ≤ 13)) .illFunction
        pure ((s.setMe { s.me with events := s.me.events.setIfInBounds n e }).setReg d 0).retire
      else pure ((s.setMe { s.me with pmc := s.me.pmc.setIfInBounds n (s.reg b) }).setReg d 0).retire

end Sys2Proof.Machine
end

