-- ==== Sys2Proof/Machine/Cuff.lean ====
section
/-!
DEFINITION. Cuffs (R158 to R160), and the checkpoints of lockstep pairs (R164).
-/

namespace Sys2Proof.Machine

namespace State

/-- Every slot of a core closed or opened. -/
def closeSlots (s : State) (c : Nat) (closed : Bool) : State :=
  s.setCore c { s.core c with slots := (s.core c).slots.each fun x => { x with closed := closed } }

/-- The members of a cuff of the core whose word executes. -/
def members (s : State) (k : Nat) : List Nat := (List.range k).map fun m => s.cur.1 + m

/-- A cuff of 2^n members around the strand of slot 0: every other slot of every member closed (R36, R159). Each register keeps
its value wherever it is held (R158). -/
def composeCuff (s : State) (n : Nat) : State :=
  let s := (s.members (2 ^ n)).foldl (fun s c => s.closeSlots c true) s
  let s := s.setSlot { s.slot with closed := false }
  s.setU { s.u with cuff := n }

/-- The members' slots open again, the strand plain (R160). -/
def decomposeCuff (s : State) : State :=
  let s := (s.members (2 ^ s.u.cuff)).foldl (fun s c => s.closeSlots c false) s
  s.setU { s.u with cuff := 0 }

/-- Whether every slot of the members but the strand's own is free, and no member holds a pending start (R159). -/
def membersFree (s : State) (k : Nat) : Bool :=
  (s.members k).all fun c =>
    (s.core c).starts.isEmpty &&
    (List.range (slotCount c)).all fun i => (c, i) == s.cur || (s.slotAt c i).status == .free

end State

/-- CMPS. -/
def execCmps (k : BitVec 2) (s : State) : Out :=
  s.plainWhere (s.kind == .score) fun s => do
    let n := k.toNat
    ensure (!s.activation && s.u.cuff == 0 && s.cur.2 == 0 && (s.cur.1 - 128) % 8 % 2 ^ n == 0) .composeState
    ensure (s.membersFree (2 ^ n)) .composeState
    pure (s.composeCuff n).retire

/-- DCMP. -/
def execDcmp (s : State) : Out :=
  s.plain fun s => do
    ensure (s.u.cuff != 0) .composeState
    pure s.decomposeCuff.retire

/-- CKPT: the checks; in a lockstep pair then a commit, whose image the strand resumes after the CKPT. -/
def execCkpt (a : Reg) (c : BitVec 2) (s : State) : Out :=
  s.plain fun s => do
    let wa := (s.reg a).toNat
    let size := 8192 + 65536 * (c.toNat % 2 + c.toNat / 2)
    let limit := match s.u.window with | some (_, n) => n | none => s.scratchBytes s.cur.1
    let base := match s.u.window with | some (b, _) => b | none => 0
    if wa % 256 ≠ 0 then raiseAt .misaligned 0 (s.reg a)
    else if wa + 2 * size > limit then raiseAt .localRange 0 (BitVec.ofNat 64 (Nat.max wa limit))
    else match s.slot.pair with
      | none => pure s.retire
      | some p =>
        let s := (s.setSlot { s.slot with pair := some { p with area := some (base + wa, c.toNat) } }).retire
        pure (s.commit s.cur.1 s.cur.2)

end Sys2Proof.Machine
end

