-- ==== Sys2Proof/Machine/Slots.lean ====
section
/-!
DEFINITION. Strands and slots as events: taking an asynchronous cause (R367, R369), the end of a wait (R11), the gale (R30), and
the filling of a slot (R23, R25, R40, R301), with the passing of a core to another job (R199, R376).
-/

namespace Sys2Proof.Machine

namespace State

/-! ### Asynchronous causes (R367, R370) -/

/-- The latched cause that is taken first: the lowest order, and among equals the oldest. -/
def firstCause : List Latched → Option Latched
  | [] => none
  | l :: ls => match firstCause ls with
    | some m => if m.cause.order < l.cause.order then some m else some l
    | none => some l

/-- Whether a slot stands at an instruction boundary where a cause can be taken (R86, R367): not between the words of a group, and
not in the short waits whose instruction has begun. A group whose target waits has not executed. -/
def atBoundary (x : Slot) : Bool :=
  match x.status with
  | .ready => x.pre.isNone
  | .waiting _ => !shortWait x
  | _ => false

/-- Whether a slot takes an asynchronous cause now. A GUST that has been accepted and waits for the sequencer before it ends takes no FREEZE
there: an image has nowhere to say that the gust has left (DESIGN CHOICE; log 61). -/
def takesCause (s : State) (c i : Nat) : Bool :=
  let x := s.slotAt c i
  atBoundary x && s.causePends c i && !(x.u.leaving && (firstCause x.latched).any fun l => l.cause == .freeze)

/-- Whether slot 0 of a core without strands takes a cause in its idle context (R369). -/
def idleTakes (s : State) (c i : Nat) : Bool :=
  i == 0 && (s.slotAt c 0).status == .free && (s.strandsOn c).isEmpty && !(s.slotAt c 0).latched.isEmpty

/-- A cause that halts or ends a strand even while it waits for a reply (R216, R218). -/
def halting (l : Latched) : Bool := match l.cause with | .cancel => true | .preempt => true | .freeze => true | _ => false

/-- Whether a strand that waits for a fault reply leaves that wait to halt or to end. -/
def leavesReply (s : State) (c i : Nat) : Bool :=
  let x := s.slotAt c i
  s.native && x.status == .waiting .reply && x.latched.any halting

/-- Whether the strand of a slot is halted. -/
def halted? (x : Slot) : Bool := match x.status with | .halted _ => true | _ => false

/-- Whether a halted strand is to end. -/
def endsHalted (s : State) (c i : Nat) : Bool :=
  let x := s.slotAt c i
  s.native && halted? x && x.latched.any fun l => l.cause == .cancel

/-- The pending asynchronous cause of highest priority taken by a slot: PREC = 0, the progress of its instruction kept (R366). -/
def takeCause (s : State) (c i : Nat) : State :=
  let x := s.slotAt c i
  match firstCause x.latched with
  | none => s
  | some l =>
    let s := s.setSlotAt c i { x with latched := x.latched.erase l }
    s.takeTrap c i false l.cause l.info l.eaddr (if x.mode then 0 else x.eprog)

/-- The record that a strand waits on withdrawn, and the strand back at its boundary; a refusal found there cancels its job (R218). -/
def dropReply (s : State) (c i : Nat) : State :=
  match (s.slotAt c i).fault with
  | none => s.as c i returnFromTrap
  | some r =>
    let (refused, s) := s.withdrawRecord r
    let s := s.setSlotAt c i { s.slotAt c i with fault := some { r with withdrawn := true } }
    let s := s.as c i returnFromTrap
    if refused then s.cancelJobFor r.job .xlateRefused else s

/-- A cancelled strand ends: its unstarted commands go, its slot becomes Free (R349). -/
def endCancelled (s : State) (c i : Nat) : State := (s.discardUnstarted c (s.strandAt c i).unit).endStrand c i true

end State

/-- ASYNC_CAUSE_TAKEN (core, slot, index: the steps of an MLDA, MLDB or MSTD issue stage made before it): a slot with IE set takes its
pending cause at its boundary (R179, R367), a strand that waits for a reply
first leaves that wait where the cause halts or ends it (R216), a halted strand that is cancelled ends; a cause that waits at the core
for a slot goes to the lowest slot that accepts, and one of a core without strands is taken in the idle context of slot 0 (R369). -/
def execAsyncCauseTaken (s : State) : Out :=
  let c := s.ev.core
  let i := s.ev.slot
  let k := s.core c
  let s := if k.latched.isEmpty then s
    else k.latched.foldl (fun s l => s.latchCore c l) (s.setCore c { k with latched := [] })
  .next (if s.endsHalted c i then s.endCancelled c i
    else
      let s := if s.leavesReply c i then s.dropReply c i else s
      if s.takesCause c i then
        let s := if (s.slotAt c i).status = .ready then s.as c i fun s => s.stepPartly s.ev.index else s
        s.takeCause c i
      else if s.idleTakes c i then
        let s := s.takeCause c i
        s.setSlotAt c i { s.slotAt c i with idle := true }
      else s)

namespace State

/-! ### Waits (R11) -/

/-- The resident strand of a logical core of a launch as a target (R155). -/
def launchTarget (s : State) (l lc : Nat) : Target :=
  match s.findStrand l lc with
  | some (c, i) => .here c i
  | none => match (s.launch? (some l)).map fun x => x.states.getD lc 2 with
    | some 0 => .notStarted
    | some 1 => .away
    | _ => .ended

/-- Whether the condition that a slot waits for holds. The waits that an event of their own ends never hold. -/
def waitHolds (s : State) (c i : Nat) : Wait → Bool
  | .message m => s.someUnbound c m || s.cancelledAt c i
  | .linkValue n => ((s.strandAt c i).links[n]?.getD {}).present
  | .linkTarget l lc n => match s.launchTarget l lc with
    | .here k j => s.linkFree k j n
    | .ended => true
    | _ => false
  | .queueValue n => !((s.strandAt c i).queues[n]?.getD {}).items.isEmpty
  | .queueTarget l lc n => match s.launchTarget l lc with
    | .here k j => s.queueFree k j n
    | .ended => true
    | _ => false
  | .room k q => s.aqRoom k q
  | .mailbox j n => s.mailboxRoom j n
  | .watch key n old => BitVec.ofNat 64 (s.num key n) != old
  | .timeline t n => !({ s with cur := (c, i) }.timelineOf t).2.ult n
  | .batches x n => decide ({ s with cur := (c, i) }.openBatches x ≤ n)
  | .counter k v => s.reached (k, v) || s.cancelledAt c i
  | .gphase v => v.ult (s.gphase + { s with cur := (c, i) }.phaseOffset) || s.cancelledAt c i
  | .copyRoom x => decide (outstanding ((s.core c).copies[x]?.getD {}) < 16)
  | .collRoom n => decide ((s.collCtx (dieOf c) n).length < 4)
  | .walkRoom => decide ({ s with cur := (c, i) }.walkCount < 8)
  | .matrixRoom => decide ((s.core c).matrix.length < 4)
  | .matrix m =>
    if m = 0 then (s.core c).matrix.isEmpty && (s.core c).stages.all fun t => t.unit != (s.strandAt c i).unit
    else (s.core c).matrix.all fun o => o.acc &&& m == 0 && o.pacc &&& m / 256 == 0
  | .drained => (s.core c).matrix.isEmpty && (s.core c).stages.all fun t => t.ticket == 0
  | .half h => (s.core c).stages.all fun t => t.ticket == 0 || t.half != some h
  | .weights off n => (s.core c).stages.all fun t => t.half.isSome || decide (off + n ≤ t.offset) || decide (t.offset + t.rb ≤ off)
  | .zeroing => !(s.core c).zeroing
  | .codebook n => (s.core c).matrix.all fun o => o.codebook != some n
  | .clasp _ => false
  | .gangOpen =>
    let t := s.strandAt c i
    let others := (s.rowMembers c (t.launch.getD 0) (t.lcore / 8)).filter (· != (c, i))
    others.length == 7 && others.all (fun (k, j) => s.waitsGang k j) && !s.rowOpen c
  | .rowFree =>
    let mine := ((s.strandAt c i).launch.getD 0, (s.strandAt c i).lcore / 8)
    (s.core c).rowHolder.all (· == mine) && (s.core c).owner.all (· == (i, (s.strandAt c i).unit))
  | .align pc =>
    let t : State := { s with cur := (c, i) }
    t.alignPeers.all fun (k, j) => s.atAlign pc k j
  | .repetition => !((s.strandAt c i).rep.active && decide ((s.strandAt c i).rep.iteration < (s.strandAt c i).rep.count))
  | .paused k => s.copiesPaused c k
  | .engines => !s.enginesBusy c
  | .shootdown _ => false
  | .placed l => match AMap.get? s.launches l with | some x => x.dispatched || x.done || x.cancelled | none => true
  | .span va w => !s.spanHolds (s.strandAt c i).job va w
  | .line l => !s.homeBusy l || !s.atomicBusy (dieOf c) l || (s.l2Line (dieOf c) l).state != .i
  | .spanAtomic _ _ _ _ => false
  | .spanLink => s.spanReady
  | .reply => false
  | .landing => false
  | .answer => false
  | .aligned => false

/-- A waiting slot made Ready; its instruction executes anew. -/
def wake (s : State) (c i : Nat) : State := s.setSlotAt c i { s.slotAt c i with status := .ready }

end State

/-- WAIT_SATISFIED (core, slot): a strand in WAITFOR goes on once its condition holds (R11). -/
def execWaitSatisfied (s : State) : Out :=
  let c := s.ev.core
  let i := s.ev.slot
  .next (match (s.slotAt c i).status with
    | .waiting w => if s.waitHolds c i w then s.wake c i else s
    | _ => s)

/-- HALIGN_TIMEOUT (core, slot): a stall at an HALIGN ends after 256 cycles (R33). -/
def execHalignTimeout (s : State) : Out :=
  .next (match (s.slotAt s.ev.core s.ev.slot).status with
    | .waiting (.align _) => s.as s.ev.core s.ev.slot State.retire
    | _ => s)

/-- BANK_RETENTION (core, slot, ctx): an active bank of a slot enters retention and keeps its content (R138). -/
def execBankRetention (s : State) : Out :=
  let t := s.strandAt s.ev.core s.ev.slot
  let banks := if t.banks[s.ev.ctx]?.getD .off = .active then t.banks.setIfInBounds s.ev.ctx .retention else t.banks
  .next (s.setStrandAt s.ev.core s.ev.slot { t with banks := banks })

namespace State

/-! ### The gale (R30, R40, R352) -/

/-- Whether a launch is a producer of some data wait: its CNT is one of the counters. -/
def produces (l : Launch) (cs : List (Nat × BitVec 32)) : Bool :=
  match l.counter with | some c => cs.any fun w => w.1 == c | none => false

/-- Whether a node of the job that names one of a launch's data-wait counters has a unit that has not started, wherever the node waits
(R352). -/
def producersWait (s : State) (l : Launch) : Bool :=
  (s.launches.any fun (_, p) => p.job == l.job && !p.done && produces p l.dataWaits && p.states.any (· == 0)) ||
  (AMap.get? s.jobs l.job).any fun j => j.unplaced.any fun p => produces p l.dataWaits

/-- Whether a node that is dispatched now is an early consumer: some data wait is not reached (R35). -/
def earlyConsumer (s : State) (l : Launch) : Bool := l.dataWaits.any fun w => !s.reached w

/-- The starts that a gale makes on a core: one for each logical core mapped to it that has not started and is not pending anywhere,
in logical order. -/
def galeStarts (s : State) (n : Nat) (l : Launch) (c : Nat) : List Start :=
  (List.range l.count).filterMap fun lc =>
    if l.cores.getD lc 1024 == c && l.states.getD lc 2 == 0 &&
        s.cores.all (fun (_, k) => k.starts.all fun t => t.launch != n || t.lcore != lc) then
      some { launch := n, lcore := lc, barred := l.early }
    else none

end State

/-- GALE (launch, core): the wake message of a launch reaches a core, which records its pending starts (R30): no more than 16, as the
dispatch saw to. A retained die's core takes it after the die's exit (R414); a freeze of the job has withdrawn it (R378). -/
def execGale (s : State) : Out :=
  let c := s.ev.core
  .next (if s.asleep c then s.afterExit (dieOf c) { what := .gale, args := s.ev }
  else match AMap.get? s.launches s.ev.launch with
    | some l =>
      if l.dispatched && !l.cancelled && !l.done && !(AMap.get? s.jobs l.job).any (·.frozen) then
        let k := s.core c
        s.setCore c { k with starts := k.starts ++ s.galeStarts s.ev.launch l c }
      else s
    | none => s)

namespace State

/-! ### Passing a core to another job (R199, R324, R361, R376) -/

/-- The SPSIZE.SP that the micro-kernel gives a core when it passes to a job (log 23). -/
def givenSp (c : Nat) : Nat := match coreKind c with | .mcore => 64 | .score => 16 | .bezel => 0

/-- The GSPILL that it gives with that: SIZE and SPAWN at their reset values, and BASE so that the ring fills the top of the scratchpad, as
R433 has it for 16 KiB (log 23). -/
def givenSpill (c : Nat) : Word :=
  if givenSp c = 0 then 0x2040 else BitVec.ofNat 64 (0x2040 + (givenSp c * 1024 - 4096) * 2 ^ 16)

/-- Whether a strand of a core is halted by pre-emption or its slot is free. -/
def vacated (x : Slot) : Bool :=
  match x.status with | .free => true | .halted .preempt => true | _ => false

/-- Whether the frames of a strand can all be saved with CTXSV part 0 (R133). -/
def framesSavable (u : Strand) : Bool := decide (u.wspilled + u.frames.length ≤ 65535)

/-- Whether every slot of a core is free, or holds a pre-empted strand whose state can be saved: its frames, and its matrix state with
nothing in flight; no value is on its way to its registers (R133, R157, R373, R376). Walk commands, and the commands of strands that have
ended, are done before: what they transfer belongs to the job that has the core (R199). -/
def canPass (s : State) (c : Nat) : Bool :=
  s.matrixIdle c && (s.core c).walks.isEmpty &&
  ((List.range (slotCount c)).all fun i => vacated (s.slotAt c i) && s.copiesPaused c i) &&
  (s.landings.all fun l => l.core != c && l.writer.all (·.1 != c)) &&
  ((s.core c).copies.toList.all fun x => x.cmds.all fun d =>
    d.finished || (s.occupied.contains (c, d.slot) && (s.strandAt c d.slot).unit == d.unit)) &&
  (List.range (slotCount c)).all fun i => vacated (s.slotAt c i) && framesSavable (s.strandAt c i)

/-- The slots that a halted strand keeps closed beside its own: those of a cuff's other members, and the odd core's of a pair. -/
def openShape (s : State) (c i : Nat) (x : Slot) : State :=
  let s := if x.u.cuff = 0 then s
    else (List.range (2 ^ x.u.cuff)).foldl (fun s m => s.closeSlots (c + m) false) s
  if x.pair.isSome then s.setSlotAt (c + 1) i { s.slotAt (c + 1) i with closed := false } else s

/-- The same slots closed again around a strand put back (R161, R162). -/
def closeShape (s : State) (c i : Nat) (x : Slot) : State :=
  let s := if x.u.cuff = 0 then s else s.as c i fun s => s.composeCuff x.u.cuff
  if x.pair.isSome then s.setSlotAt (c + 1) i { s.slotAt (c + 1) i with closed := true } else s

/-- Whether those slots are free for a strand of a share. -/
def shapeOpen (s : State) (c i : Nat) (x : Slot) : Bool :=
  (x.u.cuff == 0 || (List.range (2 ^ x.u.cuff)).all fun m => m == 0 ||
    (List.range (slotCount (c + m))).all fun j => (s.slotAt (c + m) j).status == .free && !(s.slotAt (c + m) j).closed) &&
  (!x.pair.isSome || ((s.slotAt (c + 1) i).status == .free && !(s.slotAt (c + 1) i).closed))

/-- The share of a core that a pre-empted job saves (R376): the arrivals that come later are added to it. -/
def saveShare (s : State) (c : Nat) : State :=
  let k := s.core c
  match k.job with
  | none => s
  | some j =>
    let halted := (List.range (slotCount c)).filter fun i => (s.slotAt c i).status != .free
    if halted.isEmpty then s
    else
      let owner := if s.ownerAway c then (s.core c).owner.map (·.1) else none
      let s := (if owner.isSome then s.parkOwner c else s).flushL1 c
      let k := s.core c
      let sram := s.mem.filter fun (a, _) => decide (codebookCell c 0 0 ≤ a) && decide (a < codebookCell c 0 0 + 256)
      let s := s.moveCells (localCell c 0) (savedCell j c 0) (k.sp * 1024)
      let mine (m : Msg) : Bool := m.job == some j
      let moved := ((List.range 3).flatMap fun q => ((k.aq[q + 1]?.getD []).filter mine).map fun m => (q + 1, m)) ++
        (k.ring.filter mine).map fun m => (3, m)
      let share : Share :=
        { sp := k.sp, gspill := k.gspill, cells := sram, handlers := k.handlers, grants := k.grants, copies := k.copies.toList, arrivals := moved
          slots := halted.map fun i => (i, s.slotAt c i), owner }
      let s := s.mapJob j fun x => { x with shares := AMap.set x.shares c share }
      let s := share.slots.foldl (fun s (i, x) => s.openShape c i x) s
      let k := { k with slots := (s.core c).slots }
      s.setCore c { s.core c with
        aq := Vector.ofFn fun q => if q.val = 0 then k.aq[q] else k.aq[q].filter fun m => !mine m
        ring := k.ring.filter fun m => !mine m
        copies := Vector.replicate 4 {}
        slots := k.slots.each fun x => if x.status = .free then x else { x with status := .free, outer := none, u := {}, pair := none } }

/-- A core passed to a job: the share of a pre-empted job saved, the core out of the minimum, the tables and the scratchpad cleared, SPSIZE
and GSPILL written, the performance counters zero (R199, R324, R358, R361, R376). -/
def passCore (s : State) (c : Nat) (job : Option Nat) : State :=
  if (s.core c).job == job then s
  else
    let s := (((s.chargeMeter c).saveShare c).becomePassive c).resplit c (givenSp c)
    let s := s.wipe (codebookCell c 0 0) 256
    let grants := s.grantsOf job c
    let s := match job with | some q => s.mapJob q fun j => { j with grants := AMap.erase j.grants c } | none => s
    s.setCore c { s.core c with
      job, gspill := givenSpill c, handlers := [], grants, pmc := Vector.replicate 4 0, events := Vector.replicate 4 0 }

/-- What the restoration of a share adds to a core's meter, in quarter M-core-cycles (R354). -/
def restoreCharge (s : State) (c : Nat) : Nat := Config.restoreCycles c s.steps * if coreKind c = .mcore then 4 else 1

/-- A saved strand put back in a slot: the supervisor frame and the trap registers stay the slot's own (R106, R107), and HPRIO restarts
(R89). -/
def slotAgain (here saved : Slot) : Slot :=
  { saved with
    epc := here.epc, ecause := here.ecause, eaddr := here.eaddr, moved := [], sw := here.sw
    spc := if saved.mode then saved.spc else here.spc, u := { saved.u with hprio := 0 } }

/-- A share written back before a strand of the job resumes on the core (R376): SPSIZE and scratchpad, tables and codebooks, copy
contexts, then the recorded arrivals ahead of any new one; the strands with the shapes and the matrix state that they had. The core joins
the minimum again (R358), and the cycles of the restoration, a free number, count for the job (R354; log 7). -/
def restoreShare (s : State) (c job : Nat) : State :=
  match (AMap.get? s.jobs job).bind fun j => AMap.get? j.shares c with
  | none => s
  | some h =>
    let s := (s.passCore c (some job)).resplit c h.sp
    let s : State := { s with mem := h.cells.foldl (fun m (a, b) => Memory.put m a b) s.mem }
    let s := s.moveCells (savedCell job c 0) (localCell c 0) (h.sp * 1024)
    let k := s.core c
    let back (q : Nat) : List Msg := h.arrivals.filterMap fun (p, m) => if p = q then some m else none
    let aq : Vector (List Msg) 4 := Vector.ofFn fun q => if q.val = 3 then (back 3 ++ k.aq[q]).take 16 else back q.val ++ k.aq[q]
    let s := s.setCore c { k with
      gspill := h.gspill, meter := k.meter + s.restoreCharge c, handlers := h.handlers, grants := h.grants
      copies := Vector.ofFn fun n => h.copies.getD n.val {}, aq
      ring := (back 3 ++ k.aq[3]).drop 16 ++ k.ring
      slots := Vector.ofFn fun i => match AMap.get? h.slots i.val with | some x => slotAgain k.slots[i] x | none => k.slots[i] }
    let s := h.slots.foldl (fun s (i, x) => s.closeShape c i x) s
    let s := match h.owner with | some i => s.unparkMatrix c i | none => s
    let s := if h.slots.isEmpty then s else s.joinMinimum c (some job)
    s.mapJob job fun x => { x with shares := AMap.erase x.shares c }

/-- Whether what a job saved of a core can be put back there: the slots that its strands keep closed are free. -/
def shareFits (s : State) (c : Nat) (job : Option Nat) : Bool :=
  match (job.bind fun q => AMap.get? s.jobs q).bind fun j => AMap.get? j.shares c with
  | some h => h.slots.all fun (i, x) => s.shapeOpen c i x
  | none => true

/-! ### Filling a slot (R25) -/

/-- What may fill a slot: the activation at a place of an arrival queue, or the oldest pending start. -/
inductive Candidate where
  | handler (q : Nat) (m : Msg) (index : Nat) (h : Handler)
  | gust (m : Msg)
  | start (t : Start)
  deriving DecidableEq, Repr

/-- The head activation of an arrival queue: its oldest bound arrival. -/
def headActivation (k : Core) (q : Nat) : Option Candidate :=
  if q = 3 then (k.aq[3].head?).map .gust
  else (k.aq[q]?.getD []).findSome? fun m =>
    (k.handlers.find? fun (_, h) => h.q == q && h.type == bits m.header 7 0).map fun (i, h) => .handler q m i h

/-- The job to which a candidate's strand belongs. -/
def candidateJob (s : State) : Candidate → Option Nat
  | .handler _ _ _ h => h.job
  | .gust m => (s.launch? (m.home.map (·.1))).map (·.job)
  | .start t => (s.launch? (some t.launch)).map (·.job)

/-- Whether a job has saved a share of a core: its strands of that core are halted (R376). -/
def hasShare (s : State) (c : Nat) (job : Option Nat) : Bool :=
  (job.bind fun q => AMap.get? s.jobs q).any fun j => (AMap.get? j.shares c).isSome

/-- Whether a core is a job's, or can pass to it (R199); what the job has saved of the core comes back with its strands alone. -/
def passable (s : State) (c : Nat) (job : Option Nat) : Bool :=
  job == (s.core c).job || (s.canPass c && !s.hasShare c job)

/-- Whether a job is halted on a core, by a freeze or a pre-emption: its activations there run after the resumption (R39, R378). -/
def haltedOn (s : State) (c : Nat) (job : Option Nat) : Bool :=
  ((job.bind fun q => AMap.get? s.jobs q).any (·.frozen)) || s.hasShare c job ||
  (List.range (slotCount c)).any fun i => (s.slotAt c i).u.job == job &&
    match (s.slotAt c i).status with | .halted .preempt => true | .halted .freeze => true | _ => false

/-- The odd core's slot of a pair, and the members of a cuff, as a start needs them: free, on cores of the job (R36, R37, R199). -/
def shapeFits (s : State) (c i : Nat) : Candidate → Bool
  | .start t => match AMap.get? s.launches t.launch with
    | some l =>
      if l.pair then (s.slotAt (c + 1) i).status == .free && s.passable (c + 1) (some l.job)
      else if l.cuff != 0 then
        i == 0 && (List.range (2 ^ l.cuff)).all fun m =>
          (m == 0 || s.passable (c + m) (some l.job)) &&
          (List.range (slotCount (c + m))).all fun j => (c + m, j) == (c, 0) || (s.slotAt (c + m) j).status == .free
      else true
    | none => false
  | _ => true

/-- Whether a start is barred from a slot: the progress slot, while the bar of R352 stands. -/
def barredAt (s : State) (c i : Nat) (t : Start) : Bool :=
  t.barred && i + 1 == slotCount c && match AMap.get? s.launches t.launch with | some l => s.producersWait l | none => false

/-- Whether a candidate may fill a slot: R40's bar on the progress slot, R39's wait of a halted job, and R199's rule of one job on a core. -/
def eligible (s : State) (c i : Nat) (x : Candidate) : Bool :=
  (match x with | .start t => !s.barredAt c i t | _ => true) && !s.haltedOn c (s.candidateJob x) &&
  s.passable c (s.candidateJob x) && s.shapeFits c i x

/-- The candidates for a slot in the order of R25, with their ranks: of the pending starts the oldest that no bar holds back (R40). -/
def candidates (s : State) (c i : Nat) : List (Nat × Candidate) :=
  let k := s.core c
  let all : List (Nat × Option Candidate) :=
    [(0, headActivation k 0), (1, (k.starts.find? fun t => !s.barredAt c i t).map .start), (2, headActivation k 1), (3, headActivation k 2),
     (4, headActivation k 3)]
  all.filterMap fun (r, x) => x.bind fun y => if s.eligible c i y then some (r, y) else none

/-- The candidate taken: one passed over 16 times goes first (R25). -/
def choose (s : State) (c i : Nat) : Option (Nat × Candidate) :=
  let cs := s.candidates c i
  match cs.find? fun (r, _) => decide (16 ≤ (s.core c).passed[r]?.getD 0) with
  | some x => some x
  | none => cs.head?

/-- The counts of those passed over (R25). -/
def countPassed (s : State) (c i r : Nat) : State :=
  let ranks := (s.candidates c i).map (·.1)
  let k := s.core c
  s.setCore c { k with passed := Vector.ofFn fun n =>
    if n.val = r then 0 else if r < n.val && ranks.contains n.val then k.passed[n] + 1 else k.passed[n] }

/-- A gust of the spill ring moves into AQ3 whenever that has room (R305). -/
def refillGusts (s : State) (c : Nat) : State :=
  let k := s.core c
  if k.aq[3].length < 16 then
    match k.ring with
    | [] => s
    | m :: ms => s.setCore c { k with aq := k.aq.set 3 (k.aq[3] ++ [m]), ring := ms }
  else s

/-- A strand placed in a Free slot, Ready at its first word; a core of a job with untracked phases joins the minimum (R358). -/
def placeStrand (s : State) (c i : Nat) (u : Strand) (pair : Option Pair) : State :=
  let s := s.joinMinimum c u.job
  s.setSlotAt c i { s.slotAt c i with
    status := .ready, mode := false, ie := true, nest := false, eprog := 0, pre := none, service := none, outer := none, fault := none
    pair, u }

/-- The initial registers of an activation: w0, then w1 to w7 from the payload (R23). -/
def activationRegs (w0 : Word) (payload : List Word) : Vector Word 24 :=
  Vector.ofFn fun i => if i.val = 0 then w0 else if i.val ≤ 7 then payload.getD (i.val - 1) 0 else 0

/-- The launch that an activation counts toward: the sender's while it has not completed (R26). -/
def countedLaunch (s : State) (m : Msg) : Option Nat := m.launch.filter fun l =>
  match AMap.get? s.launches l with | some x => !x.done | none => false

/-- The odd core of a pair joins the strand in a slot of the even one: it passes to the job (R199) and takes over the even one's split
and scratchpad (R162). -/
def joinOdd (s : State) (c i : Nat) (job : Option Nat) : State :=
  let s := s.passCore (c + 1) job
  let s := (s.setCore (c + 1) { s.core (c + 1) with sp := (s.core c).sp }).mirrorCore c [0]
  s.setSlotAt (c + 1) i { s.slotAt (c + 1) i with closed := true }

/-- The members of a cuff of 2^n join the strand in slot 0 of its leader: they pass to the job (R36, R199). -/
def joinMembers (s : State) (c i n : Nat) (job : Option Nat) : State :=
  ((List.range (2 ^ n)).foldl (fun s m => s.passCore (c + m) job) s).as c i fun s => s.composeCuff n

/-- The resident strand of a start (R23, R310), composed as its launch says (R37, R160). -/
def beginStart (s : State) (c i : Nat) (t : Start) : State :=
  match AMap.get? s.launches t.launch with
  | none => s
  | some l =>
    let (n, s) := s.newUnit { job := some l.job, launch := some t.launch, lcore := t.lcore }
    let g : Vector Word 8 := Vector.ofFn fun r => if 1 ≤ r.val ∧ r.val ≤ 4 then l.args.getD (r.val - 1) 0 else 0
    let u : Strand :=
      { job := some l.job, launch := some t.launch, home := some t.launch, unit := some n, lcore := t.lcore, lcount := l.count
        g, pc := l.entry, window := l.windows[t.lcore]? }
    let s := s.placeStrand c i u (if l.pair then some { start := some u } else none)
    let s := if l.pair then s.joinOdd c i (some l.job) else s
    let s := if l.cuff != 0 then s.joinMembers c i l.cuff (some l.job) else s
    s.mapLaunch t.launch fun l => { l with states := l.states.set t.lcore 1, unitsStarted := l.unitsStarted + 1 }

/-- The strand of a handler activation (R23, R301, R327). -/
def beginHandler (s : State) (c i : Nat) (m : Msg) (index : Nat) (h : Handler) : State :=
  let launch := s.countedLaunch m
  let (n, s) := s.newUnit { job := m.job, launch, resident := false }
  s.placeStrand c i
    { kind := .handler, job := h.job, launch, home := h.launch, unit := some n, lcore := h.lcore
      lcount := ((s.launch? h.launch).map (·.count)).getD 0, w := activationRegs m.header m.payload, pc := h.pc, keeps := h.keeps
      entry := index, window := s.launchWindow h.launch h.lcore } none

/-- The strand of a gust (R23, R304). -/
def beginGust (s : State) (c i : Nat) (m : Msg) : State :=
  let launch := s.countedLaunch m
  let (n, s) := s.newUnit { job := m.job, launch, resident := false }
  let home := m.home.map (·.1)
  s.placeStrand c i
    { kind := .gust, job := (s.launch? home).map (·.job), launch, home, unit := some n, lcore := (m.home.map (·.2)).getD 0
      lcount := ((s.launch? home).map (·.count)).getD 0, w := activationRegs 1 m.payload
      pc := BitVec.ofNat 64 (bits m.header 46 32 * 4), entry := bits m.header 51 48, window := s.launchWindow home ((m.home.map (·.2)).getD 0) } none

/-- A Free slot filled with the first candidate (R25), the core passing to its job where it is another's (R199). -/
def fillSlot (s : State) (c i : Nat) : State :=
  match s.choose c i with
  | none => s
  | some (r, x) =>
    let s := (s.countPassed c i r).passCore c (s.candidateJob x)
    let k := s.core c
    match x with
    | .start t => (s.setCore c { k with starts := k.starts.erase t }).beginStart c i t
    | .handler q m j h =>
      ((s.setCore c { k with aq := k.aq.setIfInBounds q ((k.aq[q]?.getD []).erase m) }).count c 10 1).beginHandler c i m j h
    | .gust m =>
      (((s.setCore c { k with aq := k.aq.set 3 (k.aq[3].erase m) }).refillGusts c).count c 10 1).beginGust c i m

/-- Whether a slot can be filled at all: on a core that the ROM has released (R398), of a die that is not in retention; the Bezel never
is (R401). -/
def fillable (s : State) (c i : Nat) : Bool :=
  let x := s.slotAt c i
  decide (i < slotCount c) && x.status == .free && !x.closed && !(s.core c).doubled && s.bezel.released &&
    !s.asleep c

/-- Whether another free slot of the core has a candidate of higher rank, which goes first (R25): a start of a cuff, which only slot 0 takes,
is not held back by what the other slot could take. -/
def fillsLater (s : State) (c i : Nat) : Bool :=
  match s.choose c i with
  | none => false
  | some (r, _) => (List.range (slotCount c)).any fun j => j != i && s.fillable c j && (s.choose c j).any fun x => decide (x.1 < r)

end State

/-- SLOT_FILL (core, slot): a Free slot takes the first eligible candidate (R25). -/
def execSlotFill (s : State) : Out :=
  .next (if s.fillable s.ev.core s.ev.slot && !s.fillsLater s.ev.core s.ev.slot then s.fillSlot s.ev.core s.ev.slot else s)

end Sys2Proof.Machine
end

