-- ==== Sys2Proof/Machine/Row.lean ====
section
/-!
DEFINITION. Events of the row array: the clasp (R175, R177), the ends of zeroing, of queued operations and of data stages (R170,
R173, R174, R176), the switch and the gating of a row (R179, R386, R414), and the mismatch of a lockstep pair (R165).
-/

namespace Sys2Proof.Machine

namespace State

/-! ### The clasp (R175) -/

/-- The slot of a column of a row that is inside a session. -/
def sessionSlot (s : State) (row col : Nat) : Option (Nat × Nat) :=
  s.occupied.find? fun (k, i) => k == row * 8 + col && (s.strandAt k i).session

/-- The members of the session open on a row, column by column. -/
def sessionMembers (s : State) (row : Nat) : List (Nat × Nat) := (List.range 8).filterMap (s.sessionSlot row)

/-- The word with which a slot waits at the clasp. -/
def claspWord (s : State) (k i : Nat) : Option (BitVec 32) :=
  match (s.slotAt k i).status with | .waiting (.clasp w) => some w | _ => none

/-- One member released: its instruction starts, marked by EPROG.STEP 1 (R178) and by the clasp's number. -/
def releaseMember (s : State) (id k i : Nat) : State :=
  let x := s.slotAt k i
  s.setSlotAt k i { x with status := .ready, eprog := 1, u := { x.u with clasps := x.u.clasps + 1, claspId := id, issue := [] } }

/-- The columns whose words differ from column 0, as bits (R175). -/
def claspColumns (words : List (BitVec 32)) : Nat :=
  ((List.range 8).map fun j => if words.getD j 0 != words.headD 0 then 2 ^ j else 0).sum

/-- Eight members released together, column by column. -/
def releaseMembers (s : State) (ms : List (Nat × Nat)) : State :=
  let t := ms.foldl (fun t (k, i) => t.releaseMember s.nextId k i) s
  { t with nextId := s.nextId + 1, turns := t.turns ++ ms }

/-- The clasp of a row: with all eight members waiting, their words are compared and the operation starts, or every member traps with
the columns that differ from column 0 (R175). -/
def clasp (s : State) (row : Nat) : State :=
  let ms := s.sessionMembers row
  let words := ms.filterMap fun (k, i) => s.claspWord k i
  let columns := claspColumns words
  if ms.length != 8 || words.length != 8 then s
  else if columns != 0 then ms.foldl (fun s (k, i) => s.takeTrap k i true .gangMismatch columns 0 0) s
  else s.releaseMembers ms

/-- Whether a word is MLDA, MLDB or MSTD. -/
def rowLoad (w : BitVec 32) : Bool :=
  match decodeWord w with
  | .ok (.mlda ..) => true
  | .ok (.mldb ..) => true
  | .ok (.mstd ..) => true
  | _ => false

/-- Whether a slot serves a trap of the memory and translation group that its MLDA, MLDB or MSTD has raised, from the entry until ERET
(R177, R371). -/
def servesLoad (s : State) (k i : Nat) : Bool :=
  let x := s.slotAt k i
  x.mode && match x.outer with
    | some (cause, pc) => bit cause 8 && decide (16 ≤ bits cause 6 0 ∧ bits cause 6 0 ≤ 31) &&
        rowLoad ({ s with cur := (k, i) }.wordAt pc.toNat)
    | none => false

/-- Whether a strand on the row waits for a session of another launch to close (R179). -/
def waitsForSession (s : State) (row : Nat) : Bool :=
  s.rowOpen (row * 8) && s.occupied.any fun (k, i) =>
    coreKind? k == some .mcore && rowOf k == row && !(s.strandAt k i).session &&
    (match (s.slotAt k i).status with | .waiting .gangOpen => true | .waiting .rowFree => true | _ => false) &&
    (s.sessionMembers row).any fun (m, j) => (s.strandAt m j).launch != (s.strandAt k i).launch

/-- Whether the row watchdog is paused: a member serves a fault of its matrix load or store, the row is halted by pre-emption or
freeze, or a strand waits for another launch's session to close (R177). -/
def watchPaused (s : State) (row : Nat) : Bool :=
  s.waitsForSession row || (s.sessionMembers row).any fun (k, i) =>
    s.servesLoad k i || match (s.slotAt k i).status with | .halted .preempt => true | .halted .freeze => true | _ => false

end State

/-- CLASP_RELEASE (row). -/
def execClaspRelease (s : State) : Out := .next (s.clasp s.ev.row)

/-- GANG_TIMEOUT (row): the row watchdog expires, and every member that waits at the clasp traps (R177). -/
def execGangTimeout (s : State) : Out :=
  .next (if s.watchPaused s.ev.row then s
    else (s.sessionMembers s.ev.row).foldl (fun s (k, i) =>
      if (s.claspWord k i).isSome then s.takeTrap k i true .gangTimeout 0 0 0 else s) s)

/-! ### The matrix unit (R170, R173, R174) -/

/-- MATRIX_ZEROING_DONE (core): the zeroing for a new owner is over (R170). -/
def execMatrixZeroingDone (s : State) : Out :=
  .next (s.setCore s.ev.core { s.core s.ev.core with zeroing := false })

/-- MATRIX_OP_COMPLETE (core): the oldest queued operation leaves the queue (R173). -/
def execMatrixOpComplete (s : State) : Out :=
  .next (s.setCore s.ev.core { s.core s.ev.core with matrix := (s.core s.ev.core).matrix.drop 1 })

namespace State

/-- The stages of one gang load on the eight cores of a row. -/
def gangStages (s : State) (row index : Nat) : List (Nat × DataStage) :=
  (List.range 8).filterMap fun j =>
    ((s.core (row * 8 + j)).stages.find? fun t => t.gang && t.offset == index).map fun t => (row * 8 + j, t)

/-- The data stages of a gang load complete: each column's core reads its share once, and every core of the row has all rows (R176). -/
def completeGang (s : State) (row : Nat) (all : List (Nat × DataStage)) : State :=
  let by_ (i : Nat) : Nat × Option Nat :=
    let c := row * 8 + i / 4
    (c, ((all.find? fun (k, _) => k == c).map fun (_, t) => t.unit).getD none)
  let (bytes, s) := s.readRows by_ 0 ((all.head?.map fun (_, t) => t.rows).getD [])
  all.foldl (fun s (k, t) => s.endStage k t bytes) s

/-- A data stage completed, after those before it that write the same bytes: that of a gang load on all eight cores at once, once every
share is there (R173, R174, R176). One that meets a line that its home cannot serve now waits for it (R270). -/
def finishStage (s : State) (c i : Nat) : State :=
  match (s.core c).stages[i]? with
  | none => s
  | some t => match s.stageStop c t with
    | some (l, k) => s.askHome c l false k
    | none =>
    if !t.gang then if stageReady t && s.stageFirst c t then s.completeStage c t else s
    else
      let all := s.gangStages (rowOf c) t.offset
      if all.length = 8 ∧ all.all (fun (k, t) => stageReady t && s.stageFirst k t) then s.completeGang (rowOf c) all else s

end State

/-- DATA_STAGE_COMPLETE (core, index): an MLDA's or MLDB's data stage completes, and TLM reaches its ticket (R174). -/
def execDataStageComplete (s : State) : Out := .next (s.finishStage s.ev.core s.ev.index)

namespace State

/-! ### Shared rows (R179, R386) and row gating (R414) -/

/-- The owner's matrix state of a core parked with its strand, and zeroed; the core is then without an owner. -/
def parkMatrix (s : State) (c : Nat) : State :=
  if (s.core c).owner.isNone then s else (s.parkOwner c).zeroMatrix c

/-- Whether a row's matrix queues and data stages are empty and no session is open on it: a gang boundary (R179). -/
def gangBoundary (s : State) (row : Nat) : Bool :=
  !s.rowOpen (row * 8) && (List.range 8).all fun j =>
    (s.core (row * 8 + j)).matrix.isEmpty && (s.core (row * 8 + j)).stages.isEmpty

/-- The switch of a shared row to a logical row of a launch at a gang boundary: ROW_SWITCH is raised on its cores, and the matrix
state of each core becomes that of the logical row's strand (R179, R371, R386). -/
def switchRow (s : State) (row launch lrow : Nat) : State :=
  if !s.gangBoundary row then s
  else
    let s := (List.range 8).foldl (fun s j => s.parkMatrix (row * 8 + j)) s
    let s := (s.rowMembers (row * 8) launch lrow).foldl (fun s (k, i) => s.unparkMatrix k i) s
    (List.range 8).foldl (fun s j =>
      if s.freeCore (row * 8 + j) then s else s.latchCore (row * 8 + j) { cause := .rowSwitch }) s

end State

/-- ROW_SWITCH (row, launch, index: the logical row). -/
def execRowSwitch (s : State) : Out := .next (s.switchRow s.ev.row s.ev.launch s.ev.index)

namespace State

/-- Whether a core's matrix unit is idle and the job of its last owner has ended (R414). -/
def gateable (s : State) (c : Nat) : Bool :=
  let k := s.core c
  let ended := match k.lastJob with | some (some j) => (AMap.get? s.jobs j).isNone | _ => true
  k.owner.isNone && k.matrix.isEmpty && k.stages.isEmpty && ended

/-- A core's matrix state lost; the next claim is a first one. -/
def gateCore (s : State) (c : Nat) : State :=
  let s := s.zeroMatrix c
  s.setCore c { s.core c with lastJob := none }

end State

/-- ROW_GATE (row): an idle row whose last owners' jobs have ended loses its matrix state; the next claim zeroes it (R414). -/
def execRowGate (s : State) : Out :=
  let cores := (List.range 8).map fun j => s.ev.row * 8 + j
  .next (if cores.all s.gateable then cores.foldl State.gateCore s else s)

/-! ### Lockstep pairs (R165) -/

namespace State

/-- What an accepted effect had reserved, given back when it is discarded: link and queue registers, tickets, outstanding commands. -/
def revoke (s : State) (c i : Nat) : Effect → State
  | .link k j n _ unit =>
    let t := s.strandAt k j
    if t.unit != unit then s
    else s.setStrandAt k j { t with links := t.links.setIfInBounds n { t.links[n]?.getD {} with reserved := false } }
  | .push k j n _ unit =>
    let t := s.strandAt k j
    let q := t.queues[n]?.getD {}
    if t.unit != unit then s
    else s.setStrandAt k j { t with queues := t.queues.setIfInBounds n { q with reserved := q.reserved - 1 } }
  | .copy k ctx d =>
    let x := s.core k
    let y := x.copies[ctx]?.getD {}
    (s.setCore k { x with copies := x.copies.setIfInBounds ctx { y with issued := y.issued - 1 } }).engineDone d.unit
  | .coll _ n d =>
    let t := s.strandAt c i
    let v := t.views[n]?.getD {}
    (s.setStrandAt c i { t with views := t.views.setIfInBounds n { v with issued := v.issued - 1 } }).engineDone d.unit
  | .walk _ w => s.engineDone w.unit
  | _ => s

/-- The held effects of a pair discarded. -/
def discardHeld (s : State) (c i : Nat) : State :=
  match (s.slotAt c i).pair with
  | none => s
  | some p =>
    let s := p.held.foldl (fun s e => s.revoke c i e) s
    s.setSlotAt c i { s.slotAt c i with pair := some { p with held := [] } }

/-- A strand restored from an image, with the reservations that its registers have now (R157, R288). -/
def withReservations (now u : Strand) : Strand :=
  { u with
    links := Vector.ofFn fun n => { u.links[n] with reserved := now.links[n].reserved }
    queues := Vector.ofFn fun n => { u.queues[n] with reserved := now.queues[n].reserved } }

/-- Both cores restore the last image, or the start state, and resume at its pc (R165). -/
def restoreImage (s : State) (c i : Nat) (p : Pair) : State :=
  let back : Option (Strand × Nat × List Host.Cell) := match p.image with
    | some x => some x
    | none => p.start.map fun u => (u, 0, [])
  match back with
  | none => s
  | some (u, prog, cells) =>
    let cover := if p.image.isSome then p.cover else 0
    let s := if cover % 2 = 1 then s.wipe (accCell c 0 0 0) 65536 else s
    let s := if cover / 2 % 2 = 1 then s.wipe (paccCell c 0 0 0) 65536 else s
    let s : State := { s with mem := cells.foldl (fun m (a, b) => Memory.put m a b) s.mem }
    let u := State.withReservations (s.strandAt c i) u
    s.setSlotAt c i { s.slotAt c i with 
      status := .ready, mode := false, ie := true, nest := false, service := none, pre := none, eprog := prog, u := u }

/-- A mismatch of a lockstep pair (R165). Between the words of a group nothing is compared (R86), and an effect that has left the pair and
has no answer yet is compared with the commit that follows it (R163; DEDUCED, log 61). -/
def mismatch (s : State) (c i : Nat) : State :=
  match (s.slotAt c i).pair with
  | none => s
  | some p =>
    if ((s.slotAt c i).pre.isSome && (s.slotAt c i).status == .ready) || shortWait (s.slotAt c i) then s else
    let s := s.discardHeld c i
    let cover := match p.area with | some (_, n) => n | none => 0
    let uncovered := p.touched &&& (3 - cover % 4)
    if p.unprotected ∨ uncovered ≠ 0 then s.takeTrap c i true .lockMismatch 1 0 0
    else
      let s := s.restoreImage c i { p with cover := cover }
      let s := s.setSlotAt c i { s.slotAt c i with pair := ((s.slotAt c i).pair.map fun q => { q with mismatches := p.mismatches + 1 }) }
      if p.mismatches = 0 then s else s.takeTrap c i true .lockMismatch 0 0 0

end State

/-- LOCKSTEP_MISMATCH (core, slot): the compare of a pair finds a difference (R165). -/
def execLockstepMismatch (s : State) : Out := .next (s.mismatch s.ev.core s.ev.slot)

end Sys2Proof.Machine
end

