-- ==== Sys2Proof/Machine/Engines.lean ====
section
/-!
DEFINITION. Events of the engines: a copy command, a collective, a command of the Bezel's engines and a range walk complete (R239,
R316, R319, R321), and the host's reply to a fault record is taken (R214, R215, R316, R448).
-/

namespace Sys2Proof.Machine

namespace State

/-- Whether a command of a context may go on (R316, R318): one that a fault has paused not while it waits for a reply nor while its context
pauses, and in a context that pauses only what has started of the batch of its oldest incomplete command. -/
def copyMayRun (x : CopyCtx) (d : CopyCmd) : Bool :=
  !d.finished && if d.paused then !x.pausing && !unanswered d.fault
    else !x.pausing || (d.started && (x.cmds.find? fun y => !y.finished).all fun o => o.batch == d.batch)

end State

/-- COPY_COMMAND_COMPLETE (core, ctx, index): a command of a copy context runs to its end or to a fault (R315, R316). -/
def execCopyCommandComplete (s : State) : Out :=
  let x := (s.core s.ev.core).copies[s.ev.ctx]?.getD {}
  .next (match x.cmds[s.ev.index]? with
    | some d => if State.copyMayRun x d then s.runCopy s.ev.core s.ev.ctx d else s
    | none => s)

/-- COLL_COMPLETE (die, ctx): a collective of a die's context whose participants have all issued completes; `bytes` are the sources of
participants in the other Span box, flag: their schedule, type, operation or COUNT differs (R319, R335). -/
def execCollComplete (s : State) : Out :=
  .next (match s.readyColl s.ev.die s.ev.ctx with
    | some x => s.runColl s.ev.ctx x s.ev.bytes s.ev.flag
    | none => s)

/-- BEZEL_ENGINE_COMPLETE (flag: the signature engine, else the hash engine): its oldest command completes (R321). -/
def execBezelEngineComplete (s : State) : Out := .next (if s.ev.flag then s.completeSign else s.completeHash)

/-! ### Range walks (R237 to R239) -/

namespace State

/-- The cores whose L1s a walk of a scope reaches (R238, R243). -/
def walkedCores (c : Nat) (w : WalkCmd) : List Nat :=
  match w.scope with
  | 0 => (List.range w.members).map (c + ·)
  | 1 => if c = 1023 then [c] else allCores.filter fun k => dieOf k == dieOf c && k != 1023 && tileOf k == tileOf c
  | 2 => allCores.filter fun k => dieOf k == dieOf c
  | _ => allCores

/-- The dies whose L2 a walk of a scope reaches. -/
def walkedDies (c : Nat) (w : WalkCmd) : List Nat :=
  if w.scope < 2 then [] else if w.scope = 2 then [dieOf c] else List.range 4

/-- A tracked line's dirty copies in L1s written to their die's L2 and left clean. -/
def cleanL1s (s : State) (cs : List Nat) (line : Nat) : State :=
  cs.foldl (fun s c =>
    if s.l1State c line = .m then
      let d := dieOf c
      let x := s.l2Line d line
      (s.setL2 d line { x with state := if x.state = .e then .m else x.state }).setL1 c line .e x.slot
    else s) s

/-- A die's dirty L2 copy of a line written to the host with WbKeep and left clean (R275). -/
def cleanDie (s : State) (d line : Nat) : State :=
  let x := s.l2Line d line
  if !dirtyState x.state then s
  else
    let s := s.setL2 d line { x with state := cleaned x.state }
    let e := s.dirLine line
    let s := s.setDir line { e with state := cleaned e.state, owner := if e.state = .o then none else e.owner }
    s.keepHost line

/-- A tracked line handled by a walk (R238): FLUSHR cleans it, INVR drops it, a die through its home as with DWb or DEvict (R280). -/
def walkTracked (s : State) (c : Nat) (w : WalkCmd) (line : Nat) : State :=
  let cs := walkedCores c w
  let ds := walkedDies c w
  let s := s.cleanL1s cs line
  if w.invalidate then
    let s := cs.foldl (fun s k => if s.l1State k line = .i then s else s.setL1 k line .i 0) s
    ds.foldl (fun s d => if (s.l2Line d line).state = .i then s else s.dropLine line d (s.dieDirty d line)) s
  else ds.foldl (fun s d => s.cleanDie d line) s

/-- An untracked line handled by a walk (R238): its dirty bytes written to platform memory, or all its copies discarded. -/
def walkUntracked (s : State) (c : Nat) (w : WalkCmd) (line : Nat) : State :=
  let p (l : Nat) : Bool := l == line
  let cs := walkedCores c w
  if w.invalidate then
    (walkedDies c w).foldl (fun s d => s.dropL2Untracked d p) (cs.foldl (fun s k => s.dropUntracked k p) s)
  else cs.foldl (fun s k => s.flushUntracked k p) s

/-- The engine of a walk. -/
def walkEngine (c : Nat) (w : WalkCmd) : Engine := { core := c, slot := 0, unit := w.unit, job := w.job, home := none }

/-- A page of a walk translated as a read; INVR needs W as well, but sets no D (R238). -/
def walkPage (s : State) (c : Nat) (w : WalkCmd) (va : Word) : Except Miss Place × State :=
  s.translate { s.engineRequest (walkEngine c w) true false with needsW := w.invalidate } va

/-- The lines of a page handled from the last of `n` down. -/
def walkLines (c : Nat) (w : WalkCmd) (p : Place) : (n : Nat) → State → State
  | 0, s => s
  | n + 1, s =>
    let line := lineOf (p.pa + 128 * n)
    let s := if p.untracked then s.walkUntracked c w line else s.walkTracked c w line
    walkLines c w p n s

/-- One page of a walk at its progress: the progress after it and the lines handled, or what stops it. A page under a dead key slot, or one
that the host answers with an error, is passed over with the cause raised; a line that its home cannot serve now is waited for (R270). -/
def walkOnePage (s : State) (c : Nat) (w : WalkCmd) (pos : Nat) : Except (Miss × Word) (Nat × List Nat) × State :=
  let va := w.base + BitVec.ofNat 64 pos
  let here := min (w.length - pos) (4096 - va.toNat % 4096)
  match s.walkPage c w va with
  | (.ok p, s) =>
    match (linesIn p.pa here).find? fun l => decide (2 ≤ w.scope) && !p.untracked && s.homeBusy l with
    | some l => (.error (.line l, va), s)
    | none => (.ok (pos + here, linesIn p.pa here), walkLines c w p (here / 128) s)
  | (.error (.fault .keyDead _ _ k), s) => (.ok (pos + here, []), s.transferDead (walkEngine c w) va k)
  | (.error (.fault .busError _ x _), s) =>
    (.ok (pos + here, []), s.latchUnit (walkEngine c w) { cause := .busError, eaddr := va, info := busInfo false x })
  | (.error m, s) => (.error (m, va), s)

/-- The pages of a walk from its progress on, at most `n`: the progress, with the miss that stops it. -/
def walkPages (c : Nat) (w : WalkCmd) : (n pos : Nat) → State → Nat × Option (Miss × Word) × State
  | 0, pos, s => (pos, none, s)
  | n + 1, pos, s =>
    if w.length ≤ pos then (pos, none, s)
    else match s.walkOnePage c w pos with
      | (.ok (next, _), s) => walkPages c w n next s
      | (.error m, s) => (pos, some m, s)

/-- A walk command replaced, or removed. -/
def setWalk (s : State) (c : Nat) (old : WalkCmd) (new : Option WalkCmd) : State :=
  let k := s.core c
  s.setCore c { k with walks := match new with
    | some w => k.walks.map fun x => if x == old then w else x
    | none => k.walks.erase old }

/-- The AMOADD of 1 on the barrier word, at the resolved scope (R239 step 3): of SYSTEM scope at the line's home (R277), else in the issuing
core's L1; an untracked word there as well, at any scope, for the core alone (R278; DESIGN CHOICE: R224 has an atomic there at CORE only,
R239 the resolved scope; log 28). -/
def signalBarrier (s : State) (c : Nat) (w : WalkCmd) : State :=
  let g := w.barrier
  if !isPhysical g.key then s.store g.key (leBytes 8 (leWord (s.bytes g.key 8) + 1).toNat)
  else if g.untracked then
    let (bs, s) := s.untrackedBytes c g
    s.untrackedStore c g.key g.slot 0 (leBytes 8 (leWord bs + 1).toNat)
  else
    let new := leBytes 8 (leWord (s.cellBytes g.key 8 g.slot) + 1).toNat
    if w.scope = 4 then (s.homeAtomic (lineOf g.key) g.slot true (atomicReq 0 8 1 0)).cellStore g.key new g.slot else s.cellOwned c g new

/-- Whether effects that precede a walk are held by its strand's pair: the walk starts after them (R163, R239 step 1). -/
def walkHeld (s : State) (c : Nat) (w : WalkCmd) : Bool :=
  (s.core c).slots.toList.any fun x =>
    x.status != .free && x.u.unit == w.unit && match x.pair with | some p => !p.held.isEmpty | none => false

/-- Lines of a walk whose Persist is still open at the host (R238). -/
def persistOpen (s : State) (w : WalkCmd) : Bool := w.persisting.any fun l => s.hostTx.any fun (_, t) => t.op == 10 && t.line == l

/-- A walk stopped at a progress: by a page on its way between the Span boxes or a busy line, after which it goes on, or by a fault that
pauses it (R239, R281). -/
def stopWalk (s : State) (c : Nat) (w : WalkCmd) (pos : Nat) : Miss × Word → State
  | (.fault cause _ _ _, va) =>
    match s.engineRecord w.fault w.job c 0 (s.engineRequest (walkEngine c w) true w.invalidate) cause va with
    | (some r, s) => s.setWalk c w (some { w with pos, paused := true, fault := some r })
    | (none, s) => (s.setWalk c w none).engineDone w.unit
  | _ => s.setWalk c w (some { w with pos })

/-- The end of a walk: the barrier rises, once its line's home can serve it. -/
def endWalk (s : State) (c : Nat) (w : WalkCmd) : State :=
  match s.lineStop c true (w.scope == 4) [w.barrier] with
  | some (l, k) => (if w.scope = 4 then s.askAtomic c l else s.askHome c l true k).setWalk c w (some { w with pos := w.length })
  | none => ((s.signalBarrier c w).setWalk c w none).engineDone w.unit

/-- A range walk run to its barrier, or to what stops it (R239). At SYSTEM scope each page's lines are persisted before the walk goes on
(R238, R275). -/
def runWalk (s : State) (c : Nat) (w : WalkCmd) : State :=
  if s.persistOpen w then s
  else if w.scope = 4 then
    if w.length ≤ w.pos then s.endWalk c w
    else match s.walkOnePage c w w.pos with
      | (.ok (pos, lines), s) =>
        (lines.foldl (fun s l => s.openTx 10 l) s).setWalk c w (some { w with pos, persisting := lines })
      | (.error m, s) => s.stopWalk c w w.pos m
  else match walkPages c w (w.length / 4096 + 2) w.pos s with
    | (_, none, s) => s.endWalk c w
    | (pos, some m, s) => s.stopWalk c w pos m

end State

/-- RANGE_WALK_COMPLETE (core, index): a walk command of a core runs to its end, and its barrier word rises by one (R239). -/
def execRangeWalkComplete (s : State) : Out :=
  .next (match (s.core s.ev.core).walks[s.ev.index]? with
    | some w => if w.paused || s.walkHeld s.ev.core w then s else s.runWalk s.ev.core w
    | none => s)

/-! ### Replies (R214) -/

namespace State

/-- Whether a record is the written one of claim `k`, not withdrawn, whose reply has not been taken. -/
def awaits (k : Nat) (r : Option FaultRecord) : Bool :=
  match r with | some r => r.claim == k && r.written && unanswered (some r) | none => false

/-- A record with the reply taken. -/
def answered (g : Nat) (r : FaultRecord) : FaultRecord := { r with replied := some g }

/-- A resolved reply for a strand: its fault is noted for the repeat rule, and the micro-kernel returns with ERET (R213 step 3,
R215). -/
def resolveSlot (s : State) (c i : Nat) (r : FaultRecord) (g : Nat) : State :=
  let x := s.slotAt c i
  let s := s.setSlotAt c i { x with fault := none, u := { x.u with lastFault := some (x.epc, x.eprog, answered g r) } }
  s.as c i State.returnFromTrap

/-- A refused reply for a strand: it returns to its boundary, where its job's cancellation takes it (R214, R349). -/
def refuseSlot (s : State) (c i : Nat) (r : FaultRecord) : State :=
  let s := s.setSlotAt c i { s.slotAt c i with fault := none }
  let s := s.as c i State.returnFromTrap
  s.cancelJobFor r.job .xlateRefused

/-- The slot whose strand waits on the record of claim `k`. -/
def slotAwaiting (s : State) (k : Nat) : Option (Nat × Nat × FaultRecord) :=
  s.occupied.findSome? fun (c, i) =>
    let x := s.slotAt c i
    if x.status = .waiting .reply ∧ awaits k x.fault then x.fault.map fun r => (c, i, r) else none

/-- The copy command that waits on the record of claim `k`. -/
def copyAwaiting (s : State) (k : Nat) : Option (Nat × Nat × CopyCmd) :=
  s.cores.findSome? fun (c, x) => (List.range 4).findSome? fun n =>
    ((x.copies[n]?.getD {}).cmds.find? fun d => awaits k d.fault).map fun d => (c, n, d)

/-- The walk command that waits on the record of claim `k`. -/
def walkAwaiting (s : State) (k : Nat) : Option (Nat × WalkCmd) :=
  s.cores.findSome? fun (c, x) => (x.walks.find? fun w => awaits k w.fault).map fun w => (c, w)

/-- The collective command that waits on the record of claim `k`. -/
def collAwaiting (s : State) (k : Nat) : Option (Nat × Nat × CollCmd) :=
  s.dies.findSome? fun (d, x) => (List.range 8).findSome? fun n =>
    ((x.coll[n]?.getD []).find? fun y => awaits k y.fault).map fun y => (d, n, y)

/-- The queue whose access waits on the record of claim `k` (R448). -/
def queueAwaiting (s : State) (k : Nat) : Option (Nat × Job) := s.jobs.find? fun (_, j) => awaits k j.fault

/-- A reply delivered to whoever waits on the record: the instruction or the command goes on, or the job is cancelled with
XLATE_REFUSED (R214, R239, R316, R448). -/
def deliverReply (s : State) (k : Nat) (refused : Bool) (g : Nat) : State :=
  match s.slotAwaiting k with
  | some (c, i, r) => if refused then s.refuseSlot c i r else s.resolveSlot c i r g
  | none => match s.copyAwaiting k with
    | some (c, n, d) =>
      if refused then ((s.endCopy c n d d.done d.wrote).cancelJobFor (d.job.getD 0) .xlateRefused)
      else s.setCopy c n d { d with paused := false, fault := d.fault.map (answered g) }
    | none => match s.walkAwaiting k with
      | some (c, w) =>
        if refused then ((s.setWalk c w none).engineDone w.unit).cancelJobFor (w.job.getD 0) .xlateRefused
        else s.setWalk c w (some { w with paused := false, fault := w.fault.map (answered g) })
      | none => match s.collAwaiting k with
        | some (d, n, y) =>
          if refused then (s.endColl d n y).cancelJobFor (y.job.getD 0) .xlateRefused
          else s.setColl d n y { y with fault := y.fault.map (answered g) }
        | none => match s.queueAwaiting k with
          | some (q, _) =>
            if refused then (s.mapJob q fun j => { j with fault := none, statusDue := none }).cancelJobFor q .xlateRefused
            else s.mapJob q fun j => { j with fault := j.fault.map (answered g) }
          | none => s

/-- The record that somebody waits on under claim `k`. -/
def recordAwaited (s : State) (k : Nat) : Option FaultRecord :=
  match s.slotAwaiting k with
  | some (_, _, r) => some r
  | none => match s.copyAwaiting k with
    | some (_, _, d) => d.fault
    | none => match s.walkAwaiting k with
      | some (_, w) => w.fault
      | none => match s.collAwaiting k with
        | some (_, _, y) => y.fault
        | none => (s.queueAwaiting k).bind fun (_, j) => j.fault

/-- A reply on its way to the faulting core as an AQ0 message; that of a queue's own access goes to its dispatcher (R214, R448). -/
def sendReply (s : State) (k : Nat) (r : FaultRecord) (refused : Bool) (g : Nat) : State :=
  if (s.queueAwaiting k).isSome then s.deliverReply k refused g
  else { s with net := s.net ++ [{ core := r.core, queue := 0, msg := {
      header := replyHeader, payload := [BitVec.ofNat 64 k, if refused then 2 else 1, BitVec.ofNat 64 g] } }] }

/-- What the micro-kernel does with a system message: a reply goes to whoever waits for it. -/
def serveMessage (s : State) (m : Msg) : State :=
  if m.header = replyHeader then
    s.deliverReply (m.payload.getD 0 0).toNat (m.payload.getD 1 0 == 2) (m.payload.getD 2 0).toNat
  else s

/-- The oldest reply in AQ0 of a core. -/
def replyIn (s : State) (c : Nat) : Option Msg := (s.core c).aq[0].find? fun m => m.header == replyHeader

/-- The micro-kernel that waits for a reply in a slot, or that serves the core's engines, takes it from AQ0 (R213, R214). -/
def pollReply (s : State) (c : Nat) : State :=
  match s.replyIn c with
  | some m => (s.setCore c { s.core c with aq := (s.core c).aq.set 0 ((s.core c).aq[0].erase m) }).serveMessage m
  | none => s

/-- The reply in the record of claim `k` taken, if the host has written one (R214, R217). -/
def takeReply (s : State) (k : Nat) : State :=
  match s.recordAwaited k with
  | none => s
  | some r =>
    let g := s.replyGeneration r
    match s.replyStatus r with
    | 1 => (s.setReply r 3).sendReply k r false g
    | 2 => (s.setReply r 3).sendReply k r true g
    | _ => s

end State

/-- FAULT_REPLY (index: the record's claim number): the host's reply status in a record is seen and taken (R214). -/
def execFaultReply (s : State) : Out := .next (s.takeReply s.ev.index)

end Sys2Proof.Machine
end

