-- ==== Sys2Proof/Machine/Launch.lean ====
section
/-!
DEFINITION. LAUNCH (R312): a launch placed from device code.
-/

namespace Sys2Proof.Machine

namespace State

/-- The first counter of a descriptor that lies beyond a job's window (R344): the completion counter, then the start wait's. -/
def badCounter (j : Job) (bs : List Byte) : Option Nat :=
  let cnt := field bs 0 27 16
  let wait := field bs 24 11 0
  if field bs 0 28 28 == 1 && (windowCounter j cnt).isNone then some cnt
  else if field bs 24 12 12 == 1 && (windowCounter j wait).isNone then some wait
  else none

/-- Launches that a pair holds. -/
def heldLaunches (s : State) : Nat :=
  match s.slot.pair with
  | none => 0
  | some p => (p.held.filter fun e => match e with | .launch _ _ _ => true | _ => false).length

/-- Whether a die's ready pool and the instance counters take one more launch (R312). -/
def launchRoom (s : State) (d : Nat) : Bool :=
  decide ((s.die d).pool.length + s.heldLaunches < 256) && s.freeInstance.isSome

end State

/-- LAUNCH: the descriptor is read at issue; 1 when the pool or the instance counters are full, else 0 (R312). A descriptor that
breaks its fields is LAUNCH_ARG, and a counter beyond the window COUNTER_RANGE (R310, R344). -/
def execLaunch (d a : Reg) (s : State) : Out :=
  s.plain fun s => do
    let wa := s.reg a
    if bits wa 5 0 ≠ 0 then raiseAt .misaligned 0 wa
    else do
      let x : Access := { attr := { cls := 0, scope := 0, space := 0, policy := 0, use := 0 }, reads := true, writes := false }
      let (bs, s) ← s.loadAccess x wa 64 0
      match s.job? with
      | none => raise .launchArg
      | some j => do
        ensure (s.descriptor? (s.u.job.getD 0) { j with windowSize := 4096 } bs).isSome .launchArg
        match State.badCounter j bs with
        | some n => raiseAt .counterRange 0 (BitVec.ofNat 64 n)
        | none =>
          if s.launchRoom (dieOf s.cur.1) then
            let s ← s.emit (.launch (dieOf s.cur.1) (s.u.job.getD 0) bs)
            pure (s.setReg d 0).retire
          else pure (s.setReg d 1).retire

end Sys2Proof.Machine
end

