-- ==== Sys2Proof/Machine/Scheduler.lean ====
section
/-!
DEFINITION. The dispatcher of a submission queue and its commands (R306 to R311, R448), and the completion of instances (R26, R345).
-/

namespace Sys2Proof.Machine

namespace State

/-! ### The dispatcher's accesses (R307, R448) -/

/-- Where a field of a queue's control block lies. -/
def queueField (j : Job) (off : Nat) : Word := j.control + BitVec.ofNat 64 off

/-- Where the slot that is accepted next lies (R306). -/
def queueSlot (j : Job) : Word := queueField j (256 + 64 * (j.head.toNat % 2 ^ (j.logSlots + 4)))

/-- The request of a dispatcher's access. -/
def queueRequest (s : State) (q : Nat) (j : Job) (reads writes atomic : Bool) : Request :=
  { ctx := s.ctxOf (some q), core := j.dispatcher, slot := 0, user := false, reads, writes, atomic }

/-- A dispatcher's access that does not translate: a fault record, QUEUE_FAULT on the dispatcher's core, and no further command of the
queue until the reply (R448). -/
def queueMiss (s : State) (q : Nat) (j : Job) (r : Request) (m : Miss × Word) : State :=
  match m.1 with
  | .fault cause _ _ _ =>
    match s.engineRecord j.fault (some q) j.dispatcher 0 r cause m.2 with
    | (some f, s) =>
      (s.mapJob q fun j => { j with fault := some f }).latchCore j.dispatcher
        { cause := .queueFault, eaddr := m.2, info := m.1.info r }
    | (none, s) => s
  | _ => s

/-- Bytes of the queue read on its dispatcher's core; a miss is served as R448 says. -/
def queueRead (s : State) (q : Nat) (j : Job) (a : Word) (n : Nat) : Option (List Byte) × State :=
  match s.jobLoad (some q) j.dispatcher 0 a n with
  | (.ok bs, s) => (some bs, s)
  | (.error m, s) => (none, s.queueMiss q j (s.queueRequest q j true false false) m)

/-- Bytes of the queue written; whether they were. -/
def queueWrite (s : State) (q : Nat) (j : Job) (a : Word) (bs : List Byte) : Bool × State :=
  match s.jobStore (some q) j.dispatcher 0 a bs with
  | (.ok _, s) => (true, s)
  | (.error m, s) => (false, s.queueMiss q j (s.queueRequest q j false true false) m)

/-- A STATUS word that is due, written (R306, R349, R448). -/
def writeStatus (s : State) (q : Nat) : State :=
  match AMap.get? s.jobs q with
  | none => s
  | some j => match j.statusDue with
    | none => s
    | some w =>
      if unanswered j.fault then s
      else match s.queueWrite q j (queueField j 136) (leBytes 8 w.toNat) with
        | (true, s) => s.mapJob q fun j => { j with statusDue := none }
        | (false, s) => s

/-! ### What holds commands back (R309) -/

/-- Whether every earlier command of a queue has completed: its launches, graphs and closed phases (R345). -/
def earlierDone (s : State) (q : Nat) : Bool :=
  (s.launches.all fun (_, l) => l.job != q || l.device || l.done) && (s.graphs.all fun (_, g) => g.job != q || g.done) &&
  match AMap.get? s.jobs q with
  | some j => j.unplaced.isEmpty && j.phases.all fun (_, p) => !p.closed || p.done
  | none => true

/-- The write of a SIGNAL: an 8-byte AMOSWP or AMOADD, class REL, scope SYSTEM (R308); whether it was made. -/
def signalWrite (s : State) (q : Nat) (j : Job) (a v : Word) (add : Bool) : Bool × State :=
  let r := s.queueRequest q j true true true
  match translateRange r 2 8 a s with
  | (.error m, s) => (false, s.queueMiss q j r m)
  | (.ok segs, s) =>
    match s.lineStop j.dispatcher true true segs with
    | some (l, _) => (false, s.askAtomic j.dispatcher l)
    | none =>
      let old := leWord (segs.flatMap fun g => s.cellBytes g.key g.length g.slot)
      let t := atomicReq (if add then 0 else 8) 8 v.toNat 0
      let s := segs.foldl (fun s g => if g.untracked then s else s.homeAtomic (lineOf g.key) g.slot true t) s
      (true, s.storeSegments segs (leBytes 8 (if add then old + v else v).toNat))

/-- The hold of a queue lifted where its condition has come: a WAITCNT's counter, or a SIGNAL's earlier commands, after which its
write is made. -/
def settleHold (s : State) (q : Nat) : State :=
  match AMap.get? s.jobs q with
  | none => s
  | some j =>
    let clear (s : State) : State := s.mapJob q fun j => { j with hold := .nothing }
    match j.hold with
    | .nothing => s
    | .counter c v done => if s.reached (c, v) then (clear s).advance? done false else s
    | .signal a v add done =>
      if !s.earlierDone q || unanswered j.fault then s
      else match s.signalWrite q j a v add with
        | (true, s) => (clear s).advance? done false
        | (false, s) => s

/-- Nodes of an accepted GRAPH placed while the ready pool and the instance counters have room (R311, R344). -/
def placeNodes (q : Nat) : (n : Nat) → State → State
  | 0, s => s
  | n + 1, s =>
    match AMap.get? s.jobs q with
    | none => s
    | some j => match j.unplaced with
      | [] => s
      | l :: rest => match s.placeLaunch (dieOf j.dispatcher) l with
        | none => s
        | some (id, s) =>
          let s := s.mapJob q fun j => { j with unplaced := rest }
          let s : State := match l.graph.bind fun g => (AMap.get? s.graphs g).map fun x => (g, x) with
            | some (g, x) => { s with graphs := AMap.set s.graphs g { x with launches := x.launches ++ [id] } }
            | none => s
          placeNodes q n s

/-- What a queue has pending, settled, unless it is frozen (R378 step 1). -/
def settleQueue (s : State) (q : Nat) : State :=
  if (AMap.get? s.jobs q).any (·.frozen) then s else placeNodes q 1024 (s.settleHold q)

/-- Whether a queue's dispatcher may accept a command: it is not cancelled, frozen or torn down, waits for no reply, and nothing holds
it back. -/
def mayAccept (s : State) (q : Nat) : Bool :=
  match AMap.get? s.jobs q with
  | none => false
  | some j => !j.cancelled && !j.tearing && !j.frozen && !unanswered j.fault && j.hold == .nothing && j.unplaced.isEmpty &&
      j.head != j.tailRead

/-! ### Commands (R308) -/

/-- A malformed slot: STATUS records code and slot index, and the job is cancelled with QUEUE_FORMAT (R308, R349). -/
def badSlot (s : State) (q code : Nat) : State := (s.recordReason (some q) code .queueFormat none).cancelJob q

/-- Whether a command's header is well-formed: reserved bits zero, CNT within the window (R308, R344). -/
def headerOk (j : Job) (bs : List Byte) : Bool :=
  field bs 0 15 9 == 0 && field bs 0 63 29 == 0 && (field bs 0 28 28 == 0 || (windowCounter j (field bs 0 27 16)).isSome)

/-- The completion counter that a header names. -/
def headerCounter (j : Job) (bs : List Byte) : Option Nat :=
  if field bs 0 28 28 = 1 then windowCounter j (field bs 0 27 16) else none

/-- Whether bytes [lo, hi) are zero. -/
def zeroBytes (bs : List Byte) (lo hi : Nat) : Bool := ((bs.drop lo).take (hi - lo)).all (· == 0)

/-- What a command's body says: malformed with a code, not placed for now, missed in a read, or accepted. -/
inductive Verdict where
  | bad (code : Nat)
  | held (s : State)
  | accepted (s : State)

/-- The acceptance of the next slot, if it is a command of a code (R307 to R309): HEAD's page is looked at first, so that an acceptance
is whole. -/
def acceptNext (s : State) (q code : Nat) (body : Job → List Byte → State → Verdict) : State :=
  let s := s.settleQueue q
  match AMap.get? s.jobs q with
  | none => s
  | some j =>
    if !s.mayAccept q then s
    else match s.queueRead q j (queueSlot j) 64 with
      | (none, s) => s
      | (some bs, s) =>
        if field bs 0 7 0 ≠ code then s
        else if !headerOk j bs then s.badSlot q 2
        else if field bs 0 8 8 = 1 ∧ !s.earlierDone q then s
        else match s.queueWrite q j (queueField j 128) (leBytes 8 j.head.toNat) with
          | (false, s) => s
          | (true, s) => match body j bs s with
            | .bad code => s.badSlot q code
            | .held s => s
            | .accepted s =>
              let s := s.mapJob q fun j => { j with head := j.head + 1, fault := none }
              ((s.queueWrite q j (queueField j 128) (leBytes 8 (j.head + 1).toNat)).2).settleQueue q

end State

/-- NOP_COMMAND (queue): completes on acceptance. -/
def execNopCommand (s : State) : Out :=
  .next (s.acceptNext s.ev.queue 0 fun j bs s =>
    if State.zeroBytes bs 8 64 then .accepted (s.advance? (State.headerCounter j bs) false) else .bad 2)

/-- LAUNCH_COMMAND (queue): places the launch in the ready pool of the dispatcher's die; held back while the pool or the instance
counters are full (R310, R344). -/
def execLaunchCommand (s : State) : Out :=
  .next (s.acceptNext s.ev.queue 1 fun j bs s =>
    let q := s.ev.queue
    if (State.descriptor? s q { j with windowSize := 4096 } bs).isNone then .bad 3
    else match s.descriptor? q j bs with
      | none => .bad 2
      | some l => match s.placeLaunch (dieOf j.dispatcher) l with
        | none => .held s
        | some (_, s) => .accepted s)

namespace State

/-- A wait of a node: enabled with counter and value, disabled, or malformed (R311). -/
def nodeWait (j : Job) (bs : List Byte) (off : Nat) : Option (List (Nat × BitVec 32)) :=
  if field bs off 31 13 ≠ 0 then none
  else if field bs off 12 12 = 0 then some []
  else (windowCounter j (field bs off 11 0)).map fun c => [(c, BitVec.ofNat 32 (field bs off 63 32))]

/-- The launch of a graph node, or its error code (R311). -/
def node? (s : State) (q : Nat) (j : Job) (g : Nat) (bs : List Byte) : Except Nat Launch :=
  let wide : Job := { j with windowSize := 4096 }
  let start := (List.range 4).map fun i => 64 + 8 * i
  let data := (List.range 2).map fun i => 96 + 8 * i
  let waits (j : Job) (offs : List Nat) : Option (List (Nat × BitVec 32)) := (offs.mapM (nodeWait j bs)).map List.flatten
  if (s.descriptor? q wide bs).isNone || (waits wide (start ++ data)).isNone || field bs 112 63 48 != 0 ||
      field bs 120 63 33 != 0 then .error 3
  else match s.descriptor? q j bs, waits j start, waits j data with
    | some l, some sw, some dw =>
      .ok { l with
        startWaits := l.startWaits ++ sw, dataWaits := dw, graph := some g
        tile := if field bs 120 31 0 = 0 then none
          else some (field bs 112 47 0, field bs 120 31 0, field bs 120 32 32 == 1) }
    | _, _, _ => .error 2

/-- The nodes of an array in order, or the first error code. -/
def nodes? (s : State) (q : Nat) (j : Job) (g : Nat) (bs : List Byte) : Nat → Except Nat (List Launch)
  | 0 => .ok []
  | n + 1 => do
    let l ← s.node? q j g (bs.take 128)
    let rest ← nodes? s q j g (bs.drop 128) n
    pure (l :: rest)

end State

/-- GRAPH (queue): N nodes are taken, and placed in order as the ready pool and the instance counters have room (R311, R344). -/
def execGraph (s : State) : Out :=
  .next (s.acceptNext s.ev.queue 2 fun j bs s =>
    let q := s.ev.queue
    let n := State.field bs 8 63 0
    let a : Word := BitVec.ofNat 64 (State.field bs 16 63 0)
    if n < 1 ∨ n > 1024 ∨ !State.zeroBytes bs 24 64 then .bad 2
    else if a.toNat % 128 ≠ 0 ∨ !canonical a ∨ !canonical (a + BitVec.ofNat 64 (128 * n - 1)) then .bad 4
    else match s.freeInstance with
      | none => .held s
      | some c =>
        if (s.die (dieOf j.dispatcher)).pool.length ≥ 256 then .held s
        else match s.queueRead q j a (128 * n) with
          | (none, s) => .held s
          | (some ns, s) =>
            let g := s.nextId
            match s.nodes? q j g ns n with
            | .error code => .bad code
            | .ok ls =>
              let x : Graph := { job := q, phase := j.phase, counter := State.headerCounter j bs, inst := c, launches := [], count := n }
              let s : State := { s with
                nextId := g + 1, graphs := AMap.set s.graphs g x, counters := AMap.set s.counters c {} }
              .accepted (s.mapJob q fun j => { j with unplaced := ls }))

/-- WAITCNT (queue): later commands wait until the counter is reached at the value. -/
def execWaitcnt (s : State) : Out :=
  .next (s.acceptNext s.ev.queue 3 fun j bs s =>
    match windowCounterOf j bs with
    | none => .bad 2
    | some c =>
      if State.field bs 16 63 32 ≠ 0 ∨ !State.zeroBytes bs 24 64 then .bad 2
      else .accepted (s.mapJob s.ev.queue fun x => { x with
        hold := .counter c (BitVec.ofNat 32 (State.field bs 16 31 0)) (State.headerCounter j bs) }))
where
  /-- The counter that the body names. -/
  windowCounterOf (j : Job) (bs : List Byte) : Option Nat := State.windowCounter j (State.field bs 8 63 0)

/-- SIGNAL (queue): once every earlier command has completed, a word is swapped or added to; later commands wait for that write. -/
def execSignal (s : State) : Out :=
  .next (s.acceptNext s.ev.queue 4 fun j bs s =>
    let a : Word := BitVec.ofNat 64 (State.field bs 8 63 0)
    if State.field bs 24 63 1 ≠ 0 ∨ !State.zeroBytes bs 32 64 then .bad 2
    else if a.toNat % 8 ≠ 0 ∨ !canonical a then .bad 4
    else .accepted (s.mapJob s.ev.queue fun x => { x with
      hold := .signal a (BitVec.ofNat 64 (State.field bs 16 63 0)) (State.field bs 24 0 0 == 1) (State.headerCounter j bs) }))

/-- PHASE_COMMAND (queue): the job's current phase is closed and the next begins (R26). -/
def execPhaseCommand (s : State) : Out :=
  .next (s.acceptNext s.ev.queue 5 fun j bs s =>
    if !State.zeroBytes bs 8 64 then .bad 2
    else .accepted (s.mapJob s.ev.queue fun x =>
      let p : Phase := { AMap.getD x.phases x.phase {} with closed := true, counter := State.headerCounter j bs }
      { x with phases := AMap.set (AMap.set x.phases x.phase p) (x.phase + 1) {}, phase := x.phase + 1 }))

/-- CANCEL_COMMAND (queue): as the CANCEL instruction (R348). -/
def execCancelCommand (s : State) : Out :=
  .next (s.acceptNext s.ev.queue 6 fun j bs s =>
    let level := State.field bs 8 63 0
    let c := if level = 5 then some 0 else State.windowCounter j (State.field bs 16 63 0)
    match c with
    | none => .bad 2
    | some c =>
      if level < 1 ∨ level > 5 ∨ !State.zeroBytes bs 24 64 then .bad 2
      else .accepted ((s.advance? (State.headerCounter j bs) false).cancelLevel s.ev.queue level c))

namespace State

/-- The event that accepts a command of a code. -/
def commandEvent : Nat → Option Instr
  | 0 => some .nopCommand
  | 1 => some .launchCommand
  | 2 => some .graph
  | 3 => some .waitcnt
  | 4 => some .signal
  | 5 => some .phaseCommand
  | 6 => some .cancelCommand
  | _ => none

/-- The code of the command at HEAD, while one may be accepted. -/
def nextCommand (s : State) (q : Nat) : Option Nat :=
  if !s.mayAccept q then none
  else (AMap.get? s.jobs q).bind fun j => match s.jobLoad (some q) j.dispatcher 0 (queueSlot j) 8 with
    | (.ok bs, _) => some (field bs 0 7 0)
    | (.error _, _) => none

/-- What a queue's dispatcher does of itself: what is pending settled, and the slot at HEAD read; a miss is served (R448), and an unknown
command is a malformed slot (R308). -/
def dispatchQueue (s : State) (q : Nat) : State :=
  let s := s.settleQueue q
  match AMap.get? s.jobs q with
  | none => s
  | some j =>
    if !s.mayAccept q then s
    else match s.queueRead q j (queueSlot j) 64 with
      | (none, s) => s
      | (some bs, s) => if field bs 0 7 0 ≤ 6 then s else s.badSlot q 1

/-- TAIL read again by the dispatcher (R307); an unknown command at HEAD is a malformed slot (R308). -/
def rereadTail (s : State) (q : Nat) : State :=
  let s := s.settleQueue q
  match AMap.get? s.jobs q with
  | none => s
  | some j =>
    if j.cancelled || j.tearing || j.frozen || unanswered j.fault then s
    else match s.queueRead q j (queueField j 0) 8 with
      | (none, s) => s
      | (some bs, s) =>
        let s := s.mapJob q fun j => { j with tailRead := leWord bs }
        match s.nextCommand q with
        | some code => if code ≤ 6 then s else s.badSlot q 1
        | none => s

end State

/-- TAIL_WATCH (queue): the dispatcher's watched line has been taken; it raises TAIL_WATCH there, TAIL is read anew, and the command at
HEAD is the next event (R307). -/
def execTailWatch (s : State) : Out :=
  let q := s.ev.queue
  match AMap.get? s.jobs q with
  | none => .next s
  | some j =>
    let s := (s.latchCore j.dispatcher { cause := .tailWatch, info := q % 128 }).rereadTail q
    .next (match (s.nextCommand q).bind State.commandEvent with
      | some i => { s with agenda := s.agenda ++ [{ what := i, args := { queue := q } }] }
      | none => s)

/-! ### Completion of instances (R26, R345) -/

namespace State

/-- A unit that has ended, its engine commands done: its launch has one unit more complete (R130, R345). -/
def completeUnit (s : State) (n : Nat) : State :=
  match AMap.get? s.units n with
  | none => s
  | some t =>
    if !t.ended || t.outstanding != 0 then s
    else
      let s := { s with units := AMap.erase s.units n }
      match s.launch? t.launch, t.launch with
      | some l, some k =>
        let s := s.advance l.inst t.cancelled
        s.mapLaunch k fun l => if t.resident then { l with unitsDone := l.unitsDone + 1 } else l
      | _, _ => s

/-- Whether a job's instances stand in an image, where their units and messages are (R378): here nothing of it completes. -/
def imaged (s : State) (q : Nat) : Bool := (AMap.get? s.jobs q).any fun j => j.frozen && j.image.isNone

/-- Whether a launch has come to its end: its resident units have all completed, and nothing holds it open (R26). -/
def launchDue (s : State) (n : Nat) (l : Launch) : Bool :=
  !l.done && decide (l.count ≤ l.unitsDone) && !s.held n && !s.imaged l.job

/-- A launch that has come to its end is complete: its graph's counter and its own named
counter rise; one that no GRAPH placed is a graph of itself, and its phase's count rises (R26, R345; log 41). -/
def completeLaunch (s : State) (n : Nat) : State :=
  match AMap.get? s.launches n with
  | none => s
  | some l =>
    if !s.launchDue n l then s
    else
      let s := s.mapLaunch n fun l => { l with done := true }
      let s := match l.graph.bind fun g => AMap.get? s.graphs g with
        | some g => s.advance g.inst l.cancelled
        | none => s.advancePhase l.job l.phase l.cancelled
      (s.advance? l.counter l.cancelled).dropMaps

/-- Whether a graph has come to its end: its nodes are all placed, and its launches have all completed. -/
def graphDue (s : State) (g : Graph) : Bool :=
  let all := g.launches.all fun l => match AMap.get? s.launches l with | some x => x.done | none => true
  !g.done && decide (g.count ≤ g.launches.length) && all && !s.imaged g.job

/-- A graph that has come to its end is complete: its phase's count and its named counter rise. -/
def completeGraph (s : State) (n : Nat) : State :=
  match AMap.get? s.graphs n with
  | none => s
  | some g =>
    if !s.graphDue g then s
    else
      let s : State := { s with graphs := AMap.set s.graphs n { g with done := true } }
      (s.advancePhase g.job g.phase g.cancelled).advance? g.counter g.cancelled

/-- A phase of a job that its boundary has closed and whose graphs and launches have all completed is complete. -/
def completePhase (s : State) (q p : Nat) : State :=
  match AMap.get? s.jobs q with
  | none => s
  | some j => match AMap.get? j.phases p with
    | none => s
    | some x =>
      let open' := (s.graphs.any fun (_, g) => g.job == q && g.phase == p && !g.done) ||
        (s.launches.any fun (_, l) => l.job == q && l.phase == p && l.graph.isNone && !l.done)
      if x.done || !(x.closed || j.tearing) || open' then s
      else
        let s := s.mapJob q fun j => { j with
          phases := AMap.set j.phases p { x with done := true }, inst := raised j.inst x.cancelled }
        s.advance? x.counter x.cancelled

/-- Whether nothing of a job is left: no unit, no launch, no graph and no phase to complete. -/
def jobEmpty (s : State) (q : Nat) : Bool :=
  (s.units.all fun (_, t) => t.job != some q) && (s.launches.all fun (_, l) => l.job != q || l.done) &&
  (s.graphs.all fun (_, g) => g.job != q || g.done) &&
  (match AMap.get? s.jobs q with | some j => j.phases.all fun (_, p) => p.done | none => true)

/-- A torn down job whose phases have all completed is gone, with its window, maps, table entries and saved shares; a key slot stays bound
until SEQEND (R26, R324, R332, R396). -/
def completeJob (s : State) (q : Nat) : State :=
  match AMap.get? s.jobs q with
  | none => s
  | some j =>
    if !j.tearing || !s.jobEmpty q then s
    else
      { s with
        jobs := AMap.erase s.jobs q
        stamps := s.stamps.filter fun (_, _, j) => j != some q
        launches := s.launches.filter fun (_, l) => l.job != q
        graphs := s.graphs.filter fun (_, g) => g.job != q
        maps := s.maps.filter fun (_, m) => m.job != some q
        endpoints := s.endpoints.filter fun (n, _) => n / 65536 / 4096 / 8 != q
        counters := s.counters.filter fun (c, _) => !(decide (j.windowBase ≤ c) && decide (c < j.windowBase + j.windowSize))
        dies := s.dies.map fun (d, k) => (d, { k with schedules := k.schedules.filter fun (n, _) => n / 4096 != q + 1 })
        cores := s.cores.map fun (c, k) => (c, { k with
          handlers := k.handlers.filter fun (_, h) => h.job != some q
          grants := if k.job = some q then [] else k.grants }) }

end State

/-- INSTANCE_COMPLETION (kind: the level 1 to 5; launch: the unit, launch, graph or phase; queue: the job): an instance that has come to
its end completes (R345). -/
def execInstanceCompletion (s : State) : Out :=
  .next (match s.ev.kind with
    | 1 => s.completeUnit s.ev.launch
    | 2 => s.completeLaunch s.ev.launch
    | 3 => s.completeGraph s.ev.launch
    | 4 => s.completePhase s.ev.queue s.ev.launch
    | _ => s.completeJob s.ev.queue)

end Sys2Proof.Machine
end

