-- ==== Sys2Proof/Machine/Arbiter.lean ====
section
/-!
DEFINITION. The ready pools and the queue arbiter (R351 to R355), the TICK with metering and load averaging (R353, R354, R357), the
request of a pre-emption (R373), and the isobar tree (R358).
-/

namespace Sys2Proof.Machine

namespace State

/-! ### Deficits and rounds (R353) -/

/-- Whether every start wait of a launch is reached. -/
def nodeReady (s : State) (l : Launch) : Bool := l.startWaits.all s.reached

/-- The nodes of a queue in a die's pool, in order of acceptance. -/
def poolNodes (s : State) (d q : Nat) : List (Nat × Launch) :=
  (s.die d).pool.filterMap fun n => match AMap.get? s.launches n with
    | some l => if l.job = q then some (n, l) else none
    | none => none

/-- Slots on their cores whose pre-empted strands are of a queue. -/
def preempted (s : State) (q : Nat) : List (Nat × Nat) :=
  s.occupied.filter fun (c, i) => isPreempted (s.slotAt c i) && (s.strandAt c i).job == some q

/-- Whether a queue has pre-empted strands, on their cores or in its save area. -/
def hasPreempted (s : State) (q : Nat) : Bool :=
  !(s.preempted q).isEmpty || match AMap.get? s.jobs q with | some j => j.shares.any fun (_, h) => !h.slots.isEmpty | none => false

/-- A queue is backlogged while it has a ready node in some pool (R353). -/
def backlogged (s : State) (q : Nat) : Bool := (List.range 4).any fun d => (s.poolNodes d q).any fun (_, l) => s.nodeReady l

/-- A round begins when no backlogged queue has a positive deficit; deficits are in quarter M-core-cycles. -/
def beginRound (s : State) : State :=
  let qs := s.jobs.filter fun (q, _) => s.backlogged q
  if qs.isEmpty || qs.any fun (_, j) => decide (0 < j.deficit) then s
  else qs.foldl (fun s (q, _) => s.mapJob q fun j => { j with deficit := deficitOf (j.deficit + j.weight * 65536 * 4) }) s

/-- Whether a queue is idle: no node, no pending start, no running strand, no unaccepted slot. -/
def queueIdle (s : State) (q : Nat) (j : Job) : Bool :=
  ((List.range 4).all fun d => (s.poolNodes d q).isEmpty) && j.unplaced.isEmpty && j.head == j.tailRead &&
  (s.launches.all fun (_, l) => l.job != q || l.done || l.states.all (· != 0)) &&
  (s.occupied.all fun (c, i) => (s.strandAt c i).job != some q) && j.shares.isEmpty

/-- The deficits of idle queues set to zero, before anything else of a step (R353). -/
def idleReset (s : State) : State :=
  s.jobs.foldl (fun s (q, j) => if s.queueIdle q j then s.mapJob q fun j => { j with deficit := 0 } else s) s

/-! ### Dispatch (R351) -/

/-- Pending starts that a map would add to a core, with those there and on their way, at most 16 (R30). -/
def mapFits (s : State) (cores : List Nat) : Bool :=
  cores.all fun c => decide (s.pending c + cores.count c ≤ 16)

/-- The map of a node: the one that it names, or one chosen from the pool's die on, and there from the tile nearest its tile operand, or the
dispatcher's where it has none (R351 step 3). -/
def nodeMap (s : State) (d : Nat) (l : Launch) : Option (List Nat) :=
  let cores :=
    if l.map = 0xFFF then
      let tile := match l.tile with
        | some (b, n, _) => Config.sliceTile b n % 16
        | none => match AMap.get? s.jobs l.job with | some j => tileOf j.dispatcher | none => 0
      s.chooseCores l.smallCores l.pair l.cuff l.count d tile false false
    else (AMap.get? s.maps l.map).map (·.cores)
  cores.filter s.mapFits

/-- The lines of `len` bytes fetched into the L2 of a core's die, page by page, until one does not translate (R311). -/
def fetchLines (q : Request) : (fuel len : Nat) → (va : Word) → State → State
  | 0, _, _, s => s
  | n + 1, len, va, s =>
    if len = 0 then s
    else
      let here := min len (4096 - va.toNat % 4096)
      match s.translate q va with
      | (.error _, s) => s
      | (.ok p, s) =>
        let s := if p.untracked then s else (linesIn p.pa here).foldl (fun s l => s.touch q.core l false p.slot 1) s
        fetchLines q n (len - here) (va + BitVec.ofNat 64 here) s

/-- The tile operand of a node that is dispatched, if it is read, fetched into the L2 near its cores (R311). -/
def fetchTile (s : State) (l : Launch) (cores : List Nat) : State :=
  match l.tile with
  | some (b, n, false) =>
    let q : Request :=
      { ctx := s.ctxOf (some l.job), core := cores.headD 0, slot := 0, user := true, reads := true, writes := false }
    fetchLines q (n / 4096 + 2) n ((BitVec.ofNat 48 b).signExtend 64) s
  | _ => s

/-- A node leaves the pool with its map, an early consumer or not (R35); its gale reaches the cores of the map. -/
def dispatchNode (s : State) (d n : Nat) (cores : List Nat) : State :=
  let s := match AMap.get? s.launches n with | some l => s.fetchTile l cores | none => s
  let s := s.setDie d { s.die d with pool := (s.die d).pool.filter (· != n) }
  let s := s.mapLaunch n fun l => { l with
    dispatched := true, cores, chosen := l.map == 0xFFF, early := s.earlyConsumer l }
  let gale : List Event := cores.eraseDups.map fun c => { what := .gale, args := { launch := n, core := c } }
  { s with agenda := s.agenda ++ gale }.dropMaps

/-- The other members of the gang session of a slot's strand, with itself: they halt and resume as a row (R179, R374). -/
def rowOfSlot (s : State) (c i : Nat) : List (Nat × Nat) :=
  let t := s.strandAt c i
  if t.session then s.rowMembers c (t.launch.getD 0) (t.lcore / 8) else [(c, i)]

/-- Whether a pre-empted strand may go on: its saved matrix state, if any, finds its core without an owner (R191), but on a shared row,
where the switch of the row brings it back (R179). -/
def resumable (s : State) (c i : Nat) : Bool :=
  (s.strandAt c i).parked.isNone || (s.strandAt c i).window.isSome || (s.core c).owner.isNone

/-- A pre-empted strand goes on, with its engines (R318, R376) and its saved matrix state; after a withdrawn record its fault is a first
one (R218). -/
def resumeSlot (s : State) (c i : Nat) : State :=
  let x := s.slotAt c i
  if isPreempted x then
    let s := if x.u.window.isNone then s.unparkMatrix c i else s
    let x := s.slotAt c i
    (s.setSlotAt c i { x with
      status := .ready, fault := none
      u := { x.u with hprio := 0, lastFault := if x.fault.isSome then none else x.u.lastFault } }).resumeEngines c i
  else s

/-- Whether a pre-empted strand and its whole row, where it is in a gang session, are on their cores and may go on: the eight resume together,
or none does (R179). -/
def rowResumable (s : State) (c i : Nat) : Bool :=
  let ms := s.rowOfSlot c i
  (!(s.strandAt c i).session || ms.length == 8) && ms.all fun (k, j) => isPreempted (s.slotAt k j) && s.resumable k j

/-- One pre-empted strand of a queue that is on its core resumed, with its row. -/
def resumeHere (s : State) (q : Nat) : Option State :=
  ((s.preempted q).find? fun (c, i) => (s.core c).job == some q && s.rowResumable c i).map fun (c, i) =>
    (s.rowOfSlot c i).foldl (fun s (k, j) => s.resumeSlot k j) s

/-- Whether a share of a core can be put back: the core can pass, and the slots that the share's strands keep closed are free. -/
def returnable (s : State) (q c : Nat) : Bool := s.canPass c && s.shareFits c (some q)

/-- The shares that come back with that of a core: those of its row, where a strand in a gang session is in it (R179). -/
def sharesWith (j : Job) (c : Nat) (h : Share) : List Nat :=
  if h.slots.any fun (_, x) => x.u.session then (AMap.keys j.shares).filter fun k => coreKind? k == some .mcore && rowOf k == rowOf c else [c]

/-- One pre-empted strand of a queue resumed, with its row: one in place, or one whose share, with those of its row, can be put back
(R179, R355, R376). -/
def resumeOne (s : State) (q : Nat) : Option State :=
  match s.resumeHere q with
  | some t => some t
  | none => (AMap.get? s.jobs q).bind fun j => j.shares.findSome? fun (c, h) =>
      let cs := sharesWith j c h
      if cs.all (s.returnable q) then (cs.foldl (fun s k => s.restoreShare k q) s).resumeHere q else none

/-- Shares that hold no strand any more, put back where their cores can pass: what their strands have started runs on there, and their
arrivals are delivered (R349, R376). Nothing is resumed, so that no deficit is asked for. -/
def returnShares (s : State) : State :=
  s.jobs.foldl (fun s (q, j) => j.shares.foldl (fun s (c, h) =>
    if h.slots.isEmpty && !j.frozen && s.returnable q c then s.restoreShare c q else s) s) s

/-- What a queue may dispatch from a die's pool: a resumption, or its oldest ready node whose map fits. -/
def dispatchFrom (s : State) (d q : Nat) : Option State :=
  match s.resumeOne q with
  | some t => some t
  | none =>
    ((s.poolNodes d q).filter fun (_, l) => s.nodeReady l).findSome? fun (n, l) =>
      (s.nodeMap d l).map fun cores => s.dispatchNode d n cores

/-- The queues of a die in the order in which they are tried: those passed over, then round-robin after the one served last (R351). -/
def dispatchOrder (s : State) (d : Nat) : List Nat :=
  let k := s.die d
  let qs := AMap.keys s.jobs
  let after := match k.lastServed with | some q => qs.filter (q < ·) ++ qs.filter (· ≤ q) | none => qs
  let first := k.passedOver.filter qs.contains
  first ++ after.filter fun q => !first.contains q

/-- Whether a queue may dispatch from a die now: a positive deficit, and something ready. -/
def mayDispatch (s : State) (d q : Nat) : Bool :=
  (match AMap.get? s.jobs q with | some j => decide (0 < j.deficit) && !j.frozen | none => false) &&
  (s.hasPreempted q || (s.poolNodes d q).any fun (_, l) => s.nodeReady l)

/-- The first dispatch that the order of a die's queues allows; a queue that fits nothing is passed over and keeps its turn until it is
served. -/
def dispatchFirst (s : State) (d : Nat) : List Nat → State
  | [] => s
  | q :: qs =>
    if !s.mayDispatch d q then dispatchFirst s d qs
    else match s.dispatchFrom d q with
      | some t => t.setDie d { t.die d with lastServed := some q, passedOver := (t.die d).passedOver.filter (· != q) }
      | none =>
        let k := s.die d
        dispatchFirst (s.setDie d { k with passedOver := if k.passedOver.contains q then k.passedOver else k.passedOver ++ [q] }) d qs

/-! ### The arbiter's pre-emption (R355) -/

/-- Whether a queue's deficit is positive. -/
def inCredit (s : State) (q : Option Nat) : Bool :=
  match q.bind fun n => AMap.get? s.jobs n with | some j => decide (0 < j.deficit) | none => false

/-- Slots whose strands hold a core: its own, that of a cuff whose member it is, and that of a pair whose odd core it is. -/
def holders (s : State) (c : Nat) : List (Nat × Nat) :=
  s.occupied.filter fun (k, i) =>
    let x := s.slotAt k i
    k == c || (x.u.cuff != 0 && decide (k < c ∧ c < k + 2 ^ x.u.cuff)) || (x.pair.isSome && k + 1 == c)

/-- Slots whose running strands hold a core and belong to a queue without credit, seen from a queue that has credit and needs the core. -/
def victimsOn (s : State) (wants : Option Nat) (c : Nat) : List (Nat × Nat) :=
  if !s.inCredit wants then []
  else (s.holders c).filter fun (k, i) =>
    let x := s.slotAt k i
    let running := match x.status with | .ready => true | .waiting _ => true | _ => false
    running && x.u.job.isSome && x.u.job != wants && !s.inCredit x.u.job && x.latched.all fun l => l.cause != .preempt

/-- The cores that a logical core of a launch takes at a core: with the members of its cuff, or the odd core of its pair. -/
def shapeCores (l : Launch) (c : Nat) : List Nat :=
  if l.cuff != 0 then (List.range (2 ^ l.cuff)).map (c + ·) else if l.pair then [c, c + 1] else [c]

/-- Those of the cores that a core's oldest pending start needs, where it is of a queue that has credit. -/
def overServed (s : State) (c : Nat) (k : Core) : List (Nat × Nat) :=
  match k.starts.head?.bind fun t => s.launch? (some t.launch) with
  | none => []
  | some l => (shapeCores l c).flatMap (s.victimsOn (some l.job))

/-- Slots by their units, the newest first. -/
def newestFirst (s : State) (l : List (Nat × Nat)) : List (Nat × Nat) :=
  sortBy (fun a b => decide ((s.strandAt b.1 b.2).unit.getD 0 ≤ (s.strandAt a.1 a.2).unit.getD 0)) l

/-- The units of cores among which a node finds its places, and how many of them it needs: every place of the map that it names; or, of all
cores of its kind, as many single cores, cuffs or rows as it has logical cores or rows. -/
def neededUnits (s : State) (l : Launch) : List (List Nat) × Nat :=
  match AMap.get? s.maps l.map with
  | some m => (m.cores.eraseDups.map (shapeCores l), m.cores.length)
  | none =>
    let units := mapUnits l.smallCores l.pair (2 ^ l.cuff) 0 0 false
    let per := if l.smallCores then 1 else if l.pair then 4 else 8
    (units.map fun u => u.flatMap (shapeCores l), (l.count + per - 1) / per)

/-- Those of the cores that the first ready nodes of the pools' queues need and find no place on: on as many units as each needs, those with
the newest strands first. -/
def nodeVictims (s : State) : List (Nat × Nat) :=
  (List.range 4).flatMap fun d => (AMap.keys s.jobs).flatMap fun q =>
    if !s.mayDispatch d q then []
    else match (s.poolNodes d q).find? fun (_, l) => s.nodeReady l with
      | none => []
      | some (_, l) =>
        if (s.nodeMap d l).isSome then []
        else
          let (units, n) := s.neededUnits l
          let vs := (units.map fun u => s.newestFirst (u.flatMap (s.victimsOn (some q))).eraseDups).filter (!·.isEmpty)
          let age (v : List (Nat × Nat)) : Nat := (v.head?.map fun (c, i) => (s.strandAt c i).unit.getD 0).getD 0
          ((sortBy (fun a b => decide (age b ≤ age a)) vs).take n).flatten

/-- The pre-emptions that the arbiter asks for, newest units first (R355). -/
def arbitrate (s : State) : State :=
  let victims := (s.cores.flatMap (fun (c, k) => s.overServed c k) ++ s.nodeVictims).eraseDups
  { s with agenda := s.agenda ++ (s.newestFirst victims).map fun (c, i) => { what := .preempt, args := { core := c, slot := i } } }

end State

/-- NODE_DISPATCH (die): a round begins where one is due, the arbiter pre-empts, and one node or one resumption is dispatched (R351 to
R355); saved shares without strands come back. -/
def execNodeDispatch (s : State) : Out :=
  let s := s.returnShares.beginRound.arbitrate
  .next (s.dispatchFirst s.ev.die (s.dispatchOrder s.ev.die))

/-- PREEMPT (core, slot): a pre-emption request reaches a strand, and its row where it is in a gang session: PREEMPT is latched, and
the micro-kernel that takes it halts the strand (R373, R374). -/
def execPreempt (s : State) : Out :=
  .next ((s.rowOfSlot s.ev.core s.ev.slot).foldl (fun s (c, i) =>
    match (s.slotAt c i).status with
    | .ready => s.latch c i { cause := .preempt }
    | .waiting _ => s.latch c i { cause := .preempt }
    | _ => s) s)

namespace State

/-! ### Load averaging (R357) -/

/-- The tiles next to a tile on the mesh of its die. -/
def nextTiles (t : Nat) : List Nat :=
  (if t % 4 = 0 then [] else [t - 1]) ++ (if t % 4 = 3 then [] else [t + 1]) ++ (if t < 4 then [] else [t - 4]) ++
  (if 12 ≤ t then [] else [t + 4])

/-- The neighbours of an S-core that serve its job, or none, in rising order. -/
def neighbours (s : State) (c : Nat) : List Nat :=
  let d := dieOf c
  let near := (nextTiles (tileOf c)).map fun t => 128 + d * 128 + t * 8 + (c - 128) % 8
  sortBy (fun a b => decide (a ≤ b)) (near.filter fun k => (s.core k).job.isNone || (s.core k).job == (s.core c).job)

/-- Whether a pending start may migrate: of an S launch whose map the dispatcher chose. -/
def mayMigrate (s : State) (t : Start) : Bool :=
  match AMap.get? s.launches t.launch with
  | some l => l.smallCores && l.cuff == 0 && l.chosen
  | none => false

/-- Starts moved from a core to another, the newest that may go, as far as there is room; their core map entries follow. -/
def migrate (s : State) (c k n : Nat) : State :=
  let room := 16 - (s.core k).starts.length
  let moved := (((s.core c).starts.filter s.mayMigrate).reverse.take (Nat.min n room)).reverse
  let s := s.setCore c { s.core c with starts := (s.core c).starts.filter fun t => !moved.contains t }
  let s := s.setCore k { s.core k with starts := (s.core k).starts ++ moved }
  moved.foldl (fun s t => s.mapLaunch t.launch fun l => { l with cores := l.cores.set t.lcore k }) s

/-- What a core's micro-kernel sends to its neighbours, by the loads published together. -/
def averageCore (loads : AMap Nat) (s : State) (c : Nat) : State :=
  let near := s.neighbours c
  let x := AMap.getD loads c 0
  let n := near.length
  let sum := (near.map fun k => AMap.getD loads k 0).sum
  if n = 0 ∨ x * n ≤ sum + 2 * n then s
  else
    let least := near.foldl (fun b k => if AMap.getD loads k 0 < AMap.getD loads b 0 then k else b) (near.headD 0)
    s.migrate c least ((x * n - sum) / (2 * n))

/-- The S-cores that hold a load average it with their neighbours. -/
def averageLoads (s : State) : State :=
  let cores := (AMap.keys s.cores).filter fun c => coreKind? c == some .score
  let loads : AMap Nat := cores.map fun c => (c, s.load c)
  cores.foldl (averageCore loads) s

/-! ### Records that a full ring held back (R217, R218) -/

/-- A record written once its slot may be. -/
def retryRecord (s : State) (r : Option FaultRecord) : Option FaultRecord × State :=
  match r with
  | some x => if !x.written && s.recordRoom x.claim then (some { x with written := true }, s.writeRecord x) else (r, s)
  | none => (none, s)

/-- The unwritten records of strands tried again. -/
def retrySlots (s : State) : State :=
  s.occupied.foldl (fun s (c, i) =>
    let (r, s) := s.retryRecord (s.slotAt c i).fault
    s.setSlotAt c i { s.slotAt c i with fault := r }) s

/-- The unwritten records of copy and walk commands tried again. -/
def retryEngines (s : State) : State :=
  s.cores.foldl (fun s (c, k) =>
    let s := (List.range 4).foldl (fun s n => (k.copies[n]?.getD {}).cmds.foldl (fun s d =>
      let (r, s) := s.retryRecord d.fault
      s.setCopy c n d { d with fault := r }) s) s
    k.walks.foldl (fun s w =>
      let (r, s) := s.retryRecord w.fault
      s.setWalk c w (some { w with fault := r })) s) s

/-- The unwritten records of collectives and queues tried again. -/
def retryOthers (s : State) : State :=
  let s := s.dies.foldl (fun s (d, k) => (List.range 8).foldl (fun s n => (k.coll[n]?.getD []).foldl (fun s y =>
    let (r, s) := s.retryRecord y.fault
    s.setColl d n y { y with fault := r }) s) s) s
  s.jobs.foldl (fun s (q, j) =>
    let (r, s) := s.retryRecord j.fault
    s.mapJob q fun j => { j with fault := r }) s

/-- Withdrawn records that are owed, written with status 4 once their slots may be. -/
def payOwed (s : State) : State :=
  s.mgmt.owed.foldl (fun s r =>
    if s.recordRoom r.claim then { s.writeRecord r with mgmt := { s.mgmt with owed := s.mgmt.owed.erase r } } else s) s

/-- Every record that the ring held back, tried again. -/
def retryRecords (s : State) : State := s.retrySlots.retryEngines.retryOthers.payOwed

/-- The cores that hold strands. -/
def busyCores (s : State) : List Nat := (s.occupied.map (·.1)).eraseDups

end State

/-- TICK: every core's meter is charged, a round begins where one is due, loads are averaged, held back
records are tried again, and TICK is raised on the cores that hold strands (R217, R353, R357). -/
def execTick (s : State) : Out :=
  let s := (AMap.keys s.cores).foldl (fun s c => s.chargeMeter c) s
  let s := s.beginRound.averageLoads.retryRecords
  .next (s.busyCores.foldl (fun s c => s.latchCore c { cause := .tick }) s)

namespace State

/-- The least PHASE of the active cores. -/
def leastPhase (s : State) : Option Word :=
  s.cores.foldl (fun m (_, k) => if !k.active then m else match m with
    | some x => some (if k.phase.ult x then k.phase else x)
    | none => some k.phase) none

end State

/-- GPHASE_PUBLISH: cores without strands whose engines have come to rest become passive, the minimum PHASE of the active cores becomes
GPHASE, and clean untracked lines are discarded when it rises; GPHASE never falls (R258, R358). -/
def execGphasePublish (s : State) : Out :=
  let s := (AMap.keys s.cores).foldl State.becomePassive s
  .next (match s.leastPhase with
    | some m =>
      if s.gphase.ult m then
        { s with gphase := m, stamps := s.stamps.filter fun (_, p, _) => decide (m.toNat ≤ p) }.dropCleanUntracked
      else s
    | none => s)

end Sys2Proof.Machine
end

