-- ==== Sys2Proof/Machine/Atomic.lean ====
section
/-!
DEFINITION. Atomics (R233, R234).
-/

namespace Sys2Proof.Machine

/-- The new value of an n-byte word from its old value, the operand and the old destination, none where nothing is written. -/
abbrev AtomicOp := (n : Nat) → (old x expected : Nat) → Option Nat

namespace State

/-- An atomic of SYSTEM scope or wider on tracked bytes, performed at their home, or by the host on the request `t` (R277). -/
def homeAccess (s : State) (segs : List Segment) (n : Nat) (t : HostTx) (f : Nat → Option Nat) : Nat × State :=
  let old := leNat (segs.flatMap fun g => s.cellBytes g.key g.length g.slot)
  let s := segs.foldl (fun s g => s.homeAtomic (lineOf g.key) g.slot (f old).isSome t) s
  (old, match f old with | none => s | some y => s.storeSegments segs (leBytes n y))

/-- An atomic performed on bytes of memory: the bytes read, and the state after the write; `t` is what the host is asked. In a pair it is a
commit point (R163). -/
def atomicAccess (s : State) (scope : Nat) (segs : List Segment) (n : Nat) (t : HostTx) (f : Nat → Option Nat) : Res (Nat × State) := do
  s.stageGuard segs
  let s ← s.commitPoint true
  if 4 ≤ scope ∧ segs.all fun g => isPhysical g.key && !g.untracked then pure (s.homeAccess segs n t f)
  else
    let (bs, s) := s.readAccess segs
    let old := leNat bs
    match f old with
    | none => pure (old, segs.foldl (fun s g =>
        if isPhysical g.key && !g.untracked then s.own s.cur.1 (lineOf g.key) g.slot g.policy else s) s)
    | some y => pure (old, (storeEffects s.cur.1 false segs (leBytes n y)).foldl perform s)

/-- Whether an atomic of SPAN scope travels to its page's home: the other box, unless four refusals in a row make this box ask for the page
(R283). -/
def travels (s : State) (va : Word) : Bool :=
  match s.spanPage? s.u.job va with | some p => !p.home && decide (p.refusals < 4) | none => false

/-- An atomic of SPAN scope whose page is not in E here is sent to its home, a commit point as any (R163, R283), or waits for the page. -/
def spanAway (s : State) (d : Reg) (n : Nat) (zero : Bool) (operand expected : Nat) : Stop → Res (List Segment × State)
  | .wait (.span va w) kept =>
    let t := kept.getD s
    if s.travels va then do
      let t ← t.commitPoint true
      .error (.wait (.spanAtomic va d.toNat n zero)
        (some (t.sendSpan [.atomic t.cur.1 t.cur.2 (t.wordAt t.pc.toNat) va n operand expected])))
    else .error (.wait (.span va w) (some (t.askPage (pageOf va 3) w)))
  | e => .error e

/-- The bytes of an atomic: its segments, or how it stops. -/
def resolveAtomic (s : State) (x : Access) (va : Word) (d : Reg) (n : Nat) (zero : Bool) (operand expected : Nat) :
    Res (List Segment × State) :=
  match s.resolve x va n 0 with
  | .error e => if x.attr.scope = 5 then s.spanAway d n zero operand expected e else .error e
  | r => r

end State

/-- The old value of an atomic as its destination takes it (R233). -/
def atomicResult (n : Nat) (zero : Bool) (old : Nat) : Word := if zero ∨ n = 8 then BitVec.ofNat 64 old else sext 32 old

/-- An atomic: the checks of R225, the read and write as one access, and the old value, zero- or sign-extended (R233). -/
def atomic (code : Nat) (d a b : Reg) (n : Nat) (zero : Bool) (op : AtomicOp) (s : State) : Out :=
  s.withMod fun s => do
    let t ← s.attrs 0
    s.istorePrivilege t
    let x : Access := { attr := t, reads := true, writes := true, atomic := true }
    let va := s.reg a
    State.attrCheck .atomic x va
    let operand := (s.reg b).toNat % 2 ^ (8 * n)
    let expected := (s.reg d).toNat % 2 ^ (8 * n)
    State.aligned x va n 0
    let (segs, s) ← s.resolveAtomic x va d n zero operand expected
    if t.scope ≠ 0 then State.refuseUntracked segs va s
    let (old, s) ← s.atomicAccess t.scope segs n (atomicReq code n operand expected) fun old => op n old operand expected
    pure (s.setReg d (atomicResult n zero old)).retire

/-- The size that mod[5] selects. -/
def atomicSize (w : BitVec 1) : Nat := if w = 1 then 4 else 8

/-- AMOADD. -/
def execAmoadd (d a b : Reg) (w : BitVec 1) (s : State) : Out :=
  atomic 0 d a b (atomicSize w) false (fun n old x _ => some ((old + x) % 2 ^ (8 * n))) s
/-- AMOAND. -/
def execAmoand (d a b : Reg) (w : BitVec 1) (s : State) : Out :=
  atomic 1 d a b (atomicSize w) false (fun _ old x _ => some (old &&& x)) s
/-- AMOOR. -/
def execAmoor (d a b : Reg) (w : BitVec 1) (s : State) : Out :=
  atomic 2 d a b (atomicSize w) false (fun _ old x _ => some (old ||| x)) s
/-- AMOXOR. -/
def execAmoxor (d a b : Reg) (w : BitVec 1) (s : State) : Out :=
  atomic 3 d a b (atomicSize w) false (fun _ old x _ => some (old ^^^ x)) s
/-- AMOMIN, signed. -/
def execAmomin (d a b : Reg) (w : BitVec 1) (s : State) : Out :=
  atomic 4 d a b (atomicSize w) false (fun n old x _ => some (if signedOf (8 * n) old ≤ signedOf (8 * n) x then old else x)) s
/-- AMOMAX, signed. -/
def execAmomax (d a b : Reg) (w : BitVec 1) (s : State) : Out :=
  atomic 5 d a b (atomicSize w) false (fun n old x _ => some (if signedOf (8 * n) old ≤ signedOf (8 * n) x then x else old)) s
/-- AMOMINU. -/
def execAmominu (d a b : Reg) (w : BitVec 1) (s : State) : Out :=
  atomic 6 d a b (atomicSize w) true (fun _ old x _ => some (Nat.min old x)) s
/-- AMOMAXU. -/
def execAmomaxu (d a b : Reg) (w : BitVec 1) (s : State) : Out :=
  atomic 7 d a b (atomicSize w) true (fun _ old x _ => some (Nat.max old x)) s
/-- AMOSWP. -/
def execAmoswp (d a b : Reg) (w : BitVec 1) (s : State) : Out :=
  atomic 8 d a b (atomicSize w) false (fun _ _ x _ => some x) s
/-- AMOCAS: nothing is written when the old value differs from wd. -/
def execAmocas (d a b : Reg) (w : BitVec 1) (s : State) : Out :=
  atomic 9 d a b (atomicSize w) false (fun _ old x e => if old = e then some x else none) s
/-- AMOFADD: an f32 sum under RNE that raises no flag. -/
def execAmofadd (d a b : Reg) (s : State) : Out :=
  atomic 10 d a b 4 true (fun _ old x _ =>
    some (FArith.add .f32 .rne (FloatFormat.f32.read old) (FloatFormat.f32.read x)).1) s

end Sys2Proof.Machine
end

