-- ==== Sys2Proof/Machine/Branch.lean ====
section
/-!
DEFINITION. Branches, jumps, calls and returns (R79, R122 to R125).
-/

namespace Sys2Proof.Machine

namespace State

/-- Whether a target may be jumped to: aligned and within the I-store (R124). -/
def goodTarget (s : State) (t : Word) : Bool := bits t 1 0 == 0 && decide (t.toNat < istoreSize s.cur.1)

/-- A jump to a target, or BAD_TARGET with EADDR naming it (R124). -/
def jump (s : State) (t : Word) (k : State → State) : Res State :=
  if s.goodTarget t then .ok ((k s).complete t) else raiseAt .badTarget 0 t

/-- A field of words as a byte offset from the word itself (R72, R84). -/
def wordOffset (s : State) {n : Nat} (f : BitVec n) : Word := s.immSigned f * 4

end State

/-- A conditional branch: taken to the word's address plus the offset; not taken, its target is never looked at (R122). -/
def branch {n : Nat} (o : BitVec n) (taken : State → Bool) (s : State) : Out :=
  s.withExt fun s => if taken s then s.jump (s.pc + s.wordOffset o) id else .ok s.retire

/-- BEQ. -/
def execBeq (a b : Reg) (o : BitVec 16) (s : State) : Out := branch o (fun s => s.reg a == s.reg b) s
/-- BNE. -/
def execBne (a b : Reg) (o : BitVec 16) (s : State) : Out := branch o (fun s => s.reg a != s.reg b) s
/-- BLT, signed. -/
def execBlt (a b : Reg) (o : BitVec 16) (s : State) : Out := branch o (fun s => (s.reg a).slt (s.reg b)) s
/-- BGE, signed. -/
def execBge (a b : Reg) (o : BitVec 16) (s : State) : Out := branch o (fun s => !(s.reg a).slt (s.reg b)) s
/-- BLTU. -/
def execBltu (a b : Reg) (o : BitVec 11) (s : State) : Out := branch o (fun s => (s.reg a).ult (s.reg b)) s
/-- BGEU. -/
def execBgeu (a b : Reg) (o : BitVec 11) (s : State) : Out := branch o (fun s => !(s.reg a).ult (s.reg b)) s

/-- JL: the link register receives the address after the group's last word, then the jump is taken (R123). -/
def execJl (r : Reg) (o : BitVec 16) (s : State) : Out :=
  s.withExt fun s => s.jump (s.pc + s.wordOffset o) fun t => t.setReg r (s.pc + 4)

/-- J. -/
def execJ (o : BitVec 26) (s : State) : Out := s.plain fun s => s.jump (s.pc + sext 26 o.toNat * 4) id

/-- JR. -/
def execJr (a : Reg) (s : State) : Out := s.plain fun s => s.jump (s.reg a) id

/-- The window after a call: w0 to w7 are the caller's w16 to w23, the rest zero; the caller's frame is kept (R102). -/
def openFrame (u : Strand) (rpc : Word) : Strand :=
  { u with
    frames := { w := Vector.ofFn fun i => u.w[i.val]?.getD 0, rpc := u.rpc } :: u.frames
    w := Vector.ofFn fun i => if i.val < 8 then u.w[i.val + 16]?.getD 0 else 0
    rpc := rpc }

/-- The window after a return: the caller's w16 to w23 hold the callee's w0 to w7 (R102). -/
def closeFrame (u : Strand) : Strand :=
  match u.frames with
  | [] => u
  | f :: fs => { u with
      frames := fs, rpc := f.rpc
      w := Vector.ofFn fun i => if h : i.val < 16 then f.w[i.val] else u.w[i.val - 16]?.getD 0 }

/-- A call to a target: the checks of R125 in order, then a new frame with RPC. RPC itself is not checked: a CALL in the last word of
the I-store leaves RPC at its size, and the RET traps with BAD_TARGET (DESIGN CHOICE: R125 gives CALL no such check; log 59). -/
def callTo (target : State → Word) (s : State) : Out :=
  s.plain fun s => do
    ensure (!s.slot.mode) .illFunction
    s.needIdleSequencer
    let t := target s
    if !s.goodTarget t then raiseAt .badTarget 0 t
    else if s.u.frames.length + 1 ≥ maxFrames s.cur.1 then raiseAt .winOverflow 0 t
    else .ok ((s.setU (openFrame s.u (s.pc + 4))).complete t)

/-- CALL. -/
def execCall (o : BitVec 26) (s : State) : Out := callTo (fun s => s.pc + sext 26 o.toNat * 4) s

/-- CALLR: the target is read before the window shifts. -/
def execCallr (a : Reg) (s : State) : Out := callTo (fun s => s.reg a) s

/-- RET (R125): in the base frame RET_EMPTY, or WIN_UNDERFLOW where frames are spilled. -/
def execRet (s : State) : Out :=
  s.plain fun s => do
    ensure (!s.slot.mode) .illFunction
    s.needIdleSequencer
    if s.u.frames.isEmpty then raise (if s.u.wspilled = 0 then .retEmpty else .winUnderflow)
    else s.jump s.u.rpc fun t => t.setU (closeFrame t.u)

end Sys2Proof.Machine
end

