-- ==== Sys2Proof/Machine/Coherence.lean ====
section
/-!
DEFINITION. The coherence messages between the dies (R269 to R271), those of the host (R275 to R277, R393, R394), shootdowns (R210,
R211) and the links (R369, R392). They move line states; a line's data has one value, in memory (log 3).
-/

namespace Sys2Proof.Machine

namespace State

/-! ### Messages between the dies (R269) -/

/-- The class of a message: 1 snoop, 2 response, 3 data. -/
def cohClass : Coh → Nat
  | .fwdS => 1 | .fwdX => 1 | .inv => 1 | .rsp _ _ => 2 | .comp => 2 | .done => 2 | .data _ _ => 3

/-- The directory entry of a line changed. -/
def mapDir (s : State) (line : Nat) (f : DirEntry → DirEntry) : State := s.setDir line (f (s.dirLine line))

/-- A message about a line sent from die to die. -/
def sendCoh (s : State) (line source target : Nat) (m : Coh) : State :=
  { s with mesh := s.mesh ++ [{ line, source, target, what := m }] }

/-- The first message about a line that satisfies `p`, taken at its target: each link delivers each class in order (R269). -/
def takeCoh (s : State) (line : Nat) (p : CohMsg → Bool) : Option (CohMsg × State) :=
  match s.mesh.find? fun m => m.line == line && p m with
  | none => none
  | some m =>
    let ahead := s.mesh.takeWhile (· != m)
    if ahead.any fun x => x.source == m.source && x.target == m.target && cohClass x.what == cohClass m.what then none
    else some (m, { s with mesh := s.mesh.erase m })

/-! ### A home directory serves a line (R270, R271) -/

/-- The home of a line. -/
def homeOf (line : Nat) : Nat := homeDie (line * 128)

/-- A snoop sent to a die, whose answer the line waits for. -/
def sendSnoop (s : State) (line d : Nat) (m : Coh) : State :=
  (s.mapDir line fun e => { e with pending := e.pending ++ [d] }).sendCoh line (homeOf line) d m

/-- Whether the data of a request for a line has been sent. -/
def dataSent (s : State) (line : Nat) : Bool :=
  (s.dirLine line).gotData.isSome || s.mesh.any fun m => m.line == line && match m.what with | .data g _ => g != .i | _ => false

/-- Once every snoop is answered and the host has granted, DComp follows; where the home supplies the data itself, marked data stands for it
(R269, R270). -/
def maybeComp (s : State) (line : Nat) : State :=
  let e := s.dirLine line
  match e.busy with
  | some (d, k) =>
    if (k == 1 || k == 2) && e.pending.isEmpty && !e.hostPending && !e.gotComp && !e.installed &&
        s.mesh.all (fun m => m.line != line || match m.what with | .comp => false | .data _ c => !c | _ => true) then
      s.sendCoh line (homeOf line) d
        (if k == 1 && !s.dataSent line then .data (if e.state == .s || e.state == .e then .e else .m) true else .comp)
    else s
  | none => s

/-- A request for a line accepted by its home: the line is busy, the host is asked and the copies are snooped as the request needs
(R269, R270, R275): an Upgrade where the part holds S or O. Data that the home supplies itself comes with the completion mark once the
request needs no invalidation and no grant (`maybeComp`). A request for a copy that the die no longer has is one for the line. -/
def acceptLine (s : State) (r : LineReq) : State :=
  let line := r.line
  let d := r.die
  let h := homeOf line
  let e := s.dirLine line
  let kind := if r.kind = 2 ∧ !e.present.contains d then 1 else r.kind
  let ask (op : Nat) (s : State) : State := (s.openTx op line).mapDir line fun e => { e with hostPending := true }
  let upgrade (s : State) : State := match s.hostLine line with | .e => s | .m => s | _ => ask 3 s
  let s := s.mapDir line fun e => { e with
    busy := some (d, kind), slot := r.slot, gotData := none, gotComp := false, installed := false, dirtySeen := false }
  let others := e.present.filter (· != d)
  match kind with
  | 0 => match e.state with
    | .i => ask 1 s
    | .s => s.sendCoh line h d (.data .s true)
    | _ => match e.owner.filter (· != d) with
      | some o => s.sendSnoop line o .fwdS
      | none => s.sendCoh line h d (.data .s true)
  | 1 => match e.state with
    | .i => ask 2 s
    | .s =>
      let s := others.foldl (fun s o => s.sendSnoop line o .inv) (upgrade s)
      if others.isEmpty then s else s.sendCoh line h d (.data .e false)
    | st =>
      let s := if st = .o then upgrade s else s
      let s := others.foldl (fun s o => s.sendSnoop line o (if e.owner = some o then .fwdX else .inv)) s
      if e.owner.all (· == d) && !others.isEmpty then s.sendCoh line h d (.data .m false) else s
  | _ =>
    let s := if e.state = .s ∨ e.state = .o then upgrade s else s
    others.foldl (fun s o => s.sendSnoop line o .inv) s

/-- A victim of the snoop filter back-invalidated: DInv to every die that it names (R271). -/
def startEvict (s : State) (line : Nat) : State :=
  let e := s.dirLine line
  let s := s.mapDir line fun e => { e with busy := some (homeOf line, 5), dirtySeen := false }
  e.present.foldl (fun s d => s.sendSnoop line d .inv) s

/-- A victim whose dies have all answered: its entry is freed, and its data leaves the part (R271). -/
def finishEvict (s : State) (line : Nat) : State :=
  let e := s.dirLine line
  match e.busy with
  | some (_, 5) => if e.pending.isEmpty then (s.setDir line {}).leaveHost line e.dirtySeen else s
  | _ => s

/-- Whether a strand of a die waits for a line at its home. -/
def awaitsLine (s : State) (d line : Nat) : Bool :=
  s.occupied.any fun (c, i) => dieOf c == d && (s.slotAt c i).status == .waiting (.line line)

/-- A waiting request served, if its home can (an atomic keeps its turn until its strand has performed it, R277): it makes the line busy,
or it is a drop, or a way of its set is made free first (R270, R271). -/
def serveLine (s : State) (r : LineReq) : State :=
  let h := homeOf r.line
  let taken (s : State) : State := s.setDie h { s.die h with requests := (s.die h).requests.erase r }
  if (s.dirLine r.line).busy.isSome || s.inWriteback r.line then s
  else if r.kind = 6 then if s.awaitsLine r.die r.line then s else taken s
  else if r.kind ≥ 3 then (taken s).dropLine r.line r.die (r.kind == 3)
  else if s.filterFull r.line then s
  else match s.filterVictim r.line with
    | some v =>
      if (s.filterSet r.line).any fun l => (s.dirLine l).busy.any fun (_, k) => k == 5 then s else s.startEvict v
    | none => ((taken s).acceptLine r).maybeComp r.line

/-- Whether a request is the first of its line that waits. -/
def firstOfLine (rs : List LineReq) (r : LineReq) : Bool := (rs.find? fun x => x.line == r.line) == some r

/-! ### Host snoops (R276) -/

/-- A snoop of a die answered: whether its data was dirty. -/
def answerSnoop (s : State) (line d : Nat) (shared : Bool) : Bool × State :=
  let dirty := s.dieDirty d line
  if shared then
    let s := s.recallL1s d line true
    let x := s.l2Line d line
    (dirty, s.setL2 d line { x with state := if x.state = .i then .i else if dirty then .o else .s })
  else (dirty, s.invalidateDie d line)

/-- The answer to a host snoop noted: 0x20 RspI, 0x21 RspS, 0x22 RspFwd, whose ATTR is the state that the part keeps, 4 O or 0 I
(R393, R394). -/
def answerHost (s : State) (line op : Nat) (attr : Nat := 0) : State := { s with answers := AMap.set s.answers line (op, attr) }

/-- SnpShared answered (R276): the owner keeps a dirty line as O and a clean one as S, and so does the part. -/
def snoopShared (s : State) (line : Nat) : State :=
  let e := s.dirLine line
  match e.state with
  | .i => (s.setHostLine line .i).answerHost line 0x20
  | .s => (s.setHostLine line .s).answerHost line 0x21
  | _ => match e.owner with
    | none => (s.setHostLine line .s).answerHost line 0x21
    | some o =>
      let (dirty, s) := s.answerSnoop line o true
      let st : LineState := if dirty then .o else .s
      ((s.setDir line { e with state := st, owner := if dirty then some o else none }).setHostLine line st).answerHost line
        (if dirty then 0x22 else 0x21) (if dirty then 4 else 0)

/-- SnpInv answered: every copy of the part goes, dirty data to the host requester (R276). -/
def snoopInv (s : State) (line : Nat) : State :=
  let e := s.dirLine line
  let dirty := e.present.any fun d => s.dieDirty d line
  ((e.present.foldl (fun s d => s.invalidateDie d line) s).setDir line { e with
    state := .i, present := [], owner := none }).setHostLine line .i |>.answerHost line (if dirty then 0x22 else 0x20)

/-- Whether the home's own request for a line is open at the host while the part holds no copy (R276). -/
def asksHost (s : State) (line : Nat) : Bool := (s.dirLine line).hostPending && (s.dirLine line).present.isEmpty

/-- A host snoop at the home: answered with RspI at once where the home's own request decides; behind the request that makes the line
busy; else at once (R276, R285). -/
def hostSnoop (s : State) (line : Nat) (inv : Bool) : State :=
  let h := homeOf line
  if s.asksHost line then s.answerHost line 0x20
  else if (s.dirLine line).busy.isSome then s.setDie h { s.die h with snoops := (s.die h).snoops ++ [(line, inv)] }
  else if inv then s.snoopInv line else s.snoopShared line

/-- What waits at a home served, as far as it can be: host snoops of lines that are busy no more, then requests in order of arrival (R270,
R276). -/
def serveHome (s : State) (h : Nat) : State :=
  let s := (s.die h).snoops.foldl (fun s (l, inv) =>
    if (s.dirLine l).busy.isSome then s
    else
      let s := s.setDie h { s.die h with snoops := (s.die h).snoops.erase (l, inv) }
      if inv then s.snoopInv l else s.snoopShared l) s
  (s.die h).requests.foldl (fun s r => if firstOfLine (s.die h).requests r then s.serveLine r else s) s

/-- A request of a die reaches the home of a line, where it waits its turn (R270). -/
def requestLine (s : State) (r : LineReq) : State :=
  let h := homeOf r.line
  (s.setDie h { s.die h with requests := (s.die h).requests ++ [r] }).serveHome h

/-- The requester has what it needs: it installs the line and tells the home (R270). A line whose slot has died meanwhile is poison (R274). -/
def installLine (s : State) (line : Nat) : State :=
  let e := s.dirLine line
  match e.busy with
  | some (d, k) =>
    let ready := if k = 0 then e.gotData.isSome else if k = 1 then e.gotData.isSome && e.gotComp else k == 2 && e.gotComp
    if !ready || e.installed then s
    else
      let grant := if k = 2 then .m else e.gotData.getD .s
      let x := s.l2Line d line
      let slot := if x.state = .i then e.slot else x.slot
      let s := s.setL2 d line { x with state := grant, slot, dead := x.dead || s.keyDead slot }
      (s.mapDir line fun e => { e with installed := true }).sendCoh line d (homeOf line) .done
  | none => s

/-- The directory after a request: who holds the line, and it is busy no more (R270). -/
def doneEntry (e : DirEntry) (d k : Nat) : DirEntry :=
  let grant : LineState := if k = 2 then .m else e.gotData.getD .s
  let others := e.present.filter (· != d)
  let e := { e with busy := none, gotData := none, gotComp := false, installed := false, hostPending := false, pending := [] }
  if k = 0 then { e with
    present := others ++ [d]
    state := if e.state = .i then grant else e.state
    owner := if e.state = .i ∧ grant ≠ .s then some d else e.owner }
  else { e with present := [d], state := grant, owner := some d }

end State

/-- DRDS (die, line, index: the key slot): a die asks the home to read a line shared. -/
def execDrds (s : State) : Out := .next (s.requestLine { line := s.ev.line, die := s.ev.die, kind := 0, slot := s.ev.index })
/-- DRDX (die, line, index): a die asks for ownership. -/
def execDrdx (s : State) : Out := .next (s.requestLine { line := s.ev.line, die := s.ev.die, kind := 1, slot := s.ev.index })
/-- DUPG (die, line, index): a die asks to go from S or O to M without data. -/
def execDupg (s : State) : Out := .next (s.requestLine { line := s.ev.line, die := s.ev.die, kind := 2, slot := s.ev.index })
/-- DWB (die, line): a die drops a dirty line with its data. -/
def execDwb (s : State) : Out := .next (s.requestLine { line := s.ev.line, die := s.ev.die, kind := 3 })
/-- DEVICT (die, line): a die drops a clean line. -/
def execDevict (s : State) : Out := .next (s.requestLine { line := s.ev.line, die := s.ev.die, kind := 4 })

namespace State

/-- The owner die of a line answers a forward: with DRsp to the home, and the data to the requester (R269, R270). -/
def forwardLine (s : State) (m : CohMsg) (shared : Bool) : State :=
  let (dirty, s) := s.answerSnoop m.line m.target shared
  let kept : LineState := if !shared then .i else if dirty then .o else .s
  let requester := ((s.dirLine m.line).busy.map (·.1)).getD m.source
  (s.sendCoh m.line m.target m.source (.rsp kept dirty)).sendCoh m.line m.target requester
    (.data (if shared then .s else if dirty then .m else .e) false)

end State

/-- DFWDS (line): the owner die sends the line to the requester and keeps it as O or S. -/
def execDfwds (s : State) : Out :=
  .next (match s.takeCoh s.ev.line (·.what == .fwdS) with | some (m, s) => s.forwardLine m true | none => s)

/-- DFWDX (line): the owner die sends the line to the requester and gives it up. -/
def execDfwdx (s : State) : Out :=
  .next (match s.takeCoh s.ev.line (·.what == .fwdX) with | some (m, s) => s.forwardLine m false | none => s)

/-- DINV (die, line): a die's copies of a line are invalidated; dirty data of a victim goes to the home (R271). -/
def execDinv (s : State) : Out :=
  .next (match s.takeCoh s.ev.line (fun m => m.what == .inv && m.target == s.ev.die) with
    | some (m, s) =>
      let (dirty, s) := s.answerSnoop m.line m.target false
      let victim := (s.dirLine m.line).busy.any fun (_, k) => k == 5
      s.sendCoh m.line m.target m.source (if victim && dirty then .data .i false else .rsp .i dirty)
    | none => s)

namespace State

/-- A die's answer has reached the home, which follows it in the directory (R270, R271). -/
def answered1 (s : State) (line d : Nat) (kept : LineState) (dirty : Bool) : State :=
  let s := s.mapDir line fun e =>
    let e := { e with pending := e.pending.erase d, dirtySeen := e.dirtySeen || dirty }
    if kept = .i then { e with present := e.present.filter (· != d), owner := e.owner.filter (· != d) }
    else { e with state := kept, owner := if kept = .o then some d else none }
  ((s.maybeComp line).finishEvict line).serveHome (homeOf line)

end State

/-- DRSP (die, line): a snoop's answer reaches the home. -/
def execDrsp (s : State) : Out :=
  .next (match s.takeCoh s.ev.line (fun m => m.source == s.ev.die && match m.what with | .rsp _ _ => true | _ => false) with
    | some ({ what := .rsp kept dirty, .. }, s) => s.answered1 s.ev.line s.ev.die kept dirty
    | _ => s)

/-- DCOMP (line): the requester learns that every invalidation has been answered. -/
def execDcomp (s : State) : Out :=
  .next (match s.takeCoh s.ev.line (·.what == .comp) with
    | some (_, s) => (s.mapDir s.ev.line fun e => { e with gotComp := true }).installLine s.ev.line
    | none => s)

/-- DDATA (line): line data reaches the requester, and a completion mark stands for the DComp; or a victim's data reaches its home. -/
def execDdata (s : State) : Out :=
  .next (match s.takeCoh s.ev.line (fun m => match m.what with | .data _ _ => true | _ => false) with
    | some ({ what := .data .i _, source := d, .. }, s) => s.answered1 s.ev.line d .i true
    | some ({ what := .data g mark, .. }, s) =>
      (s.mapDir s.ev.line fun e => { e with gotData := some g, gotComp := e.gotComp || mark }).installLine s.ev.line
    | _ => s)

/-- DDONE (line): the requester has installed the line; the directory follows, and what waits at the home is served (R270). The home takes
a DDone after the DRsp of every snoop of the request, so that the directory knows what each die kept (R266). -/
def execDdone (s : State) : Out :=
  .next (if !(s.dirLine s.ev.line).pending.isEmpty then s
    else match s.takeCoh s.ev.line (·.what == .done) with
    | some (m, s) => match (s.dirLine m.line).busy with
      | some (d, k) => (s.mapDir m.line fun e => State.doneEntry e d k).serveHome m.target
      | none => s
    | none => s)

/-! ### The host (R275, R276, R394) -/

/-- SNP_SHARED (line): the host asks for a shared copy. -/
def execSnpShared (s : State) : Out := .next (s.hostSnoop s.ev.line false)

/-- SNP_INV (line): the host takes the line from the part. -/
def execSnpInv (s : State) : Out := .next (s.hostSnoop s.ev.line true)

/-- DATA (line, kind: the granted state 0 I, 1 S, 2 E, 3 M, 4 O): the host answers RdShared, RdOwn or Upgrade with data (R275, R393). A
state that R275 does not have the host grant to the request is taken as S for RdShared, as E for the others (DESIGN CHOICE; log 62). -/
def execData (s : State) : Out :=
  let line := s.ev.line
  let e := s.dirLine line
  if !e.hostPending then .next { s with mgmt := { s.mgmt with protocolErrors := s.mgmt.protocolErrors + 1 } }
  else
    let d := (e.busy.map (·.1)).getD 0
    let shared := e.busy.any fun (_, k) => k == 0
    let grant : LineState := if shared && s.ev.kind != 2 then .s else .e
    let s := (s.closeTx line (· ≤ 3)).setHostLine line grant
    let s : State := { s with mesh := s.mesh.filter fun m => m.line != line || match m.what with | .data _ _ => false | _ => true }
    let s := s.mapDir line fun e => { e with hostPending := false, gotData := none }
    .next ((s.sendCoh line (State.homeOf line) d (.data grant (shared || e.pending.isEmpty))).maybeComp line)

/-- CMP (line): the host has done an Upgrade, Evict, WrNC or Persist (R394). An Upgrade makes the part's copy the only one: S becomes E, O
becomes M (R275). -/
def execCmp (s : State) : Out :=
  let line := s.ev.line
  let upgraded := s.hostTx.any fun (_, t) => t.op == 3 && t.line == line
  let s := s.closeTx line fun op => op == 3 || op == 5 || op == 8 || op == 10
  .next (if upgraded then
      let st : LineState := if s.hostLine line = .o then .m else .e
      ((s.setHostLine line st).mapDir line fun e => { e with hostPending := false }).maybeComp line
    else s)

/-- WB_ACK (line): the host has taken a write-back; the line leaves the home's write-back buffer, and the requests that wait for it are
served (R271). -/
def execWbAck (s : State) : Out :=
  let line := s.ev.line
  let h := homeDie (line * 128)
  let s := s.closeTx line fun op => op == 4 || op == 9
  let s := s.setDie h { s.die h with writeback := (s.die h).writeback.filter (· != line) }
  .next (s.serveHome h)

/-- ATOMIC_RSP (index: the transaction's number, word: the old value): the host answers an AtomicReq (R277). The old value is the one that
the atomic read as it was performed, since memory has one value (log 3). -/
def execAtomicRsp (s : State) : Out :=
  .next (match AMap.get? s.hostTx s.ev.index with
    | some { op := 6, .. } => { s with hostTx := AMap.erase s.hostTx s.ev.index }
    | _ => { s with mgmt := { s.mgmt with protocolErrors := s.mgmt.protocolErrors + 1 } })

/-- HOST_PROTOCOL_ERROR: a message with an unknown OP or a non-zero reserved field is discarded and counted (R394). -/
def execHostProtocolError (s : State) : Out :=
  .next { s with mgmt := { s.mgmt with protocolErrors := s.mgmt.protocolErrors + 1 } }

/-! ### Shootdowns (R210, R211) -/

/-- INVAL (kind, index: ASN, word: the virtual page number, amount: TXID): the host's shootdown removes its translations from every TLB
and walk cache; it is acknowledged when it completes. -/
def execInval (s : State) : Out :=
  let page := s.ev.word.toNat
  let r : Shootdown := { kind := s.ev.kind, asn := s.ev.index, page := page, host := some s.ev.amount }
  let s := s.shoot s.ev.kind s.ev.index page
  .next { s with nextId := s.nextId + 1, shootdowns := AMap.set s.shootdowns s.nextId r }

namespace State

/-- A shootdown that has completed: what other walks have filled again meanwhile goes as well, and it is acknowledged to the host, or its
TLBINV retires (R211, R263). -/
def endShootdown (s : State) (i : Nat) : State :=
  let s := match AMap.get? s.shootdowns i with | some r => s.shoot r.kind r.asn r.page | none => s
  let acks := (((AMap.get? s.shootdowns i).bind (·.host)).map fun n => [n]).getD []
  let s : State := { s with shootdowns := AMap.erase s.shootdowns i, acks := s.acks ++ acks }
  match s.occupied.find? fun (c, j) => (s.slotAt c j).status = .waiting (.shootdown i) with
  | some (c, j) => s.as c j retire
  | none => s

end State

/-- SHOOTDOWN_COMPLETE (index): a shootdown completes once every use of what it removed has been performed (R211). -/
def execShootdownComplete (s : State) : Out :=
  .next (match AMap.get? s.shootdowns s.ev.index with
    | some r => if s.translationUsed r.kind r.asn then s else s.endShootdown s.ev.index
    | none => s)

/-! ### Links (R369, R392) -/

namespace State

/-- The cores on which a cause of every core is reported: not the members of a cuff nor the odd core of a pair, whose leader or even core
takes it (R161, R369). -/
def reportingCores (s : State) : List Nat :=
  allCores.filter fun c => s.reportCore c == c && (c % 2 == 0 || coreKind c != .mcore ||
    (List.range 4).all fun i => !(s.slotAt (c - 1) i).pair.isSome)

/-- A cause raised on every core of a die; one without strands takes it in its idle context (R369). -/
def latchDie (s : State) (d : Nat) (l : Latched) : State :=
  (s.reportingCores.filter fun c => dieOf c == d && c != 1023).foldl (fun s c => s.latchCore c l) s

end State

/-- HOSTLINK_FAIL (die, index: the module of the die): a UCIe module goes down (R392). -/
def execHostlinkFail (s : State) : Out :=
  let d := s.ev.die
  let s := s.setDie d { s.die d with modulesUp := (s.die d).modulesUp.setIfInBounds s.ev.index false }
  .next (s.latchDie d { cause := .hostlinkFail, info := d * 2 + s.ev.index })

/-- HOST_MODULE_FAILOVER (die, index): the lines that a module carried move to the die's other module, where what was in flight is
replayed (R392, R421): no transaction is lost. -/
def execHostModuleFailover (s : State) : Out := .next s

/-- D2D_FAIL (die, index: the link): die-to-die retry is exhausted (R371). -/
def execD2dFail (s : State) : Out := .next (s.latchDie s.ev.die { cause := .d2dFail, info := s.ev.index })

/-- HOST_ERROR_ANSWER (core, slot, flag: a store, word: the virtual address, line): the host answers an access with an error, as it does
from then on for that line: a load, atomic or walk traps precisely with BUS_ERROR, a store raises it asynchronously (R200). -/
def execHostErrorAnswer (s : State) : Out :=
  let s := { s with holes := s.holes ++ [(s.ev.line * 128, 128)] }
  .next (if s.ev.flag then s.latch s.ev.core s.ev.slot { cause := .busError, eaddr := s.ev.word, info := 1 }
    else if (s.slotAt s.ev.core s.ev.slot).status = .ready then
      s.takeTrap s.ev.core s.ev.slot true .busError 0 s.ev.word 0
    else s)

end Sys2Proof.Machine
end

