-- ==== Sys2Proof/Machine/Errors.lean ====
section
/-!
DEFINITION. Errors that the hardware detects (R369, R371, R372, R417), and the sweep of a dead key slot (R274, R332).
-/

namespace Sys2Proof.Machine

namespace State

/-- A message of the network lost. -/
def dropFlight (s : State) (i : Nat) : State := { s with net := s.net.eraseIdx i }

end State

/-- MESH_UE (core, kind: the class, index: the message's place in the network): an uncorrectable mesh message is lost (R371). -/
def execMeshUe (s : State) : Out :=
  .next ((s.dropFlight s.ev.index).latchCore s.ev.core { cause := .meshUe, info := s.ev.kind })

namespace State

/-- A TLB entry, poisoned where it serves an address. -/
def poisonEntry (va : Word) (t : TlbEntry) : TlbEntry := if tlbMatch (t.asn.getD 0) va t then { t with poison := true } else t

/-- The word of an SRAM that an address names, poisoned: 0 data SRAM, 2 I-store; of an L1 tag (1) and of the L2 (3) a line; of the L1 TLB (4)
the entries that serve the address (R372). -/
def poisonAt (s : State) (c array a : Nat) : State :=
  let k := s.core c
  match array with
  | 0 => s.setCore c { k with poison := k.poison ++ [localCell c (a / 8 * 8)] }
  | 1 => s.setCore c { k with poison := k.poison ++ [lineOf a * 128] }
  | 2 => s.setCore c { k with poison := k.poison ++ [istoreCell (istoreUnit c) (a / 8 * 8)] }
  | 3 => s.setL2 (dieOf c) (lineOf a) { s.l2Line (dieOf c) (lineOf a) with poison := true }
  | 4 => s.setCore c { k with tlb := k.tlb.map (poisonEntry (BitVec.ofNat 64 a)) }
  | _ => s

end State

/-- SRAM_UE (core, kind: the array, word: the address): an uncorrectable error poisons its word or line (R371, R372). -/
def execSramUe (s : State) : Out :=
  .next ((s.poisonAt s.ev.core s.ev.kind s.ev.word.toNat).latchCore s.ev.core
    { cause := .sramUe, eaddr := s.ev.word, info := s.ev.kind })

/-- ACC_UE (core, index: the acc). -/
def execAccUe (s : State) : Out := .next (s.latchCore s.ev.core { cause := .accUe, info := s.ev.index })
/-- PACC_UE (core, index: the pacc). -/
def execPaccUe (s : State) : Out := .next (s.latchCore s.ev.core { cause := .paccUe, info := s.ev.index })
/-- WBUF_UE (core, word: the offset). -/
def execWbufUe (s : State) : Out := .next (s.latchCore s.ev.core { cause := .wbufUe, eaddr := s.ev.word })
/-- ABUF_PARITY (core, index: the half). -/
def execAbufParity (s : State) : Out := .next (s.latchCore s.ev.core { cause := .abufParity, info := s.ev.index })
/-- CB_PARITY (core, index: the slot of the codebook). -/
def execCbParity (s : State) : Out := .next (s.latchCore s.ev.core { cause := .cbParity, info := s.ev.index })
/-- ROW_BUS_CRC (core). -/
def execRowBusCrc (s : State) : Out := .next (s.latchCore s.ev.core { cause := .rowBusCrc })
/-- CLASP_FAULT (core). -/
def execClaspFault (s : State) : Out := .next (s.latchCore s.ev.core { cause := .claspFault })

namespace State

/-- The strand whose register file, in a slot of a core, has failed: in a cuff the leader's (R161). -/
def parityOwner (s : State) (c i : Nat) : Nat × Nat :=
  let k := s.reportCore c
  (s.holderOf k (if k = c then i else 0)).getD (k, i)

/-- A failed register file noted for the service of its REG_PARITY. -/
def noteParity (s : State) (c i : Nat) : State :=
  s.setCore c { s.core c with parity := (s.core c).parity ++ [(i, (s.strandAt c i).unit)] }

end State

/-- REG_PARITY (core, slot, kind: the register file): outside lockstep the cause is raised for the core (R369, R371), and the unit whose
file has failed is noted for its service (R372); in a pair it is a mismatch (R165). -/
def execRegParity (s : State) : Out :=
  let x := s.parityOwner s.ev.core s.ev.slot
  .next (if (s.slotAt x.1 x.2).pair.isSome then s.mismatch x.1 x.2
    else (s.noteParity x.1 x.2).latchCore s.ev.core { cause := .regParity, info := s.ev.kind })

/-- CORRECTED_ERROR (kind: the array): counted in the management registers; no cause is raised (R372, R417). -/
def execCorrectedError (s : State) : Out :=
  .next { s with mgmt := { s.mgmt with
    corrected := AMap.set s.mgmt.corrected s.ev.kind (AMap.getD s.mgmt.corrected s.ev.kind 0 + 1) } }

namespace State

/-- The lines that a dead slot has poisoned in a die's L2 (R274). -/
def poisoned (s : State) (d k : Nat) : List Nat := ((s.die d).l2.filter fun (_, y) => y.slot == k && y.dead).map (·.1)

/-- A poisoned line of a die's L2 discarded without a write, its home told (R274). The last copy leaves the part with an Evict, in
whatever state the host has the line (DESIGN CHOICE: R274 does not say what the host is told; log 62). -/
def discardLine (s : State) (d line : Nat) : State :=
  let e := s.dirLine line
  let rest := e.present.filter (· != d)
  let s := s.invalidateDie d line
  if rest.isEmpty then (s.setDir line { e with state := .i, present := [], owner := none }).leaveHost line false
  else s.setDir line { e with
    state := if e.owner == some d then .s else e.state, present := rest, owner := e.owner.filter (· != d) }

/-- A die's sweep of a dead slot over: its L2 lines of the slot are gone, and the slot is Free once every die has swept (R274,
R332). A line that its home serves is swept after that. -/
def sweepDie (s : State) (d k : Nat) : State :=
  if (s.poisoned d k).any fun l => (s.dirLine l).busy.isSome then s
  else
    let s := (s.poisoned d k).foldl (fun s l => s.discardLine d l) s
    let x := s.keySlot k
    let left := x.sweeps.filter (· != d)
    { s with keys := AMap.set s.keys k { x with sweeps := left, state := if left.isEmpty then .free else x.state } }

end State

/-- KEY_SWEEP_COMPLETE (die, index: the key slot). -/
def execKeySweepComplete (s : State) : Out :=
  .next (if (s.keySlot s.ev.index).state = .sweeping then s.sweepDie s.ev.die s.ev.index else s)

end Sys2Proof.Machine
end

