-- ==== Sys2Proof/Machine/Image.lean ====
section
/-!
DEFINITION. The context image of a frozen job, written (R380 to R383).
-/

namespace Sys2Proof.Machine

namespace State

/-! ### What of a job an image records -/

/-- The launches of a job that have not completed, in the order of their image indices (R381). -/
def imageLaunches (s : State) (q : Nat) : List (Nat × Launch) := s.launches.filter fun (_, l) => l.job == q && !l.done

/-- The image index of a launch that has not completed. -/
def launchPlace? (s : State) (q : Nat) (l : Option Nat) : Option Nat := l.bind fun n => (s.imageLaunches q).findIdx? fun x => x.1 == n

/-- The index that an image records for a launch: 0xFFFFFFFF, as for a node of no graph, where the launch has completed. An owner rule or a
region keeps that index, and leads nowhere after a resume (DESIGN CHOICE: R381 names no index for a launch that has no LAUNCH record;
log 43). -/
def launchIndex (s : State) (q : Nat) (l : Option Nat) : Nat := (s.launchPlace? q l).getD 0xFFFFFFFF

/-- A scratchpad group: a core and a window on it. -/
abbrev Scratch := Nat × Nat × Nat

/-- The group that a logical core of a launch has: its hidden window, or its core's whole scratchpad (R386). -/
def scratchOf (s : State) (l : Launch) (lc : Nat) : Scratch :=
  let c := l.cores.getD lc 0
  match l.windows[lc]? with | some (b, n) => (c, b, n) | none => (c, 0, (s.core c).sp * 1024)

/-- The groups of a job's dispatched launches, in the order of their records: logical cores that share one share its record. -/
def scratchGroups (s : State) (q : Nat) : List Scratch :=
  ((s.imageLaunches q).flatMap fun (_, l) =>
    if l.dispatched then (List.range l.count).map (s.scratchOf l) else []).eraseDups

/-- The first logical core of a job on a core, of a launch that has not completed: launch and number. -/
def homeOn (s : State) (q c : Nat) : Option (Nat × Nat) :=
  (s.imageLaunches q).findSome? fun (n, l) =>
    ((List.range l.count).find? fun lc => l.dispatched && l.cores.getD lc 1024 == c).map fun lc => (n, lc)

/-- The image index and the logical core under which what a core holds of a logical core of a launch is recorded. Where that launch has
completed, so that no LAUNCH record names it, they are those of the job's first logical core on the core, else logical core 0 of the launch
that the unit `t` counts toward (DESIGN CHOICE: R381 and R382 say nothing of it; log 43). -/
def imageHome (s : State) (q c : Nat) (home : Option Nat) (lc : Nat) (t : Option Nat) : Nat × Nat :=
  match s.launchPlace? q home with
  | some n => (n, lc)
  | none => match s.homeOn q c with
    | some (l, k) => (s.launchIndex q (some l), k)
    | none => (s.launchIndex q t, 0)

/-- The order of records: by launch and then by logical core (R381). -/
def byHome {α : Type} (f : α → Nat × Nat) (l : List α) : List α :=
  sortBy (fun a b => decide ((f a).1 < (f b).1 ∨ ((f a).1 = (f b).1 ∧ (f a).2 ≤ (f b).2))) l

/-- The image index and logical core of a slot's strand. -/
def strandHome (s : State) (q : Nat) (x : Nat × Nat) : Nat × Nat :=
  let t := s.strandAt x.1 x.2
  s.imageHome q x.1 t.home t.lcore t.launch

/-- Slots of a job's strands, ordered by launch and logical core. -/
def imageStrands (s : State) (q : Nat) : List (Nat × Nat) :=
  byHome (s.strandHome q) (s.occupied.filter fun (c, i) => (s.strandAt c i).job == some q)

/-! ### Records (R381) -/

/-- A number as little-endian bytes, so many. -/
def le (n x : Nat) : List Byte := leBytes n x

/-- A wait as R311 lays it out, its counter relative to the window. -/
def waitWord (j : Job) (w : Option (Nat × BitVec 32)) : Word :=
  match w with
  | some (c, v) => BitVec.ofNat 64 ((c - j.windowBase) + 4096 + v.toNat * 2 ^ 32)
  | none => 0

/-- The descriptor and declaration of a launch (R310, R311), its map given by ordinal. -/
def launchNode (j : Job) (l : Launch) (map : Nat) : List Byte :=
  let header := 1 + match l.counter with | some c => (c - j.windowBase) * 2 ^ 16 + 2 ^ 28 | none => 0
  let shape := (if l.smallCores then 1 else 0) + (if l.pair then 2 else 0) + l.cuff * 4 + l.count * 2 ^ 8 + l.entry.toNat * 2 ^ 32
  let tile := match l.tile with
    | some (b, n, w) => [BitVec.ofNat 64 b, BitVec.ofNat 64 (n + if w then 2 ^ 32 else 0)]
    | none => [0, 0]
  Record.words ([BitVec.ofNat 64 header, BitVec.ofNat 64 shape, BitVec.ofNat 64 map, waitWord j l.startWaits[0]?] ++
    (List.range 4).map (fun i => l.args.getD i 0) ++ (List.range 4).map (fun i => waitWord j l.startWaits[i + 1]?) ++
    (List.range 2).map (fun i => waitWord j l.dataWaits[i]?) ++ tile)

/-- A LAUNCH record. -/
def launchRecord (j : Job) (l : Launch) (map : Nat) : List Byte :=
  launchNode j l map ++ le 4 l.unitsDone ++ le 4 l.unitsStarted ++ le 4 (l.graph.getD 0xFFFFFFFF) ++
  le 4 (if l.dispatched then 1 else 0) ++ Record.zeros 48

/-- The LAUNCH section: launches, then nodes of a GRAPH that have not been placed. -/
def launchSection (s : State) (q : Nat) (j : Job) : List (List Byte) :=
  let ls := (s.imageLaunches q).map (·.2)
  (List.range ls.length).map (fun i => match ls[i]? with
    | some l => launchRecord j l (if l.dispatched then ((ls.take i).filter (·.dispatched)).length else 0xFFF)
    | none => []) ++
  j.unplaced.map fun l => launchRecord j l 0xFFF

/-- The COREMAP section. -/
def coremapSection (s : State) (q : Nat) : List (List Byte) :=
  let groups := s.scratchGroups q
  (s.imageLaunches q).flatMap fun (_, l) =>
    if !l.dispatched then []
    else (List.range l.count).map fun lc =>
      le 4 (l.cores.getD lc 0 + l.states.getD lc 0 * 2 ^ 11 + (groups.idxOf (s.scratchOf l lc)) * 2 ^ 16)

/-- Whether a strand has timeline state of its own: contexts, views, or matrix loads. -/
def hasTimeline (s : State) (c i : Nat) : Bool :=
  (s.heldContexts c i).any (·.isSome) || (s.strandAt c i).views.toList.any (· != {}) ||
  (match (s.strandAt c i).parked with | some (_, _, issued, _) => issued != 0 | none => false) ||
  ((s.core c).owner == some (i, (s.strandAt c i).unit) && (s.core c).tlmIssued != 0)

/-- Whether a strand has matrix state: as the owner, or parked. -/
def hasMatrix (s : State) (c i : Nat) : Bool :=
  (s.core c).owner == some (i, (s.strandAt c i).unit) || (s.strandAt c i).parked.isSome

/-- A part of a halted strand's record, as the micro-kernel of its core saves it (R375). -/
def partOf (s : State) (c i part : Nat) : List Byte := { s with cur := (c, 99) }.partRecord part i

/-- A STRAND record (R382). -/
def strandRecord (s : State) (q : Nat) (x : Nat × Nat) : List Byte :=
  let (c, i) := x
  let y := s.slotAt c i
  let (n, lc) := s.strandHome q x
  Record.strand (maxLanes c) n (match y.fault with | some r => r.withdrawn | none => false) y.u.pc y.eprog
    y.pair.isSome (s.hasMatrix c i) (s.hasTimeline c i) { y.u with lcore := lc }

/-- A core with a strand's parked matrix state put back in thought (R386). -/
def withParked (s : State) (c i : Nat) : State := s.unparkMatrix c i

/-- The TIMELINE section. -/
def timelineSection (s : State) (q : Nat) : List (List Byte) :=
  let xs := s.imageStrands q
  (List.range xs.length).filterMap fun n => match xs[n]? with
    | some (c, i) => if s.hasTimeline c i then some (le 4 n ++ Record.zeros 60 ++ (s.withParked c i).partOf c i 10) else none
    | none => none

/-- The MATRIX section; parked state is read where it is put back in thought. -/
def matrixSection (s : State) (q : Nat) : List (List Byte) :=
  let xs := s.imageStrands q
  (List.range xs.length).filterMap fun n => match xs[n]? with
    | some (c, i) =>
      if !s.hasMatrix c i then none
      else
        let t := s.withParked c i
        some (le 4 n ++ Record.zeros 60 ++ t.partOf c i 4 ++ t.partOf c i 5 ++ t.partOf c i 6 ++ t.partOf c i 7 ++ t.partOf c i 9)
    | none => none

/-- The SCRATCH section. -/
def scratchSection (s : State) (q : Nat) : List (List Byte) :=
  (s.scratchGroups q).map fun (c, b, n) =>
    le 8 n ++ le 8 (s.core c).gspill.toNat ++ Record.zeros 48 ++ s.bytes (localCell c b) n

/-- The words of a handler table entry (R326). -/
def handlerWords (h : Handler) : List Word :=
  let keep (n : Nat) : Word := match h.keeps[n]? with | some (b, m) => BitVec.ofNat 64 (b + m * 2 ^ 32) | none => 0
  [BitVec.ofNat 64 (h.q + h.type * 2 ^ 8 + 2 ^ 16 + h.pc.toNat * 2 ^ 32), keep 0, keep 1]

/-- The HANDLER section; an entry of a core on which the job has no logical core left is in no record. -/
def handlerSection (s : State) (q : Nat) : List (List Byte) :=
  let all := s.cores.flatMap fun (c, k) => k.handlers.filterMap fun (i, h) =>
    let home := s.imageHome q c h.launch h.lcore none
    if h.job = some q ∧ home.1 ≠ 0xFFFFFFFF then some (home, i, h) else none
  (byHome (·.1) all).map fun ((n, lc), i, h) => le 4 n ++ le 2 lc ++ le 1 i ++ le 1 0 ++ Record.words (handlerWords h)

/-- The GRANT section: each handle of a core once for every logical core mapped to it. -/
def grantSection (s : State) (q : Nat) : List (List Byte) :=
  let ls := s.imageLaunches q
  (List.range ls.length).flatMap fun n => match ls[n]? with
    | some (_, l) => (List.range l.cores.length).flatMap fun lc =>
        (s.grantsOf (some q) (l.cores.getD lc 0)).map fun h => le 4 n ++ le 2 lc ++ le 2 0 ++ Record.words [h]
    | none => []

/-- The OWNER section. -/
def ownerSection (s : State) (q : Nat) (j : Job) : List (List Byte) :=
  (byHome (fun (i, r) => (s.launchIndex q r.launch, i)) j.owners).map fun (i, r) => le 4 i ++ le 4 (s.launchIndex q r.launch) ++
    Record.words [BitVec.ofNat 64 r.base, BitVec.ofNat 64 r.length, BitVec.ofNat 64 (r.shift + r.count * 2 ^ 16 + r.first * 2 ^ 32), 0]

/-- The REGION section. -/
def regionSection (s : State) (q : Nat) (j : Job) : List (List Byte) :=
  (byHome (fun (_, first, _, l) => (s.launchIndex q l, first)) j.regions).map fun (n, first, size, l) =>
    le 4 n ++ le 4 (s.launchIndex q l) ++ le 4 first ++ le 4 size

/-- The SCHED section: each image with the dies that hold it. -/
def schedSection (s : State) (q : Nat) : List (List Byte) :=
  let all := s.dies.flatMap fun (_, k) => k.schedules.filterMap fun (n, im, _) => if n / 4096 = q + 1 then some (n, im) else none
  all.eraseDups.map fun (n, im) =>
    let mask := (s.dies.map fun (d, k) => match AMap.get? k.schedules n with
      | some (x, _) => if x == im then 2 ^ d else 0
      | none => 0).sum
    le 4 (n % 4096) ++ le 4 mask ++ le 8 im.length ++ im

/-- The MESSAGE section: what the drain collected, by launch and logical core, in order of arrival for each queue (R379, R381). -/
def messageSection (s : State) (q : Nat) (j : Job) : List (List Byte) :=
  let all : List ((Nat × Nat) × Nat × Msg) := j.drained.map fun (c, aq, m) =>
    (s.imageHome q c (m.home.map Prod.fst) ((m.home.map Prod.snd).getD 0) m.launch, aq, m)
  (byHome (·.1) all).map fun ((n, lc), aq, m) =>
    le 4 n ++ le 2 lc ++ le 1 aq ++ le 1 0 ++
    Record.words (m.header :: ((m.payload ++ List.replicate 7 0).take 7)) ++ Record.zeros 8

/-- The DIRTY section: the log entries from TAIL to HEAD (R219). -/
def dirtySection (s : State) (j : Job) : List (List Byte) :=
  if !j.logging then []
  else
    let head := s.num j.logPa 8
    let tail := s.num (j.logPa + 8) 8
    let size := 2 ^ (s.num (j.logPa + 16) 8 / 4 % 64)
    (List.range (Nat.min (head - tail) size)).map fun i => s.bytes (j.logPa + 64 + 8 * ((tail + i) % size)) 8

/-- The sections of an image by type. -/
def sections (s : State) (q : Nat) (j : Job) : List (Nat × List (List Byte)) :=
  [(1, (List.range j.windowSize).map fun c => Record.words [s.counterWord (j.windowBase + c)]),
   (2, s.launchSection q j), (3, s.coremapSection q), (4, (s.imageStrands q).map (s.strandRecord q)), (5, s.timelineSection q),
   (6, s.matrixSection q), (7, s.scratchSection q), (8, s.handlerSection q), (9, s.grantSection q), (10, s.ownerSection q j),
   (11, s.regionSection q j), (12, s.schedSection q), (13, s.messageSection q j), (14, s.dirtySection j)]

/-- The directory of the sections that have records, from an offset on. -/
def directory : (off : Nat) → List (Nat × List (List Byte)) → List Byte
  | _, [] => []
  | off, (t, rs) :: rest =>
    le 8 (t + rs.length * 2 ^ 32) ++ le 8 off ++ directory (off + (rs.map List.length).sum) rest

/-- The image of a job (R380). -/
def image (s : State) (q : Nat) (j : Job) (update : Bool) : List Byte :=
  let secs := (s.sections q j).filter fun (_, rs) => !rs.isEmpty
  let body := secs.flatMap fun (_, rs) => rs.flatten
  let length := (320 + body.length + 63) / 64 * 64
  let ovf := j.logging && s.num (j.logPa + 16) 8 / 2 % 2 == 1
  let flags := (if j.untracked then 1 else 0) + (if j.logging then 2 else 0) + (if j.spanPartner.isSome then 4 else 0) +
    (if j.keySlot = 0 then 0 else 8) + (if update then 16 else 0) + if ovf then 32 else 0
  let dir := directory 320 secs
  [0x5A, 0x4B, 0x43, 0x49, 0x4D, 0x47, 0x01, 0x00] ++ le 4 1 ++ le 4 320 ++ le 8 length ++ le 4 secs.length ++ le 4 flags ++
  le 1 32 ++ le 1 4 ++ le 2 0 ++ le 4 j.windowSize ++ le 8 j.head.toNat ++ le 8 (s.gphase + j.phaseOffset).toNat ++
  Record.zeros 8 ++ dir ++ Record.zeros (256 - dir.length) ++ body ++ Record.zeros (length - 320 - body.length)

end State

end Sys2Proof.Machine
end

