-- ==== Sys2Proof/Machine/Register.lean ====
section
/-!
DEFINITION. The queue context: the fields of R397, a free counter window (R344), and the job that a registration makes (R306).
-/

namespace Sys2Proof.Machine

namespace State

/-- A virtual address recorded in 48 bits. -/
def wideAddress (x : Nat) : Word := (BitVec.ofNat 48 x).signExtend 64

/-- Whether the fields of R397 keep their limits; without the flag of the dirty log its address is ignored. -/
def contextLegal (bs : List Byte) : Bool :=
  let f (off hi lo : Nat) : Nat := field bs off hi lo
  f 16 7 0 == 0 && f 16 63 48 == 0 && decide (f 24 3 0 ≤ 12) && f 24 7 4 == 0 && f 24 15 8 != 0 &&
  decide (1 ≤ f 24 22 16 ∧ f 24 22 16 ≤ 64) && f 24 31 23 == 0 && f 24 63 35 == 0 && f 32 11 0 == 0 && f 32 63 52 == 0 &&
  f 40 63 16 == 0 && f 56 11 0 == 0 && f 56 63 52 == 0 &&
  ((List.range 4).all fun i => f (64 + 8 * i) 7 0 == 0) && f 96 63 8 == 0 && f 104 63 32 == 0 &&
  (f 24 33 33 == 0 || (f 48 11 0 == 0 && f 48 63 52 == 0 && f 48 51 0 != 0))

/-- The lowest free counter window of a size, those of the jobs but `skip` apart (R344). -/
def freeWindow (s : State) (size : Nat) (skip : Option Nat) : Option Nat :=
  ((List.range 192).map (· * 16)).find? fun b =>
    decide (b + size ≤ 3072) &&
    s.jobs.all fun (q, j) => some q == skip || decide (b + size ≤ j.windowBase) || decide (j.windowBase + j.windowSize ≤ b)

/-- The dispatcher of a queue: the least-loaded M-core of die (queue number mod 4) (R306). -/
def chooseDispatcher (s : State) (q : Nat) : Nat :=
  let cores := (List.range 32).map (· + q % 4 * 32)
  cores.foldl (fun b c => if s.load c < s.load b then c else b) (cores.headD 0)

/-- The job of legal fields, with its counter window (R397); its weight clamped by the configuration (R400). -/
def contextJob (s : State) (q : Nat) (bs : List Byte) (windowBase windowSize : Nat) : Job :=
  { control := wideAddress (field bs 16 47 0), logSlots := field bs 24 3 0, weight := Nat.min (field bs 24 15 8) s.bezel.maxWeight
    windowBase, windowSize, untracked := field bs 24 32 32 == 1, logging := field bs 24 33 33 == 1
    spanPartner := if field bs 24 34 34 = 1 then some (field bs 104 31 0) else none
    root := field bs 32 51 0, asn := field bs 40 15 0, logPa := if field bs 24 33 33 = 1 then field bs 48 51 0 else 0, savePa := field bs 56 51 0
    mailboxes := (List.range 4).map fun i => field bs (64 + 8 * i) 63 0
    keySlot := field bs 96 7 0, dispatcher := s.chooseDispatcher q, phases := [(0, {})] }

/-- Whether a key slot may be named by a new queue context: 0, or a Live slot that is not bound (R332, R397). -/
def slotBindable (s : State) (k : Nat) : Bool := k == 0 || ((s.keySlot k).state == .live && (s.keySlot k).bound.isNone)

/-- A key slot bound to a queue context. -/
def bindSlot (s : State) (k q : Nat) : State :=
  if k = 0 then s else { s with keys := AMap.set s.keys k { s.keySlot k with bound := some q } }

/-- The counters of a window zero, as it is given out (R344). -/
def clearWindow (s : State) (base size : Nat) : State :=
  { s with counters := s.counters.filter fun (c, _) => !(decide (base ≤ c) && decide (c < base + size)) }

/-- The registration of a queue context (R397): its number, or the cause of its refusal. -/
def register (s : State) (bs : List Byte) : Except Cause (Nat × State) :=
  let size := 16 * field bs 24 22 16
  if s.spdm.locked then .error .illPriv
  else if s.mgmt.faultQueue.isNone || !contextLegal bs || !s.slotBindable (field bs 96 7 0) then .error .tableArg
  else match AMap.freshBelow s.jobs 128, s.freeWindow size none with
    | some q, some b =>
      let s := (s.clearWindow b size).bindSlot (field bs 96 7 0) q
      .ok (q, { s with jobs := AMap.set s.jobs q (s.contextJob q bs b size) })
    | _, _ => .error .tableFull

end State

end Sys2Proof.Machine
end

