-- ==== Sys2Proof/Machine/Resume.lean ====
section
/-!
DEFINITION. Resume: the checks of an image (R385), its placement (R386) and its restoration (R387, R388).
-/

namespace Sys2Proof.Machine

/-! ### An image read -/

namespace Img

/-- A little-endian number of `n` bytes. -/
def num (im : List Byte) (off n : Nat) : Nat := leNat ((im.drop off).take n)

/-- Bytes of an image. -/
def part (im : List Byte) (off n : Nat) : List Byte := (im.drop off).take n

/-- Whether bytes are zero. -/
def blank (im : List Byte) (off n : Nat) : Bool := (part im off n).all (· == 0)

/-- Directory entries: type, count, offset. -/
def entries (im : List Byte) : List (Nat × Nat × Nat) :=
  (List.range (Nat.min (num im 24 4) 16)).map fun i => (num im (64 + 16 * i) 2, num im (68 + 16 * i) 4, num im (72 + 16 * i) 8)

/-- A section's count and offset. -/
def sect? (im : List Byte) (t : Nat) : Nat × Nat :=
  match (entries im).find? fun e => e.1 == t with | some (_, n, off) => (n, off) | none => (0, 320)

/-- The size of a section's records, 0 where they vary. -/
def recordSize : Nat → Nat
  | 1 => 8 | 2 => 192 | 3 => 4 | 4 => 8192 | 5 => 7040 | 6 => 410976 | 8 => 32 | 9 => 16 | 10 => 40 | 11 => 16 | 13 => 80 | 14 => 8
  | _ => 0

/-- Records whose size their head gives, from an offset on. -/
def varying (im : List Byte) (head at0 : Nat) : (n off : Nat) → List (List Byte)
  | 0, _ => []
  | n + 1, off =>
    let size := head + num im (off + at0) 8
    part im off size :: varying im head at0 n (off + size)

/-- The records of a section. -/
def records (im : List Byte) (t : Nat) : List (List Byte) :=
  let (n, off) := sect? im t
  match t with
  | 7 => varying im 64 0 n off
  | 12 => varying im 16 8 n off
  | _ => (List.range n).map fun i => part im (off + i * recordSize t) (recordSize t)

/-- Whether a list of numbers rises strictly. -/
def rising : List Nat → Bool
  | a :: b :: xs => decide (a < b) && rising (b :: xs)
  | _ => true

/-- Whether a section lies within the image, its records whole. -/
def sectionFits (im : List Byte) (e : Nat × Nat × Nat) : Bool :=
  let (t, n, off) := e
  decide (1 ≤ t ∧ t ≤ 14 ∧ n ≤ im.length ∧ 320 ≤ off) && decide (off + n * recordSize t ≤ im.length) &&
  (records im t).all fun r => match t with
    | 7 => r.length == 64 + num r 0 8
    | 12 => r.length == 16 + num r 8 8
    | _ => r.length == recordSize t

/-- Header and directory (R380). -/
def headerOk (im : List Byte) (buffer : Nat) : Bool :=
  let n := num im 24 4
  let es := entries im
  part im 0 8 == [0x5A, 0x4B, 0x43, 0x49, 0x4D, 0x47, 0x01, 0x00] && num im 12 4 == 320 && num im 16 8 == im.length &&
  im.length % 64 == 0 && decide (320 ≤ im.length ∧ im.length ≤ buffer) && decide (1 ≤ n ∧ n ≤ 16) &&
  decide (num im 28 4 < 64) && decide (1 ≤ num im 32 1 ∧ num im 32 1 ≤ 32 ∧ 1 ≤ num im 33 1 ∧ num im 33 1 ≤ 32) &&
  num im 34 2 == 0 && num im 56 8 == 0 && decide (num im 36 4 % 16 = 0 ∧ 16 ≤ num im 36 4 ∧ num im 36 4 ≤ 1024) &&
  rising (es.map (·.1)) && ((List.range es.length).all fun i => blank im (66 + 16 * i) 2) && blank im (64 + 16 * n) (256 - 16 * n) &&
  es.all (sectionFits im) && (sect? im 1).1 == num im 36 4

/-- A launch of an image: its node, with MAP free for the dispatcher's choice. -/
def node (r : List Byte) : List Byte := part r 0 16 ++ leBytes 8 0xFFF ++ part r 24 104

/-- MAP of a LAUNCH record. -/
def mapOf (r : List Byte) : Nat := num r 16 8

/-- Logical cores of a LAUNCH record. -/
def countOf (r : List Byte) : Nat := num r 8 8 / 256 % 4096

/-- Whether a LAUNCH record is of S-cores. -/
def small (r : List Byte) : Bool := num r 8 1 % 2 == 1

/-- Whether a LAUNCH record is dispatched. -/
def dispatched (r : List Byte) : Bool := num r 140 4 == 1

/-- The dispatched launches, by image index, with where their COREMAP runs begin. -/
def runs (im : List Byte) : List (Nat × List Byte × Nat) :=
  ((records im 2).foldl (fun (acc : List (Nat × List Byte × Nat) × Nat × Nat) r =>
    if dispatched r then (acc.1 ++ [(acc.2.1, r, acc.2.2)], acc.2.1 + 1, acc.2.2 + countOf r) else (acc.1, acc.2.1 + 1, acc.2.2))
    ([], 0, 0)).1

/-- COREMAP entries of a run: source core, state, SCRATCH index. -/
def coremap (im : List Byte) (first n : Nat) : List (Nat × Nat × Nat) :=
  ((records im 3).drop first |>.take n).map fun r => (num r 0 2 % 2048, num r 0 2 / 2048 % 4, num r 2 2)

/-- The lanes of a STRAND record's core. -/
def lanesOf (im r : List Byte) : Nat :=
  match (records im 2)[num r 0 4]? with | some l => if small l then 4 else 32 | none => 32

/-- The lanes of a STRAND record's source core, which its vectors have: MAXL of the header (R380, R382). -/
def sourceLanes (im r : List Byte) : Nat := if lanesOf im r = 32 then num im 32 1 else num im 33 1

/-- Whether a launch index names a launch with a logical core. -/
def names (im : List Byte) (l lc : Nat) : Bool :=
  match (records im 2)[l]? with | some r => decide (lc < countOf r) | none => false

/-- Whether a LAUNCH record is well-formed; `ord` is the ordinal that a dispatched one must name. -/
def launchOk (r : List Byte) (ord : Nat) : Bool :=
  decide (num r 140 4 ≤ 1) && (if dispatched r then mapOf r == ord else mapOf r == 0xFFF) && blank r 144 48

/-- Whether every LAUNCH and COREMAP record is in order. -/
def launchesOk (im : List Byte) : Bool :=
  let ls := records im 2
  ((List.range ls.length).all fun i => launchOk (ls.getD i []) ((ls.take i).filter dispatched).length) &&
  (records im 3).length == ((ls.filter dispatched).map countOf).sum &&
  (records im 3).all fun r => decide (num r 0 2 / 2048 ≤ 2) && decide (num r 2 2 < (sect? im 7).1)

/-- CSTAT.CUFF of a STRAND record. -/
def cuffOf (r : List Byte) : Nat := num r 8 8 / 2 ^ 28 % 4

/-- Whether the kind, CSTAT, EPROG and entry of a STRAND record are in order: of CSTAT only SKIND, CUFF and LOCK, CUFF on S-cores and
LOCK on M-cores alone; the entry a handler table index, a RULE, or all ones (R108, R115, R382). -/
def headOk (im r : List Byte) : Bool :=
  let kind := num r 6 1
  let cstat := num r 8 8
  let lock := cstat / 2 ^ 30 % 2
  let entry := num r 24 4
  decide (kind ≤ 2 ∧ num r 7 1 ≤ 1) && cstat == kind * 16 + cuffOf r * 2 ^ 28 + lock * 2 ^ 30 &&
  (if lanesOf im r = 32 then cuffOf r == 0 else lock == 0) && blank r 18 6 &&
  (match kind with | 0 => entry == 0xFFFFFFFF | 1 => decide (entry < 64) | _ => decide (entry < 16))

/-- Whether the vectors of a STRAND record can be loaded on a core of its kind (R166): its source has no fewer lanes; what its VLEN needs is
looked at with what fits (R385). -/
def vectorsOk (im r : List Byte) : Bool :=
  let m := sourceLanes im r
  decide (lanesOf im r ≤ m) && blank r (544 + 128 * m) (4096 - 128 * m)

/-- Whether a STRAND record is in order (R382), its parts passing the checks of CTXLD. -/
def strandOk (im r : List Byte) : Bool :=
  let lanes := lanesOf im r
  let f := num r 6048 8
  names im (num r 0 4) (num r 4 2) && headOk im r && decide (num r 28 4 ≤ 3) && blank r 32 32 &&
  Record.scalarValid (part r 64 320) && Record.masksShaped (part r 384 160) && Record.queuesValid (lanes == 32) (part r 4640 1408) &&
  vectorsOk im r && decide (f ≤ 7) && decide (f ≤ num r (64 + 288) 8) && blank r (6056 + 144 * f) (1008 - 144 * f) && blank r 7064 1128

/-- Whether part 6 within a MATRIX record is in order. -/
def matrixOk (im r : List Byte) : Bool :=
  let p := part r (64 + 131072) 17440
  decide (num r 0 4 < (sect? im 4).1) && blank r 4 60 && decide (num p 0 8 < 4) && blank p 24 8 &&
  (part p 16 8).all fun b => decide (b.toNat ≤ 5)

/-- Copy contexts of the core of a strand. -/
def contextsOf (im : List Byte) (i : Nat) : Nat :=
  match (records im 4)[i]? with | some r => if lanesOf im r = 32 then 4 else 2 | none => 4

/-- Whether a keep region word of an entry is in order (R326). -/
def keepOk (w : Nat) : Bool :=
  let off := w % 2 ^ 24
  let size := w / 2 ^ 32 % 2 ^ 17
  w / 2 ^ 24 % 256 == 0 && decide (w < 2 ^ 49) && off % 64 == 0 && size % 64 == 0 && decide (size ≤ 65536)

/-- Whether a HANDLER record is in order: a valid entry of R326, its PC within the core's I-store, its regions apart. -/
def handlerOk (im r : List Byte) : Bool :=
  let w := num r 8 8
  let pc := w / 2 ^ 32
  let keep (off : Nat) : List (Nat × Nat) := 
    if num r off 8 / 2 ^ 32 = 0 then [] else [(num r off 8 % 2 ^ 24, num r off 8 / 2 ^ 32)]
  names im (num r 0 4) (num r 4 2) && decide (num r 6 1 < 64) && num r 7 1 == 0 && w / 2 ^ 16 % 2 ^ 16 == 1 && w / 4 % 64 == 0 &&
  w % 4 != 3 && w / 256 % 256 != 255 && pc % 4 == 0 && decide (pc < if lanesOf im r = 32 then 65536 else 131072) &&
  keepOk (num r 16 8) && keepOk (num r 24 8) && !State.keepsMeet (keep 16) (keep 24)

/-- Whether an OWNER record is in order (R334); its launch may have completed (`State.launchIndex`). -/
def ownerOk (im r : List Byte) : Bool :=
  let w := num r 24 8
  let count := w / 2 ^ 16 % 2 ^ 12
  let gone := num r 4 4 == 0xFFFFFFFF
  decide (num r 0 4 ≤ 15) && (gone || names im (num r 4 4) 0) && decide (num r 8 8 < 2 ^ 48) && decide (1 ≤ num r 16 8 ∧ num r 16 8 < 2 ^ 48) &&
  decide (w % 64 ≤ 47) && w / 64 % 2 ^ 10 == 0 && w / 2 ^ 28 % 16 == 0 && decide (w < 2 ^ 43) && decide (1 ≤ count ∧ count ≤ 2048) &&
  (gone || names im (num r 4 4) (w / 2 ^ 32 + count - 1)) && num r 32 8 == 0

/-- Whether a REGION record is in order (R329); its launch may have completed. -/
def regionOk (im r : List Byte) : Bool :=
  decide (num r 0 4 < 4096) && decide (1 ≤ num r 12 4 ∧ num r 12 4 ≤ 2048) &&
  (num r 4 4 == 0xFFFFFFFF || names im (num r 4 4) (num r 8 4 + num r 12 4 - 1))

/-- Whether a SCHED record is in order (R335); the installer's launch is not recorded. -/
def schedOk (r : List Byte) : Bool :=
  decide (num r 0 4 < 4096) && decide (1 ≤ num r 4 4 ∧ num r 4 4 < 16) && (Sched.fault? (r.drop 16) 2048).isNone

/-- Whether the remaining sections are in order. -/
def tablesOk (im : List Byte) : Bool :=
  ((records im 1).all fun r => num r 6 2 == 0) &&
  ((records im 5).all fun r => decide (num r 0 4 < (sect? im 4).1) && blank r 4 60 &&
    Record.timelinesValid (contextsOf im (num r 0 4)) (part r 64 6976)) &&
  ((records im 6).all (matrixOk im)) &&
  ((records im 7).all fun r => num r 0 8 % 1024 == 0 && blank r 16 48 && State.gspillLegal (BitVec.ofNat 64 (num r 8 8)) 1048576 &&
    num r 8 8 / 2 ^ 35 == 0) &&
  ((records im 8).all (handlerOk im)) && ((records im 9).all fun r => names im (num r 0 4) (num r 4 2) && num r 6 2 == 0) &&
  ((records im 10).all (ownerOk im)) && ((records im 11).all (regionOk im)) && ((records im 12).all schedOk) &&
  ((records im 13).all fun r => names im (num r 0 4) (num r 4 2) && decide (1 ≤ num r 6 1 ∧ num r 6 1 ≤ 3) && num r 7 1 == 0 &&
    blank r 72 8)

/-- Whether an image is in order in itself (IMAGE_FORMAT of R385). -/
def formatOk (im : List Byte) (buffer : Nat) : Bool :=
  headerOk im buffer && launchesOk im && (records im 4).all (strandOk im) && tablesOk im

/-- Whether every strand fits the cores of its kind (IMAGE_FIT of R385): VLEN, VREGS and frames. -/
def strandsFit (im : List Byte) : Bool :=
  (records im 4).all fun r =>
    let lanes := lanesOf im r
    Record.grantFits lanes (part r 384 160) && decide (num r 6048 8 < if lanes = 32 then 8 else 4)

end Img

namespace State

/-! ### Placement (R386) -/

/-- A placement in the making: the core of each SCRATCH group, cores used, and how often units were taken. -/
structure Placement where
  groups : AMap Nat := []
  used : List Nat := []
  taken : Nat := 0
  maps : List (List Nat) := []
  deriving DecidableEq, Repr

/-- The cores that a unit of a launch takes: a row, or a leader with its members. -/
def unitCores (small : Bool) (k : Nat) (c : Nat) : List Nat :=
  if small then (List.range k).map (c + ·) else (List.range 8).map (c / 8 * 8 + ·)

/-- The first cores of the free units for a launch, from a die on: no strand, no start, and no engine command that goes on (R199). -/
def freeUnits (s : State) (small : Bool) (cuff die : Nat) : List Nat :=
  let k := 2 ^ cuff
  ((mapUnits small false k die 0 false).map (·.headD 0)).filter fun c =>
    (unitCores small k c).all fun x => s.freeCore x && s.canPass x

/-- A unit for a group: one not used in this placement, else one shared in turn. -/
def pickUnit (units : List Nat) (small : Bool) (k : Nat) (p : Placement) : Option (Nat × Placement) :=
  match units.find? fun c => (unitCores small k c).all fun x => !p.used.contains x with
  | some c => some (c, { p with used := p.used ++ unitCores small k c })
  | none => (units[p.taken % units.length]?).map fun c => (c, { p with taken := p.taken + 1 })

/-- The core of one logical core: its group's, or that of a unit taken for the group or, on M-cores, for its row. -/
def placeCore (units : List Nat) (small pair : Bool) (k : Nat) (lc g : Nat) (map : List Nat) (p : Placement) :
    Option (List Nat × Placement) :=
  let per := if pair then 4 else 8
  let column := if pair then 2 * (lc % 4) else lc % 8
  let put (c : Nat) (p : Placement) : List Nat × Placement := (map ++ [c], { p with groups := AMap.set p.groups g c })
  match AMap.get? p.groups g with
  | some c => some (map ++ [c], p)
  | none =>
    if small then (pickUnit units small k p).map fun (c, p) => put c p
    else if lc % per ≠ 0 then
      some (put (map.getD (lc / per * per) 0 / 8 * 8 + column) p)
    else (pickUnit units small k p).map fun (c, p) => put (c / 8 * 8 + column) p

/-- The map of one dispatched launch; `cuff` is the widest cuff of it. -/
def placeRun (s : State) (die : Nat) (r : List Byte) (cuff : Nat) (entries : List (Nat × Nat × Nat)) (p : Placement) : Option Placement :=
  let small := Img.small r
  let units := s.freeUnits small cuff die
  let out := (List.range entries.length).foldl (fun (acc : Option (List Nat × Placement)) lc =>
    acc.bind fun (map, p) => placeCore units small (Img.num r 8 1 / 2 % 2 == 1) (2 ^ cuff) lc (entries.getD lc (0, 0, 0)).2.2 map p)
    (some ([], p))
  out.map fun (map, p) => { p with maps := p.maps ++ [map] }

/-- A placement of an image's dispatched launches, none where a kind has no free unit: from a die on, shared units in turn from a place on. -/
def placement (s : State) (die turn : Nat) (im : List Byte) : Option Placement :=
  (Img.runs im).foldl (fun acc (i, r, first) =>
    let cuff := ((Img.records im 4).map fun t => if Img.num t 0 4 = i then Img.cuffOf t else 0).foldl Nat.max (Img.num r 8 1 / 4 % 4)
    acc.bind (s.placeRun die r cuff (Img.coremap im first (Img.countOf r)))) (some { taken := turn })

/-- The size of a SCRATCH record's window. -/
def groupSize (im : List Byte) (g : Nat) : Nat := match (Img.records im 7)[g]? with | some r => Img.num r 0 8 | none => 0

/-- The groups of a core in a placement. -/
def groupsOn (p : Placement) (c : Nat) : List Nat := (p.groups.filter fun (_, k) => k == c).map (·.1)

/-- The window of a group on its core: its base after the groups before it. -/
def groupWindow (im : List Byte) (p : Placement) (g : Nat) : Nat × Nat :=
  let c := AMap.getD p.groups g 0
  ((((groupsOn p c).filter (· < g)).map (groupSize im)).sum, groupSize im g)

/-- The core on which a placement puts the logical core that a record names: its launch at 0, its number at 4. -/
def recordCore (im : List Byte) (p : Placement) (r : List Byte) : Nat :=
  match (Img.runs im).findIdx? fun x => x.1 == Img.num r 0 4 with
  | some n => (p.maps.getD n []).getD (Img.num r 4 2) 0
  | none => 0

/-- The copy contexts that the strands of a core hold, by their TIMELINE records. -/
def contextsOn (im : List Byte) (p : Placement) (c : Nat) : List Nat :=
  (Img.records im 5).flatMap fun t =>
    if recordCore im p ((Img.records im 4).getD (Img.num t 0 4) []) = c then (List.range 4).filter fun n => Img.num t 80 8 / 2 ^ n % 2 == 1
    else []

/-- Whether a placement fits its cores: windows, pending starts, slots, and no copy context, handler index or grant entry wanted twice or
beyond the table (R30, R324, R364, R385, R386). -/
def placementFits (im : List Byte) (p : Placement) : Bool :=
  let cores := (p.groups.map (·.2)).eraseDups
  let all := p.maps.flatten
  let on (t c : Nat) : List (List Byte) := (Img.records im t).filter fun r => recordCore im p r == c
  cores.all fun c =>
    decide (((groupsOn p c).map (groupSize im)).sum ≤ if coreKind c = .mcore then 448 * 1024 else 112 * 1024) &&
    decide (all.count c ≤ 16) && decide ((on 4 c).length ≤ slotCount c) && decide (contextsOn im p c).Nodup &&
    decide ((on 8 c).map fun r => Img.num r 6 1).Nodup && decide (((on 9 c).map fun r => Img.num r 8 8).eraseDups.length ≤ 128)

/-- Whether a die's schedule table has room for an image's schedules beside those of other jobs (R324). -/
def schedsFit (s : State) (q : Nat) (im : List Byte) (d : Nat) : Bool :=
  let others := (s.die d).schedules.filter fun (n, _) => n / 4096 != q + 1
  let mine := (Img.records im 12).filter fun r => Img.num r 4 4 / 2 ^ d % 2 == 1
  let bytes : Nat := (others.map fun (_, x, _) => x.length).sum + (mine.map fun r => r.length - 16).sum
  decide (others.length + mine.length ≤ 64) && decide (bytes ≤ 262144)

/-- Whether the tables that the job shares with others have room: core maps, instance counters, the dispatcher's ready pool, and the dies'
schedules (R324, R344, R385). -/
def tablesFit (s : State) (q : Nat) (im : List Byte) (p : Placement) : Bool :=
  let rs := Img.records im 2
  let graphs := ((rs.map fun r => Img.num r 136 4).filter (· != 0xFFFFFFFF)).eraseDups
  let insts := (s.launches.filter fun (_, l) => l.job != q && !l.done).length + (s.graphs.filter fun (_, g) => g.job != q && !g.done).length
  let pool := (s.die (dieOf (s.chooseDispatcher q))).pool.filter fun n => ((s.launch? (some n)).map (·.job)) != some q
  let maps := (s.maps.filter fun (_, m) => m.job != some q).length + p.maps.length
  let nodes := pool.length + (rs.filter fun r => !Img.dispatched r).length
  decide (maps ≤ 256) && decide (insts + rs.length + graphs.length ≤ 1024) && decide (nodes ≤ 256) &&
  (List.range 4).all (s.schedsFit q im)

/-- The placement that a resume takes: the first that fits, of those that begin at each die and share units from each of eight places on
(DESIGN CHOICE: R386 leaves the search to the part; log 43). -/
def fittingPlacement (s : State) (die q : Nat) (im : List Byte) : Option Placement :=
  (List.range 4).findSome? fun d => (List.range 8).findSome? fun turn =>
    (s.placement ((die + d) % 4) turn im).filter fun p => placementFits im p && s.tablesFit q im p

/-! ### The checks of R385 -/

/-- Whether every LAUNCH record is a node of R311, its counters within the recorded window. -/
def nodesOk (s : State) (q : Nat) (j : Job) (im : List Byte) : Bool :=
  (Img.records im 2).all fun r =>
    match s.node? q { j with windowSize := Img.num im 36 4 } 0 (Img.node r) with | .ok _ => true | .error _ => false

/-- The first check that fails, by its cause; `inPlace` is the frozen context that is resumed. -/
def imageFault (s : State) (im : List Byte) (pa buffer die : Nat) (q : Nat) (j : Job) (keySlot : Nat) (inPlace : Bool) : Option Cause :=
  if (s.errorAt 0 pa im.length false false false).isSome || im.isEmpty then some .imageMemory
  else if !Img.formatOk im buffer || !s.nodesOk q j im then some .imageFormat
  else if Img.num im 8 4 ≠ 1 then some .imageLevel
  else if Img.num im 28 4 / 8 % 2 = 1 ∧ !(inPlace && (s.keySlot keySlot).state == .live) then some .imageSeal
  else if !Img.strandsFit im then some .imageFit
  else if (s.freeWindow (Img.num im 36 4) (some q)).isNone then some .imageFit
  else if (s.fittingPlacement die q im).isNone then some .imageFit
  else none

/-! ### Restoration (R387) -/

/-- The launches of an image made again, with the numbers they get in order of their image indices; the node that a record cannot make
is left out. -/
def restoreLaunches (s : State) (q : Nat) (j : Job) (im : List Byte) (p : Placement) : List Nat × State :=
  let rs := Img.records im 2
  (List.range rs.length).foldl (fun (acc : List Nat × State) i =>
    let (ids, s) := acc
    let r := rs.getD i []
    let g := Img.num r 136 4
    match s.node? q j g (Img.node r), s.freeInstance with
    | .ok l, some c =>
      let run := ((rs.take i).filter Img.dispatched).length
      let done := Img.num r 128 4
      let n := s.nextId
      let cores := if Img.dispatched r then p.maps.getD run [] else []
      let first := ((rs.take i).filter Img.dispatched |>.map Img.countOf).sum
      let es := Img.coremap im first l.count
      let shared := cores.any fun c => decide (1 < (groupsOn p c).length)
      let l := { l with
        inst := c, graph := if g = 0xFFFFFFFF then none else some g, unitsDone := done, unitsStarted := Img.num r 132 4
        dispatched := Img.dispatched r, cores
        windows := if shared then es.map fun e => groupWindow im p e.2.2 else []
        states := if Img.dispatched r then es.map (·.2.1) else List.replicate l.count 0
        die := dieOf j.dispatcher }
      let s := { s with
        nextId := n + 1, launches := AMap.set s.launches n l, counters := AMap.set s.counters c { val := BitVec.ofNat 32 done } }
      let s := if l.dispatched then
          let m : CoreMap := { job := some q, smallCores := l.smallCores, pair := l.pair, cuff := l.cuff, cores := l.cores }
          match s.freeMap with
          | some k => { s with maps := AMap.set s.maps k m }
          | none => s
        else
          let d := l.die
          s.setDie d { s.die d with pool := (s.die d).pool ++ [n] }
      (ids ++ [n], s)
    | _, _ => (ids ++ [0], s)) ([], s)

/-- Launches restored in place keep their phases, and whether a LAUNCH instruction placed them (R309): their order in the image is that of the
launches it was made of (R381). -/
def keepPhases (s : State) (ids : List Nat) (old : List (Nat × Launch)) : State :=
  (ids.zip old).foldl (fun s (n, (_, l)) => s.mapLaunch n fun x => { x with phase := l.phase, device := l.device }) s

/-- The graphs that restored launches name; a graph resumed in place keeps its named counter. -/
def restoreGraphs (s : State) (q : Nat) (ids : List Nat) (old : AMap Graph) : State :=
  let gs := (ids.filterMap fun n => (s.launch? (some n)).bind (·.graph)).eraseDups
  gs.foldl (fun s g =>
    let mine := ids.filter fun n => ((s.launch? (some n)).bind (·.graph)) == some g
    match s.freeInstance with
    | some c =>
      let x : Graph := { job := q, phase := ((AMap.get? old g).map (·.phase)).getD 0, counter := (AMap.get? old g).bind (·.counter)
                         inst := c, launches := mine, count := mine.length }
      { s with graphs := AMap.set s.graphs g x, counters := AMap.set s.counters c {}, nextId := Nat.max s.nextId (g + 1) }
    | none => s) s

/-- The launch that installed a schedule, which the image does not record: in place that of the die's entry, under its new number; else
the first launch (DESIGN CHOICE, log 43). -/
def schedLaunch (s : State) (d n : Nat) (ids : List Nat) (old : List (Nat × Launch)) : Option Nat :=
  match (AMap.get? (s.die d).schedules n).bind (·.2) with
  | some l => ((old.findIdx? fun x => x.1 == l).bind fun k => ids[k]?).or ids[0]?
  | none => ids[0]?

/-- Counters, regions, owner rules and schedules (R387 step 1). -/
def restoreTables (s : State) (q : Nat) (j : Job) (im : List Byte) (ids : List Nat) (old : List (Nat × Launch)) : State :=
  let cs := Img.records im 1
  let s := (List.range cs.length).foldl (fun s i =>
    let r := cs.getD i []
    let x : Counter := { val := BitVec.ofNat 32 (Img.num r 0 4), can := BitVec.ofNat 16 (Img.num r 4 2) }
    { s with counters := AMap.set s.counters (j.windowBase + i) x }) s
  let launch (n : Nat) : Option Nat := ids[n]?
  let s := (Img.records im 10).foldl (fun s r => s.mapJob q fun j => { j with
    owners := AMap.set j.owners (Img.num r 0 4)
      { base := Img.num r 8 8, length := Img.num r 16 8, shift := Img.num r 24 1 % 64, count := Img.num r 26 2 % 4096
        first := Img.num r 28 2 % 2048, launch := launch (Img.num r 4 4) } }) s
  let s := (Img.records im 11).foldl (fun s r => s.mapJob q fun j => { j with
    regions := AMap.set j.regions (Img.num r 0 4) (Img.num r 8 4, Img.num r 12 4, launch (Img.num r 4 4)) }) s
  (Img.records im 12).foldl (fun s r => (List.range 4).foldl (fun s d =>
    if Img.num r 4 4 / 2 ^ d % 2 = 1 then
      let n := schedKey (some q) (Img.num r 0 4)
      s.setDie d { s.die d with schedules := AMap.set (s.die d).schedules n (r.drop 16, s.schedLaunch d n ids old) }
    else s) s) s

/-- The core of a logical core of a restored launch. -/
def restoredCore (s : State) (ids : List Nat) (l lc : Nat) : Nat :=
  match ids[l]?.bind fun n => AMap.get? s.launches n with | some x => x.cores.getD lc 0 | none => 0

/-- Handler entries and grants, each handle once in the table of every core concerned (R381); a handle that names a launch by its
counter is bound to the launch that has it now (R297). -/
def restoreHandles (s : State) (q : Nat) (j : Job) (im : List Byte) (ids : List Nat) : State :=
  let s := (Img.records im 8).foldl (fun s r =>
    let c := s.restoredCore ids (Img.num r 0 4) (Img.num r 4 2)
    let w := Img.num r 8 8
    let keep (off : Nat) : List (Nat × Nat) :=
      let x := Img.num r off 8
      if x / 2 ^ 32 % 2 ^ 17 = 0 then [] else [(x % 2 ^ 24, x / 2 ^ 32 % 2 ^ 17)]
    let h : Handler := { q := w % 4, type := w / 2 ^ 8 % 256, pc := BitVec.ofNat 64 (w / 2 ^ 32 % 2 ^ 17), keeps := keep 16 ++ keep 24
                         launch := ids[Img.num r 0 4]?, lcore := Img.num r 4 2, job := some q }
    s.setCore c { s.core c with handlers := AMap.set (s.core c).handlers (Img.num r 6 1) h }) s
  (Img.records im 9).foldl (fun s r =>
    let c := s.restoredCore ids (Img.num r 0 4) (Img.num r 4 2)
    let h := BitVec.ofNat 64 (Img.num r 8 8)
    let s := (s.grant (some q) [c] h).2
    if bits h 18 16 = 0 ∧ bits h 31 20 ≠ 0 then
      match s.launches.find? fun (_, l) => l.job == q && !l.done && l.counter.isSome && l.counter == windowCounter j (bits h 31 20 - 1) with
      | some (n, _) => { s with endpoints := AMap.set s.endpoints (bindingKey q (bits h 31 20) (bits h 47 32)) n }
      | none => s
    else s) s

/-- Scratchpad windows, the split of each core set to what its groups take (R386, R387 step 2). -/
def restoreScratch (s : State) (q : Nat) (im : List Byte) (p : Placement) : State :=
  let cores := (p.groups.map (·.2)).eraseDups
  let s := cores.foldl (fun s c =>
    (s.passCore c (some q)).resplit c (((groupsOn p c).map (groupSize im)).sum / 1024)) s
  let rs := Img.records im 7
  p.groups.foldl (fun s (g, c) =>
    let r := rs.getD g []
    let s := s.store (localCell c (groupWindow im p g).1) (r.drop 64)
    s.setCore c { s.core c with gspill := BitVec.ofNat 64 (Img.num r 8 8) }) s

/-- A STRAND record's strand (R382) of a core of `source` lanes, loaded as parts 1, 3, 2 and 8, then its frames (R387 step 2). -/
def readStrand (source lanes : Nat) (r : List Byte) (u : Strand) : Strand :=
  let u := Record.readScalar (Img.part r 64 320) u
  let u := Record.readMasks lanes (Img.part r 384 160) u
  let u := Record.readVectors source lanes (Img.part r 544 (128 * source)) u
  let u := Record.readQueues u.pc (Img.part r 4640 1408) u
  let f := Img.num r 6048 8
  { u with
    frames := ((List.range f).map fun i => Record.readFrame (Img.part r (6056 + 144 * i) 144)).reverse, wspilled := u.wspilled - f
    entry := Img.num r 24 4 }

/-- The kind of a STRAND record. -/
def strandKind (r : List Byte) : StrandKind := match Img.num r 6 1 with | 0 => .resident | 1 => .handler | _ => .gust

/-- The lowest slot of a core that is free for a strand of a shape: free on both cores for a pair; slot 0 for a cuff, its members and its
own core holding nothing else (R36, R37). -/
def slotFor (s : State) (c : Nat) (pair : Bool) (cuff : Nat) : Option Nat :=
  let free (k i : Nat) : Bool := (s.slotAt k i).status == .free && !(s.slotAt k i).closed
  (List.range (slotCount c)).find? fun i =>
    free c i && (!pair || free (c + 1) i) &&
    (cuff == 0 || (i == 0 && (List.range (2 ^ cuff)).all fun m => (List.range (slotCount (c + m))).all (free (c + m))))

/-- A strand placed again in the lowest free slot of its core, composed or paired as it was, with a new unit; halted until all is
restored. -/
def restoreStrand (s : State) (q : Nat) (ids : List Nat) (im r : List Byte) : Option (Nat × Nat) × State :=
  let l := ids[Img.num r 0 4]?
  let lc := Img.num r 4 2
  let c := s.restoredCore ids (Img.num r 0 4) lc
  let lock := Img.num r 8 8 / 2 ^ 30 % 2 == 1
  match s.slotFor c lock (Img.cuffOf r) with
  | none => (none, s)
  | some i =>
    let kind := strandKind r
    let (n, s) := s.newUnit { job := some q, launch := l, resident := kind == .resident, lcore := lc }
    let x := (s.launch? l).getD { job := q, smallCores := false, pair := false, cuff := 0, count := 0, entry := 0, map := 0
                                  counter := none, inst := 0, args := [], startWaits := [], dataWaits := [] }
    let keeps := match AMap.get? (s.core c).handlers (Img.num r 24 4) with
      | some h => if kind = .handler then h.keeps else []
      | none => []
    let u : Strand := { kind, job := some q, launch := l, home := l, unit := some n, lcore := lc, lcount := x.count, keeps
                        window := s.launchWindow l lc }
    let u := readStrand (Img.sourceLanes im r) (Img.lanesOf im r) r u
    let s := s.placeStrand c i u (if lock then some { start := some u } else none)
    let s := s.setSlotAt c i { s.slotAt c i with status := .halted .freeze, eprog := Img.num r 16 2 }
    let s := if lock then s.joinOdd c i (some q) else s
    let s := if Img.cuffOf r != 0 then s.joinMembers c i (Img.cuffOf r) (some q) else s
    (some (c, i), s)

/-- The strands of an image, in order, with the slots they got. -/
def restoreStrands (s : State) (q : Nat) (ids : List Nat) (im : List Byte) : List (Option (Nat × Nat)) × State :=
  (Img.records im 4).foldl (fun (acc : List (Option (Nat × Nat)) × State) r =>
    let (x, s) := acc.2.restoreStrand q ids im r
    (acc.1 ++ [x], s)) ([], s)

/-- Timelines and matrix state; where a core's matrix state has an owner already, a strand's is parked (R179, R386). -/
def restoreParts (s : State) (im : List Byte) (slots : List (Option (Nat × Nat))) : State :=
  let s := (Img.records im 6).foldl (fun s r =>
    match slots.getD (Img.num r 0 4) none with
    | none => s
    | some (c, i) =>
      let load (s : State) : State :=
        let t : State := { s with cur := (c, 99) }.zeroMatrix c
        let t := t.setCore c { t.core c with owner := some (i, (t.strandAt c i).unit), lastJob := some (t.strandAt c i).job }
        let t := ((t.loadPiece 4 i 0 (Img.part r 64 65536)).loadPiece 5 i 0 (Img.part r 65600 65536))
        let t := (t.loadRecord 6 i (Img.part r 131136 17440)).getD t
        let t := (t.loadPiece 7 i 0 (Img.part r 148576 262144)).loadPiece 9 i 0 (Img.part r 410720 256)
        { t with cur := s.cur }
      match (s.core c).owner with
      | none => load s
      | some (k, unit) =>
        let t := ((load (s.parkMatrix c)).parkMatrix c).unparkMatrix c k
        t.setCore c { t.core c with owner := some (k, unit) }) s
  (Img.records im 5).foldl (fun s r =>
    match slots.getD (Img.num r 0 4) none with
    | none => s
    | some (c, i) =>
      let bs := Img.part r 64 6976
      let t := { s with cur := (c, 99) }.loadTimelines i bs
      let u := t.strandAt c i
      let u := { u with parked := u.parked.map fun (cells, tags, _, _) => (cells, tags, Record.word bs 0, Record.word bs 8) }
      { t.setStrandAt c i u with cur := s.cur }) s

/-- Messages into their target queues ahead of any new arrival (R387 step 3); the sixteenth gust and those after it go to the ring. -/
def restoreMessages (s : State) (q : Nat) (ids : List Nat) (im : List Byte) : State :=
  (Img.records im 13).reverse.foldl (fun s r =>
    let c := s.restoredCore ids (Img.num r 0 4) (Img.num r 4 2)
    let aq := Img.num r 6 1
    let l := ids[Img.num r 0 4]?
    let m : Msg := { header := BitVec.ofNat 64 (Img.num r 8 8), payload := (List.range 7).map fun i => BitVec.ofNat 64 (Img.num r (16 + 8 * i) 8)
                     launch := l, job := some q, home := l.map fun n => (n, Img.num r 4 2) }
    let k := s.core c
    let xs := m :: (k.aq[aq]?.getD [])
    if aq = 3 then s.setCore c { k with aq := k.aq.set 3 (xs.take 16), ring := xs.drop 16 ++ k.ring }
    else s.setCore c { k with aq := k.aq.setIfInBounds aq xs }) s

/-- Pending starts of the logical cores that had not started (R387 step 4); which are early consumers is settled afresh (R43). -/
def restoreStarts (s : State) (ids : List Nat) : State :=
  ids.foldl (fun s n => match AMap.get? s.launches n with
    | some l => if !l.dispatched then s
      else
        let l := { l with early := s.earlyConsumer l }
        let s := s.mapLaunch n fun _ => l
        l.cores.eraseDups.foldl (fun s c =>
        let k := s.core c
        s.setCore c { k with starts := k.starts ++ s.galeStarts n l c }) s
    | none => s) s

/-- Dirty log entries carried by the image, appended to the job's log; OVF with them (R220). -/
def restoreDirty (s : State) (j : Job) (im : List Byte) : State :=
  if !j.logging then s
  else
    let s := (Img.records im 14).foldl (fun s r =>
      let head := s.num j.logPa 8
      let size := 2 ^ (s.num (j.logPa + 16) 8 / 4 % 64)
      (s.physStore (j.logPa + 64 + 8 * (head % size)) r 0).physStore j.logPa (leBytes 8 (head + 1)) 0) s
    if Img.num im 28 4 / 32 % 2 = 1 then
      let ctl := s.num (j.logPa + 16) 8
      if ctl / 2 % 2 = 1 then s else s.physStore (j.logPa + 16) (leBytes 8 (ctl + 2)) 0
    else s

/-- The restored strands released, their engines with them; a physical row that several logical rows share belongs to the one whose
session is open (R179, R387 step 5). -/
def releaseStrands (s : State) (slots : List (Option (Nat × Nat))) : State :=
  let xs := slots.filterMap id
  let s := xs.foldl (fun s (c, i) =>
    let t := s.strandAt c i
    let s := if t.session && t.window.isSome then
        s.setCore c { s.core c with rowHolder := some (t.launch.getD 0, t.lcore / 8) }
      else s
    s.resumeEngines c i) s
  xs.foldl (fun s (c, i) => s.setSlotAt c i { s.slotAt c i with status := .ready }) s.dropCleanUntracked

/-- A checked image restored under a queue number, with the fields of its context block (R387, R388); none where a strand finds no slot of
its shape. What the job wrote to untracked memory before is older than all that its strands write now (R256, R259). -/
def restoreJob (s : State) (q : Nat) (bs im : List Byte) (p : Placement) (inPlace : Bool) : Option State :=
  let old := AMap.get? s.jobs q
  let size := Img.num im 36 4
  let base := match old with
    | some j => if j.windowSize = size then j.windowBase else (s.freeWindow size (some q)).getD 0
    | none => (s.freeWindow size (some q)).getD 0
  let graphs := s.graphs
  let launches := s.imageLaunches q
  let s : State := { s with
    stamps := s.stamps.filter fun (_, _, j) => j != some q
    launches := s.launches.filter fun (_, l) => l.job != q
    graphs := s.graphs.filter fun (_, g) => g.job != q
    maps := s.maps.filter fun (_, m) => m.job != some q
    units := s.units.filter fun (_, t) => t.job != some q }
  let j : Job := { s.contextJob q bs base size with
    untracked := Img.num im 28 4 % 2 == 1, head := BitVec.ofNat 64 (Img.num im 40 8), tailRead := BitVec.ofNat 64 (Img.num im 40 8)
    phaseOffset :=
      let g := BitVec.ofNat 64 (Img.num im 48 8)
      if s.gphase.ult g then g - s.gphase else 0
    mailboxTail := match old with | some x => if inPlace then x.mailboxTail else [] | none => [] }
  let j : Job := match old with
    | some x => if inPlace then { j with hold := x.hold, phase := x.phase, phases := x.phases, inst := x.inst } else j
    | none => j
  let s := (s.clearWindow base size).bindSlot j.keySlot q
  let s := { s with jobs := AMap.set s.jobs q j }
  let (ids, s) := s.restoreLaunches q j im p
  let s := if inPlace then s.keepPhases ids launches else s
  let s := (s.restoreGraphs q ids graphs).restoreTables q j im ids launches
  let s := (s.restoreScratch q im p).restoreHandles q j im ids
  let (slots, s) := s.restoreStrands q ids im
  if slots.any (·.isNone) then none
  else
    let s := (s.restoreParts im slots).restoreMessages q ids im
    let s := if inPlace then s else s.restoreDirty j im
    some (((s.restoreStarts ids).releaseStrands slots).resendBounced (· == some q))

end State

end Sys2Proof.Machine
end

