-- ==== Sys2Proof/Machine/Management.lean ====
section
/-!
DEFINITION. The management ring and its requests (R395 to R397, R408): registration, teardown, freeze and drain (R377 to R379),
resume (R384), the fault queue (R217), Span regions and joins (R419), firmware update (R389), and the sideband registers (R395, R398).
-/

namespace Sys2Proof.Machine

namespace State

/-! ### The ring (R395) -/

/-- Where the request at HEAD lies. -/
def mgmtSlot (s : State) (n : Nat) : Nat := s.mgmt.base.toNat + 256 + 128 * ((s.mgmt.head.toNat + n) % 64)

/-- The request `n` places after HEAD, if it has been submitted. -/
def requestAt (s : State) (n : Nat) : Option (List Byte) :=
  if s.mgmt.base = 0 then none
  else if n < (BitVec.ofNat 64 (s.num s.mgmt.base.toNat 8) - s.mgmt.head).toNat then some (s.bytes (s.mgmtSlot n) 128)
  else none

/-- The request at HEAD. -/
def request (s : State) : Option (List Byte) := s.requestAt 0

/-- The operation of a request: its first word, of which bits [63:8] are zero. -/
def opOf (bs : List Byte) : Nat := field bs 0 63 0

/-- The queue that a request names. -/
def queueOf (bs : List Byte) : Nat := field bs 8 6 0

/-- The result of the request at HEAD: status, cause, value; HEAD goes on. -/
def answerRequest (s : State) (status cause value : Nat) : State :=
  let s := s.physStore (s.mgmtSlot 0 + 120) (leBytes 8 (status + cause * 2 ^ 8 + value % 2 ^ 32 * 2 ^ 16)) 0
  let s : State := { s with mgmt := { s.mgmt with head := s.mgmt.head + 1, busy := false } }
  s.physStore (s.mgmt.base.toNat + 128) (leBytes 8 s.mgmt.head.toNat) 0

/-- A request done. -/
def requestDone (s : State) : State := s.answerRequest 0 0 0
/-- A request refused with a cause. -/
def refuseRequest (s : State) (c : Cause) : State := s.answerRequest 1 c.code 0

/-- The request at HEAD served, if it is of an operation; requests are served in ring order, one at a time (R395), by firmware that the ROM
has released (R398). -/
def serveRequest (s : State) (op : Nat) (f : List Byte → State → State) : State :=
  match s.request with
  | some bs => if s.bezel.released && opOf bs == op then f bs s else s
  | none => s

/-- The event that serves the request at HEAD. -/
def requestEvent (s : State) : Option Instr :=
  s.request.map fun bs => match opOf bs with
    | 1 => .register | 2 => .teardown | 3 => .freeze | 4 => .resume | 5 => .spanRegion | 6 => .fwUpdate | 7 => .spanJoin | 8 => .faultq
    | _ => .unknownManagementOp

/-! ### Freeze (R377 to R379) -/

/-- A 16-byte result record (R377). -/
def writeResult (s : State) (a status cause length : Nat) : State :=
  s.physStore a (leBytes 8 (status + cause * 2 ^ 8) ++ leBytes 8 length) 0

/-- Ready-pool nodes and pending starts of a job withdrawn (R378 step 2). -/
def withdrawWork (s : State) (q : Nat) : State :=
  let mine (n : Nat) : Bool := ((s.launch? (some n)).map (·.job)) == some q
  { s with
    dies := s.dies.map fun (d, k) => (d, { k with pool := k.pool.filter fun n => !mine n })
    cores := s.cores.map fun (c, k) => (c, { k with starts := k.starts.filter fun t => !mine t.launch }) }

/-- The start of a freeze (R378 steps 1 and 2): no further command is accepted, every strand is told to halt, nodes and pending starts
are withdrawn. -/
def beginFreeze (s : State) (q : Nat) (place : Nat × Nat × Nat) : State :=
  let s := (s.mapJob q fun j => { j with frozen := true, image := some place, drained := [] }).withdrawWork q
  s.occupied.foldl (fun s (c, i) =>
    if (s.strandAt c i).job != some q then s
    else match (s.slotAt c i).status with
      | .halted _ => s
      | _ => s.latch c i { cause := .freeze }) s

/-- Nodes and pending starts of a job put back (R43). -/
def rebuildWork (s : State) (q : Nat) : State :=
  let ids := (s.launches.filter fun (_, l) => l.job == q && !l.done && !l.cancelled).map (·.1)
  let s := ids.foldl (fun s n => match AMap.get? s.launches n with
    | some l => if l.dispatched then s else s.setDie l.die { s.die l.die with pool := (s.die l.die).pool ++ [n] }
    | none => s) s
  s.restoreStarts ids

/-- Drained messages back in their queues, ahead of new arrivals. -/
def returnMessages (s : State) (xs : List (Nat × Nat × Msg)) : State :=
  xs.reverse.foldl (fun s (c, aq, m) =>
    let k := s.core c
    let ys := m :: (k.aq[aq]?.getD [])
    if aq = 3 then s.setCore c { k with aq := k.aq.set 3 (ys.take 16), ring := ys.drop 16 ++ k.ring }
    else s.setCore c { k with aq := k.aq.setIfInBounds aq ys }) s

/-- A strand that the freeze halted goes on; a fault record that was withdrawn is forgotten, and its instruction is made anew as a
first fault (R216, R387 step 5). -/
def thawSlot (s : State) (c i : Nat) : State :=
  let x := s.slotAt c i
  let x := { x with latched := x.latched.filter fun l => l.cause != Cause.freeze }
  match x.status with
  | .halted .freeze =>
    (s.setSlotAt c i { x with status := .ready, fault := none, u := { x.u with hprio := 0, lastFault := none } }).resumeEngines c i
  | _ => s.setSlotAt c i x

/-- A job resumed in place after a freeze that wrote nothing (R377). -/
def thaw (s : State) (q : Nat) : State :=
  match AMap.get? s.jobs q with
  | none => s
  | some j =>
    let s := (s.mapJob q fun j => { j with frozen := false, image := none, drained := [] }).returnMessages j.drained
    let mine := s.occupied.filter fun (c, i) => (s.strandAt c i).job == some q
    let s := mine.foldl (fun s (c, i) => s.thawSlot c i) s
    let s := if j.untracked then
        mine.foldl (fun s (c, _) => s.joinMinimum c (some q)) s
      else s
    (s.rebuildWork q).resendBounced (· == some q)

/-- Whether a core still works for a job: its matrix unit, a walk, or a copy that must end before the pause (R318, R373). -/
def coreWorks (q : Nat) (k : Core) : Bool :=
  (k.job == some q && (!k.matrix.isEmpty || !k.stages.isEmpty)) || (k.walks.any fun w => w.job == some q) ||
  k.copies.toList.any fun x => x.cmds.any fun d => d.job == some q && !d.finished && (!x.pausing || (d.started && !d.paused))

/-- Whether the units, launches and graphs of a job that have come to their ends have all been counted, so that an image counts them (R26,
R381). -/
def endsCounted (s : State) (q : Nat) : Bool :=
  (s.units.all fun (_, t) => t.job != some q || !t.ended || t.outstanding != 0) && (s.launches.all fun (n, l) => l.job != q || !s.launchDue n l) &&
  s.graphs.all fun (_, g) => g.job != q || !s.graphDue g

/-- Whether nothing of a job is on its way and every strand of it is halted (R379). -/
def drainDone (s : State) (q : Nat) : Bool :=
  s.endsCounted q &&
  (s.occupied.all fun (c, i) => (s.strandAt c i).job != some q ||
    match (s.slotAt c i).status with | .halted _ => true | _ => false) &&
  (s.net.all fun f => f.queue == 0 || f.msg.job != some q) && (s.landings.all fun l => (s.strandAt l.core l.slot).job != some q) &&
  (s.cores.all fun (_, k) => !coreWorks q k)

/-- Arrivals of a job on AQ1 to AQ3 and in the spill rings taken into its message records, oldest first for each queue (R379). -/
def collectMessages (s : State) (q : Nat) : State :=
  let mine (m : Msg) : Bool := m.job == some q
  let found := s.cores.flatMap fun (c, k) =>
    (((List.range 3).flatMap fun n => ((k.aq[n + 1]?.getD []).filter mine).map fun m => (c, n + 1, m)) ++
      (k.ring.filter mine).map fun m => (c, 3, m))
  let s : State := { s with cores := s.cores.map fun (c, k) => (c, { k with
    aq := Vector.ofFn fun n => if n.val = 0 then k.aq[n] else k.aq[n].filter fun m => !mine m
    ring := k.ring.filter fun m => !mine m }) }
  s.mapJob q fun j => { j with drained := found ++ j.drained }

/-- The cores of a job: those that it has, and those that hold strands of it. -/
def coresOf (s : State) (q : Nat) : List Nat :=
  ((s.cores.filter fun (_, k) => k.job == some q).map (·.1) ++
    (s.occupied.filter fun (c, i) => (s.strandAt c i).job == some q).map (·.1)).eraseDups

/-- Every core of a job performs steps 1 to 3 of PHADV and leaves the minimum (R378 step 5). -/
def publishAll (s : State) (q : Nat) : State :=
  (s.coresOf q).foldl (fun s c =>
    let s := (s.flushUntracked c fun _ => true).dropUntracked c fun _ => true
    s.setCore c { s.core c with active := false }) s

/-- Shares that wait in the save area put back, in thought, so that the image holds their strands. -/
def withShares (s : State) (q : Nat) : State :=
  match AMap.get? s.jobs q with
  | some j => j.shares.foldl (fun s (c, _) => s.restoreShare c q) s
  | none => s

/-- A slot whose strand the image holds is free; its unit has not ended, and its core's matrix state has no owner. -/
def dropSlot (s : State) (c i : Nat) : State :=
  let x := s.slotAt c i
  let members := if x.u.cuff = 0 then [] else (List.range (2 ^ x.u.cuff)).map (c + ·)
  let s := members.foldl (fun s m =>
    s.setCore m { s.core m with slots := (s.core m).slots.each fun y => { y with closed := false } }) s
  let s := if x.pair.isSome then s.setSlotAt (c + 1) i { s.slotAt (c + 1) i with closed := false } else s
  let k := s.core c
  let mine := some (i, x.u.unit)
  let s := s.setCore c { k with
    owner := if k.owner == mine then none else k.owner
    copies := k.copies.each fun y => if y.owner == mine then {} else y }
  s.setSlotAt c i { s.slotAt c i with
    status := .free, mode := false, ie := true, nest := false, service := none, fault := none, pre := none, pair := none, latched := []
    step := false, u := {} }

/-- The cores of a frozen job released; its tables and counter window stay (R378 step 7). -/
def releaseCores (s : State) (q : Nat) : State :=
  let cores := s.coresOf q
  let mine := s.occupied.filter fun (c, i) => (s.strandAt c i).job == some q
  let s := mine.foldl (fun s (c, i) => s.dropSlot c i) s
  let s := cores.foldl (fun s c => s.chargeMeter c) s
  ({ s with units := s.units.filter fun (_, t) => t.job != some q }.mapJob q fun j => { j with drained := [] }).dropShares q

/-- Whether FREEZE's request at HEAD is of a queue. -/
def freezing (s : State) (q : Nat) : Bool :=
  s.mgmt.busy && match s.request with | some bs => opOf bs == 3 && queueOf bs == q | none => false

/-- Whether some strand of a job has frames that cannot all be saved (R133). -/
def unsavable (s : State) (q : Nat) : Bool :=
  s.occupied.any fun (c, i) => (s.strandAt c i).job == some q && !framesSavable (s.strandAt c i)

/-- The end of a drain (R378 steps 5 to 7): the image written; or, in too small a buffer or with a strand that cannot be saved (R133), the
job resumed in place. -/
def finishFreeze (s : State) (q : Nat) (place : Nat × Nat × Nat) : State :=
  let s := (s.collectMessages q).publishAll q
  let t := (s.withShares q).collectMessages q
  match AMap.get? t.jobs q with
  | none => s
  | some j =>
    let im := t.image q j s.mgmt.updating
    let (buf, room, res) := place
    if t.unsavable q then
      if s.mgmt.updating then s.thaw q
      else ((s.writeResult res 3 Cause.ctxState.code 0).thaw q).refuseRequest .ctxState
    else if s.mgmt.updating then
      let a := s.mgmt.area
      let s := (s.physStore a im j.keySlot).releaseCores q
      let s := s.mapJob q fun j => { j with image := none }
      { s with mgmt := { s.mgmt with area := a + im.length, images := s.mgmt.images ++ [(q, a, im.length)] } }
    else if room < im.length then
      ((s.writeResult res 1 0 im.length).thaw q).requestDone
    else
      let s := ((s.physStore buf im j.keySlot).writeResult res 0 0 im.length).releaseCores q
      (s.mapJob q fun j => { j with image := none }).requestDone

/-! ### Teardown -/

/-- A frozen job's units, launches and graphs are over: nothing of it is on a core. -/
def dissolve (s : State) (q : Nat) : State :=
  ({ s with
    units := s.units.filter fun (_, t) => t.job != some q
    launches := endLaunches s.launches
    graphs := endGraphs s.graphs }.mapJob q fun j => { j with frozen := false, phases := endPhases j.phases }).dropShares q
where
  /-- The job's launches done. -/
  endLaunches (m : AMap Launch) : AMap Launch := m.map fun (n, l) => (n, if l.job = q then { l with done := true } else l)
  /-- The job's graphs done. -/
  endGraphs (m : AMap Graph) : AMap Graph := m.map fun (n, g) => (n, if g.job = q then { g with done := true } else g)
  /-- Its phases done. -/
  endPhases (m : AMap Phase) : AMap Phase := m.map fun (n, p) => (n, { p with closed := true, done := true })

/-- A teardown begun: a frozen job is over at once, any other is cancelled at level 5. -/
def beginTeardown (s : State) (q : Nat) : State :=
  let frozen := match AMap.get? s.jobs q with | some j => j.frozen | none => false
  let s := s.mapJob q fun j => { j with tearing := true }
  let s := if frozen then s.dissolve q else s.cancelJob q
  { s with mgmt := { s.mgmt with busy := true } }

/-- A teardown's progress: done once nothing of the job is left. -/
def settleTeardown (s : State) (q : Nat) : State :=
  let s := s.completeJob q
  if (AMap.get? s.jobs q).isSome then s
  else { s with mgmt := { s.mgmt with torn := q :: s.mgmt.torn.filter (· != q) } }.requestDone

/-- A freeze in progress gives way to the teardown that follows it in the ring: its record gets status 2 (R390). -/
def yieldFreeze (s : State) : State :=
  match s.request, s.requestAt 1 with
  | some bs, some next =>
    if s.freezing (queueOf bs) && opOf next == 2 && queueOf next == queueOf bs then
      ((s.writeResult (field bs 32 63 0) 2 0 0).thaw (queueOf bs)).requestDone
    else s
  | _, _ => s

end State

/-- REGISTER: creates a resident queue and its job (R397). -/
def execRegister (s : State) : Out :=
  .next (s.serveRequest 1 fun bs s =>
    match s.register bs with
    | .error c => s.refuseRequest c
    | .ok (q, s) => { s with mgmt := { s.mgmt with torn := s.mgmt.torn.filter (· != q) } }.answerRequest 0 0 q)

/-- TEARDOWN: cancels the job at level 5; served again as units complete, it ends when nothing is left (R396). -/
def execTeardown (s : State) : Out :=
  .next (s.yieldFreeze.serveRequest 2 fun bs s =>
    let q := State.queueOf bs
    if s.mgmt.busy then s.settleTeardown q
    else if (AMap.get? s.jobs q).isNone then s.refuseRequest .launchArg
    else (s.beginTeardown q).settleTeardown q)

/-- FREEZE: begins the freeze of a job (R377, R378). -/
def execFreeze (s : State) : Out :=
  .next (s.serveRequest 3 fun bs s =>
    let q := State.queueOf bs
    let res := State.field bs 32 63 0
    if s.mgmt.busy then s
    else match AMap.get? s.jobs q with
      | none => if s.mgmt.torn.contains q then (s.writeResult res 2 0 0).requestDone else s.refuseRequest .launchArg
      | some j =>
        if j.frozen then (s.writeResult res 3 Cause.imageFormat.code 0).refuseRequest .imageFormat
        else
          let s : State := { s with mgmt := { s.mgmt with busy := true } }
          s.beginFreeze q (State.field bs 16 63 0, State.field bs 24 63 0, res))

/-- DRAIN_COMPLETE (queue): the counts of a freezing job's messages are zero and its strands are halted; the image is written
(R379). -/
def execDrainComplete (s : State) : Out :=
  .next (match (AMap.get? s.jobs s.ev.queue).bind (·.image) with
    | some place => if s.drainDone s.ev.queue then s.finishFreeze s.ev.queue place else s
    | none => s)

namespace State

/-! ### Resume (R384, R385) -/

/-- The bytes of an image in a buffer, as its queue's key slot opens them: as many as its header says, where they lie in the buffer. -/
def readImage (s : State) (pa buffer slot : Nat) : List Byte :=
  let n := leNat (s.physBytes (pa + 16) 8 slot)
  s.physBytes pa (if n ≤ buffer then n else 320) slot

/-- Whether a sealed image in a buffer can be opened: its slot is Live, under the key that sealed it. -/
def openable (s : State) (pa slot : Nat) : Bool := (s.keySlot slot).state == .live && s.sealOf pa == s.keyOf slot

/-- Whether a context block is in order (R396). -/
def blockLegal (bs : List Byte) : Bool := zeroBytes bs 0 16 && zeroBytes bs 112 128 && contextLegal bs

/-- Whether a queue is registered and holds nothing, so that an image can be restored under it. -/
def queueFresh (s : State) (q : Nat) (j : Job) : Bool :=
  s.queueIdle q j && (s.launches.all fun (_, l) => l.job != q || l.done) && (s.graphs.all fun (_, g) => g.job != q || g.done)

/-- The refusal of an image for a queue, or none: the key slot of its context block, then the checks of R385. -/
def resumeFault (s : State) (q : Nat) (j : Job) (blk im : List Byte) (pa buffer : Nat) : Option Cause :=
  let slot := if j.frozen then j.keySlot else 0
  let named := field blk 96 7 0
  let die := dieOf (s.chooseDispatcher q)
  if !blockLegal blk then some .tableArg
  else if s.hostError 0 pa false false false then some .imageMemory
  else if slot != 0 && !s.openable pa slot then (if named = slot then some .imageSeal else some .tableArg)
  else
    let isSealed := Img.num im 28 4 / 8 % 2 == 1
    if (isSealed && named != slot) || (!isSealed && named != 0) then some .tableArg
    else s.imageFault im pa buffer die q j slot (j.frozen && slot != 0)

/-- An image restored under a queue, or the cause of its refusal, which changes nothing: a strand for which no slot of its shape is free
makes it IMAGE_FIT (R384), and so does a queue that is not frozen and has work of its own (DESIGN CHOICE: R396 names no cause for it; log
43). -/
def resumeImage (s : State) (q : Nat) (blk : List Byte) (pa buffer : Nat) : Except Cause State :=
  match AMap.get? s.jobs q with
  | none => .error .launchArg
  | some j =>
    let im := s.readImage pa buffer (if j.frozen then j.keySlot else 0)
    match s.resumeFault q j blk im pa buffer, s.fittingPlacement (dieOf (s.chooseDispatcher q)) q im with
    | some c, _ => .error c
    | none, none => .error .imageFit
    | none, some p => if !j.frozen && !s.queueFresh q j then .error .imageFit else match s.restoreJob q blk im p j.frozen with
      | some s => .ok s
      | none => .error .imageFit

end State

/-- RESUME: checks an image and restores it under a queue: the frozen one in place, or one that holds nothing (R384 to R387). -/
def execResume (s : State) : Out :=
  .next (s.serveRequest 4 fun bs s =>
    let q := State.queueOf bs
    let res := State.field bs 32 63 0
    match AMap.get? s.jobs q with
    | none => s.refuseRequest .launchArg
    | some _ =>
      match s.resumeImage q (s.bytes (State.field bs 40 63 0) 128) (State.field bs 16 63 0) (State.field bs 24 63 0) with
        | .error c => (s.writeResult res 3 c.code 0).refuseRequest c
        | .ok s => (s.writeResult res 0 0 (State.field (s.bytes (State.field bs 16 63 0 + 16) 8) 0 63 0)).requestDone)

namespace State

/-- The pages of a region, by virtual page number. -/
def regionPages (first n : Nat) (remote : Bool) : AMap SpanPage :=
  (List.range n).map fun i => (first + i, { state := if remote then 2 else 0, home := !remote })

end State

/-- SPAN_REGION (flag: the other box has declared the region, amount: with this length; flag2: the pages begin Remote here): declares a
Span region (R281, R419). -/
def execSpanRegion (s : State) : Out :=
  .next (s.serveRequest 5 fun bs s =>
    let base := State.field bs 16 47 0
    let n := State.field bs 24 63 0
    if s.spdm.locked then s.refuseRequest .illPriv
    else if !s.spanReady then s.refuseRequest .spanDown
    else if base % 4096 ≠ 0 ∨ !s.ev.flag ∨ s.ev.amount ≠ n then s.refuseRequest .tableArg
    else
      let pages := (State.regionPages (base / 4096) n s.ev.flag2).foldl (fun m (k, p) => AMap.set m k p) s.span.pages
      { s with span := { s.span with
        regions := AMap.set s.span.regions (State.field bs 32 63 0) (base / 4096, n), pages } }.requestDone)

/-- FW_UPDATE: every core is told, and every resident queue is frozen into the update area (R389). -/
def execFwUpdate (s : State) : Out :=
  .next (s.serveRequest 6 fun bs s =>
    if s.mgmt.busy then s
    else if s.spdm.locked then s.refuseRequest .illPriv
    else
      let s : State := { s with mgmt := { s.mgmt with
        busy := true, updating := true, images := [], area := State.field bs 24 63 0, bootPa := BitVec.ofNat 64 (State.field bs 16 63 0) } }
      let s := s.reportingCores.foldl (fun s c => s.latchCore c { cause := .fwUpdate }) s
      (s.jobs.filter fun (_, j) => !j.frozen && !j.tearing).foldl (fun s (q, _) => s.beginFreeze q (0, 0, 0)) s)

/-- SPAN_JOIN (flag: both Bezels have authenticated each other): the link key is derived and the boxes are joined (R419). -/
def execSpanJoin (s : State) : Out :=
  .next (s.serveRequest 7 fun _ s =>
    if s.spdm.locked then s.refuseRequest .illPriv
    else if s.span.joined || !s.bezel.spanEnable || !s.ev.flag then s.refuseRequest .spanDown
    else { s with span := { s.span with
      joined := true, up := true, acked := 0, expect := 0, replays := 0, seq := 0, unacked := [], sealed := 0
      joins := s.span.joins + 1 } }.requestDone)

/-- FAULTQ: registers the device fault queue while no queue is resident (R217). -/
def execFaultq (s : State) : Out :=
  .next (s.serveRequest 8 fun bs s =>
    let a := State.field bs 16 63 0
    let n := State.field bs 24 63 0
    if !s.jobs.isEmpty || decide (a % 4096 ≠ 0) || decide (2 ^ 52 ≤ a) || decide (10 < n) then s.refuseRequest .tableArg
    else { s with mgmt := { s.mgmt with faultQueue := some (a, n + 6) } }.requestDone)

/-- UNKNOWN_MANAGEMENT_OP: a request of an unassigned operation is refused with ILL_FUNCTION (R396). -/
def execUnknownManagementOp (s : State) : Out :=
  .next (match s.request with
    | some bs => if !s.bezel.released ∨ (1 ≤ State.opOf bs ∧ State.opOf bs ≤ 8) then s else s.refuseRequest .illFunction
    | none => s)

/-- SIDEBAND_REGISTER_WRITE (kind: 0 MGMT_BASE, 1 BOOT_PA; word): ignored while the interface is locked (R395, R398, R408). -/
def execSidebandRegisterWrite (s : State) : Out :=
  .next (if s.spdm.locked then s
    else match s.ev.kind with
      | 0 => { s with mgmt := { s.mgmt with base := s.ev.word, head := 0, busy := false } }
      | 1 => { s with mgmt := { s.mgmt with bootPa := s.ev.word } }
      | _ => s)

end Sys2Proof.Machine
end

