-- ==== Sys2Proof/Machine/Power.lean ====
section
/-!
DEFINITION. Boot and measurement (R398 to R400), reset, power and thermal states (R413 to R416), the alarm (R409, R410), and the new
firmware's resumption of what an update froze (R389).
-/

namespace Sys2Proof.Machine

namespace State

/-! ### What outlives the part's power (R414) -/

/-- Platform memory as the host holds it. -/
def platform (s : State) : List Host.Cell := s.mem.filter fun (a, _) => isPhysical a

/-- The part without power: what the host holds stays, with the monotonic counter and the sideband's BOOT_PA; every key is gone, so
sealed lines stay sealed under keys that no slot has again. -/
def cold (s : State) : State :=
  { mem := s.platform, seals := s.seals, keysDrawn := s.keysDrawn, holes := s.holes, nextId := s.nextId, ev := s.ev, agenda := s.agenda
    steps := s.steps, drawn := s.drawn, native := s.native
    bezel := { counter := s.bezel.counter, boots := s.bezel.boots }
    mgmt := { bootPa := s.mgmt.bootPa } }

/-! ### Boot (R398 to R400) -/

/-- The bytes of meas3's extend: security version and debug policy (R399). -/
def policyBytes (b : Boot) : List Byte := leBytes 4 b.version ++ leBytes 1 b.debugPolicy ++ leBytes 3 0

/-- A measurement register after one extend from zero (R336). -/
def measured (bs : List Byte) : List Byte := Sha384.digest (List.replicate 48 0 ++ bs)

/-- Whether the fields of the configuration blob are in range (R400). -/
def blobLegal (b : Boot) : Bool :=
  decide (120 ≤ b.powerLimit ∧ b.powerLimit ≤ 195) && decide (1 ≤ b.maxWeight ∧ b.maxWeight ≤ 255) && b.homeHashAgreed

/-- The boot status of a check that fails: 2 a signature or the blob, 3 the version; none where all pass (R398). -/
def bootFault (counter : Nat) (b : Boot) : Option Nat :=
  if !b.signaturesVerify || !blobLegal b then some 2 else if b.version < counter then some 3 else none

/-- The firmware image loaded into every I-store from its first byte on, as much as it holds (R124, R398; that offset, and that each takes
the same image, are a DESIGN CHOICE, log 19). -/
def loadFirmware (s : State) (firmware : List Byte) : State :=
  (List.range 193).foldl (fun s u => s.store (istoreCell u 0) (firmware.take (if u < 128 then 65536 else 131072))) s

/-- The ROM's boot: the firmware loaded, measurement registers extended and the first four locked, the configuration in force, the cores
released; or the status of the check that fails, with the cores held. -/
def boot (s : State) (b : Boot) : State :=
  let s := s.withBezel fun z => { z with boots := z.boots + 1 }
  match bootFault s.bezel.counter b with
  | some n => { s with mgmt := { s.mgmt with bootStatus := n } }
  | none => (s.loadFirmware b.firmware).withBezel fun z => { z with
      meas := Vector.ofFn fun i => match i.val with
        | 0 => measured b.identity | 1 => measured b.firmware | 2 => measured b.blob | 3 => measured (policyBytes b)
        | _ => List.replicate 48 0
      locked := true, released := true, counter := Nat.max z.counter b.version, powerLimit := b.powerLimit, maxWeight := b.maxWeight
      spanEnable := b.spanEnable, debugPolicy := b.debugPolicy }

/-! ### Reset, and the end of a firmware update (R389, R413) -/

/-- Whether an update has frozen every resident queue context. -/
def updateReady (s : State) : Bool := s.mgmt.updating && s.jobs.all fun (_, j) => j.image.isNone || !j.frozen

/-- The part as a reset in a firmware update leaves it: frozen queue contexts, their windows and the key slots stay with what a reset
keeps (R383). -/
def updated (s : State) : State :=
  { s.cold with
    jobs := s.jobs, launches := s.launches, graphs := s.graphs, counters := s.counters, keys := s.keys, ranges := s.ranges
    generations := s.generations, endpoints := s.endpoints, mgmt := s.mgmt }

/-- The fields of R397 of a queue context, as a context block gives them. -/
def contextBlock (s : State) (j : Job) : List Byte :=
  Record.words [0, 0, j.control &&& 0xFFFFFFFFFFFF,
    BitVec.ofNat 64 (j.logSlots + j.weight * 2 ^ 8 + j.windowSize / 16 * 2 ^ 16 + (if j.untracked then 2 ^ 32 else 0) +
      (if j.logging then 2 ^ 33 else 0) + if j.spanPartner.isSome then 2 ^ 34 else 0),
    BitVec.ofNat 64 j.root, BitVec.ofNat 64 j.asn, BitVec.ofNat 64 j.logPa, BitVec.ofNat 64 j.savePa] ++
  Record.words ((List.range 4).map fun i => BitVec.ofNat 64 (j.mailboxes.getD i 0)) ++
  Record.words [BitVec.ofNat 64 (if s.mgmt.updating then j.keySlot else 0), BitVec.ofNat 64 (j.spanPartner.getD 0), 0, 0]

/-- An image of the update resumed in place by the new firmware; one that it cannot accept cancels only its job, with FW_IMAGE and the
refusing check recorded (R389 step 4). -/
def resumeUpdated (s : State) (x : Nat × Nat × Nat) : State :=
  let (q, pa, n) := x
  match AMap.get? s.jobs q with
  | none => s
  | some j => match s.resumeImage q (s.contextBlock j) pa n with
    | .ok t => t
    | .error c => ((s.mapJob q fun j => { j with frozen := false }).recordReason (some q) 5 .fwImage (some c)).dissolve q
        |>.mapJob q fun j => { j with cancelled := true }

/-- A job without an image, which the freeze of the update had to refuse (R133), is over after the reset, the refusal recorded. -/
def loseUnfrozen (s : State) : State :=
  (s.jobs.filter fun (_, j) => !j.frozen).foldl (fun s (q, _) =>
    ((s.recordReason (some q) 5 .fwImage (some .ctxState)).dissolve q).mapJob q fun j => { j with cancelled := true }) s

/-- The end of a firmware update: every image resumed, then the request's result; after a failed boot the images stay. -/
def finishUpdate (s : State) : State :=
  if !s.bezel.released then { s with jobs := [], launches := [], graphs := [], mgmt := { s.mgmt with updating := false, busy := false } }
  else
    let s := s.mgmt.images.foldl resumeUpdated s.loseUnfrozen
    { s with mgmt := { s.mgmt with updating := false, images := [], area := 0 } }.requestDone

end State

/-- POWER_ON (boot): the Bezel's ROM boots the part (R398). -/
def execPowerOn (s : State) : Out := .next (s.cold.boot s.ev.boot)

/-- RESET (boot): boots as after power-on, ending Frost and keeping the alarm state (R413); the reset of a firmware update then resumes
what the update froze (R389). -/
def execReset (s : State) : Out :=
  let alarm (t : State) : State := t.withBezel fun z => { z with alarmed := s.bezel.alarmed }
  .next (if s.updateReady then (alarm (s.updated.boot s.ev.boot)).finishUpdate else alarm (s.cold.boot s.ev.boot))

/-- POWER_OFF: everything of the part is lost, every key, the alarm and every sequence with it (R414). -/
def execPowerOff (s : State) : Out := .next (s.cold.withBezel fun z => { z with off := true })

namespace State

/-- The thermal trip: the clocks stop and the part is Off, with BOOT_STATUS 0x10 (R416). -/
def trip (s : State) : State :=
  let t := s.cold.withBezel fun z => { z with off := true }
  { t with mgmt := { t.mgmt with bootStatus := 0x10 } }

/-- The core clock after a measurement, in tenths of a GHz: lowered by 0.2 GHz to no less than 0.8 over the limit or above 100 °C, and
raised by as much to no more than 1.6 below 90 % of the limit (R415, R416). -/
def nextClock (clock limit milliwatts degrees : Nat) : Nat :=
  if limit * 1000 < milliwatts ∨ 100 < degrees then Nat.max 8 (clock - 2)
  else if milliwatts * 10 < limit * 9000 then Nat.min 16 (clock + 2)
  else clock

end State

/-- POWER_MEASURE (amount: milliwatts, index: degrees Celsius): the power manager adjusts the clock (R415, R416). -/
def execPowerMeasure (s : State) : Out :=
  .next (if 115 ≤ s.ev.index then s.trip
    else s.withBezel fun z => { z with
      clock := State.nextClock z.clock z.powerLimit s.ev.amount s.ev.index, temperature := s.ev.index })

/-- THERMAL_TRIP (R416). -/
def execThermalTrip (s : State) : Out := .next s.trip

namespace State

/-- Whether a die holds no strand and no pending start, the Bezel's apart, which stays powered (R401, R414). -/
def dieIdle (s : State) (d : Nat) : Bool :=
  (s.occupied.all fun (c, _) => dieOf c != d || coreKind c == .bezel) &&
  s.cores.all fun (c, k) => dieOf c != d || coreKind c == .bezel || k.starts.isEmpty

end State

/-- DIE_RETENTION_ENTRY (die) (R414). -/
def execDieRetentionEntry (s : State) : Out :=
  .next (if s.dieIdle s.ev.die then s.setDie s.ev.die { s.die s.ev.die with retained := true } else s)

/-- DIE_RETENTION_EXIT (die): the die wakes; what waited for it goes on (R414). -/
def execDieRetentionExit (s : State) : Out := .next (s.setDie s.ev.die { s.die s.ev.die with retained := false })

namespace State

/-! ### The alarm (R410) -/

/-- Every Live slot from 1 to 255. -/
def liveSlots (s : State) : List Nat := (s.keys.filter fun (k, x) => k != 0 && x.state == .live).map (·.1)

/-- The keys zeroised: every Live slot dies, and every channel with its sequence (R403, R410). -/
def zeroiseKeys (s : State) : State :=
  let s := s.liveSlots.foldl killKey s
  { s with channels := s.channels.map fun (n, c) => (n, { c with dead := true }) }

/-- What the model's micro-kernel does on an alarm: it cancels every job whose slot is not 0 (R410, log 5). -/
def cancelSealed (s : State) : State :=
  if !s.native then s
  else (s.jobs.filter fun (_, j) => j.keySlot != 0).foldl (fun s (q, _) => s.cancelJobFor q .alarm) s

/-- The alarm raised (R410): keys, channels and slots die, the Bezel locks, ALARM reaches every core. -/
def raiseAlarm (s : State) : State :=
  let s := s.zeroiseKeys.withBezel fun z => { z with alarmed := true }
  (s.reportingCores.foldl (fun s c => s.latchCore c { cause := .alarm }) s).cancelSealed

end State

/-- ALARM: tamper or glitch (R409, R410). -/
def execAlarm (s : State) : Out := .next s.raiseAlarm

end Sys2Proof.Machine
end

