-- ==== Sys2Proof/Machine/Spdm.lean ====
section
/-!
DEFINITION. The SPDM responder of the Bezel (R404 to R408, R442 to R447) and the confidential channels (R402, R403). The responder is
the Bezel's firmware, served by the model (log 5); the requests of R405 that the listing of R445 leaves out take their formats from
SPDM 1.3 (log 24).
-/

namespace Sys2Proof.Machine

namespace State

/-! ### The inbox window (R442) -/

/-- A cell of the Bezel's island SRAM. -/
def inbox (off : Nat) : Nat := localCell 1023 off

/-- The connection changed. -/
def withSpdm (s : State) (f : Spdm → Spdm) : State := { s with spdm := f s.spdm }

/-- The firmware has handed over its response to the last request: OSEQ = RSEQ (R442). -/
def handedOver (s : State) : Bool := s.num (inbox 0x20) 8 == s.num (inbox 0) 8

/-- Whether the unit delivers a request: the response to the last one has been handed over and sent, and no request waits before this one,
whose second flag tells that its turn has come (R442). -/
def sidebandFree (s : State) : Bool := s.handedOver && !s.spdm.unsent && (s.spdm.waiting.isEmpty || s.ev.flag2)

/-- Whether the unit has a response to send or a request to deliver. -/
def sidebandDue (s : State) : Bool := s.handedOver && (s.spdm.unsent || !s.spdm.waiting.isEmpty)

/-- OLEN bytes of the response sent, if one has been handed over (R442). -/
def sendResponse (s : State) : State :=
  if s.spdm.unsent && s.handedOver then
    s.withSpdm fun c => { c with unsent := false, response := s.bytes (inbox 0x4100) (Nat.min (s.num (inbox 0x18) 8) 16384) }
  else s

/-- A request delivered: its bytes and length, then RSEQ. -/
def deliverRequest (s : State) (req : List Byte) : State :=
  (((s.store (inbox 0x100) req).storeNum (inbox 8) 8 req.length).storeNum (inbox 0) 8 (s.num (inbox 0) 8 + 1)).withSpdm
    fun c => { c with unsent := true }

/-- A response handed over: its bytes and length, then OSEQ. -/
def respond (s : State) (bs : List Byte) : State :=
  ((s.store (inbox 0x4100) bs).storeNum (inbox 0x18) 8 bs.length).storeNum (inbox 0x20) 8 (s.num (inbox 0) 8)

/-- ERROR with a code (R445). -/
def spdmError (code : Nat) : List Byte := [0x13, 0x7F, BitVec.ofNat 8 code, 0]

/-- The responder's answer to a request, which waits at the sideband behind those before it while one is unanswered; one whose length
RLEN cannot have is not delivered (R442; log 24). None of the firmware's where the Bezel runs code of its own; Unspecified after an alarm
or a failed boot (R398, R407), VersionMismatch for another version (R445). -/
def answerSpdm (s : State) (what : Instr) (always : Bool) (f : List Byte → State → List Byte × State) : State :=
  let req := s.ev.bytes
  if req.length < 4 ∨ 16384 < req.length then s
  else if !s.sidebandFree then
    s.withSpdm fun c => { c with waiting := c.waiting ++ [{ what, args := { s.ev with flag2 := true } }] }
  else
  let s := s.deliverRequest req
  if !s.native then s
  else if !always && (s.bezel.alarmed || s.mgmt.bootStatus != 0) then s.respond (spdmError 5)
  else
    let (bs, s) := f req s
    s.respond bs

/-- A check that fails answers an error and changes nothing else. -/
def spdmCheck (checks : List (Bool × Nat)) (f : State → List Byte × State) (s : State) : List Byte × State :=
  match checks.find? fun c => !c.1 with
  | some (_, code) => (spdmError code, s)
  | none => f s

/-- Whether a request is of version 1.3. -/
def version13 (req : List Byte) : Bool := req.headD 0 == 0x13

/-- A request and its response appended to both transcripts. -/
def appendBoth (s : State) (req bs : List Byte) : State := s.withSpdm fun c => { c with m := c.m ++ req ++ bs, l := c.l ++ req ++ bs }

/-- Both transcripts end with the VCA. -/
def markVca (s : State) : State := s.withSpdm fun c => { c with vca := c.m.length }

/-! ### Responses of the listing (R445) -/

/-- VERSION. -/
def versionBytes : List Byte := [0x10, 0x04, 0, 0, 0, 1, 0x00, 0x13]
/-- CAPABILITIES. -/
def capabilityBytes : List Byte := [0x13, 0x61, 0, 0, 0, 0x10, 0, 0, 0xD6, 0x02, 0, 0, 0, 0x40, 0, 0, 0, 0x40, 0, 0]
/-- ALGORITHMS. -/
def algorithmBytes : List Byte :=
  [0x13, 0x63, 4, 0, 52, 0, 1, 1, 4, 0, 0, 0, 8, 0, 0, 0, 2, 0, 0, 0] ++ List.replicate 16 0 ++
  [2, 0x20, 0x10, 0, 3, 0x20, 2, 0, 4, 0x20, 8, 0, 5, 0x20, 1, 0]

end State

/-- GET_VERSION (bytes): resets both transcripts; accepted in any state (R445). -/
def execGetVersion (s : State) : Out :=
  .next (s.answerSpdm .getVersion true fun req s =>
    let s := (s.withSpdm fun c => { c with stage := 1, m := [], l := [] }).appendBoth req State.versionBytes
    (State.versionBytes, s))

/-- GET_CAPABILITIES (bytes). -/
def execGetCapabilities (s : State) : Out :=
  .next (s.answerSpdm .getCapabilities true fun req s =>
    State.spdmCheck [(State.version13 req, 0x41), (s.spdm.stage == 1, 4), (req.length == 20, 1)] (fun s =>
      (State.capabilityBytes, (s.withSpdm fun c => { c with stage := 2 }).appendBoth req State.capabilityBytes)) s)

/-- NEGOTIATE_ALGORITHMS (bytes): the set of R406 must be on offer. -/
def execNegotiateAlgorithms (s : State) : Out :=
  .next (s.answerSpdm .negotiateAlgorithms false fun req s =>
    let bit3 := (req.getD 8 0).getLsbD 3
    let bit1 := (req.getD 12 0).getLsbD 1
    State.spdmCheck [(State.version13 req, 0x41), (s.spdm.stage == 2, 4), (req.length == 48 && bit3 && bit1, 1)] (fun s =>
      (State.algorithmBytes, ((s.withSpdm fun c => { c with stage := 3 }).appendBoth req State.algorithmBytes).markVca)) s)

namespace State

/-- The certificate chain of slot 0, 1,652 bytes (R443). -/
def chain : List Byte := (Config.certificate ++ List.replicate 1652 0).take 1652

/-- Its SHA-384 digest. -/
def chainHash : List Byte := Sha384.digest chain

/-- The negotiated state, which most requests need. -/
def negotiated (s : State) : Bool := s.spdm.stage == 3

/-- Bytes appended to M. -/
def appendM (s : State) (bs : List Byte) : State := s.withSpdm fun c => { c with m := c.m ++ bs }

/-- Two bytes of a request as a number. -/
def half (req : List Byte) (off : Nat) : Nat := leNat ((req.drop off).take 2)

end State

/-- GET_DIGESTS (bytes): slot 0 only. -/
def execGetDigests (s : State) : Out :=
  .next (s.answerSpdm .getDigests false fun req s =>
    State.spdmCheck [(State.version13 req, 0x41), (s.negotiated, 4), (req.length == 4, 1)] (fun s =>
      let bs := [0x13, 0x01, 1, 1] ++ State.chainHash
      (bs, s.appendM (req ++ bs))) s)

/-- GET_CERTIFICATE (bytes): a portion of the chain of slot 0. -/
def execGetCertificate (s : State) : Out :=
  .next (s.answerSpdm .getCertificate false fun req s =>
    let off := State.half req 4
    State.spdmCheck [(State.version13 req, 0x41), (s.negotiated, 4),
        (req.length == 8 && State.half req 2 == 0 && decide (off < 1652), 1)] (fun s =>
      let n := Nat.min (State.half req 6) (1652 - off)
      let bs := [0x13, 0x02, 0, 0] ++ leBytes 2 n ++ leBytes 2 (1652 - off - n) ++ (State.chain.drop off).take n
      (bs, s.appendM (req ++ bs))) s)

namespace State

/-! ### Signatures (R406, R444) -/

/-- Thirty-two bytes of the random source. -/
def nonce (s : State) : List Byte × State :=
  (((List.range 4).flatMap fun i => leBytes 8 (Config.random (s.drawn + i)).toNat), { s with drawn := s.drawn + 4 })

/-- "dmtf-spdm-v1.3.*" four times. -/
def signingPrefix : List Byte :=
  (List.replicate 4 [0x64, 0x6D, 0x74, 0x66, 0x2D, 0x73, 0x70, 0x64, 0x6D, 0x2D, 0x76, 0x31, 0x2E, 0x33, 0x2E, 0x2A]).flatten

/-- "responder-challenge_auth signing". -/
def challengeContext : List Byte :=
  [0x72, 0x65, 0x73, 0x70, 0x6F, 0x6E, 0x64, 0x65, 0x72, 0x2D, 0x63, 0x68, 0x61, 0x6C, 0x6C, 0x65, 0x6E, 0x67, 0x65, 0x5F, 0x61, 0x75,
   0x74, 0x68, 0x20, 0x73, 0x69, 0x67, 0x6E, 0x69, 0x6E, 0x67]

/-- "responder-measurements signing". -/
def measurementContext : List Byte :=
  [0x72, 0x65, 0x73, 0x70, 0x6F, 0x6E, 0x64, 0x65, 0x72, 0x2D, 0x6D, 0x65, 0x61, 0x73, 0x75, 0x72, 0x65, 0x6D, 0x65, 0x6E, 0x74, 0x73,
   0x20, 0x73, 0x69, 0x67, 0x6E, 0x69, 0x6E, 0x67]

/-- "responder-key_exchange_rsp signing". -/
def exchangeContext : List Byte :=
  [0x72, 0x65, 0x73, 0x70, 0x6F, 0x6E, 0x64, 0x65, 0x72, 0x2D, 0x6B, 0x65, 0x79, 0x5F, 0x65, 0x78, 0x63, 0x68, 0x61, 0x6E, 0x67, 0x65,
   0x5F, 0x72, 0x73, 0x70, 0x20, 0x73, 0x69, 0x67, 0x6E, 0x69, 0x6E, 0x67]

/-- SI(c, x): the 148-byte signing input of a context over a transcript part. -/
def signingInput (c x : List Byte) : List Byte := signingPrefix ++ List.replicate (36 - c.length) 0 ++ c ++ Sha384.digest x

/-- What follows a response's nonce: OpaqueDataLength, the SLH-DSA signature over the transcript so far, the requester's context, the
RSA signature over all before it (R444). -/
def signedTail (s : State) (ctx before reqCtx : List Byte) : List Byte × State :=
  let (slh, s) := s.makeSignature 2 (signingInput ctx before)
  let opaque' := leBytes 2 7856 ++ slh ++ reqCtx
  let (rsa, s) := s.makeSignature 1 (signingInput ctx (before ++ opaque'))
  (opaque' ++ rsa, s)

/-- ERROR ResponseNotReady, while a firmware update goes on (R389, R407). -/
def notReady (code : Nat) : List Byte := [0x13, 0x7F, 0x42, 0, 16, BitVec.ofNat 8 code, 0, 1]

end State

/-- CHALLENGE (bytes): CHALLENGE_AUTH, signed by both keys; M is then the VCA again. -/
def execChallenge (s : State) : Out :=
  .next (s.answerSpdm .challenge false fun req s =>
    if s.mgmt.updating then (State.notReady 0x83, s)
    else State.spdmCheck [(State.version13 req, 0x41), (s.negotiated, 4), (req.length == 44 && State.half req 2 == 0, 1)] (fun s =>
      let (n, s) := s.nonce
      let head := [0x13, 0x03, 0, 1] ++ State.chainHash ++ n
      let (tail, s) := s.signedTail State.challengeContext (s.spdm.m ++ req ++ head) (req.drop 36)
      (head ++ tail, s.withSpdm fun c => { c with m := c.m.take c.vca })) s)

namespace State

/-- A DMTF measurement block of a register (R405, R446). -/
def measurementBlock (s : State) (i : Nat) : List Byte :=
  let type : Byte := match i with | 0 => 0 | 2 => 3 | 3 => 3 | _ => 1
  [BitVec.ofNat 8 (i + 1), 1, 0x33, 0, type, 0x30, 0] ++ s.bezel.meas[i]?.getD []

/-- The blocks that an index asks for: one of 1 to 8, or all eight. -/
def measurementBlocks (s : State) (i : Nat) : List Byte :=
  if i = 0xFF then (List.range 8).flatMap s.measurementBlock else s.measurementBlock (i - 1)

end State

/-- GET_MEASUREMENTS (bytes): the blocks asked for, signed where a signature is asked; L is then the VCA again. -/
def execGetMeasurements (s : State) : Out :=
  .next (s.answerSpdm .getMeasurements false fun req s =>
    let isSigned := req.getD 2 0 == 1
    let i := (req.getD 3 0).toNat
    let index := decide (1 ≤ i ∧ i ≤ 8) || i == 0xFF
    let shape := (isSigned && req.length == 45 && req.getD 36 0 == 0) || (req.getD 2 0 == 0 && req.length == 12)
    if s.mgmt.updating then (State.notReady 0xE0, s)
    else State.spdmCheck [(State.version13 req, 0x41), (s.negotiated, 4), (shape && index, 1)] (fun s =>
      let (n, s) := s.nonce
      let blocks := s.measurementBlocks i
      let head := [0x13, 0x60, 0, 0] ++ leBytes 1 (if i = 0xFF then 8 else 1) ++ leBytes 3 blocks.length ++ blocks ++ n
      if isSigned then
        let (tail, s) := s.signedTail State.measurementContext (s.spdm.l ++ req ++ head) (req.drop 37)
        (head ++ tail, s.withSpdm fun c => { c with l := c.l.take c.vca })
      else
        let bs := head ++ leBytes 2 0 ++ req.drop 4
        (bs, s.withSpdm fun c => { c with l := c.l ++ req ++ bs })) s)

/-! ### The secure session (R405, R408) -/

/-- KEY_EXCHANGE (bytes): opens the handshake of the one session (log 24). -/
def execKeyExchange (s : State) : Out :=
  .next (s.answerSpdm .keyExchange false fun req s =>
    State.spdmCheck [(State.version13 req, 0x41), (s.negotiated && !s.spdm.session && !s.spdm.handshaking, 4),
        (decide (138 ≤ req.length) && req.getD 3 0 == 0, 1)] (fun s =>
      let (n, s) := s.nonce
      let head := [0x13, 0x64, 0, 0] ++ leBytes 2 (s.drawn % 65536) ++ [0, 0] ++ n ++ (Config.exchange s.drawn 96 req ++
        List.replicate 96 0).take 96
      let (tail, s) := s.signedTail State.exchangeContext (s.spdm.m ++ req ++ head) []
      let verify := (Config.exchange s.drawn 48 (req ++ head ++ tail) ++ List.replicate 48 0).take 48
      (head ++ tail ++ verify, { s with drawn := s.drawn + 1 }.withSpdm fun c => { c with handshaking := true })) s)

/-- FINISH (bytes, flag: the requester's proof verifies): the session is open (log 24). -/
def execFinish (s : State) : Out :=
  .next (s.answerSpdm .finish false fun req s =>
    State.spdmCheck [(State.version13 req, 0x41), (s.negotiated && s.spdm.handshaking, 4), (s.ev.flag, 6)] (fun s =>
      ([0x13, 0x65, 0, 0], s.withSpdm fun c => { c with handshaking := false, session := true })) s)

/-- END_SESSION (bytes): the session ends, and a lock with it (R408). -/
def execEndSession (s : State) : Out :=
  .next (s.answerSpdm .endSession false fun req s =>
    State.spdmCheck [(State.version13 req, 0x41), (s.negotiated && s.spdm.session, 4), (req.length == 4, 1)] (fun s =>
      ([0x13, 0x6C, 0, 0], s.withSpdm fun c => { c with session := false, locked := false })) s)

/-- LOCK_INTERFACE (bytes): freezes the external configuration; Busy while a lock holds (R408). -/
def execLockInterface (s : State) : Out :=
  .next (s.answerSpdm .lockInterface false fun req s =>
    State.spdmCheck [(State.version13 req, 0x41), (s.negotiated && s.spdm.session, 4), (!s.spdm.locked, 3)] (fun s =>
      ([0x13, 0x7E, 0, 0], s.withSpdm fun c => { c with locked := true })) s)

/-- CHANNEL_OPEN (bytes, index: the key slot): a channel to a sequence, with no counter accepted yet (R402). -/
def execChannelOpen (s : State) : Out :=
  .next (s.answerSpdm .channelOpen false fun req s =>
    let k := s.ev.index
    State.spdmCheck [(State.version13 req, 0x41), (s.negotiated && s.spdm.session, 4),
        (k != 0 && (s.keySlot k).state == .live && (AMap.freshBelow s.channels 65536).isSome, 1)] (fun s =>
      match AMap.freshBelow s.channels 65536 with
      | some n => ([0x13, 0x7E, 0, 0] ++ leBytes 2 n,
          { s with channels := AMap.set s.channels n { keySlot := k, key := s.keyOf k, opening := s.spdm.opened } }.withSpdm
            fun c => { c with opened := c.opened + 1 })
      | none => (State.spdmError 1, s)) s)

/-- UNSUPPORTED_REQUEST (bytes): a request of another code (R405, R445). -/
def execUnsupportedRequest (s : State) : Out :=
  .next (s.answerSpdm .unsupportedRequest false fun req s => State.spdmCheck [(State.version13 req, 0x41), (false, 7)] (fun s => ([], s)) s)

/-! ### Channel records (R402, R403) -/

namespace State

/-- Bytes 0 to 15 of a record: channel number, ciphertext length, zeros, CTR (R402). -/
def recordHeader (n length ctr : Nat) : List Byte := leBytes 8 (n + length * 2 ^ 16) ++ leBytes 8 ctr

/-- The IV of a record: CAT(salt, CTR), its first byte the highest (R402; that order is the mode's own, log 22). -/
def recordIv (c : Channel) (ctr : Nat) : List Byte := (Config.channelSalt c.opening).take 7 ++ (leBytes 5 ctr).reverse

/-- Ciphertext and tag of a record's plaintext, the header being the additional data (R402). -/
def sealRecord (c : Channel) (n ctr : Nat) (plain : List Byte) : List Byte :=
  let key := Config.channelKey c.opening
  let cipher := Aes.counterMode key (recordIv c ctr) plain
  cipher ++ Aes.gcmTag key (recordIv c ctr) (recordHeader n plain.length ctr) cipher

/-- Whether a channel is alive, with its sequence (R403). -/
def channelAlive (s : State) (c : Channel) : Bool :=
  !c.dead && (s.keySlot c.keySlot).state == .live && s.keyOf c.keySlot == c.key

/-- Whether a channel takes a record of a header, a ciphertext and a tag: alive, the header in form, CTR in the host's half above the last
one accepted, the tag good (R402, R403). -/
def recordOk (s : State) (c : Channel) (header cipher tag : List Byte) : Bool :=
  let length := leNat ((header.drop 2).take 2)
  let ctr := leNat ((header.drop 8).take 8)
  s.channelAlive c && leNat ((header.drop 4).take 4) == 0 && decide (16 ≤ length ∧ length ≤ 4096) && length % 16 == 0 &&
  decide (ctr < 2 ^ 39) && c.hostCtr.all (fun n => decide (n < ctr)) &&
  tag == Aes.gcmTag (Config.channelKey c.opening) (recordIv c ctr) header cipher

/-- A record taken from the ring: its plaintext written to the place that it names, under the sequence's slot; the channel dies with the
top counter, or with a record that fails a check (R402, R403). -/
def takeRecord (s : State) (r : ChannelRecord) : State :=
  let header := s.physBytes r.address 16 0
  let n := leNat (header.take 2)
  let length := leNat ((header.drop 2).take 2)
  let ctr := leNat ((header.drop 8).take 8)
  let cipher := s.physBytes (r.address + 16) length 0
  match AMap.get? s.channels n with
  | none => s
  | some c =>
    if s.recordOk c header cipher (s.physBytes (r.address + 16 + length) 16 0) then
      let plain := Aes.counterMode (Config.channelKey c.opening) (recordIv c ctr) cipher
      let s := s.physStore ((Config.recordPage plain * 4096 + Config.recordOffset plain) % 2 ^ 52) plain c.keySlot
      { s with channels := AMap.set s.channels n { c with hostCtr := some ctr, dead := ctr == 2 ^ 39 - 1 } }
    else { s with channels := AMap.set s.channels n { c with dead := true } }

/-- A record sent by the device under the next counter of its half, laid into the mailbox; the channel dies with the top one (R403). -/
def sendRecord (s : State) (n : Nat) : State :=
  let r := s.ev.record
  let length := r.plaintext.length
  match AMap.get? s.channels n with
  | none => s
  | some c =>
    if !s.channelAlive c || length < 16 || 4096 < length || length % 16 != 0 then s
    else
      let k := match c.deviceCtr with | some m => m + 1 | none => 2 ^ 39
      let s := s.physStore r.address (recordHeader n length k ++ sealRecord c n k r.plaintext) 0
      { s with channels := AMap.set s.channels n { c with deviceCtr := some k, dead := k == 2 ^ 40 - 1 } }

end State

/-- CHANNEL_RECORD (record; flag: sent by the device on channel index): a record of a confidential channel (R402, R403). -/
def execChannelRecord (s : State) : Out := .next (if s.ev.flag then s.sendRecord s.ev.index else s.takeRecord s.ev.record)

end Sys2Proof.Machine
end

