-- ==== Sys2Proof/Machine/Debug.lean ====
section
/-!
DEFINITION. The debug port: security and debug states (R411), the TAP (R412), Frost (R413).
-/

namespace Sys2Proof.Machine

namespace State

/-! ### States (R411) -/

/-- Alarmed, Sealed or Open. -/
def isSealed (s : State) : Bool := !s.bezel.alarmed && !s.liveSlots.isEmpty

/-- The TAP's instruction register takes a code, and the port shifts out bytes. -/
def tap (s : State) (ir : Nat) (out : List Byte) : State := { s with port := { s.port with ir := BitVec.ofNat 8 ir, out } }

/-- The key slot of the strand in a slot. -/
def strandSlot (s : State) (c i : Nat) : Nat :=
  match (s.strandAt c i).job.bind fun j => AMap.get? s.jobs j with | some j => j.keySlot | none => 0

/-- Whether a core holds a strand of a slot above 0, Live where `live` asks it; a cuff's is held by its members too, a pair's by both
cores. -/
def holdsSealed (s : State) (live : Bool) (c : Nat) : Bool :=
  (s.strandsOn c ++ s.strandsOn (s.reportCore c)).any fun (k, i) =>
    s.strandSlot k i != 0 && (!live || (s.keySlot (s.strandSlot k i)).state == .live)

/-- Whether the port may halt a strand: any but, while Sealed, one of a slot above 0 that no authorisation names. -/
def mayHalt (s : State) (c i : Nat) : Bool :=
  !s.isSealed || s.strandSlot c i == 0 || (s.port.authStates.contains 2 && s.port.authSlots.contains (s.strandSlot c i))

/-- The counters of a core as Observe reads them: zero for a core that holds a strand of a Live slot above 0. -/
def observedCounters (s : State) (c : Nat) : List Byte :=
  let hidden := s.isSealed && s.holdsSealed true c
  (s.core c).pmc.toList.flatMap fun x => leBytes 8 (if hidden then 0 else x.toNat)

/-- The management registers as Observe reads them: MGMT_BASE, BOOT_PA, BOOT_STATUS, HEAD, protocol errors (R394, R395, R398, R411; which
and in which order is a DESIGN CHOICE, log 12). -/
def managementReads (s : State) : List Byte :=
  Record.words [s.mgmt.base, s.mgmt.bootPa, BitVec.ofNat 64 s.mgmt.bootStatus, s.mgmt.head, BitVec.ofNat 64 s.mgmt.protocolErrors]

/-- The registers of a halted strand, as the parts of a context record: scalar, vector, mask and link, queue and, of the matrix owner, the
matrix registers (R133, R411; the form is a DESIGN CHOICE, log 12). -/
def registerReads (s : State) (c i : Nat) : List Byte :=
  let t : State := { s with cur := (c, 4) }
  ([1, 2, 3, 8] ++ if t.isOwner i then [4, 5, 6, 7, 9] else []).flatMap fun p => t.partRecord p i

/-- A slot halted for debug: read, stepped or told to halt. -/
def debugHalt (s : State) (r : DebugRequest) : State :=
  let x := s.slotAt r.core r.slot
  let s := s.setCore r.core { s.core r.core with watch := r.watch.take 4 }
  match x.status with
  | .free => s
  | .halted .debug =>
    if r.step then s.setSlotAt r.core r.slot { x with status := .ready, step := true }
    else s.tap 0x11 (s.registerReads r.core r.slot)
  | _ => s.latch r.core r.slot { cause := .debugHalt }

/-- Strands halted for debug go on, and watchpoints are cleared. -/
def debugRelease (s : State) : State :=
  let s := s.occupied.foldl (fun s (c, i) =>
    match (s.slotAt c i).status with
    | .halted .debug => s.setSlotAt c i { s.slotAt c i with status := .ready, step := false }
    | _ => s) s
  { s with cores := s.cores.map fun (c, k) => (c, { k with watch := [] }) }

/-! ### Frost (R413) -/

/-- What an unauthorised Frost erases of a core that held a strand of a slot above 0: L1, scratchpad, register files, matrix state,
I-store. -/
def eraseCore (s : State) (c : Nat) : State :=
  let s := (s.wipe (localCell c 0) (sramKib c * 1024)).wipe (istoreCell (istoreUnit c) 0) (istoreSize c)
  let s := (s.zeroMatrix c).dropUntracked c fun _ => true
  let k := s.core c
  s.setCore c { k with
    lines := []
    slots := k.slots.each fun x => { x with sw := Vector.replicate 24 0, u := { x.u with
      g := Vector.replicate 8 0, w := Vector.replicate 24 0, frames := [], v := Vector.replicate 32 (Vector.replicate 32 0)
      k := Vector.replicate 8 0, links := Vector.replicate 8 {}, queues := Vector.replicate 8 {} } } }

/-- The banks of a slot's strand out of retention (R138). -/
def activeBanks (x : Slot) : Slot :=
  { x with u := { x.u with banks := x.u.banks.map fun b => if b = .retention then .active else b } }

/-- Frost entered: without authorisation while Sealed, keys and sealed cores are erased first; every domain is Active, and every clock
stops. -/
def frost (s : State) : State :=
  let s := if s.isSealed && !s.port.authStates.contains 3 then
      let cores := (AMap.keys s.cores).filter (s.holdsSealed false)
      cores.foldl eraseCore s.zeroiseKeys
    else s
  let s : State := { s with
    dies := s.dies.map fun (d, x) => (d, { x with retained := false })
    cores := s.cores.map fun (c, k) => (c, { k with slots := k.slots.each activeBanks }) }
  { s with port := { s.port with state := 3 } }.withBezel fun z => { z with frost := true }

end State

/-- IDCODE: the port shifts out the identification code (R412). -/
def execIdcode (s : State) : Out := .next (s.tap 0x01 (leBytes 4 Config.idcode.toNat))

/-- Whether an authorisation is good: its signatures verify, and it names this part and the nonce that DBG_REQ read last (R412). -/
def State.authorises (s : State) (a : DebugAuth) : Bool := a.verifies && a.serial == Config.serial && s.port.nonce == some a.nonce

/-- AUTH (auth): a good authorisation is in force; any other leaves none (R412). -/
def execAuth (s : State) : Out :=
  let a := s.ev.auth
  let good := s.authorises a
  let s := s.tap 0x10 []
  .next { s with port := { s.port with authStates := if good then a.states else [], authSlots := if good then a.slots else [] } }

/-- DBG_REQ (request): a fresh nonce is drawn, and the debug state asked for is entered where R411 allows it; a refused request changes
nothing else, and Frost ends only by reset (R413). -/
def execDbgReq (s : State) : Out :=
  let r := s.ev.request
  let (n, s) := s.draw
  let s := { s with port := { s.port with nonce := some n } }.tap 0x11 (leBytes 8 n.toNat)
  let wake (s : State) : State :=
    if s.asleep r.core then s.setDie (dieOf r.core) { s.die (dieOf r.core) with retained := false } else s
  let enter (s : State) : State := { s with port := { s.port with state := r.state } }
  .next (if s.bezel.frost then s else match r.state with
    | 0 => enter s.debugRelease
    | 1 => enter ((wake s).tap 0x11 (s.observedCounters r.core ++ s.managementReads))
    | 2 => if s.mayHalt r.core r.slot then enter ((wake s).debugHalt r) else s
    | _ => s.frost)

/-- FROST_ENTER (R413). -/
def execFrostEnter (s : State) : Out := .next ((s.tap 0x20 []).frost)

/-- SCAN_SELECT (index): selects a scan chain (R412). -/
def execScanSelect (s : State) : Out :=
  let s := s.tap 0x21 []
  .next { s with port := { s.port with chain := s.ev.index } }

/-- SCAN_READ: in Frost the selected chain is read out, the order of whose bits is the part's own: eight bytes of a free value (log 8);
in any other state nothing comes (R411, R412). -/
def execScanRead (s : State) : Out :=
  .next (if s.bezel.frost then
      let (x, s) := s.draw
      s.tap 0x22 (leBytes 8 x.toNat)
    else s.tap 0x22 [])

/-- The instruction register codes that R412 names. -/
def tapCodes : List Nat := [0x01, 0x10, 0x11, 0x20, 0x21, 0x22, 0xFF]

/-- BYPASS (index: the instruction register's code): another code than those of R412 acts as BYPASS, and triggers the alarm while
Sealed (R412). -/
def execBypass (s : State) : Out :=
  let n := s.ev.index % 256
  .next (if !tapCodes.contains n && s.isSealed then (s.tap n []).raiseAlarm else s.tap n [])

end Sys2Proof.Machine
end

