-- ==== Sys2Proof/Machine/FloatInstr.lean ====
section
/-!
DEFINITION. Scalar FP32 instructions (R120, R121).
-/

namespace Sys2Proof.Machine

/-- A scalar FP32 instruction with an f32 result: wd[31:0] := the result, [63:32] := 0, flags raised (R56, R59, R120). -/
def floatOp (d : Reg) (f : State → Nat × Nat) (s : State) : Out :=
  s.plain fun s => s.withFlags (f s).2 fun t => t.setReg d (BitVec.ofNat 64 (f s).1)

/-- FADD. -/
def execFadd (d a b : Reg) (s : State) : Out :=
  floatOp d (fun s => FArith.add .f32 s.rounding (s.regF32 a) (s.regF32 b)) s
/-- FSUB. -/
def execFsub (d a b : Reg) (s : State) : Out :=
  floatOp d (fun s => FArith.sub .f32 s.rounding (s.regF32 a) (s.regF32 b)) s
/-- FMUL. -/
def execFmul (d a b : Reg) (s : State) : Out :=
  floatOp d (fun s => FArith.mul .f32 s.rounding (s.regF32 a) (s.regF32 b)) s
/-- FFMA: d is the old wd; one rounding. -/
def execFfma (d a b : Reg) (s : State) : Out :=
  floatOp d (fun s => FArith.fma .f32 s.rounding (s.regF32 a) (s.regF32 b) (s.regF32 d)) s
/-- FDIV. -/
def execFdiv (d a b : Reg) (s : State) : Out :=
  floatOp d (fun s => FArith.div .f32 s.rounding (s.regF32 a) (s.regF32 b)) s
/-- FSQRT. -/
def execFsqrt (d a : Reg) (s : State) : Out := floatOp d (fun s => FArith.sqrt .f32 s.rounding (s.regF32 a)) s
/-- FMIN. -/
def execFmin (d a b : Reg) (s : State) : Out := floatOp d (fun s => FArith.minMax .f32 false (s.reg32 a) (s.reg32 b)) s
/-- FMAX. -/
def execFmax (d a b : Reg) (s : State) : Out := floatOp d (fun s => FArith.minMax .f32 true (s.reg32 a) (s.reg32 b)) s

/-- A float comparison by predicate 0 eq, 1 lt, 2 le, 3 un: the answer and the flags (R121, R149). -/
def floatCompare (p : Nat) (x y : FVal) : Bool × Nat :=
  let un := x.isNan || y.isNan
  let quiet := nvOf [x, y]
  match p with
  | 0 => (!un && FArith.compare x y == 0, quiet)
  | 1 => (!un && decide (FArith.compare x y < 0), if un then flagNV else 0)
  | 2 => (!un && decide (FArith.compare x y ≤ 0), if un then flagNV else 0)
  | _ => (un, quiet)

/-- FCMP. -/
def execFcmp (d a b : Reg) (p : BitVec 2) (s : State) : Out :=
  floatOp d (fun s =>
    let r := floatCompare p.toNat (s.regF32 a) (s.regF32 b)
    (if r.1 then 1 else 0, r.2)) s

/-- The integer that FCVTIF reads: m[0] unsigned, m[1] 32 bits (R121). -/
def sourceInt (m : BitVec 2) (x : Word) : Int :=
  match m.toNat with
  | 0 => x.toInt
  | 1 => x.toNat
  | 2 => (x.setWidth 32).toInt
  | _ => (x.setWidth 32).toNat

/-- FCVTIF. -/
def execFcvtif (d a : Reg) (m : BitVec 2) (s : State) : Out :=
  floatOp d (fun s => FArith.ofInt .f32 s.rounding (sourceInt m (s.reg a))) s

/-- The range of FCVTFI's destination. -/
def targetRange (m : BitVec 3) : Int × Int :=
  match m.toNat % 4 with
  | 0 => (-2 ^ 63, 2 ^ 63 - 1)
  | 1 => (0, 2 ^ 64 - 1)
  | 2 => (-2 ^ 31, 2 ^ 31 - 1)
  | _ => (0, 2 ^ 32 - 1)

/-- FCVTFI: m[2] rounds toward zero whatever RM holds (R58, R121). -/
def execFcvtfi (d a : Reg) (m : BitVec 3) (s : State) : Out :=
  s.plain fun s =>
    let r := FArith.toInt (if m.getLsbD 2 then .rtz else s.rounding) (targetRange m).1 (targetRange m).2 (s.regF32 a)
    s.withFlags r.2 fun t => t.setReg d (wordOfInt r.1)

end Sys2Proof.Machine
end

