-- ==== Sys2Proof/Machine/Mem.lean ====
section
/-!
DEFINITION. Scalar loads and stores (R228), fences (R235), WAITA (R236), the range commands FLUSHR and INVR (R237) and PREF
(R240).
-/

namespace Sys2Proof.Machine

namespace State

/-- The address of format LS: base + W (R228). -/
def lsAddress (s : State) (a : Reg) (o : BitVec 13) : Word := s.reg a + s.immSigned o

/-- The alignment of a scalar access (R226): as its size in ISTORE and for the ordered classes, none otherwise. -/
def scalarAlign (x : Access) (n : Nat) : Nat := if x.attr.space = 3 ∨ x.attr.cls ≠ 0 then n else 1

/-- The checks 2 and 5 of R225 for a scalar load or store of `n` bytes, ISTORE open to widths 4 and 8 alone (R197). -/
def scalarAccess (s : State) (k : AccessKind) (va : Word) (n : Nat) : Res Access := do
  let a ← s.attrs 0
  s.istorePrivilege a
  let x : Access := { attr := a, reads := k == .load, writes := k == .store }
  attrCheck k x va
  if a.space = 3 ∧ n < 4 then raiseAt .istoreRange x.info va else .ok x

end State

/-- A scalar load: `n` bytes, extended by `f` (R228). -/
def scalarLoad (d a : Reg) (o : BitVec 13) (n : Nat) (f : Nat → Word) (s : State) : Out :=
  s.withBoth fun s => do
    let va := s.lsAddress a o
    let x ← s.scalarAccess .load va n
    State.aligned x va (State.scalarAlign x n) 0
    let (bs, s) ← s.loadAccess x va n 0
    pure (s.setReg d (f (leNat bs))).retire

/-- A scalar store of the low `n` bytes of ws (R228). -/
def scalarStore (r a : Reg) (o : BitVec 13) (n : Nat) (s : State) : Out :=
  s.withBoth fun s => do
    let va := s.lsAddress a o
    let x ← s.scalarAccess .store va n
    State.aligned x va (State.scalarAlign x n) 0
    let s ← s.storeAccess x va (leBytes n (s.reg r).toNat) 0
    pure s.retire

/-- LDB. -/
def execLdb (d a : Reg) (o : BitVec 13) (s : State) : Out := scalarLoad d a o 1 (sext 8) s
/-- LDBU. -/
def execLdbu (d a : Reg) (o : BitVec 13) (s : State) : Out := scalarLoad d a o 1 (BitVec.ofNat 64) s
/-- LDH. -/
def execLdh (d a : Reg) (o : BitVec 13) (s : State) : Out := scalarLoad d a o 2 (sext 16) s
/-- LDHU. -/
def execLdhu (d a : Reg) (o : BitVec 13) (s : State) : Out := scalarLoad d a o 2 (BitVec.ofNat 64) s
/-- LDW. -/
def execLdw (d a : Reg) (o : BitVec 13) (s : State) : Out := scalarLoad d a o 4 (sext 32) s
/-- LDWU. -/
def execLdwu (d a : Reg) (o : BitVec 13) (s : State) : Out := scalarLoad d a o 4 (BitVec.ofNat 64) s
/-- LDD. -/
def execLdd (d a : Reg) (o : BitVec 13) (s : State) : Out := scalarLoad d a o 8 (BitVec.ofNat 64) s
/-- STB. -/
def execStb (r a : Reg) (o : BitVec 13) (s : State) : Out := scalarStore r a o 1 s
/-- STH. -/
def execSth (r a : Reg) (o : BitVec 13) (s : State) : Out := scalarStore r a o 2 s
/-- STW. -/
def execStw (r a : Reg) (o : BitVec 13) (s : State) : Out := scalarStore r a o 4 s
/-- STD. -/
def execStd (r a : Reg) (o : BitVec 13) (s : State) : Out := scalarStore r a o 8 s

/-- Whether a fence of a scope and class performs what a lockstep pair holds: class SC orders it before later loads, and class REL, AR or SC
at DEVICE scope or wider waits until earlier ISTORE writes have been performed (R31, R235; log 32). -/
def fencePerforms (scope cls : Nat) : Bool := cls == 4 || (decide (3 ≤ scope) && (cls == 2 || cls == 3))

/-- FENCE (R235): the model performs every access at its own step, so that nothing is left to wait for (log 3), but for what a
lockstep pair holds. -/
def execFence (p : BitVec 3) (c : BitVec 3) (s : State) : Out :=
  s.plain fun s => do
    let s ← if fencePerforms p.toNat c.toNat then s.performHeld else pure s
    pure s.retire

/-- WAITA (R236): the value when it differs from the expected one, zero-extended; else the strand waits on its cells. -/
def execWaita (d a b : Reg) (w : BitVec 1) (s : State) : Out :=
  s.withMod fun s => do
    let t ← s.attrs 0
    s.istorePrivilege t
    s.needResident
    let n := if w = 1 then 4 else 8
    let x : Access := { attr := t, reads := true, writes := false }
    State.attrCheck .waita x (s.reg a)
    State.aligned x (s.reg a) n 0
    let (segs, s) ← s.resolve x (s.reg a) n 0
    State.refuseUntracked segs (s.reg a) s
    let s ← s.commitPoint false
    let (bs, s) := s.readAccess segs
    let old := BitVec.ofNat 64 ((s.reg b).toNat % 2 ^ (8 * n))
    if leWord bs = old then .error (.wait (.watch ((segs.head?.map (·.key)).getD 0) n old) (some s))
    else pure (s.setReg d (leWord bs)).retire

namespace State

/-- The checks of a range command in the order of R237; the barrier word is the place of an atomic (R208, R239). EADDR is the range base,
also where the length alone fails (DESIGN CHOICE: R237 names no address; log 28). -/
def rangeChecks (s : State) (t : Attr) (c a b : Word) : Res Unit := do
  s.istorePrivilege t
  attrCheck .walk { attr := t, reads := false, writes := false } a
  if a.toNat % 128 ≠ 0 ∨ b.toNat % 128 ≠ 0 then raiseAt .misaligned 0 a
  else if c.toNat % 8 ≠ 0 then raiseAt .misaligned 3 c
  else if b.toNat < 128 ∨ b.toNat > 268435456 ∨ ¬ canonical a ∨ ¬ canonical (a + b - 1) ∨ bit a 63 ≠ bit (a + b - 1) 63 then
    raiseAt .memAttr 5 a
  else .ok ()

/-- A range command (R237): checks, the barrier word's translation as the atomic that the walk will perform, and then a place among
the core's 8 walk commands, for which a resident strand waits and an activation traps. -/
def rangeCommand (s : State) (invalidate : Bool) (c a b : Word) : Res State := do
  let t ← s.attrs 9
  s.rangeChecks t c a b
  let x : Access := { attr := { t with space := 0 }, reads := true, writes := true, atomic := true }
  let (segs, s) ← s.resolve x c 8 0
  if s.walkCount ≥ 8 then .error (if s.activation then .trap .handlerBlock 0 0 0 (some s) else .wait .walkRoom (some s))
  else
    let g := segs.headD { key := 0, length := 8 }
    let w : WalkCmd := { invalidate, base := a, length := b.toNat, barrier := g, scope := t.scope
                         members := if s.slot.pair.isSome then 2 else 2 ^ s.u.cuff
                         unit := s.u.unit, job := s.u.job }
    let s ← s.emit (.walk s.cur.1 w)
    pure (s.engineIssued s.u.unit).retire

end State

/-- FLUSHR. -/
def execFlushr (c a b : Reg) (s : State) : Out := s.withMod fun s => s.rangeCommand false (s.reg c) (s.reg a) (s.reg b)
/-- INVR. -/
def execInvr (c a b : Reg) (s : State) : Out := s.withMod fun s => s.rangeCommand true (s.reg c) (s.reg a) (s.reg b)

namespace State

/-- A line brought where PREF wants it: L1 for reading (0) or writing (1), L2 alone (2), but for POLICY strm, which keeps it out of the L1,
and last, which marks it there (R223). It is never written. -/
def prefetch (s : State) (g : Segment) (intent : Nat) : State :=
  let c := s.cur.1
  let line := lineOf g.key
  let policy := if intent = 2 then 1 else g.policy
  let s := if g.untracked then (s.untrackedPiece c line g.slot policy 0 128).2
    else if intent = 1 then s.own c line g.slot policy else s.touch c line false g.slot policy
  if policy = 2 then s.markLine c line else s

end State

/-- PREF (R240): never traps beyond its word checks; what it cannot translate or may not have makes it a no-operation. -/
def execPref (a : Reg) (i : BitVec 2) (s : State) : Out :=
  s.withMod fun s => do
    let t' ← s.attrs 3
    if t'.space ≠ 0 then pure s.retire
    else
      let va := s.reg a
      match s.translate { s.requestFor { attr := t', reads := true, writes := false } with needsW := decide (i = 1) } va with
      | (.error _, t) => pure t.retire
      | (.ok p, t) => pure (t.prefetch { key := p.pa, length := 1, slot := p.slot, untracked := p.untracked, policy := t'.policy } i.toNat).retire

end Sys2Proof.Machine
end

