-- ==== Sys2Proof/Machine/Rep.lean ====
section
/-!
DEFINITION. The repetition buffer (R289 to R294): REPB, REPE, REPWAIT, and the issue of one body group by the sequencer.
-/

namespace Sys2Proof.Machine

/-- What a register field of a body word names (R290, R291). -/
inductive Role where
  | none | vector | source | dest
  deriving DecidableEq, Repr

/-- Whether a body word is a prefix, or its fields dst, srcA and srcB as roles; nothing for a word that no body may hold
(R290). -/
def bodyRoles : Instr → Option (Role × Role × Role)
  | .vld .. => some (.vector, .source, .none)
  | .vst .. => some (.vector, .source, .none)
  | .vlds .. => some (.vector, .source, .source)
  | .vsts .. => some (.vector, .source, .source)
  | .vgath .. => some (.vector, .source, .vector)
  | .vscat .. => some (.vector, .source, .vector)
  | .vadd .. => some (.vector, .vector, .vector)
  | .vsub .. => some (.vector, .vector, .vector)
  | .vmul .. => some (.vector, .vector, .vector)
  | .vfma .. => some (.vector, .vector, .vector)
  | .vmin .. => some (.vector, .vector, .vector)
  | .vmax .. => some (.vector, .vector, .vector)
  | .vabs .. => some (.vector, .vector, .none)
  | .vneg .. => some (.vector, .vector, .none)
  | .vrcp .. => some (.vector, .vector, .none)
  | .vrsq .. => some (.vector, .vector, .none)
  | .vexp2 .. => some (.vector, .vector, .none)
  | .vlog2 .. => some (.vector, .vector, .none)
  | .vcvt .. => some (.vector, .vector, .none)
  | .vpack _ _ _ t _ => some (.vector, .vector, if t = 1 ∨ t = 2 then .vector else .none)
  | .vunpack .. => some (.vector, .vector, .none)
  | .vqnt .. => some (.vector, .vector, .none)
  | .viadd .. => some (.vector, .vector, .vector)
  | .visub .. => some (.vector, .vector, .vector)
  | .vimul .. => some (.vector, .vector, .vector)
  | .vimac .. => some (.vector, .vector, .vector)
  | .vshl .. => some (.vector, .vector, .vector)
  | .vshr .. => some (.vector, .vector, .vector)
  | .vsra .. => some (.vector, .vector, .vector)
  | .vcmp .. => some (.none, .vector, .vector)
  | .vsel .. => some (.vector, .vector, .vector)
  | .vand .. => some (.vector, .vector, .vector)
  | .vor .. => some (.vector, .vector, .vector)
  | .vxor .. => some (.vector, .vector, .vector)
  | .kand .. => some (.none, .none, .none)
  | .kor .. => some (.none, .none, .none)
  | .knot .. => some (.none, .none, .none)
  | .kpopc .. => some (.dest, .none, .none)
  | .vredadd .. => some (.dest, .vector, .none)
  | .vredmax .. => some (.dest, .vector, .none)
  | .vredmin .. => some (.dest, .vector, .none)
  | .vperm .. => some (.vector, .vector, .vector)
  | .vslide .. => some (.vector, .vector, .source)
  | .vbcast .. => some (.vector, .source, .none)
  | .vextr .. => some (.dest, .vector, .source)
  | .vins .. => some (.vector, .source, .source)
  | .mma _ _ g _ _ _ => if g = 0 then some (.none, .source, .none) else none
  | .mcb _ _ g _ _ _ => if g = 0 then some (.none, .source, .none) else none
  | .mmx _ g _ _ _ => if g = 0 then some (.none, .source, .none) else none
  | .msca _ _ g _ _ _ => if g = 0 then some (.none, .source, .none) else none
  | .mzero .. => some (.none, .none, .none)
  | .mmov .. => some (.vector, .none, .none)
  | .mod .. => some (.none, .none, .none)
  | .ext .. => some (.none, .none, .none)
  | .halign .. => some (.none, .none, .none)
  | .hpref .. => some (.none, .source, .none)
  | .hevict .. => some (.none, .source, .none)
  | .hprio .. => some (.none, .none, .none)
  | .hlikely .. => some (.none, .none, .none)
  | .notAnInstructionWord _ => some (.none, .none, .none)
  | _ => none

/-- The dst field of a word. -/
def wordD (w : BitVec 32) : Reg := w.extractLsb' 21 5
/-- The srcA field of a word. -/
def wordA (w : BitVec 32) : Reg := w.extractLsb' 16 5
/-- The srcB field of a word. -/
def wordB (w : BitVec 32) : Reg := w.extractLsb' 11 5

/-- A word with its three register fields replaced. -/
def withFields (w : BitVec 32) (d a b : Reg) : BitVec 32 :=
  w.extractLsb' 26 6 ++ d ++ a ++ b ++ w.extractLsb' 0 11

/-- Whether a word is of a vector major, 0x16 or 0x19 to 0x1D. -/
def vectorMajor (w : BitVec 32) : Bool := [0x16, 0x19, 0x1A, 0x1B, 0x1C, 0x1D].contains (w.extractLsb' 26 6).toNat

/-- Whether a body may hold a word: permitted, and writing no scalar but g0 and specifiers 24 to 31 (R290). Any word of a vector
major but VGRANT is, one without a meaning trapping when it issues. -/
def bodyWord (w : BitVec 32) : Bool :=
  match decodeWord w with
  | .error _ => vectorMajor w
  | .ok i => match bodyRoles i with
    | none => false
    | some (d, _, _) => d != .dest || wordD w == 0 || decide (24 ≤ (wordD w).toNat)

/-- The index of the first word that breaks R290: not permitted, or a prefix that the body does not complete. -/
def bodyFault (ws : List (BitVec 32)) : Option Nat :=
  (List.range ws.length).find? fun i =>
    let w := ws.getD i 0
    !bodyWord w || (i + 1 == ws.length && isPrefixWord w)

/-- REPB: captures the n words that follow (R290). -/
def execRepb (n : BitVec 5) (s : State) : Out :=
  s.plainWhere (s.kind == .mcore) fun s => do
    s.needResident
    ensure (!s.u.rep.active) .repState
    let count := n.toNat + 1
    let room := (istoreSize s.cur.1 - s.pc.toNat - 4) / 4
    let ws := (List.range (Nat.min count room)).map fun i => s.wordAt (s.pc.toNat + 4 + 4 * i)
    match bodyFault ws with
    | some i => raiseAt .repBody i 0
    | none =>
      if room < count then raiseAt .repBody room 0
      else
        let t := s.setU { s.u with rep := { s.u.rep with captured := true, body := ws, base := s.pc + 4, fromBody := false } }
        pure (t.complete (s.pc + 4 + BitVec.ofNat 64 (4 * count)))

/-- REPE: starts the sequencer on snapshots of the scalar registers, MEMDEF and FPCTL (R291). -/
def execRepe (a : Reg) (g : BitVec 5) (s : State) : Out :=
  s.plainWhere (s.kind == .mcore) fun s => do
    s.needResident
    ensure (s.u.rep.captured && !s.u.rep.active && decide ((s.reg a).toNat < 2 ^ 32)) .repState
    let snap : Snapshot := { g := s.u.g, w := s.u.w, memdef := s.u.memdef, fpctl := s.u.fpctl, pc := 0 }
    pure (s.setU { s.u with rep := { s.u.rep with
      active := true, stagger := g.toNat, next := 0, count := (s.reg a).toNat, iteration := 0, snap := snap } }).retire

/-- REPWAIT: waits for every iteration, then the sequencer is inactive (R292). -/
def execRepwait (s : State) : Out :=
  s.plainWhere (s.kind == .mcore) fun s => do
    s.needResident
    s.awaitSequencer
    pure (s.setU { s.u with rep := { s.u.rep with active := false } }).retire

/-! ### The sequencer (R291 to R294) -/

namespace State

/-- A field of a body word as it issues: a vector register renamed; a scalar source that pops, or a destination that pushes, by a
register of its own (24 for srcA, 25 for srcB, 26 for dst). -/
def issuedField (shift : Nat) (role : Role) (r temp : Reg) : Reg :=
  match role with
  | .vector => r + BitVec.ofNat 5 shift
  | .source => if 24 ≤ r.toNat then temp else r
  | .dest => if 24 ≤ r.toNat then temp else r
  | .none => r

/-- The head of a queue for a source field that pops, or nothing where the field does not pop; none while the queue is empty. -/
def popSource (u : Strand) (role : Role) (r : Reg) : Option (Option Word × Strand) :=
  if role == .source && decide (24 ≤ r.toNat) then
    let n := r.toNat - 24
    let q := u.queues[n]?.getD {}
    match q.items with
    | [] => none
    | x :: xs => some (some x, { u with queues := u.queues.setIfInBounds n { q with items := xs } })
  else some (none, u)

/-- Whether a destination that pushes finds room. -/
def pushRoom (u : Strand) (role : Role) (r : Reg) : Bool :=
  !(role == .dest && decide (24 ≤ r.toNat)) ||
    (let q := u.queues[r.toNat - 24]?.getD {}
     decide (q.items.length + q.reserved < 16))

/-- The strand as it executes a body word at an address: snapshots in place of its scalar values, which are kept aside (R291). -/
def enterBody (u : Strand) (pc : Word) (w : Vector Word 24) : Strand :=
  { u with
    g := u.rep.snap.g, w := w, memdef := u.rep.snap.memdef
    fpctl := (u.fpctl &&& 0x3F00) ||| (u.rep.snap.fpctl &&& 0x3F0003)
    pc := pc
    rep := { u.rep with stream := some { g := u.g, w := u.w, memdef := u.memdef, fpctl := u.fpctl, pc := u.pc } } }

/-- The pushed value of a completed word. -/
def pushDest (u : Strand) (role : Role) (r : Reg) (x : Word) : Strand :=
  if role == .dest && decide (24 ≤ r.toNat) then
    let q := u.queues[r.toNat - 24]?.getD {}
    { u with queues := u.queues.setIfInBounds (r.toNat - 24) { q with items := q.items ++ [x] } }
  else u

/-- The place of the next body group after `k` words. -/
def advanceBody (r : Rep) (k : Nat) : Rep :=
  if r.body.length ≤ r.next + k then { r with next := 0, iteration := r.iteration + 1 } else { r with next := r.next + k }

/-- A slot with its scalar stream as `old` had it, in the mode in which it stands, after words of the body. -/
def streamAgain (old x : Slot) (u : Strand) : Slot :=
  { x with
    status := old.status, pre := old.pre, eprog := old.eprog, step := old.step, mode := old.mode, ie := old.ie, nest := old.nest, u := u }

/-- A trap that a body word has taken, the strand's queues as given: the scalar stream resumes at its own group (R294). While the scalar
stream is inside an instruction, or its own trap is served, the sequencer holds the word back (DEDUCED: a slot has one EPC; log 61). -/
def bodyTrap (old : Slot) (queues : Vector Queue 8) (t : State) : Option State :=
  if shortWait old || old.mode then none
  else some (t.setSlot { t.slot with
    step := old.step
    u := { t.u with queues := queues, rep := { t.u.rep with spc := groupStart old, prog := 0 } } })

/-- The end of a body group: under debug single step its trap follows, with the next body word as the place of return; the group's pops and
its push stay (R294, R411). -/
def endGroup (old : Slot) (t : State) : Option State :=
  if !old.step then some t
  else if shortWait old || old.mode then none
  else
    let r := t.u.rep
    let queues := t.u.queues
    let t := t.setSlot { t.slot with pre := none, u := enterBody t.u (r.base + BitVec.ofNat 64 (4 * r.next)) r.snap.w }
    bodyTrap old queues (t.trap .singleStep 0 0 0)

/-- A word of the body as it issues, with its register fields by their roles and the strand after its pops; none while a queue holds
it back. A word without a meaning has no fields (R88, R290, R291). -/
def issuedWord (u : Strand) (w : BitVec 32) : Option (BitVec 32 × Role × Option Word × Option Word × Strand) :=
  match decodeWord w with
  | .error _ => some (w, .none, none, none, u)
  | .ok i => match bodyRoles i with
    | none => none
    | some (d, a, b) =>
      match popSource u a (wordA w) with
      | none => none
      | some (x, v) => match popSource v b (wordB w) with
        | none => none
        | some (y, v) =>
          let shift := u.rep.iteration * u.rep.stagger % 32
          if pushRoom v d (wordD w) then
            some (withFields w (issuedField shift d (wordD w) 26) (issuedField shift a (wordA w) 24)
              (issuedField shift b (wordB w) 25), d, x, y, v)
          else none

/-- A body group issued on the slot whose strand runs the sequencer: at most `n` words, the `k`-th next, on a strand that `old` was
at the group's start. None while a queue holds the word back. -/
def bodyGroup (run : Instr → State → Out) (old : Slot) : (n k : Nat) → State → Option State
  | 0, _, _ => none
  | n + 1, k, s =>
    let r := old.u.rep
    let w := r.body.getD (r.next + k) 0
    match issuedWord s.u w with
    | none => none
    | some (w2, d, x, y, u) =>
      let regs := match x with | some v => r.snap.w.setIfInBounds 16 v | none => r.snap.w
      let regs := match y with | some v => regs.setIfInBounds 17 v | none => regs
      let t := s.setU (enterBody u (r.base + BitVec.ofNat 64 (4 * (r.next + k))) regs)
      let i := match decodeWord w2 with | .ok j => j | .error _ => .notAnInstructionWord w2
      match run i t with
      | .next t =>
        if t.slot.mode then bodyTrap old old.u.queues t
        else match t.slot.status with
          | .waiting _ =>
            let u := leaveBody t.u
            some (t.setSlot (streamAgain old t.slot { u with queues := old.u.queues, rep := { u.rep with prog := t.slot.eprog } }))
          | _ =>
            let u := pushDest (leaveBody t.u) d (wordD w) t.u.w[18]
            if t.slot.pre.isSome then bodyGroup run old n (k + 1) (t.setU u)
            else endGroup old (t.setSlot (streamAgain old t.slot { u with rep := advanceBody u.rep (k + 1) }))
      | _ => none

/-- Whether the sequencer of a slot has a body group to issue: not between the words of a scalar group, not before a pending cause is taken
(R367), and while a trap is served only where it is a synchronous one of the scalar stream (R294, R323). -/
def sequencerBusy (s : State) (c i : Nat) : Bool :=
  let x := s.slotAt c i
  x.u.rep.active && decide (x.u.rep.iteration < x.u.rep.count) && !s.causePends c i &&
  (!x.mode || (bit x.ecause 8 && !x.u.rep.fromBody)) &&
  (match x.status with | .ready => x.pre.isNone | .waiting _ => true | _ => false)

/-- The sequencer of a slot issues its next body group at its progress, if nothing holds it back. -/
def sequence (run : Instr → State → Out) (s : State) (c i : Nat) : Option State :=
  let x := s.slotAt c i
  if !s.sequencerBusy c i then none
  else
    let t : State := { s with cur := (c, i) }
    let t := t.setSlot { x with
      mode := false, ie := true, nest := false
      pre := none, step := false, eprog := x.u.rep.prog, u := { x.u with rep := { x.u.rep with prog := 0 } } }
    (bodyGroup run x 3 0 t).map fun t => { t with cur := s.cur }

end State

end Sys2Proof.Machine
end

