-- ==== Sys2Proof/Machine/Scalar.lean ====
section
/-!
DEFINITION. Scalar integer instructions (R117 to R119), none of which sets a flag or traps on its values.
-/

namespace Sys2Proof.Machine

/-- An integer instruction in format RR: wd := f(wa, wb) (R117). -/
def binary (d a b : Reg) (f : Word → Word → Word) (s : State) : Out :=
  s.plain fun s => .ok (s.setReg d (f (s.reg a) (s.reg b))).retire

/-- One with a single source: wd := f(wa). -/
def unary (d a : Reg) (f : Word → Word) (s : State) : Out := s.plain fun s => .ok (s.setReg d (f (s.reg a))).retire

/-- One with a sign-extended immediate that EXT widens (R84, R118). -/
def immediate (d a : Reg) (i : BitVec 16) (f : Word → Word → Word) (s : State) : Out :=
  s.withExt fun s => .ok (s.setReg d (f (s.reg a) (s.immSigned i))).retire

/-- One with a zero-extended immediate that EXT widens. -/
def logicalImmediate (d a : Reg) (i : BitVec 16) (f : Word → Word → Word) (s : State) : Out :=
  s.withExt fun s => .ok (s.setReg d (f (s.reg a) (s.immLogical i))).retire

/-! ### Operations -/

/-- Leading zero bits of 64. -/
def leadingZeros (x : Word) : Nat := if x = 0 then 64 else 63 - Nat.log2 x.toNat

/-- Trailing zero bits among the first `n` from bit `i`. -/
def trailingFrom (x : Word) : (n i : Nat) → Nat
  | 0, i => i
  | n + 1, i => if x.getLsbD i then i else trailingFrom x n (i + 1)

/-- Trailing zero bits of 64. -/
def trailingZeros (x : Word) : Nat := trailingFrom x 64 0

/-- Set bits among the low `n`. -/
def popCount (x : Word) : Nat → Nat
  | 0 => 0
  | n + 1 => popCount x n + if x.getLsbD n then 1 else 0

/-- The shift amount wb[5:0]. -/
def shiftAmount (b : Word) : Nat := b.toNat % 64

/-- Rotation to the right. -/
def rotateRight (x : Word) (n : Nat) : Word := x.rotateRight n

/-- Signed quotient, truncated toward zero (R50): divisor 0 gives −1, −2^63 over −1 gives the dividend. -/
def divSigned (a b : Word) : Word := if b = 0 then BitVec.allOnes 64 else a.sdiv b

/-- Signed remainder, with the dividend's sign (R50): divisor 0 gives the dividend. -/
def remSigned (a b : Word) : Word := if b = 0 then a else a.srem b

/-- Unsigned quotient (R50). -/
def divUnsigned (a b : Word) : Word := if b = 0 then BitVec.allOnes 64 else a / b

/-- Unsigned remainder (R50). -/
def remUnsigned (a b : Word) : Word := if b = 0 then a else a % b

/-! ### Meanings -/

/-- ADD. -/
def execAdd (d a b : Reg) (s : State) : Out := binary d a b (· + ·) s
/-- SUB. -/
def execSub (d a b : Reg) (s : State) : Out := binary d a b (· - ·) s
/-- AND. -/
def execAnd (d a b : Reg) (s : State) : Out := binary d a b (· &&& ·) s
/-- OR. -/
def execOr (d a b : Reg) (s : State) : Out := binary d a b (· ||| ·) s
/-- XOR. -/
def execXor (d a b : Reg) (s : State) : Out := binary d a b (· ^^^ ·) s
/-- ANDN. -/
def execAndn (d a b : Reg) (s : State) : Out := binary d a b (fun x y => x &&& ~~~y) s
/-- SHL. -/
def execShl (d a b : Reg) (s : State) : Out := binary d a b (fun x y => x <<< shiftAmount y) s
/-- SHR. -/
def execShr (d a b : Reg) (s : State) : Out := binary d a b (fun x y => x >>> shiftAmount y) s
/-- SRA. -/
def execSra (d a b : Reg) (s : State) : Out := binary d a b (fun x y => x.sshiftRight (shiftAmount y)) s
/-- ROT: to the right. -/
def execRot (d a b : Reg) (s : State) : Out := binary d a b (fun x y => rotateRight x (shiftAmount y)) s
/-- CLZ. -/
def execClz (d a : Reg) (s : State) : Out := unary d a (fun x => BitVec.ofNat 64 (leadingZeros x)) s
/-- CTZ. -/
def execCtz (d a : Reg) (s : State) : Out := unary d a (fun x => BitVec.ofNat 64 (trailingZeros x)) s
/-- POPC. -/
def execPopc (d a : Reg) (s : State) : Out := unary d a (fun x => BitVec.ofNat 64 (popCount x 64)) s
/-- MIN, signed. -/
def execMin (d a b : Reg) (s : State) : Out := binary d a b (fun x y => if x.slt y then x else y) s
/-- MAX, signed. -/
def execMax (d a b : Reg) (s : State) : Out := binary d a b (fun x y => if x.slt y then y else x) s
/-- MINU. -/
def execMinu (d a b : Reg) (s : State) : Out := binary d a b (fun x y => if x.ult y then x else y) s
/-- MAXU. -/
def execMaxu (d a b : Reg) (s : State) : Out := binary d a b (fun x y => if x.ult y then y else x) s
/-- SEL: the old wd is the condition. -/
def execSel (d a b : Reg) (s : State) : Out :=
  s.plain fun s => .ok (s.setReg d (if s.reg d != 0 then s.reg a else s.reg b)).retire
/-- CMPEQ. -/
def execCmpeq (d a b : Reg) (s : State) : Out := binary d a b (fun x y => boolWord (x == y)) s
/-- CMPLT, signed. -/
def execCmplt (d a b : Reg) (s : State) : Out := binary d a b (fun x y => boolWord (x.slt y)) s
/-- CMPLTU. -/
def execCmpltu (d a b : Reg) (s : State) : Out := binary d a b (fun x y => boolWord (x.ult y)) s
/-- ADDI. -/
def execAddi (d a : Reg) (i : BitVec 16) (s : State) : Out := immediate d a i (· + ·) s
/-- ANDI. -/
def execAndi (d a : Reg) (i : BitVec 16) (s : State) : Out := logicalImmediate d a i (· &&& ·) s
/-- ORI. -/
def execOri (d a : Reg) (i : BitVec 16) (s : State) : Out := logicalImmediate d a i (· ||| ·) s
/-- XORI. -/
def execXori (d a : Reg) (i : BitVec 16) (s : State) : Out := logicalImmediate d a i (· ^^^ ·) s
/-- SHLI. -/
def execShli (d a : Reg) (n : BitVec 6) (s : State) : Out := unary d a (· <<< n.toNat) s
/-- SHRI. -/
def execShri (d a : Reg) (n : BitVec 6) (s : State) : Out := unary d a (· >>> n.toNat) s
/-- SRAI. -/
def execSrai (d a : Reg) (n : BitVec 6) (s : State) : Out := unary d a (fun x => x.sshiftRight n.toNat) s
/-- CMPEQI. -/
def execCmpeqi (d a : Reg) (i : BitVec 16) (s : State) : Out := immediate d a i (fun x y => boolWord (x == y)) s
/-- CMPLTI, signed. -/
def execCmplti (d a : Reg) (i : BitVec 16) (s : State) : Out := immediate d a i (fun x y => boolWord (x.slt y)) s
/-- MOVHI: W × 65,536. -/
def execMovhi (d : Reg) (i : BitVec 16) (s : State) : Out :=
  s.withExt fun s => .ok (s.setReg d (s.immSigned i * 65536)).retire
/-- ADDPC: the address of the word itself plus W × 65,536. -/
def execAddpc (d : Reg) (i : BitVec 16) (s : State) : Out :=
  s.withExt fun s => .ok (s.setReg d (s.pc + s.immSigned i * 65536)).retire
/-- MUL: the low 64 bits. -/
def execMul (d a b : Reg) (s : State) : Out := binary d a b (· * ·) s
/-- MULH: bits [127:64] of the signed product. -/
def execMulh (d a b : Reg) (s : State) : Out := binary d a b (fun x y => BitVec.ofInt 64 (x.toInt * y.toInt / 2 ^ 64)) s
/-- MULHU: bits [127:64] of the unsigned product. -/
def execMulhu (d a b : Reg) (s : State) : Out := binary d a b (fun x y => BitVec.ofNat 64 (x.toNat * y.toNat / 2 ^ 64)) s
/-- DIV (R50). -/
def execDiv (d a b : Reg) (s : State) : Out := binary d a b divSigned s
/-- DIVU (R50). -/
def execDivu (d a b : Reg) (s : State) : Out := binary d a b divUnsigned s
/-- REM (R50). -/
def execRem (d a b : Reg) (s : State) : Out := binary d a b remSigned s
/-- REMU (R50). -/
def execRemu (d a b : Reg) (s : State) : Out := binary d a b remUnsigned s

end Sys2Proof.Machine
end

