-- ==== Sys2Proof/Machine/Span.lean ====
section
/-!
DEFINITION. The Kutric Span (R281 to R284, R418 to R420): flits, pages handed over, atomics, and the link's loss and return.
-/

namespace Sys2Proof.Machine

namespace State

/-! ### The link (R420) -/

/-- The link is lost: a page whose hand-over had begun stays in use here (R284), and SPAN_DOWN is raised on every core (R369, R371,
R420). -/
def spanLost (s : State) : State :=
  let s := s.withSpan fun x => { x with
    up := false, replays := 0, pages := x.pages.map fun (n, p) => (n, { p with handing := false }) }
  s.reportingCores.foldl (fun s c => s.latchCore c { cause := .spanDown }) s

/-! ### Pages (R281, R282) -/

/-- A page's entry changed. -/
def mapPage (s : State) (n : Nat) (f : SpanPage → SpanPage) : State :=
  match AMap.get? s.span.pages n with
  | some p => s.withSpan fun x => { x with pages := AMap.set x.pages n (f p) }
  | none => s

/-- The address of a page. -/
def pageAddress (n : Nat) : Word := (BitVec.ofNat 48 (n * 4096)).signExtend 64

/-- The frame that backs a page here: its translation through the context of a job that has a Span partner. -/
def pageFrame (s : State) (n : Nat) : Option Place :=
  s.jobs.findSome? fun (q, j) =>
    if j.spanPartner.isNone then none
    else
      let r : Request := { ctx := s.ctxOf (some q), core := j.dispatcher, slot := 0, user := false, reads := false, writes := false }
      match (s.withSpan fun x => { x with pages := [] }).translate r (pageAddress n) with
      | (.ok p, _) => some p
      | (.error _, _) => none

/-- Every line of a frame recalled within this box: for a write every copy goes, for a read dirty data is written back and clean copies
stay (R282 step 3). -/
def recallPage (s : State) (pa : Nat) (write : Bool) : State :=
  (List.range 32).foldl (fun s i =>
    let line := lineOf pa + i
    if write then s.evictLine line
    else
      let s := (s.dirLine line).present.foldl (fun s d => s.recallL1s d line true) s
      (s.dirLine line).present.foldl (fun s d => s.cleanDie d line) s) s

/-- Whether an access already in flight may still meet a frame: a data stage, the barrier of a walk, which a pair may still hold, or a
command of the Bezel's engines, all of which hold translations (R282 step 2); or a line of the frame is busy at its home (R270). -/
def frameUsed (s : State) (pa : Nat) : Bool :=
  let frame : Segment := { key := pa, length := 4096 }
  (s.cores.any fun (_, k) =>
    (k.stages.any fun t => t.rows.any fun r => match r with | some (a, b) => (a ++ b).any (meets frame) | none => false) ||
    k.walks.any fun w => meets frame w.barrier) ||
  (s.bezel.hashCmds.any fun h => (h.input ++ h.output).any (meets frame)) ||
  (s.bezel.signCmds.any fun g => (g.message ++ g.signature ++ g.result).any (meets frame)) ||
  (s.occupied.any fun (c, i) => (s.slotAt c i).pair.any fun p => p.held.any fun e => match e with
    | .walk _ w => meets frame w.barrier | _ => false) ||
  (linesIn pa 4096).any s.homeBusy

/-- The stores to a frame that pairs hold, performed: they are accesses in flight (R163, R282). -/
def commitFrame (s : State) (pa : Nat) : State :=
  let frame : Segment := { key := pa, length := 4096 }
  s.occupied.foldl (fun s (c, i) =>
    if (s.slotAt c i).pair.any fun p => p.held.any fun e => match e with
        | .store g _ => meets frame g | .untracked _ g _ => meets frame g | .walk _ w => meets frame w.barrier | _ => false
    then s.commit c i else s) s

/-- A page handed over to the other box: its lines recalled, its bytes sent, none where this box is not its home, and the states flipped;
what this box has come to want of it meanwhile is asked for (R282 steps 3 to 5). -/
def handOver (s : State) (n : Nat) (write : Bool) : State :=
  match AMap.get? s.span.pages n with
  | none => s
  | some p =>
    let (bs, s) := match s.pageFrame n with
      | some f => let s := s.recallPage f.pa write; (s.physBytes f.pa 4096 f.slot, s)
      | none => (List.replicate 4096 0, s)
    let s := s.mapPage n fun p => { p with
      state := if write then 2 else 1, home := p.home && !write, handing := false, asked := none }
    s.sendSpan ([.pageData n (if p.home then bs else [])] ++
      if p.home && p.wanted != 0 then [.pageReq n (p.wanted == 2)] else [])

/-- Whether a strand waits for a page whose state now permits its access: the home serves its own access first (R285). -/
def pageAwaited (s : State) (n : Nat) : Bool :=
  s.occupied.any fun (c, i) => match (s.slotAt c i).status with
    | .waiting (.span va w) => pageOf va 3 == n && !s.spanHolds (s.strandAt c i).job va w
    | _ => false

/-- The other box's request for a page served as far as it can be now: while the link is down the page stays in use here; else after this
box's own request and access, new accesses are stopped, and once those in flight are performed the page is handed over (R282, R284,
R285). -/
def servePage (s : State) (n : Nat) : State :=
  match AMap.get? s.span.pages n with
  | none => s
  | some p => match p.asked with
    | none => s
    | some write =>
      if !s.span.up || (!p.handing && ((p.home && p.wanted != 0) || s.pageAwaited n)) then s
      else
        let s := s.mapPage n fun p => { p with handing := true }
        match s.pageFrame n with
        | none => s.handOver n write
        | some f =>
          let s := s.commitFrame f.pa
          if s.frameUsed f.pa then s else s.handOver n write

/-- The bytes of a page that have come, laid into its frame under its leaf's key slot (R282 step 4). -/
def fillPage (s : State) (n : Nat) (bs : List Byte) : State :=
  match s.pageFrame n with
  | some f => (s.recallPage f.pa true).physStore f.pa bs f.slot
  | none => s

/-- Page data of a flit; with the last byte of the page the states flip as this box asked. The answer to the home's upgrade of a page that
it holds in S brings no data (R282). -/
def takePageData (s : State) (n : Nat) (bs : List Byte) : State :=
  match AMap.get? s.span.pages n with
  | none => s
  | some p =>
    let all := (p.received ++ bs).take 4096
    if p.wanted = 0 then s
    else if bs.isEmpty && p.home && p.state == 1 && p.wanted == 2 then
      s.mapPage n fun p => { p with state := 0, wanted := 0, received := [], refusals := 0 }
    else if all.length < 4096 then s.mapPage n fun p => { p with received := all }
    else (s.fillPage n all).mapPage n fun p => { p with
      state := if p.wanted = 1 then 1 else 0, home := p.wanted != 1, wanted := 0, received := [], refusals := 0 }

/-! ### Answers to atomics (R283) -/

/-- The strand in a slot that waits for an atomic's answer goes on with the old value. -/
def atomicDone (s : State) (c i : Nat) (old : Nat) : State :=
  match (s.slotAt c i).status with
  | .waiting (.spanAtomic va d n zero) =>
    let s := s.mapPage (pageOf va 3) fun p => { p with refusals := 0 }
    s.as c i fun s => (s.setReg (BitVec.ofNat 5 d) (atomicResult n zero (old % 2 ^ (8 * n)))).retire
  | _ => s

/-- A refusal: the atomic executes again, and so is sent again to the hinted home, the other box, or, where the hint names this box, waits
here for the page that is on its way; four refusals in a row make this box ask for the page (R283). -/
def atomicRefused (s : State) (c i : Nat) (here : Bool) : State :=
  match (s.slotAt c i).status with
  | .waiting (.spanAtomic va _ _ _) =>
    let n := pageOf va 3
    let s := s.mapPage n fun p => { p with refusals := p.refusals + 1 }
    s.setSlotAt c i { s.slotAt c i with
      status := if here && (AMap.get? s.span.pages n).any (·.wanted == 2) then .waiting (.span va true) else .ready }
  | _ => s

/-! ### Flits (R418 to R420) -/

/-- The header and payload of a message of the Span. -/
def readMessage (bs : List Byte) : Word × List Word :=
  let header := leWord (bs.take 8)
  (header, (List.range ((bits header 13 8 + 7) / 8)).map fun i => leWord ((bs.drop (8 + 8 * i)).take 8))

/-- Whether the image of a job has been written and the job not been resumed (R379). -/
def imageWritten (s : State) (job : Option Nat) : Bool :=
  match job.bind fun q => AMap.get? s.jobs q with | some j => j.frozen && j.image.isNone | none => false

/-- A message from the other box for a logical core of a job (R376) on core `address / 8`, queue `address % 8`, returned where the job's
image has been written; 4 in the queue's place is a message that the job has sent, after its handle, and that comes back: it is kept, to
be sent again, and MSG_BOUNCE is raised (R379). -/
def takeMessage (s : State) (address : Nat) (job : Option Nat) (bs : List Byte) : State :=
  let c := address / 8
  if address % 8 = 4 then
    let (header, payload) := readMessage (bs.drop 8)
    (s.withSpan fun x => { x with bounced := x.bounced ++ [(job, leWord (bs.take 8), header, payload)] }).latchCore c
      { cause := .msgBounce }
  else
    let (header, payload) := readMessage bs
    if s.imageWritten job then s.sendSpan [.bounce header payload]
    else { s with net := s.net ++ [{ core := c, queue := address % 8, msg := { header, payload, job } }] }

/-- What a flit's payload does, by its class: 1 page data, 2 a message, 3 an answer to the atomic of slot `address % 4` of core
`address / 4`: a byte that is 0 for performed, and then the old value follows, 1 for refused with the other box as the home, 2 with this
one. -/
def takePayload (s : State) (f : SpanFlit) : State :=
  match f.cls with
  | 1 => s.takePageData f.address f.payload
  | 2 => s.takeMessage f.address f.job f.payload
  | 3 =>
    if f.payload.headD 0 = 0 then s.atomicDone (f.address / 4) (f.address % 4) (leNat ((f.payload.drop 1).take 8))
    else s.atomicRefused (f.address / 4) (f.address % 4) (f.payload.headD 0 == 2)
  | _ => s

/-- Whether a flit sent is one that the other box acknowledges by the last that it has taken, among the 128 sent before it. -/
def acknowledged (ack seq : Nat) : Bool := decide ((ack + 256 - seq) % 256 < 128)

/-- The awaited flit that fails its CRC is replayed with those behind it, at most 16 times in a row, and one out of order is one behind
it; a record that fails its GCM check ends the join (R420). -/
def takeFlit (s : State) (f : SpanFlit) : State :=
  if !s.span.up || f.seq != s.span.expect then s
  else if !f.crcOk then
    let s := s.withSpan fun x => { x with replays := x.replays + 1 }
    if 16 < s.span.replays then { s with agenda := s.agenda ++ [{ what := .spanRetrain }] } else s
  else
    let s := s.withSpan fun x => { x with
      expect := (x.expect + 1) % 256, acked := f.ack, replays := 0, unacked := x.unacked.filter fun y => !acknowledged f.ack y.1 }
    if f.cls = 0 then s
    else if !s.span.joined then s
    else if !f.gcmOk then (s.withSpan fun x => { x with joined := false }).spanLost
    else s.takePayload f

end State

/-- SPAN_FLIT (flit): a flit comes over the Span (R418, R420). -/
def execSpanFlit (s : State) : Out := .next (s.takeFlit s.ev.flit)

/-- SPAN_RETRAIN: the link retrains, and SPAN_DOWN is raised (R420). -/
def execSpanRetrain (s : State) : Out := .next s.spanLost

/-- PAGE_REQ (index: the page's number, flag: a write; flag2: sent by this box): this box asks for a page, or, as its home, or holding
it in S, hands it over as asked (R282). -/
def execPageReq (s : State) : Out :=
  let n := s.ev.index
  .next (if s.ev.flag2 then s.askPage n s.ev.flag
    else match AMap.get? s.span.pages n with
      | some p => if p.state = 2 then s else (s.mapPage n fun p => { p with asked := some (s.ev.flag || p.asked == some true) }).servePage n
      | none => s)

namespace State

/-- An atomic of the other box on bytes of memory (R233, R283): its operation as in R81. -/
def remoteAtomic (a : SpanAtomic) (old : Nat) : Option Nat :=
  let w := 2 ^ (8 * a.bytes)
  let x := a.operand.toNat % w
  let e := a.expected.toNat % w
  let less := decide (signedOf (8 * a.bytes) old ≤ signedOf (8 * a.bytes) x)
  match a.op with
  | 0 => some ((old + x) % w)
  | 1 => some (old &&& x)
  | 2 => some (old ||| x)
  | 3 => some (old ^^^ x)
  | 4 => some (if less then old else x)
  | 5 => some (if less then x else old)
  | 6 => some (Nat.min old x)
  | 7 => some (Nat.max old x)
  | 8 => some x
  | 9 => if old = e then some x else none
  | _ => some (FArith.add .f32 .rne (FloatFormat.f32.read old) (FloatFormat.f32.read x)).1

/-- Whether this box performs an atomic on a page: it is the page's home, has it in E, and hands it over to nobody. -/
def performsAtomic (s : State) (n : Nat) : Bool :=
  match AMap.get? s.span.pages n with | some p => p.home && p.state == 0 && !p.handing | none => false

/-- Whether this box is the home of a page that it has in S, and can have it in E by an upgrade (DEDUCED: only a hand-over begun makes the
home refuse; log 47). -/
def upgradesPage (s : State) (n : Nat) : Bool :=
  match AMap.get? s.span.pages n with | some p => p.home && p.state == 1 && !p.handing | none => false

/-- The key slot of the leaf that maps a page. -/
def pageSlot (s : State) (n : Nat) : Nat := match s.pageFrame n with | some f => f.slot | none => 0

/-- An atomic of the other box performed at its home, under its page's key slot, and answered (R283). -/
def homePerforms (s : State) (a : SpanAtomic) : State :=
  let g : Segment := { key := a.address, length := a.bytes, slot := s.pageSlot a.page }
  let (old, s) := s.homeAccess [g] a.bytes (atomicReq a.op a.bytes a.operand.toNat a.expected.toNat) (State.remoteAtomic a)
  s.sendSpan [.performed (BitVec.ofNat 64 old)]

/-- An atomic of the other box taken in: performed at its page's home once its line can be served, put off while the home upgrades the page,
or refused without being performed, with the new home as hint (R270, R283). -/
def takeAtomic (s : State) (a : SpanAtomic) : State :=
  let later (s : State) : State := s.withSpan fun x => { x with atomics := x.atomics ++ [a] }
  if s.performsAtomic a.page then if s.homeBusy (lineOf a.address) then later s else s.homePerforms a
  else if s.upgradesPage a.page then later (s.askPage a.page true)
  else s.sendSpan [.refused ((AMap.get? s.span.pages a.page).any fun p => p.handing || p.state == 2)]

/-- The oldest atomic that was put off, taken in again. -/
def serveAtomic (s : State) : State :=
  match s.span.atomics with
  | [] => s
  | a :: rest => (s.withSpan fun x => { x with atomics := rest }).takeAtomic a

/-- The oldest atomic put off can now be performed or refused. -/
def atomicDue (s : State) : Bool :=
  match s.span.atomics with
  | [] => false
  | a :: _ => if s.performsAtomic a.page then !s.homeBusy (lineOf a.address) else !s.upgradesPage a.page

/-- Pages that the other box has asked for and that can be brought on now. -/
def pagesDue (s : State) : List Nat :=
  s.span.pages.filterMap fun (n, p) => if p.asked.isSome && s.servePage n != s then some n else none

end State

/-- SPAN_ATOMIC (atomic): an atomic of the other box is performed at its page's home, or refused without being performed (R283). -/
def execSpanAtomic (s : State) : Out := .next (s.takeAtomic s.ev.atomic)

/-- SPAN_LINK_TIMEOUT (core, slot; flag: of an engine's access): an access that has waited 1 ms on a link that is down traps with
BUS_ERROR, INFO [0] a store, [1] the Span; an engine's raises it when it is made again (R284, R371). -/
def execSpanLinkTimeout (s : State) : Out :=
  let c := s.ev.core
  let i := s.ev.slot
  .next (if s.span.up then s
    else if s.ev.flag then s.withSpan fun x => { x with timedOut := true }
    else match (s.slotAt c i).status with
      | .waiting (.span va w) => s.takeTrap c i true .busError (if w then 3 else 2) va (s.slotAt c i).eprog
      | .waiting (.spanAtomic va _ _ _) => s.takeTrap c i true .busError 3 va 0
      | _ => s)

/-- SPAN_LINK_RECOVERED: the link is back, and what waited for it goes on (R284). -/
def execSpanLinkRecovered (s : State) : Out :=
  .next (if s.span.joined then s.withSpan fun x => { x with up := true, timedOut := false } else s)

end Sys2Proof.Machine
end

