-- ==== Sys2Proof/Machine/VecMem.lean ====
section
/-!
DEFINITION. Vector memory instructions (R230 to R232).
-/

namespace Sys2Proof.Machine

namespace State

/-- The lanes that take part: below VLEN and, with M, set in the mask register (R231). -/
def memLanes (s : State) (m : BitVec 1) (k : BitVec 3) : List Nat :=
  s.activeLanes.filter fun i => m == 0 || (s.mask k.toNat).getLsbD i

/-- Checks 2, 4 and 5 of R225 for vector memory. -/
def vectorAccess (s : State) (k : AccessKind) (va : Word) (rs : List Reg) : Res Access := do
  let t ← s.attrs 0
  s.istorePrivilege t
  s.needGrant rs
  let x : Access := { attr := t, reads := k == .vload, writes := k == .vstore }
  attrCheck k x va
  pure x

/-- The range check of a GLOBAL element (R194). -/
def laneRange (x : Access) : List Word → Res Unit
  | [] => .ok ()
  | va :: rest => if x.attr.space = 0 ∧ ¬ canonical va then raiseAt .pfAddress x.info va else laneRange x rest

/-- The elements of an access taken as a whole resolved in lane order. -/
def resolveLanes (s : State) (x : Access) : List (Nat × Word) → Res (List (Nat × List Segment) × State)
  | [] => .ok ([], s)
  | (i, va) :: rest => do
    let (g, s) ← s.resolve x va 4 0
    let (gs, s) ← resolveLanes s x rest
    pure ((i, g) :: gs, s)

/-- Resolved elements loaded into their lanes. -/
def loadLanes (s : State) (d : Reg) : List (Nat × List Segment) → State
  | [] => s
  | (i, g) :: rest =>
    let (bs, s) := s.readAccess g
    loadLanes (s.setLanes d fun j => if j = i then some (BitVec.ofNat 32 (leNat bs)) else none) d rest

/-- Lanes stored to their resolved elements, as one instruction's effects. -/
def storeLanes (s : State) (d : Reg) (base : Word) (gs : List (Nat × List Segment)) : Res State :=
  let (bad, good) := gs.partition fun (_, g) => s.storeError g
  let effects := good.flatMap fun (i, g) => storeEffects s.cur.1 false g (leBytes 4 (s.lane d i).toNat)
  if (s.stageGuard (good.flatMap (·.2))).toBool = false then waitFor (.matrix 0)
  else (bad.foldl (fun s (i, _) =>
    s.latch s.cur.1 s.cur.2 { cause := .busError, eaddr := base + BitVec.ofNat 64 (4 * i), info := 1 }) s).emitAll effects

/-- One element of an instruction with steps: checks 6 to 9, then the access (R231). -/
def laneStep (s : State) (x : Access) (d : Reg) (i : Nat) (va : Word) : Res State := do
  aligned x va 4 i
  if x.writes then s.storeAccess x va (leBytes 4 (s.lane d i).toNat) i
  else
    let (bs, s) ← s.loadAccess x va 4 i
    pure (s.setLanes d fun j => if j = i then some (BitVec.ofNat 32 (leNat bs)) else none)

/-- The steps from EPROG.STEP on, one per active lane in order (R231). -/
def laneSteps (s : State) (x : Access) (d : Reg) : List (Nat × Word) → Res State
  | [] => .ok s.finishSteps
  | (i, va) :: rest => match s.laneStep x d i va with
    | .ok s => laneSteps s x d rest
    | .error e => .error (keepSteps s i e)

end State

/-- VLD and VST: one access of the active lanes (R231). -/
def vectorWhole (k : AccessKind) (d a : Reg) (m : BitVec 1) (n : BitVec 3) (s : State) : Out :=
  s.withMod fun s => do
    let x ← s.vectorAccess k (s.reg a) [d]
    let s := s.wakeBanks [d]
    let base := s.reg a
    let lanes := (s.memLanes m n).map fun i => (i, base + BitVec.ofNat 64 (4 * i))
    if lanes.isEmpty then pure s.retire
    else do
      State.aligned x ((lanes.map (·.2)).headD base) 4 0
      State.laneRange x (lanes.map (·.2))
      let (gs, s) ← s.resolveLanes x lanes
      if x.writes then
        let s ← s.storeLanes d base gs
        pure s.retire
      else pure (s.loadLanes d gs).retire

/-- The instructions with steps: addresses by lane (R231). -/
def vectorSteps (k : AccessKind) (d a : Reg) (rs : List Reg) (m : BitVec 1) (n : BitVec 3) (address : State → Nat → Word)
    (s : State) : Out :=
  s.withMod fun s => do
    let x ← s.vectorAccess k (s.reg a) rs
    let s := s.wakeBanks rs
    let lanes := (s.memLanes m n).filter fun i => decide (s.slot.eprog ≤ i)
    s.laneSteps x d (lanes.map fun i => (i, address s i))

/-- The address of a strided lane. -/
def strided (a r : Reg) (s : State) (i : Nat) : Word := s.reg a + BitVec.ofNat 64 i * s.reg r

/-- The address of an indexed lane. -/
def indexed (a b : Reg) (s : State) (i : Nat) : Word := s.reg a + (s.lane b i).signExtend 64

/-- VLD. -/
def execVld (d a : Reg) (m : BitVec 1) (k : BitVec 3) (s : State) : Out := vectorWhole .vload d a m k s
/-- VST. -/
def execVst (d a : Reg) (m : BitVec 1) (k : BitVec 3) (s : State) : Out := vectorWhole .vstore d a m k s
/-- VLDS. -/
def execVlds (d a r : Reg) (m : BitVec 1) (k : BitVec 3) (s : State) : Out := vectorSteps .vload d a [d] m k (strided a r) s
/-- VSTS. -/
def execVsts (d a r : Reg) (m : BitVec 1) (k : BitVec 3) (s : State) : Out := vectorSteps .vstore d a [d] m k (strided a r) s
/-- VGATH. -/
def execVgath (d a b : Reg) (m : BitVec 1) (k : BitVec 3) (s : State) : Out :=
  vectorSteps .vload d a [d, b] m k (indexed a b) s
/-- VSCAT. -/
def execVscat (d a b : Reg) (m : BitVec 1) (k : BitVec 3) (s : State) : Out :=
  vectorSteps .vstore d a [d, b] m k (indexed a b) s

end Sys2Proof.Machine
end

