-- ==== Sys2Proof/Machine/Vector.lean ====
section
/-!
DEFINITION. Vector instructions of majors 0x19 to 0x1D (R136 to R153): arithmetic, conversion, packing, integers, compares and
masks, the grant, reductions and permutations.
-/

namespace Sys2Proof.Machine

namespace State

/-- A lane as a number. -/
def laneNat (s : State) (r : Reg) (i : Nat) : Nat := (s.lane r i).toNat

/-- Results by lane written to the active lanes. -/
def setActive (s : State) (r : Reg) (f : Nat → Nat) : State :=
  s.setLanes r fun i => if i < s.u.vlen then some (BitVec.ofNat 32 (f i)) else none

/-- Per-lane results with their flags: raised together, then written (R59, R141). -/
def laneResults (s : State) (d : Reg) (f : Nat → Nat × Nat) : Res State :=
  let flags := s.activeLanes.foldl (fun acc i => acc ||| (f i).2) 0
  s.withFlags flags fun s => s.setActive d fun i => (f i).1

end State

/-! ### Floating-point arithmetic (R142) -/

/-- An operation on patterns of a format: operands a, b and the old destination d; result and flags. -/
abbrev PatternOp := (f : FloatFormat) → Round → (a b d : Nat) → Nat × Nat

/-- Both halves of a packed lane computed on their own. -/
def packedHalves (f : FloatFormat) (m : Round) (op : PatternOp) (a b d : Nat) : Nat × Nat :=
  let lo := op f m (a % 65536) (b % 65536) (d % 65536)
  let hi := op f m (a / 65536) (b / 65536) (d / 65536)
  (lo.1 + hi.1 * 65536, lo.2 ||| hi.2)

/-- One lane under a type and a selector of major 0x19 (R82, R142). -/
def floatLane (t : Nat) (sel : BitVec 4) (selb : Bool) (m : Round) (op : PatternOp) (a b d : Lane) : Nat × Nat :=
  match t with
  | 0 => op .f32 m a.toNat b.toNat d.toNat
  | 1 => packedHalves .bf16 m op a.toNat b.toNat d.toNat
  | 2 => packedHalves .f16 m op a.toNat b.toNat d.toNat
  | _ =>
    let f := narrowFormat t
    let x := widen f (pick sel a)
    let y := if selb then widen f (pick sel b) else (b.toNat, 0)
    let z := op .f32 m x.1 y.1 d.toNat
    (z.1, x.2 ||| y.2 ||| z.2)

/-- A vector word that names v registers: prefix, sequencer and grant checks, banks awake. -/
def vectorWord (rs : List Reg) (s : State) (k : State → Res State) : Out :=
  s.plain fun s => do
    s.needGrant rs
    k (s.wakeBanks rs)

/-- An arithmetic word of major 0x19. -/
def floatWord (d a b : Reg) (t : BitVec 3) (sel : BitVec 4) (x : BitVec 1) (op : PatternOp) (s : State) : Out :=
  vectorWord [d, a, b] s fun s =>
    s.laneResults d fun i => floatLane t.toNat sel (x == 1) s.rounding op (s.lane a i) (s.lane b i) (s.lane d i)

/-- VADD. -/
def execVadd (d a b : Reg) (t : BitVec 3) (sel : BitVec 4) (x : BitVec 1) (s : State) : Out :=
  floatWord d a b t sel x (fun f m a b _ => FArith.add f m (f.read a) (f.read b)) s
/-- VSUB. -/
def execVsub (d a b : Reg) (t : BitVec 3) (sel : BitVec 4) (x : BitVec 1) (s : State) : Out :=
  floatWord d a b t sel x (fun f m a b _ => FArith.sub f m (f.read a) (f.read b)) s
/-- VMUL. -/
def execVmul (d a b : Reg) (t : BitVec 3) (sel : BitVec 4) (x : BitVec 1) (s : State) : Out :=
  floatWord d a b t sel x (fun f m a b _ => FArith.mul f m (f.read a) (f.read b)) s
/-- VFMA. -/
def execVfma (d a b : Reg) (t : BitVec 3) (sel : BitVec 4) (x : BitVec 1) (s : State) : Out :=
  floatWord d a b t sel x (fun f m a b d => FArith.fma f m (f.read a) (f.read b) (f.read d)) s
/-- VMIN. -/
def execVmin (d a b : Reg) (t : BitVec 3) (sel : BitVec 4) (x : BitVec 1) (s : State) : Out :=
  floatWord d a b t sel x (fun f _ a b _ => FArith.minMax f false a b) s
/-- VMAX. -/
def execVmax (d a b : Reg) (t : BitVec 3) (sel : BitVec 4) (x : BitVec 1) (s : State) : Out :=
  floatWord d a b t sel x (fun f _ a b _ => FArith.minMax f true a b) s

/-- A pattern with its sign bit cleared. -/
def clearSign (f : FloatFormat) (x : Nat) : Nat := x % 2 ^ (f.width - 1)

/-- A pattern with its sign bit turned. -/
def flipSign (f : FloatFormat) (x : Nat) : Nat :=
  if x / 2 ^ (f.width - 1) % 2 = 1 then x % 2 ^ (f.width - 1) else x % 2 ^ (f.width - 1) + 2 ^ (f.width - 1)

/-- VABS: no flag but that of a widening. -/
def execVabs (d a : Reg) (t : BitVec 3) (sel : BitVec 4) (s : State) : Out :=
  vectorWord [d, a] s fun s =>
    s.laneResults d fun i =>
      floatLane t.toNat sel false s.rounding (fun f _ a _ _ => (clearSign f a, 0)) (s.lane a i) 0 0

/-- VNEG. -/
def execVneg (d a : Reg) (t : BitVec 3) (sel : BitVec 4) (s : State) : Out :=
  vectorWord [d, a] s fun s =>
    s.laneResults d fun i =>
      floatLane t.toNat sel false s.rounding (fun f _ a _ _ => (flipSign f a, 0)) (s.lane a i) 0 0

/-! ### Approximation, conversion, packing, quantising (R143 to R147) -/

/-- One of VRCP, VRSQ, VEXP2 and VLOG2 (R61). -/
def approximate (d a : Reg) (f : FVal → Nat × Nat) (s : State) : Out :=
  vectorWord [d, a] s fun s => s.laneResults d fun i => f (FloatFormat.f32.read (s.laneNat a i))

/-- VRCP. -/
def execVrcp (d a : Reg) (s : State) : Out := approximate d a FArith.rcp s
/-- VRSQ. -/
def execVrsq (d a : Reg) (s : State) : Out := approximate d a FArith.rsq s
/-- VEXP2. -/
def execVexp2 (d a : Reg) (s : State) : Out := approximate d a FArith.exp2 s
/-- VLOG2. -/
def execVlog2 (d a : Reg) (s : State) : Out := approximate d a FArith.log2 s

/-- One lane of VCVT (R144). -/
def convertLane (t : Nat) (m : Round) (x : Nat) : Nat × Nat :=
  match t with
  | 0 =>
    let r := FArith.toInt m (-(2 ^ 31)) (2 ^ 31 - 1) (FloatFormat.f32.read x)
    ((BitVec.ofInt 32 r.1).toNat, r.2)
  | 1 => FArith.ofInt .f32 m (signedOf 32 x)
  | 2 =>
    let r := FArith.toInt m 0 (2 ^ 32 - 1) (FloatFormat.f32.read x)
    ((BitVec.ofInt 32 r.1).toNat, r.2)
  | _ => FArith.ofInt .f32 m x

/-- VCVT. -/
def execVcvt (d a : Reg) (t : BitVec 3) (s : State) : Out :=
  vectorWord [d, a] s fun s => s.laneResults d fun i => convertLane t.toNat s.rounding (s.laneNat a i)

/-- An integer saturated to an n-bit signed range (R49). -/
def saturate (n : Nat) (x : Int) : Int := max (-(2 ^ (n - 1))) (min (2 ^ (n - 1) - 1) x)

/-- One lane of VPACK (R145). -/
def packLane (t : Nat) (sel : BitVec 4) (m : Round) (a b old : Lane) : Nat × Nat :=
  match t with
  | 0 => ((place sel old (BitVec.ofInt 8 (saturate 8 a.toInt)).toNat).toNat, 0)
  | 1 | 2 =>
    let f := narrowFormat t
    let lo := FArith.convert f m (FloatFormat.f32.read a.toNat)
    let hi := FArith.convert f m (FloatFormat.f32.read b.toNat)
    (hi.1 * 65536 + lo.1, lo.2 ||| hi.2)
  | _ =>
    let r := FArith.convert (narrowFormat t) m (FloatFormat.f32.read a.toNat)
    ((place sel old r.1).toNat, r.2)

/-- VPACK. -/
def execVpack (d a b : Reg) (t : BitVec 3) (sel : BitVec 4) (s : State) : Out :=
  vectorWord [d, a, b] s fun s =>
    s.laneResults d fun i => packLane t.toNat sel s.rounding (s.lane a i) (s.lane b i) (s.lane d i)

/-- One lane of VUNPACK (R146). -/
def unpackLane (t : Nat) (sel : BitVec 4) (a : Lane) : Nat × Nat :=
  match t with
  | 0 => ((BitVec.ofInt 32 (signedOf 8 (pick sel a))).toNat, 0)
  | _ => widen (narrowFormat t) (pick sel a)

/-- VUNPACK. -/
def execVunpack (d a : Reg) (t : BitVec 3) (sel : BitVec 4) (s : State) : Out :=
  vectorWord [d, a] s fun s => s.laneResults d fun i => unpackLane t.toNat sel (s.lane a i)

/-- Numbers of `w` bits packed from the least significant up. -/
def packBits (w : Nat) : List Nat → Nat
  | [] => 0
  | x :: xs => x % 2 ^ w + 2 ^ w * packBits w xs

/-- VQNT (R147): the block of 32 lanes quantised, its elements packed from lane 0 and its scale in the lane after them. -/
def execVqnt (d a : Reg) (t : BitVec 3) (s : State) : Out :=
  vectorWord [d, a] s fun s => do
    ensure (s.u.vlen == 32) .vecLength
    let f := narrowFormat t.toNat
    let (scale, elements, flags) := Quant.block f ((List.range 32).map fun i => FloatFormat.f32.read (s.laneNat a i))
    let w := if t = 7 then 4 else 8
    let per := 32 / w
    s.withFlags flags fun s => s.setLanes d fun i =>
      some (BitVec.ofNat 32 (if i < w then packBits w ((elements.drop (per * i)).take per) else if i = w then scale else 0))

/-! ### Integer arithmetic (R148) -/

/-- A result delivered at a width, wrapped or saturated (R49). -/
def deliver (n : Nat) (sat : Bool) (x : Int) : Nat := (BitVec.ofInt n (if sat then saturate n x else x)).toNat

/-- Each n-bit value of a lane computed on its own. -/
def splitLane (n : Nat) (f : (x y d : Nat) → Nat) (a b d : Nat) : Nat :=
  packBits n ((List.range (32 / n)).map fun i => f (a / 2 ^ (n * i) % 2 ^ n) (b / 2 ^ (n * i) % 2 ^ n) (d / 2 ^ (n * i) % 2 ^ n))

/-- Width of the values of a type, and the width of the selected source value for types 6 and 7. -/
def intWidth (t : Nat) : Nat := match t with | 0 | 1 => 32 | 2 | 3 => 16 | 4 | 5 => 8 | _ => 32

/-- One lane of an integer word: `op` gets the width, the mode, and the values as n-bit patterns. -/
def integerLane (t : Nat) (sel : BitVec 4) (selb : Bool) (op : (n : Nat) → (sat : Bool) → (x y d : Nat) → Nat)
    (a b d : Lane) : Nat :=
  if t < 6 then splitLane (intWidth t) (op (intWidth t) (t % 2 == 1)) a.toNat b.toNat d.toNat
  else
    let n := if t = 6 then 8 else 4
    let wide (x : Lane) : Nat := (BitVec.ofInt 32 (signedOf n (pick sel x))).toNat
    op 32 false (wide a) (if selb then wide b else b.toNat) d.toNat

/-- A word of major 0x1B: no flag, no trap on values. -/
def integerWord (d a b : Reg) (t : BitVec 3) (sel : BitVec 4) (x : BitVec 1)
    (op : (n : Nat) → (sat : Bool) → (x y d : Nat) → Nat) (s : State) : Out :=
  vectorWord [d, a, b] s fun s =>
    .ok (s.setActive d fun i => integerLane t.toNat sel (x == 1) op (s.lane a i) (s.lane b i) (s.lane d i)).retire

/-- VIADD. -/
def execViadd (d a b : Reg) (t : BitVec 3) (sel : BitVec 4) (x : BitVec 1) (s : State) : Out :=
  integerWord d a b t sel x (fun n sat x y _ => deliver n sat (signedOf n x + signedOf n y)) s
/-- VISUB. -/
def execVisub (d a b : Reg) (t : BitVec 3) (sel : BitVec 4) (x : BitVec 1) (s : State) : Out :=
  integerWord d a b t sel x (fun n sat x y _ => deliver n sat (signedOf n x - signedOf n y)) s
/-- VIMUL. -/
def execVimul (d a b : Reg) (t : BitVec 3) (sel : BitVec 4) (x : BitVec 1) (s : State) : Out :=
  integerWord d a b t sel x (fun n sat x y _ => deliver n sat (signedOf n x * signedOf n y)) s
/-- VIMAC. -/
def execVimac (d a b : Reg) (t : BitVec 3) (sel : BitVec 4) (x : BitVec 1) (s : State) : Out :=
  integerWord d a b t sel x (fun n sat x y d => deliver n sat (signedOf n d + signedOf n x * signedOf n y)) s
/-- VSHL. -/
def execVshl (d a b : Reg) (t : BitVec 3) (sel : BitVec 4) (x : BitVec 1) (s : State) : Out :=
  integerWord d a b t sel x (fun n _ x y _ => x * 2 ^ (y % n) % 2 ^ n) s
/-- VSHR. -/
def execVshr (d a b : Reg) (t : BitVec 3) (sel : BitVec 4) (x : BitVec 1) (s : State) : Out :=
  integerWord d a b t sel x (fun n _ x y _ => x / 2 ^ (y % n)) s
/-- VSRA. -/
def execVsra (d a b : Reg) (t : BitVec 3) (sel : BitVec 4) (x : BitVec 1) (s : State) : Out :=
  integerWord d a b t sel x (fun n _ x y _ => deliver n false (signedOf n x / 2 ^ (y % n))) s

/-! ### Compare, select and logic (R149, R150) -/

/-- A predicate of VCMP on two lanes, with its flags (R149). -/
def compareLane (t : Nat) (a b : Lane) : Bool × Nat :=
  let x := FloatFormat.f32.read a.toNat
  let y := FloatFormat.f32.read b.toNat
  let un := x.isNan || y.isNan
  let c := FArith.compare x y
  match t with
  | 0 => (!un && c == 0, nvOf [x, y])
  | 1 => (!un && decide (c < 0), if un then flagNV else 0)
  | 2 => (!un && decide (c ≤ 0), if un then flagNV else 0)
  | 3 => (un, nvOf [x, y])
  | 4 => (a == b, 0)
  | 5 => (a.slt b, 0)
  | 6 => (a.ult b, 0)
  | _ => (a.sle b, 0)

/-- A mask from a test of each lane. -/
def maskOf (f : Nat → Bool) : BitVec 32 := BitVec.ofNat 32 (packBits 1 ((List.range 32).map fun i => if f i then 1 else 0))

/-- VCMP. -/
def execVcmp (k a b : Reg) (t : BitVec 3) (s : State) : Out :=
  vectorWord [a, b] s fun s =>
    let f (i : Nat) := compareLane t.toNat (s.lane a i) (s.lane b i)
    s.withFlags (s.activeLanes.foldl (fun acc i => acc ||| (f i).2) 0) fun s => s.setMask k.toNat (maskOf fun i => (f i).1)

/-- VSEL. -/
def execVsel (d a b : Reg) (n : BitVec 3) (s : State) : Out :=
  vectorWord [d, a, b] s fun s =>
    .ok (s.setActive d fun i => if (s.mask n.toNat).getLsbD i then s.laneNat a i else s.laneNat b i).retire

/-- A bitwise word. -/
def bitwiseWord (d a b : Reg) (f : Lane → Lane → Lane) (s : State) : Out :=
  vectorWord [d, a, b] s fun s => .ok (s.setActive d fun i => (f (s.lane a i) (s.lane b i)).toNat).retire

/-- VAND. -/
def execVand (d a b : Reg) (s : State) : Out := bitwiseWord d a b (· &&& ·) s
/-- VOR. -/
def execVor (d a b : Reg) (s : State) : Out := bitwiseWord d a b (· ||| ·) s
/-- VXOR. -/
def execVxor (d a b : Reg) (s : State) : Out := bitwiseWord d a b (· ^^^ ·) s

/-! ### Masks (R139, R151) -/

/-- KAND. -/
def execKand (d a b : Reg) (s : State) : Out :=
  vectorWord [] s fun s => .ok (s.setMask d.toNat (s.mask a.toNat &&& s.mask b.toNat)).retire
/-- KOR. -/
def execKor (d a b : Reg) (s : State) : Out :=
  vectorWord [] s fun s => .ok (s.setMask d.toNat (s.mask a.toNat ||| s.mask b.toNat)).retire
/-- KNOT. -/
def execKnot (d a : Reg) (s : State) : Out := vectorWord [] s fun s => .ok (s.setMask d.toNat (~~~(s.mask a.toNat))).retire
/-- KPOPC. -/
def execKpopc (d a : Reg) (s : State) : Out :=
  vectorWord [] s fun s =>
    .ok (s.setReg d (BitVec.ofNat 64 ((s.activeLanes.filter fun i => (s.mask a.toNat).getLsbD i).length))).retire

/-! ### The grant (R140) -/

/-- The strand with VREGS registers and VLEN lanes granted: registers beyond are lost, new ones read +0 (R138, R140). -/
def grantTo (u : Strand) (vregs vlen : Nat) : Strand :=
  { u with
    vregs := vregs
    vlen := vlen
    banks := Vector.ofFn fun b => if vregs ≤ 8 * b.val then .off else if u.banks[b] = .off then .active else u.banks[b]
    v := Vector.ofFn fun r => if r.val < vregs ∧ r.val < u.vregs then u.v[r.val] else Vector.replicate 32 0
    k := if u.vregs = 0 ∧ vregs ≠ 0 then Vector.replicate 8 0 else u.k }

/-- VGRANT. -/
def execVgrant (d a : Reg) (t : BitVec 3) (s : State) : Out :=
  s.plainWhere (t != 5 || a == 0) fun s => do
    s.needIdleSequencer
    if t = 5 then pure ((s.setU (grantTo s.u 0 0)).setReg d 0).retire
    else
      let vregs := if t = 0 then (if s.u.vregs = 0 then 8 else s.u.vregs) else 8 * t.toNat
      let vlen := Nat.min (s.reg a).toNat (maxLanes s.cur.1)
      pure ((s.setU (grantTo s.u vregs vlen)).setReg d (BitVec.ofNat 64 vlen)).retire

/-! ### Reductions (R152) -/

/-- One level of the tree: neighbours combined, a last odd one kept; values with flags. -/
def treeLevel (op : Nat → Nat → Nat × Nat) : List Nat → List Nat × Nat
  | x :: y :: rest =>
    let (z, f) := op x y
    let (zs, g) := treeLevel op rest
    (z :: zs, f ||| g)
  | xs => (xs, 0)

/-- The tree of R152 over at most `n` levels. -/
def tree (op : Nat → Nat → Nat × Nat) : (n : Nat) → List Nat → List Nat × Nat
  | 0, xs => (xs, 0)
  | n + 1, xs =>
    if xs.length ≤ 1 then (xs, 0)
    else
      let (ys, f) := treeLevel op xs
      let (zs, g) := tree op n ys
      (zs, f ||| g)

/-- A reduction: `float` for type 0, `signed` for type 1, `unsigned` for type 2, with the values for no lanes. -/
def reduceWord (d a : Reg) (t : BitVec 3) (float : Round → Nat → Nat → Nat × Nat) (int : (signed : Bool) → Nat → Nat → Nat)
    (empty : Nat × Nat × Nat) (s : State) : Out :=
  vectorWord [a] s fun s =>
    let xs := s.activeLanes.map fun i => s.laneNat a i
    let op := match t.toNat with
      | 0 => float s.rounding
      | 1 => fun x y => (int true x y, 0)
      | _ => fun x y => (int false x y, 0)
    let (r, flags) := tree op 6 xs
    let x := r.headD (match t.toNat with | 0 => empty.1 | 1 => empty.2.1 | _ => empty.2.2)
    s.withFlags flags fun s => s.setReg d (if t = 1 then sext 32 x else BitVec.ofNat 64 x)

/-- VREDADD. -/
def execVredadd (d a : Reg) (t : BitVec 3) (s : State) : Out :=
  reduceWord d a t (fun m x y => FArith.add .f32 m (FloatFormat.f32.read x) (FloatFormat.f32.read y))
    (fun _ x y => (x + y) % 2 ^ 32) (0, 0, 0) s
/-- VREDMAX. -/
def execVredmax (d a : Reg) (t : BitVec 3) (s : State) : Out :=
  reduceWord d a t (fun _ x y => FArith.minMax .f32 true x y)
    (fun sg x y => if sg then (if signedOf 32 x < signedOf 32 y then y else x) else Nat.max x y)
    (0xFF800000, 2 ^ 31, 0) s
/-- VREDMIN. -/
def execVredmin (d a : Reg) (t : BitVec 3) (s : State) : Out :=
  reduceWord d a t (fun _ x y => FArith.minMax .f32 false x y)
    (fun sg x y => if sg then (if signedOf 32 y < signedOf 32 x then y else x) else Nat.min x y)
    (0x7F800000, 2 ^ 31 - 1, 2 ^ 32 - 1) s

/-! ### Permutations (R153) -/

/-- VPERM. -/
def execVperm (d a b : Reg) (s : State) : Out :=
  vectorWord [d, a, b] s fun s =>
    .ok (s.setActive d fun i =>
      let j := s.laneNat b i % 32
      if j < s.u.vlen then s.laneNat a j else 0).retire

/-- VSLIDE. -/
def execVslide (d a r : Reg) (s : State) : Out :=
  vectorWord [d, a] s fun s =>
    .ok (s.setActive d fun i =>
      let j : Int := i + (s.reg r).toInt
      if 0 ≤ j ∧ j < s.u.vlen then s.laneNat a j.toNat else 0).retire

/-- VBCAST. -/
def execVbcast (d r : Reg) (s : State) : Out := vectorWord [d] s fun s => .ok (s.setActive d fun _ => s.reg32 r).retire

/-- VEXTR. -/
def execVextr (d a r : Reg) (s : State) : Out :=
  vectorWord [a] s fun s =>
    let j := (s.reg r).toNat % 32
    .ok (s.setReg d (BitVec.ofNat 64 (if j < s.u.vlen then s.laneNat a j else 0))).retire

/-- VINS. -/
def execVins (d w r : Reg) (s : State) : Out :=
  vectorWord [d] s fun s =>
    let j := (s.reg r).toNat % 32
    .ok (if j < s.u.vlen then s.setLanes d fun i => if i = j then some (BitVec.ofNat 32 (s.reg32 w)) else none else s).retire

end Sys2Proof.Machine
end

