-- ==== Sys2Proof/Machine/Dispatch.lean ====
section
/-! DEFINITION. The dispatcher: one arm per constructor of Instr, each a direct call of that instruction's meaning. -/

namespace Sys2Proof.Machine

/-- What an instruction or an event does. -/
def exec (i : Instr) (s : State) : Host.Outcome State Fault Refusal :=
  match i with
  | .srd d n => Sys2Proof.Machine.execSrd d n s
  | .swr a n => Sys2Proof.Machine.execSwr a n s
  | .trap c => Sys2Proof.Machine.execTrap c s
  | .eret => Sys2Proof.Machine.execEret s
  | .brk c => Sys2Proof.Machine.execBrk c s
  | .wfm m => Sys2Proof.Machine.execWfm m s
  | .exit => Sys2Proof.Machine.execExit s
  | .ckpt a c => Sys2Proof.Machine.execCkpt a c s
  | .tlbinv a k => Sys2Proof.Machine.execTlbinv a k s
  | .ctxsv sc a p => Sys2Proof.Machine.execCtxsv sc a p s
  | .ctxld sc a p => Sys2Proof.Machine.execCtxld sc a p s
  | .add d a b => Sys2Proof.Machine.execAdd d a b s
  | .sub d a b => Sys2Proof.Machine.execSub d a b s
  | .and d a b => Sys2Proof.Machine.execAnd d a b s
  | .or d a b => Sys2Proof.Machine.execOr d a b s
  | .xor d a b => Sys2Proof.Machine.execXor d a b s
  | .andn d a b => Sys2Proof.Machine.execAndn d a b s
  | .shl d a b => Sys2Proof.Machine.execShl d a b s
  | .shr d a b => Sys2Proof.Machine.execShr d a b s
  | .sra d a b => Sys2Proof.Machine.execSra d a b s
  | .rot d a b => Sys2Proof.Machine.execRot d a b s
  | .clz d a => Sys2Proof.Machine.execClz d a s
  | .ctz d a => Sys2Proof.Machine.execCtz d a s
  | .popc d a => Sys2Proof.Machine.execPopc d a s
  | .min d a b => Sys2Proof.Machine.execMin d a b s
  | .max d a b => Sys2Proof.Machine.execMax d a b s
  | .minu d a b => Sys2Proof.Machine.execMinu d a b s
  | .maxu d a b => Sys2Proof.Machine.execMaxu d a b s
  | .sel d a b => Sys2Proof.Machine.execSel d a b s
  | .cmpeq d a b => Sys2Proof.Machine.execCmpeq d a b s
  | .cmplt d a b => Sys2Proof.Machine.execCmplt d a b s
  | .cmpltu d a b => Sys2Proof.Machine.execCmpltu d a b s
  | .addi d a im => Sys2Proof.Machine.execAddi d a im s
  | .andi d a im => Sys2Proof.Machine.execAndi d a im s
  | .ori d a im => Sys2Proof.Machine.execOri d a im s
  | .xori d a im => Sys2Proof.Machine.execXori d a im s
  | .shli d a sc => Sys2Proof.Machine.execShli d a sc s
  | .shri d a sc => Sys2Proof.Machine.execShri d a sc s
  | .srai d a sc => Sys2Proof.Machine.execSrai d a sc s
  | .cmpeqi d a im => Sys2Proof.Machine.execCmpeqi d a im s
  | .cmplti d a im => Sys2Proof.Machine.execCmplti d a im s
  | .movhi d im => Sys2Proof.Machine.execMovhi d im s
  | .addpc d im => Sys2Proof.Machine.execAddpc d im s
  | .mul d a b => Sys2Proof.Machine.execMul d a b s
  | .mulh d a b => Sys2Proof.Machine.execMulh d a b s
  | .mulhu d a b => Sys2Proof.Machine.execMulhu d a b s
  | .div d a b => Sys2Proof.Machine.execDiv d a b s
  | .divu d a b => Sys2Proof.Machine.execDivu d a b s
  | .rem d a b => Sys2Proof.Machine.execRem d a b s
  | .remu d a b => Sys2Proof.Machine.execRemu d a b s
  | .fadd d a b => Sys2Proof.Machine.execFadd d a b s
  | .fsub d a b => Sys2Proof.Machine.execFsub d a b s
  | .fmul d a b => Sys2Proof.Machine.execFmul d a b s
  | .ffma d a b => Sys2Proof.Machine.execFfma d a b s
  | .fdiv d a b => Sys2Proof.Machine.execFdiv d a b s
  | .fsqrt d a => Sys2Proof.Machine.execFsqrt d a s
  | .fmin d a b => Sys2Proof.Machine.execFmin d a b s
  | .fmax d a b => Sys2Proof.Machine.execFmax d a b s
  | .fcmp d a b p => Sys2Proof.Machine.execFcmp d a b p s
  | .fcvtif d a m => Sys2Proof.Machine.execFcvtif d a m s
  | .fcvtfi d a m => Sys2Proof.Machine.execFcvtfi d a m s
  | .beq a b o => Sys2Proof.Machine.execBeq a b o s
  | .bne a b o => Sys2Proof.Machine.execBne a b o s
  | .jl sc o => Sys2Proof.Machine.execJl sc o s
  | .blt a b o => Sys2Proof.Machine.execBlt a b o s
  | .bge a b o => Sys2Proof.Machine.execBge a b o s
  | .bltu a b o => Sys2Proof.Machine.execBltu a b o s
  | .bgeu a b o => Sys2Proof.Machine.execBgeu a b o s
  | .jr a => Sys2Proof.Machine.execJr a s
  | .callr a => Sys2Proof.Machine.execCallr a s
  | .ret => Sys2Proof.Machine.execRet s
  | .j o => Sys2Proof.Machine.execJ o s
  | .call o => Sys2Proof.Machine.execCall o s
  | .ldb d a o => Sys2Proof.Machine.execLdb d a o s
  | .ldbu d a o => Sys2Proof.Machine.execLdbu d a o s
  | .ldh d a o => Sys2Proof.Machine.execLdh d a o s
  | .ldhu d a o => Sys2Proof.Machine.execLdhu d a o s
  | .ldw d a o => Sys2Proof.Machine.execLdw d a o s
  | .ldwu d a o => Sys2Proof.Machine.execLdwu d a o s
  | .ldd d a o => Sys2Proof.Machine.execLdd d a o s
  | .stb sc a o => Sys2Proof.Machine.execStb sc a o s
  | .sth sc a o => Sys2Proof.Machine.execSth sc a o s
  | .stw sc a o => Sys2Proof.Machine.execStw sc a o s
  | .std sc a o => Sys2Proof.Machine.execStd sc a o s
  | .amoadd d a b w => Sys2Proof.Machine.execAmoadd d a b w s
  | .amoand d a b w => Sys2Proof.Machine.execAmoand d a b w s
  | .amoor d a b w => Sys2Proof.Machine.execAmoor d a b w s
  | .amoxor d a b w => Sys2Proof.Machine.execAmoxor d a b w s
  | .amomin d a b w => Sys2Proof.Machine.execAmomin d a b w s
  | .amomax d a b w => Sys2Proof.Machine.execAmomax d a b w s
  | .amominu d a b w => Sys2Proof.Machine.execAmominu d a b w s
  | .amomaxu d a b w => Sys2Proof.Machine.execAmomaxu d a b w s
  | .amoswp d a b w => Sys2Proof.Machine.execAmoswp d a b w s
  | .amocas d a b w => Sys2Proof.Machine.execAmocas d a b w s
  | .amofadd d a b => Sys2Proof.Machine.execAmofadd d a b s
  | .fence sc c => Sys2Proof.Machine.execFence sc c s
  | .waita d a b w => Sys2Proof.Machine.execWaita d a b w s
  | .flushr c a b => Sys2Proof.Machine.execFlushr c a b s
  | .invr c a b => Sys2Proof.Machine.execInvr c a b s
  | .pref a im => Sys2Proof.Machine.execPref a im s
  | .vld d a m k => Sys2Proof.Machine.execVld d a m k s
  | .vst d a m k => Sys2Proof.Machine.execVst d a m k s
  | .vlds d a sc m k => Sys2Proof.Machine.execVlds d a sc m k s
  | .vsts d a sc m k => Sys2Proof.Machine.execVsts d a sc m k s
  | .vgath d a b m k => Sys2Proof.Machine.execVgath d a b m k s
  | .vscat d a b m k => Sys2Proof.Machine.execVscat d a b m k s
  | .mod u p e sc c => Sys2Proof.Machine.execMod u p e sc c s
  | .ext e => Sys2Proof.Machine.execExt e s
  | .vadd d a b t sc x => Sys2Proof.Machine.execVadd d a b t sc x s
  | .vsub d a b t sc x => Sys2Proof.Machine.execVsub d a b t sc x s
  | .vmul d a b t sc x => Sys2Proof.Machine.execVmul d a b t sc x s
  | .vfma d a b t sc x => Sys2Proof.Machine.execVfma d a b t sc x s
  | .vmin d a b t sc x => Sys2Proof.Machine.execVmin d a b t sc x s
  | .vmax d a b t sc x => Sys2Proof.Machine.execVmax d a b t sc x s
  | .vabs d a t sc => Sys2Proof.Machine.execVabs d a t sc s
  | .vneg d a t sc => Sys2Proof.Machine.execVneg d a t sc s
  | .vrcp d a => Sys2Proof.Machine.execVrcp d a s
  | .vrsq d a => Sys2Proof.Machine.execVrsq d a s
  | .vexp2 d a => Sys2Proof.Machine.execVexp2 d a s
  | .vlog2 d a => Sys2Proof.Machine.execVlog2 d a s
  | .vcvt d a t => Sys2Proof.Machine.execVcvt d a t s
  | .vpack d a b t sc => Sys2Proof.Machine.execVpack d a b t sc s
  | .vunpack d a t sc => Sys2Proof.Machine.execVunpack d a t sc s
  | .vqnt d a t => Sys2Proof.Machine.execVqnt d a t s
  | .viadd d a b t sc x => Sys2Proof.Machine.execViadd d a b t sc x s
  | .visub d a b t sc x => Sys2Proof.Machine.execVisub d a b t sc x s
  | .vimul d a b t sc x => Sys2Proof.Machine.execVimul d a b t sc x s
  | .vimac d a b t sc x => Sys2Proof.Machine.execVimac d a b t sc x s
  | .vshl d a b t sc x => Sys2Proof.Machine.execVshl d a b t sc x s
  | .vshr d a b t sc x => Sys2Proof.Machine.execVshr d a b t sc x s
  | .vsra d a b t sc x => Sys2Proof.Machine.execVsra d a b t sc x s
  | .vcmp k a b t => Sys2Proof.Machine.execVcmp k a b t s
  | .vsel d a b n => Sys2Proof.Machine.execVsel d a b n s
  | .vand d a b => Sys2Proof.Machine.execVand d a b s
  | .vor d a b => Sys2Proof.Machine.execVor d a b s
  | .vxor d a b => Sys2Proof.Machine.execVxor d a b s
  | .kand d a b => Sys2Proof.Machine.execKand d a b s
  | .kor d a b => Sys2Proof.Machine.execKor d a b s
  | .knot d a => Sys2Proof.Machine.execKnot d a s
  | .kpopc d a => Sys2Proof.Machine.execKpopc d a s
  | .vgrant d a t => Sys2Proof.Machine.execVgrant d a t s
  | .vredadd d a t => Sys2Proof.Machine.execVredadd d a t s
  | .vredmax d a t => Sys2Proof.Machine.execVredmax d a t s
  | .vredmin d a t => Sys2Proof.Machine.execVredmin d a t s
  | .vperm d a b => Sys2Proof.Machine.execVperm d a b s
  | .vslide d a sc => Sys2Proof.Machine.execVslide d a sc s
  | .vbcast d sc => Sys2Proof.Machine.execVbcast d sc s
  | .vextr d a sc => Sys2Proof.Machine.execVextr d a sc s
  | .vins d w sc => Sys2Proof.Machine.execVins d w sc s
  | .nput a n o => Sys2Proof.Machine.execNput a n o s
  | .nget d n => Sys2Proof.Machine.execNget d n s
  | .ntry d n => Sys2Proof.Machine.execNtry d n s
  | .ntryPut d a n o => Sys2Proof.Machine.execNtryPut d a n o s
  | .nclr n => Sys2Proof.Machine.execNclr n s
  | .cmps k => Sys2Proof.Machine.execCmps k s
  | .dcmp => Sys2Proof.Machine.execDcmp s
  | .mgang e => Sys2Proof.Machine.execMgang e s
  | .mwait m => Sys2Proof.Machine.execMwait m s
  | .mzero p m => Sys2Proof.Machine.execMzero p m s
  | .mmov v a p d h r => Sys2Proof.Machine.execMmov v a p d h r s
  | .mlda d a b g h l => Sys2Proof.Machine.execMlda d a b g h l s
  | .mldb d a b l => Sys2Proof.Machine.execMldb d a b l s
  | .mstd d a b p l => Sys2Proof.Machine.execMstd d a b p l s
  | .mma d a g h z f => Sys2Proof.Machine.execMma d a g h z f s
  | .mcb d a g h z sc => Sys2Proof.Machine.execMcb d a g h z sc s
  | .mmx a g h f p => Sys2Proof.Machine.execMmx a g h f p s
  | .msca d a g h f p => Sys2Proof.Machine.execMsca d a g h f p s
  | .qpush a q o => Sys2Proof.Machine.execQpush a q o s
  | .qpop d q => Sys2Proof.Machine.execQpop d q s
  | .qpopAq d n => Sys2Proof.Machine.execQpopAq d n s
  | .qtry d q => Sys2Proof.Machine.execQtry d q s
  | .qtryAq d n => Sys2Proof.Machine.execQtryAq d n s
  | .qputt d a q o => Sys2Proof.Machine.execQputt d a q o s
  | .qdepth d q => Sys2Proof.Machine.execQdepth d q s
  | .qdepthAq d n => Sys2Proof.Machine.execQdepthAq d n s
  | .send a b => Sys2Proof.Machine.execSend a b s
  | .sendt d a b => Sys2Proof.Machine.execSendt d a b s
  | .recv d n => Sys2Proof.Machine.execRecv d n s
  | .recvt d n => Sys2Proof.Machine.execRecvt d n s
  | .hret => Sys2Proof.Machine.execHret s
  | .gust a => Sys2Proof.Machine.execGust a s
  | .gspawn a => Sys2Proof.Machine.execGspawn a s
  | .repb n => Sys2Proof.Machine.execRepb n s
  | .repe a sc => Sys2Proof.Machine.execRepe a sc s
  | .repwait => Sys2Proof.Machine.execRepwait s
  | .cpy d a b c sc e => Sys2Proof.Machine.execCpy d a b c sc e s
  | .cpy2d d a b c sc e => Sys2Proof.Machine.execCpy2d d a b c sc e s
  | .cpyn d a b c sc e => Sys2Proof.Machine.execCpyn d a b c sc e s
  | .batch c => Sys2Proof.Machine.execBatch c s
  | .coll d a b c => Sys2Proof.Machine.execColl d a b c s
  | .hashc d a b m => Sys2Proof.Machine.execHashc d a b m s
  | .signc d a o => Sys2Proof.Machine.execSignc d a o s
  | .rndg d => Sys2Proof.Machine.execRndg d s
  | .tlwait a t => Sys2Proof.Machine.execTlwait a t s
  | .tlwaitb n t => Sys2Proof.Machine.execTlwaitb n t s
  | .tlread d im t => Sys2Proof.Machine.execTlread d im t s
  | .cntwait d a b => Sys2Proof.Machine.execCntwait d a b s
  | .cancel a l => Sys2Proof.Machine.execCancel a l s
  | .phadv d => Sys2Proof.Machine.execPhadv d s
  | .phread d a => Sys2Proof.Machine.execPhread d a s
  | .pcnt d a b f => Sys2Proof.Machine.execPcnt d a b f s
  | .launch d a => Sys2Proof.Machine.execLaunch d a s
  | .cbload a sc => Sys2Proof.Machine.execCbload a sc s
  | .htset a b => Sys2Proof.Machine.execHtset a b s
  | .epreq d a f => Sys2Proof.Machine.execEpreq d a f s
  | .ownset a b => Sys2Proof.Machine.execOwnset a b s
  | .cmap d a b h f => Sys2Proof.Machine.execCmap d a b h f s
  | .urtset a b => Sys2Proof.Machine.execUrtset a b s
  | .schset a b f => Sys2Proof.Machine.execSchset a b f s
  | .seqnew d => Sys2Proof.Machine.execSeqnew d s
  | .seqend a => Sys2Proof.Machine.execSeqend a s
  | .mext a b x n => Sys2Proof.Machine.execMext a b x n s
  | .halign r im => Sys2Proof.Machine.execHalign r im s
  | .hpref a im => Sys2Proof.Machine.execHpref a im s
  | .hevict r im => Sys2Proof.Machine.execHevict r im s
  | .hprio r im => Sys2Proof.Machine.execHprio r im s
  | .hlikely r im => Sys2Proof.Machine.execHlikely r im s
  | .notAnInstructionWord w => Sys2Proof.Machine.execNotAnInstructionWord w s
  | .asyncCauseTaken => Sys2Proof.Machine.execAsyncCauseTaken s
  | .waitSatisfied => Sys2Proof.Machine.execWaitSatisfied s
  | .faultReply => Sys2Proof.Machine.execFaultReply s
  | .slotFill => Sys2Proof.Machine.execSlotFill s
  | .gale => Sys2Proof.Machine.execGale s
  | .messageArrival => Sys2Proof.Machine.execMessageArrival s
  | .gustArrival => Sys2Proof.Machine.execGustArrival s
  | .linkLanding => Sys2Proof.Machine.execLinkLanding s
  | .queuePushLanding => Sys2Proof.Machine.execQueuePushLanding s
  | .claspRelease => Sys2Proof.Machine.execClaspRelease s
  | .gangTimeout => Sys2Proof.Machine.execGangTimeout s
  | .halignTimeout => Sys2Proof.Machine.execHalignTimeout s
  | .matrixZeroingDone => Sys2Proof.Machine.execMatrixZeroingDone s
  | .matrixOpComplete => Sys2Proof.Machine.execMatrixOpComplete s
  | .dataStageComplete => Sys2Proof.Machine.execDataStageComplete s
  | .lockstepMismatch => Sys2Proof.Machine.execLockstepMismatch s
  | .bankRetention => Sys2Proof.Machine.execBankRetention s
  | .copyCommandComplete => Sys2Proof.Machine.execCopyCommandComplete s
  | .collComplete => Sys2Proof.Machine.execCollComplete s
  | .bezelEngineComplete => Sys2Proof.Machine.execBezelEngineComplete s
  | .rangeWalkComplete => Sys2Proof.Machine.execRangeWalkComplete s
  | .instanceCompletion => Sys2Proof.Machine.execInstanceCompletion s
  | .nodeDispatch => Sys2Proof.Machine.execNodeDispatch s
  | .tailWatch => Sys2Proof.Machine.execTailWatch s
  | .nopCommand => Sys2Proof.Machine.execNopCommand s
  | .launchCommand => Sys2Proof.Machine.execLaunchCommand s
  | .graph => Sys2Proof.Machine.execGraph s
  | .waitcnt => Sys2Proof.Machine.execWaitcnt s
  | .signal => Sys2Proof.Machine.execSignal s
  | .phaseCommand => Sys2Proof.Machine.execPhaseCommand s
  | .cancelCommand => Sys2Proof.Machine.execCancelCommand s
  | .tick => Sys2Proof.Machine.execTick s
  | .preempt => Sys2Proof.Machine.execPreempt s
  | .gphasePublish => Sys2Proof.Machine.execGphasePublish s
  | .drds => Sys2Proof.Machine.execDrds s
  | .drdx => Sys2Proof.Machine.execDrdx s
  | .dupg => Sys2Proof.Machine.execDupg s
  | .dwb => Sys2Proof.Machine.execDwb s
  | .devict => Sys2Proof.Machine.execDevict s
  | .dfwds => Sys2Proof.Machine.execDfwds s
  | .dfwdx => Sys2Proof.Machine.execDfwdx s
  | .dinv => Sys2Proof.Machine.execDinv s
  | .drsp => Sys2Proof.Machine.execDrsp s
  | .dcomp => Sys2Proof.Machine.execDcomp s
  | .ddone => Sys2Proof.Machine.execDdone s
  | .ddata => Sys2Proof.Machine.execDdata s
  | .snpShared => Sys2Proof.Machine.execSnpShared s
  | .snpInv => Sys2Proof.Machine.execSnpInv s
  | .inval => Sys2Proof.Machine.execInval s
  | .shootdownComplete => Sys2Proof.Machine.execShootdownComplete s
  | .wbAck => Sys2Proof.Machine.execWbAck s
  | .cmp => Sys2Proof.Machine.execCmp s
  | .atomicRsp => Sys2Proof.Machine.execAtomicRsp s
  | .data => Sys2Proof.Machine.execData s
  | .hostlinkFail => Sys2Proof.Machine.execHostlinkFail s
  | .hostModuleFailover => Sys2Proof.Machine.execHostModuleFailover s
  | .d2dFail => Sys2Proof.Machine.execD2dFail s
  | .meshUe => Sys2Proof.Machine.execMeshUe s
  | .sramUe => Sys2Proof.Machine.execSramUe s
  | .accUe => Sys2Proof.Machine.execAccUe s
  | .paccUe => Sys2Proof.Machine.execPaccUe s
  | .wbufUe => Sys2Proof.Machine.execWbufUe s
  | .abufParity => Sys2Proof.Machine.execAbufParity s
  | .cbParity => Sys2Proof.Machine.execCbParity s
  | .rowBusCrc => Sys2Proof.Machine.execRowBusCrc s
  | .claspFault => Sys2Proof.Machine.execClaspFault s
  | .regParity => Sys2Proof.Machine.execRegParity s
  | .rowSwitch => Sys2Proof.Machine.execRowSwitch s
  | .keySweepComplete => Sys2Proof.Machine.execKeySweepComplete s
  | .register => Sys2Proof.Machine.execRegister s
  | .teardown => Sys2Proof.Machine.execTeardown s
  | .freeze => Sys2Proof.Machine.execFreeze s
  | .drainComplete => Sys2Proof.Machine.execDrainComplete s
  | .resume => Sys2Proof.Machine.execResume s
  | .spanRegion => Sys2Proof.Machine.execSpanRegion s
  | .fwUpdate => Sys2Proof.Machine.execFwUpdate s
  | .spanJoin => Sys2Proof.Machine.execSpanJoin s
  | .faultq => Sys2Proof.Machine.execFaultq s
  | .sidebandRegisterWrite => Sys2Proof.Machine.execSidebandRegisterWrite s
  | .powerOn => Sys2Proof.Machine.execPowerOn s
  | .reset => Sys2Proof.Machine.execReset s
  | .powerOff => Sys2Proof.Machine.execPowerOff s
  | .powerMeasure => Sys2Proof.Machine.execPowerMeasure s
  | .thermalTrip => Sys2Proof.Machine.execThermalTrip s
  | .rowGate => Sys2Proof.Machine.execRowGate s
  | .dieRetentionEntry => Sys2Proof.Machine.execDieRetentionEntry s
  | .dieRetentionExit => Sys2Proof.Machine.execDieRetentionExit s
  | .alarm => Sys2Proof.Machine.execAlarm s
  | .getVersion => Sys2Proof.Machine.execGetVersion s
  | .getCapabilities => Sys2Proof.Machine.execGetCapabilities s
  | .negotiateAlgorithms => Sys2Proof.Machine.execNegotiateAlgorithms s
  | .getDigests => Sys2Proof.Machine.execGetDigests s
  | .getCertificate => Sys2Proof.Machine.execGetCertificate s
  | .challenge => Sys2Proof.Machine.execChallenge s
  | .getMeasurements => Sys2Proof.Machine.execGetMeasurements s
  | .keyExchange => Sys2Proof.Machine.execKeyExchange s
  | .finish => Sys2Proof.Machine.execFinish s
  | .endSession => Sys2Proof.Machine.execEndSession s
  | .lockInterface => Sys2Proof.Machine.execLockInterface s
  | .channelOpen => Sys2Proof.Machine.execChannelOpen s
  | .channelRecord => Sys2Proof.Machine.execChannelRecord s
  | .idcode => Sys2Proof.Machine.execIdcode s
  | .auth => Sys2Proof.Machine.execAuth s
  | .dbgReq => Sys2Proof.Machine.execDbgReq s
  | .frostEnter => Sys2Proof.Machine.execFrostEnter s
  | .scanSelect => Sys2Proof.Machine.execScanSelect s
  | .scanRead => Sys2Proof.Machine.execScanRead s
  | .bypass => Sys2Proof.Machine.execBypass s
  | .spanFlit => Sys2Proof.Machine.execSpanFlit s
  | .spanRetrain => Sys2Proof.Machine.execSpanRetrain s
  | .pageReq => Sys2Proof.Machine.execPageReq s
  | .spanAtomic => Sys2Proof.Machine.execSpanAtomic s
  | .spanLinkTimeout => Sys2Proof.Machine.execSpanLinkTimeout s
  | .hostErrorAnswer => Sys2Proof.Machine.execHostErrorAnswer s
  | .hostProtocolError => Sys2Proof.Machine.execHostProtocolError s
  | .unknownManagementOp => Sys2Proof.Machine.execUnknownManagementOp s
  | .unsupportedRequest => Sys2Proof.Machine.execUnsupportedRequest s
  | .spanLinkRecovered => Sys2Proof.Machine.execSpanLinkRecovered s
  | .correctedError => Sys2Proof.Machine.execCorrectedError s

end Sys2Proof.Machine
end

