-- ==== Sys2Proof/Machine/Kernel.lean ====
section
/-!
DEFINITION. The services of the Zasen micro-kernel that the manual describes, performed by the model where `native` holds (log 5): the
window traps (R104, R105), translation faults (R213 to R216), cancellation (R349), the errors of R372, the halts of R373 and R411, and
the reset of a core after a DOUBLE_TRAP (R368). A cause without a described service leaves the code at TVEC to run.
-/

namespace Sys2Proof.Machine

namespace State

/-! ### Window traps (R104, R105) -/

/-- The unit of a strand cancelled alone for a reason of its own (R349). -/
def cancelAlone (s : State) (c i : Nat) (cause : Cause) : State :=
  (s.recordReason (s.strandAt c i).job 7 cause none).endCancelled c i

/-- The fault record of a strand posted, and the strand waiting on it; or, at the fourth repeat, back at its boundary with its job
cancelled (R213, R215). Only the last fault of a strand is remembered: one that recurs after another fault of its instruction came between
is a first fault again (DESIGN CHOICE: R215 does not say whether such a fault breaks the count; log 61). -/
def postFault (s : State) (c i : Nat) (cause : Cause) (va : Word) (flags : Nat) : State :=
  let x := s.slotAt c i
  match x.u.job with
  | none => s.setSlotAt c i { x with service := none }
  | some q =>
    let prev := match x.u.lastFault with
      | some (pc, step, r) => if pc = x.epc ∧ step = x.eprog then some r else none
      | none => none
    let r : FaultRecord :=
      { claim := 0, written := false, va, asn := (s.ctxOf (some q)).asn, core := c, slot := i, cause := cause.code, flags, job := q
        generation := 0 }
    match s.postRepeat prev r with
    | (some r, s) => s.setSlotAt c i { s.slotAt c i with status := .waiting .reply, service := none, fault := some r }
    | (none, s) => s.as c i returnFromTrap

/-- A miss of the micro-kernel in the served strand's spill area, served as any fault of the strand (R104). -/
def spillFault (s : State) (c i : Nat) (writes : Bool) (m : Miss × Word) : State :=
  match m.1 with
  | .fault cause _ _ _ => s.postFault c i cause m.2 (if writes then 1 else 0)
  | _ => s

/-- WIN_OVERFLOW served: the oldest resident frame goes to the record below WSP. -/
def serveOverflow (s : State) (c i : Nat) : State :=
  let u := s.strandAt c i
  if u.wsp = 0 ∨ u.wsp.toNat % 16 ≠ 0 ∨ 65535 ≤ u.wspilled then s.cancelAlone c i .winOverflow
  else match u.frames.getLast? with
    | none => s.as c i returnFromTrap
    | some f =>
      let at0 := u.wsp - 144
      match s.jobStore u.job c i at0 (Record.frame f) with
      | (.error m, s) => s.spillFault c i true m
      | (.ok _, s) =>
        let s := s.setStrandAt c i { s.strandAt c i with wsp := at0, frames := u.frames.dropLast, wspilled := u.wspilled + 1 }
        s.as c i returnFromTrap

/-- WIN_UNDERFLOW served: the record at WSP becomes the oldest resident frame. A WSP that is zero or misaligned is used as it is
(DESIGN CHOICE: R104 speaks of such a WSP at WIN_OVERFLOW alone; log 5). -/
def serveUnderflow (s : State) (c i : Nat) : State :=
  let u := s.strandAt c i
  match s.jobLoad u.job c i u.wsp 144 with
  | (.error m, s) => s.spillFault c i false m
  | (.ok bs, s) =>
    let s := s.setStrandAt c i { s.strandAt c i with
      wsp := u.wsp + 144, frames := u.frames ++ [Record.readFrame bs], wspilled := u.wspilled - 1 }
    s.as c i returnFromTrap

/-! ### Errors (R372) -/

/-- The unit that a matrix error of a core concerns: its matrix owner's, or the served strand's. -/
def matrixVictim (s : State) (c i : Nat) : Nat × Nat :=
  match (s.core c).owner with
  | some (k, unit) => if (s.strandAt c k).unit == unit then (c, k) else (c, i)
  | none => (c, i)

/-- A matrix error served: the unit is cancelled at level 2 (R372). -/
def serveUnitError (s : State) (c i : Nat) (victim : Nat × Nat) (cause : Cause) : State :=
  (s.cancelUnitFor victim.1 victim.2 cause).as c i returnFromTrap

/-- REG_PARITY served: the units of the failed files that are still in their slots are cancelled at level 2 (R372). -/
def serveParity (s : State) (c i : Nat) : State :=
  let t := (s.core c).parity.foldl (fun s (j, unit) =>
    if (s.strandAt c j).unit == unit then s.cancelUnitFor c j .regParity else s) s
  (t.setCore c { t.core c with parity := [] }).as c i returnFromTrap

/-- A reason that cancels the job of the strand, or of the core (R279). -/
def serveJobError (s : State) (c i : Nat) (cause : Cause) : State :=
  let job := match (s.strandAt c i).job with | some j => some j | none => (s.core c).job
  let s := match job with | some j => s.cancelJobFor j cause | none => s
  s.as c i returnFromTrap

/-- Whether a cached translation maps a line of platform memory. -/
def mapsLine (line : Nat) (t : TlbEntry) : Bool :=
  ppn t.leaf * 4096 / 2 ^ reachBits t.leaf t.level == line * 128 / 2 ^ reachBits t.leaf t.level

/-- The job that owns a line of platform memory in a core's caches: the one to whose key slot the line belongs, else one in whose address
space a translation of the part maps it, else the core's (DEDUCED: the spec names the owner of the data and not how it is found; log 5). -/
def lineOwner (s : State) (c line : Nat) : Option Nat :=
  let asns := ((s.cores.flatMap fun (_, k) => k.tlb) ++ s.dies.flatMap fun (_, d) => d.l2tlb.map (·.2)).filterMap fun t =>
    if mapsLine line t then t.asn else none
  let slot := (s.l2Line (dieOf c) line).slot
  let sealedBy := if slot = 0 then none else (s.keySlot slot).bound
  let mapped := (s.jobs.find? fun (_, j) => asns.contains j.asn).map (·.1)
  (sealedBy.orElse fun _ => mapped).orElse fun _ => (s.core c).job

/-- The jobs that an SRAM_UE of a core cancels: every job of the core for an I-store or a TLB, else the owner of the data (R372). -/
def sramVictims (s : State) (c array : Nat) (a : Word) : List Nat :=
  if array = 2 ∨ array = 4 then
    (((s.core c).job.toList) ++ (List.range (slotCount c)).filterMap fun i => (s.strandAt c i).job).eraseDups
  else if array = 0 then (s.core c).job.toList
  else (s.lineOwner c (lineOf a.toNat)).toList

/-- SRAM_UE served: its victims are cancelled at level 5 (R372). -/
def serveSram (s : State) (c i : Nat) : State :=
  let x := s.slotAt c i
  let victims := s.sramVictims c (bits x.ecause 18 16) x.eaddr
  (victims.foldl (fun s q => s.cancelJobFor q .sramUe) s).as c i returnFromTrap

/-! ### Halts (R373, R411) -/

/-- A strand halted at its boundary, its engines held (R318, R364). -/
def serveHalt (s : State) (c i : Nat) (h : Halt) : State :=
  let s := s.as c i returnFromTrap
  let s := s.setSlotAt c i { s.slotAt c i with status := .halted h }
  match h with | .preempt => s.holdEngines c i | .freeze => s.holdEngines c i | _ => s

/-- A freeze of a job that has been cancelled meanwhile ends with status 2 (R218). -/
def abandonFreeze (s : State) (q : Nat) : State :=
  match s.request, AMap.get? s.jobs q with
  | some bs, some j => if s.freezing q && j.cancelled then ((s.writeResult (field bs 32 63 0) 2 0 0).thaw q).requestDone else s
  | _, _ => s

/-- FREEZE served. -/
def serveFreeze (s : State) (c i : Nat) : State :=
  let job := (s.strandAt c i).job
  let s := s.serveHalt c i .freeze
  match job with | some q => s.abandonFreeze q | none => s

/-- The oldest unbound message on AQ0 taken and served (R214). -/
def takeSystemMessage (s : State) (c : Nat) : State :=
  let k := s.core c
  match k.aq[0].find? fun m => !bound k 0 m with
  | some m => (s.setCore c { k with aq := k.aq.set 0 (k.aq[0].erase m) }).serveMessage m
  | none => s

/-- A strand halted for debug (R411). -/
def haltDebug (s : State) (c i : Nat) : State := s.setSlotAt c i { s.slotAt c i with status := .halted .debug }

/-! ### The service of a cause -/

/-- What the micro-kernel does with a trap that it has just entered on a slot. -/
def serve (s : State) (c i : Nat) : State :=
  let x := s.slotAt c i
  let back (s : State) : State := s.as c i returnFromTrap
  let precise := bit x.ecause 8
  match x.service with
  | none => s
  | some cause => match cause with
    | .winOverflow => s.serveOverflow c i
    | .winUnderflow => s.serveUnderflow c i
    | .retEmpty => s.cancelAlone c i .retEmpty
    | .pfAddress | .pfNotValid | .pfEntry | .pfUser | .pfRead | .pfWrite | .pfKey =>
      s.postFault c i cause x.eaddr (bits x.ecause 17 16 + 8)
    | .cancel => s.endCancelled c i
    | .preempt => s.serveHalt c i .preempt
    | .freeze => s.serveFreeze c i
    | .debugHalt => s.serveHalt c i .debug
    | .singleStep => (back (s.setSlotAt c i { x with step := false })).haltDebug c i
    | .watch => (back s).haltDebug c i
    | .utAlias => s.serveJobError c i .utAlias
    | .sramUe => s.serveSram c i
    | .accUe | .paccUe | .wbufUe | .abufParity | .cbParity | .rowBusCrc | .claspFault =>
      s.serveUnitError c i (s.matrixVictim c i) cause
    | .regParity => s.serveParity c i
    | .sysMessage => back (s.takeSystemMessage c)
    | .msgBounce => back (s.resendBounced fun q => !(q.bind fun n => AMap.get? s.jobs n).any (·.frozen))
    | .lockArea | .meshUe | .tailWatch | .aq0Overflow | .spanDown | .queueFault | .rowSwitch | .tick | .fwUpdate | .alarm
    | .d2dFail | .hostlinkFail => back s
    | .keyDead | .busError | .collMismatch | .mailboxFault | .grantStale =>
      if precise then s.setSlotAt c i { x with service := none } else back s
    | .illZeroWord | .illOnesWord | .illReservedMajor | .illFunction | .illPrefix | .illPriv | .badTarget | .trapCall | .breakpoint
    | .handlerBlock | .strandKind | .vecUngranted | .vecLength | .composeState | .ctxState | .repBody | .misaligned | .localRange
    | .peerRange | .istoreRange | .memAttr | .xlateStuck | .fpException | .launchArg | .engineArg | .engineOwner | .timelineArg
    | .counterRange | .tableArg | .tableFull | .queueFormat | .imageFormat | .imageLevel | .imageFit | .imageSeal | .imageMemory
    | .fwImage | .msgFormat | .handleDenied | .queueGone | .linkGone | .gustOwner | .matOwner | .matOperand | .gangMismatch
    | .gangState | .gangTimeout | .lockMismatch | .repState | .xlateRefused | .doubleTrap =>
      s.setSlotAt c i { x with service := none }

/-! ### DOUBLE_TRAP (R368) -/

/-- The Bezel's reset of a core that a DOUBLE_TRAP has halted: every job that held a slot of it is cancelled, the strands end, the core is
reset as by an SPSIZE write. -/
def resetDoubled (s : State) (c : Nat) : State :=
  let held := (List.range (slotCount c)).filter fun i => (s.slotAt c i).status != .free
  let jobs := (held.filterMap fun i => (s.strandAt c i).job).eraseDups
  let s := jobs.foldl (fun s q => s.cancelJobFor q .doubleTrap) s
  let s := held.foldl (fun s i => s.endCancelled c i) s
  let s := s.resplit c (s.core c).sp
  s.setCore c { s.core c with doubled := false }

end State

end Sys2Proof.Machine
end

