-- ==== Sys2Proof/Machine/Choice.lean ====
section
/-!
DEFINITION. What one step of the package does (log 4): time passes; the next event of the agenda happens; else the next turn is taken;
else one of all that can happen does, and where the manual gives no order among them `Config.pick` chooses.
-/

namespace Sys2Proof.Machine

/-! ### Issue (R22, R72, R124) -/

namespace State

/-- The fetch of a poisoned I-store word raises SRAM_UE again (R372). -/
def fetchPoison (s : State) : State :=
  let cell := istoreCell (istoreUnit s.cur.1) (s.pc.toNat / 8 * 8)
  if s.cores.any fun (k, x) => istoreUnit k == istoreUnit s.cur.1 && x.poison.contains cell then
    s.latchCore s.cur.1 { cause := .sramUe, eaddr := BitVec.ofNat 64 (s.pc.toNat / 8 * 8), info := 2 }
  else s

/-- The instruction at the pc of the current strand: a word that is no instruction is one whose execution is its fate (R88). -/
def fetched (s : State) : Instr :=
  match decodeWord (s.wordAt s.pc.toNat) with
  | .ok i => i
  | .error _ => .notAnInstructionWord (s.wordAt s.pc.toNat)

end State

/-- The strand in the current slot fetches and executes its next word. -/
def issue (s : State) : Out :=
  if s.pc.toNat ≥ istoreSize s.cur.1 then .next s.fetchPastEnd
  else exec s.fetched s.fetchPoison

/-- An event happens: its meaning, on its arguments. -/
def happen (e : Event) (s : State) : Out := exec e.what { s with ev := e.args }

namespace State

/-- The slot that issues becomes the current one, and its turn is counted (R22, HPRIO). -/
def enterSlot (s : State) (c i : Nat) : State :=
  let k := s.core c
  let s := s.setCore c { k with last := i, streak := if k.last == i then k.streak + 1 else 1 }
  { s with cur := (c, i) }

/-- Whether a slot issues: ready, no cause to take at its boundary, no service of the micro-kernel due. -/
def issues (s : State) (c i : Nat) : Bool :=
  let x := s.slotAt c i
  x.status == .ready && x.service.isNone && !s.takesCause c i

/-- The slot of a core that issues next: the one that issued last while its HPRIO lasts, else round-robin (R22). -/
def nextSlot (s : State) (c : Nat) : Option Nat :=
  let k := s.core c
  let n := slotCount c
  let ring := (List.range n).map fun d => (k.last + 1 + d) % n
  if s.issues c k.last && decide (k.streak ≤ (s.strandAt c k.last).hprio) then some k.last else ring.find? (s.issues c)

/-! ### Events of the part itself -/

/-- Whether an event has an effect now; one without effect is no candidate. -/
def changes (s : State) (e : Event) : Bool :=
  match happen e s with
  | .next t => t != { s with ev := e.args }
  | _ => false

/-- Events that concern one core. -/
def coreEvents (c : Nat) (k : Core) : List Event :=
  (List.range (slotCount c)).flatMap (fun i =>
    ([Instr.asyncCauseTaken, .waitSatisfied, .slotFill].map fun w => { what := w, args := { core := c, slot := i } }) ++
    (if (k.slots[i]?.getD {}).latched.isEmpty then []
      else (List.range 256).map fun n => { what := .asyncCauseTaken, args := { core := c, slot := i, index := n + 1 } })) ++
  (List.range 4).flatMap (fun n =>
    (List.range (k.copies[n]?.getD {}).cmds.length).map fun j =>
      { what := .copyCommandComplete, args := { core := c, ctx := n, index := j } }) ++
  (List.range k.walks.length).map (fun j => { what := .rangeWalkComplete, args := { core := c, index := j } }) ++
  (List.range k.stages.length).map (fun j => { what := .dataStageComplete, args := { core := c, index := j } }) ++
  [Instr.matrixOpComplete, .matrixZeroingDone].map fun w => { what := w, args := { core := c } }

/-- Gales that have yet to reach a core of their launch (R30). -/
def galeEvents (s : State) : List Event :=
  s.launches.flatMap fun (n, l) =>
    if l.dispatched && !l.done then l.cores.eraseDups.map fun c => { what := .gale, args := { launch := n, core := c } } else []

/-- Events of the network and of the landings. -/
def transitEvents (s : State) : List Event :=
  (List.range s.net.length).flatMap (fun n =>
    [Instr.messageArrival, .gustArrival].map fun w => { what := w, args := { index := n } }) ++
  (List.range s.landings.length).flatMap fun n =>
    [Instr.linkLanding, .queuePushLanding].map fun w => { what := w, args := { index := n } }

/-- Events of the dies and rows: collectives, dispatch, sweeps, clasps, and the switch of a row to a strand that waits for it. -/
def dieEvents (s : State) : List Event :=
  (List.range 4).flatMap (fun d =>
    { what := .nodeDispatch, args := { die := d } } ::
    (List.range 8).map (fun n => { what := .collComplete, args := { die := d, ctx := n } }) ++
    (AMap.keys s.keys).map fun k => { what := .keySweepComplete, args := { die := d, index := k } }) ++
  (List.range 16).map (fun r => { what := .claspRelease, args := { row := r } }) ++
  s.occupied.filterMap fun (c, i) => match (s.slotAt c i).status with
    | .waiting .rowFree =>
      let u := s.strandAt c i
      some { what := .rowSwitch, args := { row := rowOf c, launch := u.launch.getD 0, index := u.lcore / 8 } }
    | _ => none

/-- Completions of instances (R345). -/
def completionEvents (s : State) : List Event :=
  let done (kind : Nat) (l : List Nat) : List Event := l.map fun n => { what := .instanceCompletion, args := { kind := kind, launch := n } }
  done 1 (AMap.keys s.units) ++ done 2 (AMap.keys s.launches) ++ done 3 (AMap.keys s.graphs) ++
  s.jobs.flatMap fun (q, j) =>
    { what := .instanceCompletion, args := { kind := 5, queue := q } } ::
    (AMap.keys j.phases).map fun p => { what := .instanceCompletion, args := { kind := 4, queue := q, launch := p } }

/-- Whether TAIL of a queue in memory differs from the value that the dispatcher last read (R307). -/
def tailMoved (s : State) (q : Nat) (j : Job) : Bool :=
  match s.jobLoad (some q) j.dispatcher 0 (queueField j 0) 8 with
  | (.ok bs, _) => leWord bs != j.tailRead
  | (.error _, _) => true

/-- Events of a queue: the command at HEAD, TAIL moved, the end of a drain (R307, R379). -/
def queueEvents (s : State) (q : Nat) (j : Job) : List Event :=
  let command : List Event := match (s.nextCommand q).bind commandEvent with
    | some i => [{ what := i, args := { queue := q } }]
    | none => []
  let tail : List Event := if s.tailMoved q j then [{ what := .tailWatch, args := { queue := q } }] else []
  command ++ tail ++ [{ what := .drainComplete, args := { queue := q } }]

/-- The claims of the fault records that somebody waits on (R213, R217). -/
def awaitedClaims (s : State) : List Nat :=
  let slots := s.occupied.map fun (c, i) => (s.slotAt c i).fault
  let copies := s.cores.flatMap fun (_, k) => k.copies.toList.flatMap fun x => x.cmds.map (·.fault)
  let walks := s.cores.flatMap fun (_, k) => k.walks.map (·.fault)
  let colls := s.dies.flatMap fun (_, d) => d.coll.toList.flatMap fun l => l.map (·.fault)
  let queues := s.jobs.map fun (_, j) => j.fault
  ((slots ++ copies ++ walks ++ colls ++ queues).filterMap id).map (·.claim)

/-- The event that delivers a coherence message (R269). -/
def meshEvent (m : CohMsg) : Event :=
  let args : EventArgs := { line := m.line, die := match m.what with | .rsp _ _ => m.source | _ => m.target }
  { args, what := match m.what with
      | .fwdS => .dfwds | .fwdX => .dfwdx | .inv => .dinv | .rsp _ _ => .drsp | .comp => .dcomp | .data _ _ => .ddata | .done => .ddone }

/-- What the host may answer to an open transaction (R275, R394). -/
def hostEvents : Nat × HostTx → List Event
  | (n, { op, line, .. }) =>
    if op ≤ 2 then [{ what := .data, args := { line, kind := 1 } }, { what := .data, args := { line, kind := 2 } }]
    else if op = 3 then [{ what := .cmp, args := { line } }, { what := .data, args := { line, kind := 2 } }]
    else if op = 4 ∨ op = 9 then [{ what := .wbAck, args := { line } }]
    else if op = 6 then [{ what := .atomicRsp, args := { index := n } }]
    else [{ what := .cmp, args := { line } }]

/-- Events of the coherence protocol that are under way: messages between the dies, and answers of the host. -/
def coherenceEvents (s : State) : List Event := s.mesh.map meshEvent ++ s.hostTx.flatMap hostEvents

/-- Events of the rest of the package: management, replies, shootdowns, GPHASE, the Bezel's engines. -/
def packageEvents (s : State) : List Event :=
  let request : List Event := match s.requestEvent with | some i => [{ what := i }] | none => []
  request ++ (s.awaitedClaims.map fun k => { what := .faultReply, args := { index := k } }) ++
  ((AMap.keys s.shootdowns).map fun k => { what := .shootdownComplete, args := { index := k } }) ++
  [{ what := .gphasePublish }, { what := .bezelEngineComplete }, { what := .bezelEngineComplete, args := { flag := true } }]

/-- Every event of the part itself that would have an effect. Timed events, requests of the dies that no access makes, and all that comes
from outside of itself stand on the agenda only (log 4). -/
def events (s : State) : List Event :=
  let all := (s.cores.flatMap fun (c, k) => coreEvents c k) ++ s.galeEvents ++ s.transitEvents ++ s.dieEvents ++ s.completionEvents ++
    (s.jobs.flatMap fun (q, j) => s.queueEvents q j) ++ s.packageEvents ++ s.coherenceEvents
  all.filter s.changes

end State

/-! ### Choosing -/

/-- One thing that can happen. -/
inductive Choice where
  /-- A word of the strand in a slot. -/
  | word (core slot : Nat)
  /-- A body group of the sequencer of a slot (R291). -/
  | body (core slot : Nat)
  /-- The micro-kernel's service of the trap just entered on a slot (log 5). -/
  | service (core slot : Nat)
  /-- A reply in AQ0 of a core taken by its micro-kernel (R214). -/
  | reply (core : Nat)
  /-- The reset of a core after a DOUBLE_TRAP (R368). -/
  | doubled (core : Nat)
  /-- A STATUS word of a queue written (R306, R349). -/
  | status (queue : Nat)
  /-- What a queue's dispatcher does of itself (R307 to R309, R448). -/
  | queue (queue : Nat)
  /-- A line of an L1, or of a die's L2, replaced (R267, R278). -/
  | replace (core line : Nat)
  | replaceL2 (die line : Nat)
  /-- What waits at a home served (R270, R271). -/
  | home (die : Nat)
  /-- The other Span box's request for a page, and its oldest atomic put off (R282, R283). -/
  | page (n : Nat)
  | atomic
  /-- The sideband sends a response and delivers the next request (R442). -/
  | sideband
  | event (e : Event)
  deriving DecidableEq, Repr

namespace State

/-- The next body group of a slot's sequencer, if it can issue. -/
def bodyStep (s : State) (c i : Nat) : Option State := s.sequence exec c i

/-- What a core can do of itself. -/
def coreChoices (s : State) (c : Nat) : List Choice :=
  let slots := List.range (slotCount c)
  (if (s.core c).doubled then [.doubled c] else []) ++ (if s.native && (s.replyIn c).isSome then [.reply c] else []) ++
  (slots.filter fun i => (s.slotAt c i).service.isSome).map (.service c) ++
  (slots.filter fun i => (s.bodyStep c i).isSome).map (.body c) ++
  (match s.nextSlot c with | some i => [.word c i] | none => [])

/-- Lines that the caches of the part may replace, and homes at which something waits. -/
def cacheChoices (s : State) : List Choice :=
  (s.cores.flatMap fun (c, _) => (s.replaceable c).map (.replace c)) ++
  s.dies.flatMap fun (d, x) =>
    (AMap.keys x.l2 ++ AMap.keys x.l2clean).map (.replaceL2 d) ++ (if x.requests.isEmpty && x.snoops.isEmpty then [] else [.home d])

/-- What the other Span box waits for. -/
def spanChoices (s : State) : List Choice := s.pagesDue.map .page ++ if s.atomicDue then [.atomic] else []

/-- All that can happen. -/
def choices (s : State) : List Choice :=
  ((AMap.keys s.cores).flatMap s.coreChoices) ++ s.cacheChoices ++ s.spanChoices ++
  (if s.sidebandDue then [.sideband] else []) ++
  ((AMap.keys s.jobs).filter fun q => s.dispatchQueue q != s).map .queue ++
  ((s.jobs.filter fun (_, j) => j.statusDue.isSome && !unanswered j.fault).map fun (q, _) => .status q) ++
  s.events.map .event

/-- What an event that counts time adds in `n` cycles of a core, `charge` being the meter's (R354, R361): how many of the cycles had a
Ready strand that did not issue, waited at the clasp or stalled on retention is a free value (log 17). -/
def timedCount (s : State) (c : Nat) (k : Core) (n charge e : Nat) : Nat :=
  let free := Nat.min n (Config.timedCount c e s.steps)
  let some' (p : Status → Bool) : Bool := k.slots.toList.any fun x => p x.status
  match e with
  | 2 => if some' (· == .ready) then free else 0
  | 8 => if some' (fun w => match w with | .waiting (.clasp _) => true | _ => false) then free else 0
  | 12 => free
  | 13 => charge
  | _ => 0

/-- Time passes: queues that have become idle lose their deficits (R353); the cycles of this step count for CYCLE, for the meters of cores
that hold strands of their job, and for the event that counts cycles (R110, R111, R354; log 7). -/
def tick (s : State) : State :=
  let n := Config.cycles s.steps
  let cores := s.cores.map fun (c, k) =>
    let more := Config.coreCycles c s.steps
    let busy := k.job.isSome && k.slots.toList.any fun x => x.status != .free && x.u.job == k.job
    let charge := if busy then (n + more) * (if coreKind c = .mcore then 4 else 1) else 0
    (c, { k with
      cycles := k.cycles + BitVec.ofNat 64 more
      pmc := Vector.ofFn fun i => k.pmc[i] + BitVec.ofNat 64 (s.timedCount c k (n + more) charge k.events[i])
      meter := k.meter + charge })
  { s.idleReset with cores := cores, cycle := s.cycle + BitVec.ofNat 64 n, steps := s.steps + 1 }

end State

/-- A choice carried out. -/
def perform (s : State) : Choice → Out
  | .word c i => issue (s.enterSlot c i)
  | .body c i => .next ((s.bodyStep c i).getD s)
  | .service c i => .next (s.serve c i)
  | .doubled c => .next (s.resetDoubled c)
  | .reply c => .next (s.pollReply c)
  | .status q => .next (s.writeStatus q)
  | .queue q => .next (s.dispatchQueue q)
  | .replace c line => .next (s.replaceL1 c line)
  | .replaceL2 d line => .next (s.replaceL2 d line)
  | .home d => .next (s.serveHome d)
  | .page n => .next (s.servePage n)
  | .atomic => .next s.serveAtomic
  | .sideband => match s.spdm.waiting with
    | [] => .next s.sendResponse
    | e :: rest => happen e (s.sendResponse.withSpdm fun c => { c with waiting := rest })
  | .event e => happen e s

/-- One of all that can happen does; nothing where nothing can. -/
def chosen (s : State) : Out :=
  match s.choices[Config.pick s.steps % s.choices.length]? with
  | some c => perform s c
  | none => .next s

/-! ### The part without clocks (R413, R414, R412) -/

/-- Whether an event reaches a part whose clocks do not run: power, reset and the sideband in Off, the debug port in Frost besides, and the
alarm, which the always-powered Bezel serves (R414). -/
def unclocked (frost : Bool) : Instr → Bool
  | .powerOn => true
  | .reset => true
  | .powerOff => true
  | .idcode => frost
  | .auth => frost
  | .dbgReq => frost
  | .scanSelect => frost
  | .scanRead => frost
  | .bypass => frost
  | .thermalTrip => frost
  | .alarm => frost
  | _ => false

/-- The next event of the agenda that reaches a part without clocks. -/
def stepStopped (s : State) : Out :=
  match s.agenda.find? fun e => unclocked s.bezel.frost e.what with
  | some e => happen e { s with agenda := s.agenda.erase e }
  | none => .fault .clocksStopped

/-! ### One step -/

/-- The step of a part whose clocks run. -/
def stepRunning (s : State) : Out :=
  match s.agenda with
  | e :: rest => happen e { s with agenda := rest }
  | [] => match s.turns with
    | (c, i) :: rest =>
      let s := { s with turns := rest }
      if s.issues c i then issue (s.enterSlot c i) else .next s
    | [] => chosen s

/-- One step. -/
def stepOnce (s : State) : Out := if s.bezel.off || s.bezel.frost then stepStopped s else stepRunning s.tick

end Sys2Proof.Machine
end

