-- ==== Sys2Proof/Machine/Step.lean ====
section
/-!
DEFINITION. One step of the package (log 4), and the placing of an instruction where the next step fetches (log 18).
-/

namespace Sys2Proof.Machine

/-- One step. -/
def step (s : State) : Host.Outcome State Fault Refusal := stepOnce s

/-- An instruction of bits `w` placed where the next step fetches, as the first word of a resident user strand in slot 0 of M-core 0,
which takes the next turn (log 18). A strand already there stays, in its state Ready and in user mode. -/
def State.withFetchWord (s : State) (_nbits w : Nat) : State :=
  let s : State := { s with
    cur := (0, 0), agenda := [], turns := [(0, 0)], bezel := { s.bezel with off := false, frost := false, released := true } }
  let x := s.slotAt 0 0
  let s := s.setSlotAt 0 0 { x with status := .ready, pre := none, latched := [], service := none }
  s.store (istoreCell 0 s.pc.toNat) (bytesOfWord (BitVec.ofNat 32 w) ++ List.replicate 8 0)

end Sys2Proof.Machine
end

