-- ==== Sys2Proof/Safety.lean ====
section
/-!
DEFINITION. Safety: the terms in which claims are stated: the canonical memory that every step keeps, what an instruction leaves
alone, and which instructions have a scalar register as their one destination.
-/

namespace Sys2Proof

open Machine

/-- The memory of a state is in its canonical form: addresses strictly rising, no byte listed that reads the same unlisted. -/
def MemoryCanonical (s : State) : Prop := Memory.wf s.mem = true

namespace Machine

namespace State

/-- A strand executes: the current slot holds one that is Ready (R22). -/
def Live (s : State) : Prop := s.slot.status = .ready

/-- Nothing follows the instruction's own completion: no debug trap (single step is off, or the mode is supervisor, R411), and no
image of an earlier commit point of a lockstep pair (R163). -/
def Unstepped (s : State) : Prop := (s.slot.step = false ∨ s.slot.mode = true) ∧ s.slot.pair.bind Pair.due = none

/-- The prefixes taken suit a word that takes none. -/
def NoPrefix (s : State) : Prop := s.prefixFits false false = true

/-- The prefixes taken suit a target of EXT (R84). -/
def ExtFits (s : State) : Prop := s.prefixFits false true = true

/-- The prefixes taken suit a target of MOD (R85). -/
def ModFits (s : State) : Prop := s.prefixFits true false = true

/-- The prefixes taken suit a target of both. -/
def BothFit (s : State) : Prop := s.prefixFits true true = true

/-- The state in which the slot whose turn it is executes: time has passed, the turn is taken (log 4, log 7). -/
def turn (s : State) (c i : Nat) : State :=
  let t : State := { s.tick with turns := s.turns.tail }
  t.enterSlot c i

end State

/-- Everything but the core whose word executes is the same: memory, every other core, dies, jobs, the package. -/
def SameElsewhere (s t : State) : Prop :=
  { t with cores := s.cores } = s ∧ ∀ c, c ≠ s.cur.1 → t.core c = s.core c

/-- The core is the same but for the slot whose word executes and its performance counters. -/
def SameCore (s t : State) : Prop :=
  { t.me with slots := s.me.slots, pmc := s.me.pmc } = s.me ∧ ∀ i, i ≠ s.cur.2 → t.slotAt s.cur.1 i = s.slotAt s.cur.1 i

/-- The slot is the same but for the strand's registers, the pc, the open group and its progress: mode, IE, NEST, EPC, ECAUSE, EADDR,
latched causes and the pair are untouched. -/
def SameSlot (s t : State) : Prop :=
  { t.slot with u := s.slot.u, sw := s.slot.sw, spc := s.slot.spc, pre := s.slot.pre, eprog := s.slot.eprog } = s.slot

/-- The strand is the same but for its scalar registers, its pc and the record of how its current instruction stood (R215, R338): FPCTL,
MEMDEF, WSP, RPC, frames, vectors, masks, links, queues, views and the repetition state are untouched. -/
def SameStrand (s t : State) : Prop :=
  { t.u with g := s.u.g, w := s.u.w, pc := s.u.pc, lastFault := s.u.lastFault, admitted := s.u.admitted } = s.u

/-- What an instruction whose one destination is scalar register `d` leaves alone, and that the next word follows. -/
structure RegisterFrame (d : Reg) (s t : State) : Prop where
  elsewhere : SameElsewhere s t
  core : SameCore s t
  slot : SameSlot s t
  strand : SameStrand s t
  /-- The registers of the mode that does not execute. -/
  user : s.slot.mode = true → t.u.w = s.u.w ∧ t.u.pc = s.u.pc
  supervisor : s.slot.mode = false → t.slot.sw = s.slot.sw ∧ t.slot.spc = s.slot.spc
  registers : ∀ r : Reg, r ≠ d → t.reg r = s.reg r
  next : t.pc = s.pc + 4
  closed : t.slot.pre = none

/-- A vector word that names these v registers finds its grant, with no prefix and no sequencer in its way (R136, R292). -/
structure VectorReady (s : State) (rs : List Reg) : Prop where
  prefixes : s.NoPrefix
  idle : s.u.rep.active = false ∨ s.u.rep.stream.isSome = true ∨ s.slot.mode = true
  granted : s.u.vregs ≠ 0
  named : ∀ r ∈ rs, r.toNat < s.u.vregs

/-- What a vector word with the one vector destination `d` leaves alone: every scalar register, mask, memory byte, every other vector
register and special register; banks may wake (R138) and FPCTL takes flags. -/
structure VectorFrame (d : Reg) (s t : State) : Prop where
  elsewhere : SameElsewhere s t
  core : SameCore s t
  slot : SameSlot s t
  strand : { t.u with
    v := s.u.v, banks := s.u.banks, fpctl := s.u.fpctl, pc := s.u.pc, lastFault := s.u.lastFault, admitted := s.u.admitted } = s.u
  supervisor : t.slot.sw = s.slot.sw
  vectors : ∀ r : Reg, r ≠ d → t.vreg r = s.vreg r
  next : t.pc = s.pc + 4

/-- The lanes of a vector word's destination: `f` gives the active ones, and the others are kept (R136). -/
def LanesAre (d : Reg) (s t : State) (f : Nat → Nat) : Prop :=
  ∀ i, i < 32 → t.lane d i = if i < s.u.vlen then BitVec.ofNat 32 (f i) else s.lane d i

/-- A matrix word finds its core, owner and queue (R170, R173, R180): a resident strand that owns the matrix state of an M-core that
it has for itself, nothing of it in the queue or in a data stage. -/
structure MatrixReady (s : State) : Prop where
  kind : s.kind = .mcore
  prefixes : s.NoPrefix
  resident : s.activation = false
  idle : s.u.rep.active = false ∨ s.u.rep.stream.isSome = true ∨ s.slot.mode = true
  unshared : s.u.window = none
  owner : s.me.owner = some (s.cur.2, s.u.unit)
  zeroed : s.me.zeroing = false
  queue : s.me.matrix = []
  stages : s.me.stages = []
  pair : s.slot.pair = none

/-- The strand may use a copy context of its core (R340): it has claimed it and nobody else, and its commands leave room (R313). -/
structure CopyReady (s : State) (c : Nat) : Prop where
  exists_ : c < copyContexts s.cur.1
  prefixes : s.NoPrefix
  claimed : s.ctxHolder (s.copyCtx c) = some (s.cur.2, s.u.unit)
  room : State.outstanding (s.copyCtx c) < 16
  pair : s.slot.pair = none

end Machine

/-- Whether an integer instruction is a target of EXT (R84). -/
def integerTakesExt : Instr → Bool
  | .addi _ _ _ => true
  | .andi _ _ _ => true
  | .ori _ _ _ => true
  | .xori _ _ _ => true
  | .cmpeqi _ _ _ => true
  | .cmplti _ _ _ => true
  | .movhi _ _ => true
  | .addpc _ _ => true
  | _ => false

/-- Whether a word is a target of MOD: the accesses of memory (R85). -/
def takesMod : Instr → Bool
  | .ldb _ _ _ => true
  | .ldbu _ _ _ => true
  | .ldh _ _ _ => true
  | .ldhu _ _ _ => true
  | .ldw _ _ _ => true
  | .ldwu _ _ _ => true
  | .ldd _ _ _ => true
  | .stb _ _ _ => true
  | .sth _ _ _ => true
  | .stw _ _ _ => true
  | .std _ _ _ => true
  | .amoadd _ _ _ _ => true
  | .amoand _ _ _ _ => true
  | .amoor _ _ _ _ => true
  | .amoxor _ _ _ _ => true
  | .amomin _ _ _ _ => true
  | .amomax _ _ _ _ => true
  | .amominu _ _ _ _ => true
  | .amomaxu _ _ _ _ => true
  | .amoswp _ _ _ _ => true
  | .amocas _ _ _ _ => true
  | .amofadd _ _ _ => true
  | .waita _ _ _ _ => true
  | .flushr _ _ _ => true
  | .invr _ _ _ => true
  | .pref _ _ => true
  | .vld _ _ _ _ => true
  | .vst _ _ _ _ => true
  | .vlds _ _ _ _ _ => true
  | .vsts _ _ _ _ _ => true
  | .vgath _ _ _ _ _ => true
  | .vscat _ _ _ _ _ => true
  | _ => false

/-- Whether a word is a target of EXT (R84). -/
def takesExt : Instr → Bool
  | .ldb _ _ _ => true
  | .ldbu _ _ _ => true
  | .ldh _ _ _ => true
  | .ldhu _ _ _ => true
  | .ldw _ _ _ => true
  | .ldwu _ _ _ => true
  | .ldd _ _ _ => true
  | .stb _ _ _ => true
  | .sth _ _ _ => true
  | .stw _ _ _ => true
  | .std _ _ _ => true
  | .beq _ _ _ => true
  | .bne _ _ _ => true
  | .jl _ _ => true
  | .blt _ _ _ => true
  | .bge _ _ _ => true
  | .bltu _ _ _ => true
  | .bgeu _ _ _ => true
  | i => integerTakesExt i

/-- Whether a word is a prefix (R84, R85). -/
def isPrefix : Instr → Bool
  | .mod _ _ _ _ _ => true
  | .ext _ => true
  | _ => false

/-- Whether a word is one of the kind of core that executes it, with fields that its own description allows: any other is ILL_FUNCTION
(R88). -/
def legalHere (s : State) : Instr → Bool
  | .wfm m => m != 0
  | .ctxsv _ _ p => partOn s.kind p.toNat
  | .ctxld _ _ p => partOn s.kind p.toNat
  | .cmps _ => s.kind == .score
  | .vgrant _ a t => t != 5 || a == 0
  | .mgang _ => s.kind == .mcore
  | .mwait _ => s.kind == .mcore
  | .mzero _ _ => s.kind == .mcore
  | .mmov _ _ _ _ _ _ => s.kind == .mcore
  | .mlda _ _ _ _ _ _ => s.kind == .mcore
  | .mldb _ _ _ _ => s.kind == .mcore
  | .mstd _ _ _ _ _ => s.kind == .mcore
  | .mma _ _ _ _ _ _ => s.kind == .mcore
  | .mcb _ _ _ _ _ _ => s.kind == .mcore
  | .mmx _ _ _ _ _ => s.kind == .mcore
  | .msca _ _ _ _ _ _ => s.kind == .mcore
  | .cbload _ _ => s.kind == .mcore
  | .repb _ => s.kind == .mcore
  | .repe _ _ => s.kind == .mcore
  | .repwait => s.kind == .mcore
  | .cpy _ _ _ c _ _ => decide (c.toNat < copyContexts s.cur.1)
  | .cpy2d _ _ _ c _ _ => decide (c.toNat < copyContexts s.cur.1)
  | .cpyn _ _ _ c _ _ => decide (c.toNat < copyContexts s.cur.1)
  | .batch c => decide (c.toNat < copyContexts s.cur.1)
  | .hashc _ _ _ _ => s.kind == .bezel
  | .signc _ _ _ => s.kind == .bezel
  | .rndg _ => s.kind == .bezel
  | .mext _ _ _ _ => s.kind == .bezel
  | .tlwait _ t => timelineOn s.kind t.toNat
  | .tlwaitb _ t => timelineOn s.kind t.toNat
  | .tlread _ _ t => timelineOn s.kind t.toNat
  | _ => true

end Sys2Proof
end

