-- ==== Sys2Proof/Certificates/Slice0/Obligations.lean ====
section
/-!
DEFINITION. The statements for the provers. Each formalises rules of spec/, named in its docstring; one that rests on a choice of
the model names the log entry.
-/

section

open Sys2Proof Sys2Proof.Machine

/-! ### Decoding and the step -/

/-- Words that the manual writes out decode to the instructions that it names (R106, R126, R156, R236, R287, R317, R347). -/
def Obligations.WrittenWordsDecode : Prop :=
  decodeWord 0x21280002#32 = .ok (.cmplti 9 8 2) ∧
  decodeWord 0x31200005#32 = .ok (.bne 9 0 5) ∧
  decodeWord 0x0B08FFFF#32 = .ok (.addi 24 8 0xFFFF) ∧
  decodeWord 0x47FFFFFD#32 = .ok (.call 0x3FFFFFD) ∧
  decodeWord 0x2908C000#32 = .ok (.mul 8 8 24) ∧
  decodeWord 0x3C002000#32 = .ok .ret ∧
  decodeWord 0x01600802#32 = .ok (.srd 11 2) ∧
  decodeWord 0x000C1002#32 = .ok (.swr 12 2) ∧
  decodeWord 0x554C0060#32 = .ok (.waita 10 12 0 1) ∧
  decodeWord 0x780B0001#32 = .ok (.nput 11 0 1) ∧
  decodeWord 0x900B1000#32 = .ok (.qpush 11 2 0) ∧
  decodeWord 0xA000_00D0#32 = .ok (.batch 1) ∧
  decodeWord 0xA94C68C0#32 = .ok (.cntwait 10 12 13)

/-- Decode and encode agree: the word of every well-formed instruction decodes to it, with every operand (R72 to R89). -/
def Obligations.DecodeEncode : Prop :=
  ∀ i : Instr, i.isWord = true → i.wf = true → decodeWord (encode i) = .ok i

/-- The step runs the decoded instruction. While the clocks run and no event is on the agenda, the slot whose turn it is executes the
instruction that the word at its pc decodes to, the next word of its open group where it has one (R86), and a word that is no instruction
meets its fate (R72, R88). Poison of the I-store alone is looked at on the way (R372). That a turn is taken from a list, and that time
passes first, is the model's own (log 4, log 7). -/
def Obligations.StepRunsDecoded : Prop :=
  ∀ s : State, s.bezel.off = false → s.bezel.frost = false →
    (∀ (c i : Nat) (rest : List (Nat × Nat)), s.agenda = [] → s.turns = (c, i) :: rest →
      ({ s.tick with turns := rest } : State).issues c i = true → (s.turn c i).pc.toNat < istoreSize c →
      (∀ x, decodeWord ((s.turn c i).wordAt (s.turn c i).pc.toNat) = .ok x → step s = exec x (s.turn c i).fetchPoison) ∧
      (∀ e, decodeWord ((s.turn c i).wordAt (s.turn c i).pc.toNat) = .error e →
        step s = exec (.notAnInstructionWord ((s.turn c i).wordAt (s.turn c i).pc.toNat)) (s.turn c i).fetchPoison)) ∧
    ((∀ p ∈ s.cores, p.2.poison = []) → s.fetchPoison = s)

/-! ### Registers, completion and traps -/

/-- The scalar registers: g0 reads as zero and discards a write; every other register of the mode reads what was last written to it,
and a write to one register changes no other (R73, R101, R106). -/
def Obligations.ScalarRegisters : Prop :=
  ∀ s : State, s.Live →
    s.reg 0 = 0 ∧ (∀ x, s.setReg 0 x = s) ∧
    (∀ (r : Reg) (x : Word), r ≠ 0 → (s.setReg r x).reg r = x) ∧
    (∀ (q r : Reg) (x : Word), q ≠ r → (s.setReg r x).reg q = s.reg q) ∧
    (∀ (r : Reg), 8 ≤ r.toNat → s.slot.mode = false → s.reg r = s.u.w[r.toNat - 8]?.getD 0) ∧
    (∀ (r : Reg), 8 ≤ r.toNat → s.slot.mode = true → s.reg r = s.slot.sw[r.toNat - 8]?.getD 0) ∧
    (∀ (r : Reg), 0 < r.toNat → r.toNat < 8 → s.reg r = s.u.g[r.toNat]?.getD 0)

/-! ### Integer instructions -/

/-- Every integer instruction of majors 0x01 to 0x0A, in either mode and with every operand, completes: its destination register is the
one register written, no flag or special register changes, no byte of memory changes, and the next word follows (R83, R117 to R119). -/
def Obligations.IntegerFrame : Prop :=
  ∀ (d a b : Reg) (i : BitVec 16) (n : BitVec 6) (s : State), s.Live → s.Unstepped →
    let completes (x : Instr) : Prop := ∃ t, exec x s = .next t ∧ RegisterFrame d s t
    (s.NoPrefix → ∀ x ∈ [Instr.add d a b, .sub d a b, .and d a b, .or d a b, .xor d a b, .andn d a b, .shl d a b, .shr d a b,
      .sra d a b, .rot d a b, .clz d a, .ctz d a, .popc d a, .min d a b, .max d a b, .minu d a b, .maxu d a b, .sel d a b,
      .cmpeq d a b, .cmplt d a b, .cmpltu d a b, .shli d a n, .shri d a n, .srai d a n, .mul d a b, .mulh d a b, .mulhu d a b,
      .div d a b, .divu d a b, .rem d a b, .remu d a b], completes x) ∧
    (s.ExtFits → ∀ x ∈ [Instr.addi d a i, .andi d a i, .ori d a i, .xori d a i, .cmpeqi d a i, .cmplti d a i, .movhi d i,
      .addpc d i], completes x)

/-- The register-register results that wrap at 64 bits, shift and compare: shifts use wb[5:0] alone, SEL reads the old wd as its
condition, and the comparisons give 1 or 0 (R117).
The immediate instructions: W is the field as EXT widens it, sign-extended but for the logical ones, and the shifts take their
amount from the word (R84, R118). -/
def Obligations.IntegerResults : Prop :=
  (∀ (s : State) (d a b : Reg), s.NoPrefix →
     let x := s.reg a
     let y := s.reg b
     let n := y.toNat % 64
     exec (.add d a b) s = .next (s.setReg d (x + y)).retire ∧
     exec (.sub d a b) s = .next (s.setReg d (x - y)).retire ∧
     exec (.and d a b) s = .next (s.setReg d (x &&& y)).retire ∧
     exec (.or d a b) s = .next (s.setReg d (x ||| y)).retire ∧
     exec (.xor d a b) s = .next (s.setReg d (x ^^^ y)).retire ∧
     exec (.andn d a b) s = .next (s.setReg d (x &&& ~~~y)).retire ∧
     exec (.shl d a b) s = .next (s.setReg d (x <<< n)).retire ∧
     exec (.shr d a b) s = .next (s.setReg d (x >>> n)).retire ∧
     exec (.sra d a b) s = .next (s.setReg d (BitVec.ofInt 64 (x.toInt / 2 ^ n))).retire ∧
     exec (.rot d a b) s = .next (s.setReg d (x >>> n ||| x <<< (64 - n))).retire ∧
     exec (.sel d a b) s = .next (s.setReg d (if s.reg d ≠ 0 then x else y)).retire ∧
     exec (.min d a b) s = .next (s.setReg d (if x.toInt < y.toInt then x else y)).retire ∧
     exec (.max d a b) s = .next (s.setReg d (if x.toInt < y.toInt then y else x)).retire ∧
     exec (.minu d a b) s = .next (s.setReg d (if x.toNat < y.toNat then x else y)).retire ∧
     exec (.maxu d a b) s = .next (s.setReg d (if x.toNat < y.toNat then y else x)).retire ∧
     exec (.cmpeq d a b) s = .next (s.setReg d (if x = y then 1 else 0)).retire ∧
     exec (.cmplt d a b) s = .next (s.setReg d (if x.toInt < y.toInt then 1 else 0)).retire ∧
     exec (.cmpltu d a b) s = .next (s.setReg d (if x.toNat < y.toNat then 1 else 0)).retire) ∧
  (∀ (s : State) (d a : Reg) (i : BitVec 16) (n : BitVec 6), s.ExtFits →
     let x := s.reg a
     let w : Word := match s.ext? with | none => i.signExtend 64 | some e => (e ++ i).signExtend 64
     let z : Word := match s.ext? with | none => i.setWidth 64 | some e => (e ++ i).setWidth 64
     exec (.addi d a i) s = .next (s.setReg d (x + w)).retire ∧
     exec (.andi d a i) s = .next (s.setReg d (x &&& z)).retire ∧
     exec (.ori d a i) s = .next (s.setReg d (x ||| z)).retire ∧
     exec (.xori d a i) s = .next (s.setReg d (x ^^^ z)).retire ∧
     exec (.cmpeqi d a i) s = .next (s.setReg d (if x = w then 1 else 0)).retire ∧
     exec (.cmplti d a i) s = .next (s.setReg d (if x.toInt < w.toInt then 1 else 0)).retire ∧
     exec (.movhi d i) s = .next (s.setReg d (w * 65536)).retire ∧
     exec (.addpc d i) s = .next (s.setReg d (s.pc + w * 65536)).retire ∧
     (s.NoPrefix →
       exec (.shli d a n) s = .next (s.setReg d (x <<< n.toNat)).retire ∧
       exec (.shri d a n) s = .next (s.setReg d (x >>> n.toNat)).retire ∧
       exec (.srai d a n) s = .next (s.setReg d (BitVec.ofInt 64 (x.toInt / 2 ^ n.toNat))).retire))

/-- CLZ, CTZ and POPC count: the answer n of CLZ has n zero bits from bit 63 down and then a one, that of CTZ n zero bits from bit 0 up
and then a one, 64 where there is none, and that of POPC is the number of set bits (R117). -/
def Obligations.BitCounts : Prop :=
  ∀ (s : State) (d a : Reg), s.NoPrefix →
    (∃ n, exec (.clz d a) s = .next (s.setReg d (BitVec.ofNat 64 n)).retire ∧ n ≤ 64 ∧
      (∀ i, 64 - n ≤ i → (s.reg a).getLsbD i = false) ∧ (n < 64 → (s.reg a).getLsbD (63 - n) = true)) ∧
    (∃ n, exec (.ctz d a) s = .next (s.setReg d (BitVec.ofNat 64 n)).retire ∧ n ≤ 64 ∧
      (∀ i, i < n → (s.reg a).getLsbD i = false) ∧ (n < 64 → (s.reg a).getLsbD n = true)) ∧
    exec (.popc d a) s =
      .next (s.setReg d (BitVec.ofNat 64 ((List.range 64).filter fun i => (s.reg a).getLsbD i).length)).retire

/-- The multiply and divide instructions of major 0x0A, ops 0 to 6 with mod zero: MUL gives the low 64 bits of the product, MULH and MULHU
bits [127:64] of the signed and of the unsigned 128-bit product; division truncates toward zero and a non-zero remainder takes the sign
of the dividend; a divisor of 0 gives all ones and the dividend, and −2^63 over −1 gives −2^63 and 0. Each completes with its
destination as its one effect, so none traps or sets a flag (R50, R119). -/
def Obligations.MultiplyDivide : Prop :=
  ∀ (s : State) (d a b : Reg),
    let x := s.reg a
    let y := s.reg b
    let word (op : BitVec 5) : BitVec 32 := 0x0A#6 ++ d ++ a ++ b ++ op ++ 0#6
    (decodeWord (word 0) = .ok (.mul d a b) ∧ decodeWord (word 1) = .ok (.mulh d a b) ∧ decodeWord (word 2) = .ok (.mulhu d a b) ∧
      decodeWord (word 3) = .ok (.div d a b) ∧ decodeWord (word 4) = .ok (.divu d a b) ∧ decodeWord (word 5) = .ok (.rem d a b) ∧
      decodeWord (word 6) = .ok (.remu d a b)) ∧
    (s.NoPrefix →
      exec (.mul d a b) s = .next (s.setReg d (x * y)).retire ∧
      exec (.mulh d a b) s = .next (s.setReg d ((x.signExtend 128 * y.signExtend 128).extractLsb' 64 64)).retire ∧
      exec (.mulhu d a b) s = .next (s.setReg d ((x.setWidth 128 * y.setWidth 128).extractLsb' 64 64)).retire ∧
      ∃ q r qu ru : Word,
        exec (.div d a b) s = .next (s.setReg d q).retire ∧ exec (.rem d a b) s = .next (s.setReg d r).retire ∧
        exec (.divu d a b) s = .next (s.setReg d qu).retire ∧ exec (.remu d a b) s = .next (s.setReg d ru).retire ∧
        (y = 0 → q = BitVec.allOnes 64 ∧ r = x ∧ qu = BitVec.allOnes 64 ∧ ru = x) ∧
        (x = BitVec.intMin 64 ∧ y = BitVec.allOnes 64 → q = x ∧ r = 0) ∧
        (y ≠ 0 → ¬(x = BitVec.intMin 64 ∧ y = BitVec.allOnes 64) →
          q.toInt = x.toInt.tdiv y.toInt ∧ r.toInt = x.toInt.tmod y.toInt) ∧
        (y ≠ 0 → qu.toNat = x.toNat / y.toNat ∧ ru.toNat = x.toNat % y.toNat))

/-! ### Prefixes and traps -/

/-- MOD and EXT: the first word of a group notes its address, MOD stands first and at most once, EXT follows at most once, and the next
word goes on in the same group; the scalar registers and memory stay (R84 to R86).
A word that its core or its fields make malformed traps with ILL_FUNCTION whatever stands before it, and any other word behind a
prefix that it does not take traps with ILL_PREFIX; the instruction itself does nothing (R84 to R88).
Words that are no instruction: the all-zero and the all-ones word, a reserved major and a malformed word trap precisely with the
cause of R88, and a word of the hint region that names no hint only lets the next one follow. -/
def Obligations.PrefixesAndFates : Prop :=
  (∀ (s : State) (u : BitVec 4) (p sp : BitVec 2) (sc c : BitVec 3) (e : BitVec 26),
     s.Live → s.pc.toNat + 4 < istoreSize s.cur.1 →
     (s.slot.pre = none → ∃ t, exec (.mod u p sp sc c) s = .next t ∧
       t.slot.pre = some { mod := some (c, sc, sp, p, u), ext := none, start := s.pc } ∧ t.pc = s.pc + 4 ∧ t.mem = s.mem ∧
       ∀ r, t.reg r = s.reg r) ∧
     (s.slot.pre = none → ∃ t, exec (.ext e) s = .next t ∧
       t.slot.pre = some { mod := none, ext := some e, start := s.pc } ∧ t.pc = s.pc + 4 ∧ t.mem = s.mem ∧ ∀ r, t.reg r = s.reg r) ∧
     (∀ m a, s.slot.pre = some { mod := some m, ext := none, start := a } → ∃ t, exec (.ext e) s = .next t ∧
       t.slot.pre = some { mod := some m, ext := some e, start := a } ∧ t.pc = s.pc + 4 ∧ t.mem = s.mem ∧ ∀ r, t.reg r = s.reg r)) ∧
  (∀ (i : Instr) (s : State), i.isWord = true → isPrefix i = false →
     (legalHere s i = false → exec i s = .next (s.trap .illFunction 0 0 0)) ∧
     (legalHere s i = true → s.prefixFits (takesMod i) (takesExt i) = false → exec i s = .next (s.trap .illPrefix 0 0 0))) ∧
  (∀ s : State, s.NoPrefix →
     exec (.notAnInstructionWord 0) s = .next (s.trap .illZeroWord 0 0 0) ∧
     exec (.notAnInstructionWord 0xFFFFFFFF) s = .next (s.trap .illOnesWord 0 0 0) ∧
     (∀ w : BitVec 32, decodeWord w = .error .reservedMajor → exec (.notAnInstructionWord w) s = .next (s.trap .illReservedMajor 0 0 0)) ∧
     (∀ w : BitVec 32, decodeWord w = .error .function → isPrefixWord w = false →
       exec (.notAnInstructionWord w) s = .next (s.trap .illFunction 0 0 0)) ∧
     (∀ w : BitVec 32, decodeWord w = .ok (.notAnInstructionWord w) → exec (.notAnInstructionWord w) s = .next s.retire))

/-- Trap entry of a precise trap, outside lockstep and outside the service of a nested trap: EPC is the address of the group's first
word, ECAUSE holds the cause, PREC, the old MODE and IE and the cause's INFO, EADDR and EPROG what the cause gives, a trap taken in
supervisor mode sets NEST, the mode is supervisor with IE clear, and the next word is that of TVEC (R114, R115, R366). The strand, the
supervisor frame, memory and every other core and slot stay.
A synchronous trap while NEST is set is not taken: every slot of the core that holds a strand is halted, the Bezel is told, and
nothing else changes (R368). -/
def Obligations.TrapEntry : Prop :=
  (∀ (s : State) (c : Cause) (info n : Nat) (a : Word), s.Live → s.slot.nest = false → s.slot.pair = none →
     s.u.rep.stream = none →
     let t := s.trap c info a n
     t.slot.epc = (match s.slot.pre with | some p => p.start | none => s.pc) ∧
     bits t.slot.ecause 6 0 = c.code ∧ bit t.slot.ecause 7 = false ∧ bit t.slot.ecause 8 = true ∧
     bit t.slot.ecause 9 = s.slot.mode ∧ bit t.slot.ecause 10 = s.slot.ie ∧ bits t.slot.ecause 15 11 = 0 ∧
     bits t.slot.ecause 63 16 = info % 2 ^ 48 ∧
     t.slot.eaddr = a ∧ t.slot.eprog = n ∧ t.slot.nest = s.slot.mode ∧ t.slot.mode = true ∧ t.slot.ie = false ∧
     t.slot.pre = none ∧ t.slot.status = .ready ∧
     t.pc = (s.me.tvec &&& 0xFFFFC) + (if bit s.me.tvec 0 then BitVec.ofNat 64 (256 * (c.code / 16)) else 0) ∧
     t.slot.u = s.slot.u ∧ t.slot.sw = s.slot.sw ∧ SameElsewhere s t ∧ SameCore s t) ∧
  (∀ (s : State) (c : Cause) (info n : Nat) (a : Word), s.Live → s.slot.nest = true →
     let t := s.trap c info a n
     t.me.doubled = true ∧ SameElsewhere s t ∧
     ∀ i, i < 4 → t.slotAt s.cur.1 i =
       if (s.slotAt s.cur.1 i).status = .free then s.slotAt s.cur.1 i
       else { s.slotAt s.cur.1 i with status := .halted .core })

/-- TRAP and BRK enter the micro-kernel with their code in INFO, in every mode and kind of strand (R127).
ERET, outside lockstep and but for a return into a repetition body: the pc is EPC, MODE and IE are those of ECAUSE, NEST is clear, EPROG is
left for the resumed instruction, the idle context of a Free slot ends, the group is counted and no register and no byte of memory changes;
after a return to user mode the strand's engines that a save had held back go on. In user mode ERET traps with ILL_PRIV (R83, R106, R115,
R128, R318). -/
def Obligations.TrapCallsAndReturn : Prop :=
  (∀ (s : State) (c : BitVec 11), s.NoPrefix →
     exec (.trap c) s = .next (s.trap .trapCall c.toNat 0 0) ∧ exec (.brk c) s = .next (s.trap .breakpoint c.toNat 0 0)) ∧
  (∀ s : State, s.NoPrefix → s.Live →
     (s.slot.mode = false → exec .eret s = .next (s.trap .illPriv 0 0 0)) ∧
     (s.slot.mode = true → s.slot.pair = none → s.u.rep.fromBody = false →
       let t := s.returnFromTrap.count s.cur.1 1 1
       exec .eret s = .next (if t.slot.mode then t else t.resumeEngines t.cur.1 t.cur.2) ∧
       t.pc = s.slot.epc ∧ t.slot.mode = bit s.slot.ecause 9 ∧ t.slot.ie = bit s.slot.ecause 10 ∧ t.slot.nest = false ∧
       t.slot.status = (if s.slot.idle = true ∧ bit s.slot.ecause 9 = false then .free else .ready) ∧
       t.slot.eprog = s.slot.eprog ∧ t.slot.sw = s.slot.sw ∧ t.u.g = s.u.g ∧ t.u.w = s.u.w ∧
       SameElsewhere s t ∧ SameCore s t))

/-! ### Scalar floating point -/

/-- A value that a format holds rounds to itself: for each of the eight formats and every finite pattern, rounding the exact value that
the pattern stands for gives the pattern back and raises no flag, in every rounding mode (R44, R56). -/
def Obligations.ExactValuesRound : Prop :=
  ∀ f ∈ [FloatFormat.f32, .f16, .bf16, .e5m2, .e4m3, .e3m2, .e2m3, .e2m1], ∀ (mode : Round) (x : Nat) (neg : Bool) (m : Nat) (e : Int),
    x < 2 ^ f.width → f.read x = .fin neg m e → f.round mode neg m e false = (x, 0)

/-- The scalar FP32 instructions with no exception enabled: each reads bits [31:0] of its sources, writes its result to [31:0] with
[63:32] zero, ORs the flags that it raises into FPCTL and lets the next word follow; FCMP, FCVTIF and FCVTFI likewise with the integer
forms of R121 (R55 to R59, R120, R121).
A flag raised while its enable bit is set: FP_EXCEPTION, precise, with EADDR naming the flags, which FPCTL keeps, and no register
written (R59). -/
def Obligations.ScalarFloat : Prop :=
  (∀ (s : State) (d a b : Reg) (p m : BitVec 2) (t : BitVec 3), s.NoPrefix → bits s.u.fpctl 21 16 = 0 →
     let f := FloatFormat.f32
     let x := f.read ((s.reg a).toNat % 2 ^ 32)
     let y := f.read ((s.reg b).toNat % 2 ^ 32)
     let z := f.read ((s.reg d).toNat % 2 ^ 32)
     let done (r : Nat × Nat) : Out := .next ((s.orFlags r.2).setReg d (BitVec.ofNat 64 r.1)).retire
     exec (.fadd d a b) s = done (FArith.add f s.rounding x y) ∧
     exec (.fsub d a b) s = done (FArith.sub f s.rounding x y) ∧
     exec (.fmul d a b) s = done (FArith.mul f s.rounding x y) ∧
     exec (.ffma d a b) s = done (FArith.fma f s.rounding x y z) ∧
     exec (.fdiv d a b) s = done (FArith.div f s.rounding x y) ∧
     exec (.fsqrt d a) s = done (FArith.sqrt f s.rounding x) ∧
     exec (.fmin d a b) s = done (FArith.minMax f false ((s.reg a).toNat % 2 ^ 32) ((s.reg b).toNat % 2 ^ 32)) ∧
     exec (.fmax d a b) s = done (FArith.minMax f true ((s.reg a).toNat % 2 ^ 32) ((s.reg b).toNat % 2 ^ 32)) ∧
     exec (.fcmp d a b p) s =
       done (if (floatCompare p.toNat x y).1 then 1 else 0, (floatCompare p.toNat x y).2) ∧
     exec (.fcvtif d a m) s = done (FArith.ofInt f s.rounding (sourceInt m (s.reg a))) ∧
     ∃ (v : Int) (fl : Nat), (v, fl) = FArith.toInt (if t.getLsbD 2 then .rtz else s.rounding) (targetRange t).1 (targetRange t).2 x ∧
       exec (.fcvtfi d a t) s = .next ((s.orFlags fl).setReg d (BitVec.ofInt 64 v)).retire) ∧
  (∀ (s : State) (d a b : Reg) (fl v : Nat), s.NoPrefix →
     FArith.add .f32 s.rounding (s.regF32 a) (s.regF32 b) = (v, fl) → bits s.u.fpctl 21 16 &&& fl % 64 ≠ 0 →
     exec (.fadd d a b) s = .next ((s.orFlags fl).trap .fpException 0 (BitVec.ofNat 64 (fl % 64)) 0) ∧
     (s.Live → bits (s.orFlags fl).u.fpctl 13 8 = bits s.u.fpctl 13 8 ||| fl % 64 ∧
       ∀ r, (s.orFlags fl).reg r = s.reg r))

/-- A NaN operand of FADD, FSUB, FMUL, FDIV or FFMA gives the canonical NaN, and FSQRT of one does; NV is raised where one of them
signals, and no other flag; of FFMA the result alone is said (R46, R56). -/
def Obligations.NanResults : Prop :=
  ∀ (mode : Round) (x y z : FVal), (x.isNan || y.isNan) = true →
    let nv := if x.signals || y.signals then flagNV else 0
    let r := (0x7FC00000, nv)
    FArith.add .f32 mode x y = r ∧ FArith.sub .f32 mode x y = r ∧ FArith.mul .f32 mode x y = r ∧ FArith.div .f32 mode x y = r ∧
    (z.isNan = false → (FArith.fma .f32 mode x y z).1 = 0x7FC00000) ∧
    (x.isNan = true → FArith.sqrt .f32 mode x = (0x7FC00000, if x.signals then flagNV else 0))

/-! ### Branches, jumps, calls -/

/-- The conditional branches: taken when their comparison holds, to the word's address plus the widened offset in words; a taken branch
to an address that is not a multiple of 4 or lies at or beyond the I-store's size traps with BAD_TARGET, EADDR the target; a branch
that is not taken never looks at its target (R84, R122, R124).
The jumps: to the word's address plus the offset in words, or to the address in a register; JL writes the address of the word that
follows its group, nothing where ws is g0, and nothing is written where the target is bad; none of them shifts the window (R84, R123,
R124). The words of each, BEQ, BNE and JL told apart by the order of their registers (R79, R122, R123). -/
def Obligations.BranchesAndJumps : Prop :=
  (∀ (s : State) (a b : Reg) (o : BitVec 16) (n : BitVec 11), s.ExtFits →
     let x := s.reg a
     let y := s.reg b
     let near : Word := match s.ext? with | none => o.signExtend 64 | some e => (e ++ o).signExtend 64
     let far : Word := match s.ext? with | none => n.signExtend 64 | some e => (e ++ n).signExtend 64
     let go (taken : Prop) [Decidable taken] (w : Word) : Out :=
       .next (if taken then
           if (s.pc + w * 4).toNat % 4 = 0 ∧ (s.pc + w * 4).toNat < istoreSize s.cur.1 then s.complete (s.pc + w * 4)
           else s.trap .badTarget 0 (s.pc + w * 4) 0
         else s.retire)
     exec (.beq a b o) s = go (x = y) near ∧
     exec (.bne a b o) s = go (x ≠ y) near ∧
     exec (.blt a b o) s = go (x.toInt < y.toInt) near ∧
     exec (.bge a b o) s = go (y.toInt ≤ x.toInt) near ∧
     exec (.bltu a b n) s = go (x.toNat < y.toNat) far ∧
     exec (.bgeu a b n) s = go (y.toNat ≤ x.toNat) far) ∧
  (∀ (s : State) (r : Reg) (o : BitVec 16) (n : BitVec 26),
     let jump (t : Word) (k : State) : Out :=
       .next (if t.toNat % 4 = 0 ∧ t.toNat < istoreSize s.cur.1 then k.complete t else s.trap .badTarget 0 t 0)
     (s.ExtFits → exec (.jl r o) s = jump (s.pc + (match s.ext? with
       | none => o.signExtend 64 | some e => (e ++ o).signExtend 64) * 4) (s.setReg r (s.pc + 4))) ∧
     (s.NoPrefix → exec (.j n) s = jump (s.pc + n.signExtend 64 * 4) s ∧ exec (.jr r) s = jump (s.reg r) s)) ∧
  (∀ (s : State) (t : Word), s.reg 0 = 0 ∧ (∀ x, s.setReg 0 x = s) ∧
     (s.Live → s.Unstepped → (s.complete t).pc = t ∧ (∀ r, (s.complete t).reg r = s.reg r) ∧ (s.complete t).u.frames = s.u.frames)) ∧
  (∀ (a b : Reg) (o : BitVec 16) (m : BitVec 11) (n : BitVec 26),
     decodeWord (0x0C#6 ++ a ++ b ++ o) = .ok (if a = b then .jl a o else if a.toNat < b.toNat then .beq a b o else .bne a b o) ∧
     decodeWord (0x0D#6 ++ a ++ b ++ o) = .ok (.blt a b o) ∧ decodeWord (0x0E#6 ++ a ++ b ++ o) = .ok (.bge a b o) ∧
     decodeWord (0x0F#6 ++ a ++ b ++ 0#5 ++ m) = .ok (.bltu a b m) ∧ decodeWord (0x0F#6 ++ a ++ b ++ 1#5 ++ m) = .ok (.bgeu a b m) ∧
     decodeWord (0x0F#6 ++ a ++ 0#5 ++ 2#5 ++ 0#11) = .ok (.jr a) ∧ decodeWord (0x10#6 ++ n) = .ok (.j n))

/-- A jump or a taken branch traps precisely with BAD_TARGET where its target has bits [1:0] other than 0 or lies at or beyond the
I-store's size, which is 65,536 bytes on an M-core and 131,072 on an S-core and on the Bezel: EADDR holds the target and no register
is written. This applies to J, JL, JR, CALL, CALLR and RET and to the conditional branches. Sequential fetch past the last word traps
with it too, EPC and EADDR the I-store's size (R124). CALL, CALLR and RET come here in user mode with the sequencer idle, RET in a
frame that is not the base. -/
def Obligations.BadTargets : Prop :=
  ∀ (s : State) (t : Word),
    let size (c : Nat) : Nat := match coreKind c with | .mcore => 65536 | .score => 131072 | .bezel => 131072
    let bad : Prop := bits t 1 0 ≠ 0 ∨ size s.cur.1 ≤ t.toNat
    let traps (i : Instr) : Prop := exec i s = .next (s.trap .badTarget 0 t 0)
    let calls : Prop := s.slot.mode = false ∧ (s.u.rep.active = false ∨ s.u.rep.stream.isSome = true)
    (bad → s.ExtFits → ∀ (a b : Reg) (o : BitVec 16) (n : BitVec 11),
      let x := s.reg a
      let y := s.reg b
      (t = s.pc + (match s.ext? with | none => o.signExtend 64 | some e => (e ++ o).signExtend 64) * 4 →
        traps (.jl a o) ∧ (x = y → traps (.beq a b o)) ∧ (x ≠ y → traps (.bne a b o)) ∧
        (x.toInt < y.toInt → traps (.blt a b o)) ∧ (y.toInt ≤ x.toInt → traps (.bge a b o))) ∧
      (t = s.pc + (match s.ext? with | none => n.signExtend 64 | some e => (e ++ n).signExtend 64) * 4 →
        (x.toNat < y.toNat → traps (.bltu a b n)) ∧ (y.toNat ≤ x.toNat → traps (.bgeu a b n)))) ∧
    (bad → s.NoPrefix → ∀ (a : Reg) (o : BitVec 26),
      (t = s.pc + o.signExtend 64 * 4 → traps (.j o) ∧ (calls → traps (.call o))) ∧
      (t = s.reg a → traps (.jr a) ∧ (calls → traps (.callr a))) ∧
      (t = s.u.rpc → calls → s.u.frames ≠ [] → traps .ret)) ∧
    (s.Live → s.slot.nest = false → s.slot.pair = none → s.u.rep.stream = none →
      let u := s.trap .badTarget 0 t 0
      bits u.slot.ecause 6 0 = Cause.badTarget.code ∧ bit u.slot.ecause 8 = true ∧ u.slot.eaddr = t ∧ u.slot.u = s.slot.u ∧
        u.slot.sw = s.slot.sw ∧ u.mem = s.mem) ∧
    (∀ (c i : Nat) (rest : List (Nat × Nat)), s.bezel.off = false → s.bezel.frost = false → s.agenda = [] →
      s.turns = (c, i) :: rest → ({ s.tick with turns := rest } : State).issues c i = true →
      let k := s.turn c i
      k.pc.toNat = size c → k.slot.pre = none → k.slot.nest = false → k.slot.pair = none →
      ∃ u, step s = .next u ∧ bits u.slot.ecause 6 0 = Cause.badTarget.code ∧ bit u.slot.ecause 8 = true ∧
        u.slot.epc = BitVec.ofNat 64 (size c) ∧ u.slot.eaddr = BitVec.ofNat 64 (size c))

/-- A call from user mode to a legal target with a frame free: w0 to w7 are the caller's w16 to w23 and w8 to w23 zero, RPC is the address
after the call, the pc the target, and the fixed registers and memory stay; a bad target, and a full window stack, trap before anything
is written, and in supervisor mode CALL is ILL_FUNCTION (R102, R103, R106, R124, R125).
RET in user mode: it goes to RPC and makes the caller's frame current, whose w16 to w23 hold the callee's w0 to w7, or traps where RPC
has been made a bad target; in the base frame it traps with RET_EMPTY, or with WIN_UNDERFLOW where frames are spilled, and in supervisor
mode with ILL_FUNCTION (R102, R106, R124, R125). -/
def Obligations.CallsAndReturns : Prop :=
  (∀ (s : State) (i : Instr) (t : Word), s.NoPrefix → s.Live →
     ((∃ o : BitVec 26, i = .call o ∧ t = s.pc + o.signExtend 64 * 4) ∨ (∃ a : Reg, i = .callr a ∧ t = s.reg a)) →
     (s.slot.mode = true → exec i s = .next (s.trap .illFunction 0 0 0)) ∧
     (s.slot.mode = false → (s.u.rep.active = false ∨ s.u.rep.stream.isSome = true) →
       (¬(t.toNat % 4 = 0 ∧ t.toNat < istoreSize s.cur.1) → exec i s = .next (s.trap .badTarget 0 t 0)) ∧
       (t.toNat % 4 = 0 → t.toNat < istoreSize s.cur.1 → maxFrames s.cur.1 ≤ s.u.frames.length + 1 →
         exec i s = .next (s.trap .winOverflow 0 t 0)) ∧
       (t.toNat % 4 = 0 → t.toNat < istoreSize s.cur.1 → s.u.frames.length + 1 < maxFrames s.cur.1 → s.Unstepped →
         ∃ u, exec i s = .next u ∧ u.pc = t ∧ u.u.rpc = s.pc + 4 ∧ u.u.frames.length = s.u.frames.length + 1 ∧ u.mem = s.mem ∧
           (∀ r : Reg, 8 ≤ r.toNat → r.toNat < 16 → u.reg r = s.reg (r + 16)) ∧
           (∀ r : Reg, 16 ≤ r.toNat → u.reg r = 0) ∧ (∀ r : Reg, r.toNat < 8 → u.reg r = s.reg r)))) ∧
  (∀ s : State, s.NoPrefix → s.Live →
     (s.slot.mode = true → exec .ret s = .next (s.trap .illFunction 0 0 0)) ∧
     (s.slot.mode = false → (s.u.rep.active = false ∨ s.u.rep.stream.isSome = true) →
       (s.u.frames = [] → exec .ret s = .next (s.trap (if s.u.wspilled = 0 then .retEmpty else .winUnderflow) 0 0 0)) ∧
       (∀ f fs, s.u.frames = f :: fs → s.u.rpc.toNat % 4 = 0 → s.u.rpc.toNat < istoreSize s.cur.1 → s.Unstepped →
         ∃ t, exec .ret s = .next t ∧ t.pc = s.u.rpc ∧ t.u.rpc = f.rpc ∧ t.u.frames = fs ∧ t.mem = s.mem ∧
           (∀ i (h : i < 16), t.u.w[i]'(Nat.lt_trans h (by decide)) = f.w[i]) ∧
           (∀ i (h : i < 8), t.u.w[i + 16]'(by omega) = s.u.w[i]'(by omega)) ∧ t.u.g = s.u.g)))

/-- A call and the return from it: the caller's w0 to w15, its RPC and its older frames are as before, its w16 to w23 hold what the callee
left in w0 to w7, here what the caller itself had there, and execution goes on after the call (R102, R125). -/
def Obligations.CallReturn : Prop :=
  ∀ (s t : State) (o : BitVec 26), s.NoPrefix → s.Live → s.slot.mode = false → s.Unstepped → s.u.rep.active = false →
    (s.pc + o.signExtend 64 * 4).toNat % 4 = 0 → (s.pc + o.signExtend 64 * 4).toNat < istoreSize s.cur.1 →
    (s.pc + 4).toNat % 4 = 0 → (s.pc + 4).toNat < istoreSize s.cur.1 → s.u.frames.length + 1 < maxFrames s.cur.1 →
    exec (.call o) s = .next t →
    ∃ u, exec .ret t = .next u ∧ u.pc = s.pc + 4 ∧ u.u.w = s.u.w ∧ u.u.g = s.u.g ∧ u.u.rpc = s.u.rpc ∧ u.u.frames = s.u.frames ∧
      u.mem = s.mem

/-! ### System registers and the system instructions -/

/-- SRD: a register that the mode may read gives its value, those of CSTAT and VGRANTED field by field; the registers of a slot's trap
are closed to user mode (R107 to R116, R126).
SWR: what each register takes of a value, what it refuses, and the registers that are read-only in the mode; a change of the
split zeroes the scratchpad, one number of KiB in force (R107 to R116, R126, R198). -/
def Obligations.SystemRegisters : Prop :=
  (∀ (s : State) (d : Reg), s.NoPrefix →
     (∀ p ∈ [((1 : BitVec 11), s.u.memdef), (2, s.u.fpctl), (3, BitVec.ofNat 64 s.u.lcore), (4, BitVec.ofNat 64 s.u.lcount),
         (5, s.u.wsp), (6, s.u.rpc), (7, s.spsize), (8, BitVec.ofNat 64 (s.u.vlen + 256 * s.u.vregs)), (10, s.me.phase + s.phaseOffset),
         (12, s.cycle + s.me.cycles), (21, s.me.gspill)],
       exec (.srd d p.1) s = .next (s.setReg d p.2).retire) ∧
     (∀ p ∈ [((16 : BitVec 11), s.me.tvec), (17, s.slot.epc), (18, s.slot.ecause), (19, s.slot.eaddr),
         (20, BitVec.ofNat 64 s.slot.eprog)],
       (s.slot.mode = true → exec (.srd d p.1) s = .next (s.setReg d p.2).retire) ∧
       (s.slot.mode = false → exec (.srd d p.1) s = .next (s.trap .illPriv 0 0 0))) ∧
     (∃ x : Word, exec (.srd d 0) s = .next (s.setReg d x).retire ∧ bit x 0 = s.slot.mode ∧ bit x 1 = s.slot.ie ∧
       bits x 3 2 = (match s.kind with | .mcore => 0 | .score => 1 | .bezel => 2) ∧
       bits x 5 4 = (match s.u.kind with | .resident => 0 | .handler => 1 | .gust => 2) ∧ bits x 7 6 = s.cur.2 % 4 ∧
       bits x 11 8 = (s.u.frames.length + 1) % 16 ∧ bits x 27 12 = s.u.wspilled % 65536 ∧ bits x 29 28 = s.u.cuff % 4 ∧
       bit x 30 = s.slot.pair.isSome ∧ bit x 31 = s.slot.nest ∧ bits x 63 32 = 0) ∧
     (let x := s.gphase + s.phaseOffset
      ∃ t, exec (.srd d 11) s = .next (t.setReg d x).retire ∧ t = s.setU { s.u with sawPhase := t.u.sawPhase } ∧
        (s.Live → t.u.sawPhase.toNat = max s.u.sawPhase.toNat x.toNat)) ∧
     ∃ t, exec (.srd d 9) s = .next (s.setReg d t).retire ∧ bits t 7 0 = s.seqSlot % 256) ∧
  (∀ (s : State) (a : Reg), s.NoPrefix → (s.u.rep.active = false ∨ s.u.rep.stream.isSome = true ∨ s.slot.mode = true) →
     let x := s.reg a
     let m := s.slot.mode
     (∀ n ∈ [(0 : BitVec 11), 3, 4, 8, 9, 10, 11, 12], exec (.swr a n) s = .next (s.trap .illPriv 0 0 0)) ∧
     (∀ n ∈ [(6 : BitVec 11), 16, 17, 18, 19, 20], m = false → exec (.swr a n) s = .next (s.trap .illPriv 0 0 0)) ∧
     (State.gspillLegal x (s.scratchBytes s.cur.1) = false → exec (.swr a 21) s = .next (s.trap .illFunction 0 0 0)) ∧
     (State.spLegal s.cur.1 (bits x 15 0) = false → exec (.swr a 7) s = .next (s.trap .illFunction 0 0 0)) ∧
     (m = false → (State.gspillLegal x (s.scratchBytes s.cur.1) = true → exec (.swr a 21) s = .next (s.trap .illPriv 0 0 0)) ∧
       (State.spLegal s.cur.1 (bits x 15 0) = true → exec (.swr a 7) s = .next (s.trap .illPriv 0 0 0))) ∧
     exec (.swr a 1) s = .next (
       if Record.memdefValid (x &&& 0x3FF) then
         if m = true ∨ bits x 7 6 ≠ 3 then (s.setU { s.u with memdef := x &&& 0x3FF }).retire else s.trap .illPriv 0 0 0
       else s.trap .illFunction 0 0 0) ∧
     exec (.swr a 2) s = .next (s.setU { s.u with fpctl := x &&& 0x3F3F03 }).retire ∧
     exec (.swr a 5) s = .next (s.setU { s.u with wsp := x }).retire ∧
     (m = true →
       exec (.swr a 6) s = .next (s.setU { s.u with rpc := x &&& ~~~3 }).retire ∧
       exec (.swr a 16) s = .next (s.setMe { s.me with tvec := x &&& 0xFFFFD }).retire ∧
       exec (.swr a 17) s = .next (s.setSlot { s.slot with epc := x &&& ~~~3 }).retire ∧
       exec (.swr a 18) s = .next (s.setSlot { s.slot with ecause := x &&& 0xFFFFFFFFFFFF077F }).retire ∧
       exec (.swr a 19) s = .next (s.setSlot { s.slot with eaddr := x }).retire ∧
       exec (.swr a 20) s = .next (s.setSlot { s.slot with eprog := bits x 15 0 }).retire ∧
       (State.gspillLegal x (s.scratchBytes s.cur.1) = true → exec (.swr a 21) s = .next (s.setMe { s.me with gspill := x &&& 0x7FFFFFFFF }).retire) ∧
       (State.spLegal s.cur.1 (bits x 15 0) = true → ∃ t : State, exec (.swr a 7) s = .next t.retire ∧
         (t.core s.cur.1).sp = bits x 15 0 ∧
         ∀ o, o < sramKib s.cur.1 * 1024 → t.byte (localCell s.cur.1 o) = 0)))

/-- Words that stop a strand: WFM goes on when an arrival queue that it names holds an arrival that no handler is bound to or the
unit is cancelled, and waits otherwise; EXIT ends the strand, which frees its slot, once its sequencer is done; both trap in handlers
and gusts (R24, R129, R130, R292). In a pair EXIT first commits what it holds (R163).
HRET ends a handler or gust whose sequencer is idle and is STRAND_KIND in any other strand (R163, R292, R300). -/
def Obligations.WaitsAndEnds : Prop :=
  (∀ (s : State) (m : BitVec 4), s.NoPrefix → m ≠ 0 →
     (s.activation = true → exec (.wfm m) s = .next (s.trap .handlerBlock 0 0 0) ∧ exec .exit s = .next (s.trap .handlerBlock 0 0 0)) ∧
     (s.activation = false →
       exec (.wfm m) s = .next (if s.someUnbound s.cur.1 m.toNat = true ∨ s.unitCancelled = true then s.retire
         else s.setWait (.message m.toNat)) ∧
       (s.u.rep.active = false → exec .exit s =
         .next (((s.commit s.cur.1 s.cur.2).count s.cur.1 1 1).endStrand s.cur.1 s.cur.2 false)))) ∧
  (∀ s : State, s.NoPrefix →
     (s.activation = false → exec .hret s = .next (s.trap .strandKind 0 0 0)) ∧
     (s.activation = true → s.u.rep.active = false →
       exec .hret s = .next (((s.commit s.cur.1 s.cur.2).count s.cur.1 1 1).endStrand s.cur.1 s.cur.2 false)))

/-- TLBINV removes what its kind names from every TLB of the part and goes on when no access left to perform may still use it; CTXSV and
CTXLD of an undefined part, of a slot that may not be named or at a bad address trap; all three are closed to user mode (R132, R133, R208,
R210, R211).
CTXSV of any part, resumed at its progress or not, completes where the record's remaining words can be written from there on; saving part 0
takes the oldest frame away, and saving part 10 waits until the slot's copies pause (R133, R166, R318). CTXLD completes where the words can
be read: a part that is loaded word by word takes them as they come, and one that is checked whole where its record passes its checks
(R133). Of a save of the scalar, mask and queue parts 1, 3 and 8 in one page, from its first word, the words go to memory as one store. -/
def Obligations.SupervisorWords : Prop :=
  (∀ (s : State) (d a : Reg) (k p : BitVec 11), s.NoPrefix → partOn s.kind p.toNat = true →
     (s.slot.mode = false → exec (.tlbinv a k) s = .next (s.trap .illPriv 0 0 0) ∧
       exec (.ctxsv d a p) s = .next (s.trap .illPriv 0 0 0) ∧ exec (.ctxld d a p) s = .next (s.trap .illPriv 0 0 0)) ∧
     (s.slot.mode = true →
       (∀ r, s.performHeld = .ok r →
        let asn := (r.ctxOf r.u.job).asn
        let t := r.shoot k.toNat asn (bits (r.reg a) 47 12)
        (t.translationUsed k.toNat asn = false → exec (.tlbinv a k) s = .next t.retire) ∧
        (∀ p ∈ t.cores, ∀ e ∈ p.2.tlb, State.shootsEntry k.toNat asn (bits (r.reg a) 47 12) e = false) ∧
        (∀ p ∈ t.dies, ∀ e ∈ p.2.l2tlb, State.shootsEntry k.toNat asn (bits (r.reg a) 47 12) e.2 = false)) ∧
       (s.slotOpen (s.reg d) = false → exec (.ctxsv d a p) s = .next (s.trap .ctxState 0 0 0) ∧
         exec (.ctxld d a p) s = .next (s.trap .ctxState 0 0 0)) ∧
       (s.slotOpen (s.reg d) = true → (s.reg a).toNat % 16 ≠ 0 →
         (s.saveAllowed p.toNat (s.reg d).toNat = true → exec (.ctxsv d a p) s = .next (s.trap .misaligned 1 (s.reg a) 0)) ∧
         (s.loadAllowed p.toNat (s.reg d).toNat = true → exec (.ctxld d a p) s = .next (s.trap .misaligned 0 (s.reg a) 0))))) ∧
  (∀ (s : State) (d a : Reg) (p : BitVec 11), s.NoPrefix → s.slot.mode = true → partOn s.kind p.toNat = true →
     s.slotOpen (s.reg d) = true → (s.reg a).toNat % 16 = 0 →
     (State.matrixPart p.toNat = true → s.me.matrix = [] ∧ s.me.stages = []) →
     let i := (s.reg d).toNat
     let n := State.partBytes s.cur.1 p.toNat
     let held := if p.toNat = 10 then s.holdEngines s.cur.1 i else s
     let k := held.slot.eprog
     let bs := held.partRecord p.toNat i
     let spilled (t : State) : State :=
       let u := t.strandAt t.cur.1 i
       t.setStrandAt t.cur.1 i { u with frames := u.frames.dropLast, wspilled := u.wspilled + 1 }
     let owned (t : State) : State :=
       if State.matrixPart p.toNat = true then
         t.setMe { t.me with
           owner := some (i, (t.strandAt t.cur.1 i).unit), lastJob := some (t.strandAt t.cur.1 i).job }
       else t
     (s.saveAllowed p.toNat i = true →
       (p.toNat = 10 → held.copiesPaused s.cur.1 i = false → exec (.ctxsv d a p) s = .next (held.setWait (.paused i))) ∧
       (∀ t, (p.toNat = 10 → held.copiesPaused s.cur.1 i = true) →
         State.moveOut (held.reg a) (bs.length / 4096 + 2) k (bs.drop (8 * k)) held = .ok t →
         exec (.ctxsv d a p) s = .next (if p.toNat = 0 then spilled t else t).finishSteps) ∧
       (∀ t, p.toNat ∈ [1, 3, 8] → s.slot.eprog = 0 → (s.reg a).toNat % 4096 = 0 → bs ≠ [] → bs.length ≤ 4096 →
         s.storeAccess (State.contextAccess true) (s.reg a) bs 0 = .ok t → exec (.ctxsv d a p) s = .next t.finishSteps)) ∧
     (s.loadAllowed p.toNat i = true →
       (∀ t, State.pieceLoaded p.toNat = true →
         State.moveIn (s.reg a) (fun off bs t => t.loadPiece p.toNat i off bs) (n / 4096 + 2) s.slot.eprog (n - 8 * s.slot.eprog)
           (owned s) = .ok t →
         exec (.ctxld d a p) s = .next t.finishSteps) ∧
       (∀ rs t u, State.pieceLoaded p.toNat = false →
         State.readRecord (s.reg a) (n / 4096 + 2) s.movedWords (n - s.movedWords.length) s = .ok (rs, t) →
         (owned (t.setSlot { t.slot with moved := [] })).loadRecord p.toNat i rs = some u →
         exec (.ctxld d a p) s = .next u.finishSteps)))

/-- The hints: HLIKELY only lets the next word follow; HEVICT and HPREF move no register of the slot, HEVICT no byte of memory and HPREF
none where the L1 holds no untracked line; HPRIO notes its number where it is 0 to 3; and HALIGN goes on when every slot that it waits for
stands at the same HALIGN, alone where there is none (R33, R89).
FENCE completes; where it is of class SC, or of class REL or AR at DEVICE scope or wider, once what a lockstep pair holds has been
performed; in a strand of no pair it changes no state that an instruction reads, since every access is performed at its own step (the
model's choice, log 3). PREF completes whatever its address, and
does nothing in a space other than GLOBAL (R235, R240). -/
def Obligations.HintsAndFences : Prop :=
  (∀ (s : State) (r : Reg) (i : BitVec 16), s.NoPrefix →
     exec (.hlikely r i) s = .next s.retire ∧
     exec (.hprio r i) s = .next (if i.toNat ≤ 3 then s.setU { s.u with hprio := i.toNat } else s).retire ∧
     (∃ t : State, exec (.hevict r i) s = .next t.retire ∧ t.mem = s.mem ∧ t.slot = s.slot) ∧
     (∃ t : State, exec (.hpref r i) s = .next t.retire ∧ (s.me.untracked = [] → t.mem = s.mem) ∧ t.slot = s.slot) ∧
     (s.alignPeers = [] → exec (.halign r i) s = .next s.retire) ∧
     ((∃ p ∈ s.alignPeers, s.atAlign s.pc p.1 p.2 = false) → exec (.halign r i) s = .next (s.setWait (.align s.pc)))) ∧
  (∀ (s : State) (k c : BitVec 3) (a : Reg) (i : BitVec 2) (t : Attr),
     (s.NoPrefix →
       (c ≠ 4 → ¬(3 ≤ k.toNat ∧ (c = 2 ∨ c = 3)) → exec (.fence k c) s = .next s.retire) ∧
       (c = 4 ∨ (3 ≤ k.toNat ∧ (c = 2 ∨ c = 3)) → ∀ u, s.performHeld = .ok u → exec (.fence k c) s = .next u.retire)) ∧
     (s.slot.pair = none → s.performHeld = .ok s) ∧
     (∀ p, s.slot.pair = some p → s.awaitHeld p = .ok () → ∃ u, s.performHeld = .ok u) ∧
     (s.ModFits → s.attrs 3 = .ok t → ∃ u : State, exec (.pref a i) s = .next u.retire ∧ (t.space ≠ 0 → u = s)))

/-! ### Memory -/

/-- The scalar loads: after the checks of the word and the access, the bytes at base + W, little-endian, sign- or zero-extended by
their width, with every state change of the access itself, and the next word (R4, R84, R226, R228).
The scalar stores: after the checks of the word and the access, the low bytes of ws, least significant first, at base + W (R4, R84,
R226, R228). -/
def Obligations.ScalarAccesses : Prop :=
  (∀ (s t : State) (d a : Reg) (o : BitVec 13) (x : Access) (n : Nat) (bs : List Byte), s.BothFit →
     let va := s.reg a + (match s.ext? with | none => o.signExtend 64 | some e => (e ++ o).signExtend 64)
     s.scalarAccess .load va n = .ok x → va.toNat % State.scalarAlign x n = 0 → s.loadAccess x va n 0 = .ok (bs, t) →
     (n = 1 → exec (.ldb d a o) s = .next (t.setReg d ((BitVec.ofNat 8 (leNat bs)).signExtend 64)).retire ∧
       exec (.ldbu d a o) s = .next (t.setReg d (BitVec.ofNat 64 (leNat bs))).retire) ∧
     (n = 2 → exec (.ldh d a o) s = .next (t.setReg d ((BitVec.ofNat 16 (leNat bs)).signExtend 64)).retire ∧
       exec (.ldhu d a o) s = .next (t.setReg d (BitVec.ofNat 64 (leNat bs))).retire) ∧
     (n = 4 → exec (.ldw d a o) s = .next (t.setReg d ((BitVec.ofNat 32 (leNat bs)).signExtend 64)).retire ∧
       exec (.ldwu d a o) s = .next (t.setReg d (BitVec.ofNat 64 (leNat bs))).retire) ∧
     (n = 8 → exec (.ldd d a o) s = .next (t.setReg d (BitVec.ofNat 64 (leNat bs))).retire)) ∧
  (∀ (s t : State) (r a : Reg) (o : BitVec 13) (x : Access) (n : Nat), s.BothFit →
     let va := s.reg a + (match s.ext? with | none => o.signExtend 64 | some e => (e ++ o).signExtend 64)
     s.scalarAccess .store va n = .ok x → va.toNat % State.scalarAlign x n = 0 →
     s.storeAccess x va (leBytes n (s.reg r).toNat) 0 = .ok t →
     (n = 1 → exec (.stb r a o) s = .next t.retire) ∧ (n = 2 → exec (.sth r a o) s = .next t.retire) ∧
     (n = 4 → exec (.stw r a o) s = .next t.retire) ∧ (n = 8 → exec (.std r a o) s = .next t.retire))

/-- STD to the scratchpad of a strand that is in no pair, class RLX in MEMDEF: the eight bytes of ws lie at the address, least
significant first, every other byte of memory reads as before, and no register changes but the pc; a range that does not lie in the
scratchpad traps with LOCAL_RANGE and stores nothing (R194, R196, R228).
LDD from the scratchpad, class RLX in MEMDEF, gives the eight bytes at the address as one number and changes nothing else (R194,
R196, R228), where no poison lies in the core's SRAM (R372). -/
def Obligations.LocalAccesses : Prop :=
  (∀ (s : State) (r a : Reg) (o : BitVec 13), s.slot.pre = none → s.Live → s.Unstepped → s.slot.pair = none → s.u.kind = .resident →
     s.u.window = none → s.me.stages = [] → MemoryCanonical s → s.scratchBytes s.cur.1 ≤ 2 ^ 24 → bits s.u.memdef 7 6 = 1 →
     bits s.u.memdef 5 3 ≠ 5 → bits s.u.memdef 2 0 = 0 →
     let va := (s.reg a + o.signExtend 64).toNat
     (va + 8 ≤ s.scratchBytes s.cur.1 → ∃ t, exec (.std r a o) s = .next t ∧
       (∀ i, i < 8 → t.byte (localCell s.cur.1 va + i) = (s.reg r).extractLsb' (8 * i) 8) ∧
       (∀ c, ¬(localCell s.cur.1 va ≤ c ∧ c < localCell s.cur.1 va + 8) → t.byte c = s.byte c) ∧
       (∀ q, t.reg q = s.reg q) ∧ t.pc = s.pc + 4 ∧ SameSlot s t ∧ SameStrand s t) ∧
     (s.scratchBytes s.cur.1 < va + 8 → ∃ e, exec (.std r a o) s = .next (s.trap .localRange 1 e 0))) ∧
  (∀ (s : State) (d a : Reg) (o : BitVec 13), s.slot.pre = none → s.Live → s.Unstepped → s.slot.pair = none → s.u.kind = .resident →
     s.u.window = none → s.me.poison = [] → s.scratchBytes s.cur.1 ≤ 2 ^ 24 → bits s.u.memdef 7 6 = 1 → bits s.u.memdef 5 3 ≠ 5 →
     bits s.u.memdef 2 0 = 0 →
     let va := (s.reg a + o.signExtend 64).toNat
     va + 8 ≤ s.scratchBytes s.cur.1 → ∃ t, exec (.ldd d a o) s = .next t ∧ RegisterFrame d s t ∧
       (d ≠ 0 → t.reg d = BitVec.ofNat 64 (s.num (localCell s.cur.1 va) 8)))

/-- The atomics: the old value of the word goes to wd, sign-extended from 32 bits but for the unsigned and float ones, and the new one
to memory, as one access; AMOCAS writes only where the old value is that of wd (R233, R234).
An atomic of a scope below SYSTEM on bytes of an SRAM reads the old value and writes the new one there and nowhere else (R233). -/
def Obligations.Atomics : Prop :=
  (∀ (s t u : State) (d a b : Reg) (w : BitVec 1) (at' : Attr) (segs : List Segment) (old op : Nat)
     (f : Nat → Option Nat), s.ModFits →
     let n := if w = 1 then 4 else 8
     let x := (s.reg b).toNat % 2 ^ (8 * n)
     let e := (s.reg d).toNat % 2 ^ (8 * n)
     let access : Access := { attr := at', reads := true, writes := true, atomic := true }
     let value (zero : Bool) : Word := if zero = true ∨ n = 8 then BitVec.ofNat 64 old else (BitVec.ofNat 32 old).signExtend 64
     let signed (k : Nat) : Int := (BitVec.ofNat (8 * n) k).toInt
     s.attrs 0 = .ok at' → s.istorePrivilege at' = .ok () → State.attrCheck .atomic access (s.reg a) = .ok () →
     (s.reg a).toNat % n = 0 → s.resolve access (s.reg a) n 0 = .ok (segs, t) → State.untrackedRun segs = false →
     t.atomicAccess at'.scope segs n (atomicReq op n x e) f = .ok (old, u) →
     (f = (fun y => some ((y + x) % 2 ^ (8 * n))) → op = 0 → exec (.amoadd d a b w) s = .next (u.setReg d (value false)).retire) ∧
     (f = (fun y => some (y &&& x)) → op = 1 → exec (.amoand d a b w) s = .next (u.setReg d (value false)).retire) ∧
     (f = (fun y => some (y ||| x)) → op = 2 → exec (.amoor d a b w) s = .next (u.setReg d (value false)).retire) ∧
     (f = (fun y => some (y ^^^ x)) → op = 3 → exec (.amoxor d a b w) s = .next (u.setReg d (value false)).retire) ∧
     (f = (fun y => some (if signed y ≤ signed x then y else x)) → op = 4 → exec (.amomin d a b w) s = .next (u.setReg d (value false)).retire) ∧
     (f = (fun y => some (if signed y ≤ signed x then x else y)) → op = 5 → exec (.amomax d a b w) s = .next (u.setReg d (value false)).retire) ∧
     (f = (fun y => some (min y x)) → op = 6 → exec (.amominu d a b w) s = .next (u.setReg d (value true)).retire) ∧
     (f = (fun y => some (max y x)) → op = 7 → exec (.amomaxu d a b w) s = .next (u.setReg d (value true)).retire) ∧
     (f = (fun _ => some x) → op = 8 → exec (.amoswp d a b w) s = .next (u.setReg d (value false)).retire) ∧
     (f = (fun y => if y = e then some x else none) → op = 9 → exec (.amocas d a b w) s = .next (u.setReg d (value false)).retire) ∧
     (w = 1 → f = (fun y => some (FArith.add .f32 .rne (FloatFormat.f32.read y) (FloatFormat.f32.read x)).1) → op = 10 →
       exec (.amofadd d a b) s = .next (u.setReg d (value true)).retire)) ∧
  (∀ (s : State) (scope n key : Nat) (r : HostTx) (f : Nat → Option Nat), s.slot.pair = none → s.me.stages = [] → scope < 4 →
     isPhysical key = false → 0 < n → MemoryCanonical s → (∀ p ∈ s.cores, p.2.poison = []) →
     ∃ t, s.atomicAccess scope [{ key := key, length := n }] n r f = .ok (s.num key n, t) ∧
       (f (s.num key n) = none → ∀ c, t.byte c = s.byte c) ∧
       (∀ y, f (s.num key n) = some y →
         (∀ i, i < n → t.byte (key + i) = BitVec.ofNat 8 (y / 256 ^ i)) ∧
         ∀ c, ¬(key ≤ c ∧ c < key + n) → t.byte c = s.byte c))

/-- WAITA: where the word differs from the expected value it goes to wd, zero-extended, and where it does not the strand waits on those
cells; handlers and gusts may not wait (R24, R236).
FLUSHR and INVR: checked and with the barrier word translated, the command takes its place among the core's eight and its unit has one
more engine command outstanding; in a lockstep pair it is held with the pair's other effects (R163); with eight in place the strand waits,
and a handler or gust traps (R237). -/
def Obligations.WatchesAndRanges : Prop :=
  (∀ (s t u : State) (d a b : Reg) (w : BitVec 1) (at' : Attr) (segs : List Segment) (bs : List Byte), s.ModFits →
     let n := if w = 1 then 4 else 8
     let access : Access := { attr := at', reads := true, writes := false }
     let old := BitVec.ofNat 64 ((u.reg b).toNat % 2 ^ (8 * n))
     s.attrs 0 = .ok at' → s.istorePrivilege at' = .ok () →
     (s.activation = true → exec (.waita d a b w) s = .next (s.trap .handlerBlock 0 0 0)) ∧
     (s.activation = false → State.attrCheck .waita access (s.reg a) = .ok () → (s.reg a).toNat % n = 0 →
       s.resolve access (s.reg a) n 0 = .ok (segs, t) → State.untrackedRun segs = false → t.slot.pair = none →
       t.readAccess segs = (bs, u) →
       (leWord bs ≠ old → exec (.waita d a b w) s = .next (u.setReg d (leWord bs)).retire) ∧
       (leWord bs = old → exec (.waita d a b w) s = .next (u.setWait (.watch ((segs.head?.map (·.key)).getD 0) n old))))) ∧
  (∀ (s t : State) (c a b : Reg) (at' : Attr) (segs : List Segment), s.ModFits → s.attrs 9 = .ok at' → at'.space ≠ 3 →
     let access : Access := { attr := { at' with space := 0 }, reads := true, writes := true, atomic := true }
     let command (inval : Bool) : WalkCmd :=
       { invalidate := inval, base := s.reg a, length := (s.reg b).toNat, barrier := segs.headD { key := 0, length := 8 }, scope := at'.scope
         members := if t.slot.pair.isSome then 2 else 2 ^ t.u.cuff, unit := t.u.unit, job := t.u.job }
     (s.rangeChecks at' (s.reg c) (s.reg a) (s.reg b) = .ok () → s.resolve access (s.reg c) 8 0 = .ok (segs, t) →
       (t.walkCount < 8 → t.slot.pair = none →
         let issued (w : WalkCmd) : State := t.setMe { t.me with walks := t.me.walks ++ [w] }
         exec (.flushr c a b) s = .next ((issued (command false)).engineIssued t.u.unit).retire ∧
         exec (.invr c a b) s = .next ((issued (command true)).engineIssued t.u.unit).retire) ∧
       (∀ p u v, t.walkCount < 8 → t.slot.pair = some p →
         (t.emit (.walk t.cur.1 (command false)) = .ok u → exec (.flushr c a b) s = .next (u.engineIssued u.u.unit).retire) ∧
         (t.emit (.walk t.cur.1 (command true)) = .ok v → exec (.invr c a b) s = .next (v.engineIssued v.u.unit).retire)) ∧
       (8 ≤ t.walkCount →
         let stopped : State := if t.activation = true then t.trap .handlerBlock 0 0 0 else t.setWait .walkRoom
         exec (.flushr c a b) s = .next stopped ∧ exec (.invr c a b) s = .next stopped)))

/-! ### Vectors -/

/-- VLD and VST of granted registers, one access of the active lanes: an access with no lane does nothing; else every lane's address is
resolved before any lane moves, and the lanes of VLD take their words (R225, R230, R231).
The strided and indexed accesses go lane by lane in order from EPROG.STEP on, at base + lane × stride or base + the index lane,
sign-extended; completed, they leave no progress, and a lane that traps keeps the lanes before it (R209, R231, R232). -/
def Obligations.VectorAccesses : Prop :=
  (∀ (s t u : State) (d a : Reg) (m : BitVec 1) (k : BitVec 3) (x : Access) (gs : List (Nat × List Segment)), s.ModFits →
     let w := s.wakeBanks [d]
     let lanes := (w.memLanes m k).map fun i => (i, w.reg a + BitVec.ofNat 64 (4 * i))
     (s.vectorAccess .vload (s.reg a) [d] = .ok x →
       (lanes = [] → exec (.vld d a m k) s = .next w.retire) ∧
       (∀ p ps, lanes = p :: ps → p.2.toNat % 4 = 0 → State.laneRange x (lanes.map (·.2)) = .ok () →
         w.resolveLanes x lanes = .ok (gs, t) → exec (.vld d a m k) s = .next (t.loadLanes d gs).retire)) ∧
     (s.vectorAccess .vstore (s.reg a) [d] = .ok x →
       (lanes = [] → exec (.vst d a m k) s = .next w.retire) ∧
       (∀ p ps, lanes = p :: ps → p.2.toNat % 4 = 0 → State.laneRange x (lanes.map (·.2)) = .ok () → w.resolveLanes x lanes = .ok (gs, t) →
         t.storeLanes d (w.reg a) gs = .ok u → exec (.vst d a m k) s = .next u.retire))) ∧
  (∀ (s t : State) (d a b r : Reg) (m : BitVec 1) (k : BitVec 3) (x : Access), s.ModFits →
     let from' (w : State) : List Nat := (w.memLanes m k).filter fun i => decide (w.slot.eprog ≤ i)
     let stride (w : State) : List (Nat × Word) := (from' w).map fun i => (i, w.reg a + BitVec.ofNat 64 i * w.reg r)
     let index (w : State) : List (Nat × Word) := (from' w).map fun i => (i, w.reg a + (w.lane b i).signExtend 64)
     let one := s.wakeBanks [d]
     let two := s.wakeBanks [d, b]
     (s.vectorAccess .vload (s.reg a) [d] = .ok x → one.laneSteps x d (stride one) = .ok t → exec (.vlds d a r m k) s = .next t) ∧
     (s.vectorAccess .vstore (s.reg a) [d] = .ok x → one.laneSteps x d (stride one) = .ok t → exec (.vsts d a r m k) s = .next t) ∧
     (s.vectorAccess .vload (s.reg a) [d, b] = .ok x → two.laneSteps x d (index two) = .ok t →
       exec (.vgath d a b m k) s = .next t) ∧
     (s.vectorAccess .vstore (s.reg a) [d, b] = .ok x → two.laneSteps x d (index two) = .ok t →
       exec (.vscat d a b m k) s = .next t) ∧
     one.laneSteps x d [] = .ok one.finishSteps ∧
     (∀ i j va vb rest c info e n (w : State), one.laneStep x d i va = .ok w → w.laneStep x d j vb = .error (.trap c info e n none) →
       one.laneSteps x d ((i, va) :: (j, vb) :: rest) = .error (.trap c info e n (some w))))

/-- Vector floating point with no exception enabled: each active lane of vd gets its result at the type's format, every other lane and
register is kept, and FPCTL ORs in the flags of the active lanes (R59, R61, R141 to R147).
VQNT with no exception enabled: 32 lanes are one block; its 8-bit or 4-bit elements fill the first lanes of vd from the least
significant bit up, the scale stands in the lane after them and every further lane is zero; a grant of fewer lanes is VEC_LENGTH (R71,
R147). -/
def Obligations.VectorFloat : Prop :=
  (∀ (s : State) (d a b : Reg) (t : BitVec 3) (sel : BitVec 4) (x : BitVec 1), s.Live → s.Unstepped → bits s.u.fpctl 21 16 = 0 →
     let done (i : Instr) (f : Nat → Nat × Nat) : Prop :=
       ∃ u, exec i s = .next u ∧ VectorFrame d s u ∧ LanesAre d s u (fun n => (f n).1) ∧
         u.u.fpctl = s.u.fpctl ||| BitVec.ofNat 64 ((s.activeLanes.foldl (fun acc n => acc ||| (f n).2) 0) % 64 * 256)
     let two (op : PatternOp) (n : Nat) : Nat × Nat :=
       floatLane t.toNat sel (x == 1) s.rounding op (s.lane a n) (s.lane b n) (s.lane d n)
     let one (op : FloatFormat → Nat → Nat) (n : Nat) : Nat × Nat :=
       floatLane t.toNat sel false s.rounding (fun f _ a _ _ => (op f a, 0)) (s.lane a n) 0 0
     let value (n : Nat) : FVal := FloatFormat.f32.read (s.laneNat a n)
     (VectorReady s [d, a, b] →
       done (.vadd d a b t sel x) (two fun f m a b _ => FArith.add f m (f.read a) (f.read b)) ∧
       done (.vsub d a b t sel x) (two fun f m a b _ => FArith.sub f m (f.read a) (f.read b)) ∧
       done (.vmul d a b t sel x) (two fun f m a b _ => FArith.mul f m (f.read a) (f.read b)) ∧
       done (.vfma d a b t sel x) (two fun f m a b c => FArith.fma f m (f.read a) (f.read b) (f.read c)) ∧
       done (.vmin d a b t sel x) (two fun f _ a b _ => FArith.minMax f false a b) ∧
       done (.vmax d a b t sel x) (two fun f _ a b _ => FArith.minMax f true a b) ∧
       done (.vpack d a b t sel) (fun n => packLane t.toNat sel s.rounding (s.lane a n) (s.lane b n) (s.lane d n))) ∧
     (VectorReady s [d, a] →
       done (.vabs d a t sel) (one clearSign) ∧ done (.vneg d a t sel) (one flipSign) ∧
       done (.vrcp d a) (fun n => FArith.rcp (value n)) ∧ done (.vrsq d a) (fun n => FArith.rsq (value n)) ∧
       done (.vexp2 d a) (fun n => FArith.exp2 (value n)) ∧ done (.vlog2 d a) (fun n => FArith.log2 (value n)) ∧
       done (.vcvt d a t) (fun n => convertLane t.toNat s.rounding (s.laneNat a n)) ∧
       done (.vunpack d a t sel) (fun n => unpackLane t.toNat sel (s.lane a n)))) ∧
  (∀ (s : State) (d a : Reg) (t : BitVec 3), s.Live → s.Unstepped → bits s.u.fpctl 21 16 = 0 → VectorReady s [d, a] →
     (s.u.vlen ≠ 32 → exec (.vqnt d a t) s = .next (s.trap .vecLength 0 0 0)) ∧
     (s.u.vlen = 32 → ∀ scale elements flags,
       Quant.block (narrowFormat t.toNat) ((List.range 32).map fun i => FloatFormat.f32.read (s.laneNat a i)) = (scale, elements, flags) →
       let w := if t = 7 then 4 else 8
       ∃ u, exec (.vqnt d a t) s = .next u ∧ VectorFrame d s u ∧
         (∀ n, n < w → ∀ k, k < 32 / w → (u.laneNat d n) / 2 ^ (w * k) % 2 ^ w = elements.getD (32 / w * n + k) 0 % 2 ^ w) ∧
         u.lane d w = BitVec.ofNat 32 scale ∧ ∀ n, w < n → n < 32 → u.lane d n = 0))

/-- Vector integers, selection and bitwise logic: each active lane of vd from its own lanes of the sources, no flag and no trap on
values, every other lane and register kept (R49, R148, R150).
The integer result of a whole lane: VIADD, VISUB and VIMUL of type 0 wrap at 32 bits and of type 1 saturate at the signed range
(R49, R148). -/
def Obligations.VectorInteger : Prop :=
  (∀ (s : State) (d a b : Reg) (t n : BitVec 3) (sel : BitVec 4) (x : BitVec 1), s.Live → s.Unstepped → VectorReady s [d, a, b] →
     let done (i : Instr) (f : Nat → Nat) : Prop :=
       ∃ u, exec i s = .next u ∧ VectorFrame d s u ∧ LanesAre d s u f ∧ u.u.fpctl = s.u.fpctl
     let lanes (op : (n : Nat) → Bool → (x y c : Nat) → Nat) (i : Nat) : Nat :=
       integerLane t.toNat sel (x == 1) op (s.lane a i) (s.lane b i) (s.lane d i)
     done (.viadd d a b t sel x) (lanes fun n sat x y _ => deliver n sat (signedOf n x + signedOf n y)) ∧
     done (.visub d a b t sel x) (lanes fun n sat x y _ => deliver n sat (signedOf n x - signedOf n y)) ∧
     done (.vimul d a b t sel x) (lanes fun n sat x y _ => deliver n sat (signedOf n x * signedOf n y)) ∧
     done (.vimac d a b t sel x) (lanes fun n sat x y c => deliver n sat (signedOf n c + signedOf n x * signedOf n y)) ∧
     done (.vshl d a b t sel x) (lanes fun n _ x y _ => x * 2 ^ (y % n) % 2 ^ n) ∧
     done (.vshr d a b t sel x) (lanes fun n _ x y _ => x / 2 ^ (y % n)) ∧
     done (.vsra d a b t sel x) (lanes fun n _ x y _ => deliver n false (signedOf n x / 2 ^ (y % n))) ∧
     done (.vsel d a b n) (fun i => if (s.mask n.toNat).getLsbD i then s.laneNat a i else s.laneNat b i) ∧
     done (.vand d a b) (fun i => (s.lane a i &&& s.lane b i).toNat) ∧
     done (.vor d a b) (fun i => (s.lane a i ||| s.lane b i).toNat) ∧
     done (.vxor d a b) (fun i => (s.lane a i ^^^ s.lane b i).toNat)) ∧
  (∀ (a b d : Lane) (sel : BitVec 4) (x : Bool),
     let wrap (op : Int → Int → Int) : Nat :=
       integerLane 0 sel x (fun n sat x y _ => deliver n sat (op (signedOf n x) (signedOf n y))) a b d
     let sat (op : Int → Int → Int) : Nat :=
       integerLane 1 sel x (fun n sat x y _ => deliver n sat (op (signedOf n x) (signedOf n y))) a b d
     wrap (· + ·) = (a + b).toNat ∧ wrap (· - ·) = (a - b).toNat ∧ wrap (· * ·) = (a * b).toNat ∧
     (∀ op ∈ [fun x y : Int => x + y, fun x y => x - y, fun x y => x * y],
       let z := op a.toInt b.toInt
       (BitVec.ofNat 32 (sat op)).toInt = if z < -2 ^ 31 then -2 ^ 31 else if 2 ^ 31 ≤ z then 2 ^ 31 - 1 else z))

/-- Masks and compares: bit i of the mask is lane i's answer, bits from VLEN upward are zero, and no vector register changes; KPOPC
counts the set bits of the active lanes (R139, R149, R151).
Reductions, permutations and moves between a vector and a scalar register, on the active lanes (R152, R153); the reductions with no
exception enabled. -/
def Obligations.MasksAndMoves : Prop :=
  (∀ (s : State) (k j : Reg) (d a b : Reg) (t : BitVec 3), s.Live → s.Unstepped → bits s.u.fpctl 21 16 = 0 → s.u.vlen ≤ 32 →
     k.toNat < 8 →
     let done (i : Instr) (f : Nat → Bool) : Prop :=
       ∃ u, exec i s = .next u ∧ u.u.v = s.u.v ∧ u.mem = s.mem ∧ u.pc = s.pc + 4 ∧ (∀ r, u.reg r = s.reg r) ∧
         (∀ n, n ≠ k.toNat → u.mask n = s.mask n) ∧
         ∀ n, n < 32 → (u.mask k.toNat).getLsbD n = (decide (n < s.u.vlen) && f n)
     (VectorReady s [] →
       done (.kand k a b) (fun n => (s.mask a.toNat).getLsbD n && (s.mask b.toNat).getLsbD n) ∧
       done (.kor k a b) (fun n => (s.mask a.toNat).getLsbD n || (s.mask b.toNat).getLsbD n) ∧
       done (.knot k a) (fun n => !(s.mask a.toNat).getLsbD n) ∧
       exec (.kpopc d j) s = .next ((s.wakeBanks []).setReg d
         (BitVec.ofNat 64 ((List.range s.u.vlen).filter fun n => (s.mask j.toNat).getLsbD n).length)).retire) ∧
     (VectorReady s [a, b] → done (.vcmp k a b t) (fun n => (compareLane t.toNat (s.lane a n) (s.lane b n)).1))) ∧
  (∀ (s : State) (d a b r : Reg) (t : BitVec 3), s.Live → s.Unstepped → bits s.u.fpctl 21 16 = 0 →
     let done (i : Instr) (f : Nat → Nat) : Prop :=
       ∃ u, exec i s = .next u ∧ VectorFrame d s u ∧ LanesAre d s u f ∧ u.u.fpctl = s.u.fpctl
     let xs := s.activeLanes.map fun i => s.laneNat a i
     let reduced (i : Instr) (float : Nat → Nat → Nat × Nat) (signed unsigned : Nat → Nat → Nat) (e0 e1 e2 : Nat) : Prop :=
       let w := s.wakeBanks [a]
       (t = 0 → exec i s =
         .next ((w.orFlags (tree float 6 xs).2).setReg d (BitVec.ofNat 64 ((tree float 6 xs).1.headD e0))).retire) ∧
       (t = 1 → exec i s = .next ((w.orFlags 0).setReg d
         ((BitVec.ofNat 32 ((tree (fun x y => (signed x y, 0)) 6 xs).1.headD e1)).signExtend 64)).retire) ∧
       (t = 2 → exec i s = .next ((w.orFlags 0).setReg d
         (BitVec.ofNat 64 ((tree (fun x y => (unsigned x y, 0)) 6 xs).1.headD e2))).retire)
     (VectorReady s [a] →
       reduced (.vredadd d a t) (fun x y => FArith.add .f32 s.rounding (FloatFormat.f32.read x) (FloatFormat.f32.read y))
         (fun x y => (x + y) % 2 ^ 32) (fun x y => (x + y) % 2 ^ 32) 0 0 0 ∧
       reduced (.vredmax d a t) (fun x y => FArith.minMax .f32 true x y) (fun x y => if signedOf 32 x < signedOf 32 y then y else x)
         (fun x y => max x y) 0xFF800000 (2 ^ 31) 0 ∧
       reduced (.vredmin d a t) (fun x y => FArith.minMax .f32 false x y) (fun x y => if signedOf 32 y < signedOf 32 x then y else x)
         (fun x y => min x y) 0x7F800000 (2 ^ 31 - 1) (2 ^ 32 - 1) ∧
       exec (.vextr d a r) s = .next ((s.wakeBanks [a]).setReg d
         (if (s.reg r).toNat % 32 < s.u.vlen then (s.lane a ((s.reg r).toNat % 32)).setWidth 64 else 0)).retire) ∧
     (VectorReady s [d, a, b] →
       done (.vperm d a b) (fun i => if s.laneNat b i % 32 < s.u.vlen then s.laneNat a (s.laneNat b i % 32) else 0)) ∧
     (VectorReady s [d, a] →
       done (.vslide d a r) (fun i => if 0 ≤ (i : Int) + (s.reg r).toInt ∧ (i : Int) + (s.reg r).toInt < s.u.vlen then
         s.laneNat a ((i : Int) + (s.reg r).toInt).toNat else 0)) ∧
     (VectorReady s [d] →
       done (.vbcast d r) (fun _ => (s.reg r).toNat % 2 ^ 32) ∧
       done (.vins d a r) (fun i => if i = (s.reg r).toNat % 32 then (s.reg a).toNat % 2 ^ 32 else s.laneNat d i)))

/-- VGRANT: wd gets the lanes granted, at most the core's, with 8 to 32 registers or as many as there are; a growth keeps the registers
held and gives zero ones, a first grant zero masks, and VGRANT.off takes all away (R136 to R140). -/
def Obligations.Grant : Prop :=
  ∀ (s : State) (d a : Reg) (t : BitVec 3), s.NoPrefix → s.Live → s.Unstepped →
    (s.u.rep.active = false ∨ s.u.rep.stream.isSome = true ∨ s.slot.mode = true) → t.toNat ≤ 4 →
    let n := min (s.reg a).toNat (maxLanes s.cur.1)
    let size := if t = 0 then (if s.u.vregs = 0 then 8 else s.u.vregs) else 8 * t.toNat
    (∃ u, exec (.vgrant d a t) s = .next u ∧ u.u.vlen = n ∧ u.u.vregs = size ∧ (d ≠ 0 → u.reg d = BitVec.ofNat 64 n) ∧
      (∀ q, q ≠ d → u.reg q = s.reg q) ∧ u.mem = s.mem ∧ u.pc = s.pc + 4 ∧
      (∀ r : Reg, r.toNat < size → r.toNat < s.u.vregs → u.vreg r = s.vreg r) ∧
      (∀ r : Reg, s.u.vregs ≤ r.toNat → ∀ i, i < 32 → u.lane r i = 0) ∧
      (s.u.vregs = 0 → ∀ k, u.mask k = 0) ∧ (s.u.vregs ≠ 0 → u.u.k = s.u.k)) ∧
    ∃ u, exec (.vgrant d 0 5) s = .next u ∧ u.u.vlen = 0 ∧ u.u.vregs = 0 ∧ (d ≠ 0 → u.reg d = 0)

/-! ### Links, queues, messages -/

/-- Link registers of a strand that is in no pair: NPUT and NTRY.put to an empty, unreserved register of a strand that has started reserve
it and complete when the value lands, NTRY.put with its status; a full one makes NPUT wait and gives NTRY.put status 1, a target that has
ended is LINK_GONE with its logical core, or status 2; NGET, NTRY and NCLR empty the own register, whose value is then zero (the model's
own, log 61); handlers and gusts may not block (R24, R155 to R157). The logical core is (LCORE + offset) mod LCOUNT.
Queue registers: QPUSH and QPUTT to a queue with room reserve an entry and complete when the value lands, QPUTT with its status; without
room QPUSH waits and QPUTT gives 1; an ended target is QUEUE_GONE or 2; QPOP and QTRY take the oldest own entry, and QDEPTH counts (R286 to
R288). -/
def Obligations.LinksAndQueues : Prop :=
  (∀ (s : State) (d a : Reg) (n : BitVec 3) (o : BitVec 6), s.NoPrefix → s.slot.pair = none →
     let lc := (((s.u.lcore : Int) + o.toInt).emod s.u.lcount).toNat
     let mine := s.u.links[n.toNat]?.getD {}
     let empty (k : State) : State := k.setU { k.u with links := k.u.links.setIfInBounds n.toNat {} }
     let wait : State := s.setWait (.linkTarget (s.u.home.getD 0) lc n.toNat)
     (s.activation = true →
       exec (.nput a n o) s = .next (s.trap .handlerBlock 0 0 0) ∧ exec (.nget d n) s = .next (s.trap .handlerBlock 0 0 0) ∧
       exec (.ntry d n) s = .next (s.setReg (d + 1) 2).retire ∧ exec (.nclr n) s = .next s.retire) ∧
     (s.activation = false →
       (s.targetOf lc = .ended → exec (.nput a n o) s = .next (s.trap .linkGone 0 (BitVec.ofNat 64 lc) 0)) ∧
       (s.targetOf lc = .notStarted ∨ s.targetOf lc = .away → exec (.nput a n o) s = .next wait) ∧
       (∀ c i, s.targetOf lc = .here c i → s.linkFree c i n.toNat = false → exec (.nput a n o) s = .next wait) ∧
       (∀ c i, s.targetOf lc = .here c i → s.linkFree c i n.toNat = true →
         exec (.nput a n o) s = .next (((s.reserveLink c i n.toNat).sendLanding false c i n.toNat (s.reg a) none).setWait .landing)) ∧
       (mine.present = true → exec (.nget d n) s = .next (empty (s.setReg d mine.value)).retire ∧
         exec (.ntry d n) s = .next (empty ((s.setReg d mine.value).setReg (d + 1) 0)).retire) ∧
       (mine.present = false → exec (.nget d n) s = .next (s.setWait (.linkValue n.toNat)) ∧
         exec (.ntry d n) s = .next (s.setReg (d + 1) 1).retire) ∧
       exec (.nclr n) s =
         .next (s.setU { s.u with links := s.u.links.setIfInBounds n.toNat { mine with value := 0, present := false } }).retire) ∧
     (s.targetOf lc = .ended → exec (.ntryPut d a n o) s = .next ((s.setReg d 0).setReg (d + 1) 2).retire) ∧
     (s.targetOf lc = .notStarted ∨ s.targetOf lc = .away → exec (.ntryPut d a n o) s = .next ((s.setReg d 0).setReg (d + 1) 1).retire) ∧
     (∀ c i, s.targetOf lc = .here c i → exec (.ntryPut d a n o) s = .next (
       if s.linkFree c i n.toNat = true then
         ((s.reserveLink c i n.toNat).sendLanding false c i n.toNat (s.reg a) (some d)).setWait .landing
       else ((s.setReg d 0).setReg (d + 1) 1).retire))) ∧
  (∀ (s : State) (d a : Reg) (n : BitVec 3) (o : BitVec 6), s.NoPrefix → s.slot.pair = none →
     let lc := (((s.u.lcore : Int) + o.toInt).emod s.u.lcount).toNat
     let mine := s.u.queues[n.toNat]?.getD {}
     let keep (xs : List Word) : State := s.setU { s.u with queues := s.u.queues.setIfInBounds n.toNat { mine with items := xs } }
     let status (k : State) (v x : Word) : State := (k.setReg d v).setReg (d + 1) x
     let wait : State := s.setWait (.queueTarget (s.u.home.getD 0) lc n.toNat)
     exec (.qdepth d n) s = .next (s.setReg d (BitVec.ofNat 64 mine.items.length)).retire ∧
     (s.activation = true →
       exec (.qpush a n o) s = .next (s.trap .handlerBlock 0 0 0) ∧ exec (.qpop d n) s = .next (s.trap .handlerBlock 0 0 0) ∧
       exec (.qtry d n) s = .next (status s 0 2).retire ∧ exec (.qputt d a n 0) s = .next (status s 0 2).retire) ∧
     (s.activation = false →
       (s.targetOf lc = .ended → exec (.qpush a n o) s = .next (s.trap .queueGone 0 (BitVec.ofNat 64 lc) 0) ∧
         exec (.qputt d a n o) s = .next (status s 0 2).retire) ∧
       (s.targetOf lc = .notStarted ∨ s.targetOf lc = .away → exec (.qpush a n o) s = .next wait ∧
         exec (.qputt d a n o) s = .next (status s 0 1).retire) ∧
       (∀ c i, s.targetOf lc = .here c i → s.queueFree c i n.toNat = false →
         exec (.qpush a n o) s = .next wait ∧ exec (.qputt d a n o) s = .next (status s 0 1).retire) ∧
       (∀ c i, s.targetOf lc = .here c i → s.queueFree c i n.toNat = true →
         exec (.qpush a n o) s = .next (((s.reserveQueue c i n.toNat).sendLanding true c i n.toNat (s.reg a) none).setWait .landing) ∧
         exec (.qputt d a n o) s =
           .next (((s.reserveQueue c i n.toNat).sendLanding true c i n.toNat (s.reg a) (some d)).setWait .landing)) ∧
       (mine.items = [] → exec (.qpop d n) s = .next (s.setWait (.queueValue n.toNat)) ∧
         exec (.qtry d n) s = .next (status s 0 1).retire) ∧
       (∀ x xs, mine.items = x :: xs → exec (.qpop d n) s = .next ((keep xs).setReg d x).retire ∧
         exec (.qtry d n) s = .next (status (keep xs) x 0).retire)))

/-- Arrival queues as operands, and RECV: the oldest arrival that no handler is bound to is taken, its header going to wd and, for RECV
and RECVT, its payload, zero-filled, to the seven registers after it; without one the blocking forms wait; arrival queue 0 is the
supervisor's (R25, R287, R299).
SEND and SENDT from a strand that is in no pair: a request whose fields break R298 is MSG_FORMAT and a handle that the core has not
been granted HANDLE_DENIED with the handle, unless the SEND has passed that check before and waits (R11, R338); a message to a core with
room is on its way, one to a full queue waits or gives 1, and one to a logical core that has ended is discarded or gives 2; while the other
box cannot be reached one for it waits or gives 2 (R24, R298). -/
def Obligations.ArrivalsAndMessages : Prop :=
  (∀ (s t : State) (d : Reg) (n : BitVec 2) (m : Msg), s.NoPrefix → s.slot.pair = none →
     let status (k : State) (v x : Word) : State := (k.setReg d v).setReg (d + 1) x
     (n = 0 → s.slot.mode = false →
       exec (.qpopAq d n) s = .next (s.trap .illPriv 0 0 0) ∧ exec (.qtryAq d n) s = .next (s.trap .illPriv 0 0 0) ∧
       exec (.qdepthAq d n) s = .next (s.trap .illPriv 0 0 0) ∧ exec (.recv d n) s = .next (s.trap .illPriv 0 0 0) ∧
       exec (.recvt d n) s = .next (s.trap .illPriv 0 0 0)) ∧
     (n ≠ 0 ∨ s.slot.mode = true →
       exec (.qdepthAq d n) s = .next (s.setReg d (BitVec.ofNat 64 (s.me.aq[n.toNat]?.getD []).length)).retire ∧
       (s.activation = true →
         exec (.qpopAq d n) s = .next (s.trap .handlerBlock 0 0 0) ∧ exec (.recv d n) s = .next (s.trap .handlerBlock 0 0 0) ∧
         exec (.qtryAq d n) s = .next (status s 0 2).retire ∧ exec (.recvt d n) s = .next (s.setReg (d + 8) 2).retire) ∧
       (s.activation = false →
         (s.takeUnbound n.toNat = none →
           exec (.qpopAq d n) s = .next (s.setWait (.message (2 ^ n.toNat))) ∧
           exec (.recv d n) s = .next (s.setWait (.message (2 ^ n.toNat))) ∧
           exec (.qtryAq d n) s = .next (status s 0 1).retire ∧ exec (.recvt d n) s = .next (s.setReg (d + 8) 1).retire) ∧
         (s.takeUnbound n.toNat = some (m, t) →
           exec (.qpopAq d n) s = .next (t.setReg d m.header).retire ∧
           exec (.recv d n) s = .next (t.deliverMessage d m).retire ∧
           exec (.qtryAq d n) s = .next (status t m.header 0).retire ∧
           exec (.recvt d n) s = .next ((t.deliverMessage d m).setReg (d + 8) 0).retire ∧
           State.bound s.me n.toNat m = false ∧ m ∈ (s.me.aq[n.toNat]?.getD []) ∧
           (0 < d.toNat → d.toNat ≤ 24 → t.Live → ∀ i, i < 7 →
             (t.deliverMessage d m).reg (d + BitVec.ofNat 5 (i + 1)) = m.payload.getD i 0))))) ∧
  (∀ (s : State) (d a b : Reg) (c l lc : Nat), s.NoPrefix → s.slot.pair = none →
     let w := s.reg b
     let h := s.reg a
     let sent := (s.perform (.message c (bits w 15 14) (messageHeader s.slot.mode s.u.lcore w h) (s.payloadWords a (bits w 13 8))
       (if s.slot.mode then none else s.u.launch) s.u.job (l, lc) h)).count s.cur.1 9 1
     let status (k : State) (x : Word) : State := (k.setReg d 0).setReg (d + 1) x
     let waits (v : Wait) : State := (s.setU { s.u with admitted := some (s.slot.mode, s.pc) }).setWait v
     (s.activation = true → exec (.send a b) s = .next (s.trap .handlerBlock 0 0 0)) ∧
     (bits w 7 0 = 255 ∨ 56 < bits w 13 8 ∨ bits w 15 14 = 3 ∨ bits w 31 16 ≠ 0 ∨ bits w 63 48 ≠ 0 ∨
         (bits w 15 14 = 0 ∧ s.slot.mode = false) →
       exec (.sendt d a b) s = .next (s.trap .msgFormat 0 0 0) ∧
       (s.activation = false → exec (.send a b) s = .next (s.trap .msgFormat 0 0 0))) ∧
     (bits w 7 0 ≠ 255 → bits w 13 8 ≤ 56 → bits w 15 14 ≠ 3 → bits w 15 14 ≠ 0 ∨ s.slot.mode = true → bits w 31 16 = 0 →
         bits w 63 48 = 0 → a.toNat - 8 + (bits w 13 8 + 7) / 8 ≤ 23 →
       (s.me.grants.contains h = false → s.admittedHere = false → exec (.sendt d a b) s = .next (s.trap .handleDenied 0 h 0) ∧
         (s.activation = false → exec (.send a b) s = .next (s.trap .handleDenied 0 h 0))) ∧
       (s.me.grants.contains h = true ∨ s.admittedHere = true →
         (s.endpointOf h = .gone → exec (.sendt d a b) s = .next (status s 2).retire ∧
           (s.activation = false → exec (.send a b) s = .next s.retire)) ∧
         (s.endpointOf h = .core c l lc →
           (s.aqRoom c (bits w 15 14) = false → exec (.sendt d a b) s = .next (status s 1).retire ∧
             (s.activation = false → exec (.send a b) s = .next (waits (.room c (bits w 15 14))))) ∧
           (s.aqRoom c (bits w 15 14) = true → exec (.sendt d a b) s = .next (status sent 0).retire ∧
             (s.activation = false → exec (.send a b) s = .next sent.retire))) ∧
         (∀ l, s.endpointOf h = .unplaced l → s.activation = false → exec (.send a b) s = .next (waits (.placed l))) ∧
         (s.endpointOf h = .otherBox → s.spanReady = false → exec (.sendt d a b) s = .next (status s 2).retire ∧
           (s.activation = false → exec (.send a b) s = .next (waits .spanLink))))))

/-- GUST and GSPAWN of a strand that is in no pair: an address that no owner rule holds is GUST_OWNER; else the gust with w1 to w7 and
the address after the word is on its way to the owner's gust queue and the strand waits for the answer, unless a GSPAWN finds the
core's live gusts at their limit, which gives w0 = 2 (R303, R304). A GUST whose gust was accepted while the sequencer ran ends the strand once
that is done, and sends nothing more (R292, R304). -/
def Obligations.Gusts : Prop :=
  ∀ (s : State) (a : Reg) (i lc c : Nat) (r : OwnerRule), s.NoPrefix → s.slot.pair = none →
    let sent (spawn : Bool) : State :=
      { s with net := s.net ++ [{ core := c, queue := 3, sender := some (s.cur.1, s.cur.2, spawn), msg :=
        { header := gustHeader s.u.lcore (s.pc + 4) i, payload := (List.range 7).map fun n => s.reg (BitVec.ofNat 5 (9 + n))
          launch := s.u.launch, job := s.u.job, home := r.launch.map fun l => (l, lc) } }] }
    (s.u.leaving = true → exec (.gust a) s =
      .next (if s.u.rep.active = true ∧ s.u.rep.iteration < s.u.rep.count then s.setWait .repetition else s.leave)) ∧
    (s.job? = none → (s.u.leaving = false → exec (.gust a) s = .next (s.trap .gustOwner 0 0 0)) ∧
      exec (.gspawn a) s = .next (s.trap .gustOwner 0 0 0)) ∧
    (s.ownerOf (s.reg a) = .ok (i, r, lc, c) →
      (s.u.leaving = false → exec (.gust a) s = .next ((sent false).setWait .answer)) ∧
      exec (.gspawn a) s = .next (if bits s.me.gspill 15 8 ≤ s.liveGusts s.cur.1 then (s.setReg 8 2).retire
        else (sent true).setWait .answer))

/-! ### Cuffs, repetition, launches -/

/-- CMPS composes a cuff around slot 0 of an S-core whose number its size divides, its members free, and DCMP opens the members again;
anything else is COMPOSE_STATE, and CMPS on another kind of core ILL_FUNCTION (R158 to R160). CKPT outside a lockstep pair checks its
operands alone (R164).
Composing and opening a cuff: every other slot of each member is closed, the strand's own is open, and DCMP opens them all (R36,
R158 to R160). -/
def Obligations.Cuffs : Prop :=
  (∀ (s : State) (k c : BitVec 2) (a : Reg),
     (s.kind ≠ .score → exec (.cmps k) s = .next (s.trap .illFunction 0 0 0)) ∧
     (s.NoPrefix →
       (s.kind = .score → exec (.cmps k) s = .next (
         if s.activation = false ∧ s.u.cuff = 0 ∧ s.cur.2 = 0 ∧ (s.cur.1 - 128) % 8 % 2 ^ k.toNat = 0 ∧ s.membersFree (2 ^ k.toNat) = true
         then (s.composeCuff k.toNat).retire else s.trap .composeState 0 0 0)) ∧
       exec .dcmp s = .next (if s.u.cuff = 0 then s.trap .composeState 0 0 0 else s.decomposeCuff.retire) ∧
       ((s.reg a).toNat % 256 ≠ 0 → exec (.ckpt a c) s = .next (s.trap .misaligned 0 (s.reg a) 0)) ∧
       (s.slot.pair = none → s.u.window = none → (s.reg a).toNat % 256 = 0 →
         (s.reg a).toNat + 2 * (8192 + 65536 * (c.toNat % 2 + c.toNat / 2)) ≤ s.scratchBytes s.cur.1 →
         exec (.ckpt a c) s = .next s.retire))) ∧
  (∀ (s : State) (n : Nat), s.Live → s.cur.2 = 0 →
     (∀ c i, s.cur.1 ≤ c → c < s.cur.1 + 2 ^ n → i < 4 → (c, i) ≠ s.cur → ((s.composeCuff n).slotAt c i).closed = true) ∧
     (s.composeCuff n).slot.closed = false ∧ (s.composeCuff n).u.cuff = n ∧
     (∀ c i, s.cur.1 ≤ c → c < s.cur.1 + 2 ^ s.u.cuff → i < 4 → (s.decomposeCuff.slotAt c i).closed = false) ∧
     s.decomposeCuff.u.cuff = 0 ∧ (∀ r, (s.composeCuff n).reg r = s.reg r ∧ s.decomposeCuff.reg r = s.reg r))

/-- REPB takes the n + 1 words that follow as the body and goes on after them, or traps with REP_BODY at the first that a body may not
hold; REPE starts the sequencer on snapshots of the scalar state with a count from wa; REPWAIT goes on once every iteration is done
and leaves the sequencer inactive (R290 to R292). -/
def Obligations.Repetition : Prop :=
  ∀ (s : State) (a : Reg) (n g : BitVec 5), s.NoPrefix → s.kind = .mcore → s.activation = false →
    let words := (List.range (n.toNat + 1)).map fun i => s.wordAt (s.pc.toNat + 4 + 4 * i)
    (s.u.rep.active = true → exec (.repb n) s = .next (s.trap .repState 0 0 0) ∧ exec (.repe a g) s = .next (s.trap .repState 0 0 0)) ∧
    (s.u.rep.active = false → s.pc.toNat + 4 + 4 * (n.toNat + 1) ≤ istoreSize s.cur.1 →
      (∀ i, bodyFault words = some i → exec (.repb n) s = .next (s.trap .repBody i 0 0)) ∧
      (bodyFault words = none → exec (.repb n) s = .next ((s.setU { s.u with rep := { s.u.rep with
        captured := true, body := words, base := s.pc + 4, fromBody := false } }).complete
          (s.pc + 4 + BitVec.ofNat 64 (4 * (n.toNat + 1)))))) ∧
    (s.u.rep.active = false → s.u.rep.captured = true → (s.reg a).toNat < 2 ^ 32 →
      exec (.repe a g) s = .next (s.setU { s.u with rep := { s.u.rep with
        active := true, stagger := g.toNat, next := 0, count := (s.reg a).toNat, iteration := 0
        snap := { g := s.u.g, w := s.u.w, memdef := s.u.memdef, fpctl := s.u.fpctl, pc := 0 } } }).retire) ∧
    (s.u.rep.captured = false ∨ 2 ^ 32 ≤ (s.reg a).toNat → exec (.repe a g) s = .next (s.trap .repState 0 0 0)) ∧
    exec .repwait s = .next (if s.u.rep.active = true ∧ s.u.rep.iteration < s.u.rep.count then s.setWait .repetition
      else (s.setU { s.u with rep := { s.u.rep with active := false } }).retire)

/-- LAUNCH: a descriptor that does not lie on 64 bytes is MISALIGNED, one whose fields break R310 LAUNCH_ARG, and one that names a
counter beyond the job's window COUNTER_RANGE; with room in the die's ready pool it is entered there and wd is 0, and without wd is 1
(R310, R312, R344). -/
def Obligations.Launches : Prop :=
  ∀ (s t : State) (d a : Reg) (bs : List Byte) (j : Job), s.NoPrefix →
    let x : Access := { attr := { cls := 0, scope := 0, space := 0, policy := 0, use := 0 }, reads := true, writes := false }
    let legal := (t.descriptor? (t.u.job.getD 0) { j with windowSize := 4096 } bs).isSome
    ((s.reg a).toNat % 64 ≠ 0 → exec (.launch d a) s = .next (s.trap .misaligned 0 (s.reg a) 0)) ∧
    ((s.reg a).toNat % 64 = 0 → s.loadAccess x (s.reg a) 64 0 = .ok (bs, t) → t.job? = some j →
      (legal = false → exec (.launch d a) s = .next (s.trap .launchArg 0 0 0)) ∧
      (legal = true →
        (∀ n, State.badCounter j bs = some n → exec (.launch d a) s = .next (s.trap .counterRange 0 (BitVec.ofNat 64 n) 0)) ∧
        (State.badCounter j bs = none →
          (t.launchRoom (dieOf t.cur.1) = false → exec (.launch d a) s = .next (t.setReg d 1).retire) ∧
          (t.launchRoom (dieOf t.cur.1) = true → t.slot.pair = none → exec (.launch d a) s =
            .next ((t.perform (.launch (dieOf t.cur.1) (t.u.job.getD 0) bs)).setReg d 0).retire))))

/-! ### Engines, timelines, counters -/

/-- The copy commands: with legal sizes and ranges the command joins its context under the next ticket, which goes to wd, and its unit has
one more outstanding; a size that breaks R314 is ENGINE_ARG, another strand's context ENGINE_OWNER; BATCH closes a batch that a command has
joined and leaves an empty one (R313 to R317, R340).
COLL: with a schedule of the strand's job on the die that suits its operation, legal ranges and room, the command joins its context under
the next ticket of the strand's view; without a schedule it is ENGINE_ARG (R319, R335). -/
def Obligations.CopiesAndCollectives : Prop :=
  (∀ (s : State) (d a b : Reg) (c r e : BitVec 2), CopyReady s c.toNat →
     let n := c.toNat
     let x := s.copyCtx n
     let ticket := x.issued + 1
     let command (op : Nat) : CopyCmd :=
       { op, mod := e.toNat + 4 * r.toNat + 16 * n, batch := x.batch, ticket
         a := (List.range 4).map fun i => if i < (if op = 2 then 4 else if op = 1 then 3 else 2) then s.reg (a + BitVec.ofNat 5 i) else 0
         wb := s.reg b, core := s.cur.1, slot := s.cur.2, unit := s.u.unit, job := s.u.job, home := s.u.home
         policy := bits s.u.memdef 9 8 }
     let issued (op : Nat) : State :=
       let k := s.setMe { s.me with copies := s.me.copies.setIfInBounds n { x with issued := ticket, joined := true } }
       let k := k.perform (.copy k.cur.1 n (command op))
       ((k.engineIssued k.u.unit).setReg d ticket).retire
     let good (op : Nat) : Prop :=
       copySizeLegal op (s.reg b) = true ∧ s.rowRanges op e.toNat r.toNat (command op).a (s.reg b) (copyRows op (s.reg b)) 0 = .ok ()
     (good 0 → exec (.cpy d a b c r e) s = .next (issued 0)) ∧ (good 1 → exec (.cpy2d d a b c r e) s = .next (issued 1)) ∧
     (good 2 → (s.reg (a + 2)).toNat % 8 = 0 → s.endRange 2 true (s.reg (a + 2)) 8 = .ok () →
       exec (.cpyn d a b c r e) s = .next (issued 2)) ∧
     (copySizeLegal 0 (s.reg b) = false → exec (.cpy d a b c r e) s = .next (s.trap .engineArg 0 0 0)) ∧
     (copySizeLegal 1 (s.reg b) = false → exec (.cpy2d d a b c r e) s = .next (s.trap .engineArg 0 0 0)) ∧
     (copySizeLegal 2 (s.reg b) = false → exec (.cpyn d a b c r e) s = .next (s.trap .engineArg 0 0 0)) ∧
     (let y := if x.joined = true then { x with batch := x.batch + 1, joined := false } else x
      exec (.batch c) s = .next (s.setMe { s.me with copies := s.me.copies.setIfInBounds n y }).retire) ∧
     ∀ t : State, t.NoPrefix → (∃ o, t.ctxHolder (t.copyCtx n) = some o ∧ o ≠ (t.cur.2, t.u.unit)) → t.activation = false →
       n < copyContexts t.cur.1 → exec (.cpy d a b c r e) t = .next (t.trap .engineOwner 0 0 0) ∧
         exec (.batch c) t = .next (t.trap .engineOwner 0 0 0)) ∧
  (∀ (s : State) (d a b : Reg) (c : BitVec 3) (im : List Byte) (l : Option Nat), s.NoPrefix → s.slot.pair = none →
     let die := dieOf s.cur.1
     let wb := s.reg b
     let view := s.u.views[c.toNat]?.getD {}
     let ticket := view.issued + 1
     let command : CollCmd :=
       { core := s.cur.1, slot := s.cur.2, unit := s.u.unit, job := s.u.job, home := s.u.home, lcore := s.u.lcore, wb
         src := s.reg a, dst := s.reg (a + 1), ticket, mod := c.toNat, image := im, launch := l }
     (s.collCtx die c.toNat).length < 4 →
     (s.schedule? die s.u.job (bits wb 11 0) = none → exec (.coll d a b c) s = .next (s.trap .engineArg 0 0 0)) ∧
     (s.schedule? die s.u.job (bits wb 11 0) = some (im, l) → bits wb 14 12 ≤ 3 → bits wb 17 15 ≤ 3 → 1 ≤ bits wb 63 32 →
       bits wb 31 18 = 0 → collSuits (Sched.kind im) (bits wb 17 15) = true →
       s.endRange 0 false (s.reg a) (bits wb 63 32 * collWidth (bits wb 14 12)) = .ok () →
       s.endRange 0 true (s.reg (a + 1)) (bits wb 63 32 * collWidth (bits wb 14 12)) = .ok () →
       let k := (s.setU { s.u with views := s.u.views.setIfInBounds c.toNat { view with issued := ticket } }).perform
         (.coll die c.toNat command)
       exec (.coll d a b c) s = .next ((k.engineIssued k.u.unit).setReg d ticket).retire))

/-- The Bezel's words: on any other core they are ILL_FUNCTION; HASHC queues a command under the next ticket of HASH, or is ENGINE_ARG
out of the order start, continue, finish; SIGNC one under that of SIGN; RNDG gives 64 bits of the random source, a free value (log 8);
MEXT extends or reads a measurement register in supervisor mode (R321, R336). -/
def Obligations.BezelWords : Prop :=
  ∀ (s t u v : State) (d a b : Reg) (m : BitVec 2) (n : BitVec 3) (segs outs sig res : List Segment) (bs : List Byte),
    (s.kind ≠ .bezel → exec (.hashc d a b m) s = .next (s.trap .illFunction 0 0 0) ∧
      exec (.signc d a m) s = .next (s.trap .illFunction 0 0 0) ∧ exec (.rndg d) s = .next (s.trap .illFunction 0 0 0) ∧
      ∀ x, exec (.mext a b x n) s = .next (s.trap .illFunction 0 0 0)) ∧
    (s.kind = .bezel → s.NoPrefix →
      exec (.rndg d) s = .next (({ s with drawn := s.drawn + 1 } : State).setReg d (Config.random s.drawn)).retire ∧
      (s.bezel.hashOpen ≠ decide (2 ≤ m.toNat) → exec (.hashc d a b m) s = .next (s.trap .engineArg 0 0 0)) ∧
      (∀ x, s.slot.mode = false → exec (.mext a b x n) s = .next (s.trap .illPriv 0 0 0)) ∧
      (bits s.u.memdef 7 6 ≤ 1 →
        (bits (s.reg b) 63 32 = 0 → s.bezel.hashOpen = decide (2 ≤ m.toNat) →
          s.resolve (s.plainAccess false) (s.reg a) (s.reg b).toNat 0 = .ok (segs, t) →
          t.resolve (t.plainAccess true) (t.reg (a + 1)) (if m = 0 ∨ m = 3 then 48 else 0) 0 = .ok (outs, u) →
          let k := u.withBezel fun z => { z with
            hashIssued := s.bezel.hashIssued + 1, hashOpen := !decide (m = 0 ∨ m = 3)
            hashCmds := z.hashCmds ++ [{ mode := m.toNat, input := segs, output := outs, unit := u.u.unit }] }
          exec (.hashc d a b m) s = .next ((k.engineIssued k.u.unit).setReg d (s.bezel.hashIssued + 1)).retire) ∧
        (∀ w, s.loadAccess (s.plainAccess false) (s.reg a) 40 0 = .ok (bs, w) →
          let field (n : Nat) : Word := leWord ((bs.drop n).take 8)
          w.resolve (w.plainAccess false) (field 0) (field 8).toNat 0 = .ok (segs, t) →
          t.resolve (t.plainAccess (m.toNat % 2 == 0)) (field 16) (if m.toNat < 2 then 384 else 7856) 0 = .ok (sig, u) →
          u.resolve (u.plainAccess true) (s.reg a + 32) 8 0 = .ok (res, v) →
          let k := v.withBezel fun z => { z with
            signIssued := v.bezel.signIssued + 1
            signCmds := z.signCmds ++ [{ op := m.toNat, key := bits (field 24) 7 0, message := segs, signature := sig, result := res
                                         unit := v.u.unit }] }
          exec (.signc d a m) s = .next ((k.engineIssued k.u.unit).setReg d (v.bezel.signIssued + 1)).retire) ∧
        (s.slot.mode = true →
          (∀ w, bits (s.reg b) 63 32 = 0 → s.loadAccess (s.plainAccess false) (s.reg a) (s.reg b).toNat 0 = .ok (bs, w) →
            let digest := Sha384.digest ((s.bezel.meas[n.toNat]?.getD []) ++ bs)
            exec (.mext a b 1 n) s = .next (if w.bezel.locked = true ∧ n.toNat ≤ 3 then s.trap .tableArg 15 0 0
              else (w.withBezel fun z => { z with meas := z.meas.setIfInBounds n.toNat digest }).retire)) ∧
          (∀ w, s.storeAccess (s.plainAccess true) (s.reg a) (s.bezel.meas[n.toNat]?.getD []) 0 = .ok w →
            exec (.mext a b 0 n) s = .next w.retire))))

/-- TLWAIT goes on at once when its ticket has been reached, waits while it has been issued and not reached, and traps with TIMELINE_ARG
when it has not been issued; TLWAITB waits while more than N batches are outstanding; TLREAD gives REACHED or ISSUED; a timeline that
the kind of core lacks is ILL_FUNCTION, and handlers and gusts may not block (R24, R339 to R343).
CNTWAIT gives the counter's word once the counter has reached the value or the unit is cancelled, and waits before; a number beyond
the job's window is COUNTER_RANGE with the number, for CANCEL too, whose level 5 names no counter; PHREAD waits for GPHASE above wa
(R346 to R348, R360). -/
def Obligations.TimelinesAndCounters : Prop :=
  (∀ (s : State) (d a n tl : Reg) (i : BitVec 1),
     (timelineOn s.kind tl.toNat = false → exec (.tlwait a tl) s = .next (s.trap .illFunction 0 0 0) ∧
       exec (.tlwaitb n tl) s = .next (s.trap .illFunction 0 0 0) ∧ exec (.tlread d i tl) s = .next (s.trap .illFunction 0 0 0)) ∧
     (timelineOn s.kind tl.toNat = true → s.NoPrefix →
       let issued := (s.timelineOf tl.toNat).1
       let reached := (s.timelineOf tl.toNat).2
       exec (.tlread d i tl) s = .next (s.setReg d (if i = 1 then issued else reached)).retire ∧
       (s.activation = true → exec (.tlwait a tl) s = .next (s.trap .handlerBlock 0 0 0) ∧
         exec (.tlwaitb n tl) s = .next (s.trap .handlerBlock 0 0 0)) ∧
       (s.activation = false →
         exec (.tlwait a tl) s = .next (
           if issued.toNat < (s.reg a).toNat then s.trap .timelineArg 0 (s.reg a) 0
           else if reached.toNat < (s.reg a).toNat then s.setWait (.timeline tl.toNat (s.reg a)) else s.retire) ∧
         exec (.tlwaitb n tl) s = .next (if n.toNat < s.openBatches tl.toNat then s.setWait (.batches tl.toNat n.toNat) else s.retire)))) ∧
  (∀ (s : State) (d a b : Reg) (l : BitVec 3) (c j : Nat), s.NoPrefix → s.u.job = some j →
     let n := bits (s.reg a) 11 0
     let v := BitVec.ofNat 32 (bits (s.reg b) 31 0)
     let own := s.job?.bind fun j => State.windowCounter j n
     (own = none → (l ≠ 5 → exec (.cancel a l) s = .next (s.trap .counterRange 0 (BitVec.ofNat 64 n) 0)) ∧
       (s.activation = false → exec (.cntwait d a b) s = .next (s.trap .counterRange 0 (BitVec.ofNat 64 n) 0))) ∧
     (own = some c → (l ≠ 5 → exec (.cancel a l) s = .next (s.retire.cancelLevel j l.toNat c)) ∧
       (s.activation = false → exec (.cntwait d a b) s = .next (
         if s.reached (c, v) = true ∨ s.unitCancelled = true then (s.setReg d (s.counterWord c)).retire else s.setWait (.counter c v)))) ∧
     exec (.cancel a 5) s = .next (s.retire.cancelJob j) ∧
     (s.activation = true → exec (.cntwait d a b) s = .next (s.trap .handlerBlock 0 0 0) ∧
       exec (.phread d a) s = .next (s.trap .handlerBlock 0 0 0)) ∧
     (s.activation = false →
       let x := s.gphase + s.phaseOffset
       exec (.phread d a) s = .next (
         if (s.reg a).toNat < x.toNat ∨ s.unitCancelled = true then ((s.seePhase x).setReg d x).retire else s.setWait (.gphase (s.reg a)))))

/-- PHADV waits while an engine command that the core issued is outstanding; then, outside a pair, the dirty untracked bytes are written,
the untracked lines dropped, and PHASE rises by one in a job with untracked phases, its new value in wd (R257, R359, R388).
PCNT: f = 0 reads the counter that wa names (how far an event of time has raised it is a free value; log 17); f = 1 sets its event and
f = 2 its value, in supervisor mode alone, and an event above 13 is ILL_FUNCTION (R361, R362). -/
def Obligations.PhasesAndCounts : Prop :=
  (∀ (s : State) (d : Reg), s.NoPrefix → s.slot.pair = none →
     let idle := (∀ x ∈ s.me.copies.toList, ∀ d ∈ x.cmds, d.finished = true) ∧ s.me.walks = [] ∧ (∀ t ∈ s.me.stages, t.ticket = 0) ∧
       (∀ x ∈ s.dies, ∀ cs ∈ x.2.coll.toList, ∀ k ∈ cs, k.core ≠ s.cur.1) ∧
       (s.kind = .bezel → s.bezel.hashCmds = [] ∧ s.bezel.signCmds = [])
     (¬idle → exec (.phadv d) s = .next (s.setWait .engines)) ∧
     (idle → ∃ x, exec (.phadv d) s = .next ((s.raisePhase s.cur.1).setReg d x).retire ∧
       (∀ n j, s.me.job = some n → AMap.get? s.jobs n = some j → j.untracked = true →
         x = s.me.phase + 1 + (s.raisePhase s.cur.1).phaseOffset) ∧
       (s.me.job = none → x = s.me.phase + (s.raisePhase s.cur.1).phaseOffset))) ∧
  (∀ (s : State) (d a b : Reg), s.NoPrefix →
     let n := bits (s.reg a) 1 0
     let e := bits (s.reg a) 15 8
     exec (.pcnt d a b 0) s = .next (s.setReg d (s.me.pmc[n]?.getD 0)).retire ∧
     (s.slot.mode = false → exec (.pcnt d a b 1) s = .next (s.trap .illPriv 0 0 0) ∧
       exec (.pcnt d a b 2) s = .next (s.trap .illPriv 0 0 0)) ∧
     (s.slot.mode = true →
       exec (.pcnt d a b 1) s = .next (if e ≤ 13 then
         ((s.setMe { s.me with events := s.me.events.setIfInBounds n e }).setReg d 0).retire else s.trap .illFunction 0 0 0) ∧
       exec (.pcnt d a b 2) s = .next ((s.setMe { s.me with pmc := s.me.pmc.setIfInBounds n (s.reg b) }).setReg d 0).retire))

/-! ### Tables -/

/-- The table words with their operands in order, each behind what a lockstep pair holds, which is performed first (R163, R325): HTSET
enters or removes an entry of the core's handler table, OWNSET a rule of the job, URTSET a range of the part (supervisor), SCHSET a
schedule of one die or of all, CBLOAD the 32 bytes of a codebook slot (R325, R326, R331, R333 to R335). -/
def Obligations.Tables : Prop :=
  ∀ (s t r v : State) (a b : Reg) (f : BitVec 1) (slot : BitVec 3) (bs : List Byte), s.NoPrefix → s.performHeld = .ok r →
    let i := (s.reg b).toNat
    let w := s.reg a
    let w1 := s.reg (a + 1)
    let w2 := s.reg (a + 2)
    (i ≤ 63 → bit w 16 = false →
      exec (.htset a b) s = .next (r.setMe { r.me with handlers := AMap.erase r.me.handlers i }).retire) ∧
    (i ≤ 63 → bit w 16 = true → bits w 1 0 ∈ [1, 2] → bits w 7 2 = 0 → bits w 31 17 = 0 → bits w 63 49 = 0 → bits w 15 8 ≠ 255 →
      bits w 48 32 % 4 = 0 → bits w 48 32 < istoreSize s.cur.1 →
      (∀ e ∈ s.me.handlers, e.1 = i ∨ e.2.q ≠ bits w 1 0 ∨ e.2.type ≠ bits w 15 8) →
      ∀ x y, s.keepRegion a 1 = .ok x → s.keepRegion a 2 = .ok y → State.keepsMeet x y = false →
      let h : Handler := { q := bits w 1 0, type := bits w 15 8, pc := BitVec.ofNat 64 (bits w 48 32), keeps := x ++ y
                           launch := s.u.home, lcore := s.u.lcore, job := s.u.job }
      exec (.htset a b) s = .next (r.setMe { r.me with handlers := AMap.set r.me.handlers i h }).retire) ∧
    (i ≤ 63 → bit w 16 = true → bits w 1 0 = 0 → s.slot.mode = false → exec (.htset a b) s = .next (s.trap .illPriv 0 0 0)) ∧
    (i ≤ 15 → bits w 63 48 = 0 → bits w1 63 48 = 0 → bits w2 15 6 = 0 → bits w2 31 28 = 0 → bits w2 63 43 = 0 → s.reg (a + 3) = 0 →
      (bits w1 47 0 = 0 → exec (.ownset a b) s =
        .next (r.mapJob (s.u.job.getD 0) fun j => { j with owners := AMap.erase j.owners i }).retire) ∧
      (bits w1 47 0 ≠ 0 → bits w2 5 0 ≤ 47 → 1 ≤ bits w2 27 16 → bits w2 27 16 ≤ 2048 → bits w2 42 32 + bits w2 27 16 ≤ s.u.lcount →
        let rule : OwnerRule := { base := bits w 47 0, length := bits w1 47 0, shift := bits w2 5 0, count := bits w2 27 16
                                  first := bits w2 42 32, launch := s.u.home }
        exec (.ownset a b) s = .next (r.mapJob (s.u.job.getD 0) fun j => { j with owners := AMap.set j.owners i rule }).retire)) ∧
    (s.slot.mode = false → exec (.urtset a b) s = .next (s.trap .illPriv 0 0 0)) ∧
    (s.slot.mode = true → i ≤ 63 → bits w 11 0 = 0 → bits w 63 52 = 0 → w1.toNat ≤ 2 ^ 28 →
      (w1 = 0 → exec (.urtset a b) s = .next ({ r with ranges := AMap.erase s.ranges i } : State).retire) ∧
      (w1 ≠ 0 → w.toNat + w1.toNat * 4096 ≤ 2 ^ 52 →
        (∀ r ∈ AMap.erase s.ranges i, w.toNat + w1.toNat * 4096 ≤ r.2.1 ∨ r.2.1 + r.2.2 * 4096 ≤ w.toNat) →
        exec (.urtset a b) s = .next ({ r with ranges := AMap.set r.ranges i (w.toNat, w1.toNat) } : State).retire)) ∧
    (bits s.u.memdef 7 6 ≤ 1 → w1.toNat % 16 = 0 → w1.toNat ≤ 65536 → w.toNat % 16 = 0 →
      s.loadAccess (s.plainAccess false) w w1.toNat 0 = .ok (bs, t) →
      let n := (t.reg b).toNat
      let dies := if f = 1 then List.range 4 else [dieOf t.cur.1]
      let key := State.schedKey t.u.job n
      n < 4096 → Sched.fault? bs t.u.lcount = none → (∀ k ∈ dies, t.schedRoom k key bs = true) →
      t.performHeld = .ok v →
      exec (.schset a b f) s = .next (dies.foldl (fun k e => k.setDie e { k.die e with
        schedules := AMap.set (k.die e).schedules key (bs, k.u.home) }) v).retire) ∧
    (MatrixReady s → bits s.u.memdef 7 6 ≤ 1 → w.toNat % 32 = 0 → s.loadAccess (s.plainAccess false) w 32 0 = .ok (bs, t) →
      t.performHeld = .ok v → v.oddOwned = false → v.me.owner = some (v.cur.2, v.u.unit) → v.me.zeroing = false → v.me.matrix = [] →
      exec (.cbload a slot) s = .next (v.store (codebookCell v.cur.1 slot.toNat 0) bs).retire)

/-- Keys, maps and handles: SEQNEW makes the lowest Free slot Live under a fresh key, 0 where none is Free; SEQEND kills a Live slot; CMAP #2
frees a map of the job, CMAP #0 makes one of the cores chosen under the lowest free number; EPREQ grants the handle of a request in
order, with its status (R274, R297, R328, R329, R332). -/
def Obligations.KeysMapsHandles : Prop :=
  ∀ (s t r v : State) (d a b : Reg) (f : BitVec 3) (k : Nat), s.NoPrefix → s.performHeld = .ok r → s.dropMaps.performHeld = .ok v →
    (s.slot.mode = false → exec (.seqnew d) s = .next (s.trap .illPriv 0 0 0) ∧ exec (.seqend a) s = .next (s.trap .illPriv 0 0 0)) ∧
    (s.slot.mode = true → r.bezel.alarmed = false →
      ((∀ n, 1 ≤ n → n ≤ 255 → (r.keySlot n).state ≠ .free) → exec (.seqnew d) s = .next (r.setReg d 0).retire) ∧
      (1 ≤ k → k ≤ 255 → (r.keySlot k).state = .free → (∀ n, 1 ≤ n → n < k → (r.keySlot n).state ≠ .free) →
        let t : State := { r with keysDrawn := r.keysDrawn + 1, keys := AMap.set r.keys k { state := .live, key := r.keysDrawn + 1 } }
        exec (.seqnew d) s = .next (t.setReg d (BitVec.ofNat 64 k)).retire)) ∧
    (s.slot.mode = true → exec (.seqend a) s = .next (
      if 1 ≤ (s.reg a).toNat ∧ (s.reg a).toNat ≤ 255 ∧ (s.keySlot (s.reg a).toNat).state = .live then (r.killKey (s.reg a).toNat).retire
      else s.trap .tableArg 15 0 0)) ∧
    (∀ m, AMap.get? s.dropMaps.maps (s.dropMaps.reg a).toNat = some m → m.job = s.dropMaps.u.job → m.freed = false →
      exec (.cmap d a b 0 2) s = .next (({ v with
        maps := AMap.set v.maps (s.dropMaps.reg a).toNat { m with freed := true } } : State).dropMaps).retire) ∧
    (let m := s.dropMaps
     let w := m.reg b
     let n := bits w 19 8
     ∀ cs, (bit w 1 = true → bit w 0 = false) → (bits w 3 2 ≠ 0 → bit w 0 = true) → bits w 7 4 = 0 → 1 ≤ n → n ≤ 2048 →
       bits w 21 20 ≠ 3 → bits w 63 22 = 0 →
       m.chooseCores (bit w 0) (bit w 1) (bits w 3 2) n (if bits w 21 20 = 1 then dieOf m.cur.1 else 0) 0 (bits w 21 20 == 0)
         (bits w 21 20 == 2) = some cs →
       (m.freeMap = none → exec (.cmap d a b 0 0) s = .next (s.trap .tableFull 0 0 0)) ∧
       (let new : CoreMap := { job := m.u.job, smallCores := bit w 0, pair := bit w 1, cuff := bits w 3 2, cores := cs }
        m.freeMap = some k → exec (.cmap d a b 0 0) s =
          .next (({ v with maps := AMap.set v.maps k new } : State).setReg d (BitVec.ofNat 64 k)).retire)) ∧
    (let status (u : State) (h : Word) (x : Nat) : State := (u.setReg d h).setReg (d + 1) (BitVec.ofNat 64 x)
     let req := r.reg a
     let cs := if f.toNat % 2 = 1 then r.mapCores else [r.cur.1]
     (r.bezel.alarmed = true → exec (.epreq d a f) s = .next (status r 0 2).retire) ∧
     (r.bezel.alarmed = false →
       (f = 2 ∨ f = 3 → exec (.epreq d a f) s = .next (status (r.ungrant r.u.job cs req) 0 0).retire) ∧
       (f = 4 → exec (.epreq d a f) s = .next (status (r.defineRegion req).2 0 (r.defineRegion req).1).retire) ∧
       (f = 0 ∨ f = 1 → bits req 18 16 ≠ 3 →
         (r.requestOk req = false → exec (.epreq d a f) s = .next (status r 0 2).retire) ∧
         (r.requestOk req = true → t = (r.bindRequest req).2 →
           let h := t.makeHandle req (r.bindRequest req).1
           let g := t.grant t.u.job cs h
           exec (.epreq d a f) s = .next (status g.2 h (if g.1 then 1 else 0)).retire ∧
           (g.1 = false → ∀ c ∈ cs, (t.core c).job = t.u.job → h ∈ (g.2.core c).grants)))))

/-! ### The matrix unit -/

/-- The checks of R180: a matrix word on another kind of core is ILL_FUNCTION; a strand that may not block, another owner's core, and a
gang-issued form outside a session trap with the cause that R180 gives; an owner that is pre-empted bars nobody (R170).
MGANG #1 opens the session of all eight members of a logical row once the other seven wait for it and the row is free, and waits
before; MGANG #0 waits for its clasp and then closes the session for its member (R175, R181). -/
def Obligations.MatrixChecks : Prop :=
  (∀ (s : State) (d a : Reg) (g h z : BitVec 1) (f p : BitVec 3),
     (s.kind ≠ .mcore → exec (.mma d a g h z f) s = .next (s.trap .illFunction 0 0 0) ∧
       exec (.mcb d a g h z p) s = .next (s.trap .illFunction 0 0 0) ∧ exec (.mmx a g h f p) s = .next (s.trap .illFunction 0 0 0) ∧
       exec (.msca d a g h f p) s = .next (s.trap .illFunction 0 0 0)) ∧
     (s.kind = .mcore → s.NoPrefix →
       (s.activation = true →
         exec (.mma d a 1 h z f) s = .next (s.trap .handlerBlock 0 0 0) ∧ exec (.mma d a 0 h z f) s = .next (s.trap .matOwner 0 0 0) ∧
         exec (.mwait 0) s = .next (s.trap .handlerBlock 0 0 0)) ∧
       (s.activation = false → s.u.rep.active = false → s.u.window = none →
         (∀ o, s.me.owner = some o → o ≠ (s.cur.2, s.u.unit) → s.ownerAway s.cur.1 = false →
           exec (.mma d a g h z f) s = .next (s.trap .matOwner 0 0 0) ∧ exec (.mwait 0) s = .next (s.trap .matOwner 0 0 0)) ∧
         (s.me.owner = none ∨ s.me.owner = some (s.cur.2, s.u.unit) → s.oddOwned = false → s.u.session = false →
           exec (.mma d a 1 h z f) s = .next (s.trap .gangState 0 0 0) ∧ exec (.mmx a 1 h f p) s = .next (s.trap .gangState 0 0 0) ∧
           exec (.mgang 0) s = .next (s.trap .gangState 0 0 0))))) ∧
  (∀ s : State, MatrixReady s →
     let members := (s.rowMembers s.cur.1 (s.u.launch.getD 0) (s.u.lcore / 8)).filter (· != s.cur)
     (s.u.session = false →
       (members.length = 7 → (∀ x ∈ members, s.waitsGang x.1 x.2 = true) → s.rowOpen s.cur.1 = false →
         exec (.mgang 1) s = .next ((members.foldl (fun k x => k.as x.1 x.2 State.joinSession)
           (s.holdRow s.cur.1 (some (s.u.launch.getD 0, s.u.lcore / 8)))).joinSession)) ∧
       (members.length ≠ 7 → exec (.mgang 1) s = .next (s.setWait .gangOpen))) ∧
     (s.u.session = true →
       (s.slot.eprog = 0 → exec (.mgang 0) s = .next (s.setWait (.clasp (s.wordAt s.pc.toNat)))) ∧
       (s.slot.eprog ≠ 0 → s.Live → ∃ t, exec (.mgang 0) s = .next t ∧ (s.Unstepped → t.u.session = false ∧ t.mem = s.mem))))

/-- The matrix words of a strand that owns its core's matrix state and has nothing in flight there: each with operands that R187 to R189
allow has its effect at issue and takes its place in the queue (that the effect is at issue is the model's own, log 21); MZERO, MMOV and
MWAIT likewise (R173, R182 to R184, R187 to R189). Its data moves: MLDA and MLDB with operands that R185 and R186 allow, whose rows or
pieces from EPROG.STEP on resolve, take the next ticket of TLM and leave a data stage behind; MSTD stores the rows of an acc in order from
EPROG.STEP on (R173, R185, R186, R190). -/
def Obligations.MatrixWords : Prop :=
  (∀ (s : State) (d a : Reg) (h z p : BitVec 1) (f q slot : BitVec 3) (m : BitVec 8) (r : BitVec 5), MatrixReady s →
     let w := s.reg a
     let off := bits w 17 0
     let k := bits w 31 20
     let nb := bits w 30 28 + 1
     let a0 := bits w 27 24
     let c := s.cur.1
     let done (t : State) (op : MatrixOp) (steps : Nat) : Out := .next ((t.enqueueOp op).count c 7 steps).finishSteps
     (productOperands w (z == 1) (mmaShape f.toNat).2.1 (mmaShape f.toNat).2.2 (mmaShape f.toNat).1 = .ok () →
       exec (.mma d a 0 h z f) s = done (s.mmaEffect c d.toNat h.toNat off k (z == 1) f.toNat)
         { acc := 2 ^ d.toNat, pacc := 0, codebook := none } k) ∧
     (productOperands w (z == 1) 2 128 4 = .ok () →
       exec (.mcb d a 0 h z slot) s = done (s.mcbEffect c d.toNat h.toNat off k (z == 1) slot.toNat)
         { acc := 2 ^ d.toNat, pacc := 0, codebook := some slot.toNat } k) ∧
     (off % 128 = 0 → bits w 23 18 = 0 → bits w 63 32 = 0 → paccFits f.toNat q.toNat nb = true → a0 + nb ≤ blocksPerRow f.toNat →
       off + nb * blockBytes (bit w 31) f.toNat ≤ 262144 →
       exec (.mmx a 0 h f q) s =
         done ((List.range nb).foldl (fun t b => t.mmxBlock c h.toNat a0 off b f.toNat q.toNat (bit w 31)) s)
           { acc := 0, pacc := paccMask f.toNat q.toNat nb, codebook := none } (32 * nb)) ∧
     (off % 64 = 0 → bits w 23 18 = 0 → bits w 63 31 = 0 → paccFits f.toNat q.toNat nb = true → a0 + nb ≤ 16 →
       off + 64 * nb ≤ 262144 →
       (∀ n, n < 8 → paccMask f.toNat q.toNat nb / 2 ^ n % 2 = 1 → s.me.tags[n]?.getD 0 = f.toNat + 1) →
       exec (.msca d a 0 h f q) s =
         done ((List.range nb).foldl (fun t b => t.mscaBlock c d.toNat h.toNat a0 off b f.toNat q.toNat) s)
           { acc := 2 ^ d.toNat, pacc := 0, codebook := none } 0) ∧
     exec (.mwait m) s = .next s.retire ∧
     (∃ t, exec (.mzero 0 m) s = .next t ∧ t.me.matrix = [{ acc := m.toNat, pacc := 0, codebook := none }] ∧
       ∀ n i j, m.toNat / 2 ^ n % 2 = 1 → n < 8 → i < 32 → j < 64 → t.num (accCell c n i j) 4 = 0) ∧
     (∃ t, exec (.mzero 1 m) s = .next t ∧ t.me.matrix = [{ acc := 0, pacc := m.toNat, codebook := none }] ∧
       ∀ n i j, m.toNat / 2 ^ n % 2 = 1 → n < 8 → i < 32 → j < 64 → t.num (paccCell c n i j) 4 = 0) ∧
     (s.u.vregs ≠ 0 → d.toNat < s.u.vregs → ∀ n : BitVec 3,
       (∃ t, exec (.mmov d (n.setWidth 5) p 0 h r) s = .next t ∧ ∀ i, i < s.u.vlen → i < 32 →
         t.lane d i = BitVec.ofNat 32 (s.num (State.tileCell c (p == 1) n.toNat r.toNat (32 * h.toNat + i)) 4)) ∧
       ∃ t, exec (.mmov d (n.setWidth 5) p 1 h r) s = .next t ∧ t.me.matrix.length = 1 ∧
         (MemoryCanonical s → ∀ i, i < s.u.vlen → i < 32 →
           t.num (State.tileCell c (p == 1) n.toNat r.toNat (32 * h.toNat + i)) 4 = (s.lane d i).toNat))) ∧
  (∀ (s t : State) (d a b : Reg) (h l p : BitVec 1), MatrixReady s →
     let w := s.reg b
     let steps := t.u.issue
     let whole := t.setU { t.u with issue := [] }
     let ticket := whole.me.tlmIssued + 1
     let taken := whole.setMe { whole.me with tlmIssued := ticket }
     let issued := (taken.setReg d ticket).engineIssued taken.u.unit
     let staged (g : DataStage) : State := (issued.setMe { issued.me with stages := issued.me.stages ++ [g] }).finishSteps
     (1 ≤ bits w 8 0 → bits w 8 0 ≤ 256 → bits w 28 24 ≤ 16 → bits w 15 9 = 0 → bits w 23 21 = 0 → bits w 63 29 = 0 →
       s.rowRange a b 0 l = .ok () → s.issueRows a b 0 l 32 = .ok t →
       let g : DataStage := { ticket, unit := issued.u.unit, job := issued.u.job, half := some h.toNat, rb := bits w 8 0
                              nb := bits w 28 24, nr := bits w 20 16 + 1, rows := steps.map some, offset := 0, gang := false }
       exec (.mlda d a b 0 h l) s = .next (staged g)) ∧
     (bits w 17 0 % 128 = 0 → bits w 31 18 = 0 → bits w 63 32 % 128 = 0 → 128 ≤ bits w 63 32 → bits w 63 32 ≤ 32768 →
       bits w 17 0 + bits w 63 32 ≤ 262144 → (s.reg a).toNat % 16 = 0 →
       s.pieceRange a b l = .ok () → s.issuePieces a b l 256 = .ok t →
       let g : DataStage := { ticket, unit := issued.u.unit, job := issued.u.job, half := none, rb := bits w 63 32, nb := 0, nr := 0
                              rows := [some (steps.flatMap (·.1), [])], offset := bits w 17 0, gang := false }
       exec (.mldb d a b l) s = .next (staged g)) ∧
     (bits w 15 0 % 4 = 0 → 1 ≤ bits w 30 24 → bits w 30 24 ≤ 64 → bits w 23 21 = 0 → bits w 63 31 = 0 → (s.reg a).toNat % 4 = 0 →
       s.storeRange a b l = .ok () →
       s.storeRows { attr := s.matrixAttr l, reads := false, writes := true } (p == 1) d.toNat (s.reg a) (bits w 15 0) (bits w 30 24)
         (bits w 20 16 + 1 - s.slot.eprog) s.slot.eprog = .ok t →
       exec (.mstd d a b p l) s = .next t.finishSteps))

/-- A product of MMA element by element: acc row i, column j after an operation of K values is the sum of the k-groups of A's row i and
B's column j added to its old value with one rounding each, or the wrapped exact sum for i8, and no other byte of memory changes
(R62 to R64, R169, R187). -/
def Obligations.MatrixProduct : Prop :=
  ∀ (s : State) (c n h off k : Nat) (z : Bool) (f : Nat), MemoryCanonical s → n < 8 → h < 2 → f < 6 →
    let t := s.mmaEffect c n h off k z f
    let w := (mmaShape f).1
    let group := (mmaShape f).2.1
    let avalue (i e : Nat) : Nat := packed w (s.num (halfCell c h i 0) 256) e
    let bvalue (j e : Nat) : Nat := bValue (s.bRuns c z w off k) z w e j
    (∀ i j, i < 32 → j < 64 →
      t.num (accCell c n i j) 4 = (
        if f = 3 then intSum k (fun e => (BitVec.ofNat 8 (avalue i e)).toInt) (fun e => (BitVec.ofNat 8 (bvalue j e)).toInt)
          (s.num (accCell c n i j) 4)
        else floatSum group (k / group) (fun e => (mmaFormat f).read (avalue i e)) (fun e => (mmaFormat f).read (bvalue j e))
          (s.num (accCell c n i j) 4)) % 2 ^ 32) ∧
    (∀ e, ¬(accCell c n 0 0 ≤ e ∧ e < accCell c n 0 0 + 8192) → t.byte e = s.byte e)

/-! ### Events: strands and rows -/

/-- Events of a slot: an asynchronous cause that is the only one pending is taken at a boundary with IE set, PREC 0 and the progress kept,
and not with IE clear; a wait ends when its condition holds and not before; an HALIGN's time passes; an active bank enters retention
and keeps its lanes; a reply that the host has not written changes nothing (R11, R33, R138, R214, R366, R367).
A mismatch of a lockstep pair that compares, that is protected and whose image covers what it has touched: both cores restore the last
image, or the strand's start, and resume at its progress, what was held is discarded and the mismatch counted; the second since a commit
is LOCK_MISMATCH besides. No byte changes but those of the image's covered acc and pacc; an unprotected pair takes LOCK_MISMATCH (R163,
R165).
A slot is filled and a launch's gale reaches a core: a slot that is not Free, is closed, lies beyond the core's or on a part that is not
released takes nothing, nor does one behind a free slot with a candidate of higher rank; a Free one takes its first candidate, a start
being begun on the slot and taken off the core's list, the core passing to its job; the gale records a pending start for each logical
core of the core (R23, R25, R30, R199, R398). -/
def Obligations.SlotEvents : Prop :=
  (∀ s : State,
     let c := s.ev.core
     let i := s.ev.slot
     let x := s.slotAt c i
     ((s.core c).latched = [] → x.status = .ready → x.pre = none →
       (∀ l, x.latched = [l] → x.ie = true → s.ev.index = 0 → exec .asyncCauseTaken s = .next ((s.setSlotAt c i { x with latched := [] }).takeTrap c i
         false l.cause l.info l.eaddr (if x.mode then 0 else x.eprog))) ∧
       (x.ie = false → exec .asyncCauseTaken s = .next s)) ∧
     (∀ w, x.status = .waiting w →
       exec .waitSatisfied s = .next (if s.waitHolds c i w = true then s.setSlotAt c i { x with status := .ready } else s)) ∧
     (∀ pc, x.status = .waiting (.align pc) → exec .halignTimeout s = .next (s.as c i State.retire)) ∧
     (x.status = .ready → exec .halignTimeout s = .next s) ∧
     (i < 4 → ∃ t, exec .bankRetention s = .next t ∧ (t.strandAt c i).v = x.u.v ∧
       ∀ b, b < 4 → (t.strandAt c i).banks[b]?.getD .off =
         if b = s.ev.ctx ∧ x.u.banks[b]?.getD .off = .active then .retention else x.u.banks[b]?.getD .off) ∧
     (s.recordAwaited s.ev.index = none → exec .faultReply s = .next s) ∧
     (∀ r, s.recordAwaited s.ev.index = some r →
       (s.replyStatus r = 1 → exec .faultReply s = .next ((s.setReply r 3).sendReply s.ev.index r false (s.replyGeneration r))) ∧
       (s.replyStatus r = 2 → exec .faultReply s = .next ((s.setReply r 3).sendReply s.ev.index r true (s.replyGeneration r)))) ∧
     (x.pair = none → exec .lockstepMismatch s = .next s) ∧
     (∀ p, x.pair = some p → p.unprotected = true → x.pre = none → State.shortWait x = false → exec .lockstepMismatch s =
       .next ((s.discardHeld c i).takeTrap c i true .lockMismatch 1 0 0)) ∧
     (∀ p u n cells, x.pair = some p → p.unprotected = false → x.pre = none → State.shortWait x = false →
       p.image = some (u, n, cells) ∨ (p.image = none ∧ p.start = some u ∧ n = 0 ∧ cells = []) →
       let cover := match p.area with | some (_, k) => k | none => 0
       p.touched &&& (3 - cover % 4) = 0 →
       let k := s.discardHeld c i
       let wiped (a : Nat) : Prop := p.image.isSome = true ∧
         ((cover % 2 = 1 ∧ accCell c 0 0 0 ≤ a ∧ a < accCell c 0 0 0 + 65536) ∨
          (cover / 2 % 2 = 1 ∧ paccCell c 0 0 0 ≤ a ∧ a < paccCell c 0 0 0 + 65536))
       ∃ t : State, exec .lockstepMismatch s = .next (if p.mismatches = 0 then t else t.takeTrap c i true .lockMismatch 0 0 0) ∧
         (t.slotAt c i).status = .ready ∧ (t.slotAt c i).mode = false ∧ (t.slotAt c i).eprog = n ∧
         t.strandAt c i = State.withReservations (k.strandAt c i) u ∧
         (t.slotAt c i).pair = ((k.slotAt c i).pair.map fun q => { q with mismatches := p.mismatches + 1 }) ∧
         (MemoryCanonical s → ∀ a, ¬ wiped a → (∀ y ∈ cells, y.1 ≠ a) → t.byte a = s.byte a) ∧
         (∀ d, d ≠ c → t.core d = k.core d))) ∧
  (∀ s : State,
     let c := s.ev.core
     let i := s.ev.slot
     ((s.slotAt c i).status ≠ .free ∨ (s.slotAt c i).closed = true ∨ slotCount c ≤ i ∨ s.bezel.released = false →
       exec .slotFill s = .next s) ∧
     (s.fillsLater c i = true → exec .slotFill s = .next s) ∧
     (s.fillable c i = true → s.fillsLater c i = false → (s.choose c i = none → exec .slotFill s = .next s) ∧
       ∀ r t, s.choose c i = some (r, .start t) →
         let k := (s.countPassed c i r).passCore c (s.candidateJob (.start t))
         exec .slotFill s = .next ((k.setCore c { k.core c with starts := (k.core c).starts.erase t }).beginStart c i t)) ∧
     (∀ l, s.asleep c = false → AMap.get? s.launches s.ev.launch = some l → l.dispatched = true → l.done = false →
       (AMap.get? s.jobs l.job).any (·.frozen) = false →
       (l.cancelled = true → exec .gale s = .next s) ∧
       (l.cancelled = false → ∃ t, exec .gale s = .next t ∧
         (t.core c).starts = (s.core c).starts ++ s.galeStarts s.ev.launch l c ∧ t.mem = s.mem ∧
         ∀ k, k ≠ c → t.core k = s.core k)))

/-- Arrivals: a message of the queue's oldest turn joins its queue, and a full queue of user code holds it back; one for a logical core
that has ended is discarded, and one under a retired handle with GRANT_STALE besides (R297, R298); a gust that finds a place is accepted
and one that finds none refused; a value that lands at the strand it was sent to makes its link register present, or becomes the tail of
its queue register (R157, R288, R295, R304). -/
def Obligations.Landings : Prop :=
  ∀ (s : State) (f : Flight) (l : Landing),
    (s.firstFlight s.ev.index = none → exec .messageArrival s = .next s ∧ exec .gustArrival s = .next s) ∧
    (s.firstFlight s.ev.index = some f → s.asleep f.core = false →
      (f.queue = 3 → exec .messageArrival s = .next s ∧
        (∀ t, (s.landFlight f).placeGust f = some t → exec .gustArrival s = .next (t.answer f true)) ∧
        ((s.landFlight f).placeGust f = none → exec .gustArrival s = .next ((s.landFlight f).answer f false))) ∧
      (f.queue < 3 → s.retiredHandle f = true →
        exec .messageArrival s = .next ((s.landFlight f).latchCore f.core { cause := .grantStale })) ∧
      (f.queue < 3 → s.retiredHandle f = false → s.homeEnded f.msg = true → exec .messageArrival s = .next (s.landFlight f)) ∧
      (f.queue < 3 → f.msg.job = none → s.homeEnded f.msg = false →
        (((s.core f.core).aq[f.queue]?.getD []).length < aqDepth f.queue → ∃ t, exec .messageArrival s = .next t ∧
          (t.core f.core).aq[f.queue]?.getD [] = ((s.core f.core).aq[f.queue]?.getD []) ++ [f.msg] ∧ t.net = s.net.erase f ∧
          t.mem = s.mem) ∧
        (aqDepth f.queue ≤ ((s.core f.core).aq[f.queue]?.getD []).length → f.queue ≠ 0 → exec .messageArrival s = .next s))) ∧
    (s.landing? false s.ev.index = none → exec .linkLanding s = .next s) ∧
    (s.landing? true s.ev.index = none → exec .queuePushLanding s = .next s) ∧
    (s.landing? false s.ev.index = some l → l.slot < 4 → l.n < 8 → l.writer = none →
      l.unit = (s.strandAt l.core l.slot).unit →
      ((s.strandAt l.core l.slot).links[l.n]?.getD {}).reserved = true → ∃ t, exec .linkLanding s = .next t ∧
        (t.strandAt l.core l.slot).links[l.n]?.getD {} = { value := l.value, present := true, reserved := false } ∧
        t.landings = s.landings.erase l) ∧
    (s.landing? true s.ev.index = some l → l.slot < 4 → l.n < 8 → l.writer = none →
      l.unit = (s.strandAt l.core l.slot).unit →
      let q := (s.strandAt l.core l.slot).queues[l.n]?.getD {}
      0 < q.reserved → ∃ t, exec .queuePushLanding s = .next t ∧
        (t.strandAt l.core l.slot).queues[l.n]?.getD {} = { items := q.items ++ [l.value], reserved := q.reserved - 1 } ∧
        t.landings = s.landings.erase l)

/-- Events of a row and its cores: the zeroing for a new owner ends, the oldest queued operation leaves, a data stage and a clasp
complete, the watchdog traps the members that wait at a clasp, an idle row is gated, and a shared row passes to another logical row
(R170, R173 to R179, R414). -/
def Obligations.RowEvents : Prop :=
  ∀ s : State,
    let c := s.ev.core
    exec .matrixZeroingDone s = .next (s.setCore c { s.core c with zeroing := false }) ∧
    exec .matrixOpComplete s = .next (s.setCore c { s.core c with matrix := (s.core c).matrix.drop 1 }) ∧
    exec .dataStageComplete s = .next (s.finishStage c s.ev.index) ∧
    exec .claspRelease s = .next (s.clasp s.ev.row) ∧
    (s.watchPaused s.ev.row = true ∨ s.sessionMembers s.ev.row = [] → exec .gangTimeout s = .next s) ∧
    (∀ k i, s.watchPaused s.ev.row = false → s.sessionMembers s.ev.row = [(k, i)] → (s.claspWord k i).isSome = true →
      exec .gangTimeout s = .next (s.takeTrap k i true .gangTimeout 0 0 0)) ∧
    exec .rowSwitch s = .next (s.switchRow s.ev.row s.ev.launch s.ev.index) ∧
    (let cores := (List.range 8).map fun j => s.ev.row * 8 + j
     exec .rowGate s = .next (if cores.all s.gateable = true then cores.foldl State.gateCore s else s))

/-! ### Events: engines and the dispatcher -/

/-- Events of the engines: a copy command that may run does, one that is paused stays; a collective runs once every participant has issued;
the oldest command of the hash engine writes its digest at a finish; a walk runs unless it is paused or held; a key slot's sweep ends
die by die; the host's shootdown takes its translations and ends once no use is left (R211, R239, R274, R315, R316, R319, R321, R335). -/
def Obligations.EngineEvents : Prop :=
  ∀ s : State,
    let x := (s.core s.ev.core).copies[s.ev.ctx]?.getD {}
    (x.cmds[s.ev.index]? = none → exec .copyCommandComplete s = .next s) ∧
    (∀ d, x.cmds[s.ev.index]? = some d →
      (d.paused = true ∨ d.finished = true → exec .copyCommandComplete s = .next s) ∧
      (d.paused = false → d.finished = false → x.pausing = false →
        exec .copyCommandComplete s = .next (s.runCopy s.ev.core s.ev.ctx d))) ∧
    (s.readyColl s.ev.die s.ev.ctx = none → exec .collComplete s = .next s) ∧
    (∀ y, s.readyColl s.ev.die s.ev.ctx = some y → exec .collComplete s = .next (s.runColl s.ev.ctx y s.ev.bytes s.ev.flag)) ∧
    (s.ev.flag = true → exec .bezelEngineComplete s = .next s.completeSign) ∧
    (s.ev.flag = false → (s.bezel.hashCmds = [] → exec .bezelEngineComplete s = .next s) ∧
      ∀ h rest, s.bezel.hashCmds = h :: rest → h.mode = 0 →
        let r := s.readSegments 1023 h.input
        exec .bezelEngineComplete s = .next (((r.2.engineWrite h.output (Sha384.digest r.1)).withBezel fun z => { z with
          hashCmds := rest, hashReached := z.hashReached + 1, hashData := [] }).engineDone h.unit)) ∧
    ((s.core s.ev.core).walks[s.ev.index]? = none → exec .rangeWalkComplete s = .next s) ∧
    (∀ w, (s.core s.ev.core).walks[s.ev.index]? = some w → exec .rangeWalkComplete s =
      .next (if w.paused = true ∨ s.walkHeld s.ev.core w = true then s else s.runWalk s.ev.core w)) ∧
    exec .keySweepComplete s = .next (if (s.keySlot s.ev.index).state = .sweeping then s.sweepDie s.ev.die s.ev.index else s) ∧
    (let t := s.shoot s.ev.kind s.ev.index s.ev.word.toNat
     let r : Shootdown := { kind := s.ev.kind, asn := s.ev.index, page := s.ev.word.toNat, host := some s.ev.amount }
     exec .inval s = .next { t with nextId := t.nextId + 1, shootdowns := AMap.set t.shootdowns t.nextId r }) ∧
    (AMap.get? s.shootdowns s.ev.index = none → exec .shootdownComplete s = .next s) ∧
    (∀ r, AMap.get? s.shootdowns s.ev.index = some r →
      exec .shootdownComplete s = .next (if s.translationUsed r.kind r.asn = true then s else s.endShootdown s.ev.index))

/-- The commands of a submission queue: the slot at HEAD of a queue that may accept, with a header in order, is taken as its code says and
HEAD goes on; a body that breaks its fields cancels the job with QUEUE_FORMAT, and a launch without room is held back (R307 to R311,
R344, R348). -/
def Obligations.Commands : Prop :=
  ∀ (s t u : State) (j : Job) (bs : List Byte),
    let q := s.ev.queue
    let k := s.settleQueue q
    let f (off hi lo : Nat) : Nat := State.field bs off hi lo
    let counter := State.headerCounter j bs
    let done (v : State) : Out :=
      let w := v.mapJob q fun j => { j with head := j.head + 1, fault := none }
      .next (((w.queueWrite q j (State.queueField j 128) (leBytes 8 (j.head + 1).toNat)).2).settleQueue q)
    (AMap.get? k.jobs q = none → ∀ i ∈ [Instr.nopCommand, .launchCommand, .graph, .waitcnt, .signal, .phaseCommand, .cancelCommand],
      exec i s = .next k) ∧
    (AMap.get? k.jobs q = some j → k.mayAccept q = true → k.queueRead q j (State.queueSlot j) 64 = (some bs, t) →
      State.headerOk j bs = true → f 0 8 8 = 0 ∨ t.earlierDone q = true →
      t.queueWrite q j (State.queueField j 128) (leBytes 8 j.head.toNat) = (true, u) → u.ev = s.ev →
      (f 0 7 0 = 0 → exec .nopCommand s = if State.zeroBytes bs 8 64 = true then done (u.advance? counter false) else .next (u.badSlot q 2)) ∧
      (f 0 7 0 = 1 → ((u.descriptor? q { j with windowSize := 4096 } bs) = none → exec .launchCommand s = .next (u.badSlot q 3)) ∧
        ∀ d l, u.descriptor? q { j with windowSize := 4096 } bs = some d → u.descriptor? q j bs = some l →
          (u.placeLaunch (dieOf j.dispatcher) l = none → exec .launchCommand s = .next u) ∧
          ∀ n v, u.placeLaunch (dieOf j.dispatcher) l = some (n, v) → exec .launchCommand s = done v) ∧
      (f 0 7 0 = 2 → (f 8 63 0 = 0 ∨ 1024 < f 8 63 0 → exec .graph s = .next (u.badSlot q 2)) ∧
        (1 ≤ f 8 63 0 → f 8 63 0 ≤ 1024 → State.zeroBytes bs 24 64 = true →
          let a : Word := BitVec.ofNat 64 (f 16 63 0)
          a.toNat % 128 = 0 → canonical a = true → canonical (a + BitVec.ofNat 64 (128 * f 8 63 0 - 1)) = true →
          (u.freeInstance = none → exec .graph s = .next u) ∧
          ∀ c ns v ls, u.freeInstance = some c → (u.die (dieOf j.dispatcher)).pool.length < 256 →
            u.queueRead q j a (128 * f 8 63 0) = (some ns, v) → v.nodes? q j v.nextId ns (f 8 63 0) = .ok ls →
            let x : Graph := { job := q, phase := j.phase, counter, inst := c, launches := [], count := f 8 63 0 }
            let v : State := { v with
              nextId := v.nextId + 1, graphs := AMap.set v.graphs v.nextId x, counters := AMap.set v.counters c {} }
            exec .graph s = done (v.mapJob q fun j => { j with unplaced := ls }))) ∧
      (f 0 7 0 = 3 → (State.windowCounter j (f 8 63 0) = none → exec .waitcnt s = .next (u.badSlot q 2)) ∧
        ∀ c, State.windowCounter j (f 8 63 0) = some c → f 16 63 32 = 0 → State.zeroBytes bs 24 64 = true →
          exec .waitcnt s = done (u.mapJob q fun x => { x with hold := .counter c (BitVec.ofNat 32 (f 16 31 0)) counter })) ∧
      (f 0 7 0 = 4 → f 24 63 1 = 0 → State.zeroBytes bs 32 64 = true →
        let a : Word := BitVec.ofNat 64 (f 8 63 0)
        (a.toNat % 8 ≠ 0 → exec .signal s = .next (u.badSlot q 4)) ∧
        (a.toNat % 8 = 0 → canonical a = true → exec .signal s =
          done (u.mapJob q fun x => { x with hold := .signal a (BitVec.ofNat 64 (f 16 63 0)) (f 24 0 0 == 1) counter }))) ∧
      (f 0 7 0 = 5 → exec .phaseCommand s = if State.zeroBytes bs 8 64 = true then
          done (u.mapJob q fun x =>
            let p : Phase := { AMap.getD x.phases x.phase {} with closed := true, counter }
            { x with phases := AMap.set (AMap.set x.phases x.phase p) (x.phase + 1) {}, phase := x.phase + 1 })
        else .next (u.badSlot q 2)) ∧
      (f 0 7 0 = 6 → State.zeroBytes bs 24 64 = true →
        (f 8 63 0 = 5 → exec .cancelCommand s = done ((u.advance? counter false).cancelJob q)) ∧
        (1 ≤ f 8 63 0 → f 8 63 0 ≤ 4 →
          (State.windowCounter j (f 16 63 0) = none → exec .cancelCommand s = .next (u.badSlot q 2)) ∧
          ∀ c, State.windowCounter j (f 16 63 0) = some c →
            exec .cancelCommand s = done ((u.advance? counter false).cancelLevel q (f 8 63 0) c))))

/-- Scheduling: an instance that has come to its end completes at its level; a dispatch round arbitrates and then dispatches; TAIL_WATCH
is raised at the dispatcher and the next command becomes an event; TICK reaches the cores that hold strands; a pre-emption request is
latched for a strand that runs or waits, and not for a halted one (R307, R345, R351 to R357, R371, R373).
GPHASE is the least PHASE of the active cores when it is published, those without strands having become passive first, and it never
falls; without an active core it stays (R258, R358). -/
def Obligations.Scheduling : Prop :=
  (∀ s : State,
     (s.ev.kind = 1 → exec .instanceCompletion s = .next (s.completeUnit s.ev.launch)) ∧
     (s.ev.kind = 2 → exec .instanceCompletion s = .next (s.completeLaunch s.ev.launch)) ∧
     (s.ev.kind = 3 → exec .instanceCompletion s = .next (s.completeGraph s.ev.launch)) ∧
     (s.ev.kind = 4 → exec .instanceCompletion s = .next (s.completePhase s.ev.queue s.ev.launch)) ∧
     (s.ev.kind = 5 → exec .instanceCompletion s = .next (s.completeJob s.ev.queue)) ∧
     (let t := s.returnShares.beginRound.arbitrate
      exec .nodeDispatch s = .next (t.dispatchFirst t.ev.die (t.dispatchOrder t.ev.die))) ∧
     (AMap.get? s.jobs s.ev.queue = none → exec .tailWatch s = .next s) ∧
     (∀ j, AMap.get? s.jobs s.ev.queue = some j →
       let t := (s.latchCore j.dispatcher { cause := .tailWatch, info := s.ev.queue % 128 }).rereadTail s.ev.queue
       exec .tailWatch s = .next (match (t.nextCommand s.ev.queue).bind State.commandEvent with
         | some i => { t with agenda := t.agenda ++ [{ what := i, args := { queue := s.ev.queue } }] }
         | none => t)) ∧
     (let t := ((AMap.keys s.cores).foldl State.chargeMeter s).beginRound.averageLoads.retryRecords
      exec .tick s = .next (t.busyCores.foldl (fun k c => k.latchCore c { cause := .tick }) t)) ∧
     (∀ p, s.rowOfSlot s.ev.core s.ev.slot = [p] →
       (∀ h, (s.slotAt p.1 p.2).status = .halted h → exec .preempt s = .next s) ∧
       ((s.slotAt p.1 p.2).status = .ready → exec .preempt s = .next (s.latch p.1 p.2 { cause := .preempt })))) ∧
  (∀ s : State,
     let k := (AMap.keys s.cores).foldl State.becomePassive s
     k.gphase = s.gphase ∧ ∃ t, exec .gphasePublish s = .next t ∧ s.gphase.toNat ≤ t.gphase.toNat ∧
     (k.leastPhase = none → t = k) ∧ (∀ m, k.leastPhase = some m → t.gphase.toNat = max s.gphase.toNat m.toNat))

/-! ### Events: lines, links, errors -/

/-- Coherence messages: a request of a die for a line, or its drop of one, joins the requests at the home and is served in its turn; one
for a line that is busy waits there, and one for a line that no die holds makes it busy and asks the host; a message that is not there
changes nothing; an owner answers a forward to the home and the requester, and an invalidation to the home; data and the completion
mark reach the requester, which then installs the line, and the home is told; the host's snoops are answered at once, behind the
request that makes the line busy, or with RspI where the home's own request decides; the host's answers close their transactions, an
answer to nothing being counted (R269 to R277, R285, R393, R394). Responses, completion marks and data change no byte of memory (log 3).
Errors of the hardware raise their causes with what R371 has them say, on the core or the die that found them; an uncorrectable
error poisons its word or line, a register's parity error in a lockstep pair is a mismatch, and a corrected error is only counted
(R165, R200, R369, R371, R372, R392). -/
def Obligations.LinesAndErrors : Prop :=
  (∀ (s : State) (rest : List CohMsg) (o h : Nat),
     let l := s.ev.line
     let e := s.dirLine l
     let home := State.homeOf l
     let counted : State := { s with mgmt := { s.mgmt with protocolErrors := s.mgmt.protocolErrors + 1 } }
     let asked (kind slot : Nat) : LineReq := { line := l, die := s.ev.die, kind, slot }
     let taken : State := { s with mesh := rest }
     let oldest (m : Coh) : Prop := s.mesh = { line := l, source := o, target := h, what := m } :: rest
     exec .drds s = .next (s.requestLine (asked 0 s.ev.index)) ∧ exec .drdx s = .next (s.requestLine (asked 1 s.ev.index)) ∧
     exec .dupg s = .next (s.requestLine (asked 2 s.ev.index)) ∧ exec .dwb s = .next (s.requestLine (asked 3 0)) ∧
     exec .devict s = .next (s.requestLine (asked 4 0)) ∧
     (e.busy.isSome = true → (s.die home).snoops = [] → (∀ r ∈ (s.die home).requests, r.line = l) → ∀ k n,
       s.requestLine (asked k n) = s.setDie home { s.die home with requests := (s.die home).requests ++ [asked k n] }) ∧
     (e = {} → (s.die home).snoops = [] → (s.die home).requests = [] → (s.die home).writeback = [] → (s.filterSet l).length < 12 →
       (∃ t, exec .drds s = .next t ∧ (t.dirLine l).busy = some (s.ev.die, 0) ∧ (t.dirLine l).hostPending = true ∧ t.mem = s.mem) ∧
       (∃ t, exec .drdx s = .next t ∧ (t.dirLine l).busy = some (s.ev.die, 1) ∧ (t.dirLine l).hostPending = true ∧ t.mem = s.mem)) ∧
     (e.busy = none → (s.die home).snoops = [] → (s.die home).requests = [] → (s.die home).writeback = [] →
       let k := s.setDie home (s.die home)
       exec .dwb s = .next (k.dropLine l s.ev.die true) ∧ exec .devict s = .next (k.dropLine l s.ev.die false)) ∧
     ((∀ m ∈ s.mesh, m.line ≠ l) → exec .dfwds s = .next s ∧ exec .dfwdx s = .next s ∧ exec .dinv s = .next s ∧ exec .drsp s = .next s ∧
       exec .dcomp s = .next s ∧ exec .ddata s = .next s ∧ exec .ddone s = .next s) ∧
     (oldest .fwdS → let a := taken.answerSnoop l h true
       let requester := ((a.2.dirLine l).busy.map (·.1)).getD o
       exec .dfwds s = .next ((a.2.sendCoh l h o (.rsp (if a.1 then .o else .s) a.1)).sendCoh l h requester (.data .s false))) ∧
     (oldest .fwdX → let a := taken.answerSnoop l h false
       let requester := ((a.2.dirLine l).busy.map (·.1)).getD o
       exec .dfwdx s = .next ((a.2.sendCoh l h o (.rsp .i a.1)).sendCoh l h requester (.data (if a.1 then .m else .e) false))) ∧
     (oldest .inv → h = s.ev.die → let a := taken.answerSnoop l h false
       let victim := (a.2.dirLine l).busy.any fun x => x.2 == 5
       exec .dinv s = .next (a.2.sendCoh l h o (if victim && a.1 then .data .i false else .rsp .i a.1))) ∧
     (∀ kept dirty, oldest (.rsp kept dirty) → o = s.ev.die →
       exec .drsp s = .next (taken.answered1 l o kept dirty) ∧ (taken.answered1 l o kept dirty).mem = s.mem) ∧
     (oldest .comp → e.busy.isSome = true → ∃ t, exec .dcomp s = .next t ∧ (t.dirLine l).gotComp = true ∧ t.mem = s.mem) ∧
     (∀ g m, oldest (.data g m) → g ≠ .i → e.busy.isSome = true → ∃ t, exec .ddata s = .next t ∧ (t.dirLine l).gotData = some g ∧
       (t.dirLine l).gotComp = (e.gotComp || m) ∧ t.mem = s.mem) ∧
     (∀ m, oldest (.data .i m) → exec .ddata s = .next (taken.answered1 l o .i true)) ∧
     (e.pending ≠ [] → exec .ddone s = .next s) ∧
     (oldest .done → e.pending = [] → (e.busy = none → exec .ddone s = .next taken) ∧
       ∀ d k, e.busy = some (d, k) → exec .ddone s = .next ((taken.mapDir l fun e => State.doneEntry e d k).serveHome h)) ∧
     (s.asksHost l = true → exec .snpShared s = .next (s.answerHost l 0x20) ∧ exec .snpInv s = .next (s.answerHost l 0x20)) ∧
     (s.asksHost l = false →
       (e.busy.isSome = true →
         exec .snpShared s = .next (s.setDie home { s.die home with snoops := (s.die home).snoops ++ [(l, false)] }) ∧
         exec .snpInv s = .next (s.setDie home { s.die home with snoops := (s.die home).snoops ++ [(l, true)] })) ∧
       (e.busy = none →
         (e.state = .i → exec .snpShared s = .next ((s.setHostLine l .i).answerHost l 0x20)) ∧
         (e.state = .s ∨ (e.state ≠ .i ∧ e.owner = none) →
           exec .snpShared s = .next ((s.setHostLine l .s).answerHost l 0x21)) ∧
         (∀ d, e.state ≠ .i → e.state ≠ .s → e.owner = some d →
           let a := s.answerSnoop l d true
           let st : LineState := if a.1 then .o else .s
           exec .snpShared s = .next (((a.2.setDir l { e with state := st, owner := if a.1 then some d else none }).setHostLine l st).answerHost
             l (if a.1 then 0x22 else 0x21) (if a.1 then 4 else 0))) ∧
         exec .snpInv s = .next ((((e.present.foldl (fun k d => k.invalidateDie d l) s).setDir l { e with
           state := .i, present := [], owner := none }).setHostLine l .i).answerHost l
             (if e.present.any (fun d => s.dieDirty d l) then 0x22 else 0x20)))) ∧
     (e.hostPending = false → exec .data s = .next counted) ∧
     (e.hostPending = true → ∃ t, exec .data s = .next t ∧ (∀ x ∈ t.hostTx, x.2.line = l → 3 < x.2.op) ∧
       t.hostLine l = if e.busy.any (fun x => x.2 == 0) && s.ev.kind != 2 then .s else .e) ∧
     (∃ t, exec .cmp s = .next t ∧ ((∀ x ∈ s.hostTx, x.2.op ≠ 3 ∨ x.2.line ≠ l) →
       t = s.closeTx l fun op => op == 3 || op == 5 || op == 8 || op == 10)) ∧
     (let t := s.closeTx l fun op => op == 4 || op == 9
      exec .wbAck s = .next ((t.setDie home { t.die home with writeback := (t.die home).writeback.filter (· != l) }).serveHome home)) ∧
     (∀ x, AMap.get? s.hostTx s.ev.index = some x → x.op = 6 →
       exec .atomicRsp s = .next { s with hostTx := AMap.erase s.hostTx s.ev.index }) ∧
     (AMap.get? s.hostTx s.ev.index = none → exec .atomicRsp s = .next counted) ∧
     exec .hostProtocolError s = .next counted) ∧
  (∀ s : State,
     let c := s.ev.core
     let d := s.ev.die
     let n := s.ev.index
     exec .hostModuleFailover s = .next s ∧
     (let k := s.setDie d { s.die d with modulesUp := (s.die d).modulesUp.setIfInBounds n false }
      exec .hostlinkFail s = .next (k.latchDie d { cause := .hostlinkFail, info := d * 2 + n })) ∧
     exec .d2dFail s = .next (s.latchDie d { cause := .d2dFail, info := n }) ∧
     exec .meshUe s = .next ((s.dropFlight n).latchCore c { cause := .meshUe, info := s.ev.kind }) ∧
     exec .sramUe s = .next ((s.poisonAt c s.ev.kind s.ev.word.toNat).latchCore c
       { cause := .sramUe, eaddr := s.ev.word, info := s.ev.kind }) ∧
     exec .accUe s = .next (s.latchCore c { cause := .accUe, info := n }) ∧
     exec .paccUe s = .next (s.latchCore c { cause := .paccUe, info := n }) ∧
     exec .wbufUe s = .next (s.latchCore c { cause := .wbufUe, eaddr := s.ev.word }) ∧
     exec .abufParity s = .next (s.latchCore c { cause := .abufParity, info := n }) ∧
     exec .cbParity s = .next (s.latchCore c { cause := .cbParity, info := n }) ∧
     exec .rowBusCrc s = .next (s.latchCore c { cause := .rowBusCrc }) ∧
     exec .claspFault s = .next (s.latchCore c { cause := .claspFault }) ∧
     (let x := s.parityOwner c s.ev.slot
      exec .regParity s = .next (if (s.slotAt x.1 x.2).pair.isSome then s.mismatch x.1 x.2
        else (s.noteParity x.1 x.2).latchCore c { cause := .regParity, info := s.ev.kind })) ∧
     (∃ t, exec .correctedError s = .next t ∧ t = { s with mgmt := { s.mgmt with corrected := t.mgmt.corrected } } ∧
       AMap.getD t.mgmt.corrected s.ev.kind 0 = AMap.getD s.mgmt.corrected s.ev.kind 0 + 1) ∧
     (let t : State := { s with holes := s.holes ++ [(s.ev.line * 128, 128)] }
      (s.ev.flag = true → exec .hostErrorAnswer s = .next (t.latch c s.ev.slot { cause := .busError, eaddr := s.ev.word, info := 1 })) ∧
      (s.ev.flag = false → (s.slotAt c s.ev.slot).status = .ready →
        exec .hostErrorAnswer s = .next (t.takeTrap c s.ev.slot true .busError 0 s.ev.word 0))))

/-! ### Events: management, power, security, debug, Span -/

/-- Management requests, in ring order: nothing is served before the ROM has released the firmware (R398); a request that is not there, or
of another operation, is left alone; a locked interface, a queue that is not registered and a value out of range refuse the request with
their cause; what is accepted changes the registrations as R395 to R397, R408, R217 and R419 say. -/
def Obligations.Management : Prop :=
  ∀ (s : State) (bs : List Byte),
    let f (off hi lo : Nat) : Nat := State.field bs off hi lo
    let q := State.queueOf bs
    (s.request = none → ∀ i ∈ [Instr.register, .teardown, .freeze, .resume, .spanRegion, .fwUpdate, .spanJoin, .faultq,
      .unknownManagementOp], exec i s = .next s) ∧
    (AMap.get? s.jobs s.ev.queue = none → exec .drainComplete s = .next s) ∧
    (∀ j place, AMap.get? s.jobs s.ev.queue = some j → j.image = some place →
      exec .drainComplete s = .next (if s.drainDone s.ev.queue = true then s.finishFreeze s.ev.queue place else s)) ∧
    (s.spdm.locked = true → exec .sidebandRegisterWrite s = .next s) ∧
    (s.spdm.locked = false →
      (s.ev.kind = 0 → exec .sidebandRegisterWrite s =
        .next { s with mgmt := { s.mgmt with base := s.ev.word, head := 0, busy := false } }) ∧
      (s.ev.kind = 1 → exec .sidebandRegisterWrite s = .next { s with mgmt := { s.mgmt with bootPa := s.ev.word } })) ∧
    (s.bezel.released = false → ∀ i ∈ [Instr.register, .freeze, .resume, .spanRegion, .fwUpdate, .spanJoin, .faultq,
      .unknownManagementOp], exec i s = .next s) ∧
    (s.request = some bs → s.bezel.released = true →
      (State.opOf bs = 0 ∨ 8 < State.opOf bs → exec .unknownManagementOp s = .next (s.refuseRequest .illFunction)) ∧
      (State.opOf bs = 1 →
        (∀ x, s.register bs = .error x → exec .register s = .next (s.refuseRequest x)) ∧
        (∀ n t, s.register bs = .ok (n, t) → ∃ u : State, exec .register s = .next (u.answerRequest 0 0 n) ∧ u.jobs = t.jobs ∧
          n ∉ u.mgmt.torn)) ∧
      (State.opOf bs = 2 → s.yieldFreeze = s → s.mgmt.busy = false →
        (AMap.get? s.jobs q = none → exec .teardown s = .next (s.refuseRequest .launchArg)) ∧
        ((AMap.get? s.jobs q).isSome = true → exec .teardown s = .next ((s.beginTeardown q).settleTeardown q))) ∧
      (State.opOf bs = 3 → (s.mgmt.busy = true → exec .freeze s = .next s) ∧
        (s.mgmt.busy = false →
          (AMap.get? s.jobs q = none → s.mgmt.torn.contains q = false → exec .freeze s = .next (s.refuseRequest .launchArg)) ∧
          ∀ j, AMap.get? s.jobs q = some j → j.frozen = false →
            exec .freeze s = .next (({ s with mgmt := { s.mgmt with busy := true } } : State).beginFreeze q
              (f 16 63 0, f 24 63 0, f 32 63 0)))) ∧
      (State.opOf bs = 4 → (AMap.get? s.jobs q = none → exec .resume s = .next (s.refuseRequest .launchArg)) ∧
        ∀ j, AMap.get? s.jobs q = some j →
          (∀ x, s.resumeImage q (s.bytes (f 40 63 0) 128) (f 16 63 0) (f 24 63 0) = .error x →
            exec .resume s = .next ((s.writeResult (f 32 63 0) 3 x.code 0).refuseRequest x)) ∧
          ∀ t, s.resumeImage q (s.bytes (f 40 63 0) 128) (f 16 63 0) (f 24 63 0) = .ok t → ∃ n,
            exec .resume s = .next ((t.writeResult (f 32 63 0) 0 0 n).requestDone)) ∧
      (State.opOf bs = 5 → (s.spdm.locked = true → exec .spanRegion s = .next (s.refuseRequest .illPriv)) ∧
        (s.spdm.locked = false → s.spanReady = false → exec .spanRegion s = .next (s.refuseRequest .spanDown)) ∧
        (s.spdm.locked = false → s.spanReady = true → f 16 47 0 % 4096 = 0 → s.ev.flag = true → s.ev.amount = f 24 63 0 →
          ∃ t : State, exec .spanRegion s = .next t.requestDone ∧
            t.span.regions = AMap.set s.span.regions (f 32 63 0) (f 16 47 0 / 4096, f 24 63 0))) ∧
      (State.opOf bs = 6 → s.mgmt.busy = false → (s.spdm.locked = true → exec .fwUpdate s = .next (s.refuseRequest .illPriv)) ∧
        (s.spdm.locked = false → s.jobs = [] →
          let t : State := { s with mgmt := { s.mgmt with
            busy := true, updating := true, images := [], area := f 24 63 0, bootPa := BitVec.ofNat 64 (f 16 63 0) } }
          exec .fwUpdate s = .next (t.reportingCores.foldl (fun k c => k.latchCore c { cause := .fwUpdate }) t))) ∧
      (State.opOf bs = 7 → s.spdm.locked = false →
        (s.span.joined = true ∨ s.bezel.spanEnable = false ∨ s.ev.flag = false →
          exec .spanJoin s = .next (s.refuseRequest .spanDown)) ∧
        (s.span.joined = false → s.bezel.spanEnable = true → s.ev.flag = true → exec .spanJoin s =
          .next ({ s with span := { s.span with joined := true, up := true, acked := 0, expect := 0, replays := 0, seq := 0, unacked := []
                                                sealed := 0, joins := s.span.joins + 1 } } : State).requestDone)) ∧
      (State.opOf bs = 8 → exec .faultq s = .next (
        if s.jobs ≠ [] ∨ f 16 63 0 % 4096 ≠ 0 ∨ 2 ^ 52 ≤ f 16 63 0 ∨ 10 < f 24 63 0 then s.refuseRequest .tableArg
        else ({ s with mgmt := { s.mgmt with faultQueue := some (f 16 63 0, f 24 63 0 + 6) } } : State).requestDone)))

/-- Power and the alarm: a boot whose checks pass locks the first four measurement registers and releases the cores, and one that fails
leaves its BOOT_STATUS and holds them; power off, reset and power on lose every job, key and strand, reset keeping an alarm; the trip sets
BOOT_STATUS 0x10; the clock follows power and temperature; an alarm zeroises the keys, reaches every core and cancels the sealed jobs (R398
to R400, R409, R410, R413 to R416).
The debug port: each instruction shifts out what R412 says; an authorisation is in force only if it verifies and names this part and the
nonce last read; Frost stops the clocks; a request for Off draws a fresh nonce, a free value (log 8), and enters Off; an unknown code while
Sealed raises the alarm, and otherwise acts as BYPASS (R411 to R413). -/
def Obligations.PowerAndDebug : Prop :=
  (∀ s : State,
     let lost (t : State) : Prop := t.jobs = [] ∧ t.keys = [] ∧ t.cores = [] ∧ t.launches = [] ∧ t.bezel.boots = s.bezel.boots + 1 ∧
       (State.bootFault s.bezel.counter s.ev.boot = none → t.bezel.released = true ∧ t.bezel.locked = true ∧
         t.bezel.meas[1]?.getD [] = Sha384.digest (List.replicate 48 0 ++ s.ev.boot.firmware)) ∧
       ∀ n, State.bootFault s.bezel.counter s.ev.boot = some n → t.bezel.released = false ∧ t.mgmt.bootStatus = n
     (∃ t, exec .powerOn s = .next t ∧ lost t ∧ t.bezel.alarmed = false) ∧
     (s.mgmt.updating = false → ∃ t, exec .reset s = .next t ∧ lost t ∧ t.bezel.alarmed = s.bezel.alarmed) ∧
     (∃ t, exec .powerOff s = .next t ∧ t.bezel.off = true ∧ t.jobs = [] ∧ t.keys = [] ∧ t.cores = []) ∧
     (∃ t, exec .thermalTrip s = .next t ∧ t.bezel.off = true ∧ t.mgmt.bootStatus = 0x10) ∧
     (s.ev.index < 115 → ∃ t, exec .powerMeasure s = .next t ∧
       t = { s with bezel := { s.bezel with clock := t.bezel.clock, temperature := s.ev.index } } ∧
       (s.bezel.powerLimit * 1000 < s.ev.amount ∨ 100 < s.ev.index → t.bezel.clock = max 8 (s.bezel.clock - 2)) ∧
       (s.ev.amount * 10 < s.bezel.powerLimit * 9000 → s.ev.index ≤ 100 → s.ev.amount ≤ s.bezel.powerLimit * 1000 →
         t.bezel.clock = min 16 (s.bezel.clock + 2))) ∧
     (115 ≤ s.ev.index → ∃ t, exec .powerMeasure s = .next t ∧ t.bezel.off = true) ∧
     (s.dieIdle s.ev.die = true → exec .dieRetentionEntry s = .next (s.setDie s.ev.die { s.die s.ev.die with retained := true })) ∧
     (s.dieIdle s.ev.die = false → exec .dieRetentionEntry s = .next s) ∧
     exec .dieRetentionExit s = .next (s.setDie s.ev.die { s.die s.ev.die with retained := false }) ∧
     (let t := s.zeroiseKeys.withBezel fun z => { z with alarmed := true }
      exec .alarm s = .next ((t.reportingCores.foldl (fun k c => k.latchCore c { cause := .alarm }) t).cancelSealed))) ∧
  (∀ s : State,
     (∃ t, exec .idcode s = .next t ∧ t = { s with port := t.port } ∧ t.port.out = leBytes 4 Config.idcode.toNat) ∧
     (∃ t, exec .auth s = .next t ∧ t = { s with port := t.port } ∧
       (s.ev.auth.verifies = true → s.ev.auth.serial = Config.serial → s.port.nonce = some s.ev.auth.nonce →
         t.port.authStates = s.ev.auth.states ∧ t.port.authSlots = s.ev.auth.slots) ∧
       (s.ev.auth.verifies = false ∨ s.ev.auth.serial ≠ Config.serial ∨ s.port.nonce ≠ some s.ev.auth.nonce →
         t.port.authStates = [] ∧ t.port.authSlots = [])) ∧
     (∃ t, exec .scanSelect s = .next t ∧ t = { s with port := t.port } ∧ t.port.chain = s.ev.index ∧ t.port.out = []) ∧
     (s.bezel.frost = false → ∃ t, exec .scanRead s = .next t ∧ t = { s with port := t.port } ∧ t.port.out = []) ∧
     (s.bezel.frost = true → ∃ t, exec .scanRead s = .next t ∧ t.port.out.length = 8) ∧
     exec .frostEnter s = .next ((s.tap 0x20 []).frost) ∧ (∃ t, exec .frostEnter s = .next t ∧ t.bezel.frost = true ∧ t.port.state = 3) ∧
     (∃ t, exec .bypass s = .next t ∧ (s.isSealed = false ∨ s.ev.index % 256 ∈ tapCodes →
       t = { s with port := { s.port with ir := BitVec.ofNat 8 s.ev.index, out := [] } })) ∧
     (s.isSealed = true → s.ev.index % 256 ∉ tapCodes → exec .bypass s = .next ((s.tap (s.ev.index % 256) []).raiseAlarm)) ∧
     (s.bezel.frost = false → s.ev.request.state = 0 →
       ∃ t, exec .dbgReq s = .next t ∧ t.port.state = 0 ∧ t.port.nonce = some (Config.random s.drawn)) ∧
     (s.bezel.frost = true → ∃ t, exec .dbgReq s = .next t ∧ t.port.state = s.port.state ∧ t.port.nonce = some (Config.random s.drawn)))

/-- The SPDM responder: each request in its state answers its response, which is handed over with OSEQ, and any other state answers
UnexpectedRequest (4), another version VersionMismatch, a wrong form InvalidRequest (1), a request of another code UnsupportedRequest (7);
after an alarm or a failed boot only GET_VERSION and GET_CAPABILITIES are answered. A request waits, in order of arrival, while another has
no response yet (the forms that R445 does not give, a GET_MEASUREMENTS without signature among them, are the model's, log 24; R398, R402 to
R408, R442 to R445). -/
def Obligations.SpdmResponder : Prop :=
  (∀ s : State,
     (∀ i ∈ [Instr.getVersion, .getCapabilities, .negotiateAlgorithms, .getDigests, .getCertificate,
       .challenge, .getMeasurements, .keyExchange, .finish, .endSession, .lockInterface, .channelOpen, .unsupportedRequest],
       (4 ≤ s.ev.bytes.length → s.ev.bytes.length ≤ 16384 → s.sidebandFree = false →
         exec i s = .next (s.withSpdm fun c => { c with waiting := c.waiting ++ [{ what := i, args := { s.ev with flag2 := true } }] })) ∧
       (s.ev.bytes.length < 4 ∨ 16384 < s.ev.bytes.length → exec i s = .next s)) ∧
     (s.ev.flag = true → exec .channelRecord s = .next (s.sendRecord s.ev.index)) ∧
     (s.ev.flag = false → exec .channelRecord s = .next (s.takeRecord s.ev.record))) ∧
  ∀ s : State, s.native = true → s.sidebandFree = true → 4 ≤ s.ev.bytes.length → s.ev.bytes.length ≤ 16384 →
    let req := s.ev.bytes
    let t := s.deliverRequest req
    let error (code : Nat) : Out := .next (t.respond [0x13, 0x7F, BitVec.ofNat 8 code, 0])
    let later : List Instr := [.negotiateAlgorithms, .getDigests, .getCertificate, .challenge, .getMeasurements, .keyExchange, .finish,
      .endSession, .lockInterface, .channelOpen, .unsupportedRequest]
    (∃ u : State, exec .getVersion s = .next (u.respond State.versionBytes) ∧ u.spdm.stage = 1 ∧
      u.spdm.m = req ++ State.versionBytes ∧ u.spdm.l = req ++ State.versionBytes) ∧
    (s.bezel.alarmed = true ∨ s.mgmt.bootStatus ≠ 0 → ∀ i ∈ later, exec i s = error 5) ∧
    (s.bezel.alarmed = false → s.mgmt.bootStatus = 0 → s.mgmt.updating = false → State.version13 req = false →
      ∀ i ∈ later, exec i s = error 0x41) ∧
    (State.version13 req = true →
      (s.spdm.stage = 1 → req.length = 20 → ∃ u : State, exec .getCapabilities s = .next (u.respond State.capabilityBytes) ∧
        u.spdm.stage = 2) ∧
      (s.spdm.stage ≠ 1 → exec .getCapabilities s = error 4) ∧
      (s.bezel.alarmed = false → s.mgmt.bootStatus = 0 → s.mgmt.updating = false →
        (s.spdm.stage ≠ 3 → ∀ i ∈ [Instr.getDigests, .getCertificate, .challenge, .getMeasurements, .keyExchange, .finish,
          .endSession, .lockInterface, .channelOpen], exec i s = error 4) ∧
        exec .unsupportedRequest s = error 7 ∧
        (s.spdm.stage = 2 → req.length = 48 → (req.getD 8 0).getLsbD 3 = true → (req.getD 12 0).getLsbD 1 = true →
          ∃ u : State, exec .negotiateAlgorithms s = .next (u.respond State.algorithmBytes) ∧ u.spdm.stage = 3) ∧
        (s.spdm.stage = 3 →
          (req.length = 4 → ∃ u : State, exec .getDigests s = .next (u.respond ([0x13, 0x01, 1, 1] ++ Sha384.digest State.chain)) ∧
            u.spdm.stage = 3) ∧
          (req.length = 8 → State.half req 2 = 0 → State.half req 4 < 1652 → State.half req 6 = 0 → ∃ u : State,
            exec .getCertificate s = .next (u.respond ([0x13, 0x02, 0, 0, 0, 0] ++ leBytes 2 (1652 - State.half req 4)))) ∧
          (req.length = 44 → State.half req 2 = 0 → ∃ (u : State) (bs : List Byte), exec .challenge s = .next (u.respond bs) ∧
            u.spdm.m = s.spdm.m.take s.spdm.vca) ∧
          (req.length = 45 → req.getD 2 0 = 1 → req.getD 3 0 = 0xFF → req.getD 36 0 = 0 → ∃ (u : State) (bs : List Byte),
            exec .getMeasurements s = .next (u.respond bs) ∧ u.spdm.l = s.spdm.l.take s.spdm.vca) ∧
          (req.getD 2 0 = 0 → req.length = 12 → req.getD 3 0 = 0xFF → ∃ (u : State) (bs : List Byte),
            exec .getMeasurements s = .next (u.respond bs) ∧ u.spdm.l = s.spdm.l ++ req ++ bs) ∧
          (s.spdm.session = false → s.spdm.handshaking = false → 138 ≤ req.length → req.getD 3 0 = 0 → ∃ (u : State) (bs : List Byte),
            exec .keyExchange s = .next (u.respond bs) ∧ u.spdm.handshaking = true) ∧
          (s.spdm.handshaking = true → s.ev.flag = true → ∃ u : State, exec .finish s = .next (u.respond [0x13, 0x65, 0, 0]) ∧
            u.spdm.session = true ∧ u.spdm.handshaking = false) ∧
          (s.spdm.session = true →
            (req.length = 4 → ∃ u : State, exec .endSession s = .next (u.respond [0x13, 0x6C, 0, 0]) ∧ u.spdm.session = false ∧
              u.spdm.locked = false) ∧
            (s.spdm.locked = false → ∃ u : State, exec .lockInterface s = .next (u.respond [0x13, 0x7E, 0, 0]) ∧ u.spdm.locked = true) ∧
            (s.spdm.locked = true → exec .lockInterface s = error 3) ∧
            (∀ n, s.ev.index ≠ 0 → (s.keySlot s.ev.index).state = .live → AMap.freshBelow s.channels 65536 = some n →
              ∃ u : State, exec .channelOpen s = .next (u.respond ([0x13, 0x7E, 0, 0] ++ leBytes 2 n)) ∧
                ∃ x, AMap.get? u.channels n = some x ∧ x.keySlot = s.ev.index)))))

/-- The Span: a flit out of order is left, the awaited one with a bad CRC only counted toward the replays, and one in order that carries
nothing moves the sequence on and takes what it acknowledges off the list of those to replay; the link's loss raises SPAN_DOWN and its
return ends it; a page in use here is handed over as asked, behind this box's own request and access (R285), unless the link is down
(R284), one that is the other box's is not; an atomic of the other box is performed at its home under the page's key slot, once its line
can be served, or refused with the hint; an access that has waited its time traps with BUS_ERROR, an engine's fails when it is made again
(R281 to R284, R371, R418 to R420). -/
def Obligations.SpanEvents : Prop :=
  ∀ s : State,
    let f := s.ev.flit
    let c := s.ev.core
    let i := s.ev.slot
    (s.span.up = false → exec .spanFlit s = .next s) ∧
    (f.seq ≠ s.span.expect → exec .spanFlit s = .next s) ∧
    (s.span.up = true → f.crcOk = false → f.seq = s.span.expect → s.span.replays < 16 →
      exec .spanFlit s = .next { s with span := { s.span with replays := s.span.replays + 1 } }) ∧
    (s.span.up = true → f.crcOk = true → f.seq = s.span.expect → f.cls = 0 → exec .spanFlit s =
      .next { s with span := { s.span with expect := (s.span.expect + 1) % 256, acked := f.ack, replays := 0
                                           unacked := s.span.unacked.filter fun y => !State.acknowledged f.ack y.1 } }) ∧
    exec .spanRetrain s = .next s.spanLost ∧ (∃ t, exec .spanRetrain s = .next t ∧ t.span.up = false) ∧
    (s.span.joined = true → exec .spanLinkRecovered s = .next { s with span := { s.span with up := true, timedOut := false } }) ∧
    (s.span.joined = false → exec .spanLinkRecovered s = .next s) ∧
    (AMap.get? s.span.pages s.ev.index = none → exec .pageReq s = .next s) ∧
    (∀ p, AMap.get? s.span.pages s.ev.index = some p → s.ev.flag2 = false →
      (p.state = 2 → exec .pageReq s = .next s) ∧
      (p.state ≠ 2 →
        let write := s.ev.flag || p.asked == some true
        let t := s.mapPage s.ev.index fun p => { p with asked := some write }
        let u := t.mapPage s.ev.index fun p => { p with handing := true }
        let first := (p.home = true ∧ p.wanted ≠ 0) ∨ t.pageAwaited s.ev.index = true
        (s.span.up = false ∨ (p.handing = false ∧ first) → exec .pageReq s = .next t) ∧
        (s.span.up = true → p.handing = true ∨ ¬first →
          (u.pageFrame s.ev.index = none → exec .pageReq s = .next (u.handOver s.ev.index write)) ∧
          ∀ k, u.pageFrame s.ev.index = some k → exec .pageReq s = .next (
            if (u.commitFrame k.pa).frameUsed k.pa = true then u.commitFrame k.pa else (u.commitFrame k.pa).handOver s.ev.index write)))) ∧
    (let a := s.ev.atomic
     let asked := AMap.get? s.span.pages a.page
     (s.performsAtomic a.page = true → s.homeBusy (lineOf a.address) = false →
       let r := s.homeAccess [{ key := a.address, length := a.bytes, slot := s.pageSlot a.page }] a.bytes
         (atomicReq a.op a.bytes a.operand.toNat a.expected.toNat) (State.remoteAtomic a)
       exec .spanAtomic s = .next (r.2.sendSpan [.performed (BitVec.ofNat 64 r.1)])) ∧
     (s.performsAtomic a.page = true → s.homeBusy (lineOf a.address) = true →
       exec .spanAtomic s = .next { s with span := { s.span with atomics := s.span.atomics ++ [a] } }) ∧
     (s.performsAtomic a.page = false → s.upgradesPage a.page = false →
       exec .spanAtomic s = .next (s.sendSpan [.refused (asked.any fun p => p.handing || p.state == 2)]))) ∧
    (s.span.up = true → exec .spanLinkTimeout s = .next s) ∧
    (s.span.up = false → s.ev.flag = true → exec .spanLinkTimeout s = .next { s with span := { s.span with timedOut := true } }) ∧
    (∀ va w, s.span.up = false → s.ev.flag = false → (s.slotAt c i).status = .waiting (.span va w) →
      exec .spanLinkTimeout s = .next (s.takeTrap c i true .busError (if w then 3 else 2) va (s.slotAt c i).eprog))

/-! ### The whole machine -/

/-- What reset leaves: no strand anywhere, MEMDEF and GSPILL at their reset values, every slot with IE set in user
mode, GPHASE 0, no job and no key (R22, R55, R103 to R116, R344); memory lists nothing and is canonical (that unlisted bytes read as
zero, and registers without a reset value hold zero, is the model's own, log 1 and log 2). -/
def Obligations.ResetState : Prop :=
  let s := State.reset
  MemoryCanonical s ∧ s.mem = [] ∧ s.gphase = 0 ∧ s.cycle = 0 ∧ s.jobs = [] ∧ s.keys = [] ∧ s.launches = [] ∧
  (∀ c, (s.core c).gspill = 64 + 32 * 256 ∧ (s.core c).sp = 0 ∧ (s.core c).tvec = 0 ∧ (s.core c).phase = 0 ∧ (s.core c).owner = none) ∧
  ∀ c i, i < 4 → (s.slotAt c i).status = .free ∧ (s.slotAt c i).mode = false ∧ (s.slotAt c i).ie = true ∧ (s.slotAt c i).nest = false ∧
    (s.strandAt c i).fpctl = 0 ∧ (s.strandAt c i).memdef = 0x18 ∧ (s.strandAt c i).vregs = 0 ∧ (s.strandAt c i).frames = []

/-- A part that is Off or in Frost does nothing: a step with no event on the agenda that reaches it stops with clocksStopped, and in Off
the next of POWER_ON, RESET and POWER_OFF happens before anything else (R413, R414). That such an event waits on a list is the model's
own (log 4). -/
def Obligations.StoppedClocks : Prop :=
  ∀ s : State, (s.bezel.off = true ∨ s.bezel.frost = true) →
    ((∀ e ∈ s.agenda, unclocked s.bezel.frost e.what = false) → step s = .fault .clocksStopped) ∧
    (∀ e rest, s.agenda = e :: rest → e.what ∈ [Instr.powerOn, .reset, .powerOff] →
      step s = exec e.what { s with agenda := rest, ev := e.args })

/-- Every step keeps the memory canonical, from every state, whatever happens in it: a word, an event, a service of the micro-kernel. That
memory is a list in one canonical form is the model's own (log 2); its bytes are those of R4. -/
def Obligations.MemoryKept : Prop :=
  ∀ s t : State, MemoryCanonical s → step s = .next t → MemoryCanonical t

end
end

