-- ==== Sys2Proof/Laws/Encoding.lean ====
section
/-!
SUPPORT. The fields of an encoded word are the values that it was made of, format by format (R74); a word whose major opcode is
neither 0x00 nor 0x3F is neither of the two words that are all zeros or all ones (R88).
-/

namespace Sys2Proof

theorem toNat_append_eq {m n : Nat} (x : BitVec m) (y : BitVec n) : (x ++ y).toNat = x.toNat * 2 ^ n + y.toNat := by
  rw [BitVec.toNat_append, ← Nat.shiftLeft_add_eq_or_of_lt y.isLt, Nat.shiftLeft_eq]

@[simp] theorem extract_1_1_1_1_4_0 (x0 : BitVec 1) (x1 : BitVec 1) (x2 : BitVec 1) (x3 : BitVec 1) (x4 : BitVec 4) : BitVec.extractLsb' (n := 8) 7 1 (x0 ++ x1 ++ x2 ++ x3 ++ x4) = x0 := by
  apply BitVec.eq_of_toNat_eq
  simp only [BitVec.extractLsb'_toNat, Nat.shiftRight_eq_div_pow, toNat_append_eq]
  omega

@[simp] theorem extract_1_1_1_1_4_1 (x0 : BitVec 1) (x1 : BitVec 1) (x2 : BitVec 1) (x3 : BitVec 1) (x4 : BitVec 4) : BitVec.extractLsb' (n := 8) 6 1 (x0 ++ x1 ++ x2 ++ x3 ++ x4) = x1 := by
  apply BitVec.eq_of_toNat_eq
  simp only [BitVec.extractLsb'_toNat, Nat.shiftRight_eq_div_pow, toNat_append_eq]
  omega

@[simp] theorem extract_1_1_1_1_4_2 (x0 : BitVec 1) (x1 : BitVec 1) (x2 : BitVec 1) (x3 : BitVec 1) (x4 : BitVec 4) : BitVec.extractLsb' (n := 8) 5 1 (x0 ++ x1 ++ x2 ++ x3 ++ x4) = x2 := by
  apply BitVec.eq_of_toNat_eq
  simp only [BitVec.extractLsb'_toNat, Nat.shiftRight_eq_div_pow, toNat_append_eq]
  omega

@[simp] theorem extract_1_1_1_1_4_3 (x0 : BitVec 1) (x1 : BitVec 1) (x2 : BitVec 1) (x3 : BitVec 1) (x4 : BitVec 4) : BitVec.extractLsb' (n := 8) 4 1 (x0 ++ x1 ++ x2 ++ x3 ++ x4) = x3 := by
  apply BitVec.eq_of_toNat_eq
  simp only [BitVec.extractLsb'_toNat, Nat.shiftRight_eq_div_pow, toNat_append_eq]
  omega

@[simp] theorem extract_1_1_1_1_4_4 (x0 : BitVec 1) (x1 : BitVec 1) (x2 : BitVec 1) (x3 : BitVec 1) (x4 : BitVec 4) : BitVec.extractLsb' (n := 8) 0 4 (x0 ++ x1 ++ x2 ++ x3 ++ x4) = x4 := by
  apply BitVec.eq_of_toNat_eq
  simp only [BitVec.extractLsb'_toNat, Nat.shiftRight_eq_div_pow, toNat_append_eq]
  omega

@[simp] theorem extract_1_1_1_3_2_0 (x0 : BitVec 1) (x1 : BitVec 1) (x2 : BitVec 1) (x3 : BitVec 3) (x4 : BitVec 2) : BitVec.extractLsb' (n := 8) 7 1 (x0 ++ x1 ++ x2 ++ x3 ++ x4) = x0 := by
  apply BitVec.eq_of_toNat_eq
  simp only [BitVec.extractLsb'_toNat, Nat.shiftRight_eq_div_pow, toNat_append_eq]
  omega

@[simp] theorem extract_1_1_1_3_2_1 (x0 : BitVec 1) (x1 : BitVec 1) (x2 : BitVec 1) (x3 : BitVec 3) (x4 : BitVec 2) : BitVec.extractLsb' (n := 8) 6 1 (x0 ++ x1 ++ x2 ++ x3 ++ x4) = x1 := by
  apply BitVec.eq_of_toNat_eq
  simp only [BitVec.extractLsb'_toNat, Nat.shiftRight_eq_div_pow, toNat_append_eq]
  omega

@[simp] theorem extract_1_1_1_3_2_2 (x0 : BitVec 1) (x1 : BitVec 1) (x2 : BitVec 1) (x3 : BitVec 3) (x4 : BitVec 2) : BitVec.extractLsb' (n := 8) 5 1 (x0 ++ x1 ++ x2 ++ x3 ++ x4) = x2 := by
  apply BitVec.eq_of_toNat_eq
  simp only [BitVec.extractLsb'_toNat, Nat.shiftRight_eq_div_pow, toNat_append_eq]
  omega

@[simp] theorem extract_1_1_1_3_2_3 (x0 : BitVec 1) (x1 : BitVec 1) (x2 : BitVec 1) (x3 : BitVec 3) (x4 : BitVec 2) : BitVec.extractLsb' (n := 8) 2 3 (x0 ++ x1 ++ x2 ++ x3 ++ x4) = x3 := by
  apply BitVec.eq_of_toNat_eq
  simp only [BitVec.extractLsb'_toNat, Nat.shiftRight_eq_div_pow, toNat_append_eq]
  omega

@[simp] theorem extract_1_1_1_3_2_4 (x0 : BitVec 1) (x1 : BitVec 1) (x2 : BitVec 1) (x3 : BitVec 3) (x4 : BitVec 2) : BitVec.extractLsb' (n := 8) 0 2 (x0 ++ x1 ++ x2 ++ x3 ++ x4) = x4 := by
  apply BitVec.eq_of_toNat_eq
  simp only [BitVec.extractLsb'_toNat, Nat.shiftRight_eq_div_pow, toNat_append_eq]
  omega

@[simp] theorem extract_1_1_1_5_0 (x0 : BitVec 1) (x1 : BitVec 1) (x2 : BitVec 1) (x3 : BitVec 5) : BitVec.extractLsb' (n := 8) 7 1 (x0 ++ x1 ++ x2 ++ x3) = x0 := by
  apply BitVec.eq_of_toNat_eq
  simp only [BitVec.extractLsb'_toNat, Nat.shiftRight_eq_div_pow, toNat_append_eq]
  omega

@[simp] theorem extract_1_1_1_5_1 (x0 : BitVec 1) (x1 : BitVec 1) (x2 : BitVec 1) (x3 : BitVec 5) : BitVec.extractLsb' (n := 8) 6 1 (x0 ++ x1 ++ x2 ++ x3) = x1 := by
  apply BitVec.eq_of_toNat_eq
  simp only [BitVec.extractLsb'_toNat, Nat.shiftRight_eq_div_pow, toNat_append_eq]
  omega

@[simp] theorem extract_1_1_1_5_2 (x0 : BitVec 1) (x1 : BitVec 1) (x2 : BitVec 1) (x3 : BitVec 5) : BitVec.extractLsb' (n := 8) 5 1 (x0 ++ x1 ++ x2 ++ x3) = x2 := by
  apply BitVec.eq_of_toNat_eq
  simp only [BitVec.extractLsb'_toNat, Nat.shiftRight_eq_div_pow, toNat_append_eq]
  omega

@[simp] theorem extract_1_1_1_5_3 (x0 : BitVec 1) (x1 : BitVec 1) (x2 : BitVec 1) (x3 : BitVec 5) : BitVec.extractLsb' (n := 8) 0 5 (x0 ++ x1 ++ x2 ++ x3) = x3 := by
  apply BitVec.eq_of_toNat_eq
  simp only [BitVec.extractLsb'_toNat, Nat.shiftRight_eq_div_pow, toNat_append_eq]
  omega

@[simp] theorem extract_1_1_3_3_0 (x0 : BitVec 1) (x1 : BitVec 1) (x2 : BitVec 3) (x3 : BitVec 3) : BitVec.extractLsb' (n := 8) 7 1 (x0 ++ x1 ++ x2 ++ x3) = x0 := by
  apply BitVec.eq_of_toNat_eq
  simp only [BitVec.extractLsb'_toNat, Nat.shiftRight_eq_div_pow, toNat_append_eq]
  omega

@[simp] theorem extract_1_1_3_3_1 (x0 : BitVec 1) (x1 : BitVec 1) (x2 : BitVec 3) (x3 : BitVec 3) : BitVec.extractLsb' (n := 8) 6 1 (x0 ++ x1 ++ x2 ++ x3) = x1 := by
  apply BitVec.eq_of_toNat_eq
  simp only [BitVec.extractLsb'_toNat, Nat.shiftRight_eq_div_pow, toNat_append_eq]
  omega

@[simp] theorem extract_1_1_3_3_2 (x0 : BitVec 1) (x1 : BitVec 1) (x2 : BitVec 3) (x3 : BitVec 3) : BitVec.extractLsb' (n := 8) 3 3 (x0 ++ x1 ++ x2 ++ x3) = x2 := by
  apply BitVec.eq_of_toNat_eq
  simp only [BitVec.extractLsb'_toNat, Nat.shiftRight_eq_div_pow, toNat_append_eq]
  omega

@[simp] theorem extract_1_1_3_3_3 (x0 : BitVec 1) (x1 : BitVec 1) (x2 : BitVec 3) (x3 : BitVec 3) : BitVec.extractLsb' (n := 8) 0 3 (x0 ++ x1 ++ x2 ++ x3) = x3 := by
  apply BitVec.eq_of_toNat_eq
  simp only [BitVec.extractLsb'_toNat, Nat.shiftRight_eq_div_pow, toNat_append_eq]
  omega

@[simp] theorem extract_1_2_1_4_0 (x0 : BitVec 1) (x1 : BitVec 2) (x2 : BitVec 1) (x3 : BitVec 4) : BitVec.extractLsb' (n := 8) 7 1 (x0 ++ x1 ++ x2 ++ x3) = x0 := by
  apply BitVec.eq_of_toNat_eq
  simp only [BitVec.extractLsb'_toNat, Nat.shiftRight_eq_div_pow, toNat_append_eq]
  omega

@[simp] theorem extract_1_2_1_4_1 (x0 : BitVec 1) (x1 : BitVec 2) (x2 : BitVec 1) (x3 : BitVec 4) : BitVec.extractLsb' (n := 8) 5 2 (x0 ++ x1 ++ x2 ++ x3) = x1 := by
  apply BitVec.eq_of_toNat_eq
  simp only [BitVec.extractLsb'_toNat, Nat.shiftRight_eq_div_pow, toNat_append_eq]
  omega

@[simp] theorem extract_1_2_1_4_2 (x0 : BitVec 1) (x1 : BitVec 2) (x2 : BitVec 1) (x3 : BitVec 4) : BitVec.extractLsb' (n := 8) 4 1 (x0 ++ x1 ++ x2 ++ x3) = x2 := by
  apply BitVec.eq_of_toNat_eq
  simp only [BitVec.extractLsb'_toNat, Nat.shiftRight_eq_div_pow, toNat_append_eq]
  omega

@[simp] theorem extract_1_2_1_4_3 (x0 : BitVec 1) (x1 : BitVec 2) (x2 : BitVec 1) (x3 : BitVec 4) : BitVec.extractLsb' (n := 8) 0 4 (x0 ++ x1 ++ x2 ++ x3) = x3 := by
  apply BitVec.eq_of_toNat_eq
  simp only [BitVec.extractLsb'_toNat, Nat.shiftRight_eq_div_pow, toNat_append_eq]
  omega

@[simp] theorem extract_1_3_0 (x0 : BitVec 1) (x1 : BitVec 3) : BitVec.extractLsb' (n := 4) 3 1 (x0 ++ x1) = x0 := by
  apply BitVec.eq_of_toNat_eq
  simp only [BitVec.extractLsb'_toNat, Nat.shiftRight_eq_div_pow, toNat_append_eq]
  omega

@[simp] theorem extract_1_3_1 (x0 : BitVec 1) (x1 : BitVec 3) : BitVec.extractLsb' (n := 4) 0 3 (x0 ++ x1) = x1 := by
  apply BitVec.eq_of_toNat_eq
  simp only [BitVec.extractLsb'_toNat, Nat.shiftRight_eq_div_pow, toNat_append_eq]
  omega

@[simp] theorem extract_1_5_0 (x0 : BitVec 1) (x1 : BitVec 5) : BitVec.extractLsb' (n := 6) 5 1 (x0 ++ x1) = x0 := by
  apply BitVec.eq_of_toNat_eq
  simp only [BitVec.extractLsb'_toNat, Nat.shiftRight_eq_div_pow, toNat_append_eq]
  omega

@[simp] theorem extract_1_5_1 (x0 : BitVec 1) (x1 : BitVec 5) : BitVec.extractLsb' (n := 6) 0 5 (x0 ++ x1) = x1 := by
  apply BitVec.eq_of_toNat_eq
  simp only [BitVec.extractLsb'_toNat, Nat.shiftRight_eq_div_pow, toNat_append_eq]
  omega

@[simp] theorem extract_2_1_0 (x0 : BitVec 2) (x1 : BitVec 1) : BitVec.extractLsb' (n := 3) 1 2 (x0 ++ x1) = x0 := by
  apply BitVec.eq_of_toNat_eq
  simp only [BitVec.extractLsb'_toNat, Nat.shiftRight_eq_div_pow, toNat_append_eq]
  omega

@[simp] theorem extract_2_1_1 (x0 : BitVec 2) (x1 : BitVec 1) : BitVec.extractLsb' (n := 3) 0 1 (x0 ++ x1) = x1 := by
  apply BitVec.eq_of_toNat_eq
  simp only [BitVec.extractLsb'_toNat, Nat.shiftRight_eq_div_pow, toNat_append_eq]
  omega

@[simp] theorem extract_2_1_3_0 (x0 : BitVec 2) (x1 : BitVec 1) (x2 : BitVec 3) : BitVec.extractLsb' (n := 6) 4 2 (x0 ++ x1 ++ x2) = x0 := by
  apply BitVec.eq_of_toNat_eq
  simp only [BitVec.extractLsb'_toNat, Nat.shiftRight_eq_div_pow, toNat_append_eq]
  omega

@[simp] theorem extract_2_1_3_1 (x0 : BitVec 2) (x1 : BitVec 1) (x2 : BitVec 3) : BitVec.extractLsb' (n := 6) 3 1 (x0 ++ x1 ++ x2) = x1 := by
  apply BitVec.eq_of_toNat_eq
  simp only [BitVec.extractLsb'_toNat, Nat.shiftRight_eq_div_pow, toNat_append_eq]
  omega

@[simp] theorem extract_2_1_3_2 (x0 : BitVec 2) (x1 : BitVec 1) (x2 : BitVec 3) : BitVec.extractLsb' (n := 6) 0 3 (x0 ++ x1 ++ x2) = x2 := by
  apply BitVec.eq_of_toNat_eq
  simp only [BitVec.extractLsb'_toNat, Nat.shiftRight_eq_div_pow, toNat_append_eq]
  omega

@[simp] theorem extract_2_2_2_0 (x0 : BitVec 2) (x1 : BitVec 2) (x2 : BitVec 2) : BitVec.extractLsb' (n := 6) 4 2 (x0 ++ x1 ++ x2) = x0 := by
  apply BitVec.eq_of_toNat_eq
  simp only [BitVec.extractLsb'_toNat, Nat.shiftRight_eq_div_pow, toNat_append_eq]
  omega

@[simp] theorem extract_2_2_2_1 (x0 : BitVec 2) (x1 : BitVec 2) (x2 : BitVec 2) : BitVec.extractLsb' (n := 6) 2 2 (x0 ++ x1 ++ x2) = x1 := by
  apply BitVec.eq_of_toNat_eq
  simp only [BitVec.extractLsb'_toNat, Nat.shiftRight_eq_div_pow, toNat_append_eq]
  omega

@[simp] theorem extract_2_2_2_2 (x0 : BitVec 2) (x1 : BitVec 2) (x2 : BitVec 2) : BitVec.extractLsb' (n := 6) 0 2 (x0 ++ x1 ++ x2) = x2 := by
  apply BitVec.eq_of_toNat_eq
  simp only [BitVec.extractLsb'_toNat, Nat.shiftRight_eq_div_pow, toNat_append_eq]
  omega

@[simp] theorem extract_2_3_0 (x0 : BitVec 2) (x1 : BitVec 3) : BitVec.extractLsb' (n := 5) 3 2 (x0 ++ x1) = x0 := by
  apply BitVec.eq_of_toNat_eq
  simp only [BitVec.extractLsb'_toNat, Nat.shiftRight_eq_div_pow, toNat_append_eq]
  omega

@[simp] theorem extract_2_3_1 (x0 : BitVec 2) (x1 : BitVec 3) : BitVec.extractLsb' (n := 5) 0 3 (x0 ++ x1) = x1 := by
  apply BitVec.eq_of_toNat_eq
  simp only [BitVec.extractLsb'_toNat, Nat.shiftRight_eq_div_pow, toNat_append_eq]
  omega

@[simp] theorem extract_2_4_0 (x0 : BitVec 2) (x1 : BitVec 4) : BitVec.extractLsb' (n := 6) 4 2 (x0 ++ x1) = x0 := by
  apply BitVec.eq_of_toNat_eq
  simp only [BitVec.extractLsb'_toNat, Nat.shiftRight_eq_div_pow, toNat_append_eq]
  omega

@[simp] theorem extract_2_4_1 (x0 : BitVec 2) (x1 : BitVec 4) : BitVec.extractLsb' (n := 6) 0 4 (x0 ++ x1) = x1 := by
  apply BitVec.eq_of_toNat_eq
  simp only [BitVec.extractLsb'_toNat, Nat.shiftRight_eq_div_pow, toNat_append_eq]
  omega

@[simp] theorem extract_3_1_2_0 (x0 : BitVec 3) (x1 : BitVec 1) (x2 : BitVec 2) : BitVec.extractLsb' (n := 6) 3 3 (x0 ++ x1 ++ x2) = x0 := by
  apply BitVec.eq_of_toNat_eq
  simp only [BitVec.extractLsb'_toNat, Nat.shiftRight_eq_div_pow, toNat_append_eq]
  omega

@[simp] theorem extract_3_1_2_1 (x0 : BitVec 3) (x1 : BitVec 1) (x2 : BitVec 2) : BitVec.extractLsb' (n := 6) 2 1 (x0 ++ x1 ++ x2) = x1 := by
  apply BitVec.eq_of_toNat_eq
  simp only [BitVec.extractLsb'_toNat, Nat.shiftRight_eq_div_pow, toNat_append_eq]
  omega

@[simp] theorem extract_3_1_2_2 (x0 : BitVec 3) (x1 : BitVec 1) (x2 : BitVec 2) : BitVec.extractLsb' (n := 6) 0 2 (x0 ++ x1 ++ x2) = x2 := by
  apply BitVec.eq_of_toNat_eq
  simp only [BitVec.extractLsb'_toNat, Nat.shiftRight_eq_div_pow, toNat_append_eq]
  omega

@[simp] theorem extract_3_1_4_0 (x0 : BitVec 3) (x1 : BitVec 1) (x2 : BitVec 4) : BitVec.extractLsb' (n := 8) 5 3 (x0 ++ x1 ++ x2) = x0 := by
  apply BitVec.eq_of_toNat_eq
  simp only [BitVec.extractLsb'_toNat, Nat.shiftRight_eq_div_pow, toNat_append_eq]
  omega

@[simp] theorem extract_3_1_4_1 (x0 : BitVec 3) (x1 : BitVec 1) (x2 : BitVec 4) : BitVec.extractLsb' (n := 8) 4 1 (x0 ++ x1 ++ x2) = x1 := by
  apply BitVec.eq_of_toNat_eq
  simp only [BitVec.extractLsb'_toNat, Nat.shiftRight_eq_div_pow, toNat_append_eq]
  omega

@[simp] theorem extract_3_1_4_2 (x0 : BitVec 3) (x1 : BitVec 1) (x2 : BitVec 4) : BitVec.extractLsb' (n := 8) 0 4 (x0 ++ x1 ++ x2) = x2 := by
  apply BitVec.eq_of_toNat_eq
  simp only [BitVec.extractLsb'_toNat, Nat.shiftRight_eq_div_pow, toNat_append_eq]
  omega

@[simp] theorem extract_3_2_0 (x0 : BitVec 3) (x1 : BitVec 2) : BitVec.extractLsb' (n := 5) 2 3 (x0 ++ x1) = x0 := by
  apply BitVec.eq_of_toNat_eq
  simp only [BitVec.extractLsb'_toNat, Nat.shiftRight_eq_div_pow, toNat_append_eq]
  omega

@[simp] theorem extract_3_2_1 (x0 : BitVec 3) (x1 : BitVec 2) : BitVec.extractLsb' (n := 5) 0 2 (x0 ++ x1) = x1 := by
  apply BitVec.eq_of_toNat_eq
  simp only [BitVec.extractLsb'_toNat, Nat.shiftRight_eq_div_pow, toNat_append_eq]
  omega

@[simp] theorem extract_3_3_0 (x0 : BitVec 3) (x1 : BitVec 3) : BitVec.extractLsb' (n := 6) 3 3 (x0 ++ x1) = x0 := by
  apply BitVec.eq_of_toNat_eq
  simp only [BitVec.extractLsb'_toNat, Nat.shiftRight_eq_div_pow, toNat_append_eq]
  omega

@[simp] theorem extract_3_3_1 (x0 : BitVec 3) (x1 : BitVec 3) : BitVec.extractLsb' (n := 6) 0 3 (x0 ++ x1) = x1 := by
  apply BitVec.eq_of_toNat_eq
  simp only [BitVec.extractLsb'_toNat, Nat.shiftRight_eq_div_pow, toNat_append_eq]
  omega

@[simp] theorem extract_4_1_0 (x0 : BitVec 4) (x1 : BitVec 1) : BitVec.extractLsb' (n := 5) 1 4 (x0 ++ x1) = x0 := by
  apply BitVec.eq_of_toNat_eq
  simp only [BitVec.extractLsb'_toNat, Nat.shiftRight_eq_div_pow, toNat_append_eq]
  omega

@[simp] theorem extract_4_1_1 (x0 : BitVec 4) (x1 : BitVec 1) : BitVec.extractLsb' (n := 5) 0 1 (x0 ++ x1) = x1 := by
  apply BitVec.eq_of_toNat_eq
  simp only [BitVec.extractLsb'_toNat, Nat.shiftRight_eq_div_pow, toNat_append_eq]
  omega

@[simp] theorem extract_4_2_0 (x0 : BitVec 4) (x1 : BitVec 2) : BitVec.extractLsb' (n := 6) 2 4 (x0 ++ x1) = x0 := by
  apply BitVec.eq_of_toNat_eq
  simp only [BitVec.extractLsb'_toNat, Nat.shiftRight_eq_div_pow, toNat_append_eq]
  omega

@[simp] theorem extract_4_2_1 (x0 : BitVec 4) (x1 : BitVec 2) : BitVec.extractLsb' (n := 6) 0 2 (x0 ++ x1) = x1 := by
  apply BitVec.eq_of_toNat_eq
  simp only [BitVec.extractLsb'_toNat, Nat.shiftRight_eq_div_pow, toNat_append_eq]
  omega

@[simp] theorem extract_5_1_0 (x0 : BitVec 5) (x1 : BitVec 1) : BitVec.extractLsb' (n := 6) 1 5 (x0 ++ x1) = x0 := by
  apply BitVec.eq_of_toNat_eq
  simp only [BitVec.extractLsb'_toNat, Nat.shiftRight_eq_div_pow, toNat_append_eq]
  omega

@[simp] theorem extract_5_1_1 (x0 : BitVec 5) (x1 : BitVec 1) : BitVec.extractLsb' (n := 6) 0 1 (x0 ++ x1) = x1 := by
  apply BitVec.eq_of_toNat_eq
  simp only [BitVec.extractLsb'_toNat, Nat.shiftRight_eq_div_pow, toNat_append_eq]
  omega

@[simp] theorem extract_7_1_0 (x0 : BitVec 7) (x1 : BitVec 1) : BitVec.extractLsb' (n := 8) 1 7 (x0 ++ x1) = x0 := by
  apply BitVec.eq_of_toNat_eq
  simp only [BitVec.extractLsb'_toNat, Nat.shiftRight_eq_div_pow, toNat_append_eq]
  omega

@[simp] theorem extract_7_1_1 (x0 : BitVec 7) (x1 : BitVec 1) : BitVec.extractLsb' (n := 8) 0 1 (x0 ++ x1) = x1 := by
  apply BitVec.eq_of_toNat_eq
  simp only [BitVec.extractLsb'_toNat, Nat.shiftRight_eq_div_pow, toNat_append_eq]
  omega

@[simp] theorem extract_7_4_0 (x0 : BitVec 7) (x1 : BitVec 4) : BitVec.extractLsb' (n := 11) 4 7 (x0 ++ x1) = x0 := by
  apply BitVec.eq_of_toNat_eq
  simp only [BitVec.extractLsb'_toNat, Nat.shiftRight_eq_div_pow, toNat_append_eq]
  omega

@[simp] theorem extract_7_4_1 (x0 : BitVec 7) (x1 : BitVec 4) : BitVec.extractLsb' (n := 11) 0 4 (x0 ++ x1) = x1 := by
  apply BitVec.eq_of_toNat_eq
  simp only [BitVec.extractLsb'_toNat, Nat.shiftRight_eq_div_pow, toNat_append_eq]
  omega

@[simp] theorem extract_9_2_0 (x0 : BitVec 9) (x1 : BitVec 2) : BitVec.extractLsb' (n := 11) 2 9 (x0 ++ x1) = x0 := by
  apply BitVec.eq_of_toNat_eq
  simp only [BitVec.extractLsb'_toNat, Nat.shiftRight_eq_div_pow, toNat_append_eq]
  omega

@[simp] theorem extract_9_2_1 (x0 : BitVec 9) (x1 : BitVec 2) : BitVec.extractLsb' (n := 11) 0 2 (x0 ++ x1) = x1 := by
  apply BitVec.eq_of_toNat_eq
  simp only [BitVec.extractLsb'_toNat, Nat.shiftRight_eq_div_pow, toNat_append_eq]
  omega

@[simp] theorem extract_10_6_0 (x0 : BitVec 10) (x1 : BitVec 6) : BitVec.extractLsb' (n := 16) 6 10 (x0 ++ x1) = x0 := by
  apply BitVec.eq_of_toNat_eq
  simp only [BitVec.extractLsb'_toNat, Nat.shiftRight_eq_div_pow, toNat_append_eq]
  omega

@[simp] theorem extract_10_6_1 (x0 : BitVec 10) (x1 : BitVec 6) : BitVec.extractLsb' (n := 16) 0 6 (x0 ++ x1) = x1 := by
  apply BitVec.eq_of_toNat_eq
  simp only [BitVec.extractLsb'_toNat, Nat.shiftRight_eq_div_pow, toNat_append_eq]
  omega

@[simp] theorem extract_12_4_2_2_3_3_0 (x0 : BitVec 12) (x1 : BitVec 4) (x2 : BitVec 2) (x3 : BitVec 2) (x4 : BitVec 3) (x5 : BitVec 3) : BitVec.extractLsb' (n := 26) 14 12 (x0 ++ x1 ++ x2 ++ x3 ++ x4 ++ x5) = x0 := by
  apply BitVec.eq_of_toNat_eq
  simp only [BitVec.extractLsb'_toNat, Nat.shiftRight_eq_div_pow, toNat_append_eq]
  omega

@[simp] theorem extract_12_4_2_2_3_3_1 (x0 : BitVec 12) (x1 : BitVec 4) (x2 : BitVec 2) (x3 : BitVec 2) (x4 : BitVec 3) (x5 : BitVec 3) : BitVec.extractLsb' (n := 26) 10 4 (x0 ++ x1 ++ x2 ++ x3 ++ x4 ++ x5) = x1 := by
  apply BitVec.eq_of_toNat_eq
  simp only [BitVec.extractLsb'_toNat, Nat.shiftRight_eq_div_pow, toNat_append_eq]
  omega

@[simp] theorem extract_12_4_2_2_3_3_2 (x0 : BitVec 12) (x1 : BitVec 4) (x2 : BitVec 2) (x3 : BitVec 2) (x4 : BitVec 3) (x5 : BitVec 3) : BitVec.extractLsb' (n := 26) 8 2 (x0 ++ x1 ++ x2 ++ x3 ++ x4 ++ x5) = x2 := by
  apply BitVec.eq_of_toNat_eq
  simp only [BitVec.extractLsb'_toNat, Nat.shiftRight_eq_div_pow, toNat_append_eq]
  omega

@[simp] theorem extract_12_4_2_2_3_3_3 (x0 : BitVec 12) (x1 : BitVec 4) (x2 : BitVec 2) (x3 : BitVec 2) (x4 : BitVec 3) (x5 : BitVec 3) : BitVec.extractLsb' (n := 26) 6 2 (x0 ++ x1 ++ x2 ++ x3 ++ x4 ++ x5) = x3 := by
  apply BitVec.eq_of_toNat_eq
  simp only [BitVec.extractLsb'_toNat, Nat.shiftRight_eq_div_pow, toNat_append_eq]
  omega

@[simp] theorem extract_12_4_2_2_3_3_4 (x0 : BitVec 12) (x1 : BitVec 4) (x2 : BitVec 2) (x3 : BitVec 2) (x4 : BitVec 3) (x5 : BitVec 3) : BitVec.extractLsb' (n := 26) 3 3 (x0 ++ x1 ++ x2 ++ x3 ++ x4 ++ x5) = x4 := by
  apply BitVec.eq_of_toNat_eq
  simp only [BitVec.extractLsb'_toNat, Nat.shiftRight_eq_div_pow, toNat_append_eq]
  omega

@[simp] theorem extract_12_4_2_2_3_3_5 (x0 : BitVec 12) (x1 : BitVec 4) (x2 : BitVec 2) (x3 : BitVec 2) (x4 : BitVec 3) (x5 : BitVec 3) : BitVec.extractLsb' (n := 26) 0 3 (x0 ++ x1 ++ x2 ++ x3 ++ x4 ++ x5) = x5 := by
  apply BitVec.eq_of_toNat_eq
  simp only [BitVec.extractLsb'_toNat, Nat.shiftRight_eq_div_pow, toNat_append_eq]
  omega

namespace Fmt

theorem ne_zero_of_major {w : BitVec 32} (h : major w ≠ 0#6) : w ≠ 0#32 := fun e => h (by subst e; decide)

theorem ne_ones_of_major {w : BitVec 32} (h : major w ≠ 63#6) : w ≠ BitVec.allOnes 32 := fun e => h (by subst e; decide)

theorem ne_zero_of_op {w : BitVec 32} (h : b w ≠ 0#5) : w ≠ 0#32 := fun e => h (by subst e; decide)

@[simp] theorem major_encRR (mj' : BitVec 6) (d' : BitVec 5) (a' : BitVec 5) (b' : BitVec 5) (op' : BitVec 5) (md' : BitVec 6) : major (encRR mj' d' a' b' op' md') = mj' := by
  apply BitVec.eq_of_toNat_eq
  simp only [major, encRR, BitVec.extractLsb'_toNat, Nat.shiftRight_eq_div_pow, toNat_append_eq]
  omega

@[simp] theorem d_encRR (mj' : BitVec 6) (d' : BitVec 5) (a' : BitVec 5) (b' : BitVec 5) (op' : BitVec 5) (md' : BitVec 6) : d (encRR mj' d' a' b' op' md') = d' := by
  apply BitVec.eq_of_toNat_eq
  simp only [d, encRR, BitVec.extractLsb'_toNat, Nat.shiftRight_eq_div_pow, toNat_append_eq]
  omega

@[simp] theorem a_encRR (mj' : BitVec 6) (d' : BitVec 5) (a' : BitVec 5) (b' : BitVec 5) (op' : BitVec 5) (md' : BitVec 6) : a (encRR mj' d' a' b' op' md') = a' := by
  apply BitVec.eq_of_toNat_eq
  simp only [a, encRR, BitVec.extractLsb'_toNat, Nat.shiftRight_eq_div_pow, toNat_append_eq]
  omega

@[simp] theorem b_encRR (mj' : BitVec 6) (d' : BitVec 5) (a' : BitVec 5) (b' : BitVec 5) (op' : BitVec 5) (md' : BitVec 6) : b (encRR mj' d' a' b' op' md') = b' := by
  apply BitVec.eq_of_toNat_eq
  simp only [b, encRR, BitVec.extractLsb'_toNat, Nat.shiftRight_eq_div_pow, toNat_append_eq]
  omega

@[simp] theorem op_encRR (mj' : BitVec 6) (d' : BitVec 5) (a' : BitVec 5) (b' : BitVec 5) (op' : BitVec 5) (md' : BitVec 6) : op (encRR mj' d' a' b' op' md') = op' := by
  apply BitVec.eq_of_toNat_eq
  simp only [op, encRR, BitVec.extractLsb'_toNat, Nat.shiftRight_eq_div_pow, toNat_append_eq]
  omega

@[simp] theorem md_encRR (mj' : BitVec 6) (d' : BitVec 5) (a' : BitVec 5) (b' : BitVec 5) (op' : BitVec 5) (md' : BitVec 6) : md (encRR mj' d' a' b' op' md') = md' := by
  apply BitVec.eq_of_toNat_eq
  simp only [md, encRR, BitVec.extractLsb'_toNat, Nat.shiftRight_eq_div_pow, toNat_append_eq]
  omega

@[simp] theorem major_encRI (mj' : BitVec 6) (d' : BitVec 5) (a' : BitVec 5) (i' : BitVec 16) : major (encRI mj' d' a' i') = mj' := by
  apply BitVec.eq_of_toNat_eq
  simp only [major, encRI, BitVec.extractLsb'_toNat, Nat.shiftRight_eq_div_pow, toNat_append_eq]
  omega

@[simp] theorem d_encRI (mj' : BitVec 6) (d' : BitVec 5) (a' : BitVec 5) (i' : BitVec 16) : d (encRI mj' d' a' i') = d' := by
  apply BitVec.eq_of_toNat_eq
  simp only [d, encRI, BitVec.extractLsb'_toNat, Nat.shiftRight_eq_div_pow, toNat_append_eq]
  omega

@[simp] theorem a_encRI (mj' : BitVec 6) (d' : BitVec 5) (a' : BitVec 5) (i' : BitVec 16) : a (encRI mj' d' a' i') = a' := by
  apply BitVec.eq_of_toNat_eq
  simp only [a, encRI, BitVec.extractLsb'_toNat, Nat.shiftRight_eq_div_pow, toNat_append_eq]
  omega

@[simp] theorem imm16_encRI (mj' : BitVec 6) (d' : BitVec 5) (a' : BitVec 5) (i' : BitVec 16) : imm16 (encRI mj' d' a' i') = i' := by
  apply BitVec.eq_of_toNat_eq
  simp only [imm16, encRI, BitVec.extractLsb'_toNat, Nat.shiftRight_eq_div_pow, toNat_append_eq]
  omega

@[simp] theorem major_encS (mj' : BitVec 6) (d' : BitVec 5) (a' : BitVec 5) (op' : BitVec 5) (i' : BitVec 11) : major (encS mj' d' a' op' i') = mj' := by
  apply BitVec.eq_of_toNat_eq
  simp only [major, encS, BitVec.extractLsb'_toNat, Nat.shiftRight_eq_div_pow, toNat_append_eq]
  omega

@[simp] theorem d_encS (mj' : BitVec 6) (d' : BitVec 5) (a' : BitVec 5) (op' : BitVec 5) (i' : BitVec 11) : d (encS mj' d' a' op' i') = d' := by
  apply BitVec.eq_of_toNat_eq
  simp only [d, encS, BitVec.extractLsb'_toNat, Nat.shiftRight_eq_div_pow, toNat_append_eq]
  omega

@[simp] theorem a_encS (mj' : BitVec 6) (d' : BitVec 5) (a' : BitVec 5) (op' : BitVec 5) (i' : BitVec 11) : a (encS mj' d' a' op' i') = a' := by
  apply BitVec.eq_of_toNat_eq
  simp only [a, encS, BitVec.extractLsb'_toNat, Nat.shiftRight_eq_div_pow, toNat_append_eq]
  omega

@[simp] theorem b_encS (mj' : BitVec 6) (d' : BitVec 5) (a' : BitVec 5) (op' : BitVec 5) (i' : BitVec 11) : b (encS mj' d' a' op' i') = op' := by
  apply BitVec.eq_of_toNat_eq
  simp only [b, encS, BitVec.extractLsb'_toNat, Nat.shiftRight_eq_div_pow, toNat_append_eq]
  omega

@[simp] theorem imm11_encS (mj' : BitVec 6) (d' : BitVec 5) (a' : BitVec 5) (op' : BitVec 5) (i' : BitVec 11) : imm11 (encS mj' d' a' op' i') = i' := by
  apply BitVec.eq_of_toNat_eq
  simp only [imm11, encS, BitVec.extractLsb'_toNat, Nat.shiftRight_eq_div_pow, toNat_append_eq]
  omega

@[simp] theorem major_encLS (mj' : BitVec 6) (d' : BitVec 5) (a' : BitVec 5) (k' : BitVec 3) (o' : BitVec 13) : major (encLS mj' d' a' k' o') = mj' := by
  apply BitVec.eq_of_toNat_eq
  simp only [major, encLS, BitVec.extractLsb'_toNat, Nat.shiftRight_eq_div_pow, toNat_append_eq]
  omega

@[simp] theorem d_encLS (mj' : BitVec 6) (d' : BitVec 5) (a' : BitVec 5) (k' : BitVec 3) (o' : BitVec 13) : d (encLS mj' d' a' k' o') = d' := by
  apply BitVec.eq_of_toNat_eq
  simp only [d, encLS, BitVec.extractLsb'_toNat, Nat.shiftRight_eq_div_pow, toNat_append_eq]
  omega

@[simp] theorem a_encLS (mj' : BitVec 6) (d' : BitVec 5) (a' : BitVec 5) (k' : BitVec 3) (o' : BitVec 13) : a (encLS mj' d' a' k' o') = a' := by
  apply BitVec.eq_of_toNat_eq
  simp only [a, encLS, BitVec.extractLsb'_toNat, Nat.shiftRight_eq_div_pow, toNat_append_eq]
  omega

@[simp] theorem kind_encLS (mj' : BitVec 6) (d' : BitVec 5) (a' : BitVec 5) (k' : BitVec 3) (o' : BitVec 13) : kind (encLS mj' d' a' k' o') = k' := by
  apply BitVec.eq_of_toNat_eq
  simp only [kind, encLS, BitVec.extractLsb'_toNat, Nat.shiftRight_eq_div_pow, toNat_append_eq]
  omega

@[simp] theorem off13_encLS (mj' : BitVec 6) (d' : BitVec 5) (a' : BitVec 5) (k' : BitVec 3) (o' : BitVec 13) : off13 (encLS mj' d' a' k' o') = o' := by
  apply BitVec.eq_of_toNat_eq
  simp only [off13, encLS, BitVec.extractLsb'_toNat, Nat.shiftRight_eq_div_pow, toNat_append_eq]
  omega

@[simp] theorem major_encJ (mj' : BitVec 6) (o' : BitVec 26) : major (encJ mj' o') = mj' := by
  apply BitVec.eq_of_toNat_eq
  simp only [major, encJ, BitVec.extractLsb'_toNat, Nat.shiftRight_eq_div_pow, toNat_append_eq]
  omega

@[simp] theorem off26_encJ (mj' : BitVec 6) (o' : BitVec 26) : off26 (encJ mj' o') = o' := by
  apply BitVec.eq_of_toNat_eq
  simp only [off26, encJ, BitVec.extractLsb'_toNat, Nat.shiftRight_eq_div_pow, toNat_append_eq]
  omega

@[simp] theorem major_encV (mj' : BitVec 6) (d' : BitVec 5) (a' : BitVec 5) (b' : BitVec 5) (t' : BitVec 3) (o' : BitVec 3) (s' : BitVec 4) (x' : BitVec 1) : major (encV mj' d' a' b' t' o' s' x') = mj' := by
  apply BitVec.eq_of_toNat_eq
  simp only [major, encV, BitVec.extractLsb'_toNat, Nat.shiftRight_eq_div_pow, toNat_append_eq]
  omega

@[simp] theorem d_encV (mj' : BitVec 6) (d' : BitVec 5) (a' : BitVec 5) (b' : BitVec 5) (t' : BitVec 3) (o' : BitVec 3) (s' : BitVec 4) (x' : BitVec 1) : d (encV mj' d' a' b' t' o' s' x') = d' := by
  apply BitVec.eq_of_toNat_eq
  simp only [d, encV, BitVec.extractLsb'_toNat, Nat.shiftRight_eq_div_pow, toNat_append_eq]
  omega

@[simp] theorem a_encV (mj' : BitVec 6) (d' : BitVec 5) (a' : BitVec 5) (b' : BitVec 5) (t' : BitVec 3) (o' : BitVec 3) (s' : BitVec 4) (x' : BitVec 1) : a (encV mj' d' a' b' t' o' s' x') = a' := by
  apply BitVec.eq_of_toNat_eq
  simp only [a, encV, BitVec.extractLsb'_toNat, Nat.shiftRight_eq_div_pow, toNat_append_eq]
  omega

@[simp] theorem b_encV (mj' : BitVec 6) (d' : BitVec 5) (a' : BitVec 5) (b' : BitVec 5) (t' : BitVec 3) (o' : BitVec 3) (s' : BitVec 4) (x' : BitVec 1) : b (encV mj' d' a' b' t' o' s' x') = b' := by
  apply BitVec.eq_of_toNat_eq
  simp only [b, encV, BitVec.extractLsb'_toNat, Nat.shiftRight_eq_div_pow, toNat_append_eq]
  omega

@[simp] theorem ty_encV (mj' : BitVec 6) (d' : BitVec 5) (a' : BitVec 5) (b' : BitVec 5) (t' : BitVec 3) (o' : BitVec 3) (s' : BitVec 4) (x' : BitVec 1) : ty (encV mj' d' a' b' t' o' s' x') = t' := by
  apply BitVec.eq_of_toNat_eq
  simp only [ty, encV, BitVec.extractLsb'_toNat, Nat.shiftRight_eq_div_pow, toNat_append_eq]
  omega

@[simp] theorem vop_encV (mj' : BitVec 6) (d' : BitVec 5) (a' : BitVec 5) (b' : BitVec 5) (t' : BitVec 3) (o' : BitVec 3) (s' : BitVec 4) (x' : BitVec 1) : vop (encV mj' d' a' b' t' o' s' x') = o' := by
  apply BitVec.eq_of_toNat_eq
  simp only [vop, encV, BitVec.extractLsb'_toNat, Nat.shiftRight_eq_div_pow, toNat_append_eq]
  omega

@[simp] theorem sel_encV (mj' : BitVec 6) (d' : BitVec 5) (a' : BitVec 5) (b' : BitVec 5) (t' : BitVec 3) (o' : BitVec 3) (s' : BitVec 4) (x' : BitVec 1) : sel (encV mj' d' a' b' t' o' s' x') = s' := by
  apply BitVec.eq_of_toNat_eq
  simp only [sel, encV, BitVec.extractLsb'_toNat, Nat.shiftRight_eq_div_pow, toNat_append_eq]
  omega

@[simp] theorem selb_encV (mj' : BitVec 6) (d' : BitVec 5) (a' : BitVec 5) (b' : BitVec 5) (t' : BitVec 3) (o' : BitVec 3) (s' : BitVec 4) (x' : BitVec 1) : selb (encV mj' d' a' b' t' o' s' x') = x' := by
  apply BitVec.eq_of_toNat_eq
  simp only [selb, encV, BitVec.extractLsb'_toNat, Nat.shiftRight_eq_div_pow, toNat_append_eq]
  omega

@[simp] theorem major_encM (mj' : BitVec 6) (d' : BitVec 5) (a' : BitVec 5) (b' : BitVec 5) (o' : BitVec 3) (l' : BitVec 8) : major (encM mj' d' a' b' o' l') = mj' := by
  apply BitVec.eq_of_toNat_eq
  simp only [major, encM, BitVec.extractLsb'_toNat, Nat.shiftRight_eq_div_pow, toNat_append_eq]
  omega

@[simp] theorem d_encM (mj' : BitVec 6) (d' : BitVec 5) (a' : BitVec 5) (b' : BitVec 5) (o' : BitVec 3) (l' : BitVec 8) : d (encM mj' d' a' b' o' l') = d' := by
  apply BitVec.eq_of_toNat_eq
  simp only [d, encM, BitVec.extractLsb'_toNat, Nat.shiftRight_eq_div_pow, toNat_append_eq]
  omega

@[simp] theorem a_encM (mj' : BitVec 6) (d' : BitVec 5) (a' : BitVec 5) (b' : BitVec 5) (o' : BitVec 3) (l' : BitVec 8) : a (encM mj' d' a' b' o' l') = a' := by
  apply BitVec.eq_of_toNat_eq
  simp only [a, encM, BitVec.extractLsb'_toNat, Nat.shiftRight_eq_div_pow, toNat_append_eq]
  omega

@[simp] theorem b_encM (mj' : BitVec 6) (d' : BitVec 5) (a' : BitVec 5) (b' : BitVec 5) (o' : BitVec 3) (l' : BitVec 8) : b (encM mj' d' a' b' o' l') = b' := by
  apply BitVec.eq_of_toNat_eq
  simp only [b, encM, BitVec.extractLsb'_toNat, Nat.shiftRight_eq_div_pow, toNat_append_eq]
  omega

@[simp] theorem ty_encM (mj' : BitVec 6) (d' : BitVec 5) (a' : BitVec 5) (b' : BitVec 5) (o' : BitVec 3) (l' : BitVec 8) : ty (encM mj' d' a' b' o' l') = o' := by
  apply BitVec.eq_of_toNat_eq
  simp only [ty, encM, BitVec.extractLsb'_toNat, Nat.shiftRight_eq_div_pow, toNat_append_eq]
  omega

@[simp] theorem low8_encM (mj' : BitVec 6) (d' : BitVec 5) (a' : BitVec 5) (b' : BitVec 5) (o' : BitVec 3) (l' : BitVec 8) : low8 (encM mj' d' a' b' o' l') = l' := by
  apply BitVec.eq_of_toNat_eq
  simp only [low8, encM, BitVec.extractLsb'_toNat, Nat.shiftRight_eq_div_pow, toNat_append_eq]
  omega

end Fmt

/-! The decoder of each major opcode (R76). -/

theorem decodeWord_0 {w : BitVec 32} (h : Fmt.major w = 0#6) (hb : Fmt.b w ≠ 0#5) :
    decodeWord w = decodeSystem w := by
  rw [decodeWord, if_neg (by simpa using (Fmt.ne_zero_of_op hb)), if_neg (by simpa using Fmt.ne_ones_of_major (w := w) (by rw [h]; decide)), h]
  rfl

theorem decodeWord_1 {w : BitVec 32} (h : Fmt.major w = 1#6) :
    decodeWord w = decodeInt w := by
  rw [decodeWord, if_neg (by simpa using (Fmt.ne_zero_of_major (by rw [h]; decide))), if_neg (by simpa using Fmt.ne_ones_of_major (w := w) (by rw [h]; decide)), h]
  rfl

theorem decodeWord_2 {w : BitVec 32} (h : Fmt.major w = 2#6) :
    decodeWord w = accept (true) (.addi (Fmt.d w) (Fmt.a w) (Fmt.imm16 w)) := by
  rw [decodeWord, if_neg (by simpa using (Fmt.ne_zero_of_major (by rw [h]; decide))), if_neg (by simpa using Fmt.ne_ones_of_major (w := w) (by rw [h]; decide)), h]
  rfl

theorem decodeWord_3 {w : BitVec 32} (h : Fmt.major w = 3#6) :
    decodeWord w = accept (true) (.andi (Fmt.d w) (Fmt.a w) (Fmt.imm16 w)) := by
  rw [decodeWord, if_neg (by simpa using (Fmt.ne_zero_of_major (by rw [h]; decide))), if_neg (by simpa using Fmt.ne_ones_of_major (w := w) (by rw [h]; decide)), h]
  rfl

theorem decodeWord_4 {w : BitVec 32} (h : Fmt.major w = 4#6) :
    decodeWord w = accept (true) (.ori (Fmt.d w) (Fmt.a w) (Fmt.imm16 w)) := by
  rw [decodeWord, if_neg (by simpa using (Fmt.ne_zero_of_major (by rw [h]; decide))), if_neg (by simpa using Fmt.ne_ones_of_major (w := w) (by rw [h]; decide)), h]
  rfl

theorem decodeWord_5 {w : BitVec 32} (h : Fmt.major w = 5#6) :
    decodeWord w = accept (true) (.xori (Fmt.d w) (Fmt.a w) (Fmt.imm16 w)) := by
  rw [decodeWord, if_neg (by simpa using (Fmt.ne_zero_of_major (by rw [h]; decide))), if_neg (by simpa using Fmt.ne_ones_of_major (w := w) (by rw [h]; decide)), h]
  rfl

theorem decodeWord_6 {w : BitVec 32} (h : Fmt.major w = 6#6) :
    decodeWord w = decodeShift w := by
  rw [decodeWord, if_neg (by simpa using (Fmt.ne_zero_of_major (by rw [h]; decide))), if_neg (by simpa using Fmt.ne_ones_of_major (w := w) (by rw [h]; decide)), h]
  rfl

theorem decodeWord_7 {w : BitVec 32} (h : Fmt.major w = 7#6) :
    decodeWord w = accept (true) (.cmpeqi (Fmt.d w) (Fmt.a w) (Fmt.imm16 w)) := by
  rw [decodeWord, if_neg (by simpa using (Fmt.ne_zero_of_major (by rw [h]; decide))), if_neg (by simpa using Fmt.ne_ones_of_major (w := w) (by rw [h]; decide)), h]
  rfl

theorem decodeWord_8 {w : BitVec 32} (h : Fmt.major w = 8#6) :
    decodeWord w = accept (true) (.cmplti (Fmt.d w) (Fmt.a w) (Fmt.imm16 w)) := by
  rw [decodeWord, if_neg (by simpa using (Fmt.ne_zero_of_major (by rw [h]; decide))), if_neg (by simpa using Fmt.ne_ones_of_major (w := w) (by rw [h]; decide)), h]
  rfl

theorem decodeWord_9 {w : BitVec 32} (h : Fmt.major w = 9#6) :
    decodeWord w = decodeHigh w := by
  rw [decodeWord, if_neg (by simpa using (Fmt.ne_zero_of_major (by rw [h]; decide))), if_neg (by simpa using Fmt.ne_ones_of_major (w := w) (by rw [h]; decide)), h]
  rfl

theorem decodeWord_10 {w : BitVec 32} (h : Fmt.major w = 10#6) :
    decodeWord w = decodeMulDiv w := by
  rw [decodeWord, if_neg (by simpa using (Fmt.ne_zero_of_major (by rw [h]; decide))), if_neg (by simpa using Fmt.ne_ones_of_major (w := w) (by rw [h]; decide)), h]
  rfl

theorem decodeWord_11 {w : BitVec 32} (h : Fmt.major w = 11#6) :
    decodeWord w = decodeFloat w := by
  rw [decodeWord, if_neg (by simpa using (Fmt.ne_zero_of_major (by rw [h]; decide))), if_neg (by simpa using Fmt.ne_ones_of_major (w := w) (by rw [h]; decide)), h]
  rfl

theorem decodeWord_12 {w : BitVec 32} (h : Fmt.major w = 12#6) :
    decodeWord w = decodeEqual w := by
  rw [decodeWord, if_neg (by simpa using (Fmt.ne_zero_of_major (by rw [h]; decide))), if_neg (by simpa using Fmt.ne_ones_of_major (w := w) (by rw [h]; decide)), h]
  rfl

theorem decodeWord_13 {w : BitVec 32} (h : Fmt.major w = 13#6) :
    decodeWord w = accept (true) (.blt (Fmt.d w) (Fmt.a w) (Fmt.imm16 w)) := by
  rw [decodeWord, if_neg (by simpa using (Fmt.ne_zero_of_major (by rw [h]; decide))), if_neg (by simpa using Fmt.ne_ones_of_major (w := w) (by rw [h]; decide)), h]
  rfl

theorem decodeWord_14 {w : BitVec 32} (h : Fmt.major w = 14#6) :
    decodeWord w = accept (true) (.bge (Fmt.d w) (Fmt.a w) (Fmt.imm16 w)) := by
  rw [decodeWord, if_neg (by simpa using (Fmt.ne_zero_of_major (by rw [h]; decide))), if_neg (by simpa using Fmt.ne_ones_of_major (w := w) (by rw [h]; decide)), h]
  rfl

theorem decodeWord_15 {w : BitVec 32} (h : Fmt.major w = 15#6) :
    decodeWord w = decodeBranchU w := by
  rw [decodeWord, if_neg (by simpa using (Fmt.ne_zero_of_major (by rw [h]; decide))), if_neg (by simpa using Fmt.ne_ones_of_major (w := w) (by rw [h]; decide)), h]
  rfl

theorem decodeWord_16 {w : BitVec 32} (h : Fmt.major w = 16#6) :
    decodeWord w = accept (true) (.j (Fmt.off26 w)) := by
  rw [decodeWord, if_neg (by simpa using (Fmt.ne_zero_of_major (by rw [h]; decide))), if_neg (by simpa using Fmt.ne_ones_of_major (w := w) (by rw [h]; decide)), h]
  rfl

theorem decodeWord_17 {w : BitVec 32} (h : Fmt.major w = 17#6) :
    decodeWord w = accept (true) (.call (Fmt.off26 w)) := by
  rw [decodeWord, if_neg (by simpa using (Fmt.ne_zero_of_major (by rw [h]; decide))), if_neg (by simpa using Fmt.ne_ones_of_major (w := w) (by rw [h]; decide)), h]
  rfl

theorem decodeWord_18 {w : BitVec 32} (h : Fmt.major w = 18#6) :
    decodeWord w = decodeLoad w := by
  rw [decodeWord, if_neg (by simpa using (Fmt.ne_zero_of_major (by rw [h]; decide))), if_neg (by simpa using Fmt.ne_ones_of_major (w := w) (by rw [h]; decide)), h]
  rfl

theorem decodeWord_19 {w : BitVec 32} (h : Fmt.major w = 19#6) :
    decodeWord w = decodeStore w := by
  rw [decodeWord, if_neg (by simpa using (Fmt.ne_zero_of_major (by rw [h]; decide))), if_neg (by simpa using Fmt.ne_ones_of_major (w := w) (by rw [h]; decide)), h]
  rfl

theorem decodeWord_20 {w : BitVec 32} (h : Fmt.major w = 20#6) :
    decodeWord w = decodeAtomic w := by
  rw [decodeWord, if_neg (by simpa using (Fmt.ne_zero_of_major (by rw [h]; decide))), if_neg (by simpa using Fmt.ne_ones_of_major (w := w) (by rw [h]; decide)), h]
  rfl

theorem decodeWord_21 {w : BitVec 32} (h : Fmt.major w = 21#6) :
    decodeWord w = decodeFence w := by
  rw [decodeWord, if_neg (by simpa using (Fmt.ne_zero_of_major (by rw [h]; decide))), if_neg (by simpa using Fmt.ne_ones_of_major (w := w) (by rw [h]; decide)), h]
  rfl

theorem decodeWord_22 {w : BitVec 32} (h : Fmt.major w = 22#6) :
    decodeWord w = decodeVMem w := by
  rw [decodeWord, if_neg (by simpa using (Fmt.ne_zero_of_major (by rw [h]; decide))), if_neg (by simpa using Fmt.ne_ones_of_major (w := w) (by rw [h]; decide)), h]
  rfl

theorem decodeWord_23 {w : BitVec 32} (h : Fmt.major w = 23#6) :
    decodeWord w = accept ((Fmt.off26 w).extractLsb' 14 12 == 0#12) (.mod ((Fmt.off26 w).extractLsb' 10 4) ((Fmt.off26 w).extractLsb' 8 2) ((Fmt.off26 w).extractLsb' 6 2) ((Fmt.off26 w).extractLsb' 3 3) ((Fmt.off26 w).extractLsb' 0 3)) := by
  rw [decodeWord, if_neg (by simpa using (Fmt.ne_zero_of_major (by rw [h]; decide))), if_neg (by simpa using Fmt.ne_ones_of_major (w := w) (by rw [h]; decide)), h]
  rfl

theorem decodeWord_24 {w : BitVec 32} (h : Fmt.major w = 24#6) :
    decodeWord w = accept (true) (.ext (Fmt.off26 w)) := by
  rw [decodeWord, if_neg (by simpa using (Fmt.ne_zero_of_major (by rw [h]; decide))), if_neg (by simpa using Fmt.ne_ones_of_major (w := w) (by rw [h]; decide)), h]
  rfl

theorem decodeWord_25 {w : BitVec 32} (h : Fmt.major w = 25#6) :
    decodeWord w = decodeVFloat w := by
  rw [decodeWord, if_neg (by simpa using (Fmt.ne_zero_of_major (by rw [h]; decide))), if_neg (by simpa using Fmt.ne_ones_of_major (w := w) (by rw [h]; decide)), h]
  rfl

theorem decodeWord_26 {w : BitVec 32} (h : Fmt.major w = 26#6) :
    decodeWord w = decodeVConv w := by
  rw [decodeWord, if_neg (by simpa using (Fmt.ne_zero_of_major (by rw [h]; decide))), if_neg (by simpa using Fmt.ne_ones_of_major (w := w) (by rw [h]; decide)), h]
  rfl

theorem decodeWord_27 {w : BitVec 32} (h : Fmt.major w = 27#6) :
    decodeWord w = decodeVInt w := by
  rw [decodeWord, if_neg (by simpa using (Fmt.ne_zero_of_major (by rw [h]; decide))), if_neg (by simpa using Fmt.ne_ones_of_major (w := w) (by rw [h]; decide)), h]
  rfl

theorem decodeWord_28 {w : BitVec 32} (h : Fmt.major w = 28#6) :
    decodeWord w = decodeVLogic w := by
  rw [decodeWord, if_neg (by simpa using (Fmt.ne_zero_of_major (by rw [h]; decide))), if_neg (by simpa using Fmt.ne_ones_of_major (w := w) (by rw [h]; decide)), h]
  rfl

theorem decodeWord_29 {w : BitVec 32} (h : Fmt.major w = 29#6) :
    decodeWord w = decodeVPerm w := by
  rw [decodeWord, if_neg (by simpa using (Fmt.ne_zero_of_major (by rw [h]; decide))), if_neg (by simpa using Fmt.ne_ones_of_major (w := w) (by rw [h]; decide)), h]
  rfl

theorem decodeWord_30 {w : BitVec 32} (h : Fmt.major w = 30#6) :
    decodeWord w = decodeLink w := by
  rw [decodeWord, if_neg (by simpa using (Fmt.ne_zero_of_major (by rw [h]; decide))), if_neg (by simpa using Fmt.ne_ones_of_major (w := w) (by rw [h]; decide)), h]
  rfl

theorem decodeWord_31 {w : BitVec 32} (h : Fmt.major w = 31#6) :
    decodeWord w = decodeCompose w := by
  rw [decodeWord, if_neg (by simpa using (Fmt.ne_zero_of_major (by rw [h]; decide))), if_neg (by simpa using Fmt.ne_ones_of_major (w := w) (by rw [h]; decide)), h]
  rfl

theorem decodeWord_32 {w : BitVec 32} (h : Fmt.major w = 32#6) :
    decodeWord w = decodeMCtl w := by
  rw [decodeWord, if_neg (by simpa using (Fmt.ne_zero_of_major (by rw [h]; decide))), if_neg (by simpa using Fmt.ne_ones_of_major (w := w) (by rw [h]; decide)), h]
  rfl

theorem decodeWord_33 {w : BitVec 32} (h : Fmt.major w = 33#6) :
    decodeWord w = decodeMMem w := by
  rw [decodeWord, if_neg (by simpa using (Fmt.ne_zero_of_major (by rw [h]; decide))), if_neg (by simpa using Fmt.ne_ones_of_major (w := w) (by rw [h]; decide)), h]
  rfl

theorem decodeWord_34 {w : BitVec 32} (h : Fmt.major w = 34#6) :
    decodeWord w = decodeMDense w := by
  rw [decodeWord, if_neg (by simpa using (Fmt.ne_zero_of_major (by rw [h]; decide))), if_neg (by simpa using Fmt.ne_ones_of_major (w := w) (by rw [h]; decide)), h]
  rfl

theorem decodeWord_35 {w : BitVec 32} (h : Fmt.major w = 35#6) :
    decodeWord w = decodeMMx w := by
  rw [decodeWord, if_neg (by simpa using (Fmt.ne_zero_of_major (by rw [h]; decide))), if_neg (by simpa using Fmt.ne_ones_of_major (w := w) (by rw [h]; decide)), h]
  rfl

theorem decodeWord_36 {w : BitVec 32} (h : Fmt.major w = 36#6) :
    decodeWord w = decodeQueue w := by
  rw [decodeWord, if_neg (by simpa using (Fmt.ne_zero_of_major (by rw [h]; decide))), if_neg (by simpa using Fmt.ne_ones_of_major (w := w) (by rw [h]; decide)), h]
  rfl

theorem decodeWord_37 {w : BitVec 32} (h : Fmt.major w = 37#6) :
    decodeWord w = decodeMessage w := by
  rw [decodeWord, if_neg (by simpa using (Fmt.ne_zero_of_major (by rw [h]; decide))), if_neg (by simpa using Fmt.ne_ones_of_major (w := w) (by rw [h]; decide)), h]
  rfl

theorem decodeWord_38 {w : BitVec 32} (h : Fmt.major w = 38#6) :
    decodeWord w = decodeGust w := by
  rw [decodeWord, if_neg (by simpa using (Fmt.ne_zero_of_major (by rw [h]; decide))), if_neg (by simpa using Fmt.ne_ones_of_major (w := w) (by rw [h]; decide)), h]
  rfl

theorem decodeWord_39 {w : BitVec 32} (h : Fmt.major w = 39#6) :
    decodeWord w = decodeRep w := by
  rw [decodeWord, if_neg (by simpa using (Fmt.ne_zero_of_major (by rw [h]; decide))), if_neg (by simpa using Fmt.ne_ones_of_major (w := w) (by rw [h]; decide)), h]
  rfl

theorem decodeWord_40 {w : BitVec 32} (h : Fmt.major w = 40#6) :
    decodeWord w = decodeCopy w := by
  rw [decodeWord, if_neg (by simpa using (Fmt.ne_zero_of_major (by rw [h]; decide))), if_neg (by simpa using Fmt.ne_ones_of_major (w := w) (by rw [h]; decide)), h]
  rfl

theorem decodeWord_41 {w : BitVec 32} (h : Fmt.major w = 41#6) :
    decodeWord w = decodeColl w := by
  rw [decodeWord, if_neg (by simpa using (Fmt.ne_zero_of_major (by rw [h]; decide))), if_neg (by simpa using Fmt.ne_ones_of_major (w := w) (by rw [h]; decide)), h]
  rfl

theorem decodeWord_42 {w : BitVec 32} (h : Fmt.major w = 42#6) :
    decodeWord w = decodeCounter w := by
  rw [decodeWord, if_neg (by simpa using (Fmt.ne_zero_of_major (by rw [h]; decide))), if_neg (by simpa using Fmt.ne_ones_of_major (w := w) (by rw [h]; decide)), h]
  rfl

theorem decodeWord_43 {w : BitVec 32} (h : Fmt.major w = 43#6) :
    decodeWord w = decodeLaunch w := by
  rw [decodeWord, if_neg (by simpa using (Fmt.ne_zero_of_major (by rw [h]; decide))), if_neg (by simpa using Fmt.ne_ones_of_major (w := w) (by rw [h]; decide)), h]
  rfl

theorem decodeWord_44 {w : BitVec 32} (h : Fmt.major w = 44#6) :
    decodeWord w = decodeTable w := by
  rw [decodeWord, if_neg (by simpa using (Fmt.ne_zero_of_major (by rw [h]; decide))), if_neg (by simpa using Fmt.ne_ones_of_major (w := w) (by rw [h]; decide)), h]
  rfl

theorem decodeWord_60 {w : BitVec 32} (h : Fmt.major w = 60#6) :
    decodeWord w = decodeHint w := by
  rw [decodeWord, if_neg (by simpa using (Fmt.ne_zero_of_major (by rw [h]; decide))), if_neg (by simpa using Fmt.ne_ones_of_major (w := w) (by rw [h]; decide)), h]
  rfl

end Sys2Proof
end

