-- ==== Sys2Proof/Laws/Exec.lean ====
section
/-!
SUPPORT. The dispatcher, one equation for each instruction, so that no proof unfolds its 337 arms.
-/

namespace Sys2Proof.Machine

theorem exec_srd (x0 : Reg) (x1 : BitVec 11) (s : State) : exec (.srd x0 x1) s = execSrd x0 x1 s := rfl
theorem exec_swr (x0 : Reg) (x1 : BitVec 11) (s : State) : exec (.swr x0 x1) s = execSwr x0 x1 s := rfl
theorem exec_trap (x0 : BitVec 11) (s : State) : exec (.trap x0) s = execTrap x0 s := rfl
theorem exec_eret (s : State) : exec .eret s = execEret s := rfl
theorem exec_brk (x0 : BitVec 11) (s : State) : exec (.brk x0) s = execBrk x0 s := rfl
theorem exec_wfm (x0 : BitVec 4) (s : State) : exec (.wfm x0) s = execWfm x0 s := rfl
theorem exec_exit (s : State) : exec .exit s = execExit s := rfl
theorem exec_ckpt (x0 : Reg) (x1 : BitVec 2) (s : State) : exec (.ckpt x0 x1) s = execCkpt x0 x1 s := rfl
theorem exec_tlbinv (x0 : Reg) (x1 : BitVec 11) (s : State) : exec (.tlbinv x0 x1) s = execTlbinv x0 x1 s := rfl
theorem exec_ctxsv (x0 : Reg) (x1 : Reg) (x2 : BitVec 11) (s : State) : exec (.ctxsv x0 x1 x2) s = execCtxsv x0 x1 x2 s := rfl
theorem exec_ctxld (x0 : Reg) (x1 : Reg) (x2 : BitVec 11) (s : State) : exec (.ctxld x0 x1 x2) s = execCtxld x0 x1 x2 s := rfl
theorem exec_add (x0 : Reg) (x1 : Reg) (x2 : Reg) (s : State) : exec (.add x0 x1 x2) s = execAdd x0 x1 x2 s := rfl
theorem exec_sub (x0 : Reg) (x1 : Reg) (x2 : Reg) (s : State) : exec (.sub x0 x1 x2) s = execSub x0 x1 x2 s := rfl
theorem exec_and (x0 : Reg) (x1 : Reg) (x2 : Reg) (s : State) : exec (.and x0 x1 x2) s = execAnd x0 x1 x2 s := rfl
theorem exec_or (x0 : Reg) (x1 : Reg) (x2 : Reg) (s : State) : exec (.or x0 x1 x2) s = execOr x0 x1 x2 s := rfl
theorem exec_xor (x0 : Reg) (x1 : Reg) (x2 : Reg) (s : State) : exec (.xor x0 x1 x2) s = execXor x0 x1 x2 s := rfl
theorem exec_andn (x0 : Reg) (x1 : Reg) (x2 : Reg) (s : State) : exec (.andn x0 x1 x2) s = execAndn x0 x1 x2 s := rfl
theorem exec_shl (x0 : Reg) (x1 : Reg) (x2 : Reg) (s : State) : exec (.shl x0 x1 x2) s = execShl x0 x1 x2 s := rfl
theorem exec_shr (x0 : Reg) (x1 : Reg) (x2 : Reg) (s : State) : exec (.shr x0 x1 x2) s = execShr x0 x1 x2 s := rfl
theorem exec_sra (x0 : Reg) (x1 : Reg) (x2 : Reg) (s : State) : exec (.sra x0 x1 x2) s = execSra x0 x1 x2 s := rfl
theorem exec_rot (x0 : Reg) (x1 : Reg) (x2 : Reg) (s : State) : exec (.rot x0 x1 x2) s = execRot x0 x1 x2 s := rfl
theorem exec_clz (x0 : Reg) (x1 : Reg) (s : State) : exec (.clz x0 x1) s = execClz x0 x1 s := rfl
theorem exec_ctz (x0 : Reg) (x1 : Reg) (s : State) : exec (.ctz x0 x1) s = execCtz x0 x1 s := rfl
theorem exec_popc (x0 : Reg) (x1 : Reg) (s : State) : exec (.popc x0 x1) s = execPopc x0 x1 s := rfl
theorem exec_min (x0 : Reg) (x1 : Reg) (x2 : Reg) (s : State) : exec (.min x0 x1 x2) s = execMin x0 x1 x2 s := rfl
theorem exec_max (x0 : Reg) (x1 : Reg) (x2 : Reg) (s : State) : exec (.max x0 x1 x2) s = execMax x0 x1 x2 s := rfl
theorem exec_minu (x0 : Reg) (x1 : Reg) (x2 : Reg) (s : State) : exec (.minu x0 x1 x2) s = execMinu x0 x1 x2 s := rfl
theorem exec_maxu (x0 : Reg) (x1 : Reg) (x2 : Reg) (s : State) : exec (.maxu x0 x1 x2) s = execMaxu x0 x1 x2 s := rfl
theorem exec_sel (x0 : Reg) (x1 : Reg) (x2 : Reg) (s : State) : exec (.sel x0 x1 x2) s = execSel x0 x1 x2 s := rfl
theorem exec_cmpeq (x0 : Reg) (x1 : Reg) (x2 : Reg) (s : State) : exec (.cmpeq x0 x1 x2) s = execCmpeq x0 x1 x2 s := rfl
theorem exec_cmplt (x0 : Reg) (x1 : Reg) (x2 : Reg) (s : State) : exec (.cmplt x0 x1 x2) s = execCmplt x0 x1 x2 s := rfl
theorem exec_cmpltu (x0 : Reg) (x1 : Reg) (x2 : Reg) (s : State) : exec (.cmpltu x0 x1 x2) s = execCmpltu x0 x1 x2 s := rfl
theorem exec_addi (x0 : Reg) (x1 : Reg) (x2 : BitVec 16) (s : State) : exec (.addi x0 x1 x2) s = execAddi x0 x1 x2 s := rfl
theorem exec_andi (x0 : Reg) (x1 : Reg) (x2 : BitVec 16) (s : State) : exec (.andi x0 x1 x2) s = execAndi x0 x1 x2 s := rfl
theorem exec_ori (x0 : Reg) (x1 : Reg) (x2 : BitVec 16) (s : State) : exec (.ori x0 x1 x2) s = execOri x0 x1 x2 s := rfl
theorem exec_xori (x0 : Reg) (x1 : Reg) (x2 : BitVec 16) (s : State) : exec (.xori x0 x1 x2) s = execXori x0 x1 x2 s := rfl
theorem exec_shli (x0 : Reg) (x1 : Reg) (x2 : BitVec 6) (s : State) : exec (.shli x0 x1 x2) s = execShli x0 x1 x2 s := rfl
theorem exec_shri (x0 : Reg) (x1 : Reg) (x2 : BitVec 6) (s : State) : exec (.shri x0 x1 x2) s = execShri x0 x1 x2 s := rfl
theorem exec_srai (x0 : Reg) (x1 : Reg) (x2 : BitVec 6) (s : State) : exec (.srai x0 x1 x2) s = execSrai x0 x1 x2 s := rfl
theorem exec_cmpeqi (x0 : Reg) (x1 : Reg) (x2 : BitVec 16) (s : State) : exec (.cmpeqi x0 x1 x2) s = execCmpeqi x0 x1 x2 s := rfl
theorem exec_cmplti (x0 : Reg) (x1 : Reg) (x2 : BitVec 16) (s : State) : exec (.cmplti x0 x1 x2) s = execCmplti x0 x1 x2 s := rfl
theorem exec_movhi (x0 : Reg) (x1 : BitVec 16) (s : State) : exec (.movhi x0 x1) s = execMovhi x0 x1 s := rfl
theorem exec_addpc (x0 : Reg) (x1 : BitVec 16) (s : State) : exec (.addpc x0 x1) s = execAddpc x0 x1 s := rfl
theorem exec_mul (x0 : Reg) (x1 : Reg) (x2 : Reg) (s : State) : exec (.mul x0 x1 x2) s = execMul x0 x1 x2 s := rfl
theorem exec_mulh (x0 : Reg) (x1 : Reg) (x2 : Reg) (s : State) : exec (.mulh x0 x1 x2) s = execMulh x0 x1 x2 s := rfl
theorem exec_mulhu (x0 : Reg) (x1 : Reg) (x2 : Reg) (s : State) : exec (.mulhu x0 x1 x2) s = execMulhu x0 x1 x2 s := rfl
theorem exec_div (x0 : Reg) (x1 : Reg) (x2 : Reg) (s : State) : exec (.div x0 x1 x2) s = execDiv x0 x1 x2 s := rfl
theorem exec_divu (x0 : Reg) (x1 : Reg) (x2 : Reg) (s : State) : exec (.divu x0 x1 x2) s = execDivu x0 x1 x2 s := rfl
theorem exec_rem (x0 : Reg) (x1 : Reg) (x2 : Reg) (s : State) : exec (.rem x0 x1 x2) s = execRem x0 x1 x2 s := rfl
theorem exec_remu (x0 : Reg) (x1 : Reg) (x2 : Reg) (s : State) : exec (.remu x0 x1 x2) s = execRemu x0 x1 x2 s := rfl
theorem exec_fadd (x0 : Reg) (x1 : Reg) (x2 : Reg) (s : State) : exec (.fadd x0 x1 x2) s = execFadd x0 x1 x2 s := rfl
theorem exec_fsub (x0 : Reg) (x1 : Reg) (x2 : Reg) (s : State) : exec (.fsub x0 x1 x2) s = execFsub x0 x1 x2 s := rfl
theorem exec_fmul (x0 : Reg) (x1 : Reg) (x2 : Reg) (s : State) : exec (.fmul x0 x1 x2) s = execFmul x0 x1 x2 s := rfl
theorem exec_ffma (x0 : Reg) (x1 : Reg) (x2 : Reg) (s : State) : exec (.ffma x0 x1 x2) s = execFfma x0 x1 x2 s := rfl
theorem exec_fdiv (x0 : Reg) (x1 : Reg) (x2 : Reg) (s : State) : exec (.fdiv x0 x1 x2) s = execFdiv x0 x1 x2 s := rfl
theorem exec_fsqrt (x0 : Reg) (x1 : Reg) (s : State) : exec (.fsqrt x0 x1) s = execFsqrt x0 x1 s := rfl
theorem exec_fmin (x0 : Reg) (x1 : Reg) (x2 : Reg) (s : State) : exec (.fmin x0 x1 x2) s = execFmin x0 x1 x2 s := rfl
theorem exec_fmax (x0 : Reg) (x1 : Reg) (x2 : Reg) (s : State) : exec (.fmax x0 x1 x2) s = execFmax x0 x1 x2 s := rfl
theorem exec_fcmp (x0 : Reg) (x1 : Reg) (x2 : Reg) (x3 : BitVec 2) (s : State) : exec (.fcmp x0 x1 x2 x3) s = execFcmp x0 x1 x2 x3 s := rfl
theorem exec_fcvtif (x0 : Reg) (x1 : Reg) (x2 : BitVec 2) (s : State) : exec (.fcvtif x0 x1 x2) s = execFcvtif x0 x1 x2 s := rfl
theorem exec_fcvtfi (x0 : Reg) (x1 : Reg) (x2 : BitVec 3) (s : State) : exec (.fcvtfi x0 x1 x2) s = execFcvtfi x0 x1 x2 s := rfl
theorem exec_beq (x0 : Reg) (x1 : Reg) (x2 : BitVec 16) (s : State) : exec (.beq x0 x1 x2) s = execBeq x0 x1 x2 s := rfl
theorem exec_bne (x0 : Reg) (x1 : Reg) (x2 : BitVec 16) (s : State) : exec (.bne x0 x1 x2) s = execBne x0 x1 x2 s := rfl
theorem exec_jl (x0 : Reg) (x1 : BitVec 16) (s : State) : exec (.jl x0 x1) s = execJl x0 x1 s := rfl
theorem exec_blt (x0 : Reg) (x1 : Reg) (x2 : BitVec 16) (s : State) : exec (.blt x0 x1 x2) s = execBlt x0 x1 x2 s := rfl
theorem exec_bge (x0 : Reg) (x1 : Reg) (x2 : BitVec 16) (s : State) : exec (.bge x0 x1 x2) s = execBge x0 x1 x2 s := rfl
theorem exec_bltu (x0 : Reg) (x1 : Reg) (x2 : BitVec 11) (s : State) : exec (.bltu x0 x1 x2) s = execBltu x0 x1 x2 s := rfl
theorem exec_bgeu (x0 : Reg) (x1 : Reg) (x2 : BitVec 11) (s : State) : exec (.bgeu x0 x1 x2) s = execBgeu x0 x1 x2 s := rfl
theorem exec_jr (x0 : Reg) (s : State) : exec (.jr x0) s = execJr x0 s := rfl
theorem exec_callr (x0 : Reg) (s : State) : exec (.callr x0) s = execCallr x0 s := rfl
theorem exec_ret (s : State) : exec .ret s = execRet s := rfl
theorem exec_j (x0 : BitVec 26) (s : State) : exec (.j x0) s = execJ x0 s := rfl
theorem exec_call (x0 : BitVec 26) (s : State) : exec (.call x0) s = execCall x0 s := rfl
theorem exec_ldb (x0 : Reg) (x1 : Reg) (x2 : BitVec 13) (s : State) : exec (.ldb x0 x1 x2) s = execLdb x0 x1 x2 s := rfl
theorem exec_ldbu (x0 : Reg) (x1 : Reg) (x2 : BitVec 13) (s : State) : exec (.ldbu x0 x1 x2) s = execLdbu x0 x1 x2 s := rfl
theorem exec_ldh (x0 : Reg) (x1 : Reg) (x2 : BitVec 13) (s : State) : exec (.ldh x0 x1 x2) s = execLdh x0 x1 x2 s := rfl
theorem exec_ldhu (x0 : Reg) (x1 : Reg) (x2 : BitVec 13) (s : State) : exec (.ldhu x0 x1 x2) s = execLdhu x0 x1 x2 s := rfl
theorem exec_ldw (x0 : Reg) (x1 : Reg) (x2 : BitVec 13) (s : State) : exec (.ldw x0 x1 x2) s = execLdw x0 x1 x2 s := rfl
theorem exec_ldwu (x0 : Reg) (x1 : Reg) (x2 : BitVec 13) (s : State) : exec (.ldwu x0 x1 x2) s = execLdwu x0 x1 x2 s := rfl
theorem exec_ldd (x0 : Reg) (x1 : Reg) (x2 : BitVec 13) (s : State) : exec (.ldd x0 x1 x2) s = execLdd x0 x1 x2 s := rfl
theorem exec_stb (x0 : Reg) (x1 : Reg) (x2 : BitVec 13) (s : State) : exec (.stb x0 x1 x2) s = execStb x0 x1 x2 s := rfl
theorem exec_sth (x0 : Reg) (x1 : Reg) (x2 : BitVec 13) (s : State) : exec (.sth x0 x1 x2) s = execSth x0 x1 x2 s := rfl
theorem exec_stw (x0 : Reg) (x1 : Reg) (x2 : BitVec 13) (s : State) : exec (.stw x0 x1 x2) s = execStw x0 x1 x2 s := rfl
theorem exec_std (x0 : Reg) (x1 : Reg) (x2 : BitVec 13) (s : State) : exec (.std x0 x1 x2) s = execStd x0 x1 x2 s := rfl
theorem exec_amoadd (x0 : Reg) (x1 : Reg) (x2 : Reg) (x3 : BitVec 1) (s : State) : exec (.amoadd x0 x1 x2 x3) s = execAmoadd x0 x1 x2 x3 s := rfl
theorem exec_amoand (x0 : Reg) (x1 : Reg) (x2 : Reg) (x3 : BitVec 1) (s : State) : exec (.amoand x0 x1 x2 x3) s = execAmoand x0 x1 x2 x3 s := rfl
theorem exec_amoor (x0 : Reg) (x1 : Reg) (x2 : Reg) (x3 : BitVec 1) (s : State) : exec (.amoor x0 x1 x2 x3) s = execAmoor x0 x1 x2 x3 s := rfl
theorem exec_amoxor (x0 : Reg) (x1 : Reg) (x2 : Reg) (x3 : BitVec 1) (s : State) : exec (.amoxor x0 x1 x2 x3) s = execAmoxor x0 x1 x2 x3 s := rfl
theorem exec_amomin (x0 : Reg) (x1 : Reg) (x2 : Reg) (x3 : BitVec 1) (s : State) : exec (.amomin x0 x1 x2 x3) s = execAmomin x0 x1 x2 x3 s := rfl
theorem exec_amomax (x0 : Reg) (x1 : Reg) (x2 : Reg) (x3 : BitVec 1) (s : State) : exec (.amomax x0 x1 x2 x3) s = execAmomax x0 x1 x2 x3 s := rfl
theorem exec_amominu (x0 : Reg) (x1 : Reg) (x2 : Reg) (x3 : BitVec 1) (s : State) : exec (.amominu x0 x1 x2 x3) s = execAmominu x0 x1 x2 x3 s := rfl
theorem exec_amomaxu (x0 : Reg) (x1 : Reg) (x2 : Reg) (x3 : BitVec 1) (s : State) : exec (.amomaxu x0 x1 x2 x3) s = execAmomaxu x0 x1 x2 x3 s := rfl
theorem exec_amoswp (x0 : Reg) (x1 : Reg) (x2 : Reg) (x3 : BitVec 1) (s : State) : exec (.amoswp x0 x1 x2 x3) s = execAmoswp x0 x1 x2 x3 s := rfl
theorem exec_amocas (x0 : Reg) (x1 : Reg) (x2 : Reg) (x3 : BitVec 1) (s : State) : exec (.amocas x0 x1 x2 x3) s = execAmocas x0 x1 x2 x3 s := rfl
theorem exec_amofadd (x0 : Reg) (x1 : Reg) (x2 : Reg) (s : State) : exec (.amofadd x0 x1 x2) s = execAmofadd x0 x1 x2 s := rfl
theorem exec_fence (x0 : BitVec 3) (x1 : BitVec 3) (s : State) : exec (.fence x0 x1) s = execFence x0 x1 s := rfl
theorem exec_waita (x0 : Reg) (x1 : Reg) (x2 : Reg) (x3 : BitVec 1) (s : State) : exec (.waita x0 x1 x2 x3) s = execWaita x0 x1 x2 x3 s := rfl
theorem exec_flushr (x0 : Reg) (x1 : Reg) (x2 : Reg) (s : State) : exec (.flushr x0 x1 x2) s = execFlushr x0 x1 x2 s := rfl
theorem exec_invr (x0 : Reg) (x1 : Reg) (x2 : Reg) (s : State) : exec (.invr x0 x1 x2) s = execInvr x0 x1 x2 s := rfl
theorem exec_pref (x0 : Reg) (x1 : BitVec 2) (s : State) : exec (.pref x0 x1) s = execPref x0 x1 s := rfl
theorem exec_vld (x0 : Reg) (x1 : Reg) (x2 : BitVec 1) (x3 : BitVec 3) (s : State) : exec (.vld x0 x1 x2 x3) s = execVld x0 x1 x2 x3 s := rfl
theorem exec_vst (x0 : Reg) (x1 : Reg) (x2 : BitVec 1) (x3 : BitVec 3) (s : State) : exec (.vst x0 x1 x2 x3) s = execVst x0 x1 x2 x3 s := rfl
theorem exec_vlds (x0 : Reg) (x1 : Reg) (x2 : Reg) (x3 : BitVec 1) (x4 : BitVec 3) (s : State) : exec (.vlds x0 x1 x2 x3 x4) s = execVlds x0 x1 x2 x3 x4 s := rfl
theorem exec_vsts (x0 : Reg) (x1 : Reg) (x2 : Reg) (x3 : BitVec 1) (x4 : BitVec 3) (s : State) : exec (.vsts x0 x1 x2 x3 x4) s = execVsts x0 x1 x2 x3 x4 s := rfl
theorem exec_vgath (x0 : Reg) (x1 : Reg) (x2 : Reg) (x3 : BitVec 1) (x4 : BitVec 3) (s : State) : exec (.vgath x0 x1 x2 x3 x4) s = execVgath x0 x1 x2 x3 x4 s := rfl
theorem exec_vscat (x0 : Reg) (x1 : Reg) (x2 : Reg) (x3 : BitVec 1) (x4 : BitVec 3) (s : State) : exec (.vscat x0 x1 x2 x3 x4) s = execVscat x0 x1 x2 x3 x4 s := rfl
theorem exec_mod (x0 : BitVec 4) (x1 : BitVec 2) (x2 : BitVec 2) (x3 : BitVec 3) (x4 : BitVec 3) (s : State) : exec (.mod x0 x1 x2 x3 x4) s = execMod x0 x1 x2 x3 x4 s := rfl
theorem exec_ext (x0 : BitVec 26) (s : State) : exec (.ext x0) s = execExt x0 s := rfl
theorem exec_vadd (x0 : Reg) (x1 : Reg) (x2 : Reg) (x3 : BitVec 3) (x4 : BitVec 4) (x5 : BitVec 1) (s : State) : exec (.vadd x0 x1 x2 x3 x4 x5) s = execVadd x0 x1 x2 x3 x4 x5 s := rfl
theorem exec_vsub (x0 : Reg) (x1 : Reg) (x2 : Reg) (x3 : BitVec 3) (x4 : BitVec 4) (x5 : BitVec 1) (s : State) : exec (.vsub x0 x1 x2 x3 x4 x5) s = execVsub x0 x1 x2 x3 x4 x5 s := rfl
theorem exec_vmul (x0 : Reg) (x1 : Reg) (x2 : Reg) (x3 : BitVec 3) (x4 : BitVec 4) (x5 : BitVec 1) (s : State) : exec (.vmul x0 x1 x2 x3 x4 x5) s = execVmul x0 x1 x2 x3 x4 x5 s := rfl
theorem exec_vfma (x0 : Reg) (x1 : Reg) (x2 : Reg) (x3 : BitVec 3) (x4 : BitVec 4) (x5 : BitVec 1) (s : State) : exec (.vfma x0 x1 x2 x3 x4 x5) s = execVfma x0 x1 x2 x3 x4 x5 s := rfl
theorem exec_vmin (x0 : Reg) (x1 : Reg) (x2 : Reg) (x3 : BitVec 3) (x4 : BitVec 4) (x5 : BitVec 1) (s : State) : exec (.vmin x0 x1 x2 x3 x4 x5) s = execVmin x0 x1 x2 x3 x4 x5 s := rfl
theorem exec_vmax (x0 : Reg) (x1 : Reg) (x2 : Reg) (x3 : BitVec 3) (x4 : BitVec 4) (x5 : BitVec 1) (s : State) : exec (.vmax x0 x1 x2 x3 x4 x5) s = execVmax x0 x1 x2 x3 x4 x5 s := rfl
theorem exec_vabs (x0 : Reg) (x1 : Reg) (x2 : BitVec 3) (x3 : BitVec 4) (s : State) : exec (.vabs x0 x1 x2 x3) s = execVabs x0 x1 x2 x3 s := rfl
theorem exec_vneg (x0 : Reg) (x1 : Reg) (x2 : BitVec 3) (x3 : BitVec 4) (s : State) : exec (.vneg x0 x1 x2 x3) s = execVneg x0 x1 x2 x3 s := rfl
theorem exec_vrcp (x0 : Reg) (x1 : Reg) (s : State) : exec (.vrcp x0 x1) s = execVrcp x0 x1 s := rfl
theorem exec_vrsq (x0 : Reg) (x1 : Reg) (s : State) : exec (.vrsq x0 x1) s = execVrsq x0 x1 s := rfl
theorem exec_vexp2 (x0 : Reg) (x1 : Reg) (s : State) : exec (.vexp2 x0 x1) s = execVexp2 x0 x1 s := rfl
theorem exec_vlog2 (x0 : Reg) (x1 : Reg) (s : State) : exec (.vlog2 x0 x1) s = execVlog2 x0 x1 s := rfl
theorem exec_vcvt (x0 : Reg) (x1 : Reg) (x2 : BitVec 3) (s : State) : exec (.vcvt x0 x1 x2) s = execVcvt x0 x1 x2 s := rfl
theorem exec_vpack (x0 : Reg) (x1 : Reg) (x2 : Reg) (x3 : BitVec 3) (x4 : BitVec 4) (s : State) : exec (.vpack x0 x1 x2 x3 x4) s = execVpack x0 x1 x2 x3 x4 s := rfl
theorem exec_vunpack (x0 : Reg) (x1 : Reg) (x2 : BitVec 3) (x3 : BitVec 4) (s : State) : exec (.vunpack x0 x1 x2 x3) s = execVunpack x0 x1 x2 x3 s := rfl
theorem exec_vqnt (x0 : Reg) (x1 : Reg) (x2 : BitVec 3) (s : State) : exec (.vqnt x0 x1 x2) s = execVqnt x0 x1 x2 s := rfl
theorem exec_viadd (x0 : Reg) (x1 : Reg) (x2 : Reg) (x3 : BitVec 3) (x4 : BitVec 4) (x5 : BitVec 1) (s : State) : exec (.viadd x0 x1 x2 x3 x4 x5) s = execViadd x0 x1 x2 x3 x4 x5 s := rfl
theorem exec_visub (x0 : Reg) (x1 : Reg) (x2 : Reg) (x3 : BitVec 3) (x4 : BitVec 4) (x5 : BitVec 1) (s : State) : exec (.visub x0 x1 x2 x3 x4 x5) s = execVisub x0 x1 x2 x3 x4 x5 s := rfl
theorem exec_vimul (x0 : Reg) (x1 : Reg) (x2 : Reg) (x3 : BitVec 3) (x4 : BitVec 4) (x5 : BitVec 1) (s : State) : exec (.vimul x0 x1 x2 x3 x4 x5) s = execVimul x0 x1 x2 x3 x4 x5 s := rfl
theorem exec_vimac (x0 : Reg) (x1 : Reg) (x2 : Reg) (x3 : BitVec 3) (x4 : BitVec 4) (x5 : BitVec 1) (s : State) : exec (.vimac x0 x1 x2 x3 x4 x5) s = execVimac x0 x1 x2 x3 x4 x5 s := rfl
theorem exec_vshl (x0 : Reg) (x1 : Reg) (x2 : Reg) (x3 : BitVec 3) (x4 : BitVec 4) (x5 : BitVec 1) (s : State) : exec (.vshl x0 x1 x2 x3 x4 x5) s = execVshl x0 x1 x2 x3 x4 x5 s := rfl
theorem exec_vshr (x0 : Reg) (x1 : Reg) (x2 : Reg) (x3 : BitVec 3) (x4 : BitVec 4) (x5 : BitVec 1) (s : State) : exec (.vshr x0 x1 x2 x3 x4 x5) s = execVshr x0 x1 x2 x3 x4 x5 s := rfl
theorem exec_vsra (x0 : Reg) (x1 : Reg) (x2 : Reg) (x3 : BitVec 3) (x4 : BitVec 4) (x5 : BitVec 1) (s : State) : exec (.vsra x0 x1 x2 x3 x4 x5) s = execVsra x0 x1 x2 x3 x4 x5 s := rfl
theorem exec_vcmp (x0 : Reg) (x1 : Reg) (x2 : Reg) (x3 : BitVec 3) (s : State) : exec (.vcmp x0 x1 x2 x3) s = execVcmp x0 x1 x2 x3 s := rfl
theorem exec_vsel (x0 : Reg) (x1 : Reg) (x2 : Reg) (x3 : BitVec 3) (s : State) : exec (.vsel x0 x1 x2 x3) s = execVsel x0 x1 x2 x3 s := rfl
theorem exec_vand (x0 : Reg) (x1 : Reg) (x2 : Reg) (s : State) : exec (.vand x0 x1 x2) s = execVand x0 x1 x2 s := rfl
theorem exec_vor (x0 : Reg) (x1 : Reg) (x2 : Reg) (s : State) : exec (.vor x0 x1 x2) s = execVor x0 x1 x2 s := rfl
theorem exec_vxor (x0 : Reg) (x1 : Reg) (x2 : Reg) (s : State) : exec (.vxor x0 x1 x2) s = execVxor x0 x1 x2 s := rfl
theorem exec_kand (x0 : Reg) (x1 : Reg) (x2 : Reg) (s : State) : exec (.kand x0 x1 x2) s = execKand x0 x1 x2 s := rfl
theorem exec_kor (x0 : Reg) (x1 : Reg) (x2 : Reg) (s : State) : exec (.kor x0 x1 x2) s = execKor x0 x1 x2 s := rfl
theorem exec_knot (x0 : Reg) (x1 : Reg) (s : State) : exec (.knot x0 x1) s = execKnot x0 x1 s := rfl
theorem exec_kpopc (x0 : Reg) (x1 : Reg) (s : State) : exec (.kpopc x0 x1) s = execKpopc x0 x1 s := rfl
theorem exec_vgrant (x0 : Reg) (x1 : Reg) (x2 : BitVec 3) (s : State) : exec (.vgrant x0 x1 x2) s = execVgrant x0 x1 x2 s := rfl
theorem exec_vredadd (x0 : Reg) (x1 : Reg) (x2 : BitVec 3) (s : State) : exec (.vredadd x0 x1 x2) s = execVredadd x0 x1 x2 s := rfl
theorem exec_vredmax (x0 : Reg) (x1 : Reg) (x2 : BitVec 3) (s : State) : exec (.vredmax x0 x1 x2) s = execVredmax x0 x1 x2 s := rfl
theorem exec_vredmin (x0 : Reg) (x1 : Reg) (x2 : BitVec 3) (s : State) : exec (.vredmin x0 x1 x2) s = execVredmin x0 x1 x2 s := rfl
theorem exec_vperm (x0 : Reg) (x1 : Reg) (x2 : Reg) (s : State) : exec (.vperm x0 x1 x2) s = execVperm x0 x1 x2 s := rfl
theorem exec_vslide (x0 : Reg) (x1 : Reg) (x2 : Reg) (s : State) : exec (.vslide x0 x1 x2) s = execVslide x0 x1 x2 s := rfl
theorem exec_vbcast (x0 : Reg) (x1 : Reg) (s : State) : exec (.vbcast x0 x1) s = execVbcast x0 x1 s := rfl
theorem exec_vextr (x0 : Reg) (x1 : Reg) (x2 : Reg) (s : State) : exec (.vextr x0 x1 x2) s = execVextr x0 x1 x2 s := rfl
theorem exec_vins (x0 : Reg) (x1 : Reg) (x2 : Reg) (s : State) : exec (.vins x0 x1 x2) s = execVins x0 x1 x2 s := rfl
theorem exec_nput (x0 : Reg) (x1 : BitVec 3) (x2 : BitVec 6) (s : State) : exec (.nput x0 x1 x2) s = execNput x0 x1 x2 s := rfl
theorem exec_nget (x0 : Reg) (x1 : BitVec 3) (s : State) : exec (.nget x0 x1) s = execNget x0 x1 s := rfl
theorem exec_ntry (x0 : Reg) (x1 : BitVec 3) (s : State) : exec (.ntry x0 x1) s = execNtry x0 x1 s := rfl
theorem exec_ntryPut (x0 : Reg) (x1 : Reg) (x2 : BitVec 3) (x3 : BitVec 6) (s : State) : exec (.ntryPut x0 x1 x2 x3) s = execNtryPut x0 x1 x2 x3 s := rfl
theorem exec_nclr (x0 : BitVec 3) (s : State) : exec (.nclr x0) s = execNclr x0 s := rfl
theorem exec_cmps (x0 : BitVec 2) (s : State) : exec (.cmps x0) s = execCmps x0 s := rfl
theorem exec_dcmp (s : State) : exec .dcmp s = execDcmp s := rfl
theorem exec_mgang (x0 : BitVec 1) (s : State) : exec (.mgang x0) s = execMgang x0 s := rfl
theorem exec_mwait (x0 : BitVec 8) (s : State) : exec (.mwait x0) s = execMwait x0 s := rfl
theorem exec_mzero (x0 : BitVec 1) (x1 : BitVec 8) (s : State) : exec (.mzero x0 x1) s = execMzero x0 x1 s := rfl
theorem exec_mmov (x0 : Reg) (x1 : Reg) (x2 : BitVec 1) (x3 : BitVec 1) (x4 : BitVec 1) (x5 : Reg) (s : State) : exec (.mmov x0 x1 x2 x3 x4 x5) s = execMmov x0 x1 x2 x3 x4 x5 s := rfl
theorem exec_mlda (x0 : Reg) (x1 : Reg) (x2 : Reg) (x3 : BitVec 1) (x4 : BitVec 1) (x5 : BitVec 1) (s : State) : exec (.mlda x0 x1 x2 x3 x4 x5) s = execMlda x0 x1 x2 x3 x4 x5 s := rfl
theorem exec_mldb (x0 : Reg) (x1 : Reg) (x2 : Reg) (x3 : BitVec 1) (s : State) : exec (.mldb x0 x1 x2 x3) s = execMldb x0 x1 x2 x3 s := rfl
theorem exec_mstd (x0 : Reg) (x1 : Reg) (x2 : Reg) (x3 : BitVec 1) (x4 : BitVec 1) (s : State) : exec (.mstd x0 x1 x2 x3 x4) s = execMstd x0 x1 x2 x3 x4 s := rfl
theorem exec_mma (x0 : Reg) (x1 : Reg) (x2 : BitVec 1) (x3 : BitVec 1) (x4 : BitVec 1) (x5 : BitVec 3) (s : State) : exec (.mma x0 x1 x2 x3 x4 x5) s = execMma x0 x1 x2 x3 x4 x5 s := rfl
theorem exec_mcb (x0 : Reg) (x1 : Reg) (x2 : BitVec 1) (x3 : BitVec 1) (x4 : BitVec 1) (x5 : BitVec 3) (s : State) : exec (.mcb x0 x1 x2 x3 x4 x5) s = execMcb x0 x1 x2 x3 x4 x5 s := rfl
theorem exec_mmx (x0 : Reg) (x1 : BitVec 1) (x2 : BitVec 1) (x3 : BitVec 3) (x4 : BitVec 3) (s : State) : exec (.mmx x0 x1 x2 x3 x4) s = execMmx x0 x1 x2 x3 x4 s := rfl
theorem exec_msca (x0 : Reg) (x1 : Reg) (x2 : BitVec 1) (x3 : BitVec 1) (x4 : BitVec 3) (x5 : BitVec 3) (s : State) : exec (.msca x0 x1 x2 x3 x4 x5) s = execMsca x0 x1 x2 x3 x4 x5 s := rfl
theorem exec_qpush (x0 : Reg) (x1 : BitVec 3) (x2 : BitVec 6) (s : State) : exec (.qpush x0 x1 x2) s = execQpush x0 x1 x2 s := rfl
theorem exec_qpop (x0 : Reg) (x1 : BitVec 3) (s : State) : exec (.qpop x0 x1) s = execQpop x0 x1 s := rfl
theorem exec_qpopAq (x0 : Reg) (x1 : BitVec 2) (s : State) : exec (.qpopAq x0 x1) s = execQpopAq x0 x1 s := rfl
theorem exec_qtry (x0 : Reg) (x1 : BitVec 3) (s : State) : exec (.qtry x0 x1) s = execQtry x0 x1 s := rfl
theorem exec_qtryAq (x0 : Reg) (x1 : BitVec 2) (s : State) : exec (.qtryAq x0 x1) s = execQtryAq x0 x1 s := rfl
theorem exec_qputt (x0 : Reg) (x1 : Reg) (x2 : BitVec 3) (x3 : BitVec 6) (s : State) : exec (.qputt x0 x1 x2 x3) s = execQputt x0 x1 x2 x3 s := rfl
theorem exec_qdepth (x0 : Reg) (x1 : BitVec 3) (s : State) : exec (.qdepth x0 x1) s = execQdepth x0 x1 s := rfl
theorem exec_qdepthAq (x0 : Reg) (x1 : BitVec 2) (s : State) : exec (.qdepthAq x0 x1) s = execQdepthAq x0 x1 s := rfl
theorem exec_send (x0 : Reg) (x1 : Reg) (s : State) : exec (.send x0 x1) s = execSend x0 x1 s := rfl
theorem exec_sendt (x0 : Reg) (x1 : Reg) (x2 : Reg) (s : State) : exec (.sendt x0 x1 x2) s = execSendt x0 x1 x2 s := rfl
theorem exec_recv (x0 : Reg) (x1 : BitVec 2) (s : State) : exec (.recv x0 x1) s = execRecv x0 x1 s := rfl
theorem exec_recvt (x0 : Reg) (x1 : BitVec 2) (s : State) : exec (.recvt x0 x1) s = execRecvt x0 x1 s := rfl
theorem exec_hret (s : State) : exec .hret s = execHret s := rfl
theorem exec_gust (x0 : Reg) (s : State) : exec (.gust x0) s = execGust x0 s := rfl
theorem exec_gspawn (x0 : Reg) (s : State) : exec (.gspawn x0) s = execGspawn x0 s := rfl
theorem exec_repb (x0 : Reg) (s : State) : exec (.repb x0) s = execRepb x0 s := rfl
theorem exec_repe (x0 : Reg) (x1 : Reg) (s : State) : exec (.repe x0 x1) s = execRepe x0 x1 s := rfl
theorem exec_repwait (s : State) : exec .repwait s = execRepwait s := rfl
theorem exec_cpy (x0 : Reg) (x1 : Reg) (x2 : Reg) (x3 : BitVec 2) (x4 : BitVec 2) (x5 : BitVec 2) (s : State) : exec (.cpy x0 x1 x2 x3 x4 x5) s = execCpy x0 x1 x2 x3 x4 x5 s := rfl
theorem exec_cpy2d (x0 : Reg) (x1 : Reg) (x2 : Reg) (x3 : BitVec 2) (x4 : BitVec 2) (x5 : BitVec 2) (s : State) : exec (.cpy2d x0 x1 x2 x3 x4 x5) s = execCpy2d x0 x1 x2 x3 x4 x5 s := rfl
theorem exec_cpyn (x0 : Reg) (x1 : Reg) (x2 : Reg) (x3 : BitVec 2) (x4 : BitVec 2) (x5 : BitVec 2) (s : State) : exec (.cpyn x0 x1 x2 x3 x4 x5) s = execCpyn x0 x1 x2 x3 x4 x5 s := rfl
theorem exec_batch (x0 : BitVec 2) (s : State) : exec (.batch x0) s = execBatch x0 s := rfl
theorem exec_coll (x0 : Reg) (x1 : Reg) (x2 : Reg) (x3 : BitVec 3) (s : State) : exec (.coll x0 x1 x2 x3) s = execColl x0 x1 x2 x3 s := rfl
theorem exec_hashc (x0 : Reg) (x1 : Reg) (x2 : Reg) (x3 : BitVec 2) (s : State) : exec (.hashc x0 x1 x2 x3) s = execHashc x0 x1 x2 x3 s := rfl
theorem exec_signc (x0 : Reg) (x1 : Reg) (x2 : BitVec 2) (s : State) : exec (.signc x0 x1 x2) s = execSignc x0 x1 x2 s := rfl
theorem exec_rndg (x0 : Reg) (s : State) : exec (.rndg x0) s = execRndg x0 s := rfl
theorem exec_tlwait (x0 : Reg) (x1 : Reg) (s : State) : exec (.tlwait x0 x1) s = execTlwait x0 x1 s := rfl
theorem exec_tlwaitb (x0 : Reg) (x1 : Reg) (s : State) : exec (.tlwaitb x0 x1) s = execTlwaitb x0 x1 s := rfl
theorem exec_tlread (x0 : Reg) (x1 : BitVec 1) (x2 : Reg) (s : State) : exec (.tlread x0 x1 x2) s = execTlread x0 x1 x2 s := rfl
theorem exec_cntwait (x0 : Reg) (x1 : Reg) (x2 : Reg) (s : State) : exec (.cntwait x0 x1 x2) s = execCntwait x0 x1 x2 s := rfl
theorem exec_cancel (x0 : Reg) (x1 : BitVec 3) (s : State) : exec (.cancel x0 x1) s = execCancel x0 x1 s := rfl
theorem exec_phadv (x0 : Reg) (s : State) : exec (.phadv x0) s = execPhadv x0 s := rfl
theorem exec_phread (x0 : Reg) (x1 : Reg) (s : State) : exec (.phread x0 x1) s = execPhread x0 x1 s := rfl
theorem exec_pcnt (x0 : Reg) (x1 : Reg) (x2 : Reg) (x3 : BitVec 2) (s : State) : exec (.pcnt x0 x1 x2 x3) s = execPcnt x0 x1 x2 x3 s := rfl
theorem exec_launch (x0 : Reg) (x1 : Reg) (s : State) : exec (.launch x0 x1) s = execLaunch x0 x1 s := rfl
theorem exec_cbload (x0 : Reg) (x1 : BitVec 3) (s : State) : exec (.cbload x0 x1) s = execCbload x0 x1 s := rfl
theorem exec_htset (x0 : Reg) (x1 : Reg) (s : State) : exec (.htset x0 x1) s = execHtset x0 x1 s := rfl
theorem exec_epreq (x0 : Reg) (x1 : Reg) (x2 : BitVec 3) (s : State) : exec (.epreq x0 x1 x2) s = execEpreq x0 x1 x2 s := rfl
theorem exec_ownset (x0 : Reg) (x1 : Reg) (s : State) : exec (.ownset x0 x1) s = execOwnset x0 x1 s := rfl
theorem exec_cmap (x0 : Reg) (x1 : Reg) (x2 : Reg) (x3 : BitVec 1) (x4 : BitVec 2) (s : State) : exec (.cmap x0 x1 x2 x3 x4) s = execCmap x0 x1 x2 x3 x4 s := rfl
theorem exec_urtset (x0 : Reg) (x1 : Reg) (s : State) : exec (.urtset x0 x1) s = execUrtset x0 x1 s := rfl
theorem exec_schset (x0 : Reg) (x1 : Reg) (x2 : BitVec 1) (s : State) : exec (.schset x0 x1 x2) s = execSchset x0 x1 x2 s := rfl
theorem exec_seqnew (x0 : Reg) (s : State) : exec (.seqnew x0) s = execSeqnew x0 s := rfl
theorem exec_seqend (x0 : Reg) (s : State) : exec (.seqend x0) s = execSeqend x0 s := rfl
theorem exec_mext (x0 : Reg) (x1 : Reg) (x2 : BitVec 1) (x3 : BitVec 3) (s : State) : exec (.mext x0 x1 x2 x3) s = execMext x0 x1 x2 x3 s := rfl
theorem exec_halign (x0 : Reg) (x1 : BitVec 16) (s : State) : exec (.halign x0 x1) s = execHalign x0 x1 s := rfl
theorem exec_hpref (x0 : Reg) (x1 : BitVec 16) (s : State) : exec (.hpref x0 x1) s = execHpref x0 x1 s := rfl
theorem exec_hevict (x0 : Reg) (x1 : BitVec 16) (s : State) : exec (.hevict x0 x1) s = execHevict x0 x1 s := rfl
theorem exec_hprio (x0 : Reg) (x1 : BitVec 16) (s : State) : exec (.hprio x0 x1) s = execHprio x0 x1 s := rfl
theorem exec_hlikely (x0 : Reg) (x1 : BitVec 16) (s : State) : exec (.hlikely x0 x1) s = execHlikely x0 x1 s := rfl
theorem exec_notAnInstructionWord (x0 : BitVec 32) (s : State) : exec (.notAnInstructionWord x0) s = execNotAnInstructionWord x0 s := rfl
theorem exec_asyncCauseTaken (s : State) : exec .asyncCauseTaken s = execAsyncCauseTaken s := rfl
theorem exec_waitSatisfied (s : State) : exec .waitSatisfied s = execWaitSatisfied s := rfl
theorem exec_faultReply (s : State) : exec .faultReply s = execFaultReply s := rfl
theorem exec_slotFill (s : State) : exec .slotFill s = execSlotFill s := rfl
theorem exec_gale (s : State) : exec .gale s = execGale s := rfl
theorem exec_messageArrival (s : State) : exec .messageArrival s = execMessageArrival s := rfl
theorem exec_gustArrival (s : State) : exec .gustArrival s = execGustArrival s := rfl
theorem exec_linkLanding (s : State) : exec .linkLanding s = execLinkLanding s := rfl
theorem exec_queuePushLanding (s : State) : exec .queuePushLanding s = execQueuePushLanding s := rfl
theorem exec_claspRelease (s : State) : exec .claspRelease s = execClaspRelease s := rfl
theorem exec_gangTimeout (s : State) : exec .gangTimeout s = execGangTimeout s := rfl
theorem exec_halignTimeout (s : State) : exec .halignTimeout s = execHalignTimeout s := rfl
theorem exec_matrixZeroingDone (s : State) : exec .matrixZeroingDone s = execMatrixZeroingDone s := rfl
theorem exec_matrixOpComplete (s : State) : exec .matrixOpComplete s = execMatrixOpComplete s := rfl
theorem exec_dataStageComplete (s : State) : exec .dataStageComplete s = execDataStageComplete s := rfl
theorem exec_lockstepMismatch (s : State) : exec .lockstepMismatch s = execLockstepMismatch s := rfl
theorem exec_bankRetention (s : State) : exec .bankRetention s = execBankRetention s := rfl
theorem exec_copyCommandComplete (s : State) : exec .copyCommandComplete s = execCopyCommandComplete s := rfl
theorem exec_collComplete (s : State) : exec .collComplete s = execCollComplete s := rfl
theorem exec_bezelEngineComplete (s : State) : exec .bezelEngineComplete s = execBezelEngineComplete s := rfl
theorem exec_rangeWalkComplete (s : State) : exec .rangeWalkComplete s = execRangeWalkComplete s := rfl
theorem exec_instanceCompletion (s : State) : exec .instanceCompletion s = execInstanceCompletion s := rfl
theorem exec_nodeDispatch (s : State) : exec .nodeDispatch s = execNodeDispatch s := rfl
theorem exec_tailWatch (s : State) : exec .tailWatch s = execTailWatch s := rfl
theorem exec_nopCommand (s : State) : exec .nopCommand s = execNopCommand s := rfl
theorem exec_launchCommand (s : State) : exec .launchCommand s = execLaunchCommand s := rfl
theorem exec_graph (s : State) : exec .graph s = execGraph s := rfl
theorem exec_waitcnt (s : State) : exec .waitcnt s = execWaitcnt s := rfl
theorem exec_signal (s : State) : exec .signal s = execSignal s := rfl
theorem exec_phaseCommand (s : State) : exec .phaseCommand s = execPhaseCommand s := rfl
theorem exec_cancelCommand (s : State) : exec .cancelCommand s = execCancelCommand s := rfl
theorem exec_tick (s : State) : exec .tick s = execTick s := rfl
theorem exec_preempt (s : State) : exec .preempt s = execPreempt s := rfl
theorem exec_gphasePublish (s : State) : exec .gphasePublish s = execGphasePublish s := rfl
theorem exec_drds (s : State) : exec .drds s = execDrds s := rfl
theorem exec_drdx (s : State) : exec .drdx s = execDrdx s := rfl
theorem exec_dupg (s : State) : exec .dupg s = execDupg s := rfl
theorem exec_dwb (s : State) : exec .dwb s = execDwb s := rfl
theorem exec_devict (s : State) : exec .devict s = execDevict s := rfl
theorem exec_dfwds (s : State) : exec .dfwds s = execDfwds s := rfl
theorem exec_dfwdx (s : State) : exec .dfwdx s = execDfwdx s := rfl
theorem exec_dinv (s : State) : exec .dinv s = execDinv s := rfl
theorem exec_drsp (s : State) : exec .drsp s = execDrsp s := rfl
theorem exec_dcomp (s : State) : exec .dcomp s = execDcomp s := rfl
theorem exec_ddone (s : State) : exec .ddone s = execDdone s := rfl
theorem exec_ddata (s : State) : exec .ddata s = execDdata s := rfl
theorem exec_snpShared (s : State) : exec .snpShared s = execSnpShared s := rfl
theorem exec_snpInv (s : State) : exec .snpInv s = execSnpInv s := rfl
theorem exec_inval (s : State) : exec .inval s = execInval s := rfl
theorem exec_shootdownComplete (s : State) : exec .shootdownComplete s = execShootdownComplete s := rfl
theorem exec_wbAck (s : State) : exec .wbAck s = execWbAck s := rfl
theorem exec_cmp (s : State) : exec .cmp s = execCmp s := rfl
theorem exec_atomicRsp (s : State) : exec .atomicRsp s = execAtomicRsp s := rfl
theorem exec_data (s : State) : exec .data s = execData s := rfl
theorem exec_hostlinkFail (s : State) : exec .hostlinkFail s = execHostlinkFail s := rfl
theorem exec_hostModuleFailover (s : State) : exec .hostModuleFailover s = execHostModuleFailover s := rfl
theorem exec_d2dFail (s : State) : exec .d2dFail s = execD2dFail s := rfl
theorem exec_meshUe (s : State) : exec .meshUe s = execMeshUe s := rfl
theorem exec_sramUe (s : State) : exec .sramUe s = execSramUe s := rfl
theorem exec_accUe (s : State) : exec .accUe s = execAccUe s := rfl
theorem exec_paccUe (s : State) : exec .paccUe s = execPaccUe s := rfl
theorem exec_wbufUe (s : State) : exec .wbufUe s = execWbufUe s := rfl
theorem exec_abufParity (s : State) : exec .abufParity s = execAbufParity s := rfl
theorem exec_cbParity (s : State) : exec .cbParity s = execCbParity s := rfl
theorem exec_rowBusCrc (s : State) : exec .rowBusCrc s = execRowBusCrc s := rfl
theorem exec_claspFault (s : State) : exec .claspFault s = execClaspFault s := rfl
theorem exec_regParity (s : State) : exec .regParity s = execRegParity s := rfl
theorem exec_rowSwitch (s : State) : exec .rowSwitch s = execRowSwitch s := rfl
theorem exec_keySweepComplete (s : State) : exec .keySweepComplete s = execKeySweepComplete s := rfl
theorem exec_register (s : State) : exec .register s = execRegister s := rfl
theorem exec_teardown (s : State) : exec .teardown s = execTeardown s := rfl
theorem exec_freeze (s : State) : exec .freeze s = execFreeze s := rfl
theorem exec_drainComplete (s : State) : exec .drainComplete s = execDrainComplete s := rfl
theorem exec_resume (s : State) : exec .resume s = execResume s := rfl
theorem exec_spanRegion (s : State) : exec .spanRegion s = execSpanRegion s := rfl
theorem exec_fwUpdate (s : State) : exec .fwUpdate s = execFwUpdate s := rfl
theorem exec_spanJoin (s : State) : exec .spanJoin s = execSpanJoin s := rfl
theorem exec_faultq (s : State) : exec .faultq s = execFaultq s := rfl
theorem exec_sidebandRegisterWrite (s : State) : exec .sidebandRegisterWrite s = execSidebandRegisterWrite s := rfl
theorem exec_powerOn (s : State) : exec .powerOn s = execPowerOn s := rfl
theorem exec_reset (s : State) : exec .reset s = execReset s := rfl
theorem exec_powerOff (s : State) : exec .powerOff s = execPowerOff s := rfl
theorem exec_powerMeasure (s : State) : exec .powerMeasure s = execPowerMeasure s := rfl
theorem exec_thermalTrip (s : State) : exec .thermalTrip s = execThermalTrip s := rfl
theorem exec_rowGate (s : State) : exec .rowGate s = execRowGate s := rfl
theorem exec_dieRetentionEntry (s : State) : exec .dieRetentionEntry s = execDieRetentionEntry s := rfl
theorem exec_dieRetentionExit (s : State) : exec .dieRetentionExit s = execDieRetentionExit s := rfl
theorem exec_alarm (s : State) : exec .alarm s = execAlarm s := rfl
theorem exec_getVersion (s : State) : exec .getVersion s = execGetVersion s := rfl
theorem exec_getCapabilities (s : State) : exec .getCapabilities s = execGetCapabilities s := rfl
theorem exec_negotiateAlgorithms (s : State) : exec .negotiateAlgorithms s = execNegotiateAlgorithms s := rfl
theorem exec_getDigests (s : State) : exec .getDigests s = execGetDigests s := rfl
theorem exec_getCertificate (s : State) : exec .getCertificate s = execGetCertificate s := rfl
theorem exec_challenge (s : State) : exec .challenge s = execChallenge s := rfl
theorem exec_getMeasurements (s : State) : exec .getMeasurements s = execGetMeasurements s := rfl
theorem exec_keyExchange (s : State) : exec .keyExchange s = execKeyExchange s := rfl
theorem exec_finish (s : State) : exec .finish s = execFinish s := rfl
theorem exec_endSession (s : State) : exec .endSession s = execEndSession s := rfl
theorem exec_lockInterface (s : State) : exec .lockInterface s = execLockInterface s := rfl
theorem exec_channelOpen (s : State) : exec .channelOpen s = execChannelOpen s := rfl
theorem exec_channelRecord (s : State) : exec .channelRecord s = execChannelRecord s := rfl
theorem exec_idcode (s : State) : exec .idcode s = execIdcode s := rfl
theorem exec_auth (s : State) : exec .auth s = execAuth s := rfl
theorem exec_dbgReq (s : State) : exec .dbgReq s = execDbgReq s := rfl
theorem exec_frostEnter (s : State) : exec .frostEnter s = execFrostEnter s := rfl
theorem exec_scanSelect (s : State) : exec .scanSelect s = execScanSelect s := rfl
theorem exec_scanRead (s : State) : exec .scanRead s = execScanRead s := rfl
theorem exec_bypass (s : State) : exec .bypass s = execBypass s := rfl
theorem exec_spanFlit (s : State) : exec .spanFlit s = execSpanFlit s := rfl
theorem exec_spanRetrain (s : State) : exec .spanRetrain s = execSpanRetrain s := rfl
theorem exec_pageReq (s : State) : exec .pageReq s = execPageReq s := rfl
theorem exec_spanAtomic (s : State) : exec .spanAtomic s = execSpanAtomic s := rfl
theorem exec_spanLinkTimeout (s : State) : exec .spanLinkTimeout s = execSpanLinkTimeout s := rfl
theorem exec_hostErrorAnswer (s : State) : exec .hostErrorAnswer s = execHostErrorAnswer s := rfl
theorem exec_hostProtocolError (s : State) : exec .hostProtocolError s = execHostProtocolError s := rfl
theorem exec_unknownManagementOp (s : State) : exec .unknownManagementOp s = execUnknownManagementOp s := rfl
theorem exec_unsupportedRequest (s : State) : exec .unsupportedRequest s = execUnsupportedRequest s := rfl
theorem exec_spanLinkRecovered (s : State) : exec .spanLinkRecovered s = execSpanLinkRecovered s := rfl
theorem exec_correctedError (s : State) : exec .correctedError s = execCorrectedError s := rfl

end Sys2Proof.Machine
end

