-- ==== Sys2Proof/Laws/Memory.lean ====
section
/-!
SUPPORT. Memory in canonical form: every operation keeps it, a byte just written reads back, and every other byte reads as before.
-/

namespace Sys2Proof.Machine.Memory

/-- The canonical form, as a proposition: addresses strictly rising, no entry blank. -/
theorem wf_iff (m : Memory) : wf m = true ↔ (m.Pairwise fun c d => c.1 < d.1) ∧ ∀ c ∈ m, c.2 ≠ blank := by
  simp [wf]

/-- The empty memory is canonical. -/
theorem wf_nil : wf [] = true := rfl

/-- What a canonical memory keeps after any of its entries are dropped is canonical. -/
theorem wf_filter {m : Memory} (h : wf m = true) (p : Host.Cell → Bool) : wf (m.filter p) = true := by
  rw [wf_iff] at h ⊢
  exact ⟨h.1.filter p, fun c hc => h.2 c (List.mem_filter.1 hc).1⟩

/-- Blanking a run of addresses keeps the canonical form. -/
theorem wf_clear {m : Memory} (h : wf m = true) (a n : Nat) : wf (clear m a n) = true := wf_filter h _

/-- The cells of bytes lie where the bytes go, and none is blank. -/
theorem cells_spec (a : Nat) (bs : List Byte) :
    (cells a bs).Pairwise (fun c d => c.1 < d.1) ∧ ∀ c ∈ cells a bs, a ≤ c.1 ∧ c.1 < a + bs.length ∧ c.2 ≠ blank := by
  induction bs generalizing a with
  | nil => simp [cells]
  | cons x xs ih =>
    obtain ⟨h₁, h₂⟩ := ih (a + 1)
    by_cases hx : x = blank
    · simp only [cells, hx, if_true]
      exact ⟨h₁, fun c hc => by have := h₂ c hc; simp only [List.length_cons]; exact ⟨by omega, by omega, this.2.2⟩⟩
    · simp only [cells, hx, if_false, List.pairwise_cons, List.mem_cons, List.length_cons]
      refine ⟨⟨fun c hc => by have := h₂ c hc; omega, h₁⟩, fun c hc => ?_⟩
      rcases hc with rfl | hc
      · exact ⟨Nat.le_refl _, by omega, hx⟩
      · have := h₂ c hc; exact ⟨by omega, by omega, this.2.2⟩

/-- What stays in front of a store lies below it. -/
theorem mem_takeWhile {m : Memory} {a : Nat} {c : Host.Cell} (h : c ∈ m.takeWhile fun c => decide (c.1 < a)) : c.1 < a := by
  induction m with
  | nil => simp at h
  | cons d m ih =>
    by_cases hd : d.1 < a
    · simp only [List.takeWhile_cons, hd, decide_true, if_true, List.mem_cons] at h
      rcases h with rfl | h
      · exact hd
      · exact ih h
    · simp [hd] at h

/-- What stays behind a store lies above it, in a canonical memory. -/
theorem mem_dropWhile {m : Memory} (hm : m.Pairwise fun c d => c.1 < d.1) {a : Nat} {c : Host.Cell}
    (h : c ∈ m.dropWhile fun c => decide (c.1 < a)) : a ≤ c.1 := by
  induction m with
  | nil => simp at h
  | cons d m ih =>
    rw [List.pairwise_cons] at hm
    by_cases hd : d.1 < a
    · simp only [List.dropWhile_cons, hd, decide_true, if_true] at h
      exact ih hm.2 h
    · simp only [List.dropWhile_cons, hd, decide_false] at h
      rcases List.mem_cons.1 h with rfl | h
      · omega
      · have := hm.1 c h; omega

/-- A store keeps the canonical form. -/
theorem wf_puts {m : Memory} (h : wf m = true) (a : Nat) (bs : List Byte) : wf (puts m a bs) = true := by
  rw [wf_iff] at h ⊢
  obtain ⟨hc₁, hc₂⟩ := cells_spec a bs
  have ht := h.1.sublist (List.takeWhile_sublist fun c => decide (c.1 < a))
  have hd := h.1.sublist (List.dropWhile_sublist fun c => decide (c.1 < a + bs.length))
  refine ⟨List.pairwise_append.2 ⟨List.pairwise_append.2 ⟨ht, hc₁, fun c hc d hd' => ?_⟩, hd, fun c hc d hd' => ?_⟩, fun c hc => ?_⟩
  · have := mem_takeWhile hc; have := hc₂ d hd'; omega
  · have := mem_dropWhile h.1 hd'
    rcases List.mem_append.1 hc with hc | hc
    · have := mem_takeWhile hc; omega
    · have := hc₂ c hc; omega
  · rcases List.mem_append.1 hc with hc | hc
    · rcases List.mem_append.1 hc with hc | hc
      · exact h.2 c ((List.takeWhile_sublist _).subset hc)
      · exact (hc₂ c hc).2.2
    · exact h.2 c ((List.dropWhile_sublist _).subset hc)

/-- Storing one byte keeps the canonical form. -/
theorem wf_put {m : Memory} (h : wf m = true) (a : Nat) (x : Byte) : wf (put m a x) = true := wf_puts h a [x]

/-! ### Reading -/

/-- An address that no entry names reads as blank. -/
theorem get_absent {m : Memory} {a : Nat} (h : ∀ c ∈ m, c.1 ≠ a) : get m a = blank := by
  induction m with
  | nil => rfl
  | cons d m ih =>
    have hd : d.1 ≠ a := h d (List.mem_cons_self ..)
    simp only [get, hd, if_false]
    split
    · rfl
    · exact ih fun c hc => h c (List.mem_cons_of_mem _ hc)

/-- An entry reads as its byte. -/
theorem get_present {m : Memory} (hm : m.Pairwise fun c d => c.1 < d.1) {a : Nat} {x : Byte} (h : (a, x) ∈ m) : get m a = x := by
  induction m with
  | nil => simp at h
  | cons d m ih =>
    rw [List.pairwise_cons] at hm
    rcases List.mem_cons.1 h with rfl | h
    · simp [get]
    · have := hm.1 _ h
      have h₁ : d.1 ≠ a := by simp only at this; omega
      have h₂ : ¬ a < d.1 := by simp only at this; omega
      simp only [get, h₁, h₂, if_false]
      exact ih hm.2 h

/-- Two canonical memories that list the same cells below and above a run read alike there. -/
theorem get_eq {m k : Memory} (hm : wf m = true) (hk : wf k = true) {a : Nat} (h : ∀ x, (a, x) ∈ m ↔ (a, x) ∈ k) :
    get m a = get k a := by
  rw [wf_iff] at hm hk
  by_cases e : ∃ x, (a, x) ∈ m
  · obtain ⟨x, hx⟩ := e
    rw [get_present hm.1 hx, get_present hk.1 ((h x).1 hx)]
  · have hn : ∀ x, (a, x) ∉ m := fun x hx => e ⟨x, hx⟩
    rw [get_absent fun c hc ha => hn c.2 (by rw [← ha]; exact hc),
      get_absent fun c hc ha => hn c.2 ((h c.2).2 (by rw [← ha]; exact hc))]

/-- The cells of bytes list byte `i` at its address, unless it is blank. -/
theorem mem_cells (a : Nat) (bs : List Byte) (b : Nat) (x : Byte) :
    (b, x) ∈ cells a bs ↔ a ≤ b ∧ bs[b - a]? = some x ∧ x ≠ blank := by
  induction bs generalizing a with
  | nil => simp [cells]
  | cons y ys ih =>
    by_cases hb : b = a
    · subst hb
      by_cases hy : y = blank
      · simp only [cells, hy, if_true, ih]
        simp only [Nat.sub_self, List.getElem?_cons_zero, Option.some.injEq]
        constructor
        · rintro ⟨h, -⟩; omega
        · rintro ⟨-, rfl, h⟩; exact absurd rfl h
      · simp only [cells, hy, if_false, List.mem_cons, ih, Prod.mk.injEq, true_and, Nat.sub_self, List.getElem?_cons_zero,
          Option.some.injEq]
        constructor
        · rintro (rfl | ⟨h, -⟩)
          · exact ⟨Nat.le_refl _, rfl, hy⟩
          · omega
        · rintro ⟨-, rfl, -⟩; exact .inl rfl
    · have h₁ : a ≤ b ↔ a + 1 ≤ b := by omega
      have h₂ : a + 1 ≤ b → b - a = (b - (a + 1)) + 1 := by omega
      by_cases hy : y = blank
      · simp only [cells, hy, if_true, ih, h₁]
        exact and_congr_right fun h => by rw [h₂ h, List.getElem?_cons_succ]
      · simp only [cells, hy, if_false, List.mem_cons, ih, Prod.mk.injEq, hb, false_and, false_or, h₁]
        exact and_congr_right fun h => by rw [h₂ h, List.getElem?_cons_succ]

/-- An entry below an address is in the part before it. -/
theorem mem_takeWhile_iff {m : Memory} (hm : m.Pairwise fun c d => c.1 < d.1) (a : Nat) (c : Host.Cell) :
    c ∈ m.takeWhile (fun c => decide (c.1 < a)) ↔ c ∈ m ∧ c.1 < a := by
  refine ⟨fun h => ⟨(List.takeWhile_sublist _).subset h, mem_takeWhile h⟩, fun ⟨h, ha⟩ => ?_⟩
  rw [← List.takeWhile_append_dropWhile (p := fun c : Host.Cell => decide (c.1 < a)) (l := m)] at h
  rcases List.mem_append.1 h with h | h
  · exact h
  · have := mem_dropWhile hm h; omega

/-- An entry at or above an address is in the part after it. -/
theorem mem_dropWhile_iff {m : Memory} (hm : m.Pairwise fun c d => c.1 < d.1) (a : Nat) (c : Host.Cell) :
    c ∈ m.dropWhile (fun c => decide (c.1 < a)) ↔ c ∈ m ∧ a ≤ c.1 := by
  refine ⟨fun h => ⟨(List.dropWhile_sublist _).subset h, mem_dropWhile hm h⟩, fun ⟨h, ha⟩ => ?_⟩
  rw [← List.takeWhile_append_dropWhile (p := fun c : Host.Cell => decide (c.1 < a)) (l := m)] at h
  rcases List.mem_append.1 h with h | h
  · have := mem_takeWhile h; omega
  · exact h

/-- The entries after a store. -/
theorem mem_puts {m : Memory} (h : wf m = true) (a : Nat) (bs : List Byte) (b : Nat) (x : Byte) :
    (b, x) ∈ puts m a bs ↔
      if a ≤ b ∧ b < a + bs.length then bs[b - a]? = some x ∧ x ≠ blank else (b, x) ∈ m := by
  rw [wf_iff] at h
  simp only [puts, List.mem_append, mem_takeWhile_iff h.1, mem_dropWhile_iff h.1, mem_cells]
  by_cases hb : a ≤ b ∧ b < a + bs.length
  · simp only [hb, if_true, and_self, true_and]
    constructor
    · rintro ((h' | h') | h')
      · omega
      · exact h'
      · omega
    · exact fun h' => .inl (.inr h')
  · simp only [hb, if_false]
    constructor
    · rintro ((h' | h') | h')
      · exact h'.1
      · exact absurd ⟨h'.1, by have := (List.getElem?_eq_some_iff.1 h'.2.1).1; omega⟩ hb
      · exact h'.1
    · intro h'
      by_cases hlt : b < a
      · exact .inl (.inl ⟨h', hlt⟩)
      · exact .inr ⟨h', by omega⟩

/-- A byte that a store wrote reads back. -/
theorem get_puts_inside {m : Memory} (h : wf m = true) {a b : Nat} {bs : List Byte} (h₁ : a ≤ b) (h₂ : b < a + bs.length) :
    get (puts m a bs) b = bs.getD (b - a) blank := by
  have hw := (wf_iff _).1 (wf_puts h a bs)
  have hi : b - a < bs.length := by omega
  rw [List.getD_eq_getElem?_getD, List.getElem?_eq_getElem hi, Option.getD_some]
  by_cases hx : bs[b - a] = blank
  · rw [hx]
    refine get_absent fun c hc hb => ?_
    subst hb
    have := (mem_puts h a bs c.1 c.2).1 hc
    rw [if_pos ⟨h₁, h₂⟩, List.getElem?_eq_getElem hi, Option.some.injEq] at this
    exact this.2 (this.1 ▸ hx)
  · refine get_present hw.1 ((mem_puts h a bs b _).2 ?_)
    rw [if_pos ⟨h₁, h₂⟩]
    exact ⟨List.getElem?_eq_getElem hi, hx⟩

/-- Every other byte reads as before. -/
theorem get_puts_outside {m : Memory} (h : wf m = true) {a b : Nat} {bs : List Byte} (hb : b < a ∨ a + bs.length ≤ b) :
    get (puts m a bs) b = get m b :=
  get_eq (wf_puts h a bs) h fun x => by rw [mem_puts h, if_neg (by omega)]

/-- A read of a memory that lists nothing below its start gives the bytes one by one. -/
theorem read_eq (m : Memory) (hm : m.Pairwise fun c d => c.1 < d.1) (a n : Nat) (ha : ∀ c ∈ m, a ≤ c.1) :
    read m a n = (List.range n).map fun i => get m (a + i) := by
  induction n generalizing m a with
  | zero => cases m <;> rfl
  | succ n ih =>
    rw [List.range_succ_eq_map, List.map_cons, List.map_map]
    cases m with
    | nil =>
      simp only [read, List.replicate_succ, get]
      rw [List.cons.injEq]
      refine ⟨rfl, ?_⟩
      clear ih ha
      induction n with
      | zero => rfl
      | succ n ih => rw [List.replicate_succ', ih, List.range_succ, List.map_append]; rfl
    | cons d m =>
      rw [List.pairwise_cons] at hm
      have hd := ha d (List.mem_cons_self ..)
      by_cases e : d.1 = a
      · simp only [read, e, if_true]
        rw [List.cons.injEq]
        refine ⟨by simp [get, e], ?_⟩
        rw [ih m hm.2 (a + 1) fun c hc => by have := hm.1 c hc; omega]
        refine List.map_congr_left fun i _ => ?_
        have h₁ : d.1 ≠ a + (i + 1) := by omega
        have h₂ : ¬ a + (i + 1) < d.1 := by omega
        simp only [Function.comp, Nat.succ_eq_add_one, get, h₁, h₂, if_false]
        congr 1; omega
      · simp only [read, e, if_false]
        rw [List.cons.injEq]
        have h₂ : a < d.1 := by omega
        refine ⟨by simp [get, e, h₂], ?_⟩
        rw [ih (d :: m) (List.pairwise_cons.2 hm) (a + 1) fun c hc => by
          rcases List.mem_cons.1 hc with rfl | hc
          · omega
          · have := hm.1 c hc; omega]
        refine List.map_congr_left fun i _ => ?_
        simp only [Function.comp, Nat.succ_eq_add_one]
        congr 1; omega

/-- The bytes from an address are those at the addresses, one by one. -/
theorem gets_eq {m : Memory} (h : wf m = true) (a n : Nat) : gets m a n = (List.range n).map fun i => get m (a + i) := by
  have hm := ((wf_iff m).1 h).1
  have hs := hm.sublist (List.dropWhile_sublist fun c => decide (c.1 < a))
  rw [gets, read_eq _ hs a n fun c hc => mem_dropWhile hm hc]
  have hw : wf (m.dropWhile fun c => decide (c.1 < a)) = true :=
    (wf_iff _).2 ⟨hs, fun c hc => ((wf_iff m).1 h).2 c ((List.dropWhile_sublist _).subset hc)⟩
  refine List.map_congr_left fun i _ => get_eq hw h fun x => ?_
  rw [mem_dropWhile_iff hm]
  exact ⟨fun h => h.1, fun h => ⟨h, Nat.le_add_right a i⟩⟩

/-- Bytes just stored read back. -/
theorem gets_puts {m : Memory} (h : wf m = true) (a : Nat) (bs : List Byte) : gets (puts m a bs) a bs.length = bs := by
  rw [gets_eq (wf_puts h a bs)]
  refine List.ext_getElem (by simp) fun i h₁ h₂ => ?_
  rw [List.getElem_map, List.getElem_range, get_puts_inside h (by omega) (by omega), Nat.add_sub_cancel_left,
    List.getD_eq_getElem?_getD, List.getElem?_eq_getElem h₂, Option.getD_some]

end Sys2Proof.Machine.Memory
end

