-- ==== Sys2Proof/Laws/State.lean ====
section
/-!
SUPPORT. What each update of the state leaves alone, field by field, and what reading after writing gives for cores, slots, strands
and registers.
-/

namespace Sys2Proof

namespace AMap

variable {α : Type}

/-- The value just set is read. -/
@[simp] theorem get?_set_same (m : AMap α) (k : Nat) (x : α) : get? (set m k x) k = some x := by
  induction m with
  | nil => simp [set, get?]
  | cons p m ih =>
    obtain ⟨j, y⟩ := p
    by_cases h : j = k
    · simp [set, get?, h]
    · by_cases h' : k < j
      · simp [set, get?, h, h']
      · simp [set, get?, h, h', ih]

/-- Another key reads as before. -/
theorem get?_set_other (m : AMap α) {k l : Nat} (x : α) (h : l ≠ k) : get? (set m k x) l = get? m l := by
  induction m with
  | nil => simp [set, get?, Ne.symm h]
  | cons p m ih =>
    obtain ⟨j, y⟩ := p
    by_cases hj : j = k
    · have : j ≠ l := fun e => h (e ▸ hj)
      simp [set, get?, hj, Ne.symm h]
    · by_cases h' : k < j
      · simp [set, get?, hj, h', Ne.symm h]
      · simp only [set, get?, hj, h', if_false, ih]

/-- The value just set is read, with a default. -/
@[simp] theorem getD_set_same (m : AMap α) (k : Nat) (x d : α) : getD (set m k x) k d = x := by simp [getD]

/-- Another key reads as before, with a default. -/
theorem getD_set_other (m : AMap α) {k l : Nat} (x d : α) (h : l ≠ k) : getD (set m k x) l d = getD m l d := by
  simp [getD, get?_set_other m x h]

/-- Setting the same key twice keeps the second value. -/
@[simp] theorem set_set (m : AMap α) (k : Nat) (x y : α) : set (set m k x) k y = set m k y := by
  induction m with
  | nil => simp [set]
  | cons p m ih =>
    obtain ⟨j, z⟩ := p
    by_cases h : j = k
    · simp [set, h]
    · by_cases h' : k < j
      · simp [set, h, h']
      · simp [set, h, h', ih]

end AMap

namespace Machine.State

/-! ### Fields that an update leaves alone -/

@[simp] theorem setCore_mem (s : State) (c : Nat) (x : Core) : (s.setCore c x).mem = s.mem := rfl
@[simp] theorem setCore_dies (s : State) (c : Nat) (x : Core) : (s.setCore c x).dies = s.dies := rfl
@[simp] theorem setCore_gphase (s : State) (c : Nat) (x : Core) : (s.setCore c x).gphase = s.gphase := rfl
@[simp] theorem setCore_cycle (s : State) (c : Nat) (x : Core) : (s.setCore c x).cycle = s.cycle := rfl
@[simp] theorem setCore_counters (s : State) (c : Nat) (x : Core) : (s.setCore c x).counters = s.counters := rfl
@[simp] theorem setCore_launches (s : State) (c : Nat) (x : Core) : (s.setCore c x).launches = s.launches := rfl
@[simp] theorem setCore_graphs (s : State) (c : Nat) (x : Core) : (s.setCore c x).graphs = s.graphs := rfl
@[simp] theorem setCore_units (s : State) (c : Nat) (x : Core) : (s.setCore c x).units = s.units := rfl
@[simp] theorem setCore_jobs (s : State) (c : Nat) (x : Core) : (s.setCore c x).jobs = s.jobs := rfl
@[simp] theorem setCore_maps (s : State) (c : Nat) (x : Core) : (s.setCore c x).maps = s.maps := rfl
@[simp] theorem setCore_keys (s : State) (c : Nat) (x : Core) : (s.setCore c x).keys = s.keys := rfl
@[simp] theorem setCore_seals (s : State) (c : Nat) (x : Core) : (s.setCore c x).seals = s.seals := rfl
@[simp] theorem setCore_ranges (s : State) (c : Nat) (x : Core) : (s.setCore c x).ranges = s.ranges := rfl
@[simp] theorem setCore_net (s : State) (c : Nat) (x : Core) : (s.setCore c x).net = s.net := rfl
@[simp] theorem setCore_landings (s : State) (c : Nat) (x : Core) : (s.setCore c x).landings = s.landings := rfl
@[simp] theorem setCore_shootdowns (s : State) (c : Nat) (x : Core) : (s.setCore c x).shootdowns = s.shootdowns := rfl
@[simp] theorem setCore_mesh (s : State) (c : Nat) (x : Core) : (s.setCore c x).mesh = s.mesh := rfl
@[simp] theorem setCore_stamps (s : State) (c : Nat) (x : Core) : (s.setCore c x).stamps = s.stamps := rfl
@[simp] theorem setCore_answers (s : State) (c : Nat) (x : Core) : (s.setCore c x).answers = s.answers := rfl
@[simp] theorem setCore_acks (s : State) (c : Nat) (x : Core) : (s.setCore c x).acks = s.acks := rfl
@[simp] theorem setCore_hostLines (s : State) (c : Nat) (x : Core) : (s.setCore c x).hostLines = s.hostLines := rfl
@[simp] theorem setCore_hostTx (s : State) (c : Nat) (x : Core) : (s.setCore c x).hostTx = s.hostTx := rfl
@[simp] theorem setCore_hostCopies (s : State) (c : Nat) (x : Core) : (s.setCore c x).hostCopies = s.hostCopies := rfl
@[simp] theorem setCore_holes (s : State) (c : Nat) (x : Core) : (s.setCore c x).holes = s.holes := rfl
@[simp] theorem setCore_generations (s : State) (c : Nat) (x : Core) : (s.setCore c x).generations = s.generations := rfl
@[simp] theorem setCore_endpoints (s : State) (c : Nat) (x : Core) : (s.setCore c x).endpoints = s.endpoints := rfl
@[simp] theorem setCore_bezel (s : State) (c : Nat) (x : Core) : (s.setCore c x).bezel = s.bezel := rfl
@[simp] theorem setCore_mgmt (s : State) (c : Nat) (x : Core) : (s.setCore c x).mgmt = s.mgmt := rfl
@[simp] theorem setCore_spdm (s : State) (c : Nat) (x : Core) : (s.setCore c x).spdm = s.spdm := rfl
@[simp] theorem setCore_channels (s : State) (c : Nat) (x : Core) : (s.setCore c x).channels = s.channels := rfl
@[simp] theorem setCore_port (s : State) (c : Nat) (x : Core) : (s.setCore c x).port = s.port := rfl
@[simp] theorem setCore_span (s : State) (c : Nat) (x : Core) : (s.setCore c x).span = s.span := rfl
@[simp] theorem setCore_nextId (s : State) (c : Nat) (x : Core) : (s.setCore c x).nextId = s.nextId := rfl
@[simp] theorem setCore_keysDrawn (s : State) (c : Nat) (x : Core) : (s.setCore c x).keysDrawn = s.keysDrawn := rfl
@[simp] theorem setCore_cur (s : State) (c : Nat) (x : Core) : (s.setCore c x).cur = s.cur := rfl
@[simp] theorem setCore_ev (s : State) (c : Nat) (x : Core) : (s.setCore c x).ev = s.ev := rfl
@[simp] theorem setCore_agenda (s : State) (c : Nat) (x : Core) : (s.setCore c x).agenda = s.agenda := rfl
@[simp] theorem setCore_turns (s : State) (c : Nat) (x : Core) : (s.setCore c x).turns = s.turns := rfl
@[simp] theorem setCore_steps (s : State) (c : Nat) (x : Core) : (s.setCore c x).steps = s.steps := rfl
@[simp] theorem setCore_drawn (s : State) (c : Nat) (x : Core) : (s.setCore c x).drawn = s.drawn := rfl
@[simp] theorem setCore_native (s : State) (c : Nat) (x : Core) : (s.setCore c x).native = s.native := rfl

@[simp] theorem setDie_mem (s : State) (d : Nat) (x : Die) : (s.setDie d x).mem = s.mem := rfl
@[simp] theorem setDie_cores (s : State) (d : Nat) (x : Die) : (s.setDie d x).cores = s.cores := rfl
@[simp] theorem setDie_gphase (s : State) (d : Nat) (x : Die) : (s.setDie d x).gphase = s.gphase := rfl
@[simp] theorem setDie_cycle (s : State) (d : Nat) (x : Die) : (s.setDie d x).cycle = s.cycle := rfl
@[simp] theorem setDie_counters (s : State) (d : Nat) (x : Die) : (s.setDie d x).counters = s.counters := rfl
@[simp] theorem setDie_launches (s : State) (d : Nat) (x : Die) : (s.setDie d x).launches = s.launches := rfl
@[simp] theorem setDie_graphs (s : State) (d : Nat) (x : Die) : (s.setDie d x).graphs = s.graphs := rfl
@[simp] theorem setDie_units (s : State) (d : Nat) (x : Die) : (s.setDie d x).units = s.units := rfl
@[simp] theorem setDie_jobs (s : State) (d : Nat) (x : Die) : (s.setDie d x).jobs = s.jobs := rfl
@[simp] theorem setDie_maps (s : State) (d : Nat) (x : Die) : (s.setDie d x).maps = s.maps := rfl
@[simp] theorem setDie_keys (s : State) (d : Nat) (x : Die) : (s.setDie d x).keys = s.keys := rfl
@[simp] theorem setDie_seals (s : State) (d : Nat) (x : Die) : (s.setDie d x).seals = s.seals := rfl
@[simp] theorem setDie_ranges (s : State) (d : Nat) (x : Die) : (s.setDie d x).ranges = s.ranges := rfl
@[simp] theorem setDie_net (s : State) (d : Nat) (x : Die) : (s.setDie d x).net = s.net := rfl
@[simp] theorem setDie_landings (s : State) (d : Nat) (x : Die) : (s.setDie d x).landings = s.landings := rfl
@[simp] theorem setDie_shootdowns (s : State) (d : Nat) (x : Die) : (s.setDie d x).shootdowns = s.shootdowns := rfl
@[simp] theorem setDie_mesh (s : State) (d : Nat) (x : Die) : (s.setDie d x).mesh = s.mesh := rfl
@[simp] theorem setDie_stamps (s : State) (d : Nat) (x : Die) : (s.setDie d x).stamps = s.stamps := rfl
@[simp] theorem setDie_answers (s : State) (d : Nat) (x : Die) : (s.setDie d x).answers = s.answers := rfl
@[simp] theorem setDie_acks (s : State) (d : Nat) (x : Die) : (s.setDie d x).acks = s.acks := rfl
@[simp] theorem setDie_hostLines (s : State) (d : Nat) (x : Die) : (s.setDie d x).hostLines = s.hostLines := rfl
@[simp] theorem setDie_hostTx (s : State) (d : Nat) (x : Die) : (s.setDie d x).hostTx = s.hostTx := rfl
@[simp] theorem setDie_hostCopies (s : State) (d : Nat) (x : Die) : (s.setDie d x).hostCopies = s.hostCopies := rfl
@[simp] theorem setDie_holes (s : State) (d : Nat) (x : Die) : (s.setDie d x).holes = s.holes := rfl
@[simp] theorem setDie_generations (s : State) (d : Nat) (x : Die) : (s.setDie d x).generations = s.generations := rfl
@[simp] theorem setDie_endpoints (s : State) (d : Nat) (x : Die) : (s.setDie d x).endpoints = s.endpoints := rfl
@[simp] theorem setDie_bezel (s : State) (d : Nat) (x : Die) : (s.setDie d x).bezel = s.bezel := rfl
@[simp] theorem setDie_mgmt (s : State) (d : Nat) (x : Die) : (s.setDie d x).mgmt = s.mgmt := rfl
@[simp] theorem setDie_spdm (s : State) (d : Nat) (x : Die) : (s.setDie d x).spdm = s.spdm := rfl
@[simp] theorem setDie_channels (s : State) (d : Nat) (x : Die) : (s.setDie d x).channels = s.channels := rfl
@[simp] theorem setDie_port (s : State) (d : Nat) (x : Die) : (s.setDie d x).port = s.port := rfl
@[simp] theorem setDie_span (s : State) (d : Nat) (x : Die) : (s.setDie d x).span = s.span := rfl
@[simp] theorem setDie_nextId (s : State) (d : Nat) (x : Die) : (s.setDie d x).nextId = s.nextId := rfl
@[simp] theorem setDie_keysDrawn (s : State) (d : Nat) (x : Die) : (s.setDie d x).keysDrawn = s.keysDrawn := rfl
@[simp] theorem setDie_cur (s : State) (d : Nat) (x : Die) : (s.setDie d x).cur = s.cur := rfl
@[simp] theorem setDie_ev (s : State) (d : Nat) (x : Die) : (s.setDie d x).ev = s.ev := rfl
@[simp] theorem setDie_agenda (s : State) (d : Nat) (x : Die) : (s.setDie d x).agenda = s.agenda := rfl
@[simp] theorem setDie_turns (s : State) (d : Nat) (x : Die) : (s.setDie d x).turns = s.turns := rfl
@[simp] theorem setDie_steps (s : State) (d : Nat) (x : Die) : (s.setDie d x).steps = s.steps := rfl
@[simp] theorem setDie_drawn (s : State) (d : Nat) (x : Die) : (s.setDie d x).drawn = s.drawn := rfl
@[simp] theorem setDie_native (s : State) (d : Nat) (x : Die) : (s.setDie d x).native = s.native := rfl

@[simp] theorem store_cores (s : State) (a : Nat) (bs : List Byte) : (s.store a bs).cores = s.cores := rfl
@[simp] theorem store_dies (s : State) (a : Nat) (bs : List Byte) : (s.store a bs).dies = s.dies := rfl
@[simp] theorem store_gphase (s : State) (a : Nat) (bs : List Byte) : (s.store a bs).gphase = s.gphase := rfl
@[simp] theorem store_cycle (s : State) (a : Nat) (bs : List Byte) : (s.store a bs).cycle = s.cycle := rfl
@[simp] theorem store_counters (s : State) (a : Nat) (bs : List Byte) : (s.store a bs).counters = s.counters := rfl
@[simp] theorem store_launches (s : State) (a : Nat) (bs : List Byte) : (s.store a bs).launches = s.launches := rfl
@[simp] theorem store_graphs (s : State) (a : Nat) (bs : List Byte) : (s.store a bs).graphs = s.graphs := rfl
@[simp] theorem store_units (s : State) (a : Nat) (bs : List Byte) : (s.store a bs).units = s.units := rfl
@[simp] theorem store_jobs (s : State) (a : Nat) (bs : List Byte) : (s.store a bs).jobs = s.jobs := rfl
@[simp] theorem store_maps (s : State) (a : Nat) (bs : List Byte) : (s.store a bs).maps = s.maps := rfl
@[simp] theorem store_keys (s : State) (a : Nat) (bs : List Byte) : (s.store a bs).keys = s.keys := rfl
@[simp] theorem store_seals (s : State) (a : Nat) (bs : List Byte) : (s.store a bs).seals = s.seals := rfl
@[simp] theorem store_ranges (s : State) (a : Nat) (bs : List Byte) : (s.store a bs).ranges = s.ranges := rfl
@[simp] theorem store_net (s : State) (a : Nat) (bs : List Byte) : (s.store a bs).net = s.net := rfl
@[simp] theorem store_landings (s : State) (a : Nat) (bs : List Byte) : (s.store a bs).landings = s.landings := rfl
@[simp] theorem store_shootdowns (s : State) (a : Nat) (bs : List Byte) : (s.store a bs).shootdowns = s.shootdowns := rfl
@[simp] theorem store_mesh (s : State) (a : Nat) (bs : List Byte) : (s.store a bs).mesh = s.mesh := rfl
@[simp] theorem store_stamps (s : State) (a : Nat) (bs : List Byte) : (s.store a bs).stamps = s.stamps := rfl
@[simp] theorem store_answers (s : State) (a : Nat) (bs : List Byte) : (s.store a bs).answers = s.answers := rfl
@[simp] theorem store_acks (s : State) (a : Nat) (bs : List Byte) : (s.store a bs).acks = s.acks := rfl
@[simp] theorem store_hostLines (s : State) (a : Nat) (bs : List Byte) : (s.store a bs).hostLines = s.hostLines := rfl
@[simp] theorem store_hostTx (s : State) (a : Nat) (bs : List Byte) : (s.store a bs).hostTx = s.hostTx := rfl
@[simp] theorem store_hostCopies (s : State) (a : Nat) (bs : List Byte) : (s.store a bs).hostCopies = s.hostCopies := rfl
@[simp] theorem store_holes (s : State) (a : Nat) (bs : List Byte) : (s.store a bs).holes = s.holes := rfl
@[simp] theorem store_generations (s : State) (a : Nat) (bs : List Byte) : (s.store a bs).generations = s.generations := rfl
@[simp] theorem store_endpoints (s : State) (a : Nat) (bs : List Byte) : (s.store a bs).endpoints = s.endpoints := rfl
@[simp] theorem store_bezel (s : State) (a : Nat) (bs : List Byte) : (s.store a bs).bezel = s.bezel := rfl
@[simp] theorem store_mgmt (s : State) (a : Nat) (bs : List Byte) : (s.store a bs).mgmt = s.mgmt := rfl
@[simp] theorem store_spdm (s : State) (a : Nat) (bs : List Byte) : (s.store a bs).spdm = s.spdm := rfl
@[simp] theorem store_channels (s : State) (a : Nat) (bs : List Byte) : (s.store a bs).channels = s.channels := rfl
@[simp] theorem store_port (s : State) (a : Nat) (bs : List Byte) : (s.store a bs).port = s.port := rfl
@[simp] theorem store_span (s : State) (a : Nat) (bs : List Byte) : (s.store a bs).span = s.span := rfl
@[simp] theorem store_nextId (s : State) (a : Nat) (bs : List Byte) : (s.store a bs).nextId = s.nextId := rfl
@[simp] theorem store_keysDrawn (s : State) (a : Nat) (bs : List Byte) : (s.store a bs).keysDrawn = s.keysDrawn := rfl
@[simp] theorem store_cur (s : State) (a : Nat) (bs : List Byte) : (s.store a bs).cur = s.cur := rfl
@[simp] theorem store_ev (s : State) (a : Nat) (bs : List Byte) : (s.store a bs).ev = s.ev := rfl
@[simp] theorem store_agenda (s : State) (a : Nat) (bs : List Byte) : (s.store a bs).agenda = s.agenda := rfl
@[simp] theorem store_turns (s : State) (a : Nat) (bs : List Byte) : (s.store a bs).turns = s.turns := rfl
@[simp] theorem store_steps (s : State) (a : Nat) (bs : List Byte) : (s.store a bs).steps = s.steps := rfl
@[simp] theorem store_drawn (s : State) (a : Nat) (bs : List Byte) : (s.store a bs).drawn = s.drawn := rfl
@[simp] theorem store_native (s : State) (a : Nat) (bs : List Byte) : (s.store a bs).native = s.native := rfl
@[simp] theorem store_mem (s : State) (a : Nat) (bs : List Byte) : (s.store a bs).mem = Memory.puts s.mem a bs := rfl

@[simp] theorem wipe_cores (s : State) (a n : Nat) : (s.wipe a n).cores = s.cores := rfl
@[simp] theorem wipe_dies (s : State) (a n : Nat) : (s.wipe a n).dies = s.dies := rfl
@[simp] theorem wipe_gphase (s : State) (a n : Nat) : (s.wipe a n).gphase = s.gphase := rfl
@[simp] theorem wipe_cycle (s : State) (a n : Nat) : (s.wipe a n).cycle = s.cycle := rfl
@[simp] theorem wipe_counters (s : State) (a n : Nat) : (s.wipe a n).counters = s.counters := rfl
@[simp] theorem wipe_launches (s : State) (a n : Nat) : (s.wipe a n).launches = s.launches := rfl
@[simp] theorem wipe_graphs (s : State) (a n : Nat) : (s.wipe a n).graphs = s.graphs := rfl
@[simp] theorem wipe_units (s : State) (a n : Nat) : (s.wipe a n).units = s.units := rfl
@[simp] theorem wipe_jobs (s : State) (a n : Nat) : (s.wipe a n).jobs = s.jobs := rfl
@[simp] theorem wipe_maps (s : State) (a n : Nat) : (s.wipe a n).maps = s.maps := rfl
@[simp] theorem wipe_keys (s : State) (a n : Nat) : (s.wipe a n).keys = s.keys := rfl
@[simp] theorem wipe_seals (s : State) (a n : Nat) : (s.wipe a n).seals = s.seals := rfl
@[simp] theorem wipe_ranges (s : State) (a n : Nat) : (s.wipe a n).ranges = s.ranges := rfl
@[simp] theorem wipe_net (s : State) (a n : Nat) : (s.wipe a n).net = s.net := rfl
@[simp] theorem wipe_landings (s : State) (a n : Nat) : (s.wipe a n).landings = s.landings := rfl
@[simp] theorem wipe_shootdowns (s : State) (a n : Nat) : (s.wipe a n).shootdowns = s.shootdowns := rfl
@[simp] theorem wipe_mesh (s : State) (a n : Nat) : (s.wipe a n).mesh = s.mesh := rfl
@[simp] theorem wipe_stamps (s : State) (a n : Nat) : (s.wipe a n).stamps = s.stamps := rfl
@[simp] theorem wipe_answers (s : State) (a n : Nat) : (s.wipe a n).answers = s.answers := rfl
@[simp] theorem wipe_acks (s : State) (a n : Nat) : (s.wipe a n).acks = s.acks := rfl
@[simp] theorem wipe_hostLines (s : State) (a n : Nat) : (s.wipe a n).hostLines = s.hostLines := rfl
@[simp] theorem wipe_hostTx (s : State) (a n : Nat) : (s.wipe a n).hostTx = s.hostTx := rfl
@[simp] theorem wipe_hostCopies (s : State) (a n : Nat) : (s.wipe a n).hostCopies = s.hostCopies := rfl
@[simp] theorem wipe_holes (s : State) (a n : Nat) : (s.wipe a n).holes = s.holes := rfl
@[simp] theorem wipe_generations (s : State) (a n : Nat) : (s.wipe a n).generations = s.generations := rfl
@[simp] theorem wipe_endpoints (s : State) (a n : Nat) : (s.wipe a n).endpoints = s.endpoints := rfl
@[simp] theorem wipe_bezel (s : State) (a n : Nat) : (s.wipe a n).bezel = s.bezel := rfl
@[simp] theorem wipe_mgmt (s : State) (a n : Nat) : (s.wipe a n).mgmt = s.mgmt := rfl
@[simp] theorem wipe_spdm (s : State) (a n : Nat) : (s.wipe a n).spdm = s.spdm := rfl
@[simp] theorem wipe_channels (s : State) (a n : Nat) : (s.wipe a n).channels = s.channels := rfl
@[simp] theorem wipe_port (s : State) (a n : Nat) : (s.wipe a n).port = s.port := rfl
@[simp] theorem wipe_span (s : State) (a n : Nat) : (s.wipe a n).span = s.span := rfl
@[simp] theorem wipe_nextId (s : State) (a n : Nat) : (s.wipe a n).nextId = s.nextId := rfl
@[simp] theorem wipe_keysDrawn (s : State) (a n : Nat) : (s.wipe a n).keysDrawn = s.keysDrawn := rfl
@[simp] theorem wipe_cur (s : State) (a n : Nat) : (s.wipe a n).cur = s.cur := rfl
@[simp] theorem wipe_ev (s : State) (a n : Nat) : (s.wipe a n).ev = s.ev := rfl
@[simp] theorem wipe_agenda (s : State) (a n : Nat) : (s.wipe a n).agenda = s.agenda := rfl
@[simp] theorem wipe_turns (s : State) (a n : Nat) : (s.wipe a n).turns = s.turns := rfl
@[simp] theorem wipe_steps (s : State) (a n : Nat) : (s.wipe a n).steps = s.steps := rfl
@[simp] theorem wipe_drawn (s : State) (a n : Nat) : (s.wipe a n).drawn = s.drawn := rfl
@[simp] theorem wipe_native (s : State) (a n : Nat) : (s.wipe a n).native = s.native := rfl
@[simp] theorem wipe_mem (s : State) (a n : Nat) : (s.wipe a n).mem = Memory.clear s.mem a n := rfl

@[simp] theorem setSlotAt_mem (s : State) (c i : Nat) (x : Slot) : (s.setSlotAt c i x).mem = s.mem := rfl
@[simp] theorem setSlotAt_dies (s : State) (c i : Nat) (x : Slot) : (s.setSlotAt c i x).dies = s.dies := rfl
@[simp] theorem setSlotAt_gphase (s : State) (c i : Nat) (x : Slot) : (s.setSlotAt c i x).gphase = s.gphase := rfl
@[simp] theorem setSlotAt_cycle (s : State) (c i : Nat) (x : Slot) : (s.setSlotAt c i x).cycle = s.cycle := rfl
@[simp] theorem setSlotAt_counters (s : State) (c i : Nat) (x : Slot) : (s.setSlotAt c i x).counters = s.counters := rfl
@[simp] theorem setSlotAt_launches (s : State) (c i : Nat) (x : Slot) : (s.setSlotAt c i x).launches = s.launches := rfl
@[simp] theorem setSlotAt_graphs (s : State) (c i : Nat) (x : Slot) : (s.setSlotAt c i x).graphs = s.graphs := rfl
@[simp] theorem setSlotAt_units (s : State) (c i : Nat) (x : Slot) : (s.setSlotAt c i x).units = s.units := rfl
@[simp] theorem setSlotAt_jobs (s : State) (c i : Nat) (x : Slot) : (s.setSlotAt c i x).jobs = s.jobs := rfl
@[simp] theorem setSlotAt_maps (s : State) (c i : Nat) (x : Slot) : (s.setSlotAt c i x).maps = s.maps := rfl
@[simp] theorem setSlotAt_keys (s : State) (c i : Nat) (x : Slot) : (s.setSlotAt c i x).keys = s.keys := rfl
@[simp] theorem setSlotAt_seals (s : State) (c i : Nat) (x : Slot) : (s.setSlotAt c i x).seals = s.seals := rfl
@[simp] theorem setSlotAt_ranges (s : State) (c i : Nat) (x : Slot) : (s.setSlotAt c i x).ranges = s.ranges := rfl
@[simp] theorem setSlotAt_net (s : State) (c i : Nat) (x : Slot) : (s.setSlotAt c i x).net = s.net := rfl
@[simp] theorem setSlotAt_landings (s : State) (c i : Nat) (x : Slot) : (s.setSlotAt c i x).landings = s.landings := rfl
@[simp] theorem setSlotAt_shootdowns (s : State) (c i : Nat) (x : Slot) : (s.setSlotAt c i x).shootdowns = s.shootdowns := rfl
@[simp] theorem setSlotAt_mesh (s : State) (c i : Nat) (x : Slot) : (s.setSlotAt c i x).mesh = s.mesh := rfl
@[simp] theorem setSlotAt_stamps (s : State) (c i : Nat) (x : Slot) : (s.setSlotAt c i x).stamps = s.stamps := rfl
@[simp] theorem setSlotAt_answers (s : State) (c i : Nat) (x : Slot) : (s.setSlotAt c i x).answers = s.answers := rfl
@[simp] theorem setSlotAt_acks (s : State) (c i : Nat) (x : Slot) : (s.setSlotAt c i x).acks = s.acks := rfl
@[simp] theorem setSlotAt_hostLines (s : State) (c i : Nat) (x : Slot) : (s.setSlotAt c i x).hostLines = s.hostLines := rfl
@[simp] theorem setSlotAt_hostTx (s : State) (c i : Nat) (x : Slot) : (s.setSlotAt c i x).hostTx = s.hostTx := rfl
@[simp] theorem setSlotAt_hostCopies (s : State) (c i : Nat) (x : Slot) : (s.setSlotAt c i x).hostCopies = s.hostCopies := rfl
@[simp] theorem setSlotAt_holes (s : State) (c i : Nat) (x : Slot) : (s.setSlotAt c i x).holes = s.holes := rfl
@[simp] theorem setSlotAt_generations (s : State) (c i : Nat) (x : Slot) : (s.setSlotAt c i x).generations = s.generations := rfl
@[simp] theorem setSlotAt_endpoints (s : State) (c i : Nat) (x : Slot) : (s.setSlotAt c i x).endpoints = s.endpoints := rfl
@[simp] theorem setSlotAt_bezel (s : State) (c i : Nat) (x : Slot) : (s.setSlotAt c i x).bezel = s.bezel := rfl
@[simp] theorem setSlotAt_mgmt (s : State) (c i : Nat) (x : Slot) : (s.setSlotAt c i x).mgmt = s.mgmt := rfl
@[simp] theorem setSlotAt_spdm (s : State) (c i : Nat) (x : Slot) : (s.setSlotAt c i x).spdm = s.spdm := rfl
@[simp] theorem setSlotAt_channels (s : State) (c i : Nat) (x : Slot) : (s.setSlotAt c i x).channels = s.channels := rfl
@[simp] theorem setSlotAt_port (s : State) (c i : Nat) (x : Slot) : (s.setSlotAt c i x).port = s.port := rfl
@[simp] theorem setSlotAt_span (s : State) (c i : Nat) (x : Slot) : (s.setSlotAt c i x).span = s.span := rfl
@[simp] theorem setSlotAt_nextId (s : State) (c i : Nat) (x : Slot) : (s.setSlotAt c i x).nextId = s.nextId := rfl
@[simp] theorem setSlotAt_keysDrawn (s : State) (c i : Nat) (x : Slot) : (s.setSlotAt c i x).keysDrawn = s.keysDrawn := rfl
@[simp] theorem setSlotAt_cur (s : State) (c i : Nat) (x : Slot) : (s.setSlotAt c i x).cur = s.cur := rfl
@[simp] theorem setSlotAt_ev (s : State) (c i : Nat) (x : Slot) : (s.setSlotAt c i x).ev = s.ev := rfl
@[simp] theorem setSlotAt_agenda (s : State) (c i : Nat) (x : Slot) : (s.setSlotAt c i x).agenda = s.agenda := rfl
@[simp] theorem setSlotAt_turns (s : State) (c i : Nat) (x : Slot) : (s.setSlotAt c i x).turns = s.turns := rfl
@[simp] theorem setSlotAt_steps (s : State) (c i : Nat) (x : Slot) : (s.setSlotAt c i x).steps = s.steps := rfl
@[simp] theorem setSlotAt_drawn (s : State) (c i : Nat) (x : Slot) : (s.setSlotAt c i x).drawn = s.drawn := rfl
@[simp] theorem setSlotAt_native (s : State) (c i : Nat) (x : Slot) : (s.setSlotAt c i x).native = s.native := rfl

@[simp] theorem setMe_mem (s : State) (x : Core) : (s.setMe x).mem = s.mem := rfl
@[simp] theorem setMe_dies (s : State) (x : Core) : (s.setMe x).dies = s.dies := rfl
@[simp] theorem setMe_gphase (s : State) (x : Core) : (s.setMe x).gphase = s.gphase := rfl
@[simp] theorem setMe_cycle (s : State) (x : Core) : (s.setMe x).cycle = s.cycle := rfl
@[simp] theorem setMe_counters (s : State) (x : Core) : (s.setMe x).counters = s.counters := rfl
@[simp] theorem setMe_launches (s : State) (x : Core) : (s.setMe x).launches = s.launches := rfl
@[simp] theorem setMe_graphs (s : State) (x : Core) : (s.setMe x).graphs = s.graphs := rfl
@[simp] theorem setMe_units (s : State) (x : Core) : (s.setMe x).units = s.units := rfl
@[simp] theorem setMe_jobs (s : State) (x : Core) : (s.setMe x).jobs = s.jobs := rfl
@[simp] theorem setMe_maps (s : State) (x : Core) : (s.setMe x).maps = s.maps := rfl
@[simp] theorem setMe_keys (s : State) (x : Core) : (s.setMe x).keys = s.keys := rfl
@[simp] theorem setMe_seals (s : State) (x : Core) : (s.setMe x).seals = s.seals := rfl
@[simp] theorem setMe_ranges (s : State) (x : Core) : (s.setMe x).ranges = s.ranges := rfl
@[simp] theorem setMe_net (s : State) (x : Core) : (s.setMe x).net = s.net := rfl
@[simp] theorem setMe_landings (s : State) (x : Core) : (s.setMe x).landings = s.landings := rfl
@[simp] theorem setMe_shootdowns (s : State) (x : Core) : (s.setMe x).shootdowns = s.shootdowns := rfl
@[simp] theorem setMe_mesh (s : State) (x : Core) : (s.setMe x).mesh = s.mesh := rfl
@[simp] theorem setMe_stamps (s : State) (x : Core) : (s.setMe x).stamps = s.stamps := rfl
@[simp] theorem setMe_answers (s : State) (x : Core) : (s.setMe x).answers = s.answers := rfl
@[simp] theorem setMe_acks (s : State) (x : Core) : (s.setMe x).acks = s.acks := rfl
@[simp] theorem setMe_hostLines (s : State) (x : Core) : (s.setMe x).hostLines = s.hostLines := rfl
@[simp] theorem setMe_hostTx (s : State) (x : Core) : (s.setMe x).hostTx = s.hostTx := rfl
@[simp] theorem setMe_hostCopies (s : State) (x : Core) : (s.setMe x).hostCopies = s.hostCopies := rfl
@[simp] theorem setMe_holes (s : State) (x : Core) : (s.setMe x).holes = s.holes := rfl
@[simp] theorem setMe_generations (s : State) (x : Core) : (s.setMe x).generations = s.generations := rfl
@[simp] theorem setMe_endpoints (s : State) (x : Core) : (s.setMe x).endpoints = s.endpoints := rfl
@[simp] theorem setMe_bezel (s : State) (x : Core) : (s.setMe x).bezel = s.bezel := rfl
@[simp] theorem setMe_mgmt (s : State) (x : Core) : (s.setMe x).mgmt = s.mgmt := rfl
@[simp] theorem setMe_spdm (s : State) (x : Core) : (s.setMe x).spdm = s.spdm := rfl
@[simp] theorem setMe_channels (s : State) (x : Core) : (s.setMe x).channels = s.channels := rfl
@[simp] theorem setMe_port (s : State) (x : Core) : (s.setMe x).port = s.port := rfl
@[simp] theorem setMe_span (s : State) (x : Core) : (s.setMe x).span = s.span := rfl
@[simp] theorem setMe_nextId (s : State) (x : Core) : (s.setMe x).nextId = s.nextId := rfl
@[simp] theorem setMe_keysDrawn (s : State) (x : Core) : (s.setMe x).keysDrawn = s.keysDrawn := rfl
@[simp] theorem setMe_cur (s : State) (x : Core) : (s.setMe x).cur = s.cur := rfl
@[simp] theorem setMe_ev (s : State) (x : Core) : (s.setMe x).ev = s.ev := rfl
@[simp] theorem setMe_agenda (s : State) (x : Core) : (s.setMe x).agenda = s.agenda := rfl
@[simp] theorem setMe_turns (s : State) (x : Core) : (s.setMe x).turns = s.turns := rfl
@[simp] theorem setMe_steps (s : State) (x : Core) : (s.setMe x).steps = s.steps := rfl
@[simp] theorem setMe_drawn (s : State) (x : Core) : (s.setMe x).drawn = s.drawn := rfl
@[simp] theorem setMe_native (s : State) (x : Core) : (s.setMe x).native = s.native := rfl

@[simp] theorem setSlot_mem (s : State) (x : Slot) : (s.setSlot x).mem = s.mem := rfl
@[simp] theorem setSlot_dies (s : State) (x : Slot) : (s.setSlot x).dies = s.dies := rfl
@[simp] theorem setSlot_gphase (s : State) (x : Slot) : (s.setSlot x).gphase = s.gphase := rfl
@[simp] theorem setSlot_cycle (s : State) (x : Slot) : (s.setSlot x).cycle = s.cycle := rfl
@[simp] theorem setSlot_counters (s : State) (x : Slot) : (s.setSlot x).counters = s.counters := rfl
@[simp] theorem setSlot_launches (s : State) (x : Slot) : (s.setSlot x).launches = s.launches := rfl
@[simp] theorem setSlot_graphs (s : State) (x : Slot) : (s.setSlot x).graphs = s.graphs := rfl
@[simp] theorem setSlot_units (s : State) (x : Slot) : (s.setSlot x).units = s.units := rfl
@[simp] theorem setSlot_jobs (s : State) (x : Slot) : (s.setSlot x).jobs = s.jobs := rfl
@[simp] theorem setSlot_maps (s : State) (x : Slot) : (s.setSlot x).maps = s.maps := rfl
@[simp] theorem setSlot_keys (s : State) (x : Slot) : (s.setSlot x).keys = s.keys := rfl
@[simp] theorem setSlot_seals (s : State) (x : Slot) : (s.setSlot x).seals = s.seals := rfl
@[simp] theorem setSlot_ranges (s : State) (x : Slot) : (s.setSlot x).ranges = s.ranges := rfl
@[simp] theorem setSlot_net (s : State) (x : Slot) : (s.setSlot x).net = s.net := rfl
@[simp] theorem setSlot_landings (s : State) (x : Slot) : (s.setSlot x).landings = s.landings := rfl
@[simp] theorem setSlot_shootdowns (s : State) (x : Slot) : (s.setSlot x).shootdowns = s.shootdowns := rfl
@[simp] theorem setSlot_mesh (s : State) (x : Slot) : (s.setSlot x).mesh = s.mesh := rfl
@[simp] theorem setSlot_stamps (s : State) (x : Slot) : (s.setSlot x).stamps = s.stamps := rfl
@[simp] theorem setSlot_answers (s : State) (x : Slot) : (s.setSlot x).answers = s.answers := rfl
@[simp] theorem setSlot_acks (s : State) (x : Slot) : (s.setSlot x).acks = s.acks := rfl
@[simp] theorem setSlot_hostLines (s : State) (x : Slot) : (s.setSlot x).hostLines = s.hostLines := rfl
@[simp] theorem setSlot_hostTx (s : State) (x : Slot) : (s.setSlot x).hostTx = s.hostTx := rfl
@[simp] theorem setSlot_hostCopies (s : State) (x : Slot) : (s.setSlot x).hostCopies = s.hostCopies := rfl
@[simp] theorem setSlot_holes (s : State) (x : Slot) : (s.setSlot x).holes = s.holes := rfl
@[simp] theorem setSlot_generations (s : State) (x : Slot) : (s.setSlot x).generations = s.generations := rfl
@[simp] theorem setSlot_endpoints (s : State) (x : Slot) : (s.setSlot x).endpoints = s.endpoints := rfl
@[simp] theorem setSlot_bezel (s : State) (x : Slot) : (s.setSlot x).bezel = s.bezel := rfl
@[simp] theorem setSlot_mgmt (s : State) (x : Slot) : (s.setSlot x).mgmt = s.mgmt := rfl
@[simp] theorem setSlot_spdm (s : State) (x : Slot) : (s.setSlot x).spdm = s.spdm := rfl
@[simp] theorem setSlot_channels (s : State) (x : Slot) : (s.setSlot x).channels = s.channels := rfl
@[simp] theorem setSlot_port (s : State) (x : Slot) : (s.setSlot x).port = s.port := rfl
@[simp] theorem setSlot_span (s : State) (x : Slot) : (s.setSlot x).span = s.span := rfl
@[simp] theorem setSlot_nextId (s : State) (x : Slot) : (s.setSlot x).nextId = s.nextId := rfl
@[simp] theorem setSlot_keysDrawn (s : State) (x : Slot) : (s.setSlot x).keysDrawn = s.keysDrawn := rfl
@[simp] theorem setSlot_cur (s : State) (x : Slot) : (s.setSlot x).cur = s.cur := rfl
@[simp] theorem setSlot_ev (s : State) (x : Slot) : (s.setSlot x).ev = s.ev := rfl
@[simp] theorem setSlot_agenda (s : State) (x : Slot) : (s.setSlot x).agenda = s.agenda := rfl
@[simp] theorem setSlot_turns (s : State) (x : Slot) : (s.setSlot x).turns = s.turns := rfl
@[simp] theorem setSlot_steps (s : State) (x : Slot) : (s.setSlot x).steps = s.steps := rfl
@[simp] theorem setSlot_drawn (s : State) (x : Slot) : (s.setSlot x).drawn = s.drawn := rfl
@[simp] theorem setSlot_native (s : State) (x : Slot) : (s.setSlot x).native = s.native := rfl

@[simp] theorem setU_mem (s : State) (x : Strand) : (s.setU x).mem = s.mem := rfl
@[simp] theorem setU_dies (s : State) (x : Strand) : (s.setU x).dies = s.dies := rfl
@[simp] theorem setU_gphase (s : State) (x : Strand) : (s.setU x).gphase = s.gphase := rfl
@[simp] theorem setU_cycle (s : State) (x : Strand) : (s.setU x).cycle = s.cycle := rfl
@[simp] theorem setU_counters (s : State) (x : Strand) : (s.setU x).counters = s.counters := rfl
@[simp] theorem setU_launches (s : State) (x : Strand) : (s.setU x).launches = s.launches := rfl
@[simp] theorem setU_graphs (s : State) (x : Strand) : (s.setU x).graphs = s.graphs := rfl
@[simp] theorem setU_units (s : State) (x : Strand) : (s.setU x).units = s.units := rfl
@[simp] theorem setU_jobs (s : State) (x : Strand) : (s.setU x).jobs = s.jobs := rfl
@[simp] theorem setU_maps (s : State) (x : Strand) : (s.setU x).maps = s.maps := rfl
@[simp] theorem setU_keys (s : State) (x : Strand) : (s.setU x).keys = s.keys := rfl
@[simp] theorem setU_seals (s : State) (x : Strand) : (s.setU x).seals = s.seals := rfl
@[simp] theorem setU_ranges (s : State) (x : Strand) : (s.setU x).ranges = s.ranges := rfl
@[simp] theorem setU_net (s : State) (x : Strand) : (s.setU x).net = s.net := rfl
@[simp] theorem setU_landings (s : State) (x : Strand) : (s.setU x).landings = s.landings := rfl
@[simp] theorem setU_shootdowns (s : State) (x : Strand) : (s.setU x).shootdowns = s.shootdowns := rfl
@[simp] theorem setU_mesh (s : State) (x : Strand) : (s.setU x).mesh = s.mesh := rfl
@[simp] theorem setU_stamps (s : State) (x : Strand) : (s.setU x).stamps = s.stamps := rfl
@[simp] theorem setU_answers (s : State) (x : Strand) : (s.setU x).answers = s.answers := rfl
@[simp] theorem setU_acks (s : State) (x : Strand) : (s.setU x).acks = s.acks := rfl
@[simp] theorem setU_hostLines (s : State) (x : Strand) : (s.setU x).hostLines = s.hostLines := rfl
@[simp] theorem setU_hostTx (s : State) (x : Strand) : (s.setU x).hostTx = s.hostTx := rfl
@[simp] theorem setU_hostCopies (s : State) (x : Strand) : (s.setU x).hostCopies = s.hostCopies := rfl
@[simp] theorem setU_holes (s : State) (x : Strand) : (s.setU x).holes = s.holes := rfl
@[simp] theorem setU_generations (s : State) (x : Strand) : (s.setU x).generations = s.generations := rfl
@[simp] theorem setU_endpoints (s : State) (x : Strand) : (s.setU x).endpoints = s.endpoints := rfl
@[simp] theorem setU_bezel (s : State) (x : Strand) : (s.setU x).bezel = s.bezel := rfl
@[simp] theorem setU_mgmt (s : State) (x : Strand) : (s.setU x).mgmt = s.mgmt := rfl
@[simp] theorem setU_spdm (s : State) (x : Strand) : (s.setU x).spdm = s.spdm := rfl
@[simp] theorem setU_channels (s : State) (x : Strand) : (s.setU x).channels = s.channels := rfl
@[simp] theorem setU_port (s : State) (x : Strand) : (s.setU x).port = s.port := rfl
@[simp] theorem setU_span (s : State) (x : Strand) : (s.setU x).span = s.span := rfl
@[simp] theorem setU_nextId (s : State) (x : Strand) : (s.setU x).nextId = s.nextId := rfl
@[simp] theorem setU_keysDrawn (s : State) (x : Strand) : (s.setU x).keysDrawn = s.keysDrawn := rfl
@[simp] theorem setU_cur (s : State) (x : Strand) : (s.setU x).cur = s.cur := rfl
@[simp] theorem setU_ev (s : State) (x : Strand) : (s.setU x).ev = s.ev := rfl
@[simp] theorem setU_agenda (s : State) (x : Strand) : (s.setU x).agenda = s.agenda := rfl
@[simp] theorem setU_turns (s : State) (x : Strand) : (s.setU x).turns = s.turns := rfl
@[simp] theorem setU_steps (s : State) (x : Strand) : (s.setU x).steps = s.steps := rfl
@[simp] theorem setU_drawn (s : State) (x : Strand) : (s.setU x).drawn = s.drawn := rfl
@[simp] theorem setU_native (s : State) (x : Strand) : (s.setU x).native = s.native := rfl
/-! ### Cores, dies, slots, strands -/

@[simp] theorem core_setCore_same (s : State) (c : Nat) (x : Core) : (s.setCore c x).core c = x := by simp [core, setCore]

theorem core_setCore_other (s : State) {c k : Nat} (x : Core) (h : k ≠ c) : (s.setCore c x).core k = s.core k := by
  simp [core, setCore, AMap.getD_set_other _ _ _ h]

@[simp] theorem setCore_setCore (s : State) (c : Nat) (x y : Core) : (s.setCore c x).setCore c y = s.setCore c y := by
  simp [setCore]

@[simp] theorem die_setDie_same (s : State) (d : Nat) (x : Die) : (s.setDie d x).die d = x := by simp [die, setDie]

theorem die_setDie_other (s : State) {d k : Nat} (x : Die) (h : k ≠ d) : (s.setDie d x).die k = s.die k := by
  simp [die, setDie, AMap.getD_set_other _ _ _ h]

@[simp] theorem slotAt_setSlotAt_same (s : State) (c : Nat) {i : Nat} (x : Slot) (h : i < 4) :
    (s.setSlotAt c i x).slotAt c i = x := by
  simp [slotAt, setSlotAt, h]

theorem slotAt_setSlotAt_slot (s : State) (c : Nat) {i j : Nat} (x : Slot) (h : j ≠ i) :
    (s.setSlotAt c i x).slotAt c j = s.slotAt c j := by
  simp [slotAt, setSlotAt, Ne.symm h]

theorem slotAt_setSlotAt_core (s : State) {c k : Nat} (i j : Nat) (x : Slot) (h : k ≠ c) :
    (s.setSlotAt c i x).slotAt k j = s.slotAt k j := by
  simp [slotAt, setSlotAt, core_setCore_other _ _ h]

theorem core_setSlotAt_other (s : State) {c k : Nat} (i : Nat) (x : Slot) (h : k ≠ c) :
    (s.setSlotAt c i x).core k = s.core k := core_setCore_other _ _ h

/-- The slot of a strand that is in one has a number below four. -/
theorem slot_lt {s : State} {c i : Nat} (h : (s.slotAt c i).status ≠ .free) : i < 4 := by
  rcases Nat.lt_or_ge i 4 with h' | h'
  · exact h'
  · exact absurd (by simp [slotAt, Vector.getElem?_eq_none h']) h

@[simp] theorem slot_setSlot (s : State) (x : Slot) (h : s.cur.2 < 4) : (s.setSlot x).slot = x :=
  slotAt_setSlotAt_same s s.cur.1 x h

@[simp] theorem u_setU (s : State) (x : Strand) (h : s.cur.2 < 4) : (s.setU x).u = x := by
  simp [u, setU, h]

end Machine.State

end Sys2Proof
end

