-- ==== Sys2Proof/Laws/Ops.lean ====
section
/-!
SUPPORT. What the shared operations do: the checks before an instruction's own, how an instruction finishes, the scalar registers,
completing a group, and taking a trap.
-/

namespace Sys2Proof.Machine

/-- A check that holds lets the instruction go on. -/
@[simp] theorem ensure_true (c : Cause) : ensure true c = .ok () := rfl
/-- A check that fails traps with its cause. -/
@[simp] theorem ensure_false (c : Cause) : ensure false c = .error (.trap c 0 0 0 none) := rfl

namespace State

/-! ### How an instruction finishes -/

@[simp] theorem finish_ok (s t : State) : s.finish (.ok t) = t := rfl
@[simp] theorem finish_trap (s : State) (c : Cause) (info : Nat) (a : Word) (n : Nat) (kept : Option State) :
    s.finish (.error (.trap c info a n kept)) = (kept.getD s).trap c info a n := rfl
@[simp] theorem finish_wait (s : State) (w : Wait) (kept : Option State) :
    s.finish (.error (.wait w kept)) = (kept.getD s).setWait w := rfl

/-- A word that takes no prefix, with none taken, is what its own meaning says. -/
theorem plain_ok {s : State} (h : s.prefixFits false false = true) (k : State → Res State) :
    s.plain k = .next (s.finish (k s)) := by simp [plain, h, bind, Except.bind]

/-- A word that takes no prefix traps behind one. -/
theorem plain_prefix {s : State} (h : s.prefixFits false false = false) (k : State → Res State) :
    s.plain k = .next (s.trap .illPrefix 0 0 0) := by simp [plain, h, bind, Except.bind]

theorem withExt_ok {s : State} (h : s.prefixFits false true = true) (k : State → Res State) :
    s.withExt k = .next (s.finish (k s)) := by simp [withExt, h, bind, Except.bind]

theorem withExt_prefix {s : State} (h : s.prefixFits false true = false) (k : State → Res State) :
    s.withExt k = .next (s.trap .illPrefix 0 0 0) := by simp [withExt, h, bind, Except.bind]

theorem withMod_ok {s : State} (h : s.prefixFits true false = true) (k : State → Res State) :
    s.withMod k = .next (s.finish (k s)) := by simp [withMod, h, bind, Except.bind]

theorem withMod_prefix {s : State} (h : s.prefixFits true false = false) (k : State → Res State) :
    s.withMod k = .next (s.trap .illPrefix 0 0 0) := by simp [withMod, h, bind, Except.bind]

theorem withBoth_ok {s : State} (h : s.prefixFits true true = true) (k : State → Res State) :
    s.withBoth k = .next (s.finish (k s)) := by simp [withBoth, h, bind, Except.bind]

theorem withBoth_prefix {s : State} (h : s.prefixFits true true = false) (k : State → Res State) :
    s.withBoth k = .next (s.trap .illPrefix 0 0 0) := by simp [withBoth, h, bind, Except.bind]

/-- A word that its core or its fields make malformed is ILL_FUNCTION before anything else. -/
theorem plainWhere_illegal {s : State} (k : State → Res State) :
    s.plainWhere false k = .next (s.trap .illFunction 0 0 0) := by simp [plainWhere, bind, Except.bind]

/-- Any other word of these is as `plain` has it. -/
@[simp] theorem plainWhere_legal {s : State} (k : State → Res State) : s.plainWhere true k = s.plain k := by
  simp [plainWhere, plain, bind, Except.bind]

/-! ### Slots and strands of the word that executes -/

/-- The slot of a strand that executes has a number below four. -/
theorem Live.lt {s : State} (h : s.Live) : s.cur.2 < 4 := by
  have h' : (s.slotAt s.cur.1 s.cur.2).status = .ready := h
  exact slot_lt (by rw [h']; simp)

theorem me_setSlot (s : State) (x : Slot) : (s.setSlot x).me = { s.me with slots := s.me.slots.setIfInBounds s.cur.2 x } := by
  simp [me, setSlot, setSlotAt]

theorem setSlot_setSlot (s : State) (x y : Slot) : (s.setSlot x).setSlot y = s.setSlot y := by
  simp [setSlot, setSlotAt]

theorem setU_eq (s : State) (x : Strand) : s.setU x = s.setSlot { s.slot with u := x } := rfl

theorem setU_eq_setSlot (s : State) (x : Strand) : s.setU x = s.setSlot { s.slot with u := x } := rfl

/-- What a change of the slot leaves alone outside it. -/
theorem setSlot_same (s : State) (x : Slot) : SameElsewhere s (s.setSlot x) ∧ SameCore s (s.setSlot x) := by
  refine ⟨⟨rfl, fun c h => core_setSlotAt_other _ _ _ h⟩, ?_, fun i h => slotAt_setSlotAt_slot _ _ _ h⟩
  rw [me_setSlot]

/-- Nothing changed is nothing changed elsewhere. -/
theorem same_refl (s : State) : SameElsewhere s s ∧ SameCore s s := ⟨⟨rfl, fun _ _ => rfl⟩, rfl, fun _ _ => rfl⟩

/-- What two changes in turn leave alone. -/
theorem same_trans {s t k : State} (h : SameElsewhere s t ∧ SameCore s t) (h' : SameElsewhere t k ∧ SameCore t k) :
    SameElsewhere s k ∧ SameCore s k := by
  obtain ⟨⟨a, b⟩, c, d⟩ := h
  obtain ⟨⟨a', b'⟩, c', d'⟩ := h'
  have cur : t.cur = s.cur := (congrArg State.cur a : ({ t with cores := s.cores } : State).cur = s.cur)
  refine ⟨⟨?_, fun x hx => (b' x (cur ▸ hx)).trans (b x hx)⟩, ?_, fun i hi => ?_⟩
  · rw [← a, ← a']
  · have cur' : k.cur = t.cur := (congrArg State.cur a' : ({ k with cores := t.cores } : State).cur = t.cur)
    rw [← c, ← c']
  · have := d' i (cur ▸ hi)
    rw [cur] at this
    exact this.trans (d i hi)

/-! ### Scalar registers -/

/-- g0 reads as zero. -/
@[simp] theorem reg_zero (s : State) : s.reg 0 = 0 := rfl
/-- A write to g0 is discarded. -/
@[simp] theorem setReg_zero (s : State) (x : Word) : s.setReg 0 x = s := rfl

/-- The slot with a register written. -/
def slotSetReg (x : Slot) (r : Reg) (v : Word) : Slot :=
  if r.toNat = 0 then x
  else if r.toNat < 8 then { x with u := { x.u with g := x.u.g.setIfInBounds r.toNat v } }
  else if x.mode then { x with sw := x.sw.setIfInBounds (r.toNat - 8) v }
  else { x with u := { x.u with w := x.u.w.setIfInBounds (r.toNat - 8) v } }

/-- A register write is a change of the slot alone. -/
theorem slot_setReg {s : State} (h : s.Live) (r : Reg) (v : Word) : (s.setReg r v).slot = slotSetReg s.slot r v := by
  unfold setReg slotSetReg
  split
  · rfl
  · split
    · exact slot_setSlot _ _ h.lt
    · split <;> exact slot_setSlot _ _ h.lt

@[simp] theorem setReg_cur (s : State) (r : Reg) (v : Word) : (s.setReg r v).cur = s.cur := by
  unfold setReg; repeat' split
  all_goals rfl

@[simp] theorem setReg_mem (s : State) (r : Reg) (v : Word) : (s.setReg r v).mem = s.mem := by
  unfold setReg; repeat' split
  all_goals rfl

/-- What a register write leaves alone outside the slot. -/
theorem setReg_same (s : State) (r : Reg) (v : Word) : SameElsewhere s (s.setReg r v) ∧ SameCore s (s.setReg r v) := by
  unfold setReg
  split
  · exact same_refl s
  · split
    · exact setSlot_same s _
    · split <;> exact setSlot_same s _

/-- The register written reads its new value. -/
theorem reg_setReg {s : State} (h : s.Live) {r : Reg} (v : Word) (hr : r ≠ 0) : (s.setReg r v).reg r = v := by
  have h0 : r.toNat ≠ 0 := fun e => hr (BitVec.eq_of_toNat_eq e)
  have h1 : r.toNat < 32 := r.isLt
  simp only [reg, u, slot_setReg h, slotSetReg, h0, if_false]
  split
  · rename_i h8; simp [h8]
  · have h2 : r.toNat - 8 < 24 := by omega
    split
    · simp [h2]
    · simp [h2]

/-- Any other register reads as before. -/
theorem reg_setReg_other {s : State} (h : s.Live) {q r : Reg} (v : Word) (hq : q ≠ r) : (s.setReg r v).reg q = s.reg q := by
  have hne : q.toNat ≠ r.toNat := fun e => hq (BitVec.eq_of_toNat_eq e)
  simp only [reg, u, slot_setReg h, slotSetReg]
  by_cases h0 : r.toNat = 0
  · simp [h0]
  · by_cases h8 : r.toNat < 8
    · simp only [h0, h8, if_false, if_true]
      by_cases q0 : q.toNat = 0
      · simp [q0]
      · by_cases q8 : q.toNat < 8
        · simp [q0, q8, Ne.symm hne]
        · simp [q0, q8]
    · by_cases q0 : q.toNat = 0
      · simp [q0]
      · by_cases q8 : q.toNat < 8
        · cases s.slot.mode <;> simp [h0, h8, q0, q8]
        · have : ¬ r.toNat - 8 = q.toNat - 8 := by omega
          cases s.slot.mode <;> simp [h0, h8, q0, q8, this]

/-! ### Counting and completing -/

@[simp] theorem count_mem (s : State) (c code n : Nat) : (s.count c code n).mem = s.mem := by
  unfold count; dsimp only; split <;> rfl
@[simp] theorem count_cur (s : State) (c code n : Nat) : (s.count c code n).cur = s.cur := by
  unfold count; dsimp only; split <;> rfl

/-- Counting changes no slot. -/
@[simp] theorem slotAt_count (s : State) (c code n k i : Nat) : (s.count c code n).slotAt k i = s.slotAt k i := by
  unfold count
  dsimp only
  split
  · rfl
  · by_cases h : k = c
    · subst h; simp [slotAt]
    · simp [slotAt, core_setCore_other _ _ h]

@[simp] theorem slot_count (s : State) (c code n : Nat) : (s.count c code n).slot = s.slot := by simp [slot]

/-- Counting on the core whose word executes changes its performance counters alone. -/
theorem count_same (s : State) (code n : Nat) :
    SameElsewhere s (s.count s.cur.1 code n) ∧ SameCore s (s.count s.cur.1 code n) := by
  unfold count
  dsimp only
  split
  · exact same_refl s
  · refine ⟨⟨rfl, fun c h => core_setCore_other _ _ h⟩, ?_, fun i _ => ?_⟩
    · simp [me]
    · simp [slotAt]

/-- The slot after its group completes, single step apart (R86, R115). -/
def slotComplete (x : Slot) (pc : Word) : Slot :=
  let y := if x.mode then { x with spc := pc } else { x with u := { x.u with pc := pc } }
  { y with
    pre := none, eprog := if x.mode then x.eprog else 0, status := .ready
    u := if x.mode then { y.u with admitted := x.u.admitted.filter (!·.1) } else withoutFault y.u (groupStart x) }

/-- Setting the pc changes the slot's address of the next word alone. -/
theorem slot_setPc {s : State} (h : s.Live) (pc : Word) :
    (s.setPc pc).slot = if s.slot.mode then { s.slot with spc := pc } else { s.slot with u := { s.u with pc := pc } } := by
  unfold setPc; split <;> exact slot_setSlot _ _ h.lt

@[simp] theorem setPc_cur (s : State) (pc : Word) : (s.setPc pc).cur = s.cur := by unfold setPc; split <;> rfl

/-- No image of a commit point is due: none is taken. -/
theorem sealPoint_none {s : State} (h : s.slot.pair.bind Pair.due = none) : s.sealPoint = s := by
  unfold sealPoint
  split
  · rfl
  · rename_i p hp
    have : p.due = none := by simpa [hp] using h
    simp [this]

/-- Completing a group, with nothing after it, is the slot changed as `slotComplete` says and one more retired word counted. -/
theorem complete_eq {s : State} (h : s.Live) (hs : s.Unstepped) (pc : Word) :
    s.complete pc = ((s.setPc pc).setSlot (slotComplete s.slot pc)).count s.cur.1 1 1 := by
  have hx : (s.setPc pc).slot.mode = s.slot.mode ∧ (s.setPc pc).slot.step = s.slot.step ∧
      (s.setPc pc).slot.pair = s.slot.pair := by rw [slot_setPc h]; split <;> exact ⟨rfl, rfl, rfl⟩
  have heq : ({ (s.setPc pc).slot with
      pre := none, eprog := if (s.setPc pc).slot.mode then (s.setPc pc).slot.eprog else 0, status := .ready
      u := if (s.setPc pc).slot.mode then { (s.setPc pc).slot.u with admitted := (s.setPc pc).slot.u.admitted.filter (!·.1) }
        else withoutFault (s.setPc pc).slot.u (groupStart s.slot) } : Slot) = slotComplete s.slot pc := by
    rw [slot_setPc h]; unfold slotComplete u
    generalize s.slot = y
    obtain ⟨_, _, mode, _⟩ := y
    cases mode <;> rfl
  have hslot : (((s.setPc pc).setSlot (slotComplete s.slot pc)).count s.cur.1 1 1).slot = slotComplete s.slot pc := by
    rw [slot_count]; exact slot_setSlot _ _ (by rw [setPc_cur]; exact h.lt)
  have hp : (slotComplete s.slot pc).pair = s.slot.pair ∧ (slotComplete s.slot pc).mode = s.slot.mode ∧
      (slotComplete s.slot pc).step = s.slot.step := by unfold slotComplete; cases s.slot.mode <;> exact ⟨rfl, rfl, rfl⟩
  unfold complete
  dsimp only
  rw [heq, setSlot_cur, setPc_cur, sealPoint_none (by rw [hslot, hp.1]; exact hs.2), hslot, hp.2.1, hp.2.2]
  rcases hs.1 with e | e <;> simp [e]

/-- Completing a group changes the slot as `slotComplete` says. -/
theorem slot_complete {s : State} (h : s.Live) (hs : s.Unstepped) (pc : Word) : (s.complete pc).slot = slotComplete s.slot pc := by
  rw [complete_eq h hs, slot_count]
  exact slot_setSlot _ _ (by rw [setPc_cur]; exact h.lt)

/-- What completing a group leaves alone outside the slot. -/
theorem complete_same {s : State} (h : s.Live) (hs : s.Unstepped) (pc : Word) :
    SameElsewhere s (s.complete pc) ∧ SameCore s (s.complete pc) := by
  have hp : SameElsewhere s (s.setPc pc) ∧ SameCore s (s.setPc pc) := by
    unfold setPc; split <;> exact setSlot_same s _
  rw [complete_eq h hs]
  have := count_same ((s.setPc pc).setSlot (slotComplete s.slot pc)) 1 1
  rw [setSlot_cur, setPc_cur] at this
  exact same_trans hp (same_trans (setSlot_same _ _) this)

@[simp] theorem setPc_mem (s : State) (x : Word) : (s.setPc x).mem = s.mem := by unfold setPc; split <;> rfl

/-- The word's address after a group completes. -/
theorem pc_complete {s : State} (h : s.Live) (hs : s.Unstepped) (pc : Word) : (s.complete pc).pc = pc := by
  unfold State.pc u
  rw [slot_complete h hs]
  unfold slotComplete
  cases s.slot.mode <;> rfl

/-- Completing a group keeps every register. -/
theorem reg_complete {s : State} (h : s.Live) (hs : s.Unstepped) (pc : Word) (r : Reg) : (s.complete pc).reg r = s.reg r := by
  unfold reg u
  rw [slot_complete h hs]
  unfold slotComplete
  cases s.slot.mode <;> rfl

/-- A register write keeps the strand executing. -/
theorem live_setReg {s : State} (h : s.Live) (d : Reg) (x : Word) : (s.setReg d x).Live := by
  unfold Live
  rw [slot_setReg h]; unfold slotSetReg; repeat' split
  all_goals exact h

/-- A register write keeps what follows the completion. -/
theorem unstepped_setReg {s : State} (h : s.Live) (hs : s.Unstepped) (d : Reg) (x : Word) : (s.setReg d x).Unstepped := by
  unfold Unstepped
  rw [slot_setReg h]; unfold slotSetReg; repeat' split
  all_goals exact hs

/-- A register write followed by the next word: the frame of an instruction with one scalar destination (R86, R101, R117). -/
theorem retire_frame {s : State} (h : s.Live) (hs : s.Unstepped) (d : Reg) (x : Word) :
    RegisterFrame d s (s.setReg d x).retire := by
  have hx := slot_setReg h d x
  have live := live_setReg h d x
  have un := unstepped_setReg h hs d x
  have hslot := slot_complete live un ((s.setReg d x).pc + 4)
  have hsame := same_trans (setReg_same s d x) (complete_same live un ((s.setReg d x).pc + 4))
  have hpc : (s.setReg d x).pc = s.pc := by
    unfold State.pc u; rw [hx]; unfold slotSetReg
    repeat' split
    all_goals rfl
  have hreg (r : Reg) (hr : r ≠ d) : ((s.setReg d x).complete ((s.setReg d x).pc + 4)).reg r = s.reg r := by
    rw [reg_complete live un, reg_setReg_other h x hr]
  unfold retire
  refine ⟨hsame.1, hsame.2, ?_, ?_, ?_, ?_, hreg, ?_, ?_⟩
  · have ready : s.slot.status = .ready := h
    rw [SameSlot, hslot, hx]
    clear hslot hx hsame hreg live un hpc hs h
    generalize s.slot = y at *
    obtain ⟨⟩ := y
    unfold slotComplete slotSetReg
    dsimp only at ready ⊢
    subst ready
    repeat' split
    all_goals rfl
  · unfold SameStrand u
    rw [hslot, hx]
    clear hslot hx hsame hreg live un hpc hs h
    unfold slotComplete slotSetReg
    dsimp only
    repeat' split
    all_goals rfl
  · intro e
    unfold u
    rw [hslot, hx]
    clear hslot hx hsame hreg live un hpc hs h
    unfold slotComplete slotSetReg
    repeat' split
    all_goals simp_all
  · intro e
    rw [hslot, hx]
    clear hslot hx hsame hreg live un hpc hs h
    unfold slotComplete slotSetReg
    repeat' split
    all_goals simp_all
  · rw [pc_complete live un, hpc]
  · rw [hslot]
    rfl

/-- And the register holds the value written (R101). -/
theorem reg_retire {s : State} (h : s.Live) (hs : s.Unstepped) {d : Reg} (x : Word) (hd : d ≠ 0) :
    (s.setReg d x).retire.reg d = x := by
  unfold retire
  rw [reg_complete (live_setReg h d x) (unstepped_setReg h hs d x), reg_setReg h x hd]

end State

/-! ### The forms of integer instructions -/

theorem binary_ok {s : State} (h : s.NoPrefix) (d a b : Reg) (f : Word → Word → Word) :
    binary d a b f s = .next (s.setReg d (f (s.reg a) (s.reg b))).retire := State.plain_ok h _

theorem unary_ok {s : State} (h : s.NoPrefix) (d a : Reg) (f : Word → Word) :
    unary d a f s = .next (s.setReg d (f (s.reg a))).retire := State.plain_ok h _

theorem immediate_ok {s : State} (h : s.ExtFits) (d a : Reg) (i : BitVec 16) (f : Word → Word → Word) :
    immediate d a i f s = .next (s.setReg d (f (s.reg a) (s.immSigned i))).retire := State.withExt_ok h _

theorem logicalImmediate_ok {s : State} (h : s.ExtFits) (d a : Reg) (i : BitVec 16) (f : Word → Word → Word) :
    logicalImmediate d a i f s = .next (s.setReg d (f (s.reg a) (s.immLogical i))).retire := State.withExt_ok h _

end Sys2Proof.Machine
end

