-- ==== Sys2Proof/Laws/PerInstr.lean ====
section
/-!
SUPPORT. Facts about the instructions as syntax, one lemma for each constructor: the word of a well-formed instruction decodes to
that instruction, with every operand (R72 to R89).
-/

namespace Sys2Proof.Laws.RoundTrip

/-- The word of a well-formed instruction decodes to it. -/
def Statement (i : Instr) : Prop := i.isWord = true → i.wf = true → decodeWord (encode i) = .ok i

theorem srd (x0 : Reg) (x1 : BitVec 11) : Statement (.srd x0 x1) := by
  intro _ h
  show decodeWord (Fmt.encS 0#6 x0 0#5 1#5 x1) = _
  rw [decodeWord_0 (by simp) (by simp)]
  simp [decodeSystem, accept, h]
theorem swr (x0 : Reg) (x1 : BitVec 11) : Statement (.swr x0 x1) := by
  intro _ h
  show decodeWord (Fmt.encS 0#6 0#5 x0 2#5 x1) = _
  rw [decodeWord_0 (by simp) (by simp)]
  simp [decodeSystem, accept, h]
theorem trap (x0 : BitVec 11) : Statement (.trap x0) := by
  intro _ h
  show decodeWord (Fmt.encS 0#6 0#5 0#5 3#5 x0) = _
  rw [decodeWord_0 (by simp) (by simp)]
  simp [decodeSystem, accept, h]
theorem eret : Statement .eret := by
  intro _ h
  show decodeWord (Fmt.encS 0#6 0#5 0#5 4#5 0#11) = _
  rw [decodeWord_0 (by simp) (by simp)]
  simp [decodeSystem, accept, h]
theorem brk (x0 : BitVec 11) : Statement (.brk x0) := by
  intro _ h
  show decodeWord (Fmt.encS 0#6 0#5 0#5 5#5 x0) = _
  rw [decodeWord_0 (by simp) (by simp)]
  simp [decodeSystem, accept, h]
theorem wfm (x0 : BitVec 4) : Statement (.wfm x0) := by
  intro _ h
  show decodeWord (Fmt.encS 0#6 0#5 0#5 6#5 (0#7 ++ x0)) = _
  rw [decodeWord_0 (by simp) (by simp)]
  simp [decodeSystem, accept, h]
theorem exit : Statement .exit := by
  intro _ h
  show decodeWord (Fmt.encS 0#6 0#5 0#5 7#5 0#11) = _
  rw [decodeWord_0 (by simp) (by simp)]
  simp [decodeSystem, accept, h]
theorem ckpt (x0 : Reg) (x1 : BitVec 2) : Statement (.ckpt x0 x1) := by
  intro _ h
  show decodeWord (Fmt.encS 0#6 0#5 x0 8#5 (0#9 ++ x1)) = _
  rw [decodeWord_0 (by simp) (by simp)]
  simp [decodeSystem, accept, h]
theorem tlbinv (x0 : Reg) (x1 : BitVec 11) : Statement (.tlbinv x0 x1) := by
  intro _ h
  show decodeWord (Fmt.encS 0#6 0#5 x0 9#5 x1) = _
  rw [decodeWord_0 (by simp) (by simp)]
  simp [decodeSystem, accept, h]
theorem ctxsv (x0 : Reg) (x1 : Reg) (x2 : BitVec 11) : Statement (.ctxsv x0 x1 x2) := by
  intro _ h
  show decodeWord (Fmt.encS 0#6 x0 x1 10#5 x2) = _
  rw [decodeWord_0 (by simp) (by simp)]
  simp [decodeSystem, accept, h]
theorem ctxld (x0 : Reg) (x1 : Reg) (x2 : BitVec 11) : Statement (.ctxld x0 x1 x2) := by
  intro _ h
  show decodeWord (Fmt.encS 0#6 x0 x1 11#5 x2) = _
  rw [decodeWord_0 (by simp) (by simp)]
  simp [decodeSystem, accept, h]
theorem add (x0 : Reg) (x1 : Reg) (x2 : Reg) : Statement (.add x0 x1 x2) := by
  intro _ h
  show decodeWord (Fmt.encRR 1#6 x0 x1 x2 0#5 0#6) = _
  rw [decodeWord_1 (by simp)]
  simp [decodeInt, accept, h]
theorem sub (x0 : Reg) (x1 : Reg) (x2 : Reg) : Statement (.sub x0 x1 x2) := by
  intro _ h
  show decodeWord (Fmt.encRR 1#6 x0 x1 x2 1#5 0#6) = _
  rw [decodeWord_1 (by simp)]
  simp [decodeInt, accept, h]
theorem and (x0 : Reg) (x1 : Reg) (x2 : Reg) : Statement (.and x0 x1 x2) := by
  intro _ h
  show decodeWord (Fmt.encRR 1#6 x0 x1 x2 2#5 0#6) = _
  rw [decodeWord_1 (by simp)]
  simp [decodeInt, accept, h]
theorem or (x0 : Reg) (x1 : Reg) (x2 : Reg) : Statement (.or x0 x1 x2) := by
  intro _ h
  show decodeWord (Fmt.encRR 1#6 x0 x1 x2 3#5 0#6) = _
  rw [decodeWord_1 (by simp)]
  simp [decodeInt, accept, h]
theorem xor (x0 : Reg) (x1 : Reg) (x2 : Reg) : Statement (.xor x0 x1 x2) := by
  intro _ h
  show decodeWord (Fmt.encRR 1#6 x0 x1 x2 4#5 0#6) = _
  rw [decodeWord_1 (by simp)]
  simp [decodeInt, accept, h]
theorem andn (x0 : Reg) (x1 : Reg) (x2 : Reg) : Statement (.andn x0 x1 x2) := by
  intro _ h
  show decodeWord (Fmt.encRR 1#6 x0 x1 x2 5#5 0#6) = _
  rw [decodeWord_1 (by simp)]
  simp [decodeInt, accept, h]
theorem shl (x0 : Reg) (x1 : Reg) (x2 : Reg) : Statement (.shl x0 x1 x2) := by
  intro _ h
  show decodeWord (Fmt.encRR 1#6 x0 x1 x2 6#5 0#6) = _
  rw [decodeWord_1 (by simp)]
  simp [decodeInt, accept, h]
theorem shr (x0 : Reg) (x1 : Reg) (x2 : Reg) : Statement (.shr x0 x1 x2) := by
  intro _ h
  show decodeWord (Fmt.encRR 1#6 x0 x1 x2 7#5 0#6) = _
  rw [decodeWord_1 (by simp)]
  simp [decodeInt, accept, h]
theorem sra (x0 : Reg) (x1 : Reg) (x2 : Reg) : Statement (.sra x0 x1 x2) := by
  intro _ h
  show decodeWord (Fmt.encRR 1#6 x0 x1 x2 8#5 0#6) = _
  rw [decodeWord_1 (by simp)]
  simp [decodeInt, accept, h]
theorem rot (x0 : Reg) (x1 : Reg) (x2 : Reg) : Statement (.rot x0 x1 x2) := by
  intro _ h
  show decodeWord (Fmt.encRR 1#6 x0 x1 x2 9#5 0#6) = _
  rw [decodeWord_1 (by simp)]
  simp [decodeInt, accept, h]
theorem clz (x0 : Reg) (x1 : Reg) : Statement (.clz x0 x1) := by
  intro _ h
  show decodeWord (Fmt.encRR 1#6 x0 x1 0#5 10#5 0#6) = _
  rw [decodeWord_1 (by simp)]
  simp [decodeInt, accept, h]
theorem ctz (x0 : Reg) (x1 : Reg) : Statement (.ctz x0 x1) := by
  intro _ h
  show decodeWord (Fmt.encRR 1#6 x0 x1 0#5 11#5 0#6) = _
  rw [decodeWord_1 (by simp)]
  simp [decodeInt, accept, h]
theorem popc (x0 : Reg) (x1 : Reg) : Statement (.popc x0 x1) := by
  intro _ h
  show decodeWord (Fmt.encRR 1#6 x0 x1 0#5 12#5 0#6) = _
  rw [decodeWord_1 (by simp)]
  simp [decodeInt, accept, h]
theorem min (x0 : Reg) (x1 : Reg) (x2 : Reg) : Statement (.min x0 x1 x2) := by
  intro _ h
  show decodeWord (Fmt.encRR 1#6 x0 x1 x2 13#5 0#6) = _
  rw [decodeWord_1 (by simp)]
  simp [decodeInt, accept, h]
theorem max (x0 : Reg) (x1 : Reg) (x2 : Reg) : Statement (.max x0 x1 x2) := by
  intro _ h
  show decodeWord (Fmt.encRR 1#6 x0 x1 x2 14#5 0#6) = _
  rw [decodeWord_1 (by simp)]
  simp [decodeInt, accept, h]
theorem minu (x0 : Reg) (x1 : Reg) (x2 : Reg) : Statement (.minu x0 x1 x2) := by
  intro _ h
  show decodeWord (Fmt.encRR 1#6 x0 x1 x2 15#5 0#6) = _
  rw [decodeWord_1 (by simp)]
  simp [decodeInt, accept, h]
theorem maxu (x0 : Reg) (x1 : Reg) (x2 : Reg) : Statement (.maxu x0 x1 x2) := by
  intro _ h
  show decodeWord (Fmt.encRR 1#6 x0 x1 x2 16#5 0#6) = _
  rw [decodeWord_1 (by simp)]
  simp [decodeInt, accept, h]
theorem sel (x0 : Reg) (x1 : Reg) (x2 : Reg) : Statement (.sel x0 x1 x2) := by
  intro _ h
  show decodeWord (Fmt.encRR 1#6 x0 x1 x2 17#5 0#6) = _
  rw [decodeWord_1 (by simp)]
  simp [decodeInt, accept, h]
theorem cmpeq (x0 : Reg) (x1 : Reg) (x2 : Reg) : Statement (.cmpeq x0 x1 x2) := by
  intro _ h
  show decodeWord (Fmt.encRR 1#6 x0 x1 x2 18#5 0#6) = _
  rw [decodeWord_1 (by simp)]
  simp [decodeInt, accept, h]
theorem cmplt (x0 : Reg) (x1 : Reg) (x2 : Reg) : Statement (.cmplt x0 x1 x2) := by
  intro _ h
  show decodeWord (Fmt.encRR 1#6 x0 x1 x2 19#5 0#6) = _
  rw [decodeWord_1 (by simp)]
  simp [decodeInt, accept, h]
theorem cmpltu (x0 : Reg) (x1 : Reg) (x2 : Reg) : Statement (.cmpltu x0 x1 x2) := by
  intro _ h
  show decodeWord (Fmt.encRR 1#6 x0 x1 x2 20#5 0#6) = _
  rw [decodeWord_1 (by simp)]
  simp [decodeInt, accept, h]
theorem addi (x0 : Reg) (x1 : Reg) (x2 : BitVec 16) : Statement (.addi x0 x1 x2) := by
  intro _ h
  show decodeWord (Fmt.encRI 2#6 x0 x1 x2) = _
  rw [decodeWord_2 (by simp)]
  simp [accept, h]
theorem andi (x0 : Reg) (x1 : Reg) (x2 : BitVec 16) : Statement (.andi x0 x1 x2) := by
  intro _ h
  show decodeWord (Fmt.encRI 3#6 x0 x1 x2) = _
  rw [decodeWord_3 (by simp)]
  simp [accept, h]
theorem ori (x0 : Reg) (x1 : Reg) (x2 : BitVec 16) : Statement (.ori x0 x1 x2) := by
  intro _ h
  show decodeWord (Fmt.encRI 4#6 x0 x1 x2) = _
  rw [decodeWord_4 (by simp)]
  simp [accept, h]
theorem xori (x0 : Reg) (x1 : Reg) (x2 : BitVec 16) : Statement (.xori x0 x1 x2) := by
  intro _ h
  show decodeWord (Fmt.encRI 5#6 x0 x1 x2) = _
  rw [decodeWord_5 (by simp)]
  simp [accept, h]
theorem shli (x0 : Reg) (x1 : Reg) (x2 : BitVec 6) : Statement (.shli x0 x1 x2) := by
  intro _ h
  show decodeWord (Fmt.encRI 6#6 x0 x1 (0#10 ++ x2)) = _
  rw [decodeWord_6 (by simp)]
  simp [decodeShift, accept, h]
theorem shri (x0 : Reg) (x1 : Reg) (x2 : BitVec 6) : Statement (.shri x0 x1 x2) := by
  intro _ h
  show decodeWord (Fmt.encRI 6#6 x0 x1 (4#10 ++ x2)) = _
  rw [decodeWord_6 (by simp)]
  simp [decodeShift, accept, h]
theorem srai (x0 : Reg) (x1 : Reg) (x2 : BitVec 6) : Statement (.srai x0 x1 x2) := by
  intro _ h
  show decodeWord (Fmt.encRI 6#6 x0 x1 (8#10 ++ x2)) = _
  rw [decodeWord_6 (by simp)]
  simp [decodeShift, accept, h]
theorem cmpeqi (x0 : Reg) (x1 : Reg) (x2 : BitVec 16) : Statement (.cmpeqi x0 x1 x2) := by
  intro _ h
  show decodeWord (Fmt.encRI 7#6 x0 x1 x2) = _
  rw [decodeWord_7 (by simp)]
  simp [accept, h]
theorem cmplti (x0 : Reg) (x1 : Reg) (x2 : BitVec 16) : Statement (.cmplti x0 x1 x2) := by
  intro _ h
  show decodeWord (Fmt.encRI 8#6 x0 x1 x2) = _
  rw [decodeWord_8 (by simp)]
  simp [accept, h]
theorem movhi (x0 : Reg) (x1 : BitVec 16) : Statement (.movhi x0 x1) := by
  intro _ h
  show decodeWord (Fmt.encRI 9#6 x0 0#5 x1) = _
  rw [decodeWord_9 (by simp)]
  simp [decodeHigh, accept, h]
theorem addpc (x0 : Reg) (x1 : BitVec 16) : Statement (.addpc x0 x1) := by
  intro _ h
  show decodeWord (Fmt.encRI 9#6 x0 1#5 x1) = _
  rw [decodeWord_9 (by simp)]
  simp [decodeHigh, accept, h]
theorem mul (x0 : Reg) (x1 : Reg) (x2 : Reg) : Statement (.mul x0 x1 x2) := by
  intro _ h
  show decodeWord (Fmt.encRR 10#6 x0 x1 x2 0#5 0#6) = _
  rw [decodeWord_10 (by simp)]
  simp [decodeMulDiv, accept, h]
theorem mulh (x0 : Reg) (x1 : Reg) (x2 : Reg) : Statement (.mulh x0 x1 x2) := by
  intro _ h
  show decodeWord (Fmt.encRR 10#6 x0 x1 x2 1#5 0#6) = _
  rw [decodeWord_10 (by simp)]
  simp [decodeMulDiv, accept, h]
theorem mulhu (x0 : Reg) (x1 : Reg) (x2 : Reg) : Statement (.mulhu x0 x1 x2) := by
  intro _ h
  show decodeWord (Fmt.encRR 10#6 x0 x1 x2 2#5 0#6) = _
  rw [decodeWord_10 (by simp)]
  simp [decodeMulDiv, accept, h]
theorem div (x0 : Reg) (x1 : Reg) (x2 : Reg) : Statement (.div x0 x1 x2) := by
  intro _ h
  show decodeWord (Fmt.encRR 10#6 x0 x1 x2 3#5 0#6) = _
  rw [decodeWord_10 (by simp)]
  simp [decodeMulDiv, accept, h]
theorem divu (x0 : Reg) (x1 : Reg) (x2 : Reg) : Statement (.divu x0 x1 x2) := by
  intro _ h
  show decodeWord (Fmt.encRR 10#6 x0 x1 x2 4#5 0#6) = _
  rw [decodeWord_10 (by simp)]
  simp [decodeMulDiv, accept, h]
theorem rem (x0 : Reg) (x1 : Reg) (x2 : Reg) : Statement (.rem x0 x1 x2) := by
  intro _ h
  show decodeWord (Fmt.encRR 10#6 x0 x1 x2 5#5 0#6) = _
  rw [decodeWord_10 (by simp)]
  simp [decodeMulDiv, accept, h]
theorem remu (x0 : Reg) (x1 : Reg) (x2 : Reg) : Statement (.remu x0 x1 x2) := by
  intro _ h
  show decodeWord (Fmt.encRR 10#6 x0 x1 x2 6#5 0#6) = _
  rw [decodeWord_10 (by simp)]
  simp [decodeMulDiv, accept, h]
theorem fadd (x0 : Reg) (x1 : Reg) (x2 : Reg) : Statement (.fadd x0 x1 x2) := by
  intro _ h
  show decodeWord (Fmt.encRR 11#6 x0 x1 x2 0#5 0#6) = _
  rw [decodeWord_11 (by simp)]
  simp [decodeFloat, accept, h]
theorem fsub (x0 : Reg) (x1 : Reg) (x2 : Reg) : Statement (.fsub x0 x1 x2) := by
  intro _ h
  show decodeWord (Fmt.encRR 11#6 x0 x1 x2 1#5 0#6) = _
  rw [decodeWord_11 (by simp)]
  simp [decodeFloat, accept, h]
theorem fmul (x0 : Reg) (x1 : Reg) (x2 : Reg) : Statement (.fmul x0 x1 x2) := by
  intro _ h
  show decodeWord (Fmt.encRR 11#6 x0 x1 x2 2#5 0#6) = _
  rw [decodeWord_11 (by simp)]
  simp [decodeFloat, accept, h]
theorem ffma (x0 : Reg) (x1 : Reg) (x2 : Reg) : Statement (.ffma x0 x1 x2) := by
  intro _ h
  show decodeWord (Fmt.encRR 11#6 x0 x1 x2 3#5 0#6) = _
  rw [decodeWord_11 (by simp)]
  simp [decodeFloat, accept, h]
theorem fdiv (x0 : Reg) (x1 : Reg) (x2 : Reg) : Statement (.fdiv x0 x1 x2) := by
  intro _ h
  show decodeWord (Fmt.encRR 11#6 x0 x1 x2 4#5 0#6) = _
  rw [decodeWord_11 (by simp)]
  simp [decodeFloat, accept, h]
theorem fsqrt (x0 : Reg) (x1 : Reg) : Statement (.fsqrt x0 x1) := by
  intro _ h
  show decodeWord (Fmt.encRR 11#6 x0 x1 0#5 5#5 0#6) = _
  rw [decodeWord_11 (by simp)]
  simp [decodeFloat, accept, h]
theorem fmin (x0 : Reg) (x1 : Reg) (x2 : Reg) : Statement (.fmin x0 x1 x2) := by
  intro _ h
  show decodeWord (Fmt.encRR 11#6 x0 x1 x2 6#5 0#6) = _
  rw [decodeWord_11 (by simp)]
  simp [decodeFloat, accept, h]
theorem fmax (x0 : Reg) (x1 : Reg) (x2 : Reg) : Statement (.fmax x0 x1 x2) := by
  intro _ h
  show decodeWord (Fmt.encRR 11#6 x0 x1 x2 7#5 0#6) = _
  rw [decodeWord_11 (by simp)]
  simp [decodeFloat, accept, h]
theorem fcmp (x0 : Reg) (x1 : Reg) (x2 : Reg) (x3 : BitVec 2) : Statement (.fcmp x0 x1 x2 x3) := by
  intro _ h
  show decodeWord (Fmt.encRR 11#6 x0 x1 x2 8#5 (0#4 ++ x3)) = _
  rw [decodeWord_11 (by simp)]
  simp [decodeFloat, accept, h]
theorem fcvtif (x0 : Reg) (x1 : Reg) (x2 : BitVec 2) : Statement (.fcvtif x0 x1 x2) := by
  intro _ h
  show decodeWord (Fmt.encRR 11#6 x0 x1 0#5 9#5 (0#4 ++ x2)) = _
  rw [decodeWord_11 (by simp)]
  simp [decodeFloat, accept, h]
theorem fcvtfi (x0 : Reg) (x1 : Reg) (x2 : BitVec 3) : Statement (.fcvtfi x0 x1 x2) := by
  intro _ h
  show decodeWord (Fmt.encRR 11#6 x0 x1 0#5 10#5 (0#3 ++ x2)) = _
  rw [decodeWord_11 (by simp)]
  simp [decodeFloat, accept, h]
theorem beq (x0 : Reg) (x1 : Reg) (x2 : BitVec 16) : Statement (.beq x0 x1 x2) := by
  intro _ h
  have g : x0.toNat < x1.toNat := of_decide_eq_true h
  have e : x0 ≠ x1 := fun e => by subst e; omega
  show decodeWord (Fmt.encRI 12#6 x0 x1 x2) = _
  rw [decodeWord_12 (by simp)]
  simp [decodeEqual, accept, h, e, g]
theorem bne (x0 : Reg) (x1 : Reg) (x2 : BitVec 16) : Statement (.bne x0 x1 x2) := by
  intro _ h
  have g : x1.toNat < x0.toNat := of_decide_eq_true h
  have e : x0 ≠ x1 := fun e => by subst e; omega
  have g' : ¬ x0.toNat < x1.toNat := by omega
  show decodeWord (Fmt.encRI 12#6 x0 x1 x2) = _
  rw [decodeWord_12 (by simp)]
  simp [decodeEqual, accept, h, e, g']
theorem jl (x0 : Reg) (x1 : BitVec 16) : Statement (.jl x0 x1) := by
  intro _ h
  show decodeWord (Fmt.encRI 12#6 x0 x0 x1) = _
  rw [decodeWord_12 (by simp)]
  simp [decodeEqual, accept, h]
theorem blt (x0 : Reg) (x1 : Reg) (x2 : BitVec 16) : Statement (.blt x0 x1 x2) := by
  intro _ h
  show decodeWord (Fmt.encRI 13#6 x0 x1 x2) = _
  rw [decodeWord_13 (by simp)]
  simp [accept, h]
theorem bge (x0 : Reg) (x1 : Reg) (x2 : BitVec 16) : Statement (.bge x0 x1 x2) := by
  intro _ h
  show decodeWord (Fmt.encRI 14#6 x0 x1 x2) = _
  rw [decodeWord_14 (by simp)]
  simp [accept, h]
theorem bltu (x0 : Reg) (x1 : Reg) (x2 : BitVec 11) : Statement (.bltu x0 x1 x2) := by
  intro _ h
  show decodeWord (Fmt.encS 15#6 x0 x1 0#5 x2) = _
  rw [decodeWord_15 (by simp)]
  simp [decodeBranchU, accept, h]
theorem bgeu (x0 : Reg) (x1 : Reg) (x2 : BitVec 11) : Statement (.bgeu x0 x1 x2) := by
  intro _ h
  show decodeWord (Fmt.encS 15#6 x0 x1 1#5 x2) = _
  rw [decodeWord_15 (by simp)]
  simp [decodeBranchU, accept, h]
theorem jr (x0 : Reg) : Statement (.jr x0) := by
  intro _ h
  show decodeWord (Fmt.encS 15#6 x0 0#5 2#5 0#11) = _
  rw [decodeWord_15 (by simp)]
  simp [decodeBranchU, accept, h]
theorem callr (x0 : Reg) : Statement (.callr x0) := by
  intro _ h
  show decodeWord (Fmt.encS 15#6 x0 0#5 3#5 0#11) = _
  rw [decodeWord_15 (by simp)]
  simp [decodeBranchU, accept, h]
theorem ret : Statement .ret := by
  intro _ h
  show decodeWord (Fmt.encS 15#6 0#5 0#5 4#5 0#11) = _
  rw [decodeWord_15 (by simp)]
  simp [decodeBranchU, accept, h]
theorem j (x0 : BitVec 26) : Statement (.j x0) := by
  intro _ h
  show decodeWord (Fmt.encJ 16#6 x0) = _
  rw [decodeWord_16 (by simp)]
  simp [accept, h]
theorem call (x0 : BitVec 26) : Statement (.call x0) := by
  intro _ h
  show decodeWord (Fmt.encJ 17#6 x0) = _
  rw [decodeWord_17 (by simp)]
  simp [accept, h]
theorem ldb (x0 : Reg) (x1 : Reg) (x2 : BitVec 13) : Statement (.ldb x0 x1 x2) := by
  intro _ h
  show decodeWord (Fmt.encLS 18#6 x0 x1 0#3 x2) = _
  rw [decodeWord_18 (by simp)]
  simp [decodeLoad, accept, h]
theorem ldbu (x0 : Reg) (x1 : Reg) (x2 : BitVec 13) : Statement (.ldbu x0 x1 x2) := by
  intro _ h
  show decodeWord (Fmt.encLS 18#6 x0 x1 1#3 x2) = _
  rw [decodeWord_18 (by simp)]
  simp [decodeLoad, accept, h]
theorem ldh (x0 : Reg) (x1 : Reg) (x2 : BitVec 13) : Statement (.ldh x0 x1 x2) := by
  intro _ h
  show decodeWord (Fmt.encLS 18#6 x0 x1 2#3 x2) = _
  rw [decodeWord_18 (by simp)]
  simp [decodeLoad, accept, h]
theorem ldhu (x0 : Reg) (x1 : Reg) (x2 : BitVec 13) : Statement (.ldhu x0 x1 x2) := by
  intro _ h
  show decodeWord (Fmt.encLS 18#6 x0 x1 3#3 x2) = _
  rw [decodeWord_18 (by simp)]
  simp [decodeLoad, accept, h]
theorem ldw (x0 : Reg) (x1 : Reg) (x2 : BitVec 13) : Statement (.ldw x0 x1 x2) := by
  intro _ h
  show decodeWord (Fmt.encLS 18#6 x0 x1 4#3 x2) = _
  rw [decodeWord_18 (by simp)]
  simp [decodeLoad, accept, h]
theorem ldwu (x0 : Reg) (x1 : Reg) (x2 : BitVec 13) : Statement (.ldwu x0 x1 x2) := by
  intro _ h
  show decodeWord (Fmt.encLS 18#6 x0 x1 5#3 x2) = _
  rw [decodeWord_18 (by simp)]
  simp [decodeLoad, accept, h]
theorem ldd (x0 : Reg) (x1 : Reg) (x2 : BitVec 13) : Statement (.ldd x0 x1 x2) := by
  intro _ h
  show decodeWord (Fmt.encLS 18#6 x0 x1 6#3 x2) = _
  rw [decodeWord_18 (by simp)]
  simp [decodeLoad, accept, h]
theorem stb (x0 : Reg) (x1 : Reg) (x2 : BitVec 13) : Statement (.stb x0 x1 x2) := by
  intro _ h
  show decodeWord (Fmt.encLS 19#6 x0 x1 0#3 x2) = _
  rw [decodeWord_19 (by simp)]
  simp [decodeStore, accept, h]
theorem sth (x0 : Reg) (x1 : Reg) (x2 : BitVec 13) : Statement (.sth x0 x1 x2) := by
  intro _ h
  show decodeWord (Fmt.encLS 19#6 x0 x1 1#3 x2) = _
  rw [decodeWord_19 (by simp)]
  simp [decodeStore, accept, h]
theorem stw (x0 : Reg) (x1 : Reg) (x2 : BitVec 13) : Statement (.stw x0 x1 x2) := by
  intro _ h
  show decodeWord (Fmt.encLS 19#6 x0 x1 2#3 x2) = _
  rw [decodeWord_19 (by simp)]
  simp [decodeStore, accept, h]
theorem std (x0 : Reg) (x1 : Reg) (x2 : BitVec 13) : Statement (.std x0 x1 x2) := by
  intro _ h
  show decodeWord (Fmt.encLS 19#6 x0 x1 3#3 x2) = _
  rw [decodeWord_19 (by simp)]
  simp [decodeStore, accept, h]
theorem amoadd (x0 : Reg) (x1 : Reg) (x2 : Reg) (x3 : BitVec 1) : Statement (.amoadd x0 x1 x2 x3) := by
  intro _ h
  show decodeWord (Fmt.encRR 20#6 x0 x1 x2 0#5 (x3 ++ 0#5)) = _
  rw [decodeWord_20 (by simp)]
  simp [decodeAtomic, accept, h]
theorem amoand (x0 : Reg) (x1 : Reg) (x2 : Reg) (x3 : BitVec 1) : Statement (.amoand x0 x1 x2 x3) := by
  intro _ h
  show decodeWord (Fmt.encRR 20#6 x0 x1 x2 1#5 (x3 ++ 0#5)) = _
  rw [decodeWord_20 (by simp)]
  simp [decodeAtomic, accept, h]
theorem amoor (x0 : Reg) (x1 : Reg) (x2 : Reg) (x3 : BitVec 1) : Statement (.amoor x0 x1 x2 x3) := by
  intro _ h
  show decodeWord (Fmt.encRR 20#6 x0 x1 x2 2#5 (x3 ++ 0#5)) = _
  rw [decodeWord_20 (by simp)]
  simp [decodeAtomic, accept, h]
theorem amoxor (x0 : Reg) (x1 : Reg) (x2 : Reg) (x3 : BitVec 1) : Statement (.amoxor x0 x1 x2 x3) := by
  intro _ h
  show decodeWord (Fmt.encRR 20#6 x0 x1 x2 3#5 (x3 ++ 0#5)) = _
  rw [decodeWord_20 (by simp)]
  simp [decodeAtomic, accept, h]
theorem amomin (x0 : Reg) (x1 : Reg) (x2 : Reg) (x3 : BitVec 1) : Statement (.amomin x0 x1 x2 x3) := by
  intro _ h
  show decodeWord (Fmt.encRR 20#6 x0 x1 x2 4#5 (x3 ++ 0#5)) = _
  rw [decodeWord_20 (by simp)]
  simp [decodeAtomic, accept, h]
theorem amomax (x0 : Reg) (x1 : Reg) (x2 : Reg) (x3 : BitVec 1) : Statement (.amomax x0 x1 x2 x3) := by
  intro _ h
  show decodeWord (Fmt.encRR 20#6 x0 x1 x2 5#5 (x3 ++ 0#5)) = _
  rw [decodeWord_20 (by simp)]
  simp [decodeAtomic, accept, h]
theorem amominu (x0 : Reg) (x1 : Reg) (x2 : Reg) (x3 : BitVec 1) : Statement (.amominu x0 x1 x2 x3) := by
  intro _ h
  show decodeWord (Fmt.encRR 20#6 x0 x1 x2 6#5 (x3 ++ 0#5)) = _
  rw [decodeWord_20 (by simp)]
  simp [decodeAtomic, accept, h]
theorem amomaxu (x0 : Reg) (x1 : Reg) (x2 : Reg) (x3 : BitVec 1) : Statement (.amomaxu x0 x1 x2 x3) := by
  intro _ h
  show decodeWord (Fmt.encRR 20#6 x0 x1 x2 7#5 (x3 ++ 0#5)) = _
  rw [decodeWord_20 (by simp)]
  simp [decodeAtomic, accept, h]
theorem amoswp (x0 : Reg) (x1 : Reg) (x2 : Reg) (x3 : BitVec 1) : Statement (.amoswp x0 x1 x2 x3) := by
  intro _ h
  show decodeWord (Fmt.encRR 20#6 x0 x1 x2 8#5 (x3 ++ 0#5)) = _
  rw [decodeWord_20 (by simp)]
  simp [decodeAtomic, accept, h]
theorem amocas (x0 : Reg) (x1 : Reg) (x2 : Reg) (x3 : BitVec 1) : Statement (.amocas x0 x1 x2 x3) := by
  intro _ h
  show decodeWord (Fmt.encRR 20#6 x0 x1 x2 9#5 (x3 ++ 0#5)) = _
  rw [decodeWord_20 (by simp)]
  simp [decodeAtomic, accept, h]
theorem amofadd (x0 : Reg) (x1 : Reg) (x2 : Reg) : Statement (.amofadd x0 x1 x2) := by
  intro _ h
  show decodeWord (Fmt.encRR 20#6 x0 x1 x2 10#5 32#6) = _
  rw [decodeWord_20 (by simp)]
  simp [decodeAtomic, accept, h]
theorem fence (x0 : BitVec 3) (x1 : BitVec 3) : Statement (.fence x0 x1) := by
  intro _ h
  show decodeWord (Fmt.encRR 21#6 0#5 0#5 0#5 0#5 (x0 ++ x1)) = _
  rw [decodeWord_21 (by simp)]
  simp [decodeFence, accept, h]
theorem waita (x0 : Reg) (x1 : Reg) (x2 : Reg) (x3 : BitVec 1) : Statement (.waita x0 x1 x2 x3) := by
  intro _ h
  show decodeWord (Fmt.encRR 21#6 x0 x1 x2 1#5 (x3 ++ 0#5)) = _
  rw [decodeWord_21 (by simp)]
  simp [decodeFence, accept, h]
theorem flushr (x0 : Reg) (x1 : Reg) (x2 : Reg) : Statement (.flushr x0 x1 x2) := by
  intro _ h
  show decodeWord (Fmt.encRR 21#6 x0 x1 x2 2#5 0#6) = _
  rw [decodeWord_21 (by simp)]
  simp [decodeFence, accept, h]
theorem invr (x0 : Reg) (x1 : Reg) (x2 : Reg) : Statement (.invr x0 x1 x2) := by
  intro _ h
  show decodeWord (Fmt.encRR 21#6 x0 x1 x2 3#5 0#6) = _
  rw [decodeWord_21 (by simp)]
  simp [decodeFence, accept, h]
theorem pref (x0 : Reg) (x1 : BitVec 2) : Statement (.pref x0 x1) := by
  intro _ h
  show decodeWord (Fmt.encRR 21#6 0#5 x0 0#5 4#5 (0#4 ++ x1)) = _
  rw [decodeWord_21 (by simp)]
  simp [decodeFence, accept, h]
theorem vld (x0 : Reg) (x1 : Reg) (x2 : BitVec 1) (x3 : BitVec 3) : Statement (.vld x0 x1 x2 x3) := by
  intro _ h
  show decodeWord (Fmt.encV 22#6 x0 x1 0#5 (0#2 ++ x2) 0#3 (0#1 ++ x3) 0#1) = _
  rw [decodeWord_22 (by simp)]
  simp [decodeVMem, accept, h]
theorem vst (x0 : Reg) (x1 : Reg) (x2 : BitVec 1) (x3 : BitVec 3) : Statement (.vst x0 x1 x2 x3) := by
  intro _ h
  show decodeWord (Fmt.encV 22#6 x0 x1 0#5 (0#2 ++ x2) 1#3 (0#1 ++ x3) 0#1) = _
  rw [decodeWord_22 (by simp)]
  simp [decodeVMem, accept, h]
theorem vlds (x0 : Reg) (x1 : Reg) (x2 : Reg) (x3 : BitVec 1) (x4 : BitVec 3) : Statement (.vlds x0 x1 x2 x3 x4) := by
  intro _ h
  show decodeWord (Fmt.encV 22#6 x0 x1 x2 (0#2 ++ x3) 2#3 (0#1 ++ x4) 0#1) = _
  rw [decodeWord_22 (by simp)]
  simp [decodeVMem, accept, h]
theorem vsts (x0 : Reg) (x1 : Reg) (x2 : Reg) (x3 : BitVec 1) (x4 : BitVec 3) : Statement (.vsts x0 x1 x2 x3 x4) := by
  intro _ h
  show decodeWord (Fmt.encV 22#6 x0 x1 x2 (0#2 ++ x3) 3#3 (0#1 ++ x4) 0#1) = _
  rw [decodeWord_22 (by simp)]
  simp [decodeVMem, accept, h]
theorem vgath (x0 : Reg) (x1 : Reg) (x2 : Reg) (x3 : BitVec 1) (x4 : BitVec 3) : Statement (.vgath x0 x1 x2 x3 x4) := by
  intro _ h
  show decodeWord (Fmt.encV 22#6 x0 x1 x2 (0#2 ++ x3) 4#3 (0#1 ++ x4) 0#1) = _
  rw [decodeWord_22 (by simp)]
  simp [decodeVMem, accept, h]
theorem vscat (x0 : Reg) (x1 : Reg) (x2 : Reg) (x3 : BitVec 1) (x4 : BitVec 3) : Statement (.vscat x0 x1 x2 x3 x4) := by
  intro _ h
  show decodeWord (Fmt.encV 22#6 x0 x1 x2 (0#2 ++ x3) 5#3 (0#1 ++ x4) 0#1) = _
  rw [decodeWord_22 (by simp)]
  simp [decodeVMem, accept, h]
theorem mod (x0 : BitVec 4) (x1 : BitVec 2) (x2 : BitVec 2) (x3 : BitVec 3) (x4 : BitVec 3) : Statement (.mod x0 x1 x2 x3 x4) := by
  intro _ h
  show decodeWord (Fmt.encJ 23#6 (0#12 ++ x0 ++ x1 ++ x2 ++ x3 ++ x4)) = _
  rw [decodeWord_23 (by simp)]
  simp [accept, h]
theorem ext (x0 : BitVec 26) : Statement (.ext x0) := by
  intro _ h
  show decodeWord (Fmt.encJ 24#6 x0) = _
  rw [decodeWord_24 (by simp)]
  simp [accept, h]
theorem vadd (x0 : Reg) (x1 : Reg) (x2 : Reg) (x3 : BitVec 3) (x4 : BitVec 4) (x5 : BitVec 1) : Statement (.vadd x0 x1 x2 x3 x4 x5) := by
  intro _ h
  show decodeWord (Fmt.encV 25#6 x0 x1 x2 x3 0#3 x4 x5) = _
  rw [decodeWord_25 (by simp)]
  simp [decodeVFloat, accept, h]
theorem vsub (x0 : Reg) (x1 : Reg) (x2 : Reg) (x3 : BitVec 3) (x4 : BitVec 4) (x5 : BitVec 1) : Statement (.vsub x0 x1 x2 x3 x4 x5) := by
  intro _ h
  show decodeWord (Fmt.encV 25#6 x0 x1 x2 x3 1#3 x4 x5) = _
  rw [decodeWord_25 (by simp)]
  simp [decodeVFloat, accept, h]
theorem vmul (x0 : Reg) (x1 : Reg) (x2 : Reg) (x3 : BitVec 3) (x4 : BitVec 4) (x5 : BitVec 1) : Statement (.vmul x0 x1 x2 x3 x4 x5) := by
  intro _ h
  show decodeWord (Fmt.encV 25#6 x0 x1 x2 x3 2#3 x4 x5) = _
  rw [decodeWord_25 (by simp)]
  simp [decodeVFloat, accept, h]
theorem vfma (x0 : Reg) (x1 : Reg) (x2 : Reg) (x3 : BitVec 3) (x4 : BitVec 4) (x5 : BitVec 1) : Statement (.vfma x0 x1 x2 x3 x4 x5) := by
  intro _ h
  show decodeWord (Fmt.encV 25#6 x0 x1 x2 x3 3#3 x4 x5) = _
  rw [decodeWord_25 (by simp)]
  simp [decodeVFloat, accept, h]
theorem vmin (x0 : Reg) (x1 : Reg) (x2 : Reg) (x3 : BitVec 3) (x4 : BitVec 4) (x5 : BitVec 1) : Statement (.vmin x0 x1 x2 x3 x4 x5) := by
  intro _ h
  show decodeWord (Fmt.encV 25#6 x0 x1 x2 x3 4#3 x4 x5) = _
  rw [decodeWord_25 (by simp)]
  simp [decodeVFloat, accept, h]
theorem vmax (x0 : Reg) (x1 : Reg) (x2 : Reg) (x3 : BitVec 3) (x4 : BitVec 4) (x5 : BitVec 1) : Statement (.vmax x0 x1 x2 x3 x4 x5) := by
  intro _ h
  show decodeWord (Fmt.encV 25#6 x0 x1 x2 x3 5#3 x4 x5) = _
  rw [decodeWord_25 (by simp)]
  simp [decodeVFloat, accept, h]
theorem vabs (x0 : Reg) (x1 : Reg) (x2 : BitVec 3) (x3 : BitVec 4) : Statement (.vabs x0 x1 x2 x3) := by
  intro _ h
  show decodeWord (Fmt.encV 25#6 x0 x1 0#5 x2 6#3 x3 0#1) = _
  rw [decodeWord_25 (by simp)]
  simp [decodeVFloat, accept, h]
theorem vneg (x0 : Reg) (x1 : Reg) (x2 : BitVec 3) (x3 : BitVec 4) : Statement (.vneg x0 x1 x2 x3) := by
  intro _ h
  show decodeWord (Fmt.encV 25#6 x0 x1 0#5 x2 7#3 x3 0#1) = _
  rw [decodeWord_25 (by simp)]
  simp [decodeVFloat, accept, h]
theorem vrcp (x0 : Reg) (x1 : Reg) : Statement (.vrcp x0 x1) := by
  intro _ h
  show decodeWord (Fmt.encV 26#6 x0 x1 0#5 0#3 0#3 0#4 0#1) = _
  rw [decodeWord_26 (by simp)]
  simp [decodeVConv, accept, h]
theorem vrsq (x0 : Reg) (x1 : Reg) : Statement (.vrsq x0 x1) := by
  intro _ h
  show decodeWord (Fmt.encV 26#6 x0 x1 0#5 0#3 1#3 0#4 0#1) = _
  rw [decodeWord_26 (by simp)]
  simp [decodeVConv, accept, h]
theorem vexp2 (x0 : Reg) (x1 : Reg) : Statement (.vexp2 x0 x1) := by
  intro _ h
  show decodeWord (Fmt.encV 26#6 x0 x1 0#5 0#3 2#3 0#4 0#1) = _
  rw [decodeWord_26 (by simp)]
  simp [decodeVConv, accept, h]
theorem vlog2 (x0 : Reg) (x1 : Reg) : Statement (.vlog2 x0 x1) := by
  intro _ h
  show decodeWord (Fmt.encV 26#6 x0 x1 0#5 0#3 3#3 0#4 0#1) = _
  rw [decodeWord_26 (by simp)]
  simp [decodeVConv, accept, h]
theorem vcvt (x0 : Reg) (x1 : Reg) (x2 : BitVec 3) : Statement (.vcvt x0 x1 x2) := by
  intro _ h
  show decodeWord (Fmt.encV 26#6 x0 x1 0#5 x2 4#3 0#4 0#1) = _
  rw [decodeWord_26 (by simp)]
  simp [decodeVConv, accept, h]
theorem vpack (x0 : Reg) (x1 : Reg) (x2 : Reg) (x3 : BitVec 3) (x4 : BitVec 4) : Statement (.vpack x0 x1 x2 x3 x4) := by
  intro _ h
  show decodeWord (Fmt.encV 26#6 x0 x1 x2 x3 5#3 x4 0#1) = _
  rw [decodeWord_26 (by simp)]
  simp [decodeVConv, accept, h]
theorem vunpack (x0 : Reg) (x1 : Reg) (x2 : BitVec 3) (x3 : BitVec 4) : Statement (.vunpack x0 x1 x2 x3) := by
  intro _ h
  show decodeWord (Fmt.encV 26#6 x0 x1 0#5 x2 6#3 x3 0#1) = _
  rw [decodeWord_26 (by simp)]
  simp [decodeVConv, accept, h]
theorem vqnt (x0 : Reg) (x1 : Reg) (x2 : BitVec 3) : Statement (.vqnt x0 x1 x2) := by
  intro _ h
  show decodeWord (Fmt.encV 26#6 x0 x1 0#5 x2 7#3 0#4 0#1) = _
  rw [decodeWord_26 (by simp)]
  simp [decodeVConv, accept, h]
theorem viadd (x0 : Reg) (x1 : Reg) (x2 : Reg) (x3 : BitVec 3) (x4 : BitVec 4) (x5 : BitVec 1) : Statement (.viadd x0 x1 x2 x3 x4 x5) := by
  intro _ h
  show decodeWord (Fmt.encV 27#6 x0 x1 x2 x3 0#3 x4 x5) = _
  rw [decodeWord_27 (by simp)]
  simp [decodeVInt, accept, h]
theorem visub (x0 : Reg) (x1 : Reg) (x2 : Reg) (x3 : BitVec 3) (x4 : BitVec 4) (x5 : BitVec 1) : Statement (.visub x0 x1 x2 x3 x4 x5) := by
  intro _ h
  show decodeWord (Fmt.encV 27#6 x0 x1 x2 x3 1#3 x4 x5) = _
  rw [decodeWord_27 (by simp)]
  simp [decodeVInt, accept, h]
theorem vimul (x0 : Reg) (x1 : Reg) (x2 : Reg) (x3 : BitVec 3) (x4 : BitVec 4) (x5 : BitVec 1) : Statement (.vimul x0 x1 x2 x3 x4 x5) := by
  intro _ h
  show decodeWord (Fmt.encV 27#6 x0 x1 x2 x3 2#3 x4 x5) = _
  rw [decodeWord_27 (by simp)]
  simp [decodeVInt, accept, h]
theorem vimac (x0 : Reg) (x1 : Reg) (x2 : Reg) (x3 : BitVec 3) (x4 : BitVec 4) (x5 : BitVec 1) : Statement (.vimac x0 x1 x2 x3 x4 x5) := by
  intro _ h
  show decodeWord (Fmt.encV 27#6 x0 x1 x2 x3 3#3 x4 x5) = _
  rw [decodeWord_27 (by simp)]
  simp [decodeVInt, accept, h]
theorem vshl (x0 : Reg) (x1 : Reg) (x2 : Reg) (x3 : BitVec 3) (x4 : BitVec 4) (x5 : BitVec 1) : Statement (.vshl x0 x1 x2 x3 x4 x5) := by
  intro _ h
  show decodeWord (Fmt.encV 27#6 x0 x1 x2 x3 4#3 x4 x5) = _
  rw [decodeWord_27 (by simp)]
  simp [decodeVInt, accept, h]
theorem vshr (x0 : Reg) (x1 : Reg) (x2 : Reg) (x3 : BitVec 3) (x4 : BitVec 4) (x5 : BitVec 1) : Statement (.vshr x0 x1 x2 x3 x4 x5) := by
  intro _ h
  show decodeWord (Fmt.encV 27#6 x0 x1 x2 x3 5#3 x4 x5) = _
  rw [decodeWord_27 (by simp)]
  simp [decodeVInt, accept, h]
theorem vsra (x0 : Reg) (x1 : Reg) (x2 : Reg) (x3 : BitVec 3) (x4 : BitVec 4) (x5 : BitVec 1) : Statement (.vsra x0 x1 x2 x3 x4 x5) := by
  intro _ h
  show decodeWord (Fmt.encV 27#6 x0 x1 x2 x3 6#3 x4 x5) = _
  rw [decodeWord_27 (by simp)]
  simp [decodeVInt, accept, h]
theorem vcmp (x0 : Reg) (x1 : Reg) (x2 : Reg) (x3 : BitVec 3) : Statement (.vcmp x0 x1 x2 x3) := by
  intro _ h
  show decodeWord (Fmt.encV 28#6 x0 x1 x2 x3 0#3 0#4 0#1) = _
  rw [decodeWord_28 (by simp)]
  simp [decodeVLogic, accept, h]
theorem vsel (x0 : Reg) (x1 : Reg) (x2 : Reg) (x3 : BitVec 3) : Statement (.vsel x0 x1 x2 x3) := by
  intro _ h
  show decodeWord (Fmt.encV 28#6 x0 x1 x2 0#3 1#3 (0#1 ++ x3) 0#1) = _
  rw [decodeWord_28 (by simp)]
  simp [decodeVLogic, accept, h]
theorem vand (x0 : Reg) (x1 : Reg) (x2 : Reg) : Statement (.vand x0 x1 x2) := by
  intro _ h
  show decodeWord (Fmt.encV 28#6 x0 x1 x2 0#3 2#3 0#4 0#1) = _
  rw [decodeWord_28 (by simp)]
  simp [decodeVLogic, accept, h]
theorem vor (x0 : Reg) (x1 : Reg) (x2 : Reg) : Statement (.vor x0 x1 x2) := by
  intro _ h
  show decodeWord (Fmt.encV 28#6 x0 x1 x2 0#3 3#3 0#4 0#1) = _
  rw [decodeWord_28 (by simp)]
  simp [decodeVLogic, accept, h]
theorem vxor (x0 : Reg) (x1 : Reg) (x2 : Reg) : Statement (.vxor x0 x1 x2) := by
  intro _ h
  show decodeWord (Fmt.encV 28#6 x0 x1 x2 0#3 4#3 0#4 0#1) = _
  rw [decodeWord_28 (by simp)]
  simp [decodeVLogic, accept, h]
theorem kand (x0 : Reg) (x1 : Reg) (x2 : Reg) : Statement (.kand x0 x1 x2) := by
  intro _ h
  show decodeWord (Fmt.encV 28#6 x0 x1 x2 0#3 5#3 0#4 0#1) = _
  rw [decodeWord_28 (by simp)]
  simp [decodeVLogic, accept, h]
theorem kor (x0 : Reg) (x1 : Reg) (x2 : Reg) : Statement (.kor x0 x1 x2) := by
  intro _ h
  show decodeWord (Fmt.encV 28#6 x0 x1 x2 1#3 5#3 0#4 0#1) = _
  rw [decodeWord_28 (by simp)]
  simp [decodeVLogic, accept, h]
theorem knot (x0 : Reg) (x1 : Reg) : Statement (.knot x0 x1) := by
  intro _ h
  show decodeWord (Fmt.encV 28#6 x0 x1 0#5 2#3 5#3 0#4 0#1) = _
  rw [decodeWord_28 (by simp)]
  simp [decodeVLogic, accept, h]
theorem kpopc (x0 : Reg) (x1 : Reg) : Statement (.kpopc x0 x1) := by
  intro _ h
  show decodeWord (Fmt.encV 28#6 x0 x1 0#5 3#3 5#3 0#4 0#1) = _
  rw [decodeWord_28 (by simp)]
  simp [decodeVLogic, accept, h]
theorem vgrant (x0 : Reg) (x1 : Reg) (x2 : BitVec 3) : Statement (.vgrant x0 x1 x2) := by
  intro _ h
  show decodeWord (Fmt.encV 28#6 x0 x1 0#5 x2 6#3 0#4 0#1) = _
  rw [decodeWord_28 (by simp)]
  simp [decodeVLogic, accept, h]
theorem vredadd (x0 : Reg) (x1 : Reg) (x2 : BitVec 3) : Statement (.vredadd x0 x1 x2) := by
  intro _ h
  show decodeWord (Fmt.encV 29#6 x0 x1 0#5 x2 0#3 0#4 0#1) = _
  rw [decodeWord_29 (by simp)]
  simp [decodeVPerm, accept, h]
theorem vredmax (x0 : Reg) (x1 : Reg) (x2 : BitVec 3) : Statement (.vredmax x0 x1 x2) := by
  intro _ h
  show decodeWord (Fmt.encV 29#6 x0 x1 0#5 x2 1#3 0#4 0#1) = _
  rw [decodeWord_29 (by simp)]
  simp [decodeVPerm, accept, h]
theorem vredmin (x0 : Reg) (x1 : Reg) (x2 : BitVec 3) : Statement (.vredmin x0 x1 x2) := by
  intro _ h
  show decodeWord (Fmt.encV 29#6 x0 x1 0#5 x2 2#3 0#4 0#1) = _
  rw [decodeWord_29 (by simp)]
  simp [decodeVPerm, accept, h]
theorem vperm (x0 : Reg) (x1 : Reg) (x2 : Reg) : Statement (.vperm x0 x1 x2) := by
  intro _ h
  show decodeWord (Fmt.encV 29#6 x0 x1 x2 0#3 3#3 0#4 0#1) = _
  rw [decodeWord_29 (by simp)]
  simp [decodeVPerm, accept, h]
theorem vslide (x0 : Reg) (x1 : Reg) (x2 : Reg) : Statement (.vslide x0 x1 x2) := by
  intro _ h
  show decodeWord (Fmt.encV 29#6 x0 x1 x2 0#3 4#3 0#4 0#1) = _
  rw [decodeWord_29 (by simp)]
  simp [decodeVPerm, accept, h]
theorem vbcast (x0 : Reg) (x1 : Reg) : Statement (.vbcast x0 x1) := by
  intro _ h
  show decodeWord (Fmt.encV 29#6 x0 x1 0#5 0#3 5#3 0#4 0#1) = _
  rw [decodeWord_29 (by simp)]
  simp [decodeVPerm, accept, h]
theorem vextr (x0 : Reg) (x1 : Reg) (x2 : Reg) : Statement (.vextr x0 x1 x2) := by
  intro _ h
  show decodeWord (Fmt.encV 29#6 x0 x1 x2 0#3 6#3 0#4 0#1) = _
  rw [decodeWord_29 (by simp)]
  simp [decodeVPerm, accept, h]
theorem vins (x0 : Reg) (x1 : Reg) (x2 : Reg) : Statement (.vins x0 x1 x2) := by
  intro _ h
  show decodeWord (Fmt.encV 29#6 x0 x1 x2 0#3 7#3 0#4 0#1) = _
  rw [decodeWord_29 (by simp)]
  simp [decodeVPerm, accept, h]
theorem nput (x0 : Reg) (x1 : BitVec 3) (x2 : BitVec 6) : Statement (.nput x0 x1 x2) := by
  intro _ h
  show decodeWord (Fmt.encRR 30#6 0#5 x0 (0#2 ++ x1) 0#5 x2) = _
  rw [decodeWord_30 (by simp)]
  simp [decodeLink, accept, h]
theorem nget (x0 : Reg) (x1 : BitVec 3) : Statement (.nget x0 x1) := by
  intro _ h
  show decodeWord (Fmt.encRR 30#6 x0 0#5 (0#2 ++ x1) 1#5 0#6) = _
  rw [decodeWord_30 (by simp)]
  simp [decodeLink, accept, h]
theorem ntry (x0 : Reg) (x1 : BitVec 3) : Statement (.ntry x0 x1) := by
  intro _ h
  show decodeWord (Fmt.encRR 30#6 x0 0#5 (0#2 ++ x1) 2#5 0#6) = _
  rw [decodeWord_30 (by simp)]
  simp [decodeLink, accept, h]
theorem ntryPut (x0 : Reg) (x1 : Reg) (x2 : BitVec 3) (x3 : BitVec 6) : Statement (.ntryPut x0 x1 x2 x3) := by
  intro _ h
  show decodeWord (Fmt.encRR 30#6 x0 x1 (2#2 ++ x2) 2#5 x3) = _
  rw [decodeWord_30 (by simp)]
  simp [decodeLink, accept, h]
theorem nclr (x0 : BitVec 3) : Statement (.nclr x0) := by
  intro _ h
  show decodeWord (Fmt.encRR 30#6 0#5 0#5 (0#2 ++ x0) 3#5 0#6) = _
  rw [decodeWord_30 (by simp)]
  simp [decodeLink, accept, h]
theorem cmps (x0 : BitVec 2) : Statement (.cmps x0) := by
  intro _ h
  show decodeWord (Fmt.encRR 31#6 0#5 0#5 0#5 0#5 (0#4 ++ x0)) = _
  rw [decodeWord_31 (by simp)]
  simp [decodeCompose, accept, h]
theorem dcmp : Statement .dcmp := by
  intro _ h
  show decodeWord (Fmt.encRR 31#6 0#5 0#5 0#5 1#5 0#6) = _
  rw [decodeWord_31 (by simp)]
  simp [decodeCompose, accept, h]
theorem mgang (x0 : BitVec 1) : Statement (.mgang x0) := by
  intro _ h
  show decodeWord (Fmt.encM 32#6 0#5 0#5 0#5 0#3 (0#7 ++ x0)) = _
  rw [decodeWord_32 (by simp)]
  simp [decodeMCtl, accept, h]
theorem mwait (x0 : BitVec 8) : Statement (.mwait x0) := by
  intro _ h
  show decodeWord (Fmt.encM 32#6 0#5 0#5 0#5 1#3 x0) = _
  rw [decodeWord_32 (by simp)]
  simp [decodeMCtl, accept, h]
theorem mzero (x0 : BitVec 1) (x1 : BitVec 8) : Statement (.mzero x0 x1) := by
  intro _ h
  show decodeWord (Fmt.encM 32#6 0#5 (0#4 ++ x0) 0#5 2#3 x1) = _
  rw [decodeWord_32 (by simp)]
  simp [decodeMCtl, accept, h]
theorem mmov (x0 : Reg) (x1 : Reg) (x2 : BitVec 1) (x3 : BitVec 1) (x4 : BitVec 1) (x5 : Reg) : Statement (.mmov x0 x1 x2 x3 x4 x5) := by
  intro _ h
  show decodeWord (Fmt.encM 32#6 x0 x1 0#5 3#3 (x2 ++ x3 ++ x4 ++ x5)) = _
  rw [decodeWord_32 (by simp)]
  simp [decodeMCtl, accept, h]
theorem mlda (x0 : Reg) (x1 : Reg) (x2 : Reg) (x3 : BitVec 1) (x4 : BitVec 1) (x5 : BitVec 1) : Statement (.mlda x0 x1 x2 x3 x4 x5) := by
  intro _ h
  show decodeWord (Fmt.encM 33#6 x0 x1 x2 0#3 (x3 ++ x4 ++ 0#1 ++ x5 ++ 0#4)) = _
  rw [decodeWord_33 (by simp)]
  simp [decodeMMem, accept, h]
theorem mldb (x0 : Reg) (x1 : Reg) (x2 : Reg) (x3 : BitVec 1) : Statement (.mldb x0 x1 x2 x3) := by
  intro _ h
  show decodeWord (Fmt.encM 33#6 x0 x1 x2 1#3 (0#3 ++ x3 ++ 0#4)) = _
  rw [decodeWord_33 (by simp)]
  simp [decodeMMem, accept, h]
theorem mstd (x0 : Reg) (x1 : Reg) (x2 : Reg) (x3 : BitVec 1) (x4 : BitVec 1) : Statement (.mstd x0 x1 x2 x3 x4) := by
  intro _ h
  show decodeWord (Fmt.encM 33#6 x0 x1 x2 2#3 (x3 ++ 0#2 ++ x4 ++ 0#4)) = _
  rw [decodeWord_33 (by simp)]
  simp [decodeMMem, accept, h]
theorem mma (x0 : Reg) (x1 : Reg) (x2 : BitVec 1) (x3 : BitVec 1) (x4 : BitVec 1) (x5 : BitVec 3) : Statement (.mma x0 x1 x2 x3 x4 x5) := by
  intro _ h
  show decodeWord (Fmt.encM 34#6 x0 x1 0#5 0#3 (x2 ++ x3 ++ x4 ++ x5 ++ 0#2)) = _
  rw [decodeWord_34 (by simp)]
  simp [decodeMDense, accept, h]
theorem mcb (x0 : Reg) (x1 : Reg) (x2 : BitVec 1) (x3 : BitVec 1) (x4 : BitVec 1) (x5 : BitVec 3) : Statement (.mcb x0 x1 x2 x3 x4 x5) := by
  intro _ h
  show decodeWord (Fmt.encM 34#6 x0 x1 0#5 1#3 (x2 ++ x3 ++ x4 ++ x5 ++ 0#2)) = _
  rw [decodeWord_34 (by simp)]
  simp [decodeMDense, accept, h]
theorem mmx (x0 : Reg) (x1 : BitVec 1) (x2 : BitVec 1) (x3 : BitVec 3) (x4 : BitVec 3) : Statement (.mmx x0 x1 x2 x3 x4) := by
  intro _ h
  show decodeWord (Fmt.encM 35#6 0#5 x0 0#5 0#3 (x1 ++ x2 ++ x3 ++ x4)) = _
  rw [decodeWord_35 (by simp)]
  simp [decodeMMx, accept, h]
theorem msca (x0 : Reg) (x1 : Reg) (x2 : BitVec 1) (x3 : BitVec 1) (x4 : BitVec 3) (x5 : BitVec 3) : Statement (.msca x0 x1 x2 x3 x4 x5) := by
  intro _ h
  show decodeWord (Fmt.encM 35#6 x0 x1 0#5 1#3 (x2 ++ x3 ++ x4 ++ x5)) = _
  rw [decodeWord_35 (by simp)]
  simp [decodeMMx, accept, h]
theorem qpush (x0 : Reg) (x1 : BitVec 3) (x2 : BitVec 6) : Statement (.qpush x0 x1 x2) := by
  intro _ h
  show decodeWord (Fmt.encRR 36#6 0#5 x0 (0#2 ++ x1) 0#5 x2) = _
  rw [decodeWord_36 (by simp)]
  simp [decodeQueue, accept, h]
theorem qpop (x0 : Reg) (x1 : BitVec 3) : Statement (.qpop x0 x1) := by
  intro _ h
  show decodeWord (Fmt.encRR 36#6 x0 0#5 (0#2 ++ x1) 1#5 0#6) = _
  rw [decodeWord_36 (by simp)]
  simp [decodeQueue, accept, h]
theorem qpopAq (x0 : Reg) (x1 : BitVec 2) : Statement (.qpopAq x0 x1) := by
  intro _ h
  have e : ∀ y : BitVec 2, BitVec.extractLsb' 3 2 (2#3 ++ y) ≠ 0#2 := by decide
  show decodeWord (Fmt.encRR 36#6 x0 0#5 (2#3 ++ x1) 1#5 0#6) = _
  rw [decodeWord_36 (by simp)]
  simp [decodeQueue, accept, h, e]
theorem qtry (x0 : Reg) (x1 : BitVec 3) : Statement (.qtry x0 x1) := by
  intro _ h
  show decodeWord (Fmt.encRR 36#6 x0 0#5 (0#2 ++ x1) 2#5 0#6) = _
  rw [decodeWord_36 (by simp)]
  simp [decodeQueue, accept, h]
theorem qtryAq (x0 : Reg) (x1 : BitVec 2) : Statement (.qtryAq x0 x1) := by
  intro _ h
  have e : ∀ y : BitVec 2, BitVec.extractLsb' 3 2 (2#3 ++ y) ≠ 0#2 := by decide
  show decodeWord (Fmt.encRR 36#6 x0 0#5 (2#3 ++ x1) 2#5 0#6) = _
  rw [decodeWord_36 (by simp)]
  simp [decodeQueue, accept, h, e]
theorem qputt (x0 : Reg) (x1 : Reg) (x2 : BitVec 3) (x3 : BitVec 6) : Statement (.qputt x0 x1 x2 x3) := by
  intro _ h
  show decodeWord (Fmt.encRR 36#6 x0 x1 (0#2 ++ x2) 3#5 x3) = _
  rw [decodeWord_36 (by simp)]
  simp [decodeQueue, accept, h]
theorem qdepth (x0 : Reg) (x1 : BitVec 3) : Statement (.qdepth x0 x1) := by
  intro _ h
  show decodeWord (Fmt.encRR 36#6 x0 0#5 (0#2 ++ x1) 4#5 0#6) = _
  rw [decodeWord_36 (by simp)]
  simp [decodeQueue, accept, h]
theorem qdepthAq (x0 : Reg) (x1 : BitVec 2) : Statement (.qdepthAq x0 x1) := by
  intro _ h
  have e : ∀ y : BitVec 2, BitVec.extractLsb' 3 2 (2#3 ++ y) ≠ 0#2 := by decide
  show decodeWord (Fmt.encRR 36#6 x0 0#5 (2#3 ++ x1) 4#5 0#6) = _
  rw [decodeWord_36 (by simp)]
  simp [decodeQueue, accept, h, e]
theorem send (x0 : Reg) (x1 : Reg) : Statement (.send x0 x1) := by
  intro _ h
  show decodeWord (Fmt.encRR 37#6 0#5 x0 x1 0#5 0#6) = _
  rw [decodeWord_37 (by simp)]
  simp [decodeMessage, accept, h]
theorem sendt (x0 : Reg) (x1 : Reg) (x2 : Reg) : Statement (.sendt x0 x1 x2) := by
  intro _ h
  show decodeWord (Fmt.encRR 37#6 x0 x1 x2 1#5 0#6) = _
  rw [decodeWord_37 (by simp)]
  simp [decodeMessage, accept, h]
theorem recv (x0 : Reg) (x1 : BitVec 2) : Statement (.recv x0 x1) := by
  intro _ h
  show decodeWord (Fmt.encRR 37#6 x0 0#5 0#5 2#5 (0#4 ++ x1)) = _
  rw [decodeWord_37 (by simp)]
  simp [decodeMessage, accept, h]
theorem recvt (x0 : Reg) (x1 : BitVec 2) : Statement (.recvt x0 x1) := by
  intro _ h
  show decodeWord (Fmt.encRR 37#6 x0 0#5 0#5 3#5 (0#4 ++ x1)) = _
  rw [decodeWord_37 (by simp)]
  simp [decodeMessage, accept, h]
theorem hret : Statement .hret := by
  intro _ h
  show decodeWord (Fmt.encRR 37#6 0#5 0#5 0#5 4#5 0#6) = _
  rw [decodeWord_37 (by simp)]
  simp [decodeMessage, accept, h]
theorem gust (x0 : Reg) : Statement (.gust x0) := by
  intro _ h
  show decodeWord (Fmt.encRR 38#6 0#5 x0 0#5 0#5 0#6) = _
  rw [decodeWord_38 (by simp)]
  simp [decodeGust, accept, h]
theorem gspawn (x0 : Reg) : Statement (.gspawn x0) := by
  intro _ h
  show decodeWord (Fmt.encRR 38#6 0#5 x0 0#5 1#5 0#6) = _
  rw [decodeWord_38 (by simp)]
  simp [decodeGust, accept, h]
theorem repb (x0 : Reg) : Statement (.repb x0) := by
  intro _ h
  show decodeWord (Fmt.encRR 39#6 0#5 0#5 0#5 0#5 (0#1 ++ x0)) = _
  rw [decodeWord_39 (by simp)]
  simp [decodeRep, accept, h]
theorem repe (x0 : Reg) (x1 : Reg) : Statement (.repe x0 x1) := by
  intro _ h
  show decodeWord (Fmt.encRR 39#6 0#5 x0 0#5 1#5 (0#1 ++ x1)) = _
  rw [decodeWord_39 (by simp)]
  simp [decodeRep, accept, h]
theorem repwait : Statement .repwait := by
  intro _ h
  show decodeWord (Fmt.encRR 39#6 0#5 0#5 0#5 2#5 0#6) = _
  rw [decodeWord_39 (by simp)]
  simp [decodeRep, accept, h]
theorem cpy (x0 : Reg) (x1 : Reg) (x2 : Reg) (x3 : BitVec 2) (x4 : BitVec 2) (x5 : BitVec 2) : Statement (.cpy x0 x1 x2 x3 x4 x5) := by
  intro _ h
  show decodeWord (Fmt.encRR 40#6 x0 x1 x2 0#5 (x3 ++ x4 ++ x5)) = _
  rw [decodeWord_40 (by simp)]
  simp [decodeCopy, accept, h]
theorem cpy2d (x0 : Reg) (x1 : Reg) (x2 : Reg) (x3 : BitVec 2) (x4 : BitVec 2) (x5 : BitVec 2) : Statement (.cpy2d x0 x1 x2 x3 x4 x5) := by
  intro _ h
  show decodeWord (Fmt.encRR 40#6 x0 x1 x2 1#5 (x3 ++ x4 ++ x5)) = _
  rw [decodeWord_40 (by simp)]
  simp [decodeCopy, accept, h]
theorem cpyn (x0 : Reg) (x1 : Reg) (x2 : Reg) (x3 : BitVec 2) (x4 : BitVec 2) (x5 : BitVec 2) : Statement (.cpyn x0 x1 x2 x3 x4 x5) := by
  intro _ h
  show decodeWord (Fmt.encRR 40#6 x0 x1 x2 2#5 (x3 ++ x4 ++ x5)) = _
  rw [decodeWord_40 (by simp)]
  simp [decodeCopy, accept, h]
theorem batch (x0 : BitVec 2) : Statement (.batch x0) := by
  intro _ h
  show decodeWord (Fmt.encRR 40#6 0#5 0#5 0#5 3#5 (x0 ++ 0#4)) = _
  rw [decodeWord_40 (by simp)]
  simp [decodeCopy, accept, h]
theorem coll (x0 : Reg) (x1 : Reg) (x2 : Reg) (x3 : BitVec 3) : Statement (.coll x0 x1 x2 x3) := by
  intro _ h
  show decodeWord (Fmt.encRR 41#6 x0 x1 x2 0#5 (0#3 ++ x3)) = _
  rw [decodeWord_41 (by simp)]
  simp [decodeColl, accept, h]
theorem hashc (x0 : Reg) (x1 : Reg) (x2 : Reg) (x3 : BitVec 2) : Statement (.hashc x0 x1 x2 x3) := by
  intro _ h
  show decodeWord (Fmt.encRR 41#6 x0 x1 x2 1#5 (0#4 ++ x3)) = _
  rw [decodeWord_41 (by simp)]
  simp [decodeColl, accept, h]
theorem signc (x0 : Reg) (x1 : Reg) (x2 : BitVec 2) : Statement (.signc x0 x1 x2) := by
  intro _ h
  show decodeWord (Fmt.encRR 41#6 x0 x1 0#5 2#5 (0#4 ++ x2)) = _
  rw [decodeWord_41 (by simp)]
  simp [decodeColl, accept, h]
theorem rndg (x0 : Reg) : Statement (.rndg x0) := by
  intro _ h
  show decodeWord (Fmt.encRR 41#6 x0 0#5 0#5 3#5 0#6) = _
  rw [decodeWord_41 (by simp)]
  simp [decodeColl, accept, h]
theorem tlwait (x0 : Reg) (x1 : Reg) : Statement (.tlwait x0 x1) := by
  intro _ h
  show decodeWord (Fmt.encRR 42#6 0#5 x0 0#5 0#5 (0#1 ++ x1)) = _
  rw [decodeWord_42 (by simp)]
  simp [decodeCounter, accept, h]
theorem tlwaitb (x0 : Reg) (x1 : Reg) : Statement (.tlwaitb x0 x1) := by
  intro _ h
  show decodeWord (Fmt.encRR 42#6 0#5 0#5 x0 1#5 (0#1 ++ x1)) = _
  rw [decodeWord_42 (by simp)]
  simp [decodeCounter, accept, h]
theorem tlread (x0 : Reg) (x1 : BitVec 1) (x2 : Reg) : Statement (.tlread x0 x1 x2) := by
  intro _ h
  show decodeWord (Fmt.encRR 42#6 x0 0#5 0#5 2#5 (x1 ++ x2)) = _
  rw [decodeWord_42 (by simp)]
  simp [decodeCounter, accept, h]
theorem cntwait (x0 : Reg) (x1 : Reg) (x2 : Reg) : Statement (.cntwait x0 x1 x2) := by
  intro _ h
  show decodeWord (Fmt.encRR 42#6 x0 x1 x2 3#5 0#6) = _
  rw [decodeWord_42 (by simp)]
  simp [decodeCounter, accept, h]
theorem cancel (x0 : Reg) (x1 : BitVec 3) : Statement (.cancel x0 x1) := by
  intro _ h
  show decodeWord (Fmt.encRR 42#6 0#5 x0 0#5 4#5 (0#3 ++ x1)) = _
  rw [decodeWord_42 (by simp)]
  simp [decodeCounter, accept, h]
theorem phadv (x0 : Reg) : Statement (.phadv x0) := by
  intro _ h
  show decodeWord (Fmt.encRR 42#6 x0 0#5 0#5 5#5 0#6) = _
  rw [decodeWord_42 (by simp)]
  simp [decodeCounter, accept, h]
theorem phread (x0 : Reg) (x1 : Reg) : Statement (.phread x0 x1) := by
  intro _ h
  show decodeWord (Fmt.encRR 42#6 x0 x1 0#5 6#5 0#6) = _
  rw [decodeWord_42 (by simp)]
  simp [decodeCounter, accept, h]
theorem pcnt (x0 : Reg) (x1 : Reg) (x2 : Reg) (x3 : BitVec 2) : Statement (.pcnt x0 x1 x2 x3) := by
  intro _ h
  show decodeWord (Fmt.encRR 42#6 x0 x1 x2 7#5 (0#4 ++ x3)) = _
  rw [decodeWord_42 (by simp)]
  simp [decodeCounter, accept, h]
theorem launch (x0 : Reg) (x1 : Reg) : Statement (.launch x0 x1) := by
  intro _ h
  show decodeWord (Fmt.encRR 43#6 x0 x1 0#5 0#5 0#6) = _
  rw [decodeWord_43 (by simp)]
  simp [decodeLaunch, accept, h]
theorem cbload (x0 : Reg) (x1 : BitVec 3) : Statement (.cbload x0 x1) := by
  intro _ h
  show decodeWord (Fmt.encRR 44#6 0#5 x0 0#5 0#5 (0#3 ++ x1)) = _
  rw [decodeWord_44 (by simp)]
  simp [decodeTable, accept, h]
theorem htset (x0 : Reg) (x1 : Reg) : Statement (.htset x0 x1) := by
  intro _ h
  show decodeWord (Fmt.encRR 44#6 0#5 x0 x1 1#5 0#6) = _
  rw [decodeWord_44 (by simp)]
  simp [decodeTable, accept, h]
theorem epreq (x0 : Reg) (x1 : Reg) (x2 : BitVec 3) : Statement (.epreq x0 x1 x2) := by
  intro _ h
  show decodeWord (Fmt.encRR 44#6 x0 x1 0#5 2#5 (0#3 ++ x2)) = _
  rw [decodeWord_44 (by simp)]
  simp [decodeTable, accept, h]
theorem ownset (x0 : Reg) (x1 : Reg) : Statement (.ownset x0 x1) := by
  intro _ h
  show decodeWord (Fmt.encRR 44#6 0#5 x0 x1 3#5 0#6) = _
  rw [decodeWord_44 (by simp)]
  simp [decodeTable, accept, h]
theorem cmap (x0 : Reg) (x1 : Reg) (x2 : Reg) (x3 : BitVec 1) (x4 : BitVec 2) : Statement (.cmap x0 x1 x2 x3 x4) := by
  intro _ h
  show decodeWord (Fmt.encRR 44#6 x0 x1 x2 4#5 (0#3 ++ x3 ++ x4)) = _
  rw [decodeWord_44 (by simp)]
  simp [decodeTable, accept, h]
theorem urtset (x0 : Reg) (x1 : Reg) : Statement (.urtset x0 x1) := by
  intro _ h
  show decodeWord (Fmt.encRR 44#6 0#5 x0 x1 5#5 0#6) = _
  rw [decodeWord_44 (by simp)]
  simp [decodeTable, accept, h]
theorem schset (x0 : Reg) (x1 : Reg) (x2 : BitVec 1) : Statement (.schset x0 x1 x2) := by
  intro _ h
  show decodeWord (Fmt.encRR 44#6 0#5 x0 x1 6#5 (0#5 ++ x2)) = _
  rw [decodeWord_44 (by simp)]
  simp [decodeTable, accept, h]
theorem seqnew (x0 : Reg) : Statement (.seqnew x0) := by
  intro _ h
  show decodeWord (Fmt.encRR 44#6 x0 0#5 0#5 7#5 0#6) = _
  rw [decodeWord_44 (by simp)]
  simp [decodeTable, accept, h]
theorem seqend (x0 : Reg) : Statement (.seqend x0) := by
  intro _ h
  show decodeWord (Fmt.encRR 44#6 0#5 x0 0#5 8#5 0#6) = _
  rw [decodeWord_44 (by simp)]
  simp [decodeTable, accept, h]
theorem mext (x0 : Reg) (x1 : Reg) (x2 : BitVec 1) (x3 : BitVec 3) : Statement (.mext x0 x1 x2 x3) := by
  intro _ h
  show decodeWord (Fmt.encRR 44#6 0#5 x0 x1 9#5 (0#2 ++ x2 ++ x3)) = _
  rw [decodeWord_44 (by simp)]
  simp [decodeTable, accept, h]
theorem halign (x0 : Reg) (x1 : BitVec 16) : Statement (.halign x0 x1) := by
  intro _ h
  show decodeWord (Fmt.encRI 60#6 0#5 x0 x1) = _
  rw [decodeWord_60 (by simp)]
  simp [decodeHint]
theorem hpref (x0 : Reg) (x1 : BitVec 16) : Statement (.hpref x0 x1) := by
  intro _ h
  show decodeWord (Fmt.encRI 60#6 1#5 x0 x1) = _
  rw [decodeWord_60 (by simp)]
  simp [decodeHint]
theorem hevict (x0 : Reg) (x1 : BitVec 16) : Statement (.hevict x0 x1) := by
  intro _ h
  show decodeWord (Fmt.encRI 60#6 2#5 x0 x1) = _
  rw [decodeWord_60 (by simp)]
  simp [decodeHint]
theorem hprio (x0 : Reg) (x1 : BitVec 16) : Statement (.hprio x0 x1) := by
  intro _ h
  show decodeWord (Fmt.encRI 60#6 3#5 x0 x1) = _
  rw [decodeWord_60 (by simp)]
  simp [decodeHint]
theorem hlikely (x0 : Reg) (x1 : BitVec 16) : Statement (.hlikely x0 x1) := by
  intro _ h
  show decodeWord (Fmt.encRI 60#6 4#5 x0 x1) = _
  rw [decodeWord_60 (by simp)]
  simp [decodeHint]
theorem notAnInstructionWord (x0 : BitVec 32) : Statement (.notAnInstructionWord x0) := fun h => nomatch h
theorem asyncCauseTaken : Statement .asyncCauseTaken := fun h => nomatch h
theorem waitSatisfied : Statement .waitSatisfied := fun h => nomatch h
theorem faultReply : Statement .faultReply := fun h => nomatch h
theorem slotFill : Statement .slotFill := fun h => nomatch h
theorem gale : Statement .gale := fun h => nomatch h
theorem messageArrival : Statement .messageArrival := fun h => nomatch h
theorem gustArrival : Statement .gustArrival := fun h => nomatch h
theorem linkLanding : Statement .linkLanding := fun h => nomatch h
theorem queuePushLanding : Statement .queuePushLanding := fun h => nomatch h
theorem claspRelease : Statement .claspRelease := fun h => nomatch h
theorem gangTimeout : Statement .gangTimeout := fun h => nomatch h
theorem halignTimeout : Statement .halignTimeout := fun h => nomatch h
theorem matrixZeroingDone : Statement .matrixZeroingDone := fun h => nomatch h
theorem matrixOpComplete : Statement .matrixOpComplete := fun h => nomatch h
theorem dataStageComplete : Statement .dataStageComplete := fun h => nomatch h
theorem lockstepMismatch : Statement .lockstepMismatch := fun h => nomatch h
theorem bankRetention : Statement .bankRetention := fun h => nomatch h
theorem copyCommandComplete : Statement .copyCommandComplete := fun h => nomatch h
theorem collComplete : Statement .collComplete := fun h => nomatch h
theorem bezelEngineComplete : Statement .bezelEngineComplete := fun h => nomatch h
theorem rangeWalkComplete : Statement .rangeWalkComplete := fun h => nomatch h
theorem instanceCompletion : Statement .instanceCompletion := fun h => nomatch h
theorem nodeDispatch : Statement .nodeDispatch := fun h => nomatch h
theorem tailWatch : Statement .tailWatch := fun h => nomatch h
theorem nopCommand : Statement .nopCommand := fun h => nomatch h
theorem launchCommand : Statement .launchCommand := fun h => nomatch h
theorem graph : Statement .graph := fun h => nomatch h
theorem waitcnt : Statement .waitcnt := fun h => nomatch h
theorem signal : Statement .signal := fun h => nomatch h
theorem phaseCommand : Statement .phaseCommand := fun h => nomatch h
theorem cancelCommand : Statement .cancelCommand := fun h => nomatch h
theorem tick : Statement .tick := fun h => nomatch h
theorem preempt : Statement .preempt := fun h => nomatch h
theorem gphasePublish : Statement .gphasePublish := fun h => nomatch h
theorem drds : Statement .drds := fun h => nomatch h
theorem drdx : Statement .drdx := fun h => nomatch h
theorem dupg : Statement .dupg := fun h => nomatch h
theorem dwb : Statement .dwb := fun h => nomatch h
theorem devict : Statement .devict := fun h => nomatch h
theorem dfwds : Statement .dfwds := fun h => nomatch h
theorem dfwdx : Statement .dfwdx := fun h => nomatch h
theorem dinv : Statement .dinv := fun h => nomatch h
theorem drsp : Statement .drsp := fun h => nomatch h
theorem dcomp : Statement .dcomp := fun h => nomatch h
theorem ddone : Statement .ddone := fun h => nomatch h
theorem ddata : Statement .ddata := fun h => nomatch h
theorem snpShared : Statement .snpShared := fun h => nomatch h
theorem snpInv : Statement .snpInv := fun h => nomatch h
theorem inval : Statement .inval := fun h => nomatch h
theorem shootdownComplete : Statement .shootdownComplete := fun h => nomatch h
theorem wbAck : Statement .wbAck := fun h => nomatch h
theorem cmp : Statement .cmp := fun h => nomatch h
theorem atomicRsp : Statement .atomicRsp := fun h => nomatch h
theorem data : Statement .data := fun h => nomatch h
theorem hostlinkFail : Statement .hostlinkFail := fun h => nomatch h
theorem hostModuleFailover : Statement .hostModuleFailover := fun h => nomatch h
theorem d2dFail : Statement .d2dFail := fun h => nomatch h
theorem meshUe : Statement .meshUe := fun h => nomatch h
theorem sramUe : Statement .sramUe := fun h => nomatch h
theorem accUe : Statement .accUe := fun h => nomatch h
theorem paccUe : Statement .paccUe := fun h => nomatch h
theorem wbufUe : Statement .wbufUe := fun h => nomatch h
theorem abufParity : Statement .abufParity := fun h => nomatch h
theorem cbParity : Statement .cbParity := fun h => nomatch h
theorem rowBusCrc : Statement .rowBusCrc := fun h => nomatch h
theorem claspFault : Statement .claspFault := fun h => nomatch h
theorem regParity : Statement .regParity := fun h => nomatch h
theorem rowSwitch : Statement .rowSwitch := fun h => nomatch h
theorem keySweepComplete : Statement .keySweepComplete := fun h => nomatch h
theorem register : Statement .register := fun h => nomatch h
theorem teardown : Statement .teardown := fun h => nomatch h
theorem freeze : Statement .freeze := fun h => nomatch h
theorem drainComplete : Statement .drainComplete := fun h => nomatch h
theorem resume : Statement .resume := fun h => nomatch h
theorem spanRegion : Statement .spanRegion := fun h => nomatch h
theorem fwUpdate : Statement .fwUpdate := fun h => nomatch h
theorem spanJoin : Statement .spanJoin := fun h => nomatch h
theorem faultq : Statement .faultq := fun h => nomatch h
theorem sidebandRegisterWrite : Statement .sidebandRegisterWrite := fun h => nomatch h
theorem powerOn : Statement .powerOn := fun h => nomatch h
theorem reset : Statement .reset := fun h => nomatch h
theorem powerOff : Statement .powerOff := fun h => nomatch h
theorem powerMeasure : Statement .powerMeasure := fun h => nomatch h
theorem thermalTrip : Statement .thermalTrip := fun h => nomatch h
theorem rowGate : Statement .rowGate := fun h => nomatch h
theorem dieRetentionEntry : Statement .dieRetentionEntry := fun h => nomatch h
theorem dieRetentionExit : Statement .dieRetentionExit := fun h => nomatch h
theorem alarm : Statement .alarm := fun h => nomatch h
theorem getVersion : Statement .getVersion := fun h => nomatch h
theorem getCapabilities : Statement .getCapabilities := fun h => nomatch h
theorem negotiateAlgorithms : Statement .negotiateAlgorithms := fun h => nomatch h
theorem getDigests : Statement .getDigests := fun h => nomatch h
theorem getCertificate : Statement .getCertificate := fun h => nomatch h
theorem challenge : Statement .challenge := fun h => nomatch h
theorem getMeasurements : Statement .getMeasurements := fun h => nomatch h
theorem keyExchange : Statement .keyExchange := fun h => nomatch h
theorem finish : Statement .finish := fun h => nomatch h
theorem endSession : Statement .endSession := fun h => nomatch h
theorem lockInterface : Statement .lockInterface := fun h => nomatch h
theorem channelOpen : Statement .channelOpen := fun h => nomatch h
theorem channelRecord : Statement .channelRecord := fun h => nomatch h
theorem idcode : Statement .idcode := fun h => nomatch h
theorem auth : Statement .auth := fun h => nomatch h
theorem dbgReq : Statement .dbgReq := fun h => nomatch h
theorem frostEnter : Statement .frostEnter := fun h => nomatch h
theorem scanSelect : Statement .scanSelect := fun h => nomatch h
theorem scanRead : Statement .scanRead := fun h => nomatch h
theorem bypass : Statement .bypass := fun h => nomatch h
theorem spanFlit : Statement .spanFlit := fun h => nomatch h
theorem spanRetrain : Statement .spanRetrain := fun h => nomatch h
theorem pageReq : Statement .pageReq := fun h => nomatch h
theorem spanAtomic : Statement .spanAtomic := fun h => nomatch h
theorem spanLinkTimeout : Statement .spanLinkTimeout := fun h => nomatch h
theorem hostErrorAnswer : Statement .hostErrorAnswer := fun h => nomatch h
theorem hostProtocolError : Statement .hostProtocolError := fun h => nomatch h
theorem unknownManagementOp : Statement .unknownManagementOp := fun h => nomatch h
theorem unsupportedRequest : Statement .unsupportedRequest := fun h => nomatch h
theorem spanLinkRecovered : Statement .spanLinkRecovered := fun h => nomatch h
theorem correctedError : Statement .correctedError := fun h => nomatch h

end Sys2Proof.Laws.RoundTrip
end

