-- ==== Sys2Proof/Tests/Slice0.lean ====
section
/-!
SUPPORT. Tests: ill-formed terms that WellFormed refuses, words written out from the manual's encodings, single steps with results
worked out by hand from the manual, and for every statement with hypotheses states and operands that meet them.
-/

namespace Sys2Proof.Tests

open Machine

set_option Elab.async false

/-! ### Helpers -/

/-- The part after reset with one strand, Ready in slot `i` of core `c`, whose turn it is; the supervisor frame is filled like the
user's. -/
def ready (c i : Nat) (m : Bool := false) (u : Strand := {}) (k : Core := {}) : State :=
  let s : State := { State.reset with cur := (c, i), turns := [(c, i)] }
  (s.setCore c k).setSlotAt c i { status := .ready, mode := m, sw := u.w, u := u }

/-- The strand with some w registers set. -/
def regs (xs : List (Nat × Word)) (u : Strand := {}) : Strand :=
  { u with w := Vector.ofFn fun i => (AMap.get? xs i.val).getD 0 }

/-- Whether a state shows that a result is there. -/
theorem isOk_of {α : Type} {r : Res α} (h : r.toBool = true) : ∃ x, r = .ok x := by
  cases r with
  | ok x => exact ⟨x, rfl⟩
  | error e => cases h

/-- The state of a next outcome. -/
def after (o : Out) : State := match o with | .next t => t | _ => State.reset

/-! ### WellFormed refuses -/

/-- One ill-formed term for every check of WellFormed. -/
theorem test_wellformed_refuses : ∀ i ∈ [Instr.srd 8 13, .swr 8 22, .tlbinv 8 3, .tlbinv 8 1, .ctxsv 8 9 11, .ctxld 8 9 11,
    .beq 9 8 0, .beq 8 8 0, .bne 8 9 0, .fence 6 1, .fence 0 0, .fence 0 5, .pref 8 3, .vld 0 8 0 1, .vst 0 8 0 1, .vlds 0 8 9 0 1,
    .vsts 0 8 9 0 1, .vgath 1 8 1 1 0, .vgath 1 8 2 0 1, .vscat 1 8 1 0 1, .mod 0 3 0 0 0, .mod 0 0 0 6 0, .mod 0 0 0 0 5,
    .vadd 0 1 2 0 1 0, .vadd 0 1 2 0 0 1, .vsub 0 1 2 3 0 0, .vmul 0 1 2 6 8 0, .vfma 0 1 2 7 4 0, .vmin 0 1 2 1 4 0,
    .vmax 0 1 2 2 8 0, .vabs 0 1 0 4, .vneg 0 1 7 0, .vcvt 0 1 4, .vpack 0 1 1 3 4, .vpack 0 1 2 1 4, .vpack 0 1 0 7 4,
    .vunpack 0 1 1 4, .vunpack 0 1 7 4, .vunpack 0 1 3 8, .vqnt 0 1 2, .viadd 0 1 2 5 4 0, .visub 0 1 2 6 0 0, .vimul 0 1 2 7 4 0,
    .vimac 0 1 2 0 0 1, .vshl 0 1 2 1 0 0, .vshr 0 1 2 3 0 0, .vsra 0 1 2 5 0 0, .vcmp 8 0 1 0, .kand 8 0 0, .kand 0 8 0, .kor 0 0 8,
    .knot 8 0, .knot 0 8, .kpopc 8 8, .vgrant 8 0 6, .vgrant 8 1 5, .vredadd 8 0 2, .vredmax 8 0 3, .vredmin 8 0 3, .ntry 31 0,
    .ntry 7 0, .ntryPut 31 0 8 0, .cmps 0, .mzero 0 0, .mmov 0 8 0 0 0 0, .mlda 8 7 9 0 0 0, .mlda 8 30 9 0 0 0, .mstd 8 9 10 0 0,
    .mma 8 9 0 0 0 0, .mma 0 9 0 0 0 6, .mcb 8 9 0 0 0 0, .mmx 9 0 0 5 0, .mmx 9 0 0 3 1, .msca 8 9 0 0 0 0, .msca 0 9 0 0 5 0,
    .msca 0 9 0 0 4 1, .qtry 31 0, .qtryAq 7 0, .qputt 31 8 0 0, .send 7 9, .sendt 31 8 9, .sendt 8 7 9, .recv 25 1, .recv 8 3,
    .recvt 24 1, .recvt 8 3, .cpy 8 31 9 0 0 0, .cpy 8 9 9 0 3 0, .cpy 8 9 9 0 0 3, .cpy2d 8 30 9 0 0 0, .cpyn 8 29 9 0 0 0,
    .coll 8 31 9 0, .hashc 8 31 9 0, .tlwait 8 5, .tlwait 8 18, .tlwaitb 17 0, .tlwaitb 0 4, .tlread 8 0 7, .cancel 8 0, .cancel 8 6,
    .pcnt 8 9 0 3, .pcnt 8 9 10 0, .htset 30 8, .epreq 31 8 0, .epreq 8 31 0, .epreq 8 9 5, .ownset 29 8, .cmap 8 9 10 0 3,
    .cmap 8 9 10 0 0, .cmap 8 9 0 0 2, .cmap 0 9 10 0 2, .urtset 31 8, .schset 30 8 0, .mext 8 9 0 0], i.wf = false := by
  decide +kernel

/-! ### Decoding (the words of the manual's own examples, and words laid out by hand from its formats) -/

theorem test_decode_scalar :
    decodeWord (0x01#6 ++ 8#5 ++ 9#5 ++ 10#5 ++ 1#5 ++ 0#6) = .ok (.sub 8 9 10) ∧
    decodeWord (0x02#6 ++ 8#5 ++ 9#5 ++ 0xFFFF#16) = .ok (.addi 8 9 0xFFFF) ∧
    decodeWord (0x06#6 ++ 8#5 ++ 9#5 ++ 0#6 ++ 2#2 ++ 0#2 ++ 63#6) = .ok (.srai 8 9 63) ∧
    decodeWord (0x09#6 ++ 8#5 ++ 1#5 ++ 3#16) = .ok (.addpc 8 3) ∧
    decodeWord 0x2908C000#32 = .ok (.mul 8 8 24) ∧ decodeWord 0x21280002#32 = .ok (.cmplti 9 8 2) ∧
    decodeWord (0x0B#6 ++ 8#5 ++ 9#5 ++ 10#5 ++ 3#5 ++ 0#6) = .ok (.ffma 8 9 10) := ⟨rfl, rfl, rfl, rfl, rfl, rfl, rfl⟩

theorem test_decode_control :
    decodeWord 0x31200005#32 = .ok (.bne 9 0 5) ∧ decodeWord 0x47FFFFFD#32 = .ok (.call 0x3FFFFFD) ∧
    decodeWord 0x3C002000#32 = .ok .ret ∧ decodeWord 0x00001805#32 = .ok (.trap 5) ∧ decodeWord 0x00002000#32 = .ok .eret ∧
    decodeWord 0x00003800#32 = .ok .exit ∧ decodeWord 0x01600802#32 = .ok (.srd 11 2) ∧ decodeWord 0x000C1002#32 = .ok (.swr 12 2) ∧
    decodeWord (0x0C#6 ++ 8#5 ++ 8#5 ++ 4#16) = .ok (.jl 8 4) ∧ decodeWord (0x10#6 ++ 5#26) = .ok (.j 5) ∧
    decodeWord (0x3C#6 ++ 2#5 ++ 9#5 ++ 4#16) = .ok (.hevict 9 4) := ⟨rfl, rfl, rfl, rfl, rfl, rfl, rfl, rfl, rfl, rfl, rfl⟩

theorem test_decode_memory :
    decodeWord (0x12#6 ++ 8#5 ++ 9#5 ++ 4#3 ++ 0x1FFC#13) = .ok (.ldw 8 9 0x1FFC) ∧
    decodeWord (0x13#6 ++ 8#5 ++ 9#5 ++ 3#3 ++ 8#13) = .ok (.std 8 9 8) ∧
    decodeWord 0x516C6800#32 = .ok (.amoadd 11 12 13 0) ∧ decodeWord 0x5C000C22#32 = .ok (.mod 3 0 0 4 2) ∧
    decodeWord 0x514E7A20#32 = .ok (.amoswp 10 14 15 1) ∧ decodeWord 0x54000022#32 = .ok (.fence 4 2) ∧
    decodeWord 0x554C0060#32 = .ok (.waita 10 12 0 1) ∧ decodeWord (0x18#6 ++ 7#26) = .ok (.ext 7) := ⟨rfl, rfl, rfl, rfl, rfl, rfl, rfl, rfl⟩

theorem test_decode_vector :
    decodeWord 0x64221860#32 = .ok (.vfma 1 2 3 0 0 0) ∧ decodeWord 0x64853716#32 = .ok (.vadd 4 5 6 7 0xB 0) ∧
    decodeWord (0x1B#6 ++ 1#5 ++ 2#5 ++ 3#5 ++ 5#3 ++ 2#3 ++ 0#5) = .ok (.vimul 1 2 3 5 0 0) ∧
    decodeWord (0x1C#6 ++ 8#5 ++ 2#5 ++ 0#5 ++ 3#3 ++ 5#3 ++ 0#5) = .ok (.kpopc 8 2) ∧
    decodeWord (0x1D#6 ++ 8#5 ++ 2#5 ++ 9#5 ++ 0#3 ++ 6#3 ++ 0#5) = .ok (.vextr 8 2 9) ∧
    decodeWord (0x1A#6 ++ 1#5 ++ 2#5 ++ 0#5 ++ 0#3 ++ 2#3 ++ 0#5) = .ok (.vexp2 1 2) := ⟨rfl, rfl, rfl, rfl, rfl, rfl⟩

theorem test_decode_matrix :
    decodeWord 0x80000101#32 = .ok (.mwait 1) ∧ decodeWord 0x80000201#32 = .ok (.mzero 0 1) ∧
    decodeWord 0x80620325#32 = .ok (.mmov 3 2 0 0 1 5) ∧ decodeWord 0x88100080#32 = .ok (.mma 0 16 1 0 0 0) := ⟨rfl, rfl, rfl, rfl⟩

theorem test_decode_links_and_messages :
    decodeWord 0x780B0001#32 = .ok (.nput 11 0 1) ∧ decodeWord 0x79600040#32 = .ok (.nget 11 0) ∧
    decodeWord 0x900B1000#32 = .ok (.qpush 11 2 0) ∧ decodeWord 0x91A01040#32 = .ok (.qpop 13 2) ∧
    decodeWord 0x91404880#32 = .ok (.qtryAq 10 1) ∧ decodeWord (0x25#6 ++ 0#15 ++ 4#5 ++ 0#6) = .ok .hret ∧
    decodeWord (0x1F#6 ++ 0#15 ++ 1#5 ++ 0#6) = .ok .dcmp ∧ decodeWord (0x27#6 ++ 0#15 ++ 2#5 ++ 0#6) = .ok .repwait :=
  ⟨rfl, rfl, rfl, rfl, rfl, rfl, rfl, rfl⟩

theorem test_decode_engines :
    decodeWord 0xA00000D0#32 = .ok (.batch 1) ∧ decodeWord 0xA8000841#32 = .ok (.tlwaitb 1 1) ∧
    decodeWord 0xA80A0000#32 = .ok (.tlwait 10 0) ∧ decodeWord 0xA9600080#32 = .ok (.tlread 11 0 0) ∧
    decodeWord 0xA94C68C0#32 = .ok (.cntwait 10 12 13) ∧ decodeWord 0xA80C0102#32 = .ok (.cancel 12 2) ∧
    decodeWord 0xA96A0180#32 = .ok (.phread 11 10) ∧ decodeWord 0xA96C01C0#32 = .ok (.pcnt 11 12 0 0) ∧
    decodeWord 0xA9400140#32 = .ok (.phadv 10) ∧ decodeWord (0x2C#6 ++ 8#5 ++ 0#10 ++ 7#5 ++ 0#6) = .ok (.seqnew 8) :=
  ⟨rfl, rfl, rfl, rfl, rfl, rfl, rfl, rfl, rfl, rfl⟩

/-- Words that are no instruction: a reserved major, an unassigned op, an unused field that is not zero. -/
theorem test_decode_refuses :
    decodeWord 0xB4000000#32 = .error .reservedMajor ∧ decodeWord (0x01#6 ++ 0#15 ++ 21#5 ++ 0#6) = .error .function ∧
    decodeWord (0x01#6 ++ 8#5 ++ 9#5 ++ 1#5 ++ 12#5 ++ 0#6) = .error .function ∧ decodeWord 0#32 = .error .zeroWord ∧
    decodeWord 0xFFFFFFFF#32 = .error .onesWord := ⟨rfl, rfl, rfl, rfl, rfl⟩

/-! ### Single steps, with results worked out by hand -/

/-- A user strand on M-core 0 with some registers. -/
def user (xs : List (Nat × Word)) : State := ready 0 0 false (regs xs)

/-- R117: 2^64 − 1 plus 2 wraps to 1, and the pc moves on. -/
theorem test_add_wraps : (after (exec (.add 8 9 10) (user [(1, 0xFFFFFFFFFFFFFFFF), (2, 2)]))).reg 8 = 1 ∧
    (after (exec (.add 8 9 10) (user []))).pc = 4 := by decide +kernel
/-- R117: −8 shifted right arithmetically by 65 mod 64 = 1 is −4. -/
theorem test_sra_amount : (after (exec (.sra 8 9 10) (user [(1, 0xFFFFFFFFFFFFFFF8), (2, 65)]))).reg 8 = 0xFFFFFFFFFFFFFFFC := by
  decide +kernel
/-- R117: 1 rotated right by 1 is bit 63. -/
theorem test_rot : (after (exec (.rot 8 9 10) (user [(1, 1), (2, 1)]))).reg 8 = 0x8000000000000000 := by decide +kernel
/-- R117: SEL reads the old destination as its condition. -/
theorem test_sel_old : (after (exec (.sel 8 9 10) (user [(0, 1), (1, 5), (2, 6)]))).reg 8 = 5 ∧
    (after (exec (.sel 8 9 10) (user [(0, 0), (1, 5), (2, 6)]))).reg 8 = 6 := by decide +kernel
/-- R84, R118: ADDI of −1 behind an EXT of 1 adds 2^16 + 65,535. -/
theorem test_addi_ext :
    (after (exec (.addi 8 9 0xFFFF) (after (exec (.ext 1) (user []))))).reg 8 = 0x1FFFF ∧
    (after (exec (.addi 8 9 0xFFFF) (user []))).reg 8 = 0xFFFFFFFFFFFFFFFF := by decide +kernel
/-- R119: the high half of −1 × −1 is 0 signed and 2^64 − 2 unsigned. -/
theorem test_mulh : (after (exec (.mulh 8 9 9) (user [(1, 0xFFFFFFFFFFFFFFFF)]))).reg 8 = 0 ∧
    (after (exec (.mulhu 8 9 9) (user [(1, 0xFFFFFFFFFFFFFFFF)]))).reg 8 = 0xFFFFFFFFFFFFFFFE := by decide +kernel
/-- R50: −7 by 2 is −3, remainder −1. -/
theorem test_division_truncates : (after (exec (.div 8 9 10) (user [(1, 0xFFFFFFFFFFFFFFF9), (2, 2)]))).reg 8 = 0xFFFFFFFFFFFFFFFD ∧
    (after (exec (.rem 8 9 10) (user [(1, 0xFFFFFFFFFFFFFFF9), (2, 2)]))).reg 8 = 0xFFFFFFFFFFFFFFFF := by decide +kernel
/-- R120: 2^24 + 1 in FP32 is a tie to the even 2^24 and raises NX; bits [63:32] of the sources are ignored. -/
theorem test_fadd_tie : (after (exec (.fadd 8 9 10) (user [(1, 0xFFFFFFFF4B800000), (2, 0x3F800000)]))).reg 8 = 0x4B800000 ∧
    bits (after (exec (.fadd 8 9 10) (user [(1, 0x4B800000), (2, 0x3F800000)]))).u.fpctl 12 12 = 1 := by decide +kernel
/-- R120: 1 / 0 is +∞. -/
theorem test_fdiv_zero : (after (exec (.fdiv 8 9 10) (user [(1, 0x3F800000), (2, 0)]))).reg 8 = 0x7F800000 := by decide +kernel
/-- R122: a taken branch goes back from address 8 by one word. -/
theorem test_branch_back : (after (exec (.beq 0 8 0xFFFF) (ready 0 0 false { pc := 8 }))).pc = 4 ∧
    (after (exec (.bne 8 0 0xFFFF) (ready 0 0 false { pc := 8 }))).pc = 12 := by decide +kernel
/-- R125: the callee's w0 is the caller's w16, and its w8 is zero. -/
theorem test_call_window : (after (exec (.call 3) (user [(16, 7), (8, 9)]))).reg 8 = 7 ∧
    (after (exec (.call 3) (user [(16, 7), (8, 9)]))).reg 16 = 0 ∧ (after (exec (.call 3) (user []))).u.rpc = 4 := by decide +kernel
/-- R125: RET in the base frame with nothing spilled is RET_EMPTY. -/
theorem test_ret_empty : bits (after (exec .ret (user []))).slot.ecause 6 0 = Cause.retEmpty.code := by decide +kernel
/-- R127, R366: TRAP #5 in user mode at address 8: EPC 8, INFO 5, PREC set, PMODE user, PIE set. -/
theorem test_trap_entry : (after (exec (.trap 5) (ready 0 0 false { pc := 8 }))).slot.epc = 8 ∧
    (after (exec (.trap 5) (ready 0 0 false { pc := 8 }))).slot.ecause = 5 * 2 ^ 16 + 2 ^ 10 + 2 ^ 8 + 7 := by decide +kernel
/-- R128: ERET after it goes back to user mode with IE set. -/
theorem test_eret : (after (exec .eret (after (exec (.trap 5) (ready 0 0 false { pc := 8 }))))).slot.mode = false ∧
    (after (exec .eret (after (exec (.trap 5) (ready 0 0 false { pc := 8 }))))).pc = 8 := by decide +kernel
/-- R88, R85: MOD before ADD is ILL_PREFIX with EPC at the MOD. -/
theorem test_misplaced_prefix :
    bits (after (exec (.add 8 9 10) (after (exec (.mod 0 0 0 0 0) (user []))))).slot.ecause 6 0 = Cause.illPrefix.code ∧
    (after (exec (.add 8 9 10) (after (exec (.mod 0 0 0 0 0) (user []))))).slot.epc = 0 := by decide +kernel

/-- A strand on M-core 0 whose accesses go to its scratchpad of 64 KiB. -/
def localUser (xs : List (Nat × Word)) : State := ready 0 0 false (regs xs { memdef := 0x40 }) { sp := 64 }

/-- R4, R228: a stored word lies least significant byte first, and a signed load extends its top bit. -/
theorem test_store_then_load :
    (after (exec (.stw 8 9 0) (localUser [(0, 0x80112233), (1, 16)]))).byte (localCell 0 16) = 0x33 ∧
    (after (exec (.ldw 10 9 0) (after (exec (.stw 8 9 0) (localUser [(0, 0x80112233), (1, 16)]))))).reg 10 = 0xFFFFFFFF80112233 ∧
    (after (exec (.ldbu 10 9 3) (after (exec (.stw 8 9 0) (localUser [(0, 0x80112233), (1, 16)]))))).reg 10 = 0x80 := by decide +kernel
/-- R194: the last byte of the scratchpad can be read, the next one not. -/
theorem test_local_edge : (after (exec (.ldb 8 9 0) (localUser [(1, 65535)]))).pc = 4 ∧
    bits (after (exec (.ldb 8 9 0) (localUser [(1, 65536)]))).slot.ecause 6 0 = Cause.localRange.code := by decide +kernel
/-- R233: AMOADD.i32 on 0xFFFFFFFF gives −1, sign-extended, and leaves 0. -/
theorem test_amoadd :
    (after (exec (.amoadd 10 9 11 1) (after (exec (.stw 8 9 0) (localUser [(0, 0xFFFFFFFF), (1, 16), (3, 1)]))))).reg 10 =
      0xFFFFFFFFFFFFFFFF ∧
    (after (exec (.amoadd 10 9 11 1) (after (exec (.stw 8 9 0) (localUser [(0, 0xFFFFFFFF), (1, 16), (3, 1)]))))).byte (localCell 0 16) =
      0 := by decide +kernel
/-- R233: AMOCAS that compares unequal writes nothing. -/
theorem test_amocas_unequal :
    (after (exec (.amocas 10 9 11 0) (localUser [(1, 16), (2, 1), (3, 5)]))).byte (localCell 0 16) = 0 ∧
    (after (exec (.amocas 10 9 11 0) (localUser [(1, 16), (2, 0), (3, 5)]))).byte (localCell 0 16) = 5 := by decide +kernel

/-- A strand with vectors granted: 4 lanes of 8 registers, v1 and v2 filled with one value each. -/
def vectorUser (x y : Lane) : State :=
  ready 0 0 false { vlen := 4, vregs := 8, banks := Vector.replicate 4 .active
                    v := Vector.ofFn fun i => Vector.replicate 32 (if i.val = 1 then x else if i.val = 2 then y else 0) }

/-- R142, R136: 1.5 + 2.25 = 3.75 in the active lanes; a lane beyond VLEN keeps its value. -/
theorem test_vadd : (after (exec (.vadd 3 1 2 0 0 0) (vectorUser 0x3FC00000 0x40100000))).lane 3 3 = 0x40700000 ∧
    (after (exec (.vadd 3 1 2 0 0 0) (vectorUser 0x3FC00000 0x40100000))).lane 3 4 = 0 := by decide +kernel
/-- R148, R49: 2^31 − 1 plus 1 saturates with type 1 and wraps with type 0. -/
theorem test_viadd_saturates : (after (exec (.viadd 3 1 2 1 0 0) (vectorUser 0x7FFFFFFF 1))).lane 3 0 = 0x7FFFFFFF ∧
    (after (exec (.viadd 3 1 2 0 0 0) (vectorUser 0x7FFFFFFF 1))).lane 3 0 = 0x80000000 := by decide +kernel
/-- R149, R139: a compare for equality sets the mask bits of the active lanes alone. -/
theorem test_vcmp_mask : (after (exec (.vcmp 1 1 2 0) (vectorUser 0x3F800000 0x3F800000))).mask 1 = 0xF := by decide +kernel
/-- R152: the sum of four lanes of 1.5. -/
theorem test_vredadd : (after (exec (.vredadd 8 1 0) (vectorUser 0x3FC00000 0))).reg 8 = 0x40C00000 := by decide +kernel

/-- R68: the manual's own example of a scaled sum: 1.0 plus 144 × 2^(125 + 130 − 254 − 2) is 73.0. -/
theorem test_msca_example : scaleSum 2 125 130 144 false 0x3F800000 = 0x42920000 := by decide +kernel
/-- R62, R64: the manual's own example: 2^24 plus 1.0 × 1.0 twice in one k-group is 16,777,218. -/
theorem test_group_sum : floatSum 2 1 (fun _ => .fin false 1 0) (fun _ => .fin false 1 0) 0x4B800000 = 0x4B800001 := by decide +kernel
/-- R64: an i8 product wraps at 32 bits. -/
theorem test_int_sum : intSum 1 (fun _ => -1) (fun _ => 1) 0 = 0xFFFFFFFF := by decide +kernel

/-- R156: NGET takes the value and empties the register. -/
theorem test_nget :
    (after (exec (.nget 8 0) (ready 0 0 false { links := Vector.replicate 8 { value := 7, present := true } }))).reg 8 = 7 ∧
    ((after (exec (.nget 8 0) (ready 0 0 false { links := Vector.replicate 8 { value := 7, present := true } }))).u.links[0]).present =
      false := by decide +kernel
/-- R287: QTRY of an empty queue gives 0 and status 1. -/
theorem test_qtry_empty : (after (exec (.qtry 8 0) (user [(0, 5)]))).reg 8 = 0 ∧ (after (exec (.qtry 8 0) (user []))).reg 9 = 1 := by
  decide +kernel
/-- R341: a wait for a ticket that has not been issued traps with the ticket in EADDR. -/
theorem test_tlwait_argument : (after (exec (.tlwait 8 0) (user [(0, 1)]))).slot.eaddr = 1 ∧
    (after (exec (.tlwait 8 0) (user []))).pc = 4 := by decide +kernel
/-- R136: VGRANT of 100 lanes gives an M-core's 32, with 8 registers. -/
theorem test_vgrant : (after (exec (.vgrant 8 9 0) (user [(1, 100)]))).reg 8 = 32 ∧
    (after (exec (.vgrant 8 9 0) (user [(1, 100)]))).u.vregs = 8 := by decide +kernel
/-- R332: the first key slot is 1, and SEQEND leaves it no longer Live. -/
theorem test_seqnew : (after (exec (.seqnew 8) (ready 0 0 true))).reg 8 = 1 ∧
    ((after (exec (.seqnew 8) (ready 0 0 true))).keySlot 1).state = .live := by decide +kernel
/-- The step runs the word placed where it fetches: ADD g0, g0, g0 (R77) moves the pc by one word. -/
theorem test_step_runs : (after (step (State.reset.withFetchWord 32 0x04000000))).pc = 4 := by decide +kernel

/-! ### Witnesses: states and operands that meet the hypotheses of each statement -/

/-- DecodeEncode. -/
theorem witness_DecodeEncode : (Instr.fence 4 2).isWord = true ∧ (Instr.fence 4 2).wf = true := by decide +kernel

/-- StepRunsDecoded: an instruction, a word that is none, an open group, and no poison. -/
theorem witness_StepRunsDecoded :
    (let s := State.reset.withFetchWord 32 0x04000000
     s.bezel.off = false ∧ s.bezel.frost = false ∧ s.slot.pre = none ∧ s.agenda = [] ∧ s.turns = [(0, 0)] ∧
     ({ s.tick with turns := [] } : State).issues 0 0 = true ∧ (s.turn 0 0).pc.toNat < istoreSize 0 ∧
     (decodeWord ((s.turn 0 0).wordAt (s.turn 0 0).pc.toNat)).toBool = true ∧ ∀ p ∈ s.cores, p.2.poison = []) ∧
    (let s := State.reset.withFetchWord 32 0
     s.slot.pre = none ∧ s.agenda = [] ∧ s.turns = [(0, 0)] ∧ ({ s.tick with turns := [] } : State).issues 0 0 = true ∧
     (s.turn 0 0).pc.toNat < istoreSize 0 ∧ (decodeWord ((s.turn 0 0).wordAt (s.turn 0 0).pc.toNat)).toBool = false) ∧
    (let s := (after (exec (.ext 1) (user []))).store (istoreCell 0 4) [0, 0, 0, 4]
     s.bezel.off = false ∧ s.bezel.frost = false ∧ s.slot.pre.isSome = true ∧ s.slot.status = .ready ∧
     s.tick.pc.toNat < istoreSize s.cur.1 ∧ (decodeWord (s.tick.wordAt s.tick.pc.toNat)).toBool = true) := by
  decide +kernel

/-- ScalarRegisters, IntegerFrame, IntegerResults, BitCounts, MultiplyDivide: a live strand, without a prefix and behind an EXT; both
modes, and the corners of the divisions. -/
theorem witness_Integer :
    (user []).slot.status = .ready ∧ (user []).slot.mode = false ∧ (ready 0 0 true).slot.mode = true ∧
    (user []).prefixFits false false = true ∧ (user []).slot.step = false ∧
    (after (exec (.ext 1) (user []))).prefixFits false true = true ∧ (after (exec (.ext 1) (user []))).ext?.isSome = true ∧
    (user []).ext? = none ∧
    (let s := user [(1, BitVec.intMin 64), (2, BitVec.allOnes 64)]
     s.reg 8 = 0 ∧ s.reg 9 = BitVec.intMin 64 ∧ s.reg 10 = BitVec.allOnes 64) := by decide +kernel

/-- PrefixesAndFates: the address room at its bound, each state of an open group, an illegal word and a misplaced one, and each fate. -/
theorem witness_PrefixesAndFates :
    (let s := ready 0 0 false { pc := 65528 }
     s.slot.status = .ready ∧ s.pc.toNat + 4 < istoreSize s.cur.1 ∧ s.slot.pre = none ∧
     (after (exec (.mod 0 0 0 0 0) s)).slot.pre = some { mod := some (0, 0, 0, 0, 0), ext := none, start := 65528 }) ∧
    (let s := after (exec (.mod 0 0 0 0 0) (user []))
     s.slot.pre = some { mod := some (0, 0, 0, 0, 0), ext := none, start := 0 } ∧ s.slot.status = .ready ∧
     s.pc.toNat + 4 < istoreSize s.cur.1) ∧
    (Instr.cmps 1).isWord = true ∧ isPrefix (.cmps 1) = false ∧ legalHere (user []) (.cmps 1) = false ∧
    (Instr.add 8 9 10).isWord = true ∧ legalHere (user []) (.add 8 9 10) = true ∧
    (after (exec (.mod 0 0 0 0 0) (user []))).prefixFits (takesMod (.add 8 9 10)) (takesExt (.add 8 9 10)) = false ∧
    isPrefixWord (0x01#6 ++ 0#15 ++ 21#5 ++ 0#6) = false := by decide +kernel
theorem witness_fates : decodeWord 0xB4000000#32 = .error .reservedMajor ∧ decodeWord (0x01#6 ++ 0#15 ++ 21#5 ++ 0#6) = .error .function ∧
    decodeWord 0xF4000000#32 = .ok (.notAnInstructionWord 0xF4000000#32) := ⟨rfl, rfl, rfl⟩

/-- TrapEntry: outside a service and inside one. -/
theorem witness_TrapEntry :
    (user []).slot.status = .ready ∧ (user []).slot.nest = false ∧ (user []).slot.pair = none ∧ (user []).u.rep.stream = none ∧
    (after (exec (.trap 1) (after (exec (.trap 1) (user []))))).slot.nest = true ∧
    (after (exec (.trap 1) (after (exec (.trap 1) (user []))))).slot.status = .ready := by decide +kernel

/-- TrapCallsAndReturn: both modes. -/
theorem witness_TrapCallsAndReturn :
    (user []).prefixFits false false = true ∧ (user []).slot.status = .ready ∧ (user []).slot.mode = false ∧
    (let s := after (exec (.trap 5) (user []))
     s.prefixFits false false = true ∧ s.slot.status = .ready ∧ s.slot.mode = true ∧ s.slot.pair = none ∧ s.u.rep.fromBody = false ∧
     s.slot.idle = false ∧ bit s.slot.ecause 9 = false) := by
  decide +kernel
/-- TrapCallsAndReturn: the return from a cause taken in the idle context of a core without strands. -/
theorem witness_idle :
    (let s : State := { (State.reset.setSlotAt 0 0 { latched := [{ cause := .tick }] }) with ev := { core := 0, slot := 0 } }
     let t := after (exec .asyncCauseTaken s)
     t.slot.idle = true ∧ t.slot.mode = true ∧ t.slot.status = .ready ∧ t.prefixFits false false = true ∧ bit t.slot.ecause 9 = false) := by
  decide +kernel

/-- ExactValuesRound: the largest finite values of two formats and the least subnormal of a third. -/
theorem witness_ExactValuesRound :
    FloatFormat.f32.read 0x7F7FFFFF = .fin false 0xFFFFFF 104 ∧ 0x7F7FFFFF < 2 ^ FloatFormat.f32.width ∧
    (match FloatFormat.e2m1.read 7 with | .fin _ _ _ => true | _ => false) = true ∧
    (match FloatFormat.bf16.read 1 with | .fin _ _ _ => true | _ => false) = true := by decide +kernel

/-- ScalarFloat: no exception enabled, and NX enabled with an inexact sum. -/
theorem witness_ScalarFloat :
    (user []).prefixFits false false = true ∧ bits (user []).u.fpctl 21 16 = 0 ∧
    (let s := ready 0 0 false (regs [(1, 0x4B800000), (2, 0x3F800000)] { fpctl := 0x3F0000 })
     s.prefixFits false false = true ∧ s.slot.status = .ready ∧
     bits s.u.fpctl 21 16 &&& (FArith.add .f32 s.rounding (s.regF32 9) (s.regF32 10)).2 % 64 ≠ 0) := by decide +kernel

/-- NanResults: a NaN in either operand. -/
theorem witness_NanResults : (FloatFormat.f32.read 0x7F800001).isNan = true ∧ (FloatFormat.f32.read 0x7F800001).signals = true ∧
    (FloatFormat.f32.read 0x7FC00000).isNan = true ∧ (FloatFormat.f32.read 0x3F800000).isNan = false := by decide +kernel

/-- BranchesAndJumps, BadTargets: targets on both sides of the I-store's size and off a word, on each kind of core, and a fetch past the
last word. -/
theorem witness_BadTargets :
    (let s := user [(1, 65536), (2, 65532), (3, 65534)]
     s.prefixFits false true = true ∧ s.prefixFits false false = true ∧ 65536 ≤ (s.reg 9).toNat ∧ (s.reg 10).toNat < 65536 ∧
     s.slot.status = .ready ∧ s.slot.step = false ∧
     bits (s.reg 11) 1 0 ≠ 0 ∧ s.slot.mode = false ∧ s.u.rep.active = false ∧ s.slot.nest = false ∧ s.slot.pair = none ∧
     s.u.rep.stream = none ∧ s.pc + (0x1FFFFFF : BitVec 26).signExtend 64 * 4 = 0x7FFFFFC) ∧
    coreKind 128 = .score ∧ coreKind 1023 = .bezel ∧
    (ready 0 0 false { rpc := 2, frames := [{ w := Vector.replicate 16 0, rpc := 0 }] }).u.frames ≠ [] ∧
    (let s := ready 0 0 false { pc := 65536 }
     s.bezel.off = false ∧ s.bezel.frost = false ∧ s.slot.pre = none ∧ s.agenda = [] ∧ s.turns = [(0, 0)] ∧
     ({ s.tick with turns := [] } : State).issues 0 0 = true ∧ 65536 ≤ (s.turn 0 0).pc.toNat ∧ (s.turn 0 0).slot.pre = none ∧
     (s.turn 0 0).slot.nest = false ∧ (s.turn 0 0).slot.pair = none) := by decide +kernel

/-- CallsAndReturns, CallReturn: a call at the last word of the I-store, a full window, a return, and supervisor mode. -/
theorem witness_CallsAndReturns :
    (let s := user [(1, 65532)]
     s.prefixFits false false = true ∧ s.slot.status = .ready ∧ s.slot.mode = false ∧ s.slot.step = false ∧ s.u.rep.active = false ∧
     (s.reg 9).toNat % 4 = 0 ∧ (s.reg 9).toNat < istoreSize 0 ∧ s.u.frames.length + 1 < maxFrames 0 ∧
     (s.pc + (2 : BitVec 26).signExtend 64 * 4).toNat < istoreSize 0 ∧ (s.pc + 4).toNat % 4 = 0 ∧ (s.pc + 4).toNat < istoreSize 0) ∧
    (let s := ready 0 0 false { frames := List.replicate 31 { w := Vector.replicate 16 0, rpc := 0 } }
     maxFrames s.cur.1 ≤ s.u.frames.length + 1 ∧ s.u.frames ≠ [] ∧ s.u.rpc.toNat % 4 = 0 ∧ s.u.rpc.toNat < istoreSize s.cur.1) ∧
    (ready 0 0 true).slot.mode = true := by decide +kernel

/-- A cached translation of the page at 0x1000 to the frame at 0x2000, open to user reads, writes and fetches, accessed and dirty. -/
def page : TlbEntry := { asn := none, page := 1, level := 3, leaf := 0x20FF }

/-- A strand on M-core 0 of a mode with that page at hand. -/
def paged (m : Bool) (xs : List (Nat × Word)) (u : Strand := {}) : State := ready 0 0 m (regs xs u) { tlb := [page] }

/-- The part with the lines of that page's frame in die 0's L2. -/
def warm (s : State) : State := (List.range 32).foldl (fun s i => s.holdL2 0 (64 + i) { state := .m }) s

/-- SystemRegisters: each mode; MEMDEF at its largest fields, and each of its refusals; GSPILL and SPSIZE at their bounds and one beyond. -/
theorem witness_SystemRegisters :
    (user []).prefixFits false false = true ∧ (user []).u.rep.active = false ∧ (user []).slot.mode = false ∧
    (ready 0 0 true).slot.mode = true ∧ (user []).slot.status = .ready ∧
    Record.memdefValid 0x2EC = true ∧ Record.memdefValid 0x2ED = false ∧ bits 0x2EC 7 6 = 3 ∧
    State.gspillLegal 0x101 64 = true ∧ State.gspillLegal 0x101 63 = false ∧ State.spLegal 0 448 = true ∧ State.spLegal 0 512 = false ∧
    State.spLegal 128 112 = true ∧ State.spLegal 1023 0 = false := by decide +kernel

/-- WaitsAndEnds: a resident strand and a handler. -/
theorem witness_WaitsAndEnds :
    (user []).prefixFits false false = true ∧ (user []).activation = false ∧ (user []).u.rep.active = false ∧ (1 : BitVec 4) ≠ 0 ∧
    (ready 0 0 false { kind := .handler }).activation = true ∧ (ready 0 0 false { kind := .gust }).activation = true := by
  decide +kernel

/-- SupervisorWords: user mode; a slot beyond the last, the own slot at a bad address, saves and loads of the three parts, and copies that
pause and do not. -/
theorem witness_SupervisorWords :
    (let s := warm (paged true [(0, 0), (1, 0x1000), (2, 4), (3, 8)])
     s.prefixFits false false = true ∧ s.slot.mode = true ∧ s.slot.eprog = 0 ∧ (user []).slot.mode = false ∧
     s.translationUsed 0 (s.ctxOf s.u.job).asn = false ∧ s.slotOpen (s.reg 10) = false ∧ s.slotOpen (s.reg 8) = true ∧
     (s.reg 11).toNat % 16 ≠ 0 ∧ (s.reg 9).toNat % 4096 = 0 ∧
     ∀ p ∈ [1, 3, 8], partOn s.kind p = true ∧ s.saveAllowed p 0 = true ∧ s.loadAllowed p 0 = true ∧
       (s.needDrained p).toBool = true ∧ s.partRecord p 0 ≠ [] ∧ (s.partRecord p 0).length ≤ 4096 ∧
       (s.storeAccess (State.contextAccess true) 0x1000 (s.partRecord p 0) 0).toBool = true ∧
       State.partBytes 0 p ≤ 4096 ∧ State.pieceLoaded p = false ∧ s.movedWords = [] ∧
       (State.moveOut 0x1000 2 0 (s.partRecord p 0) s).toBool = true ∧
       (match State.readRecord 0x1000 2 [] (State.partBytes 0 p) s with
        | .ok (rs, t) => ((t.setSlot { t.slot with moved := [] }).loadRecord p 0 rs).isSome | .error _ => false) = true) ∧
    (let s := paged true [(0, 0), (1, 0x1000)]
     State.pieceLoaded 2 = true ∧ partOn s.kind 2 = true ∧ s.saveAllowed 2 0 = true ∧ s.loadAllowed 2 0 = true ∧ State.partBytes 0 2 = 4096 ∧
     (State.moveOut 0x1000 2 0 (s.partRecord 2 0) s).toBool = true ∧
     (State.moveIn 0x1000 (fun off bs t => t.loadPiece 2 0 off bs) 2 0 4096 s).toBool = true ∧
     s.performHeld.toBool = true ∧ (s.holdEngines 0 0).copiesPaused 0 0 = true) ∧
    (let d : CopyCmd := { op := 0, mod := 0, batch := 0, ticket := 1, a := [0, 0], wb := 1, core := 0, slot := 0, unit := none, job := none
                          home := none, started := true }
     let s := ready 0 0 true {} { copies := Vector.replicate 4 { owner := some (0, none), cmds := [d] } }
     (s.holdEngines 0 0).copiesPaused 0 0 = false) := by decide +kernel

/-- Two strands of a launch on two S-cores of one cluster. -/
def twoSmall : State :=
  let s := ready 128 0 false { launch := some 1 }
  s.setSlotAt 129 0 { status := .ready, u := { launch := some 1 } }

/-- HintsAndFences: no peer, and one that has yet to come; attributes of an access. -/
theorem witness_HintsAndFences :
    (user []).prefixFits false false = true ∧ (user []).alignPeers = [] ∧
    (user []).performHeld.toBool = true ∧ (user []).slot.pair = none ∧
    (((ready 0 0).setSlot { (ready 0 0).slot with pair := some {} }).awaitHeld {}).toBool = true ∧
    (∃ p ∈ twoSmall.alignPeers, twoSmall.atAlign twoSmall.pc p.1 p.2 = false) ∧ (user []).prefixFits true false = true ∧
    ((user []).attrs 3).toBool = true ∧ ((localUser []).attrs 3).toBool = true := by decide +kernel

/-- ScalarAccesses and LocalAccesses: every width at the last bytes of the scratchpad, one byte beyond it, and a page of GLOBAL. -/
theorem witness_ScalarAccesses :
    (let s := localUser [(0, 65536)]
     s.prefixFits true true = true ∧ s.slot.pre = none ∧ s.slot.status = .ready ∧ s.slot.step = false ∧ s.slot.pair = none ∧
     s.u.kind = .resident ∧ s.u.window = none ∧ s.me.stages = [] ∧ s.me.poison = [] ∧ Memory.wf s.mem = true ∧
     s.scratchBytes s.cur.1 ≤ 2 ^ 24 ∧ bits s.u.memdef 7 6 = 1 ∧ bits s.u.memdef 5 3 ≠ 5 ∧ bits s.u.memdef 2 0 = 0 ∧
     (s.reg 8 + (0x1FF8 : BitVec 13).signExtend 64).toNat + 8 ≤ s.scratchBytes s.cur.1 ∧
     s.scratchBytes s.cur.1 < (s.reg 8 + (0x1FF9 : BitVec 13).signExtend 64).toNat + 8 ∧
     ∀ n ∈ [1, 2, 4, 8],
       (match s.scalarAccess .load (BitVec.ofNat 64 (65536 - n)) n with
        | .ok x => decide ((65536 - n) % State.scalarAlign x n = 0) && (s.loadAccess x (BitVec.ofNat 64 (65536 - n)) n 0).toBool
        | .error _ => false) = true ∧
       (match s.scalarAccess .store (BitVec.ofNat 64 (65536 - n)) n with
        | .ok x => decide ((65536 - n) % State.scalarAlign x n = 0) &&
          (s.storeAccess x (BitVec.ofNat 64 (65536 - n)) (leBytes n 1) 0).toBool
        | .error _ => false) = true) ∧
    (let s := paged false [(0, 0x1000)]
     (match s.scalarAccess .load 0x1000 8 with | .ok x => (s.loadAccess x 0x1000 8 0).toBool | .error _ => false) = true) := by
  decide +kernel

/-- Atomics: a word of the scratchpad, at both widths, and the SRAM cells of the second part. -/
theorem witness_Atomics :
    (let s := localUser [(0, 16), (1, 3), (2, 0)]
     s.prefixFits true false = true ∧
     (match s.attrs 0 with
      | .ok t =>
        let x : Access := { attr := t, reads := true, writes := true, atomic := true }
        (s.istorePrivilege t).toBool && (State.attrCheck .atomic x (s.reg 8)).toBool &&
          (match s.resolve x (s.reg 8) 8 0 with
           | .ok (segs, k) => !State.untrackedRun segs && (k.atomicAccess t.scope segs 8 (atomicReq 0 8 3 0) fun y => some ((y + 3) % 2 ^ 64)).toBool &&
             (k.atomicAccess t.scope segs 8 (atomicReq 9 8 3 0) fun y => if y = 0 then some 3 else none).toBool
           | .error _ => false)
      | .error _ => false) = true ∧
     (s.reg 8).toNat % 8 = 0 ∧ s.slot.pair = none ∧ s.me.stages = [] ∧ isPhysical (localCell 0 16) = false ∧
     Memory.wf s.mem = true ∧ ∀ p ∈ s.cores, p.2.poison = []) := by decide +kernel

/-- WatchesAndRanges: a word that differs and one that does not, a handler, a free place for a range command and none. -/
theorem witness_WatchesAndRanges :
    (let s := localUser [(0, 16), (1, 0), (2, 1)]
     s.prefixFits true false = true ∧ s.activation = false ∧ s.slot.pair = none ∧
     (match s.attrs 0 with
      | .ok t =>
        let x : Access := { attr := t, reads := true, writes := false }
        (s.istorePrivilege t).toBool && (State.attrCheck .waita x (s.reg 8)).toBool &&
          (match s.resolve x (s.reg 8) 8 0 with
           | .ok (segs, k) => !State.untrackedRun segs && leWord (k.readAccess segs).1 == k.reg 9 && leWord (k.readAccess segs).1 != k.reg 10
           | .error _ => false)
      | .error _ => false) = true) ∧
    (ready 0 0 false { kind := .handler }).activation = true ∧
    (let s := paged false [(0, 0x1000), (1, 0x1000), (2, 128)] { memdef := 0x10 }
     s.prefixFits true false = true ∧ s.me.walks.length < 8 ∧
     (match s.attrs 9 with
      | .ok t => t.space != 3 && (s.rangeChecks t (s.reg 8) (s.reg 9) (s.reg 10)).toBool &&
        (s.resolve { attr := { t with space := 0 }, reads := true, writes := true, atomic := true } (s.reg 8) 8 0).toBool
      | .error _ => false) = true) := by decide +kernel

/-- Eight range commands of a core. -/
def eightWalks : State :=
  let w : WalkCmd := { invalidate := false, base := 0x1000, length := 128, barrier := { key := 0x2000, length := 8 }, scope := 2, unit := none, job := none }
  ready 0 0 false (regs [(0, 0x1000), (1, 0x1000), (2, 128)] { memdef := 0x10, kind := .handler }) { tlb := [page], walks := List.replicate 8 w }
theorem witness_WalkRoom : 8 ≤ eightWalks.me.walks.length ∧ eightWalks.activation = true ∧
    (match eightWalks.attrs 9 with | .ok t => t.space != 3 | .error _ => false) = true := by decide +kernel

/-- VectorAccesses: lanes of LOCAL, no lane, and a lane that a step stops at. -/
theorem witness_VectorAccesses :
    (let u : Strand := { memdef := 0x40, vlen := 2, vregs := 8, v := Vector.ofFn fun i => Vector.ofFn fun j => if i.val = 2 then BitVec.ofNat 32 (4 * j.val) else 7 }
     let s := ready 0 0 false (regs [(0, 65528), (1, 65532), (2, 4)] u) { sp := 64 }
     let one := s.wakeBanks [1]
     let two := s.wakeBanks [1, 2]
     s.prefixFits true false = true ∧ one.memLanes 0 0 = [0, 1] ∧ (s.wakeBanks [1]).memLanes 1 0 = [] ∧
     (match s.vectorAccess .vload (s.reg 8) [1] with
      | .ok x =>
        let lanes := (one.memLanes 0 0).map fun i => (i, one.reg 8 + BitVec.ofNat 64 (4 * i))
        (State.laneRange x (lanes.map (·.2))).toBool && (one.resolveLanes x lanes).toBool &&
          (one.laneSteps x 1 [(0, 65528), (1, 65532)]).toBool && (one.laneStep x 1 0 65532).toBool &&
          (match one.laneStep x 1 0 65532 with
           | .ok w => (match w.laneStep x 1 1 65536 with | .error (.trap .localRange _ _ _ none) => true | _ => false)
           | .error _ => false)
      | .error _ => false) = true ∧
     (match s.vectorAccess .vstore (s.reg 8) [1] with
      | .ok x =>
        let lanes := (one.memLanes 0 0).map fun i => (i, one.reg 8 + BitVec.ofNat 64 (4 * i))
        (match one.resolveLanes x lanes with
         | .ok (gs, t) => (t.storeLanes 1 (one.reg 8) gs).toBool
         | .error _ => false) && (one.laneSteps x 1 [(0, 65528), (1, 65532)]).toBool
      | .error _ => false) = true ∧
     (match s.vectorAccess .vload (s.reg 8) [1, 2] with | .ok x => (two.laneSteps x 1 [(0, 65528), (1, 65532)]).toBool | .error _ => false) = true ∧
     (match s.vectorAccess .vstore (s.reg 8) [1, 2] with | .ok x => (two.laneSteps x 1 [(0, 65528), (1, 65532)]).toBool | .error _ => false) = true) := by
  decide +kernel

/-- VectorFloat, VectorInteger, MasksAndMoves: registers up to the last granted one, and VLEN at its two ends. -/
theorem witness_Vectors : (vectorUser 0 0).slot.status = .ready ∧ (vectorUser 0 0).slot.step = false ∧ bits (vectorUser 0 0).u.fpctl 21 16 = 0 ∧
    VectorReady (vectorUser 0 0) [7, 1, 2] ∧ (vectorUser 0 0).u.vlen ≠ 32 ∧
    VectorReady (ready 0 0 false { vlen := 32, vregs := 32 }) [31] ∧ (ready 0 0 false { vlen := 32, vregs := 32 }).u.vlen = 32 ∧
    (7 : Reg).toNat < 8 :=
  ⟨by decide +kernel, by decide +kernel, by decide +kernel,
    ⟨by unfold State.NoPrefix; decide +kernel, by decide +kernel, by decide +kernel, by decide +kernel⟩, by decide +kernel,
    ⟨by unfold State.NoPrefix; decide +kernel, by decide +kernel, by decide +kernel, by decide +kernel⟩, by decide +kernel, by decide⟩

/-- Grant: a strand that may be granted, without and with registers held. -/
theorem witness_Grant :
    (user []).prefixFits false false = true ∧ (user []).slot.status = .ready ∧ (user []).slot.step = false ∧ (user []).u.rep.active = false ∧
    (4 : BitVec 3).toNat ≤ 4 ∧ (user []).u.vregs = 0 ∧ (vectorUser 0 0).u.vregs = 8 := by decide +kernel

/-! #### Links, queues, messages -/

/-- A registered queue with a counter window of four. -/
def aJob : Job :=
  { control := 0x1000, logSlots := 0, weight := 1, windowBase := 8, windowSize := 4, untracked := false, logging := false
    spanPartner := none, root := 0, asn := 1, logPa := 0, savePa := 0, mailboxes := [], keySlot := 0, dispatcher := 0 }
/-- A launch of four logical cores on M-cores 0 to 3; the last has not started, the third has ended. -/
def aLaunch : Launch :=
  { job := 1, smallCores := false, pair := false, cuff := 0, count := 4, entry := 0, map := 0, counter := none, inst := 0, args := []
    startWaits := [], dataWaits := [], dispatched := true, cores := [0, 1, 2, 3], states := [1, 1, 2, 0] }
/-- A strand that is logical core 0 of that launch, logical core 1 beside it. -/
def linked (u : Strand := {}) (v : Strand := {}) (k : Core := {}) : State :=
  let s := ready 0 0 false { u with job := some 1, launch := some 1, home := some 1, lcore := 0, lcount := 4 } k
  let s : State := { s with launches := AMap.set [] 1 aLaunch, jobs := AMap.set [] 1 aJob }
  (s.setCore 1 {}).setSlotAt 1 0 { status := .ready, u := { v with job := some 1, launch := some 1, home := some 1, lcore := 1, lcount := 4 } }

/-- LinksAndQueues: each kind of target, a register free and one taken, a queue with its last entry free and one full, values present
and absent, and a handler. -/
theorem witness_LinksAndQueues :
    (let full : Strand := { links := Vector.replicate 8 { present := true }, queues := Vector.replicate 8 { items := List.replicate 16 7 } }
     let room : Strand := { queues := Vector.replicate 8 { items := List.replicate 15 7 } }
     (linked).prefixFits false false = true ∧ (linked).slot.pair = none ∧ (linked).activation = false ∧
     (linked).targetOf 1 = .here 1 0 ∧ (linked).targetOf 2 = .ended ∧ (linked).targetOf 3 = .notStarted ∧
     ((linked).setSlotAt 1 0 {}).targetOf 1 = .away ∧
     (linked).linkFree 1 0 7 = true ∧ (linked {} full).linkFree 1 0 7 = false ∧
     (linked {} room).queueFree 1 0 7 = true ∧ (linked {} full).queueFree 1 0 7 = false ∧
     ((linked full).u.links[7]).present = true ∧ ((linked).u.links[7]).present = false ∧
     ((linked full).u.queues[7]).items = 7 :: List.replicate 15 7 ∧ ((linked).u.queues[7]).items = []) ∧
    (ready 0 0 false { kind := .handler }).activation = true ∧
    (((0 : Int) + (0x20 : BitVec 6).toInt).emod 4).toNat = 0 := by decide +kernel

/-- A core whose arrival queue 1 holds a message and that has been granted a handle of logical core 1. -/
def granted (h : Word) : State :=
  linked (regs [(0, h), (1, 0x4000 + 5)]) {} { aq := Vector.ofFn fun i => if i.val = 1 then [{ header := 5, payload := [1, 2] }] else [], grants := [h] }
/-- The same core when arrival queue 1 of logical core 1 is full. -/
def crowded (h : Word) : State :=
  let s := granted h
  s.setCore 1 { s.core 1 with aq := Vector.replicate 4 (List.replicate 64 { header := 5 }) }

/-- ArrivalsAndMessages: a message to take and none, both modes, a request in order and the breaks at the bounds of its fields, a core
with room and one without, an endpoint that has ended, one not yet placed and one of the other box, and a SEND that has waited. -/
theorem witness_ArrivalsAndMessages :
    (let s := granted 1
     s.prefixFits false false = true ∧ s.slot.pair = none ∧ s.slot.mode = false ∧ s.activation = false ∧
     (s.takeUnbound 1).isSome = true ∧ (s.takeUnbound 2).isNone = true ∧
     (let w := s.reg 9
      bits w 7 0 ≠ 255 ∧ bits w 13 8 ≤ 56 ∧ bits w 15 14 = 1 ∧ bits w 31 16 = 0 ∧ bits w 63 48 = 0) ∧
     s.me.grants.contains (s.reg 8) = true ∧ s.me.grants.contains (s.reg 9) = false ∧ s.aqRoom 1 1 = true) ∧
    (match (granted 1).endpointOf 1 with | .core 1 _ _ => true | _ => false) = true ∧
    (match (granted 2).endpointOf 2 with | .gone => true | _ => false) = true ∧ (crowded 1).aqRoom 1 1 = false ∧
    (granted 1).admittedHere = false ∧ ((granted 1).setU { (granted 1).u with admitted := some (false, 0) }).admittedHere = true ∧
    (let s : State := { granted 2 with launches := AMap.set [] 1 { aLaunch with dispatched := false, cores := [], states := [0, 0, 0, 0] } }
     match s.endpointOf 2 with | .unplaced 1 => true | _ => false) = true ∧
    (match (granted 0x30000).endpointOf 0x30000 with | .otherBox => true | _ => false) = true ∧ (granted 0x30000).spanReady = false ∧
    bits (0x40FF : Word) 7 0 = 255 ∧ 56 < bits (0x7900 : Word) 13 8 ∧ bits (0xC000 : Word) 15 14 = 3 ∧ bits (0x0005 : Word) 15 14 = 0 ∧
    (0 < (24 : Reg).toNat ∧ (24 : Reg).toNat ≤ 24) ∧ (8 : Reg).toNat - 8 + (bits (0x7800 : Word) 13 8 + 7) / 8 ≤ 23 := by
  decide +kernel

/-- A job with an owner rule for 64 bytes at 0x1000. -/
def owned (gspill : Word) : State :=
  let s := linked (regs [(0, 0x103F)]) {} { gspill := gspill }
  { s with jobs := AMap.set [] 1 { aJob with owners := AMap.set [] 15 { base := 0x1000, length := 64, shift := 6, count := 1, first := 1, launch := some 1 } } }

/-- Gusts: the last byte of a rule, no job, and both sides of the limit of live gusts. -/
theorem witness_Gusts :
    (user []).job?.isNone = true ∧ (user []).prefixFits false false = true ∧ (user []).slot.pair = none ∧ (user []).u.rep.active = false ∧
    (user []).u.leaving = false ∧ (ready 0 0 false { leaving := true }).u.leaving = true ∧
    (ready 0 0 false { leaving := true, rep := { active := true, count := 2 } }).u.rep.iteration < 2 ∧
    ((owned 0x2040).ownerOf ((owned 0x2040).reg 8)).toBool = true ∧
    bits (owned 0x40).me.gspill 15 8 ≤ (owned 0x40).liveGusts (owned 0x40).cur.1 ∧
    (owned 0x2040).liveGusts 0 < bits (owned 0x2040).me.gspill 15 8 := by decide +kernel

/-- Cuffs: an S-core whose number every size divides, an M-core, a cuff that is open, and CKPT at its bounds. -/
theorem witness_Cuffs :
    (user []).kind ≠ .score ∧ (ready 128 0).kind = .score ∧ (ready 128 0).prefixFits false false = true ∧ (ready 128 0).activation = false ∧
    (ready 128 0).u.cuff = 0 ∧ (ready 128 0).membersFree 8 = true ∧ (ready 128 0).slot.status = .ready ∧ (ready 128 0).cur.2 = 0 ∧
    (ready 128 0 false { cuff := 3 }).u.cuff = 3 ∧ twoSmall.membersFree 2 = false ∧
    (let s := ready 0 0 false (regs [(0, 256), (1, 4)]) { sp := 448 }
     (s.reg 8).toNat % 256 = 0 ∧ (s.reg 9).toNat % 256 ≠ 0 ∧ s.slot.pair = none ∧ s.u.window = none ∧
     (s.reg 8).toNat + 2 * (8192 + 65536 * 2) ≤ s.scratchBytes s.cur.1) := by decide +kernel

/-- Repetition: a body of one word that is legal, one that is not, a captured body and a sequencer that runs, with the last count. -/
theorem witness_Repetition :
    (let s := (user [(0, 0xFFFFFFFF), (1, 0x100000000)]).store (istoreCell 0 4) [0x60, 0x18, 0x22, 0x64]
     s.prefixFits false false = true ∧ s.kind = .mcore ∧ s.activation = false ∧ s.u.rep.active = false ∧ s.u.rep.captured = false ∧
     s.pc.toNat + 4 + 4 * 32 ≤ istoreSize s.cur.1 ∧ bodyFault [s.wordAt 4] = none ∧ bodyFault [s.wordAt 4, 0] = some 1 ∧
     (s.reg 8).toNat < 2 ^ 32 ∧ 2 ^ 32 ≤ (s.reg 9).toNat) ∧
    (ready 0 0 false { rep := { captured := true } }).u.rep.captured = true ∧
    (ready 0 0 false { rep := { active := true, count := 1 } }).u.rep.iteration < 1 := by decide +kernel

/-- A page that holds a launch descriptor of one logical core, its map left to the dispatcher. -/
def described (w0 : Word) : State :=
  (warm (linked (regs [(0, 0x1000), (1, 0x1008)]) {} { tlb := [page] })).store 0x2000
    ([w0, 0x100, 0xFFF].flatMap fun w => leBytes 8 w.toNat)
/-- What a LAUNCH reads there. -/
def launchRead (s : State) : Option (List Byte × State) :=
  match s.loadAccess { attr := { cls := 0, scope := 0, space := 0, policy := 0, use := 0 }, reads := true, writes := false } (s.reg 8) 64 0 with
  | .ok x => some x | .error _ => none

/-- Launches: a descriptor off its 64 bytes, one that is no launch, and counters at the window's bound and beyond it; room and none. -/
theorem witness_Launches :
    (described 1).prefixFits false false = true ∧ ((described 1).reg 9).toNat % 64 ≠ 0 ∧ ((described 1).reg 8).toNat % 64 = 0 ∧
    (match launchRead (described 2) with
     | some (bs, t) => t.job? == some aJob && (t.descriptor? 1 { aJob with windowSize := 4096 } bs).isNone | none => false) = true ∧
    (match launchRead (described 0x10030001) with
     | some (bs, t) => t.job? == some aJob && (t.descriptor? 1 { aJob with windowSize := 4096 } bs).isSome && State.badCounter aJob bs == none &&
        t.launchRoom (dieOf t.cur.1) && t.slot.pair.isNone | none => false) = true ∧
    (match launchRead (described 0x10040001) with
     | some (bs, t) => (t.descriptor? 1 { aJob with windowSize := 4096 } bs).isSome && State.badCounter aJob bs == some 4 | none => false) = true ∧
    (let s := described 1
     (s.setDie 0 { s.die 0 with pool := List.replicate 256 1 }).launchRoom 0 = false) := by decide +kernel

/-! #### Engines and counters -/

/-- A strand that has claimed copy context 3 of M-core 0. -/
def copier (xs : List (Nat × Word)) (cmds : List CopyCmd := []) : State :=
  ready 0 0 false (regs xs) { sp := 64, copies := Vector.replicate 4 { owner := some (0, none), cmds := cmds } }
/-- One command. -/
def aCopy : CopyCmd := { op := 0, mod := 0, batch := 0, ticket := 1, a := [0, 0], wb := 1, core := 0, slot := 0, unit := none, job := none, home := none }

/-- CopiesAndCollectives: a context with its last place free, sizes at both bounds and beyond, ranges, another strand's context, and a
schedule there and absent. -/
theorem witness_CopiesAndCollectives :
    CopyReady (copier [] (List.replicate 15 aCopy)) 3 ∧
    (copySizeLegal 0 1 = true ∧ copySizeLegal 0 67108864 = true ∧ copySizeLegal 0 0 = false ∧ copySizeLegal 0 67108865 = false ∧
     copySizeLegal 1 0x0000000100000001 = true ∧ copySizeLegal 1 0x100000000 = false ∧ copySizeLegal 2 8 = true) ∧
    ((copier []).rowRanges 0 1 1 [0, 65528] 8 (copyRows 0 8) 0).toBool = true ∧
    ((copier []).rowRanges 1 1 1 [0, 0, 64] 0x100000008 (copyRows 1 0x100000008) 0).toBool = true ∧
    ((copier []).rowRanges 2 1 1 [0, 65528, 8, 1] 8 (copyRows 2 8) 0).toBool = true ∧
    ((copier []).endRange 2 true 8 8).toBool = false ∧ ((linked).endRange 2 true 0 8).toBool = false ∧
    (let s := ready 0 1 false {} { copies := Vector.replicate 4 { owner := some (0, none) } }
     (copier []).copyCtx 3 = { owner := some (0, none) } ∧ (s.copyCtx 3).joined = false ∧
     ({ owner := some (0, none), joined := true } : CopyCtx).joined = true ∧ s.ctxHolder (s.copyCtx 3) = some (0, none) ∧ s.cur.2 = 1 ∧ s.activation = false ∧ s.prefixFits false false = true) ∧
    (let s := ready 0 0
     let t := s.setDie 0 { s.die 0 with schedules := AMap.set [] (State.schedKey none 4095) (0 :: List.replicate 31 0, none) }
     s.prefixFits false false = true ∧ s.slot.pair = none ∧ (s.collCtx 0 7).length < 4 ∧
     s.schedule? 0 none 0 = none ∧ t.schedule? 0 none (bits (0x100000FFF : Word) 11 0) = some (0 :: List.replicate 31 0, none) ∧
     bits (0x100000FFF : Word) 14 12 ≤ 3 ∧ bits (0x100000FFF : Word) 17 15 ≤ 3 ∧ 1 ≤ bits (0x100000FFF : Word) 63 32 ∧
     bits (0x100000FFF : Word) 31 18 = 0 ∧ collSuits (Sched.kind (0 :: List.replicate 31 0)) 0 = true ∧
     (t.endRange 0 false 0x1000 (1 * collWidth 0)).toBool = true ∧ (t.endRange 0 true 0x7FFFFFFFFFF8 (1 * collWidth 0)).toBool = true) :=
  ⟨⟨by decide +kernel, by unfold State.NoPrefix; decide +kernel, by decide +kernel, by decide +kernel, by decide +kernel⟩,
    by decide +kernel, by decide +kernel, by decide +kernel, by decide +kernel, by decide +kernel, by decide +kernel, by decide +kernel⟩

/-- A CPYN whose completion word can be written: PEER of logical core 1. -/
theorem witness_Completion :
    ((({ linked with cores := AMap.set linked.cores 1 { linked.core 1 with sp := 64 } } : State)).endRange 2 true
      (0x1000000 : Word) 8).toBool = true := by decide +kernel

/-- A strand of Bezel firmware with the page at hand. -/
def firmware (xs : List (Nat × Word)) : State := ready 1023 0 true (regs xs) { tlb := [page] }

/-- BezelWords: an M-core, user mode, a closed hash sequence, operands that resolve, and a locked register at its bound. -/
theorem witness_BezelWords :
    (user []).kind ≠ .bezel ∧ (firmware []).kind = .bezel ∧ (firmware []).prefixFits false false = true ∧ (firmware []).slot.mode = true ∧
    (ready 1023 0).slot.mode = false ∧ (firmware []).bezel.hashOpen = false ∧ bits (firmware []).u.memdef 7 6 ≤ 1 ∧
    (let s := firmware [(0, 0x1000), (1, 0x1800), (2, 64), (3, 40)]
     bits (s.reg 10) 63 32 = 0 ∧
     (match s.resolve (s.plainAccess false) (s.reg 8) (s.reg 10).toNat 0 with
      | .ok (_, t) => (t.resolve (t.plainAccess true) (t.reg 9) 48 0).toBool
      | .error _ => false) = true ∧
     (s.loadAccess (s.plainAccess false) (s.reg 8) (s.reg 11).toNat 0).toBool = true ∧
     (s.storeAccess (s.plainAccess true) (s.reg 8) (s.bezel.meas[3]?.getD []) 0).toBool = true) ∧
    (let s := ((firmware [(0, 0x1000)]).holdL2 (dieOf 1023) 64 { state := .m }).store 0x2000 ([0x1100, 16, 0x1200, 1].flatMap fun w => leBytes 8 w)
     (match s.loadAccess (s.plainAccess false) (s.reg 8) 40 0 with
      | .ok (bs, w) =>
        let field (n : Nat) : Word := leWord ((bs.drop n).take 8)
        (match w.resolve (w.plainAccess false) (field 0) (field 8).toNat 0 with
         | .ok (_, t) => match t.resolve (t.plainAccess true) (field 16) 384 0 with
           | .ok (_, u) => (u.resolve (u.plainAccess true) (s.reg 8 + 32) 8 0).toBool
           | .error _ => false
         | .error _ => false)
      | .error _ => false) = true) := by decide +kernel

/-- TimelinesAndCounters: timelines of each kind of core; a ticket reached, one issued and one beyond; a counter at the window's last
number and one beyond; a handler. -/
theorem witness_TimelinesAndCounters :
    timelineOn .mcore 4 = true ∧ timelineOn .score 2 = false ∧ timelineOn .bezel 17 = true ∧ timelineOn .mcore 16 = false ∧
    (let s := ready 0 0 false {} { copies := Vector.replicate 4 { issued := 2, reached := 1, cmds := [aCopy] } }
     s.prefixFits false false = true ∧ (s.timelineOf 3).1 = 2 ∧ (s.timelineOf 3).2 = 1 ∧ s.openBatches 3 = 1 ∧ s.activation = false) ∧
    (let s := linked (regs [(0, 3), (1, 4)])
     s.prefixFits false false = true ∧ s.u.job = some 1 ∧ (s.job?.bind fun j => State.windowCounter j (bits (s.reg 8) 11 0)) = some 11 ∧
     (s.job?.bind fun j => State.windowCounter j (bits (s.reg 9) 11 0)) = none ∧ s.activation = false ∧ s.reached (11, 0) = true ∧
     s.reached (11, 1) = false) ∧
    (linked { kind := .handler }).activation = true := by decide +kernel

/-- PhasesAndCounts: a core whose engines are idle and one whose are not, a job with untracked phases, events up to the last, both
modes. -/
theorem witness_PhasesAndCounts :
    (let s := ready 0 0
     s.prefixFits false false = true ∧ s.slot.pair = none ∧ (∀ x ∈ s.me.copies.toList, ∀ d ∈ x.cmds, d.finished = true) ∧ s.me.walks = [] ∧
     (∀ t ∈ s.me.stages, t.ticket = 0) ∧ s.dies = [] ∧ s.me.job = none) ∧
    (∃ x ∈ (copier [] [aCopy]).me.copies.toList, ∃ d ∈ x.cmds, d.finished = false) ∧
    (let s : State := { ready 0 0 false {} { job := some 1 } with jobs := AMap.set [] 1 { aJob with untracked := true } }
     s.me.job = some 1 ∧ AMap.get? s.jobs 1 = some { aJob with untracked := true }) ∧
    (ready 0 0 true).slot.mode = true ∧ (ready 0 0).slot.mode = false ∧
    bits (0x0D03 : Word) 15 8 ≤ 13 ∧ 13 < bits (0x0E00 : Word) 15 8 := by decide +kernel

/-! #### Tables -/

/-- The bytes of the shortest legal schedule: two participants, one chunk, and a send that is received. -/
def schedule : List Byte :=
  [0, 0, 2, 0, 1, 0, 0, 0, 2, 0, 0, 0, 0, 0, 0, 0,  0, 0, 0, 0, 1, 0, 0, 0,
   0, 0, 0, 0, 1, 0, 0, 0, 0, 0, 0, 0, 0, 0, 0, 0,  1, 0, 1, 0, 0, 0, 0, 0, 0, 0, 0, 0, 0, 0, 0, 0,  0, 0, 0, 0, 0, 0, 0, 0]

/-- Tables: index 63 of the handler table, the last word of the I-store, a keep region, an owner rule up to the launch's last logical
core, the largest range of the part up to the top of its space, a schedule and a codebook. -/
theorem witness_Tables :
    (let s := linked (regs [(0, 0xFFFC0001FE01), (1, 0x00400000FFC0), (2, 0), (3, 63), (4, 64)]) {} { sp := 64 }
     s.prefixFits false false = true ∧ s.performHeld.toBool = true ∧ (s.reg 11).toNat ≤ 63 ∧ bit (s.reg 8) 16 = true ∧ bits (s.reg 8) 1 0 ∈ [1, 2] ∧ bits (s.reg 8) 7 2 = 0 ∧
     bits (s.reg 8) 31 17 = 0 ∧ bits (s.reg 8) 63 49 = 0 ∧ bits (s.reg 8) 15 8 ≠ 255 ∧ bits (s.reg 8) 48 32 % 4 = 0 ∧
     bits (s.reg 8) 48 32 < istoreSize s.cur.1 ∧ s.me.handlers = [] ∧ (s.keepRegion 8 1).toBool = true ∧ (s.keepRegion 8 2).toBool = true ∧
     (match s.keepRegion 8 1, s.keepRegion 8 2 with | .ok x, .ok y => State.keepsMeet x y | _, _ => true) = false ∧
     bit (0x10000 : Word) 16 = true ∧ bits (0x10000 : Word) 1 0 = 0 ∧ s.slot.mode = false) ∧
    (let s := linked (regs [(0, 0xFFFFFFFFFFFF), (1, 0xFFFFFFFFFFFF), (2, 0x000000000004002F), (3, 0), (4, 15), (5, 0)])
     (s.reg 12).toNat ≤ 15 ∧ bits (s.reg 8) 63 48 = 0 ∧ bits (s.reg 9) 63 48 = 0 ∧ bits (s.reg 10) 15 6 = 0 ∧ bits (s.reg 10) 31 28 = 0 ∧
     bits (s.reg 10) 63 43 = 0 ∧ s.reg 11 = 0 ∧ bits (s.reg 9) 47 0 ≠ 0 ∧ bits (s.reg 10) 5 0 ≤ 47 ∧ 1 ≤ bits (s.reg 10) 27 16 ∧
     bits (s.reg 10) 42 32 + bits (s.reg 10) 27 16 ≤ s.u.lcount ∧ bits (0 : Word) 47 0 = 0) ∧
    (let s := ready 0 0 true (regs [(0, 0xFFF0000000000), (1, 0x10000000), (2, 63)])
     s.slot.mode = true ∧ s.prefixFits false false = true ∧ (s.reg 10).toNat ≤ 63 ∧ bits (s.reg 8) 11 0 = 0 ∧ bits (s.reg 8) 63 52 = 0 ∧
     (s.reg 9).toNat ≤ 2 ^ 28 ∧ (s.reg 8).toNat + (s.reg 9).toNat * 4096 ≤ 2 ^ 52 ∧ AMap.erase s.ranges 63 = []) ∧
    (let s := (warm (linked (regs [(0, 0x1000), (1, 64), (2, 4095)]) {} { tlb := [page] })).store 0x2000 schedule
     s.performHeld.toBool = true ∧ bits s.u.memdef 7 6 ≤ 1 ∧ (s.reg 9).toNat % 16 = 0 ∧ (s.reg 9).toNat ≤ 65536 ∧ (s.reg 8).toNat % 16 = 0 ∧
     (match s.loadAccess (s.plainAccess false) (s.reg 8) 64 0 with
      | .ok (bs, t) => t.performHeld.toBool && decide ((t.reg 10).toNat < 4096) && Sched.fault? bs t.u.lcount == none &&
        (List.range 4).all fun k => t.schedRoom k (State.schedKey t.u.job 4095) bs
      | .error _ => false) = true) := by decide +kernel

/-- A strand that owns the matrix state of M-core 0, with the page at hand. -/
def matrixUser (xs : List (Nat × Word)) (u : Strand := {}) (k : Core := {}) : State :=
  ready 0 0 false (regs xs { u with vlen := 32, vregs := 8 }) { k with owner := some (0, none), tlb := [page] }

theorem witness_CodebookLoad : MatrixReady (warm (matrixUser [(0, 0x1000)])) ∧ bits (matrixUser []).u.memdef 7 6 ≤ 1 ∧
    ((matrixUser [(0, 0x1000)]).reg 8).toNat % 32 = 0 ∧
    (match (warm (matrixUser [(0, 0x1000)])).loadAccess ((matrixUser []).plainAccess false) 0x1000 32 0 with
     | .ok (_, t) => !t.oddOwned && t.me.owner == some (t.cur.2, t.u.unit) && !t.me.zeroing && t.me.matrix == [] &&
       (match t.performHeld with | .ok v => v.me == t.me && v.slot == t.slot | .error _ => false)
     | .error _ => false) = true :=
  ⟨⟨by decide +kernel, by unfold State.NoPrefix; decide +kernel, by decide +kernel, by decide +kernel, by decide +kernel, by decide +kernel,
    by decide +kernel, by decide +kernel, by decide +kernel, by decide +kernel⟩, by decide +kernel, by decide +kernel, by decide +kernel⟩

/-- KeysMapsHandles: a free key slot and none, a Live one, maps of the job there and absent, cores to choose, a full table of maps,
requests in order and not, an alarm. -/
theorem witness_KeysMapsHandles :
    (let s := ready 0 0 true
     s.prefixFits false false = true ∧ s.slot.mode = true ∧ s.bezel.alarmed = false ∧ (s.keySlot 1).state = .free ∧ (ready 0 0).slot.mode = false) ∧
    (let s : State := { ready 0 0 true with keys := (List.range 255).map fun k => (k + 1, { state := .live }) }
     ∀ n, 1 ≤ n → n ≤ 255 → (s.keySlot n).state ≠ .free) ∧
    (let s : State := { (linked (regs [(0, 255)])) with maps := AMap.set [] 255 { job := some 1, smallCores := false, pair := false, cuff := 0, cores := [0] } }
     (AMap.get? s.dropMaps.maps (s.dropMaps.reg 8).toNat).map (·.job) = some s.dropMaps.u.job ∧
     (AMap.get? s.dropMaps.maps (s.dropMaps.reg 8).toNat).map (·.freed) = some false) ∧
    (let s := linked (regs [(0, 0x100)])
     s.dropMaps.freeMap.isSome = true ∧ 1 ≤ bits (s.dropMaps.reg 8) 19 8 ∧ bits (s.dropMaps.reg 8) 21 20 ≠ 3 ∧
     (s.dropMaps.chooseCores false false 0 1 0 0 true false).isSome = true) ∧
    (linked).requestOk 3 = true ∧ (linked).requestOk 4 = false ∧ ((linked).grant (some 1) [0] 5).1 = false := by
  refine ⟨by decide +kernel, ?_, by decide +kernel, by decide +kernel, by decide +kernel, by decide +kernel, by decide +kernel⟩
  have h : ∀ n ≤ 255, 1 ≤ n → (({ ready 0 0 true with keys := (List.range 255).map fun k => (k + 1, { state := .live }) } : State).keySlot n).state ≠
      .free := by decide +kernel
  exact fun n h1 h2 => h n h2 h1

/-! #### The matrix unit -/

/-- MatrixChecks: an S-core, a handler, another owner, no session. -/
theorem witness_MatrixChecks :
    (ready 128 0).kind ≠ .mcore ∧ (ready 0 0 false { kind := .handler }).kind = .mcore ∧ (ready 0 0 false { kind := .handler }).activation = true ∧
    (let s := ready 0 0 false {} { owner := some (1, none) }
     s.prefixFits false false = true ∧ s.activation = false ∧ s.u.rep.active = false ∧ s.u.window = none ∧ s.me.owner = some (1, none) ∧
     s.u.unit = none ∧ s.cur.2 = 0 ∧ s.ownerAway s.cur.1 = false ∧ s.oddOwned = false) ∧
    (ready 0 0).me.owner = none ∧ (ready 0 0).u.session = false := by decide +kernel

/-- Logical row 0 of launch 1 on row 0: columns 1 to 7 wait for the session, or stand in it. -/
def gang (w : Status) (joined : Bool) (u : Strand := {}) : State :=
  let s : State := (List.range 7).foldl (fun s j => s.setSlotAt (j + 1) 0 { status := w, u := { launch := some 1, lcore := j + 1, session := joined } })
    (matrixUser [] { u with launch := some 1, session := joined })
  { s with ev := { core := 0, row := 0 } }

theorem matrixReady_gang (joined : Bool) (h : joined = true ∨ joined = false) :
    MatrixReady (gang (.waiting .gangOpen) joined) := by
  rcases h with rfl | rfl <;>
  exact ⟨by decide +kernel, by unfold State.NoPrefix; decide +kernel, by decide +kernel, by decide +kernel, by decide +kernel, by decide +kernel,
    by decide +kernel, by decide +kernel, by decide +kernel, by decide +kernel⟩

/-- MatrixChecks: a row whose other seven wait, a strand alone, and a member of a session before and after its release. -/
theorem witness_Gang :
    (let s := gang (.waiting .gangOpen) false
     let members := (s.rowMembers s.cur.1 (s.u.launch.getD 0) (s.u.lcore / 8)).filter (· != s.cur)
     members.length = 7 ∧ (∀ x ∈ members, s.waitsGang x.1 x.2 = true) ∧ s.rowOpen s.cur.1 = false ∧ s.u.session = false) ∧
    (let s := matrixUser []
     ((s.rowMembers s.cur.1 (s.u.launch.getD 0) (s.u.lcore / 8)).filter (· != s.cur)).length ≠ 7) ∧
    (gang .ready true).u.session = true ∧ (gang .ready true).slot.eprog = 0 ∧
    ((gang .ready true).setSlot { (gang .ready true).slot with eprog := 1 }).slot.eprog ≠ 0 := by decide +kernel

/-- MatrixWords: the largest K of MMA and MCB up to the end of the weight buffer and one byte row beyond, eight blocks of MMX and MSCA up to
the last of a row and one beyond, the largest rows of MLDA, a page of MLDB, and a store. -/
theorem witness_MatrixWords :
    ((productOperands 0x2003D000 true (mmaShape 0).2.1 (mmaShape 0).2.2 (mmaShape 0).1).toBool = true ∧
     (productOperands 0x1003C000 false (mmaShape 3).2.1 (mmaShape 3).2.2 (mmaShape 3).1).toBool = true ∧
     (productOperands 0x1003C080 false (mmaShape 3).2.1 (mmaShape 3).2.2 (mmaShape 3).1).toBool = false ∧
     (productOperands 0x0803F000 false 2 128 4).toBool = true ∧ (productOperands 0x0003F000 false 2 128 4).toBool = false) ∧
    (let w : Word := 0x7803E000
     bits w 17 0 % 128 = 0 ∧ bits w 23 18 = 0 ∧ bits w 63 32 = 0 ∧ paccFits 0 0 (bits w 30 28 + 1) = true ∧
     bits w 27 24 + (bits w 30 28 + 1) ≤ blocksPerRow 0 ∧ bits w 17 0 + (bits w 30 28 + 1) * blockBytes (bit w 31) 0 ≤ 262144 ∧
     paccFits 0 1 (bits w 30 28 + 1) = false) ∧
    (let w : Word := 0x7803FE00
     bits w 17 0 % 64 = 0 ∧ bits w 23 18 = 0 ∧ bits w 63 31 = 0 ∧ paccFits 0 0 (bits w 30 28 + 1) = true ∧
     bits w 27 24 + (bits w 30 28 + 1) ≤ 16 ∧ bits w 17 0 + 64 * (bits w 30 28 + 1) ≤ 262144 ∧
     ∀ n < 8, paccMask 0 0 (bits w 30 28 + 1) / 2 ^ n % 2 = 1 →
       (matrixUser [] {} { tags := Vector.replicate 8 1 }).me.tags[n]?.getD 0 = 1) ∧
    (let s := matrixUser [(0, 0x1000), (1, 0), (2, 0x1800), (3, 0x101F0100), (4, 0x10000003F000), (5, 0x101F0040)]
     (bits (s.reg 11) 8 0 = 256 ∧ bits (s.reg 11) 28 24 = 16 ∧ bits (s.reg 11) 15 9 = 0 ∧ bits (s.reg 11) 23 21 = 0 ∧
      bits (s.reg 11) 63 29 = 0 ∧ (s.rowRange 8 11 0 0).toBool = true ∧ (s.issueRows 8 11 0 0 32).toBool = true) ∧
     (bits (s.reg 12) 17 0 % 128 = 0 ∧ bits (s.reg 12) 31 18 = 0 ∧ bits (s.reg 12) 63 32 = 4096 ∧ bits (s.reg 12) 17 0 + 4096 ≤ 262144 ∧
      (s.reg 8).toNat % 16 = 0 ∧ (s.pieceRange 8 12 0).toBool = true ∧ (s.issuePieces 8 12 0 256).toBool = true) ∧
     (bits (s.reg 13) 15 0 % 4 = 0 ∧ bits (s.reg 13) 30 24 = 16 ∧ bits (s.reg 13) 23 21 = 0 ∧ bits (s.reg 13) 63 31 = 0 ∧ s.slot.eprog = 0 ∧
      (s.storeRange 8 13 0).toBool = true ∧
      (s.storeRows { attr := s.matrixAttr 0, reads := false, writes := true } false 7 (s.reg 8) 64 16 32 0).toBool = true) ∧
     s.u.vregs ≠ 0 ∧ (7 : Reg).toNat < s.u.vregs ∧ s.u.vlen = 32) := by decide +kernel

/-- MatrixProduct: the last acc, half and format, on empty memory. -/
theorem witness_MatrixProduct : MemoryCanonical State.reset ∧ 7 < 8 ∧ 1 < 2 ∧ 5 < 6 := by
  exact ⟨by unfold MemoryCanonical; decide +kernel, by decide, by decide, by decide⟩

/-! ### Events -/

/-- One slot of M-core 0 given in full, with an event's arguments. -/
def slotted (x : Slot) (k : Core := {}) : State := ((State.reset).setCore 0 k).setSlotAt 0 0 x

/-- A record written in claim 3 of a fault queue at 0x4000, and one with the host's reply in it. -/
def aRecord : FaultRecord :=
  { claim := 3, written := true, va := 0x1000, asn := 1, core := 0, slot := 0, cause := 1, flags := 0, job := 1, generation := 0 }
def replied (status : Byte) : State :=
  let s : State := { slotted { status := .waiting .reply, fault := some aRecord } with
    mgmt := { faultQueue := some (0x4000, 6) }, ev := { index := 3 } }
  s.store (0x4000 + 256 + 32 * 3 + 24) [status]

/-- SlotEvents: a cause with IE set and clear, a wait that holds and one that does not, an HALIGN, a bank, replies, pairs. -/
theorem witness_SlotEvents :
    (let s := slotted { status := .ready, latched := [{ cause := .tick }] }
     (s.core 0).latched = [] ∧ (s.slotAt 0 0).status = .ready ∧ (s.slotAt 0 0).pre = none ∧ (s.slotAt 0 0).latched = [{ cause := .tick }] ∧
     (s.slotAt 0 0).ie = true ∧ ((slotted { status := .ready, ie := false, latched := [{ cause := .tick }] }).slotAt 0 0).ie = false) ∧
    (slotted { status := .waiting (.linkValue 0) }).waitHolds 0 0 (.linkValue 0) = false ∧
    (slotted { status := .waiting .zeroing }).waitHolds 0 0 .zeroing = true ∧
    ((slotted { status := .waiting (.align 0) }).slotAt 0 0).status = .waiting (.align 0) ∧
    (replied 0).recordAwaited 4 = none ∧ (replied 1).recordAwaited 3 = some aRecord ∧ (replied 1).replyStatus aRecord = 1 ∧
    (replied 2).replyStatus aRecord = 2 ∧
    ((slotted { status := .ready }).slotAt 0 0).pair = none ∧
    ((slotted { status := .ready, pair := some { unprotected := true } }).slotAt 0 0).pair = some { unprotected := true } ∧
    (∀ m ∈ [0, 1],
      let p : Pair := { image := some ({}, 5, [(localCell 0 3, 7)]), area := some (0, 1), touched := 1, mismatches := m }
      let x := (slotted { status := .ready, pair := some p }).slotAt 0 0
      x.pair = some p ∧ p.unprotected = false ∧ x.pre = none ∧ State.shortWait x = false ∧ p.image = some ({}, 5, [(localCell 0 3, 7)]) ∧
      p.touched &&& (3 - 1 % 4) = 0) ∧
    (let p : Pair := { start := some { pc := 8 } }
     p.image = none ∧ p.start = some { pc := 8 } ∧ p.touched &&& 3 = 0) ∧
    MemoryCanonical State.reset := by
  refine ⟨by decide +kernel, by decide +kernel, by decide +kernel, by decide +kernel, by decide +kernel, by decide +kernel, by decide +kernel,
    by decide +kernel, by decide +kernel, by decide +kernel, by decide +kernel, ?_⟩
  unfold MemoryCanonical
  decide +kernel

/-- A part whose boot has released its cores. -/
def booted (s : State) : State := s.withBezel fun z => { z with released := true }

/-- The launch of `linked` with its last logical core's start pending on M-core 3, or about to be. -/
def started (k : Core) : State :=
  { booted ((linked).setCore 3 k) with ev := { core := 3, slot := 0, launch := 1 } }

/-- A part with `aLaunch`'s last start pending on M-core 3, of which its job saved a share with a strand in slot 0. -/
def shared : State :=
  let s := started { starts := [{ launch := 1, lcore := 3 }] }
  let h : Share :=
    { sp := 0, cells := [], handlers := [], grants := [], copies := [], arrivals := [], slots := [(0, { status := .ready })], owner := none }
  { s with jobs := AMap.set [] 1 { aJob with shares := [(3, h)] } }

/-- SlotEvents: a slot that is not Free, beyond the core's, with nothing to take and with a start, the slot left to a saved strand of the
job or to a cuff's start of higher rank; a launch whose gale comes, before the boot's release and after it. -/
theorem witness_SlotFill :
    ((linked).slotAt 0 0).status ≠ .free ∧ slotCount 0 ≤ 4 ∧ (started {}).fillable 3 0 = true ∧ (started {}).choose 3 0 = none ∧
    (started { starts := [{ launch := 1, lcore := 3 }] }).fillable 3 0 = true ∧
    (match (started { starts := [{ launch := 1, lcore := 3 }] }).choose 3 0 with
     | some (_, .start t) => t == { launch := 1, lcore := 3 } | _ => false) = true ∧
    (let s := started { starts := [{ launch := 1, lcore := 3 }] }
     let x := (s.passCore 3 (s.candidateJob (.start { launch := 1, lcore := 3 }))).slotAt 3 0
     s.fillsLater 3 0 = false ∧ x.status = .free ∧ x.closed = false) ∧
    (shared.fillable 3 0 = true ∧ shared.choose 3 0 = none) ∧
    (let l : Launch := { aLaunch with smallCores := true, cuff := 1, count := 1, cores := [128], states := [0] }
     let k : Core :=
       { starts := [{ launch := 2, lcore := 0 }]
         aq := Vector.ofFn fun i => if i.val = 3 then [{ header := 5, job := some 1, home := some (2, 0) }] else [] }
     let s : State := { booted ((linked).setCore 128 k) with launches := AMap.set [(1, aLaunch)] 2 l }
     s.fillable 128 1 = true ∧ (s.choose 128 1).isSome = true ∧ s.fillsLater 128 1 = true) ∧
    (linked).bezel.released = false ∧ (started {}).asleep 3 = false ∧ (AMap.get? (started {}).jobs 1).any (·.frozen) = false ∧
    AMap.get? (started {}).launches 1 = some aLaunch ∧ aLaunch.dispatched = true ∧
    aLaunch.done = false ∧ aLaunch.cancelled = false ∧ (started {}).galeStarts 1 aLaunch 3 = [{ launch := 1, lcore := 3 }] := by
  decide +kernel

/-- A message and a gust on their way. -/
def aFlight (q : Nat) : Flight := { core := 0, queue := q, msg := { header := 7 } }
/-- The part with one on its way, the queues holding so many. -/
def arriving (q n : Nat) : State :=
  { (linked {} {} { aq := Vector.replicate 4 (List.replicate n { header := 1 }) }) with net := [aFlight q] }
/-- A value on its way to register 7 of the strand of `linked`. -/
def aLanding (push : Bool) : Landing := { push, core := 0, slot := 0, n := 7, value := 5, writer := none }

/-- Landings: queues with their last place free and full, a gust with and without a place, a link and a queue register reserved. -/
theorem witness_Landings :
    (linked).firstFlight 0 = none ∧ (arriving 1 0).firstFlight 0 = some (aFlight 1) ∧ ((arriving 1 0).die (dieOf 0)).retained = false ∧
    (aFlight 1).msg.job = none ∧ (arriving 1 0).asleep 0 = false ∧ (arriving 1 0).homeEnded (aFlight 1).msg = false ∧
    (linked).homeEnded { header := 7, home := some (1, 2) } = true ∧ (linked).homeEnded { header := 7, home := some (1, 1) } = false ∧
    (let f : Flight := { core := 0, queue := 1, msg := { header := 7, job := some 1 }, handle := some 0x10000 }
     let s : State := { linked with generations := AMap.set [] (endpointKey 1 1 0) 1 }
     s.retiredHandle f = true ∧ (linked).retiredHandle f = false) ∧ (∀ q ∈ [0, 1, 2], (((arriving q (aqDepth q - 1)).core 0).aq[q]?.getD []).length < aqDepth q ∧
      aqDepth q ≤ (((arriving q (aqDepth q)).core 0).aq[q]?.getD []).length) ∧
    (((arriving 3 15).landFlight (aFlight 3)).placeGust (aFlight 3)).isSome = true ∧
    (let s := arriving 3 16
     let t := s.setCore 0 { s.core 0 with gspill := 0 }
     (t.landFlight (aFlight 3)).placeGust (aFlight 3) = none) ∧
    (linked).landing? false 0 = none ∧ (linked).landing? true 0 = none ∧
    (let s : State := { linked { links := Vector.replicate 8 { reserved := true }, queues := Vector.replicate 8 { reserved := 1 } } with
       landings := [aLanding true, aLanding false] }
     s.landing? false 0 = some (aLanding false) ∧ s.landing? true 0 = some (aLanding true) ∧ (aLanding true).slot < 4 ∧
     (aLanding true).unit = (s.strandAt 0 0).unit ∧
     (aLanding true).n < 8 ∧ (aLanding true).writer = none ∧ ((s.strandAt 0 0).links[7]).reserved = true ∧
     0 < ((s.strandAt 0 0).queues[7]).reserved) := by decide +kernel

/-- RowEvents: an idle row, a paused watchdog, and a session of one core whose member waits at the clasp. -/
theorem witness_RowEvents :
    (State.reset).sessionMembers 0 = [] ∧
    (let s := slotted { status := .halted .preempt, u := { session := true } }
     s.watchPaused 0 = true) ∧
    (let s := slotted { status := .waiting (.clasp 0), u := { session := true } }
     s.watchPaused 0 = false ∧ s.sessionMembers 0 = [(0, 0)] ∧ (s.claspWord 0 0).isSome = true) := by decide +kernel

/-- EngineEvents: no command, one paused and one that may run, a collective without its partners, hash commands, walks, shootdowns. -/
theorem witness_EngineEvents :
    (((copier []).core 0).copies[0]).cmds[0]? = none ∧ (((copier [] [aCopy]).core 0).copies[3]).cmds[0]? = some aCopy ∧
    aCopy.paused = false ∧ aCopy.finished = false ∧ (((copier [] [aCopy]).core 0).copies[3]).pausing = false ∧
    ({ aCopy with paused := true } : CopyCmd).paused = true ∧ (State.reset).readyColl 0 0 = none ∧ (State.reset).bezel.hashCmds = [] ∧
    (let h : HashCmd := { mode := 0, input := [], output := [], unit := none }
     let s : State := { State.reset with bezel := { hashCmds := [h] } }
     s.bezel.hashCmds = [h] ∧ h.mode = 0) ∧
    ((State.reset).core 0).walks[0]? = none ∧ AMap.get? (State.reset).shootdowns 0 = none ∧
    (let r : Shootdown := { kind := 2, asn := 0, page := 0, host := none }
     AMap.get? ({ State.reset with shootdowns := [(1, r)] } : State).shootdowns 1 = some r) := by decide +kernel

/-- A collective of die 0, context 0, for which both participants have issued. -/
theorem witness_Collective :
    (let cmd (c lc : Nat) : CollCmd :=
       { core := c, slot := 0, unit := none, job := some 1, home := some 1, lcore := lc, wb := 0x100000000, src := 0, dst := 0, ticket := 1
         mod := 0, image := schedule, launch := some 1 }
     let s := linked
     let s := s.setDie 0 { s.die 0 with coll := (s.die 0).coll.set 0 [cmd 0 0, cmd 1 1] }
     (s.readyColl 0 0).isSome = true) := by decide +kernel

/-- The queue of `aJob` with a command at its head, which the dispatcher may accept. -/
def submitted (slot : List Word) (j : Job := aJob) : State :=
  let s := warm (linked {} {} { tlb := [page] })
  let s : State := { s with jobs := AMap.set [] 1 { j with tailRead := 1 }, ev := { queue := 1 } }
  s.store 0x2100 (slot.flatMap fun w => leBytes 8 w.toNat)

/-- Whether a queue's head may be taken, as Commands asks. -/
def acceptable (s : State) (j : Job) : Bool :=
  let k := s.settleQueue 1
  k.mayAccept 1 && match k.queueRead 1 j (State.queueSlot j) 64 with
  | (some bs, t) => State.headerOk j bs && (State.field bs 0 8 8 == 0 || t.earlierDone 1) &&
    match t.queueWrite 1 j (State.queueField j 128) (leBytes 8 j.head.toNat) with
    | (ok, u) => ok && decide (u.ev = s.ev)
  | (none, _) => false

/-- The state and the bytes with which the body of the command at the head is served. -/
def served (s : State) (j : Job) : State × List Byte :=
  let k := s.settleQueue 1
  match k.queueRead 1 j (State.queueSlot j) 64 with
  | (some bs, t) => ((t.queueWrite 1 j (State.queueField j 128) (leBytes 8 j.head.toNat)).2, bs)
  | (none, t) => (t, [])

/-- The context as it is read. -/
def theJob : Job := { aJob with tailRead := 1 }

/-- Commands: one of each code that may be taken, with the largest counter of the window, the first of the next, and both ends of what
their fields allow. -/
theorem witness_Commands :
    (∀ c ∈ [0, 1, 2, 3, 4, 5, 6], acceptable (submitted [BitVec.ofNat 64 c]) theJob = true ∧
      State.field (served (submitted [BitVec.ofNat 64 c]) theJob).2 0 7 0 = c) ∧
    AMap.get? ((submitted [0]).settleQueue 1).jobs 1 = some theJob ∧ AMap.get? (State.reset.settleQueue 0).jobs 0 = none ∧
    State.zeroBytes (served (submitted [0]) theJob).2 8 64 = true ∧
    (let x := served (submitted [1, 0x100, 0xFFF]) theJob
     (x.1.descriptor? 1 { theJob with windowSize := 4096 } x.2).isSome = true ∧
     (match x.1.descriptor? 1 theJob x.2 with | some l => (x.1.placeLaunch 0 l).isSome | none => false) = true) ∧
    (let x := served (submitted [1, 0, 0xFFF]) theJob
     x.1.descriptor? 1 { theJob with windowSize := 4096 } x.2 = none) ∧
    (let x := served (submitted [1, 0x100, 0xFFF]) theJob
     (match x.1.descriptor? 1 theJob x.2 with
      | some l => ((x.1.setDie 0 { x.1.die 0 with pool := List.replicate 256 0 }).placeLaunch 0 l).isSome | none => true) = false) ∧
    (State.field (served (submitted [2, 1024]) theJob).2 8 63 0 = 1024 ∧ State.field (served (submitted [2, 1025]) theJob).2 8 63 0 = 1025) ∧
    (let x := served ((submitted [2, 1, 0x1800]).store 0x2800 ([1, 0x100, 0xFFF].flatMap fun w => leBytes 8 w)) theJob
     State.zeroBytes x.2 24 64 = true ∧ x.1.freeInstance = some 3072 ∧ (x.1.die (dieOf theJob.dispatcher)).pool.length < 256 ∧
     (match x.1.queueRead 1 theJob 0x1800 128 with
      | (some ns, v) => (v.nodes? 1 theJob v.nextId ns 1).toBool | (none, _) => false) = true) ∧
    State.windowCounter theJob (State.field (served (submitted [3, 3]) theJob).2 8 63 0) = some 11 ∧
    State.windowCounter theJob (State.field (served (submitted [3, 4]) theJob).2 8 63 0) = none ∧
    (State.field (served (submitted [4, 0x7FFFFFFFFFF8]) theJob).2 24 63 1 = 0 ∧ canonical 0x7FFFFFFFFFF8 = true ∧ 0x7FFFFFFFFFF8 % 8 = 0) ∧
    (State.field (served (submitted [6, 4, 3]) theJob).2 8 63 0 = 4 ∧ State.field (served (submitted [6, 5]) theJob).2 8 63 0 = 5) := by
  decide +kernel

/-- Scheduling: a queue and none, a strand alone that runs, one halted, an active core and none. -/
theorem witness_Scheduling :
    AMap.get? (State.reset).jobs 0 = none ∧ AMap.get? (linked).jobs 1 = some aJob ∧
    (slotted { status := .ready }).rowOfSlot 0 0 = [(0, 0)] ∧ ((slotted { status := .ready }).slotAt 0 0).status = .ready ∧
    ((slotted { status := .halted .debug }).slotAt 0 0).status = .halted .debug ∧ (State.reset).leastPhase = none ∧
    (slotted {} { active := true, phase := 5 }).leastPhase = some 5 := by decide +kernel

/-! #### Lines and errors -/

/-- Line 0 with an entry at its home, and the messages between the dies. -/
def lineAt (e : DirEntry) (ms : List CohMsg := []) (d : Nat := 0) : State :=
  let s : State := { State.reset with mesh := ms, ev := { die := d } }
  s.holdDir 0 e

/-- One message about line 0. -/
def msg (m : Coh) (o h : Nat) : CohMsg := { line := 0, source := o, target := h, what := m }

/-- LinesAndErrors: a busy line, a line of no entry and one that is not busy, with nothing else at the home; no message, and the oldest of
each kind, at a busy home and at one that is not; the home's own request at the host, and none; every state that a host snoop meets;
host transactions open and none; a slot in a pair and one that is not. -/
theorem witness_LinesAndErrors :
    (let s := lineAt { busy := some (1, 0) }
     (s.dirLine s.ev.line).busy.isSome = true ∧ (s.die (State.homeOf s.ev.line)).snoops = [] ∧
     (∀ r ∈ (s.die (State.homeOf s.ev.line)).requests, r.line = s.ev.line) ∧ s.asksHost s.ev.line = false) ∧
    (let s := State.reset
     let k := s.die (State.homeOf s.ev.line)
     s.dirLine s.ev.line = {} ∧ k.snoops = [] ∧ k.requests = [] ∧ k.writeback = [] ∧ (s.filterSet s.ev.line).length < 12 ∧
     (s.dirLine s.ev.line).busy = none ∧ (∀ m ∈ s.mesh, m.line ≠ s.ev.line) ∧ s.asksHost s.ev.line = false ∧
     (s.dirLine s.ev.line).state = .i ∧ (s.dirLine s.ev.line).hostPending = false ∧
     (∀ x ∈ s.hostTx, x.2.op ≠ 3 ∨ x.2.line ≠ s.ev.line) ∧ AMap.get? s.hostTx s.ev.index = none) ∧
    (lineAt {} [msg .fwdS 0 2]).mesh = [{ line := 0, source := 0, target := 2, what := .fwdS }] ∧
    (lineAt {} [msg .fwdX 0 2]).mesh = [{ line := 0, source := 0, target := 2, what := .fwdX }] ∧
    (let s := lineAt {} [msg .inv 0 3] 3
     s.mesh = [{ line := s.ev.line, source := 0, target := 3, what := .inv }] ∧ 3 = s.ev.die) ∧
    (let s := lineAt {} [msg (.rsp .o true) 3 0] 3
     s.mesh = [{ line := s.ev.line, source := 3, target := 0, what := .rsp .o true }] ∧ 3 = s.ev.die) ∧
    (let s := lineAt { busy := some (1, 2) } [msg .comp 0 1]
     s.mesh = [{ line := s.ev.line, source := 0, target := 1, what := .comp }] ∧ (s.dirLine s.ev.line).busy.isSome = true) ∧
    (let s := lineAt { busy := some (1, 1) } [msg (.data .m true) 2 1]
     s.mesh = [{ line := s.ev.line, source := 2, target := 1, what := .data .m true }] ∧ (s.dirLine s.ev.line).busy.isSome = true) ∧
    (lineAt { busy := some (0, 5), present := [2], pending := [2] } [msg (.data .i false) 2 0]).mesh =
      [{ line := 0, source := 2, target := 0, what := .data .i false }] ∧
    (lineAt {} [msg .done 1 0]).mesh = [{ line := 0, source := 1, target := 0, what := .done }] ∧ ((lineAt {} [msg .done 1 0]).dirLine 0).busy = none ∧
    ((lineAt { busy := some (1, 0) } [msg .done 1 0]).dirLine 0).busy = some (1, 0) ∧
    (lineAt { busy := some (1, 0), hostPending := true }).asksHost 0 = true ∧
    ((lineAt { busy := some (1, 0), hostPending := true }).dirLine 0).hostPending = true ∧
    ((lineAt { state := .s, present := [1] }).dirLine 0).state = .s ∧
    (let e := (lineAt { state := .e, present := [1], owner := some 1 }).dirLine 0
     e.busy = none ∧ e.state ≠ .i ∧ e.state ≠ .s ∧ e.owner = some 1) ∧
    (let e := (lineAt { state := .m, present := [1] }).dirLine 0
     e.state ≠ .i ∧ e.owner = none) ∧
    ((lineAt { busy := some (1, 0), pending := [2] } [msg .done 1 0]).dirLine 0).pending ≠ [] ∧
    AMap.get? ({ State.reset with hostTx := [(0, { op := 6, line := 9 })] } : State).hostTx (State.reset).ev.index = some { op := 6, line := 9 } ∧
    ((slotted { status := .ready, pair := some {} }).slotAt 0 0).pair.isSome = true ∧ ((slotted { status := .ready }).slotAt 0 0).pair.isSome = false ∧
    ((slotted { status := .ready }).slotAt 0 0).status = .ready := by decide +kernel

/-! #### Management -/

/-- One request in the ring at 0x10000. -/
def asked (s : State) (ws : List Word) : State :=
  let s : State := { s with mgmt := { s.mgmt with base := 0x10000 } }
  (s.storeNum 0x10000 8 (s.mgmt.head.toNat + 1)).store (s.mgmtSlot 0) (ws.flatMap fun w => leBytes 8 w.toNat)

/-- The request and its operation. -/
def askedOp (s : State) (n : Nat) : Bool := match s.request with | some bs => State.opOf bs == n | none => false

/-- A context with the smallest window, and the fault queue that REGISTER asks for. -/
def registering (size : Word) : State :=
  asked { State.reset with mgmt := { faultQueue := some (0x4000, 6) } } [1, 0, 0, size, 0, 1]

/-- The job of `linked`, frozen with nothing of it in the part, its image written to a buffer at 0x20000. -/
def frozen : State :=
  let s : State := { State.reset with jobs := AMap.set [] 1 { aJob with windowBase := 16, windowSize := 16, frozen := true, phases := [(0, {})] } }
  let s := asked s [3, 1, 0x20000, 0x10000, 0x30000]
  let s : State := { s with mgmt := { s.mgmt with busy := true } }
  s.finishFreeze 1 (0x20000, 0x10000, 0x30000)

/-- A context block for it at 0x40000, and the request to resume it. -/
def resuming (block : Word) : State :=
  (asked frozen [4, 1, 0x20000, 0x10000, 0x31000, 0x40000]).store 0x40000 ([0, 0, 0x1000, block, 0, 1].flatMap fun w => leBytes 8 w.toNat)

/-- What the request at the head of the ring does to a resumed queue, or the cause of its refusal. -/
def resumeOf (s : State) : Nat :=
  match s.request with
  | some _ => match s.resumeImage 1 (s.bytes 0x40000 128) 0x20000 0x10000 with | .ok _ => 0 | .error c => c.code
  | none => 1000

/-- Management: no request, one of every operation, a registration with the smallest window and one beyond the largest, a freeze of a
queue there and absent, an image that is taken and one whose block is refused, the Span joined and not. -/
theorem witness_Management :
    (State.reset).request = none ∧ (∀ n ∈ [0, 1, 2, 3, 4, 5, 6, 7, 8, 9], askedOp (asked State.reset [BitVec.ofNat 64 n]) n = true) ∧
    (match (registering 0x10100).request with | some bs => ((registering 0x10100).register bs).toBool | none => false) = true ∧
    (match (registering 0x410100).request with | some bs => ((registering 0x410100).register bs).toBool | none => true) = false ∧
    (let s := asked linked [2, 1]
     s.yieldFreeze = s ∧ s.mgmt.busy = false ∧ AMap.get? s.jobs 1 = some aJob ∧ AMap.get? s.jobs 2 = none ∧ aJob.frozen = false ∧
     s.mgmt.torn.contains 2 = false) ∧
    (let j : Job := { aJob with image := some (0x20000, 0x10000, 0x30000) }
     let s : State := { State.reset with jobs := AMap.set [] 1 j, ev := { queue := 1 } }
     AMap.get? s.jobs 1 = some j ∧ j.image = some (0x20000, 0x10000, 0x30000) ∧ AMap.get? s.jobs 0 = none) ∧
    (AMap.get? (resuming 0x10100).jobs 1).map (·.frozen) = some true ∧ resumeOf (resuming 0x10100) = 0 ∧ resumeOf (resuming 0) = 38 ∧
    (∀ n ∈ [0, 1, 2, 3, 4, 5, 6, 7, 8, 9],
      askedOp (booted (asked State.reset [BitVec.ofNat 64 n])) n = true ∧ (booted (asked State.reset [])).bezel.released = true) ∧
    (State.reset).bezel.released = false ∧ ({ State.reset with mgmt := { busy := true } } : State).mgmt.busy = true ∧ (State.reset).bezel.spanEnable = false ∧
    ((State.reset).withBezel fun z => { z with spanEnable := true }).bezel.spanEnable = true ∧
    (State.reset).spdm.locked = false ∧ (State.reset).spanReady = false ∧
    ({ State.reset with span := { joined := true } } : State).spanReady = true ∧ (State.reset).jobs = [] ∧ (State.reset).busyCores = [] := by
  decide +kernel

/-! #### Power, security, debug, Span -/

/-- PowerAndDebug: a good boot and one whose signature fails, each clock rule at its bound, a die at rest and one at work, part Sealed. -/
theorem witness_PowerAndDebug :
    (let b : Boot := { (EventArgs.boot {}) with powerLimit := 195, maxWeight := 1 }
     State.bootFault 0 b = none ∧ State.bootFault 1 b = some 3 ∧ State.bootFault 0 { b with signaturesVerify := false } = some 2) ∧
    (State.reset).mgmt.updating = false ∧ (114 : Nat) < 115 ∧ (State.reset).bezel.powerLimit * 1000 < 195001 ∧
    175499 * 10 < (State.reset).bezel.powerLimit * 9000 ∧ (State.reset).dieIdle 0 = true ∧ (linked).dieIdle 0 = false ∧
    (State.reset).bezel.frost = false ∧ (State.reset).isSealed = false ∧ 0xFF ∈ tapCodes ∧ 0x7E ∉ tapCodes ∧
    ({ State.reset with bezel := { frost := true } } : State).bezel.frost = true := by decide +kernel
/-- PowerAndDebug: an authorisation that answers the port's last nonce, one that answers an older one, and one with no nonce given. -/
theorem witness_auth :
    (let a : DebugAuth := { (State.reset).ev.auth with serial := Config.serial, nonce := 5, verifies := true }
     let s : State := { State.reset with port := { nonce := some 5 }, ev := { auth := a } }
     s.ev.auth.verifies = true ∧ s.ev.auth.serial = Config.serial ∧ s.port.nonce = some s.ev.auth.nonce) ∧
    (some 6 : Option Word) ≠ some 5 ∧ (State.reset).port.nonce = none := ⟨⟨rfl, rfl, rfl⟩, by decide, rfl⟩

/-- The responder at a stage, with a request of so many bytes of version 1.3. -/
def responder (stage n : Nat) (bytes : List Byte := []) (x : Spdm := {}) : State :=
  { State.reset with spdm := { x with stage }, ev := { bytes := (0x13 :: bytes) ++ List.replicate (n - 1 - bytes.length) 0 } }

/-- SpdmResponder: every stage with a request of the form it asks for, an alarm, a failed boot, another version, a channel to open. -/
theorem witness_SpdmResponder :
    (State.reset).native = true ∧ (State.reset).bezel.alarmed = false ∧ (State.reset).mgmt.bootStatus = 0 ∧
    (responder 3 4).sidebandFree = true ∧ ((responder 3 4).storeNum (State.inbox 0) 8 1).sidebandFree = false ∧
    (State.reset).mgmt.updating = false ∧ State.version13 [0x12] = false ∧ State.version13 (responder 1 20).ev.bytes = true ∧
    (responder 1 20).ev.bytes.length = 20 ∧ (responder 3 4).spdm.stage = 3 ∧
    (let r := (responder 2 48 [0xE3, 0, 0, 0, 0, 0, 0, 8, 0, 0, 0, 2]).ev.bytes
     r.length = 48 ∧ (r.getD 8 0).getLsbD 3 = true ∧ (r.getD 12 0).getLsbD 1 = true) ∧
    (let r := (responder 3 8 [0x82, 0, 0, 0x73, 6]).ev.bytes
     r.length = 8 ∧ State.half r 2 = 0 ∧ State.half r 4 = 1651 ∧ State.half r 6 = 0) ∧
    ((responder 3 44).ev.bytes.length = 44 ∧ State.half (responder 3 44).ev.bytes 2 = 0) ∧
    (let r := (responder 3 12 [0xE0, 0, 0xFF]).ev.bytes
     r.getD 2 0 = 0 ∧ r.length = 12 ∧ r.getD 3 0 = 0xFF) ∧
    (let r := (responder 3 45 [0xE0, 1, 0xFF]).ev.bytes
     r.length = 45 ∧ r.getD 2 0 = 1 ∧ r.getD 3 0 = 0xFF ∧ r.getD 36 0 = 0) ∧
    ((responder 3 16384).ev.bytes.length = 16384 ∧ (responder 3 3).ev.bytes.length < 4) ∧
    (138 ≤ (responder 3 138).ev.bytes.length ∧ (responder 3 138).ev.bytes.getD 3 0 = 0) ∧
    (responder 3 4 [] { handshaking := true }).spdm.handshaking = true ∧ (responder 3 4 [] { session := true }).spdm.session = true ∧
    (responder 3 4 [] { locked := true }).spdm.locked = true ∧
    (let s : State := { State.reset with keys := [(1, { state := .live })], ev := { index := 1 } }
     s.ev.index ≠ 0 ∧ (s.keySlot s.ev.index).state = .live ∧ AMap.freshBelow s.channels 65536 = some 0) := by decide +kernel

/-- Page 1 of a Span region, handed to nobody, that its job maps to the frame at 0x2000. -/
def spanned : State :=
  let s : State := { linked {} {} { tlb := [page] } with span := { pages := [(1, { handing := true })] } }
  { s with jobs := AMap.set [] 1 { aJob with spanPartner := some 0 } }

/-- SpanEvents: the link up and lost, a flit in order and out of order with its last replay, a page here, shared and held by the other
box, an atomic at its home, an access that waits. -/
theorem witness_SpanEvents :
    ({ State.reset with span := { up := false } } : State).span.up = false ∧ (State.reset).span.up = true ∧
    (State.reset).ev.flit.crcOk = true ∧ (State.reset).ev.flit.seq = (State.reset).span.expect ∧ (State.reset).ev.flit.cls = 0 ∧
    (let s : State := { State.reset with span := { expect := 1, replays := 15 } }
     s.ev.flit.seq ≠ s.span.expect ∧ s.span.replays < 16) ∧
    (let s : State := { State.reset with ev := { flit := { (State.reset).ev.flit with crcOk := false } } }
     s.span.up = true ∧ s.ev.flit.crcOk = false ∧ s.ev.flit.seq = s.span.expect ∧ s.span.replays < 16) ∧
    (State.reset).busyCores = [] ∧ (State.reset).span.joined = false ∧ AMap.get? (State.reset).span.pages 0 = none ∧
    (∀ n ∈ [0, 1, 2], (AMap.get? ({ State.reset with span := { pages := [(0, { state := n })] } } : State).span.pages 0).map (·.state) = some n) ∧
    (let s : State := { State.reset with span := { pages := [(0, {})] } }
     let u := (s.mapPage 0 fun p => { p with asked := some false }).mapPage 0 fun p => { p with handing := true }
     AMap.get? s.span.pages 0 = some {} ∧ s.ev.flag2 = false ∧ s.pageAwaited 0 = false ∧ u.pageFrame 0 = none ∧
     s.performsAtomic 0 = true ∧ s.homeBusy (lineOf s.ev.atomic.address) = false) ∧
    (let s : State := { State.reset with span := { pages := [(0, { wanted := 1 })] } }
     (AMap.get? s.span.pages 0).map (fun p => (p.home, p.wanted, p.handing)) = some (true, 1, false)) ∧
    (let s := spanned
     (s.pageFrame 1).map (·.pa) = some 0x2000 ∧ (s.commitFrame 0x2000).frameUsed 0x2000 = false) ∧
    (let s := (spanned).holdDir (lineOf 0x2000) { busy := some (1, 0) }
     (s.commitFrame 0x2000).frameUsed 0x2000 = true) ∧
    (let s : State := { spanned with span := { pages := [(1, {})] }, ev := { atomic := { (State.reset).ev.atomic with page := 1, address := 0x2000 } } }
     let k := s.holdDir (lineOf 0x2000) { busy := some (1, 0) }
     k.performsAtomic 1 = true ∧ k.homeBusy (lineOf s.ev.atomic.address) = true) ∧
    (State.reset).performsAtomic 0 = false ∧ (State.reset).upgradesPage 0 = false ∧
    ({ State.reset with span := { up := false }, ev := { flag := true } } : State).ev.flag = true ∧
    ((slotted { status := .waiting (.span 0x1000 true) }).slotAt 0 0).status = .waiting (.span 0x1000 true) := by decide +kernel

/-- StoppedClocks: the part Off and in Frost, an agenda that reaches neither, and one that begins with POWER_ON. -/
theorem witness_StoppedClocks :
    ({ State.reset with bezel := { off := true } } : State).bezel.off = true ∧
    ({ State.reset with bezel := { frost := true } } : State).bezel.frost = true ∧
    (∀ e ∈ [({ what := .tick, args := {} } : Event)], unclocked true e.what = false) ∧
    Instr.powerOn ∈ [Instr.powerOn, .reset, .powerOff] := by decide +kernel

/-- MemoryKept: a state whose memory is canonical and lists something, and that goes on. -/
theorem witness_MemoryKept :
    let s : State := { State.reset.store 0x2000 [1, 0, 2] with turns := [(0, 0)] }
    MemoryCanonical s ∧ ∃ t, step s = .next t :=
  ⟨by unfold MemoryCanonical; decide +kernel, _, rfl⟩

end Sys2Proof.Tests
end

section
/-!
PROOFS. Multiply and divide (R50, R119): the words of major 0x0A, the high half of a 128-bit product, and the four divisions with
their two corners.
-/

namespace Sys2Proof.Machine

/-! ### The high half of a product -/

/-- MULHU takes bits [127:64] of the unsigned 128-bit product (R119). -/
theorem unsignedProduct_high (x y : Word) :
    BitVec.ofNat 64 (x.toNat * y.toNat / 2 ^ 64) = (x.setWidth 128 * y.setWidth 128).extractLsb' 64 64 := by
  apply BitVec.eq_of_toNat_eq
  have fits : x.toNat * y.toNat < 2 ^ 128 := Nat.lt_of_lt_of_eq (Nat.mul_lt_mul'' x.isLt y.isLt) (by decide)
  have wide (z : Word) : z.toNat % 2 ^ 128 = z.toNat := Nat.mod_eq_of_lt (by omega)
  simp only [BitVec.toNat_ofNat, BitVec.extractLsb'_toNat, BitVec.toNat_mul, BitVec.toNat_setWidth, wide, Nat.mod_eq_of_lt fits,
    Nat.shiftRight_eq_div_pow]

/-- MULH takes bits [127:64] of the signed 128-bit product (R119). -/
theorem signedProduct_high (x y : Word) :
    BitVec.ofInt 64 (x.toInt * y.toInt / 2 ^ 64) = (x.signExtend 128 * y.signExtend 128).extractLsb' 64 64 := by
  have product : x.signExtend 128 * y.signExtend 128 = BitVec.ofInt 128 (x.toInt * y.toInt) := (BitVec.ofInt_mul ..).symm
  apply BitVec.eq_of_toNat_eq
  rw [product]
  simp only [BitVec.toNat_ofInt, BitVec.extractLsb'_toNat, Nat.shiftRight_eq_div_pow]
  omega

/-! ### The divisions -/

/-- A divisor of 0 gives all ones and the dividend, signed and unsigned (R50). -/
theorem division_by_zero (x : Word) :
    divSigned x 0 = BitVec.allOnes 64 ∧ remSigned x 0 = x ∧ divUnsigned x 0 = BitVec.allOnes 64 ∧ remUnsigned x 0 = x :=
  ⟨rfl, rfl, rfl, rfl⟩

/-- −2^63 over −1: the quotient that does not fit is the dividend again, and nothing remains (R50). -/
theorem division_overflow :
    divSigned (BitVec.intMin 64) (BitVec.allOnes 64) = BitVec.intMin 64 ∧ remSigned (BitVec.intMin 64) (BitVec.allOnes 64) = 0 := by
  decide

/-- Outside the two corners the signed quotient truncates toward zero (R50). -/
theorem toInt_divSigned {x y : Word} (hy : y ≠ 0) (h : ¬(x = BitVec.intMin 64 ∧ y = BitVec.allOnes 64)) :
    (divSigned x y).toInt = x.toInt.tdiv y.toInt := by
  rw [divSigned, if_neg hy]
  apply BitVec.toInt_sdiv_of_ne_or_ne
  rw [BitVec.neg_one_eq_allOnes]
  exact Classical.not_and_iff_not_or_not.mp h

/-- The signed remainder takes the dividend's sign (R50). -/
theorem toInt_remSigned {x y : Word} (hy : y ≠ 0) : (remSigned x y).toInt = x.toInt.tmod y.toInt := by
  rw [remSigned, if_neg hy, BitVec.toInt_srem]

theorem toNat_divUnsigned {x y : Word} (hy : y ≠ 0) : (divUnsigned x y).toNat = x.toNat / y.toNat := by
  rw [divUnsigned, if_neg hy, BitVec.toNat_udiv]

theorem toNat_remUnsigned {x y : Word} (hy : y ≠ 0) : (remUnsigned x y).toNat = x.toNat % y.toNat := by
  rw [remUnsigned, if_neg hy, BitVec.toNat_umod]

/-! ### The instructions -/

/-- Ops 0 to 6 of major 0x0A with mod zero are the seven instructions (R119). -/
theorem decodeWord_multiplyDivide (d a b : Reg) :
    let word (op : BitVec 5) : BitVec 32 := 0x0A#6 ++ d ++ a ++ b ++ op ++ 0#6
    decodeWord (word 0) = .ok (.mul d a b) ∧ decodeWord (word 1) = .ok (.mulh d a b) ∧ decodeWord (word 2) = .ok (.mulhu d a b) ∧
      decodeWord (word 3) = .ok (.div d a b) ∧ decodeWord (word 4) = .ok (.divu d a b) ∧ decodeWord (word 5) = .ok (.rem d a b) ∧
      decodeWord (word 6) = .ok (.remu d a b) :=
  open Laws.RoundTrip in
  ⟨mul d a b rfl rfl, mulh d a b rfl rfl, mulhu d a b rfl rfl, div d a b rfl rfl, divu d a b rfl rfl, rem d a b rfl rfl,
    remu d a b rfl rfl⟩

section
variable {s : State} (h : s.NoPrefix) (d a b : Reg)
include h

theorem exec_mul_ok : exec (.mul d a b) s = .next (s.setReg d (s.reg a * s.reg b)).retire := binary_ok h d a b _

theorem exec_mulh_ok : exec (.mulh d a b) s =
    .next (s.setReg d (((s.reg a).signExtend 128 * (s.reg b).signExtend 128).extractLsb' 64 64)).retire := by
  rw [exec_mulh, execMulh, binary_ok h, signedProduct_high]

theorem exec_mulhu_ok : exec (.mulhu d a b) s =
    .next (s.setReg d (((s.reg a).setWidth 128 * (s.reg b).setWidth 128).extractLsb' 64 64)).retire := by
  rw [exec_mulhu, execMulhu, binary_ok h, unsignedProduct_high]

theorem exec_div_ok : exec (.div d a b) s = .next (s.setReg d (divSigned (s.reg a) (s.reg b))).retire := binary_ok h d a b _

theorem exec_rem_ok : exec (.rem d a b) s = .next (s.setReg d (remSigned (s.reg a) (s.reg b))).retire := binary_ok h d a b _

theorem exec_divu_ok : exec (.divu d a b) s = .next (s.setReg d (divUnsigned (s.reg a) (s.reg b))).retire := binary_ok h d a b _

theorem exec_remu_ok : exec (.remu d a b) s = .next (s.setReg d (remUnsigned (s.reg a) (s.reg b))).retire := binary_ok h d a b _

end

/-- Settles O8: every form is `binary` of its operation, so one register write and the next word are its whole effect; what the
operation computes is the high half of a product or one of the divisions above. -/
theorem multiplyDivide : Obligations.MultiplyDivide := by
  unfold Obligations.MultiplyDivide
  intro s d a b x y word
  refine ⟨decodeWord_multiplyDivide d a b, fun h => ⟨exec_mul_ok h d a b, exec_mulh_ok h d a b, exec_mulhu_ok h d a b,
    divSigned x y, remSigned x y, divUnsigned x y, remUnsigned x y, exec_div_ok h d a b, exec_rem_ok h d a b, exec_divu_ok h d a b,
    exec_remu_ok h d a b, ?byZero, ?overflow, ?signed, ?unsigned⟩⟩
  case byZero =>
    intro hy
    rw [hy]
    exact division_by_zero x
  case overflow =>
    rintro ⟨hx, hy⟩
    rw [hx, hy]
    exact division_overflow
  case signed => exact fun hy hxy => ⟨toInt_divSigned hy hxy, toInt_remSigned hy⟩
  case unsigned => exact fun hy => ⟨toNat_divUnsigned hy, toNat_remUnsigned hy⟩

end Sys2Proof.Machine
end

section
/-!
PROOFS. Branches and jumps (R79, R84, R122 to R124): where a target may lie, where a branch or a jump leads, and how their words are told
apart.
-/

namespace Sys2Proof.Machine

/-! ### Offsets (R84) -/

/-- A field read back from its number is that field, sign-extended. -/
theorem sext_toNat {n : Nat} (f : BitVec n) : sext n f.toNat = f.signExtend 64 := by
  rw [sext, BitVec.ofNat_toNat, BitVec.setWidth_eq]

namespace State

/-- An EXT puts its 26 bits above the field's, and the whole is sign-extended. -/
theorem immSigned_eq (s : State) {n : Nat} (f : BitVec n) :
    s.immSigned f = match s.ext? with | none => f.signExtend 64 | some e => (e ++ f).signExtend 64 := by
  have joined (e : BitVec 26) : e.toNat * 2 ^ n + f.toNat = (e ++ f).toNat := by
    rw [BitVec.toNat_append, Nat.shiftLeft_eq, Nat.mul_comm, Nat.two_pow_add_eq_or_of_lt f.isLt]
  unfold immSigned
  cases s.ext? with
  | none => exact sext_toNat f
  | some e => simp only [joined, sext_toNat]

/-! ### Targets (R124) -/

theorem goodTarget_iff {s : State} {t : Word} : s.goodTarget t = true ↔ t.toNat % 4 = 0 ∧ t.toNat < istoreSize s.cur.1 := by
  simp [goodTarget, bits]

theorem goodTarget_eq_false_iff {s : State} {t : Word} :
    s.goodTarget t = false ↔ bits t 1 0 ≠ 0 ∨ istoreSize s.cur.1 ≤ t.toNat := by
  rw [← Bool.not_eq_true, goodTarget, Bool.and_eq_true, beq_iff_eq, decide_eq_true_iff, Decidable.not_and_iff_not_or_not,
    Nat.not_lt]

/-- A jump goes to a legal target with what the word writes, and traps at any other with nothing written. -/
theorem finish_jump (s : State) (t : Word) (k : State → State) :
    s.finish (s.jump t k) =
      if t.toNat % 4 = 0 ∧ t.toNat < istoreSize s.cur.1 then (k s).complete t else s.trap .badTarget 0 t 0 := by
  simp only [jump, goodTarget_iff]
  split <;> rfl

theorem finish_jump_badTarget {s : State} {t : Word} (bad : s.goodTarget t = false) (k : State → State) :
    s.finish (s.jump t k) = s.trap .badTarget 0 t 0 := by
  rw [jump, bad]
  rfl

/-- Completing a group shifts no window (R102). -/
theorem frames_complete {s : State} (h : s.Live) (hs : s.Unstepped) (pc : Word) : (s.complete pc).u.frames = s.u.frames := by
  unfold u
  rw [slot_complete h hs]
  unfold slotComplete withoutFault
  cases s.slot.mode <;> rfl

/-! ### Conditional branches (R122) -/

/-- Where a conditional branch leads that goes to `t` when `taken` holds. -/
def branchTo (s : State) (taken : Prop) [Decidable taken] (t : Word) : State :=
  if taken then s.finish (s.jump t id) else s.retire

theorem branchTo_eq (s : State) (taken : Prop) [Decidable taken] (t : Word) :
    s.branchTo taken t =
      if taken then if t.toNat % 4 = 0 ∧ t.toNat < istoreSize s.cur.1 then s.complete t else s.trap .badTarget 0 t 0
      else s.retire := by
  rw [branchTo, finish_jump, id]

theorem branchTo_badTarget {s : State} {taken : Prop} [Decidable taken] {t : Word} (bad : s.goodTarget t = false) (go : taken) :
    s.branchTo taken t = s.trap .badTarget 0 t 0 := by
  rw [branchTo, if_pos go, finish_jump_badTarget bad]

end State

/-- Behind at most an EXT, a branch leads where its comparison says (R84). -/
theorem branch_eq {s : State} (h : s.ExtFits) {n : Nat} (o : BitVec n) {taken : State → Bool} {P : Prop} [Decidable P]
    (compares : taken s = true ↔ P) : branch o taken s = .next (s.branchTo P (s.pc + s.wordOffset o)) := by
  rw [branch, State.withExt_ok h, State.branchTo]
  by_cases hP : P
  · rw [if_pos (compares.2 hP), if_pos hP]
  · rw [if_neg (mt compares.1 hP), if_neg hP, State.finish_ok]

section
variable {s : State} (h : s.ExtFits) (a b : Reg) (o : BitVec 16) (n : BitVec 11)
include h

theorem exec_beq_eq : exec (.beq a b o) s = .next (s.branchTo (s.reg a = s.reg b) (s.pc + s.wordOffset o)) := by
  rw [exec_beq]
  exact branch_eq h o beq_iff_eq

theorem exec_bne_eq : exec (.bne a b o) s = .next (s.branchTo (s.reg a ≠ s.reg b) (s.pc + s.wordOffset o)) := by
  rw [exec_bne]
  exact branch_eq h o bne_iff_ne

theorem exec_blt_eq :
    exec (.blt a b o) s = .next (s.branchTo ((s.reg a).toInt < (s.reg b).toInt) (s.pc + s.wordOffset o)) := by
  rw [exec_blt, execBlt, branch_eq h o BitVec.slt_iff_toInt_lt]

theorem exec_bge_eq :
    exec (.bge a b o) s = .next (s.branchTo ((s.reg b).toInt ≤ (s.reg a).toInt) (s.pc + s.wordOffset o)) := by
  have compares : (!(s.reg a).slt (s.reg b)) = true ↔ (s.reg b).toInt ≤ (s.reg a).toInt := by
    rw [Bool.not_eq_true', ← Bool.not_eq_true, BitVec.slt_iff_toInt_lt, Int.not_lt]
  rw [exec_bge, execBge, branch_eq h o compares]

theorem exec_bltu_eq :
    exec (.bltu a b n) s = .next (s.branchTo ((s.reg a).toNat < (s.reg b).toNat) (s.pc + s.wordOffset n)) := by
  rw [exec_bltu, execBltu, branch_eq h n BitVec.ult_iff_toNat_lt]

theorem exec_bgeu_eq :
    exec (.bgeu a b n) s = .next (s.branchTo ((s.reg b).toNat ≤ (s.reg a).toNat) (s.pc + s.wordOffset n)) := by
  have compares : (!(s.reg a).ult (s.reg b)) = true ↔ (s.reg b).toNat ≤ (s.reg a).toNat := by
    rw [Bool.not_eq_true', ← Bool.not_eq_true, BitVec.ult_iff_toNat_lt, Nat.not_lt]
  rw [exec_bgeu, execBgeu, branch_eq h n compares]

/-! ### Jumps (R123) -/

theorem exec_jl_eq : exec (.jl a o) s =
    .next (s.finish (s.jump (s.pc + s.wordOffset o) fun t => t.setReg a (s.pc + 4))) := by
  rw [exec_jl, execJl, State.withExt_ok h]

end

section
variable {s : State} (h : s.NoPrefix)
include h

theorem exec_j_eq (o : BitVec 26) : exec (.j o) s = .next (s.finish (s.jump (s.pc + o.signExtend 64 * 4) id)) := by
  rw [exec_j, execJ, State.plain_ok h, sext_toNat]

theorem exec_jr_eq (a : Reg) : exec (.jr a) s = .next (s.finish (s.jump (s.reg a) id)) := by
  rw [exec_jr, execJr, State.plain_ok h]

end

/-! ### Words (R79, R122, R123) -/

/-- The order of the two registers tells JL, BEQ and BNE apart (R79). -/
theorem decodeWord_equal (a b : Reg) (o : BitVec 16) :
    decodeWord (0x0C#6 ++ a ++ b ++ o) =
      .ok (if a = b then .jl a o else if a.toNat < b.toNat then .beq a b o else .bne a b o) := by
  by_cases equal : a = b
  · rw [if_pos equal, ← equal]
    exact Laws.RoundTrip.jl a o rfl rfl
  · rw [if_neg equal]
    by_cases less : a.toNat < b.toNat
    · rw [if_pos less]
      exact Laws.RoundTrip.beq a b o rfl (decide_eq_true less)
    · rw [if_neg less]
      have greater : b.toNat < a.toNat := by
        have := mt BitVec.eq_of_toNat_eq equal
        omega
      exact Laws.RoundTrip.bne a b o rfl (decide_eq_true greater)

/-- Settles O15: each branch leads where its comparison says and each jump to its target, completing there keeps registers and frames,
and the words round-trip. -/
theorem branchesAndJumps : Obligations.BranchesAndJumps := by
  unfold Obligations.BranchesAndJumps
  refine ⟨?branches, ?jumps, ?kept, ?words⟩
  case branches =>
    intro s a b o n h x y near far go
    have hnear : near = s.immSigned o := (s.immSigned_eq o).symm
    have hfar : far = s.immSigned n := (s.immSigned_eq n).symm
    have goes (P : Prop) [Decidable P] (w : Word) : Host.Outcome.next (s.branchTo P (s.pc + w * 4)) = go P w :=
      congrArg _ (s.branchTo_eq P _)
    rw [hnear, hfar]
    exact ⟨(exec_beq_eq h a b o).trans (goes ..), (exec_bne_eq h a b o).trans (goes ..), (exec_blt_eq h a b o).trans (goes ..),
      (exec_bge_eq h a b o).trans (goes ..), (exec_bltu_eq h a b n).trans (goes ..), (exec_bgeu_eq h a b n).trans (goes ..)⟩
  case jumps =>
    intro s r o n jump
    have jumps (t : Word) (k : State → State) : Host.Outcome.next (s.finish (s.jump t k)) = jump t (k s) :=
      congrArg _ (s.finish_jump t k)
    refine ⟨fun h => ?jl, fun h => ⟨(exec_j_eq h n).trans (jumps ..), (exec_jr_eq h r).trans (jumps ..)⟩⟩
    case jl =>
      rw [exec_jl_eq h, jumps]
      exact congrArg (fun w => jump (s.pc + w * 4) (s.setReg r (s.pc + 4))) (s.immSigned_eq o)
  case kept =>
    intro s t
    exact ⟨State.reg_zero s, State.setReg_zero s, fun live plain =>
      ⟨State.pc_complete live plain t, State.reg_complete live plain t, State.frames_complete live plain t⟩⟩
  case words =>
    intro a b o m n
    exact ⟨decodeWord_equal a b o, Laws.RoundTrip.blt a b o rfl rfl, Laws.RoundTrip.bge a b o rfl rfl,
      Laws.RoundTrip.bltu a b m rfl rfl, Laws.RoundTrip.bgeu a b m rfl rfl, Laws.RoundTrip.jr a rfl rfl, Laws.RoundTrip.j n rfl rfl⟩

end Sys2Proof.Machine
end

section
/-!
PROOFS. BAD_TARGET (R124): the forms that raise it, what its entry leaves in the slot (R115, R366), and the fetch past the I-store's end.
-/

namespace Sys2Proof.Machine

/-! ### The trap's entry (R115, R366) -/

/-- Every code fits its field of ECAUSE. -/
theorem Cause.code_lt (c : Cause) : c.code < 128 := by
  cases c <;> decide

namespace State

/-- The fields of ECAUSE lie one above the other, and none overflows. -/
theorem toNat_causeWord (c : Cause) (precise mode ie : Bool) (info : Nat) :
    (causeWord c precise mode ie info).toNat =
      c.code + 2 ^ 8 * precise.toNat + 2 ^ 9 * mode.toNat + 2 ^ 10 * ie.toNat + 2 ^ 16 * (info % 2 ^ 48) := by
  have flag (b : Bool) (n : Nat) : (if b then n else 0) = n * b.toNat := by cases b <;> simp
  have := c.code_lt
  have := precise.toNat_le
  have := mode.toNat_le
  have := ie.toNat_le
  simp only [causeWord, BitVec.toNat_ofNat, flag]
  omega

theorem bits_causeWord_code (c : Cause) (precise mode ie : Bool) (info : Nat) :
    bits (causeWord c precise mode ie info) 6 0 = c.code := by
  have := c.code_lt
  rw [bits, toNat_causeWord]
  omega

theorem bit_causeWord_precise (c : Cause) (precise mode ie : Bool) (info : Nat) :
    bit (causeWord c precise mode ie info) 8 = precise := by
  have := c.code_lt
  rw [bit, BitVec.getLsbD, toNat_causeWord, Nat.testBit_eq_decide_div_mod_eq]
  cases precise with
  | false => exact decide_eq_false (by rw [Bool.toNat_false]; omega)
  | true => exact decide_eq_true (by rw [Bool.toNat_true]; omega)

/-- Outside a lockstep pair nothing is held to commit. -/
theorem commit_eq_self {s : State} {c i : Nat} (alone : (s.slotAt c i).pair = none) : s.commit c i = s := by
  rw [commit, alone]

@[simp] theorem count_native (s : State) (c code n : Nat) : (s.count c code n).native = s.native := by
  unfold count; dsimp only; split <;> rfl

/-- Counting leaves the core's trap vector. -/
@[simp] theorem core_count_tvec (s : State) (c code n : Nat) : ((s.count c code n).core c).tvec = (s.core c).tvec := by
  unfold count
  dsimp only
  split
  · rfl
  · rw [core_setCore_same]

/-- A precise trap that is no double trap, outside lockstep, is counted and enters in its slot. -/
theorem trap_eq {s : State} (first : s.slot.nest = false) (alone : s.slot.pair = none) (c : Cause) (info n : Nat) (a : Word) :
    s.trap c info a n = (s.count s.cur.1 11 1).setSlot (enteredSlot s.me.tvec s.native true c info a n s.slot) := by
  rw [trap, takeTrap, show (s.slotAt s.cur.1 s.cur.2).nest = false from first, Bool.and_false, if_neg Bool.false_ne_true,
    commit_eq_self alone]
  simp only [setSlot, slot, me, count_cur, count_native, slotAt_count, core_count_tvec, if_true]

theorem slot_trap {s : State} (h : s.Live) (first : s.slot.nest = false) (alone : s.slot.pair = none) (c : Cause) (info n : Nat)
    (a : Word) : (s.trap c info a n).slot = enteredSlot s.me.tvec s.native true c info a n s.slot := by
  rw [trap_eq first alone]
  exact slot_setSlot _ _ (by rw [count_cur]; exact h.lt)

theorem mem_trap {s : State} (first : s.slot.nest = false) (alone : s.slot.pair = none) (c : Cause) (info n : Nat) (a : Word) :
    (s.trap c info a n).mem = s.mem := by
  rw [trap_eq first alone, setSlot_mem, count_mem]

/-- Outside a repetition body the entry leaves the strand as it is. -/
theorem enteredSlot_u {x : Slot} (scalar : x.u.rep.stream = none) (tvec : Word) (native precise : Bool) (c : Cause) (info n : Nat)
    (a : Word) : (enteredSlot tvec native precise c info a n x).u = x.u := by
  simp only [enteredSlot, leaveBody, scalar, Option.isSome_none, Bool.false_eq_true, if_false]

/-! ### Calls and returns in user mode (R125) -/

/-- In user mode the scalar stream's words go on while no sequencer runs, and a body word goes on while one does (R292). -/
theorem needIdleSequencer_ok {s : State} (idle : s.u.rep.active = false ∨ s.u.rep.stream.isSome = true) :
    s.needIdleSequencer = .ok () := by
  rcases idle with h | h <;> simp [needIdleSequencer, h]

end State

section
variable {s : State} (h : s.NoPrefix) (user : s.slot.mode = false)
  (idle : s.u.rep.active = false ∨ s.u.rep.stream.isSome = true)
include h user idle

theorem callTo_badTarget {target : State → Word} (bad : s.goodTarget (target s) = false) :
    callTo target s = .next (s.trap .badTarget 0 (target s) 0) := by
  rw [callTo, State.plain_ok h, user, State.needIdleSequencer_ok idle]
  simp only [bad, Bool.not_false, ensure_true, if_true]
  rfl

theorem exec_call_badTarget {o : BitVec 26} (bad : s.goodTarget (s.pc + o.signExtend 64 * 4) = false) :
    exec (.call o) s = .next (s.trap .badTarget 0 (s.pc + o.signExtend 64 * 4) 0) := by
  rw [← sext_toNat] at bad ⊢
  rw [exec_call, execCall]
  exact callTo_badTarget h user idle bad

theorem exec_callr_badTarget {a : Reg} (bad : s.goodTarget (s.reg a) = false) :
    exec (.callr a) s = .next (s.trap .badTarget 0 (s.reg a) 0) := by
  rw [exec_callr, execCallr]
  exact callTo_badTarget h user idle bad

theorem exec_ret_badTarget (inFrame : s.u.frames ≠ []) (bad : s.goodTarget s.u.rpc = false) :
    exec .ret s = .next (s.trap .badTarget 0 s.u.rpc 0) := by
  have nonempty : s.u.frames.isEmpty = false := List.isEmpty_eq_false_iff.2 inFrame
  rw [exec_ret, execRet, State.plain_ok h, user, State.needIdleSequencer_ok idle,
    ← State.finish_jump_badTarget bad fun t => t.setU (closeFrame t.u)]
  simp only [nonempty, Bool.not_false, ensure_true, Bool.false_eq_true, if_false]
  rfl

end

namespace State

/-! ### Time and turns (log 4, log 7) -/

/-- Idle queues losing their deficits changes jobs alone. -/
theorem idleReset_eq (s : State) : ∃ js, s.idleReset = { s with jobs := js } := by
  refine List.foldlRecOn (motive := fun t : State => ∃ js, t = { s with jobs := js }) _ _ ⟨s.jobs, rfl⟩ ?_
  rintro t ⟨js, rfl⟩ ⟨q, j⟩ -
  dsimp only
  split
  · unfold mapJob
    split <;> exact ⟨_, rfl⟩
  · exact ⟨_, rfl⟩

@[simp] theorem tick_agenda (s : State) : s.tick.agenda = s.agenda := by
  obtain ⟨js, h⟩ := s.idleReset_eq
  simp only [tick, h]

@[simp] theorem tick_turns (s : State) : s.tick.turns = s.turns := by
  obtain ⟨js, h⟩ := s.idleReset_eq
  simp only [tick, h]

/-- With nothing on the agenda, the slot whose turn it is issues. -/
theorem stepRunning_eq_issue {s : State} (quiet : s.agenda = []) {c i : Nat} {rest : List (Nat × Nat)}
    (first : s.turns = (c, i) :: rest) (issues : ({ s with turns := rest } : State).issues c i = true) :
    stepRunning s = issue (({ s with turns := rest } : State).enterSlot c i) := by
  unfold stepRunning
  split
  case h_1 agenda => exact absurd (agenda.symm.trans quiet) (List.cons_ne_nil _ _)
  case h_2 =>
    split
    case h_1 turns =>
      obtain ⟨⟨rfl, rfl⟩, rfl⟩ := List.cons.inj (first.symm.trans turns)
      exact if_pos issues
    case h_2 turns => exact absurd (first.symm.trans turns) (List.cons_ne_nil _ _)

theorem turn_eq {s : State} {c i : Nat} {rest : List (Nat × Nat)} (first : s.turns = (c, i) :: rest) :
    s.turn c i = ({ s.tick with turns := rest } : State).enterSlot c i := by
  rw [turn, first]
  rfl

/-- With the clocks running too, that is the step. -/
theorem step_eq_issue {s : State} (on : s.bezel.off = false) (thawed : s.bezel.frost = false) (quiet : s.agenda = []) {c i : Nat}
    {rest : List (Nat × Nat)} (first : s.turns = (c, i) :: rest) (issues : ({ s.tick with turns := rest } : State).issues c i = true) :
    step s = issue (s.turn c i) := by
  rw [step, stepOnce, on, thawed, turn_eq first]
  exact stepRunning_eq_issue (s.tick_agenda.trans quiet) (s.tick_turns.trans first) issues

/-- A turn changes no slot. -/
theorem slot_enterSlot (s : State) (c i : Nat) : (s.enterSlot c i).slot = s.slotAt c i := by
  simp [enterSlot, slot, slotAt, core, setCore]

theorem live_of_issues {s : State} {c i : Nat} (issues : s.issues c i = true) : (s.enterSlot c i).Live := by
  rw [Live, slot_enterSlot]
  simp only [State.issues, Bool.and_eq_true, beq_iff_eq] at issues
  obtain ⟨⟨ready, -⟩, -⟩ := issues
  exact ready

/-- A strand whose pc is at the I-store's size or beyond fetches nothing and traps (R124). -/
theorem issue_pastEnd {s : State} (past : istoreSize s.cur.1 ≤ s.pc.toNat) : issue s = .next (s.trap .badTarget 0 s.pc 0) :=
  if_pos past

/-- With no group open the next one starts at the pc. -/
theorem groupStart_slot {s : State} (closed : s.slot.pre = none) : groupStart s.slot = s.pc := by
  rw [groupStart, closed]
  rfl

end State

/-- Settles O16: a bad target fails `goodTarget`, so every form that goes to it traps; ECAUSE, EADDR and EPC are those of the slot that the
trap enters, and a fetch at the I-store's size is such a trap at the pc. -/
theorem badTargets : Obligations.BadTargets := by
  unfold Obligations.BadTargets
  intro s t size bad traps calls
  have isBad (hbad : bad) : s.goodTarget t = false := State.goodTarget_eq_false_iff.2 hbad
  have jumps (hbad : bad) (k : State → State) : (.next (s.finish (s.jump t k)) : Out) = .next (s.trap .badTarget 0 t 0) :=
    congrArg _ (State.finish_jump_badTarget (isBad hbad) k)
  have branches (hbad : bad) {P : Prop} [Decidable P] (taken : P) :
      (.next (s.branchTo P t) : Out) = .next (s.trap .badTarget 0 t 0) :=
    congrArg _ (State.branchTo_badTarget (isBad hbad) taken)
  refine ⟨?branches, ?jumps, ?entry, ?pastEnd⟩
  case branches =>
    intro hbad h a b o n x y
    refine ⟨fun ht => ?near, fun ht => ?far⟩
    case near =>
      obtain rfl : t = s.pc + s.wordOffset o := ht.trans (congrArg (s.pc + · * 4) (s.immSigned_eq o).symm)
      exact ⟨(exec_jl_eq h a o).trans (jumps hbad _), fun taken => (exec_beq_eq h a b o).trans (branches hbad taken),
        fun taken => (exec_bne_eq h a b o).trans (branches hbad taken),
        fun taken => (exec_blt_eq h a b o).trans (branches hbad taken),
        fun taken => (exec_bge_eq h a b o).trans (branches hbad taken)⟩
    case far =>
      obtain rfl : t = s.pc + s.wordOffset n := ht.trans (congrArg (s.pc + · * 4) (s.immSigned_eq n).symm)
      exact ⟨fun taken => (exec_bltu_eq h a b n).trans (branches hbad taken),
        fun taken => (exec_bgeu_eq h a b n).trans (branches hbad taken)⟩
  case jumps =>
    intro hbad h a o
    refine ⟨fun ht => ?offset, fun ht => ?register, fun ht => ?link⟩
    case offset =>
      subst ht
      exact ⟨(exec_j_eq h o).trans (jumps hbad _), fun ⟨user, idle⟩ => exec_call_badTarget h user idle (isBad hbad)⟩
    case register =>
      subst ht
      exact ⟨(exec_jr_eq h a).trans (jumps hbad _), fun ⟨user, idle⟩ => exec_callr_badTarget h user idle (isBad hbad)⟩
    case link =>
      subst ht
      exact fun ⟨user, idle⟩ inFrame => exec_ret_badTarget h user idle inFrame (isBad hbad)
  case entry =>
    intro live first alone scalar u
    have entered : u.slot = _ := State.slot_trap live first alone .badTarget 0 0 t
    rw [entered]
    exact ⟨State.bits_causeWord_code .., State.bit_causeWord_precise .., rfl, State.enteredSlot_u scalar .., rfl,
      State.mem_trap first alone ..⟩
  case pastEnd =>
    intro c i rest on thawed quiet turns issues k atEnd closed first alone
    have turned : k = _ := State.turn_eq turns
    have live : k.Live := turned ▸ State.live_of_issues issues
    have pc : k.pc = BitVec.ofNat 64 (size c) := by rw [← atEnd, BitVec.ofNat_toNat, BitVec.setWidth_eq]
    have trapped : step s = .next (k.trap .badTarget 0 k.pc 0) :=
      (State.step_eq_issue on thawed quiet turns issues).trans (State.issue_pastEnd (Nat.le_of_eq atEnd.symm))
    refine ⟨_, trapped, ?_⟩
    rw [State.slot_trap live first alone]
    exact ⟨State.bits_causeWord_code .., State.bit_causeWord_precise .., (State.groupStart_slot closed).trans pc, pc⟩

end Sys2Proof.Machine
end

section
/-!
PROOFS. Decoding and encoding (R72 to R89): the round trip of each word, put together over the instruction's constructor.
-/

namespace Sys2Proof.Laws

/-- An event is no word, so only the words have something to show, each by the lemma of its name. -/
theorem roundTrip (i : Instr) : RoundTrip.Statement i := by
  cases i with
  | srd => exact RoundTrip.srd _ _
  | swr => exact RoundTrip.swr _ _
  | trap => exact RoundTrip.trap _
  | eret => exact RoundTrip.eret
  | brk => exact RoundTrip.brk _
  | wfm => exact RoundTrip.wfm _
  | exit => exact RoundTrip.exit
  | ckpt => exact RoundTrip.ckpt _ _
  | tlbinv => exact RoundTrip.tlbinv _ _
  | ctxsv => exact RoundTrip.ctxsv _ _ _
  | ctxld => exact RoundTrip.ctxld _ _ _
  | add => exact RoundTrip.add _ _ _
  | sub => exact RoundTrip.sub _ _ _
  | and => exact RoundTrip.and _ _ _
  | or => exact RoundTrip.or _ _ _
  | xor => exact RoundTrip.xor _ _ _
  | andn => exact RoundTrip.andn _ _ _
  | shl => exact RoundTrip.shl _ _ _
  | shr => exact RoundTrip.shr _ _ _
  | sra => exact RoundTrip.sra _ _ _
  | rot => exact RoundTrip.rot _ _ _
  | clz => exact RoundTrip.clz _ _
  | ctz => exact RoundTrip.ctz _ _
  | popc => exact RoundTrip.popc _ _
  | min => exact RoundTrip.min _ _ _
  | max => exact RoundTrip.max _ _ _
  | minu => exact RoundTrip.minu _ _ _
  | maxu => exact RoundTrip.maxu _ _ _
  | sel => exact RoundTrip.sel _ _ _
  | cmpeq => exact RoundTrip.cmpeq _ _ _
  | cmplt => exact RoundTrip.cmplt _ _ _
  | cmpltu => exact RoundTrip.cmpltu _ _ _
  | addi => exact RoundTrip.addi _ _ _
  | andi => exact RoundTrip.andi _ _ _
  | ori => exact RoundTrip.ori _ _ _
  | xori => exact RoundTrip.xori _ _ _
  | shli => exact RoundTrip.shli _ _ _
  | shri => exact RoundTrip.shri _ _ _
  | srai => exact RoundTrip.srai _ _ _
  | cmpeqi => exact RoundTrip.cmpeqi _ _ _
  | cmplti => exact RoundTrip.cmplti _ _ _
  | movhi => exact RoundTrip.movhi _ _
  | addpc => exact RoundTrip.addpc _ _
  | mul => exact RoundTrip.mul _ _ _
  | mulh => exact RoundTrip.mulh _ _ _
  | mulhu => exact RoundTrip.mulhu _ _ _
  | div => exact RoundTrip.div _ _ _
  | divu => exact RoundTrip.divu _ _ _
  | rem => exact RoundTrip.rem _ _ _
  | remu => exact RoundTrip.remu _ _ _
  | fadd => exact RoundTrip.fadd _ _ _
  | fsub => exact RoundTrip.fsub _ _ _
  | fmul => exact RoundTrip.fmul _ _ _
  | ffma => exact RoundTrip.ffma _ _ _
  | fdiv => exact RoundTrip.fdiv _ _ _
  | fsqrt => exact RoundTrip.fsqrt _ _
  | fmin => exact RoundTrip.fmin _ _ _
  | fmax => exact RoundTrip.fmax _ _ _
  | fcmp => exact RoundTrip.fcmp _ _ _ _
  | fcvtif => exact RoundTrip.fcvtif _ _ _
  | fcvtfi => exact RoundTrip.fcvtfi _ _ _
  | beq => exact RoundTrip.beq _ _ _
  | bne => exact RoundTrip.bne _ _ _
  | jl => exact RoundTrip.jl _ _
  | blt => exact RoundTrip.blt _ _ _
  | bge => exact RoundTrip.bge _ _ _
  | bltu => exact RoundTrip.bltu _ _ _
  | bgeu => exact RoundTrip.bgeu _ _ _
  | jr => exact RoundTrip.jr _
  | callr => exact RoundTrip.callr _
  | ret => exact RoundTrip.ret
  | j => exact RoundTrip.j _
  | call => exact RoundTrip.call _
  | ldb => exact RoundTrip.ldb _ _ _
  | ldbu => exact RoundTrip.ldbu _ _ _
  | ldh => exact RoundTrip.ldh _ _ _
  | ldhu => exact RoundTrip.ldhu _ _ _
  | ldw => exact RoundTrip.ldw _ _ _
  | ldwu => exact RoundTrip.ldwu _ _ _
  | ldd => exact RoundTrip.ldd _ _ _
  | stb => exact RoundTrip.stb _ _ _
  | sth => exact RoundTrip.sth _ _ _
  | stw => exact RoundTrip.stw _ _ _
  | std => exact RoundTrip.std _ _ _
  | amoadd => exact RoundTrip.amoadd _ _ _ _
  | amoand => exact RoundTrip.amoand _ _ _ _
  | amoor => exact RoundTrip.amoor _ _ _ _
  | amoxor => exact RoundTrip.amoxor _ _ _ _
  | amomin => exact RoundTrip.amomin _ _ _ _
  | amomax => exact RoundTrip.amomax _ _ _ _
  | amominu => exact RoundTrip.amominu _ _ _ _
  | amomaxu => exact RoundTrip.amomaxu _ _ _ _
  | amoswp => exact RoundTrip.amoswp _ _ _ _
  | amocas => exact RoundTrip.amocas _ _ _ _
  | amofadd => exact RoundTrip.amofadd _ _ _
  | fence => exact RoundTrip.fence _ _
  | waita => exact RoundTrip.waita _ _ _ _
  | flushr => exact RoundTrip.flushr _ _ _
  | invr => exact RoundTrip.invr _ _ _
  | pref => exact RoundTrip.pref _ _
  | vld => exact RoundTrip.vld _ _ _ _
  | vst => exact RoundTrip.vst _ _ _ _
  | vlds => exact RoundTrip.vlds _ _ _ _ _
  | vsts => exact RoundTrip.vsts _ _ _ _ _
  | vgath => exact RoundTrip.vgath _ _ _ _ _
  | vscat => exact RoundTrip.vscat _ _ _ _ _
  | mod => exact RoundTrip.mod _ _ _ _ _
  | ext => exact RoundTrip.ext _
  | vadd => exact RoundTrip.vadd _ _ _ _ _ _
  | vsub => exact RoundTrip.vsub _ _ _ _ _ _
  | vmul => exact RoundTrip.vmul _ _ _ _ _ _
  | vfma => exact RoundTrip.vfma _ _ _ _ _ _
  | vmin => exact RoundTrip.vmin _ _ _ _ _ _
  | vmax => exact RoundTrip.vmax _ _ _ _ _ _
  | vabs => exact RoundTrip.vabs _ _ _ _
  | vneg => exact RoundTrip.vneg _ _ _ _
  | vrcp => exact RoundTrip.vrcp _ _
  | vrsq => exact RoundTrip.vrsq _ _
  | vexp2 => exact RoundTrip.vexp2 _ _
  | vlog2 => exact RoundTrip.vlog2 _ _
  | vcvt => exact RoundTrip.vcvt _ _ _
  | vpack => exact RoundTrip.vpack _ _ _ _ _
  | vunpack => exact RoundTrip.vunpack _ _ _ _
  | vqnt => exact RoundTrip.vqnt _ _ _
  | viadd => exact RoundTrip.viadd _ _ _ _ _ _
  | visub => exact RoundTrip.visub _ _ _ _ _ _
  | vimul => exact RoundTrip.vimul _ _ _ _ _ _
  | vimac => exact RoundTrip.vimac _ _ _ _ _ _
  | vshl => exact RoundTrip.vshl _ _ _ _ _ _
  | vshr => exact RoundTrip.vshr _ _ _ _ _ _
  | vsra => exact RoundTrip.vsra _ _ _ _ _ _
  | vcmp => exact RoundTrip.vcmp _ _ _ _
  | vsel => exact RoundTrip.vsel _ _ _ _
  | vand => exact RoundTrip.vand _ _ _
  | vor => exact RoundTrip.vor _ _ _
  | vxor => exact RoundTrip.vxor _ _ _
  | kand => exact RoundTrip.kand _ _ _
  | kor => exact RoundTrip.kor _ _ _
  | knot => exact RoundTrip.knot _ _
  | kpopc => exact RoundTrip.kpopc _ _
  | vgrant => exact RoundTrip.vgrant _ _ _
  | vredadd => exact RoundTrip.vredadd _ _ _
  | vredmax => exact RoundTrip.vredmax _ _ _
  | vredmin => exact RoundTrip.vredmin _ _ _
  | vperm => exact RoundTrip.vperm _ _ _
  | vslide => exact RoundTrip.vslide _ _ _
  | vbcast => exact RoundTrip.vbcast _ _
  | vextr => exact RoundTrip.vextr _ _ _
  | vins => exact RoundTrip.vins _ _ _
  | nput => exact RoundTrip.nput _ _ _
  | nget => exact RoundTrip.nget _ _
  | ntry => exact RoundTrip.ntry _ _
  | ntryPut => exact RoundTrip.ntryPut _ _ _ _
  | nclr => exact RoundTrip.nclr _
  | cmps => exact RoundTrip.cmps _
  | dcmp => exact RoundTrip.dcmp
  | mgang => exact RoundTrip.mgang _
  | mwait => exact RoundTrip.mwait _
  | mzero => exact RoundTrip.mzero _ _
  | mmov => exact RoundTrip.mmov _ _ _ _ _ _
  | mlda => exact RoundTrip.mlda _ _ _ _ _ _
  | mldb => exact RoundTrip.mldb _ _ _ _
  | mstd => exact RoundTrip.mstd _ _ _ _ _
  | mma => exact RoundTrip.mma _ _ _ _ _ _
  | mcb => exact RoundTrip.mcb _ _ _ _ _ _
  | mmx => exact RoundTrip.mmx _ _ _ _ _
  | msca => exact RoundTrip.msca _ _ _ _ _ _
  | qpush => exact RoundTrip.qpush _ _ _
  | qpop => exact RoundTrip.qpop _ _
  | qpopAq => exact RoundTrip.qpopAq _ _
  | qtry => exact RoundTrip.qtry _ _
  | qtryAq => exact RoundTrip.qtryAq _ _
  | qputt => exact RoundTrip.qputt _ _ _ _
  | qdepth => exact RoundTrip.qdepth _ _
  | qdepthAq => exact RoundTrip.qdepthAq _ _
  | send => exact RoundTrip.send _ _
  | sendt => exact RoundTrip.sendt _ _ _
  | recv => exact RoundTrip.recv _ _
  | recvt => exact RoundTrip.recvt _ _
  | hret => exact RoundTrip.hret
  | gust => exact RoundTrip.gust _
  | gspawn => exact RoundTrip.gspawn _
  | repb => exact RoundTrip.repb _
  | repe => exact RoundTrip.repe _ _
  | repwait => exact RoundTrip.repwait
  | cpy => exact RoundTrip.cpy _ _ _ _ _ _
  | cpy2d => exact RoundTrip.cpy2d _ _ _ _ _ _
  | cpyn => exact RoundTrip.cpyn _ _ _ _ _ _
  | batch => exact RoundTrip.batch _
  | coll => exact RoundTrip.coll _ _ _ _
  | hashc => exact RoundTrip.hashc _ _ _ _
  | signc => exact RoundTrip.signc _ _ _
  | rndg => exact RoundTrip.rndg _
  | tlwait => exact RoundTrip.tlwait _ _
  | tlwaitb => exact RoundTrip.tlwaitb _ _
  | tlread => exact RoundTrip.tlread _ _ _
  | cntwait => exact RoundTrip.cntwait _ _ _
  | cancel => exact RoundTrip.cancel _ _
  | phadv => exact RoundTrip.phadv _
  | phread => exact RoundTrip.phread _ _
  | pcnt => exact RoundTrip.pcnt _ _ _ _
  | launch => exact RoundTrip.launch _ _
  | cbload => exact RoundTrip.cbload _ _
  | htset => exact RoundTrip.htset _ _
  | epreq => exact RoundTrip.epreq _ _ _
  | ownset => exact RoundTrip.ownset _ _
  | cmap => exact RoundTrip.cmap _ _ _ _ _
  | urtset => exact RoundTrip.urtset _ _
  | schset => exact RoundTrip.schset _ _ _
  | seqnew => exact RoundTrip.seqnew _
  | seqend => exact RoundTrip.seqend _
  | mext => exact RoundTrip.mext _ _ _ _
  | halign => exact RoundTrip.halign _ _
  | hpref => exact RoundTrip.hpref _ _
  | hevict => exact RoundTrip.hevict _ _
  | hprio => exact RoundTrip.hprio _ _
  | hlikely => exact RoundTrip.hlikely _ _
  | _ => exact nofun

/-- Settles O2: the round trip holds constructor by constructor. -/
theorem decodeEncode : Obligations.DecodeEncode := roundTrip

end Sys2Proof.Laws
end


section
/-!
PROOFS. Scalar registers and integer instructions (R73, R101, R106, R117, R118): what a register read gives after a write, the one register
that an integer instruction writes, and the results by name.
-/

namespace Sys2Proof.Machine

namespace State

/-! ### Registers (R73, R101, R106) -/

theorem reg_user {s : State} {r : Reg} (window : 8 ≤ r.toNat) (user : s.slot.mode = false) :
    s.reg r = s.u.w[r.toNat - 8]?.getD 0 := by
  rw [reg, if_neg (by omega), if_neg (by omega), user, if_neg Bool.false_ne_true]

theorem reg_supervisor {s : State} {r : Reg} (window : 8 ≤ r.toNat) (super : s.slot.mode = true) :
    s.reg r = s.slot.sw[r.toNat - 8]?.getD 0 := by
  rw [reg, if_neg (by omega), if_neg (by omega), super, if_pos rfl]

theorem reg_global {s : State} {r : Reg} (positive : 0 < r.toNat) (fixed : r.toNat < 8) : s.reg r = s.u.g[r.toNat]?.getD 0 := by
  rw [reg, if_neg (by omega), if_pos fixed]

end State

/-- Settles O4: a register is read where it was written, and nowhere else. -/
theorem scalarRegisters : Obligations.ScalarRegisters := by
  unfold Obligations.ScalarRegisters
  intro s live
  exact ⟨State.reg_zero s, State.setReg_zero s, fun _ x nonzero => State.reg_setReg live x nonzero,
    fun _ _ x other => State.reg_setReg_other live x other, fun _ window user => State.reg_user window user,
    fun _ window super => State.reg_supervisor window super, fun _ positive fixed => State.reg_global positive fixed⟩

/-! ### Destinations (R117, R118) -/

theorem exec_sel_ok {s : State} (h : s.NoPrefix) (d a b : Reg) :
    exec (.sel d a b) s = .next (s.setReg d (if s.reg d != 0 then s.reg a else s.reg b)).retire := by
  rw [exec_sel, execSel, State.plain_ok h, State.finish_ok]

theorem exec_movhi_ok {s : State} (h : s.ExtFits) (d : Reg) (i : BitVec 16) :
    exec (.movhi d i) s = .next (s.setReg d (s.immSigned i * 65536)).retire := by
  rw [exec_movhi, execMovhi, State.withExt_ok h, State.finish_ok]

theorem exec_addpc_ok {s : State} (h : s.ExtFits) (d : Reg) (i : BitVec 16) :
    exec (.addpc d i) s = .next (s.setReg d (s.pc + s.immSigned i * 65536)).retire := by
  rw [exec_addpc, execAddpc, State.withExt_ok h, State.finish_ok]

/-- Settles O5: every form writes its destination and retires, whatever it computes. -/
theorem integerFrame : Obligations.IntegerFrame := by
  unfold Obligations.IntegerFrame
  intro d a b i n s live unstepped completes
  have writes {x : Instr} {v : Word} (ends : exec x s = .next (s.setReg d v).retire) : completes x :=
    ⟨_, ends, State.retire_frame live unstepped d v⟩
  refine ⟨fun plain => ?registers, fun fits => ?immediates⟩
  case registers =>
    have two {x : Instr} {f : Word → Word → Word} (form : exec x s = binary d a b f s) : completes x :=
      writes (form.trans (binary_ok plain d a b f))
    have one {x : Instr} {f : Word → Word} (form : exec x s = unary d a f s) : completes x :=
      writes (form.trans (unary_ok plain d a f))
    have select : completes (.sel d a b) := writes (exec_sel_ok plain d a b)
    simp only [List.forall_mem_cons]
    exact ⟨two (exec_add ..), two (exec_sub ..), two (exec_and ..), two (exec_or ..), two (exec_xor ..), two (exec_andn ..),
      two (exec_shl ..), two (exec_shr ..), two (exec_sra ..), two (exec_rot ..), one (exec_clz ..), one (exec_ctz ..),
      one (exec_popc ..), two (exec_min ..), two (exec_max ..), two (exec_minu ..), two (exec_maxu ..), select,
      two (exec_cmpeq ..), two (exec_cmplt ..), two (exec_cmpltu ..), one (exec_shli ..), one (exec_shri ..), one (exec_srai ..),
      two (exec_mul ..), two (exec_mulh ..), two (exec_mulhu ..), two (exec_div ..), two (exec_divu ..), two (exec_rem ..),
      two (exec_remu ..), List.forall_mem_nil _⟩
  case immediates =>
    have signed {x : Instr} {f : Word → Word → Word} (form : exec x s = immediate d a i f s) : completes x :=
      writes (form.trans (immediate_ok fits d a i f))
    have logical {x : Instr} {f : Word → Word → Word} (form : exec x s = logicalImmediate d a i f s) : completes x :=
      writes (form.trans (logicalImmediate_ok fits d a i f))
    have high : completes (.movhi d i) := writes (exec_movhi_ok fits d i)
    have relative : completes (.addpc d i) := writes (exec_addpc_ok fits d i)
    simp only [List.forall_mem_cons]
    exact ⟨signed (exec_addi ..), logical (exec_andi ..), logical (exec_ori ..), logical (exec_xori ..), signed (exec_cmpeqi ..),
      signed (exec_cmplti ..), high, relative, List.forall_mem_nil _⟩

/-! ### Results (R117, R118) -/

/-- An arithmetic shift to the right divides, rounding down. -/
theorem sshiftRight_eq_ofInt (x : Word) (n : Nat) : x.sshiftRight n = BitVec.ofInt 64 (x.toInt / 2 ^ n) := by
  rw [BitVec.sshiftRight, Int.shiftRight_eq_div_pow]
  exact congrArg (fun d : Int => BitVec.ofInt 64 (x.toInt / d)) (Int.natCast_pow 2 n)

theorem boolWord_decide (p : Prop) [Decidable p] : boolWord (decide p) = if p then 1 else 0 := by
  by_cases h : p <;> simp [boolWord, h]

theorem boolWord_beq (x y : Word) : boolWord (x == y) = if x = y then 1 else 0 := boolWord_decide (x = y)

theorem boolWord_slt (x y : Word) : boolWord (x.slt y) = if x.toInt < y.toInt then 1 else 0 := boolWord_decide (x.toInt < y.toInt)

theorem boolWord_ult (x y : Word) : boolWord (x.ult y) = if x.toNat < y.toNat then 1 else 0 := boolWord_decide (x.toNat < y.toNat)

/-- A choice by a signed comparison, as MIN and MAX make it. -/
theorem ite_slt (x y p q : Word) : (if x.slt y then p else q) = if x.toInt < y.toInt then p else q := by
  simp only [BitVec.slt_iff_toInt_lt]

/-- A choice by an unsigned comparison, as MINU and MAXU make it. -/
theorem ite_ult (x y p q : Word) : (if x.ult y then p else q) = if x.toNat < y.toNat then p else q := by
  simp only [BitVec.ult_iff_toNat_lt]

theorem rotateRight_shiftAmount (x y : Word) :
    rotateRight x (shiftAmount y) = x >>> (y.toNat % 64) ||| x <<< (64 - y.toNat % 64) := by
  rw [rotateRight, shiftAmount, BitVec.rotateRight, Nat.mod_mod]
  rfl

/-- An EXT puts its 26 bits above the field's, and the whole is zero-extended (R84). -/
theorem State.immLogical_eq (s : State) (f : BitVec 16) :
    s.immLogical f = match s.ext? with | none => f.setWidth 64 | some e => (e ++ f).setWidth 64 := by
  unfold immLogical
  cases s.ext? with
  | none => rfl
  | some e => simp only [← toNat_append_eq, BitVec.ofNat_toNat]

/-- Settles O6: the register that each form writes, with what it computes brought to the manual's terms. -/
theorem integerResults : Obligations.IntegerResults := by
  unfold Obligations.IntegerResults
  refine ⟨fun s d a b plain => ?registers, fun s d a i n fits => ?immediates⟩
  case registers =>
    intro x y n
    have two {i : Instr} {f : Word → Word → Word} {v : Word} (form : exec i s = binary d a b f s) (computes : f x y = v) :
        exec i s = .next (s.setReg d v).retire := computes ▸ form.trans (binary_ok plain d a b f)
    have select : exec (.sel d a b) s = .next (s.setReg d (if s.reg d ≠ 0 then x else y)).retire := by
      rw [exec_sel_ok plain]
      simp only [bne_iff_ne]
      rfl
    exact ⟨two (exec_add ..) rfl, two (exec_sub ..) rfl, two (exec_and ..) rfl, two (exec_or ..) rfl, two (exec_xor ..) rfl,
      two (exec_andn ..) rfl, two (exec_shl ..) rfl, two (exec_shr ..) rfl, two (exec_sra ..) (sshiftRight_eq_ofInt x n),
      two (exec_rot ..) (rotateRight_shiftAmount x y), select, two (exec_min ..) (ite_slt ..), two (exec_max ..) (ite_slt ..),
      two (exec_minu ..) (ite_ult ..), two (exec_maxu ..) (ite_ult ..), two (exec_cmpeq ..) (boolWord_beq ..),
      two (exec_cmplt ..) (boolWord_slt ..), two (exec_cmpltu ..) (boolWord_ult ..)⟩
  case immediates =>
    intro x w z
    have hw : s.immSigned i = w := s.immSigned_eq i
    have hz : s.immLogical i = z := s.immLogical_eq i
    have signed {j : Instr} {f : Word → Word → Word} {v : Word} (form : exec j s = immediate d a i f s) (computes : f x w = v) :
        exec j s = .next (s.setReg d v).retire := by rw [form, immediate_ok fits, hw, computes]
    have logical {j : Instr} {f : Word → Word → Word} (form : exec j s = logicalImmediate d a i f s) :
        exec j s = .next (s.setReg d (f x z)).retire := by rw [form, logicalImmediate_ok fits, hz]
    have one {j : Instr} {f : Word → Word} {v : Word} (plain : s.NoPrefix) (form : exec j s = unary d a f s) (computes : f x = v) :
        exec j s = .next (s.setReg d v).retire := computes ▸ form.trans (unary_ok plain d a f)
    exact ⟨signed (exec_addi ..) rfl, logical (exec_andi ..), logical (exec_ori ..), logical (exec_xori ..),
      signed (exec_cmpeqi ..) (boolWord_beq ..), signed (exec_cmplti ..) (boolWord_slt ..), hw ▸ exec_movhi_ok fits d i,
      hw ▸ exec_addpc_ok fits d i, fun plain => ⟨one plain (exec_shli ..) rfl, one plain (exec_shri ..) rfl,
        one plain (exec_srai ..) (sshiftRight_eq_ofInt x n.toNat)⟩⟩

/-! ### Counts (R117) -/

theorem leadingZeros_le (x : Word) : leadingZeros x ≤ 64 := by
  unfold leadingZeros
  split <;> omega

/-- Above the leading one every bit is zero. -/
theorem getLsbD_of_leadingZeros (x : Word) {i : Nat} (above : 64 - leadingZeros x ≤ i) : x.getLsbD i = false := by
  by_cases zero : x = 0
  · rw [zero, BitVec.ofNat_eq_ofNat, BitVec.getLsbD_zero]
  · have nonzero : x.toNat ≠ 0 := fun h => zero (BitVec.eq_of_toNat_eq h)
    have small : x.toNat.log2 < 64 := (Nat.log2_lt nonzero).2 x.isLt
    rw [leadingZeros, if_neg zero] at above
    exact Nat.testBit_lt_two_pow ((Nat.log2_lt nonzero).1 (by omega))

/-- And the leading one is set. -/
theorem getLsbD_leading (x : Word) (some : leadingZeros x < 64) : x.getLsbD (63 - leadingZeros x) = true := by
  have zero : x ≠ 0 := by
    rintro rfl
    exact absurd some (by decide)
  have nonzero : x.toNat ≠ 0 := fun h => zero (BitVec.eq_of_toNat_eq h)
  have small : x.toNat.log2 < 64 := (Nat.log2_lt nonzero).2 x.isLt
  have position : 63 - leadingZeros x = x.toNat.log2 := by
    rw [leadingZeros, if_neg zero]
    omega
  rw [position]
  exact Nat.testBit_log2 nonzero

/-- The search for the lowest set bit from `i` on ends at it, or past the `n` bits that it may look at. -/
theorem trailingFrom_spec (x : Word) (n i : Nat) :
    i ≤ trailingFrom x n i ∧ trailingFrom x n i ≤ i + n ∧ (∀ j, i ≤ j → j < trailingFrom x n i → x.getLsbD j = false) ∧
      (trailingFrom x n i < i + n → x.getLsbD (trailingFrom x n i) = true) := by
  induction n generalizing i with
  | zero => exact ⟨Nat.le_refl i, Nat.le_refl i, fun j low high => absurd high (Nat.not_lt.2 low), fun h => absurd h (Nat.lt_irrefl i)⟩
  | succ n ih =>
    by_cases set : x.getLsbD i = true
    · rw [trailingFrom, if_pos set]
      exact ⟨Nat.le_refl i, Nat.le_add_right .., fun j low high => absurd high (Nat.not_lt.2 low), fun _ => set⟩
    · obtain ⟨low, high, zeros, one⟩ := ih (i + 1)
      rw [trailingFrom, if_neg set]
      refine ⟨by omega, by omega, fun j hj below => ?_, fun h => one (by omega)⟩
      rcases Nat.eq_or_lt_of_le hj with rfl | later
      · exact Bool.eq_false_iff.2 set
      · exact zeros j later below

theorem popCount_eq_length (x : Word) (n : Nat) : popCount x n = ((List.range n).filter fun i => x.getLsbD i).length := by
  induction n with
  | zero => rfl
  | succ n ih =>
    rw [popCount, ih, List.range_succ, List.filter_append, List.length_append]
    cases h : x.getLsbD n <;> simp [h]

/-- Settles O7: CLZ by the position of the leading one, CTZ by the search from bit 0 up, POPC by induction on the bits counted. -/
theorem bitCounts : Obligations.BitCounts := by
  unfold Obligations.BitCounts
  intro s d a plain
  obtain ⟨-, most, zeros, one⟩ := trailingFrom_spec (s.reg a) 64 0
  rw [Nat.zero_add] at most one
  refine ⟨⟨_, (exec_clz ..).trans (unary_ok plain d a _), leadingZeros_le _, fun i => getLsbD_of_leadingZeros _, getLsbD_leading _⟩,
    ⟨_, (exec_ctz ..).trans (unary_ok plain d a _), most, fun i below => zeros i (Nat.zero_le i) below, one⟩, ?_⟩
  rw [exec_popc, execPopc, unary_ok plain, popCount_eq_length]

end Sys2Proof.Machine
end

section
/-!
PROOFS. Prefixes, trap entry and return (R86, R114, R115, R127, R128, R366, R368): a MOD that ends a repetition body, the slot
that a precise trap enters, the halt on a double trap, and what ERET leaves.
-/

namespace Sys2Proof.Machine

/-! ### A MOD that ends a body (R86, R290) -/

/-- A strand whose sequencer is in a body of no words: no word follows another there. -/
def bodyEnd : State :=
  { State.reset with cores := [(0, { slots := Vector.ofFn fun _ => { status := .ready, u := { rep := { stream := some {} } } } })] }

/-- There MOD opens no group: it traps, as in the last word of the I-store. -/
theorem exec_mod_bodyEnd : ∃ c, exec (.mod 0 0 0 0 0) bodyEnd = .next (bodyEnd.trap c 0 0 0) := by
  have last : (bodyEnd.groupWord (bodyEnd.pc.toNat + 4)).isNone = true := by decide
  refine ⟨bodyEnd.groupFault (istoreSize bodyEnd.cur.1 / 4) (bodyEnd.pc.toNat + 4) .illPrefix, congrArg Host.Outcome.next ?_⟩
  rw [State.takePrefix, last, Bool.or_true, if_pos rfl]

/-- Refutes O9: the statement bounds the pc by the I-store alone, and a MOD that ends a repetition body opens no group. -/
theorem not_prefixesAndFates : ¬ Obligations.PrefixesAndFates := by
  unfold Obligations.PrefixesAndFates
  rintro ⟨prefixes, -⟩
  have live : bodyEnd.Live := by unfold State.Live; decide
  obtain ⟨opens, -⟩ := prefixes bodyEnd 0 0 0 0 0 0 live (by decide)
  obtain ⟨t, runs, opened, -⟩ := opens (by decide)
  obtain ⟨c, traps⟩ := exec_mod_bodyEnd
  obtain rfl : bodyEnd.trap c 0 0 0 = t := Host.Outcome.next.inj (traps.symm.trans runs)
  rw [State.slot_trap live (by decide) (by decide)] at opened
  exact Option.some_ne_none _ opened.symm

/-! ### ECAUSE (R115) -/

namespace State

section
variable (c : Cause) (precise mode ie : Bool) (info : Nat)

theorem bit_causeWord_reserved : bit (causeWord c precise mode ie info) 7 = false := by
  have := c.code_lt
  rw [bit, BitVec.getLsbD, toNat_causeWord, Nat.testBit_eq_decide_div_mod_eq]
  exact decide_eq_false (by omega)

theorem bit_causeWord_mode : bit (causeWord c precise mode ie info) 9 = mode := by
  have := c.code_lt
  have := precise.toNat_le
  rw [bit, BitVec.getLsbD, toNat_causeWord, Nat.testBit_eq_decide_div_mod_eq]
  cases mode with
  | false => exact decide_eq_false (by rw [Bool.toNat_false]; omega)
  | true => exact decide_eq_true (by rw [Bool.toNat_true]; omega)

theorem bit_causeWord_ie : bit (causeWord c precise mode ie info) 10 = ie := by
  have := c.code_lt
  have := precise.toNat_le
  have := mode.toNat_le
  rw [bit, BitVec.getLsbD, toNat_causeWord, Nat.testBit_eq_decide_div_mod_eq]
  cases ie with
  | false => exact decide_eq_false (by rw [Bool.toNat_false]; omega)
  | true => exact decide_eq_true (by rw [Bool.toNat_true]; omega)

theorem bits_causeWord_zero : bits (causeWord c precise mode ie info) 15 11 = 0 := by
  have := c.code_lt
  have := precise.toNat_le
  have := mode.toNat_le
  have := ie.toNat_le
  rw [bits, toNat_causeWord, Nat.shiftRight_eq_div_pow]
  omega

theorem bits_causeWord_info : bits (causeWord c precise mode ie info) 63 16 = info % 2 ^ 48 := by
  have := c.code_lt
  have := precise.toNat_le
  have := mode.toNat_le
  have := ie.toNat_le
  rw [bits, toNat_causeWord, Nat.shiftRight_eq_div_pow]
  omega

end

/-! ### Entry (R366, R368) -/

theorem trap_same {s : State} (first : s.slot.nest = false) (alone : s.slot.pair = none) (c : Cause) (info n : Nat) (a : Word) :
    SameElsewhere s (s.trap c info a n) ∧ SameCore s (s.trap c info a n) := by
  rw [trap_eq first alone]
  exact same_trans (count_same s 11 1) (setSlot_same _ _)

theorem groupStart_eq (s : State) : groupStart s.slot = match s.slot.pre with | some p => p.start | none => s.pc := by
  unfold groupStart State.pc u
  cases s.slot.pre <;> rfl

/-- In supervisor mode the next word is that of the supervisor's own pc. -/
theorem pc_of_supervisor {s : State} (super : s.slot.mode = true) : s.pc = s.slot.spc := by rw [State.pc, super, if_pos rfl]

theorem pc_of_user {s : State} (user : s.slot.mode = false) : s.pc = s.slot.u.pc := by
  rw [State.pc, user, if_neg Bool.false_ne_true, u]

theorem trap_of_nest {s : State} (nested : s.slot.nest = true) (c : Cause) (info n : Nat) (a : Word) :
    s.trap c info a n = s.doubleTrap s.cur.1 := by
  rw [trap, takeTrap, show (s.slotAt s.cur.1 s.cur.2).nest = true from nested]
  rfl

theorem slotAt_doubleTrap (s : State) (c : Nat) {i : Nat} (h : i < 4) :
    (s.doubleTrap c).slotAt c i =
      if (s.slotAt c i).status = .free then s.slotAt c i else { s.slotAt c i with status := .halted .core } := by
  simp only [doubleTrap, slotAt, core_setCore_same, Vector.each, Vector.getElem_ofFn, h, Option.getD_some,
    Vector.getElem?_eq_getElem, Fin.getElem_fin]

end State

/-- Settles O10: a first trap is its count and the slot that `enteredSlot` gives; a double one rewrites the slots of its core. -/
theorem trapEntry : Obligations.TrapEntry := by
  unfold Obligations.TrapEntry
  refine ⟨fun s c info n a live first alone scalar => ?entry, fun s c info n a _ nested => ?double⟩
  case entry =>
    intro t
    have entered : t.slot = _ := State.slot_trap live first alone c info n a
    obtain ⟨elsewhere, core⟩ := State.trap_same first alone c info n a
    have pc : t.pc = t.slot.spc := State.pc_of_supervisor (by rw [entered]; rfl)
    have nest : (State.enteredSlot s.me.tvec s.native true c info a n s.slot).nest = s.slot.mode := by
      rw [State.enteredSlot, first, Bool.false_or]
    rw [pc, entered]
    exact ⟨s.groupStart_eq, State.bits_causeWord_code .., State.bit_causeWord_reserved .., State.bit_causeWord_precise ..,
      State.bit_causeWord_mode .., State.bit_causeWord_ie .., State.bits_causeWord_zero .., State.bits_causeWord_info .., rfl, rfl,
      nest, rfl, rfl, rfl, rfl, rfl, State.enteredSlot_u scalar .., rfl, elsewhere, core⟩
  case double =>
    intro t
    have halted : t = s.doubleTrap s.cur.1 := State.trap_of_nest nested c info n a
    have core (d : Nat) : (s.doubleTrap s.cur.1).core d = if d = s.cur.1 then (s.doubleTrap s.cur.1).core s.cur.1 else s.core d := by
      split
      case isTrue same => rw [same]
      case isFalse other => exact State.core_setCore_other _ _ other
    rw [halted]
    refine ⟨?told, ⟨rfl, fun d other => (core d).trans (if_neg other)⟩, fun i below => State.slotAt_doubleTrap s _ below⟩
    show ((s.doubleTrap s.cur.1).core s.cur.1).doubled = true
    rw [State.doubleTrap, State.core_setCore_same]

/-! ### TRAP, BRK and ERET (R127, R128) -/

namespace State

theorem needSupervisor_user {s : State} (user : s.slot.mode = false) : s.needSupervisor = .error (.trap .illPriv 0 0 0 none) := by
  rw [needSupervisor, user, ensure_false]

theorem needSupervisor_ok {s : State} (super : s.slot.mode = true) : s.needSupervisor = .ok () := by
  rw [needSupervisor, super, ensure_true]

/-- The slot that ERET leaves, outside a lockstep pair and a repetition body. -/
def slotReturned (x : Slot) : Slot :=
  let toSuper := bit x.ecause 9
  { x with
    idle := x.idle && toSuper, outer := if toSuper then x.outer else none, mode := toSuper, ie := bit x.ecause 10, nest := false
    pre := none, service := none, status := if x.idle && !toSuper then .free else .ready, spc := if toSuper then x.epc else x.spc
    u := if toSuper then x.u else { x.u with pc := x.epc } }

theorem returnFromTrap_eq {s : State} (alone : s.slot.pair = none) (scalar : s.u.rep.fromBody = false) :
    s.returnFromTrap = s.setSlot (slotReturned s.slot) := by
  have scalar : s.slot.u.rep.fromBody = false := scalar
  simp only [returnFromTrap, commit_eq_self alone, scalar, Bool.and_false, Bool.false_eq_true, if_false]
  rfl

end State

theorem exec_trap_ok {s : State} (h : s.NoPrefix) (c : BitVec 11) :
    exec (.trap c) s = .next (s.trap .trapCall c.toNat 0 0) := by
  rw [exec_trap, execTrap, State.plain_ok h]
  rfl

theorem exec_brk_ok {s : State} (h : s.NoPrefix) (c : BitVec 11) :
    exec (.brk c) s = .next (s.trap .breakpoint c.toNat 0 0) := by
  rw [exec_brk, execBrk, State.plain_ok h]
  rfl

/-- Settles O11: TRAP and BRK raise their cause; ERET rewrites the slot as `slotReturned` says and counts the group. -/
theorem trapCallsAndReturn : Obligations.TrapCallsAndReturn := by
  unfold Obligations.TrapCallsAndReturn
  refine ⟨fun s c plain => ⟨exec_trap_ok plain c, exec_brk_ok plain c⟩, fun s plain live => ⟨fun user => ?user, ?supervisor⟩⟩
  case user =>
    rw [exec_eret, execEret, State.plain_ok plain, State.needSupervisor_user user]
    rfl
  case supervisor =>
    intro super alone scalar t
    have returned : t = (s.setSlot (State.slotReturned s.slot)).count s.cur.1 1 1 := by
      rw [← State.returnFromTrap_eq alone scalar]
    have slot : t.slot = State.slotReturned s.slot := by
      rw [returned, State.slot_count, State.slot_setSlot _ _ live.lt]
    obtain ⟨elsewhere, core⟩ := State.same_trans (State.setSlot_same s (State.slotReturned s.slot)) (State.count_same _ 1 1)
    have strand : t.u = if bit s.slot.ecause 9 then s.slot.u else { s.slot.u with pc := s.slot.epc } := congrArg Slot.u slot
    refine ⟨?runs, ?pc, congrArg Slot.mode slot, congrArg Slot.ie slot, congrArg Slot.nest slot, ?status, (congrArg Slot.eprog slot :),
      (congrArg Slot.sw slot :), ?g, ?w, returned ▸ elsewhere, returned ▸ core⟩
    case runs =>
      rw [exec_eret, execEret, State.plain_ok plain, State.needSupervisor_ok super]
      rfl
    case pc =>
      cases toSuper : bit s.slot.ecause 9 with
      | false =>
        rw [State.pc_of_user ((congrArg Slot.mode slot).trans toSuper), slot, State.slotReturned, toSuper]
        rfl
      | true =>
        rw [State.pc_of_supervisor ((congrArg Slot.mode slot).trans toSuper), slot, State.slotReturned, toSuper]
        rfl
    case status =>
      rw [slot, State.slotReturned]
      simp only [Bool.and_eq_true, Bool.not_eq_true']
    all_goals
      rw [strand]
      split <;> rfl

end Sys2Proof.Machine
end

section
/-!
PROOFS. Scalar floating point (R44, R46, R55 to R59, R120, R121): a finite pattern is the rounding of its own value, the effect of a
floating-point word with and without an enabled exception, and the results of NaN operands.
-/

namespace Sys2Proof.Machine

/-! ### Exact values (R44, R56) -/

/-- A format whose top binade lies above the subnormals and whose significands have a fraction. -/
structure FloatFormat.Regular (f : FloatFormat) : Prop where
  fraction : 2 ≤ 2 ^ f.manBits
  exponent : 4 ≤ 2 ^ f.expBits

/-- A value on the grid of its own step is not changed by rounding to it. -/
theorem roundStep_self (mode : Round) (neg : Bool) (m : Nat) (q : Int) : roundStep mode neg m q false q = (m, false) := by
  rw [roundStep, if_pos (Int.le_refl q), Int.sub_self]
  exact congrArg (·, false) (Nat.mul_one m)

namespace FloatFormat

variable {f : FloatFormat}

/-- The fields of a pattern: sign, exponent and fraction. -/
theorem pattern_eq {x : Nat} (fits : x < 2 ^ f.width) :
    x = f.signBit (x / 2 ^ (f.expBits + f.manBits) % 2 == 1) +
      (x / 2 ^ f.manBits % 2 ^ f.expBits * 2 ^ f.manBits + x % 2 ^ f.manBits) := by
  have high : x / 2 ^ (f.expBits + f.manBits) < 2 := by
    rw [Nat.div_lt_iff_lt_mul (Nat.two_pow_pos _), ← Nat.pow_succ']
    exact Nat.lt_of_lt_of_eq fits (congrArg (2 ^ ·) (by rw [width]; omega))
  have sign : f.signBit (x / 2 ^ (f.expBits + f.manBits) % 2 == 1) = x / 2 ^ (f.expBits + f.manBits) * 2 ^ (f.expBits + f.manBits) := by
    rw [signBit]
    rcases Nat.lt_or_ge (x / 2 ^ (f.expBits + f.manBits)) 1 with h | h
    · rw [Nat.lt_one_iff.1 h]; simp
    · rw [show x / 2 ^ (f.expBits + f.manBits) = 1 by omega]; simp
  have upper : x / 2 ^ f.manBits / 2 ^ f.expBits = x / 2 ^ (f.expBits + f.manBits) := by
    rw [Nat.div_div_eq_div_mul, ← Nat.pow_add, Nat.add_comm]
  have outer := Nat.div_add_mod (x / 2 ^ f.manBits) (2 ^ f.expBits)
  have inner := Nat.div_add_mod x (2 ^ f.manBits)
  rw [sign]
  rw [upper] at outer
  generalize x / 2 ^ (f.expBits + f.manBits) = s at *
  calc x = 2 ^ f.manBits * (2 ^ f.expBits * s + x / 2 ^ f.manBits % 2 ^ f.expBits) + x % 2 ^ f.manBits := by rw [outer, inner]
    _ = _ := by
      rw [Nat.pow_add, Nat.mul_add, ← Nat.mul_assoc, Nat.mul_comm _ s, Nat.mul_comm (2 ^ f.manBits) (2 ^ f.expBits),
        Nat.mul_comm (2 ^ f.manBits) (_ % _), Nat.add_assoc]

/-- Rounding leaves a value of the grid as it is: a step `q` not below that of the subnormals, a significand `m` that is full unless the
step is that of the subnormals, and that the format holds. -/
theorem round_exact (mode : Round) (neg : Bool) {m : Nat} {q : Int} (nonzero : m ≠ 0) (low : f.minStep ≤ q)
    (full : m < 2 ^ (f.manBits + 1)) (normal : q = f.minStep ∨ 2 ^ f.manBits ≤ m)
    (held : f.maxStep ≤ q → q = f.maxStep ∧ m ≤ f.maxSig) :
    f.round mode neg m q false = (f.pack neg m q, 0) := by
  have log : m.log2 ≤ f.manBits := Nat.le_of_lt_succ ((Nat.log2_lt nonzero).2 full)
  have step : max (q + (m.log2 : Int) - f.manBits) f.minStep = q := by
    rcases normal with rfl | h
    · omega
    · have : f.manBits ≤ m.log2 := (Nat.le_log2 nonzero).2 h
      omega
  have fits : ¬ (f.maxStep ≤ q ∧ f.maxSig < m * 2 ^ (q - f.maxStep).toNat) := by
    rintro ⟨top, exceeds⟩
    obtain ⟨rfl, le⟩ := held top
    rw [Int.sub_self, Int.toNat_zero, Nat.pow_zero, Nat.mul_one] at exceeds
    omega
  simp only [round, step, roundStep_self, nonzero, fits, false_and, if_false, Bool.false_eq_true]

variable (regular : f.Regular)
include regular

theorem two_pow_manBits_le_maxSig : 2 ^ f.manBits ≤ f.maxSig := by
  have := regular.fraction
  rw [maxSig, Nat.pow_succ]
  split <;> omega

theorem minStep_lt_maxStep : f.minStep < f.maxStep := by
  have := regular.exponent
  have cast : ((2 ^ f.expBits : Nat) : Int) = 2 ^ f.expBits := by norm_cast
  rw [minStep, maxStep]
  split <;> omega

/-- A subnormal packs into its fraction. -/
theorem round_subnormal (mode : Round) (neg : Bool) {m : Nat} (small : m < 2 ^ f.manBits) :
    f.round mode neg m f.minStep false = (f.signBit neg + m, 0) := by
  by_cases zero : m = 0
  · subst zero
    unfold round
    rw [if_pos ⟨rfl, Bool.false_ne_true⟩, Nat.add_zero]
  · have full : m < 2 ^ (f.manBits + 1) := by rw [Nat.pow_succ]; omega
    have order := minStep_lt_maxStep regular
    rw [round_exact mode neg zero (Int.le_refl _) full (.inl rfl) (fun h => by omega), pack, if_neg (Nat.ne_of_lt full)]
    simp only [if_pos small]

/-- A normal value packs into its exponent and fraction. -/
theorem round_normal (mode : Round) (neg : Bool) {m e : Nat} (small : m < 2 ^ f.manBits) (positive : e ≠ 0)
    (held : f.maxStep ≤ f.minStep + e - 1 → f.minStep + e - 1 = f.maxStep ∧ 2 ^ f.manBits + m ≤ f.maxSig) :
    f.round mode neg (2 ^ f.manBits + m) (f.minStep + e - 1) false = (f.signBit neg + (e * 2 ^ f.manBits + m), 0) := by
  have := regular.fraction
  have full : 2 ^ f.manBits + m < 2 ^ (f.manBits + 1) := by rw [Nat.pow_succ]; omega
  have exponent : (f.minStep + e - 1 - f.minStep + 1).toNat = e := by omega
  rw [round_exact mode neg (by omega) (by omega) full (.inr (Nat.le_add_right ..)) held, pack, if_neg (Nat.ne_of_lt full)]
  simp only [Nat.not_lt.2 (Nat.le_add_right (2 ^ f.manBits) m), if_false, exponent, Nat.add_sub_cancel_left]

/-- The exponent fields of the finite values go up to the topmost binade, and there the fractions to the largest value's. -/
theorem held_of_finite {m e : Nat} (top : e < 2 ^ f.expBits) (small : m < 2 ^ f.manBits)
    (noSpecial : ¬(f.special = .ieee ∧ e = 2 ^ f.expBits - 1))
    (noNan : ¬(f.special = .oneNan ∧ e = 2 ^ f.expBits - 1 ∧ m = 2 ^ f.manBits - 1)) (above : f.maxStep ≤ f.minStep + e - 1) :
    f.minStep + e - 1 = f.maxStep ∧ 2 ^ f.manBits + m ≤ f.maxSig := by
  have := regular.exponent
  have cast : ((2 ^ f.expBits : Nat) : Int) = 2 ^ f.expBits := by norm_cast
  rw [maxStep, minStep] at *
  rw [maxSig, Nat.pow_succ]
  cases kind : f.special <;> simp only [kind, true_and, reduceCtorEq, false_and, not_false_eq_true] at * <;> omega

/-- A finite pattern is the rounding of its value. -/
theorem round_read (mode : Round) {x : Nat} {neg : Bool} {m : Nat} {e : Int} (fits : x < 2 ^ f.width)
    (finite : f.read x = .fin neg m e) : f.round mode neg m e false = (x, 0) := by
  have pattern := pattern_eq fits
  have small : x % 2 ^ f.manBits < 2 ^ f.manBits := Nat.mod_lt _ (Nat.two_pow_pos _)
  have top : x / 2 ^ f.manBits % 2 ^ f.expBits < 2 ^ f.expBits := Nat.mod_lt _ (Nat.two_pow_pos _)
  unfold read at finite
  dsimp only at finite
  split at finite
  case isTrue => split at finite <;> nomatch finite
  case isFalse noSpecial =>
    split at finite
    case isTrue => nomatch finite
    case isFalse noNan =>
      split at finite
      case isTrue zero =>
        obtain ⟨rfl, rfl, rfl⟩ := FVal.fin.inj finite
        rw [round_subnormal regular mode _ small]
        rw [zero, Nat.zero_mul, Nat.zero_add] at pattern
        rw [← pattern]
      case isFalse positive =>
        obtain ⟨rfl, rfl, rfl⟩ := FVal.fin.inj finite
        rw [round_normal regular mode _ small positive (held_of_finite regular top small noSpecial noNan), ← pattern]

end FloatFormat

/-- Settles O12: each of the eight formats is regular, and a finite pattern of a regular one is the rounding of its value. -/
theorem exactValuesRound : Obligations.ExactValuesRound := by
  unfold Obligations.ExactValuesRound
  have regular : ∀ f ∈ [FloatFormat.f32, .f16, .bf16, .e5m2, .e4m3, .e3m2, .e2m3, .e2m1],
      2 ≤ 2 ^ f.manBits ∧ 4 ≤ 2 ^ f.expBits := by
    decide
  intro f listed mode x neg m e fits finite
  obtain ⟨fraction, exponent⟩ := regular f listed
  exact FloatFormat.round_read ⟨fraction, exponent⟩ mode fits finite

/-! ### Words (R59, R120, R121) -/

namespace State

theorem enabledFlag_of_disabled {s : State} (disabled : bits s.u.fpctl 21 16 = 0) (flags : Nat) : s.enabledFlag flags = false := by
  rw [enabledFlag, disabled, Nat.zero_and]
  rfl

theorem withFlags_ok {s : State} {flags : Nat} (disabled : s.enabledFlag flags = false) (k : State → State) :
    s.withFlags flags k = .ok (k (s.orFlags flags)).retire := by
  rw [withFlags, disabled]
  rfl

theorem withFlags_trap {s : State} {flags : Nat} (enabled : s.enabledFlag flags = true) (k : State → State) :
    s.withFlags flags k = .error (.trap .fpException 0 (BitVec.ofNat 64 (flags % 64)) 0 (some (s.orFlags flags))) := by
  rw [withFlags, enabled]
  rfl

theorem slot_orFlags {s : State} (live : s.Live) (flags : Nat) :
    (s.orFlags flags).slot = { s.slot with u := { s.u with fpctl := s.u.fpctl ||| BitVec.ofNat 64 (flags % 64 * 256) } } :=
  slot_setSlot _ _ live.lt

/-- The flags of FPCTL are ORed with those raised (R59). -/
theorem bits_orFlags {s : State} (live : s.Live) (flags : Nat) :
    bits (s.orFlags flags).u.fpctl 13 8 = bits s.u.fpctl 13 8 ||| flags % 64 := by
  have raised : flags % 64 * 256 % 2 ^ 64 = flags % 64 * 256 := Nat.mod_eq_of_lt (by omega)
  have field : flags % 64 * 256 / 2 ^ 8 % 2 ^ (13 + 1 - 8) = flags % 64 := by omega
  rw [u, slot_orFlags live]
  simp only [bits, BitVec.toNat_or, BitVec.toNat_ofNat, raised, Nat.shiftRight_or_distrib, Nat.or_mod_two_pow]
  rw [Nat.shiftRight_eq_div_pow (flags % 64 * 256), field]

/-- Raising flags writes no register. -/
theorem reg_orFlags {s : State} (live : s.Live) (flags : Nat) (r : Reg) : (s.orFlags flags).reg r = s.reg r := by
  unfold reg u
  rw [slot_orFlags live]
  rfl

end State

section
variable {s : State} (plain : s.NoPrefix) (d : Reg) (f : State → Nat × Nat)
include plain

/-- With no exception enabled a floating-point word raises its flags and writes its result. -/
theorem floatOp_ok (disabled : bits s.u.fpctl 21 16 = 0) :
    floatOp d f s = .next ((s.orFlags (f s).2).setReg d (BitVec.ofNat 64 (f s).1)).retire := by
  rw [floatOp, State.plain_ok plain, State.withFlags_ok (State.enabledFlag_of_disabled disabled _), State.finish_ok]

/-- With one of its flags enabled it raises them and traps. -/
theorem floatOp_trap (enabled : s.enabledFlag (f s).2 = true) :
    floatOp d f s = .next ((s.orFlags (f s).2).trap .fpException 0 (BitVec.ofNat 64 ((f s).2 % 64)) 0) := by
  rw [floatOp, State.plain_ok plain, State.withFlags_trap enabled, State.finish_trap]
  rfl

end

/-- Settles O13: every word but FCVTFI is `floatOp` of its arithmetic, and FCVTFI differs in the integer that it writes. -/
theorem scalarFloat : Obligations.ScalarFloat := by
  unfold Obligations.ScalarFloat
  refine ⟨fun s d a b p m t plain disabled => ?results, fun s d a b fl v plain result enabled => ?exception⟩
  case results =>
    intro f x y z done
    have computes {i : Instr} {g : State → Nat × Nat} {r : Nat × Nat} (form : exec i s = floatOp d g s) (result : g s = r) :
        exec i s = done r := result ▸ form.trans (floatOp_ok plain d g disabled)
    refine ⟨computes (exec_fadd ..) rfl, computes (exec_fsub ..) rfl, computes (exec_fmul ..) rfl, computes (exec_ffma ..) rfl,
      computes (exec_fdiv ..) rfl, computes (exec_fsqrt ..) rfl, computes (exec_fmin ..) rfl, computes (exec_fmax ..) rfl,
      computes (exec_fcmp ..) rfl, computes (exec_fcvtif ..) rfl, _, _, Prod.eta _, ?_⟩
    rw [exec_fcvtfi, execFcvtfi, State.plain_ok plain, State.withFlags_ok (State.enabledFlag_of_disabled disabled _), State.finish_ok]
    rfl
  case exception =>
    refine ⟨?_, fun live => ⟨State.bits_orFlags live fl, State.reg_orFlags live fl⟩⟩
    have raises : s.enabledFlag (FArith.add .f32 s.rounding (s.regF32 a) (s.regF32 b)).2 = true := by
      rw [result]
      exact bne_iff_ne.2 enabled
    rw [exec_fadd, execFadd, floatOp_trap plain d _ raises, result]

/-! ### NaNs (R46, R56) -/

/-- NV for two operands is raised where either signals. -/
theorem nvOf_pair (x y : FVal) : nvOf [x, y] = if x.signals || y.signals then flagNV else 0 := by
  simp [nvOf]

theorem canonicalNan_f32 : FloatFormat.f32.canonicalNan = 0x7FC00000 := by decide

/-- With a NaN among two operands, one of them is one. -/
theorem nan_cases {P : FVal → FVal → Prop} {x y : FVal} (nan : (x.isNan || y.isNan) = true) (left : ∀ a y, P (.nan a) y)
    (right : ∀ x b, P x (.nan b)) : P x y := by
  cases x with
  | nan a => exact left a y
  | inf | fin =>
    cases y with
    | nan b => exact right _ b
    | inf | fin => exact Bool.noConfusion nan

namespace FArith

variable (f : FloatFormat) (mode : Round) {x y : FVal} (nan : (x.isNan || y.isNan) = true)

theorem isNan_negate (x : FVal) : (negate x).isNan = x.isNan := by cases x <;> rfl

theorem signals_negate (x : FVal) : (negate x).signals = x.signals := by cases x <;> rfl

include nan

theorem add_nan : add f mode x y = nanWith f (nvOf [x, y]) :=
  nan_cases (P := fun x y => add f mode x y = nanWith f (nvOf [x, y])) nan
    (fun _ y => by cases y <;> rfl) (fun x _ => by cases x <;> rfl)

theorem sub_nan : sub f mode x y = nanWith f (nvOf [x, y]) := by
  rw [sub, add_nan f mode (by rw [isNan_negate]; exact nan), nvOf_pair, nvOf_pair, signals_negate]

theorem mul_nan : mul f mode x y = nanWith f (nvOf [x, y]) :=
  nan_cases (P := fun x y => mul f mode x y = nanWith f (nvOf [x, y])) nan
    (fun _ y => by cases y <;> rfl) (fun x _ => by cases x <;> rfl)

theorem div_nan : div f mode x y = nanWith f (nvOf [x, y]) :=
  nan_cases (P := fun x y => div f mode x y = nanWith f (nvOf [x, y])) nan
    (fun _ y => by cases y <;> rfl) (fun x _ => by cases x <;> rfl)

theorem fma_nan (z : FVal) : (fma f mode x y z).1 = f.canonicalNan := by
  unfold fma
  rw [if_pos (by rw [nan, Bool.true_or])]
  rfl

end FArith

/-- Settles O14: each operation looks for NaN operands before anything else. -/
theorem nanResults : Obligations.NanResults := by
  unfold Obligations.NanResults
  intro mode x y z nan nv r
  have canonical : FArith.nanWith .f32 (nvOf [x, y]) = r := by rw [FArith.nanWith, canonicalNan_f32, nvOf_pair]
  refine ⟨(FArith.add_nan _ mode nan).trans canonical, (FArith.sub_nan _ mode nan).trans canonical,
    (FArith.mul_nan _ mode nan).trans canonical, (FArith.div_nan _ mode nan).trans canonical,
    fun _ => (FArith.fma_nan _ mode nan z).trans canonicalNan_f32, fun one => ?_⟩
  cases x with
  | nan a => exact congrArg (·, _) canonicalNan_f32
  | inf | fin => exact Bool.noConfusion one

end Sys2Proof.Machine
end

section
/-!
PROOFS. Calls and returns (R102, R103, R106, R124, R125): the frame that a call opens, the frame that a return makes current again, every
trap of the two, and the one after the other.
-/

namespace Sys2Proof.Machine

theorem SameElsewhere.mem {s t : State} (h : SameElsewhere s t) : t.mem = s.mem := (congrArg State.mem h.1 :)

namespace State

/-! ### Completing in user mode (R86) -/

section
variable {s : State} (live : s.Live)
include live

theorem slot_setU (x : Strand) : (s.setU x).slot = { s.slot with u := x } := slot_setSlot _ _ live.lt

theorem live_setU (x : Strand) : (s.setU x).Live := by
  rw [Live, slot_setU live]
  exact live

theorem unstepped_setU (unstepped : s.Unstepped) (x : Strand) : (s.setU x).Unstepped := by
  rw [Unstepped, slot_setU live]
  exact unstepped

variable (unstepped : s.Unstepped)
include unstepped

/-- Completing leaves the strand ready for the next group. -/
theorem live_complete (pc : Word) : (s.complete pc).Live := by
  rw [Live, slot_complete live unstepped]
  rfl

theorem unstepped_complete (pc : Word) : (s.complete pc).Unstepped := by
  rw [Unstepped, slot_complete live unstepped]
  unfold slotComplete
  cases mode : s.slot.mode <;> simpa [Unstepped, mode] using unstepped

theorem noPrefix_complete (pc : Word) : (s.complete pc).NoPrefix := by
  rw [NoPrefix, prefixFits, slot_complete live unstepped]
  rfl

theorem mode_complete (pc : Word) : (s.complete pc).slot.mode = s.slot.mode := by
  rw [slot_complete live unstepped]
  unfold slotComplete
  cases s.slot.mode <;> rfl

theorem w_complete (pc : Word) : (s.complete pc).u.w = s.u.w := by
  unfold u
  rw [slot_complete live unstepped]
  unfold slotComplete withoutFault
  cases s.slot.mode <;> rfl

theorem g_complete (pc : Word) : (s.complete pc).u.g = s.u.g := by
  unfold u
  rw [slot_complete live unstepped]
  unfold slotComplete withoutFault
  cases s.slot.mode <;> rfl

theorem rpc_complete (pc : Word) : (s.complete pc).u.rpc = s.u.rpc := by
  unfold u
  rw [slot_complete live unstepped]
  unfold slotComplete withoutFault
  cases s.slot.mode <;> rfl

theorem rep_complete (pc : Word) : (s.complete pc).u.rep = s.u.rep := by
  unfold u
  rw [slot_complete live unstepped]
  unfold slotComplete withoutFault
  cases s.slot.mode <;> rfl

theorem mem_complete (pc : Word) : (s.complete pc).mem = s.mem := (complete_same live unstepped pc).1.mem

theorem cur_complete (pc : Word) : (s.complete pc).cur = s.cur := (congrArg cur (complete_same live unstepped pc).1.1 :)

end

end State

/-! ### Calls (R125) -/

/-- A call reads its target before anything else happens. -/
theorem callTo_target (target : State → Word) (s : State) : callTo target s = callTo (fun _ => target s) s := rfl

section
variable {s : State} (plain : s.NoPrefix)
include plain

theorem callTo_supervisor (super : s.slot.mode = true) (target : State → Word) :
    callTo target s = .next (s.trap .illFunction 0 0 0) := by
  rw [callTo, State.plain_ok plain, super]
  rfl

theorem exec_ret_supervisor (super : s.slot.mode = true) : exec .ret s = .next (s.trap .illFunction 0 0 0) := by
  rw [exec_ret, execRet, State.plain_ok plain, super]
  rfl

variable (user : s.slot.mode = false) (idle : s.u.rep.active = false ∨ s.u.rep.stream.isSome = true)
include user idle

theorem callTo_full {target : State → Word} (good : s.goodTarget (target s) = true)
    (full : maxFrames s.cur.1 ≤ s.u.frames.length + 1) : callTo target s = .next (s.trap .winOverflow 0 (target s) 0) := by
  rw [callTo, State.plain_ok plain, user, State.needIdleSequencer_ok idle]
  simp only [good, Bool.not_true, Bool.not_false, ensure_true, Bool.false_eq_true, if_false, ge_iff_le, full, if_true]
  rfl

theorem callTo_ok {target : State → Word} (good : s.goodTarget (target s) = true)
    (room : s.u.frames.length + 1 < maxFrames s.cur.1) :
    callTo target s = .next ((s.setU (openFrame s.u (s.pc + 4))).complete (target s)) := by
  rw [callTo, State.plain_ok plain, user, State.needIdleSequencer_ok idle]
  simp only [good, Bool.not_true, Bool.not_false, ensure_true, Bool.false_eq_true, if_false, ge_iff_le, Nat.not_le.2 room]
  rfl

/-! ### Returns (R125) -/

theorem exec_ret_base (base : s.u.frames = []) :
    exec .ret s = .next (s.trap (if s.u.wspilled = 0 then .retEmpty else .winUnderflow) 0 0 0) := by
  rw [exec_ret, execRet, State.plain_ok plain, user, State.needIdleSequencer_ok idle, base]
  rfl

theorem exec_ret_ok (inFrame : s.u.frames ≠ []) (good : s.goodTarget s.u.rpc = true) :
    exec .ret s = .next ((s.setU (closeFrame s.u)).complete s.u.rpc) := by
  have nonempty : s.u.frames.isEmpty = false := List.isEmpty_eq_false_iff.2 inFrame
  rw [exec_ret, execRet, State.plain_ok plain, user, State.needIdleSequencer_ok idle]
  simp only [nonempty, Bool.not_false, ensure_true, Bool.false_eq_true, if_false, State.jump, good, if_true]
  rfl

end

/-! ### Frames (R102) -/

theorem openFrame_g (u : Strand) (rpc : Word) : (openFrame u rpc).g = u.g := by simp only [openFrame]

theorem openFrame_rpc (u : Strand) (rpc : Word) : (openFrame u rpc).rpc = rpc := by simp only [openFrame]

theorem openFrame_rep (u : Strand) (rpc : Word) : (openFrame u rpc).rep = u.rep := by simp only [openFrame]

theorem length_frames_openFrame (u : Strand) (rpc : Word) : (openFrame u rpc).frames.length = u.frames.length + 1 := by
  simp only [openFrame, List.length_cons]

theorem openFrame_frames_ne_nil (u : Strand) (rpc : Word) : (openFrame u rpc).frames ≠ [] := by
  simp only [openFrame, ne_eq, reduceCtorEq, not_false_eq_true]

theorem openFrame_low (u : Strand) (rpc : Word) {i : Nat} (h : i < 8) : (openFrame u rpc).w[i]?.getD 0 = u.w[i + 16]?.getD 0 := by
  have : i < 24 := by omega
  simp [openFrame, h, this]

theorem openFrame_high (u : Strand) (rpc : Word) {i : Nat} (h : 8 ≤ i) : (openFrame u rpc).w[i]?.getD 0 = 0 := by
  by_cases inside : i < 24
  · simp [openFrame, inside, Nat.not_lt.2 h]
  · rw [Vector.getElem?_eq_none (by omega)]
    rfl

theorem closeFrame_eq {u : Strand} {f : Frame} {fs : List Frame} (frames : u.frames = f :: fs) :
    closeFrame u = { u with
      frames := fs, rpc := f.rpc
      w := Vector.ofFn fun i => if h : i.val < 16 then f.w[i.val] else u.w[i.val - 16]?.getD 0 } := by
  rw [closeFrame, frames]

/-- A return that finds the frames and the window of the call gives back what the caller had. -/
theorem closeFrame_openFrame {u v : Strand} {rpc : Word} (frames : v.frames = (openFrame u rpc).frames)
    (window : v.w = (openFrame u rpc).w) :
    (closeFrame v).w = u.w ∧ (closeFrame v).rpc = u.rpc ∧ (closeFrame v).frames = u.frames := by
  rw [closeFrame_eq frames]
  refine ⟨Vector.ext fun i h => ?_, rfl, rfl⟩
  rw [Vector.getElem_ofFn]
  by_cases older : i < 16
  · simp [older, h]
  · have : i - 16 + 16 = i := by omega
    simp only [older, dif_neg, not_false_eq_true, window, openFrame_low u rpc (show i - 16 < 8 by omega), this,
      Vector.getElem?_eq_getElem h, Option.getD_some]

theorem closeFrame_g (u : Strand) : (closeFrame u).g = u.g := by
  unfold closeFrame
  split <;> rfl

/-- What a call or a return leaves, its window and frames being those of a strand `x`: the next word at `pc`, and the caller's memory, mode
and fixed registers where `x` has them. -/
structure Shifted (s : State) (x : Strand) (pc : Word) (t : State) : Prop where
  live : t.Live
  unstepped : t.Unstepped
  plain : t.NoPrefix
  mode : t.slot.mode = s.slot.mode
  pc : t.pc = pc
  w : t.u.w = x.w
  g : t.u.g = x.g
  rpc : t.u.rpc = x.rpc
  frames : t.u.frames = x.frames
  rep : t.u.rep = x.rep
  mem : t.mem = s.mem
  cur : t.cur = s.cur

theorem shifted_complete {s : State} (live : s.Live) (unstepped : s.Unstepped) (x : Strand) (pc : Word) :
    Shifted s x pc ((s.setU x).complete pc) := by
  have live' := State.live_setU live x
  have unstepped' := State.unstepped_setU live unstepped x
  have strand : (s.setU x).u = x := State.u_setU s x live.lt
  have mode : (s.setU x).slot.mode = s.slot.mode := by rw [State.slot_setU live]
  exact {
    live := State.live_complete live' unstepped' pc
    unstepped := State.unstepped_complete live' unstepped' pc
    plain := State.noPrefix_complete live' unstepped' pc
    mode := (State.mode_complete live' unstepped' pc).trans mode
    pc := State.pc_complete live' unstepped' pc
    w := (State.w_complete live' unstepped' pc).trans (congrArg Strand.w strand)
    g := (State.g_complete live' unstepped' pc).trans (congrArg Strand.g strand)
    rpc := (State.rpc_complete live' unstepped' pc).trans (congrArg Strand.rpc strand)
    frames := (State.frames_complete live' unstepped' pc).trans (congrArg Strand.frames strand)
    rep := (State.rep_complete live' unstepped' pc).trans (congrArg Strand.rep strand)
    mem := State.mem_complete live' unstepped' pc
    cur := State.cur_complete live' unstepped' pc }

/-- Settles O17: by the checks of a call and of a return in their order, and the frames that the two leave. -/
theorem callsAndReturns : Obligations.CallsAndReturns := by
  unfold Obligations.CallsAndReturns
  refine ⟨fun s i t plain live goes => ?calls, fun s plain live => ?returns⟩
  case calls =>
    have form : exec i s = callTo (fun _ => t) s := by
      rcases goes with ⟨o, rfl, rfl⟩ | ⟨a, rfl, rfl⟩
      · rw [exec_call, execCall, callTo_target, sext_toNat]
      · rw [exec_callr, execCallr, callTo_target]
    rw [form]
    refine ⟨fun super => callTo_supervisor plain super _, fun user idle => ⟨fun bad => ?bad, fun aligned inside full => ?full,
      fun aligned inside room unstepped => ?room⟩⟩
    case bad => exact callTo_badTarget plain user idle (Bool.eq_false_iff.2 (mt State.goodTarget_iff.1 bad))
    case full => exact callTo_full plain user idle (State.goodTarget_iff.2 ⟨aligned, inside⟩) full
    case room =>
      refine ⟨_, callTo_ok plain user idle (State.goodTarget_iff.2 ⟨aligned, inside⟩) room, ?_⟩
      have opened := shifted_complete live unstepped (openFrame s.u (s.pc + 4)) t
      have user' := opened.mode.trans user
      refine ⟨opened.pc, opened.rpc.trans (openFrame_rpc ..), by rw [opened.frames, length_frames_openFrame], opened.mem,
        fun r low high => ?caller, fun r low => ?fresh,
        fun r fixed => ?fixed⟩
      case caller =>
        have shifted : (r + 16).toNat = r.toNat + 16 := by rw [BitVec.toNat_add]; exact Nat.mod_eq_of_lt (by simp; omega)
        rw [State.reg_user low user', opened.w, State.reg_user (by omega) user, shifted, openFrame_low s.u _ (by omega),
          Nat.sub_add_comm low]
      case fresh => rw [State.reg_user (by omega) user', opened.w, openFrame_high s.u _ (by omega)]
      case fixed =>
        rcases Nat.eq_zero_or_pos r.toNat with zero | positive
        · obtain rfl : r = 0 := BitVec.eq_of_toNat_eq zero
          rw [State.reg_zero, State.reg_zero]
        · rw [State.reg_global positive fixed, State.reg_global positive fixed, opened.g, openFrame_g]
  case returns =>
    refine ⟨fun super => exec_ret_supervisor plain super, fun user idle => ⟨fun base => exec_ret_base plain user idle base,
      fun f fs frames aligned inside unstepped => ?inFrame⟩⟩
    have inFrame : s.u.frames ≠ [] := by rw [frames]; exact List.cons_ne_nil _ _
    refine ⟨_, exec_ret_ok plain user idle inFrame (State.goodTarget_iff.2 ⟨aligned, inside⟩), ?_⟩
    have closed := shifted_complete live unstepped (closeFrame s.u) s.u.rpc
    have window := closed.w.trans (congrArg Strand.w (closeFrame_eq frames))
    refine ⟨closed.pc, by rw [closed.rpc, closeFrame_eq frames], by rw [closed.frames, closeFrame_eq frames], closed.mem,
      fun i h => ?_, fun i h => ?_, closed.g.trans (closeFrame_g s.u)⟩
    · simp [window, h]
    · have : i < 24 := by omega
      simp [window, this, show ¬ i + 16 < 16 by omega]

/-- Settles O18: what the call opened is the frame that the return closes. -/
theorem callReturn : Obligations.CallReturn := by
  unfold Obligations.CallReturn
  intro s t o plain live user unstepped idle aligned inside nextAligned nextInside room calls
  have called := callTo_ok plain user (.inl idle) (target := fun _ => s.pc + o.signExtend 64 * 4)
    (State.goodTarget_iff.2 ⟨aligned, inside⟩) room
  rw [exec_call, execCall, callTo_target, sext_toNat, called] at calls
  have opened := shifted_complete live unstepped (openFrame s.u (s.pc + 4)) (s.pc + o.signExtend 64 * 4)
  rw [Host.Outcome.next.inj calls] at opened
  have closed := shifted_complete opened.live opened.unstepped (closeFrame t.u) t.u.rpc
  have good : t.goodTarget t.u.rpc = true :=
    State.goodTarget_iff.2 (by rw [opened.rpc, openFrame_rpc, opened.cur]; exact ⟨nextAligned, nextInside⟩)
  have inFrame : t.u.frames ≠ [] := by rw [opened.frames]; exact openFrame_frames_ne_nil _ _
  have idle' : t.u.rep.active = false := by rw [opened.rep, openFrame_rep]; exact idle
  obtain ⟨w, rpc, frames⟩ := closeFrame_openFrame opened.frames opened.w
  exact ⟨_, exec_ret_ok opened.plain (opened.mode.trans user) (.inl idle') inFrame good, closed.pc.trans (opened.rpc.trans
    (openFrame_rpc ..)), closed.w.trans w, closed.g.trans ((closeFrame_g t.u).trans (opened.g.trans (openFrame_g ..))),
    closed.rpc.trans rpc, closed.frames.trans frames, closed.mem.trans opened.mem⟩

end Sys2Proof.Machine
end

section
/-!
PROOFS. System registers and the words that stop a strand (R24, R107 to R116, R126, R129, R130, R198, R292, R300): what SRD reads, what SWR
takes and refuses, and where WFM, EXIT and HRET complete, wait and trap.
-/

namespace Sys2Proof.Machine

/-! ### Fields of a word -/

theorem bit_ofNat {n i : Nat} (fits : n < 2 ^ 64) : bit (BitVec.ofNat 64 n) i = decide (n / 2 ^ i % 2 = 1) := by
  rw [bit, BitVec.getLsbD, BitVec.toNat_ofNat, Nat.mod_eq_of_lt fits, Nat.testBit_eq_decide_div_mod_eq]

theorem bit_ofNat_eq {n i : Nat} {b : Bool} (fits : n < 2 ^ 64) (field : n / 2 ^ i % 2 = b.toNat) : bit (BitVec.ofNat 64 n) i = b := by
  rw [bit_ofNat fits, field]
  cases b <;> rfl

theorem bits_ofNat {n hi lo : Nat} (fits : n < 2 ^ 64) : bits (BitVec.ofNat 64 n) hi lo = n / 2 ^ lo % 2 ^ (hi + 1 - lo) := by
  rw [bits, BitVec.toNat_ofNat, Nat.mod_eq_of_lt fits, Nat.shiftRight_eq_div_pow]

/-- A field that a mask of low ones covers is not changed by it. -/
theorem bits_and_ones (x : Word) {hi lo n : Nat} (covers : hi + 1 ≤ n) (below : n ≤ 64) :
    bits (x &&& BitVec.ofNat 64 (2 ^ n - 1)) hi lo = bits x hi lo := by
  have ones : (2 ^ n - 1) % 2 ^ 64 = 2 ^ n - 1 :=
    Nat.mod_eq_of_lt (Nat.lt_of_lt_of_le (Nat.sub_lt (Nat.two_pow_pos _) Nat.one_pos) (Nat.pow_le_pow_right (by decide) below))
  apply Nat.eq_of_testBit_eq
  intro i
  simp only [bits, Nat.testBit_mod_two_pow, Nat.testBit_shiftRight, BitVec.toNat_and, BitVec.toNat_ofNat, ones, Nat.testBit_and,
    Nat.testBit_two_pow_sub_one]
  by_cases h : i < hi + 1 - lo
  · simp [h, show lo + i < n by omega]
  · simp [h]

namespace State

/-! ### CSTAT and SEQ (R108, R113) -/

/-- The number that CSTAT spells: its fields from bit 0 up. -/
def cstatFields (mode ie : Bool) (kind skind slot frames spilled cuff : Nat) (pair nest : Bool) : Nat :=
  mode.toNat + 2 * ie.toNat + 4 * kind + 16 * skind + 64 * slot + 2 ^ 8 * frames + 2 ^ 12 * spilled + 2 ^ 28 * cuff + 2 ^ 30 * pair.toNat +
    2 ^ 31 * nest.toNat

/-- The numbers of the kinds of cores and of strands in CSTAT (R108). -/
def kindNumber (k : CoreKind) : Nat := match k with | .mcore => 0 | .score => 1 | .bezel => 2

def strandKindNumber (k : StrandKind) : Nat := match k with | .resident => 0 | .handler => 1 | .gust => 2

theorem kindNumber_lt (k : CoreKind) : kindNumber k < 4 := by cases k <;> decide

theorem strandKindNumber_lt (k : StrandKind) : strandKindNumber k < 4 := by cases k <;> decide

theorem cstat_eq (s : State) : s.cstat = BitVec.ofNat 64 (cstatFields s.slot.mode s.slot.ie (kindNumber s.kind)
    (strandKindNumber s.u.kind) (s.cur.2 % 4) ((s.u.frames.length + 1) % 16) (s.u.wspilled % 65536) (s.u.cuff % 4) s.slot.pair.isSome
    s.slot.nest) := by
  have flag (b : Bool) (n : Nat) : (if b then n else 0) = n * b.toNat := by cases b <;> simp
  have fields : s.cstat = BitVec.ofNat 64 ((if s.slot.mode then 1 else 0) + (if s.slot.ie then 2 else 0) + kindNumber s.kind * 4 +
      strandKindNumber s.u.kind * 16 + s.cur.2 % 4 * 64 + (s.u.frames.length + 1) % 16 * 2 ^ 8 + s.u.wspilled % 65536 * 2 ^ 12 +
      s.u.cuff % 4 * 2 ^ 28 + (if s.slot.pair.isSome then 2 ^ 30 else 0) + if s.slot.nest then 2 ^ 31 else 0) := rfl
  rw [fields, flag, flag, flag, flag, cstatFields]
  congr 1
  omega

section
variable {mode ie pair nest : Bool} {kind skind slot frames spilled cuff : Nat} (hk : kind < 4) (hs : skind < 4) (hslot : slot < 4)
  (hf : frames < 16) (hw : spilled < 65536) (hc : cuff < 4)
include hk hs hslot hf hw hc

/-- No field of CSTAT overflows into the next. -/
theorem fields_cstatFields :
    let x := BitVec.ofNat 64 (cstatFields mode ie kind skind slot frames spilled cuff pair nest)
    bit x 0 = mode ∧ bit x 1 = ie ∧ bits x 3 2 = kind ∧ bits x 5 4 = skind ∧ bits x 7 6 = slot ∧ bits x 11 8 = frames ∧
      bits x 27 12 = spilled ∧ bits x 29 28 = cuff ∧ bit x 30 = pair ∧ bit x 31 = nest ∧ bits x 63 32 = 0 := by
  have := mode.toNat_le
  have := ie.toNat_le
  have := pair.toNat_le
  have := nest.toNat_le
  intro x
  have fits : cstatFields mode ie kind skind slot frames spilled cuff pair nest < 2 ^ 64 := by
    unfold cstatFields
    omega
  have flag {b : Bool} {i : Nat} (h : cstatFields mode ie kind skind slot frames spilled cuff pair nest / 2 ^ i % 2 = b.toNat) :
      bit x i = b := bit_ofNat_eq fits h
  have field {hi lo n : Nat}
      (h : cstatFields mode ie kind skind slot frames spilled cuff pair nest / 2 ^ lo % 2 ^ (hi + 1 - lo) = n) : bits x hi lo = n :=
    (bits_ofNat fits).trans h
  unfold cstatFields at flag field
  exact ⟨flag (by omega), flag (by omega), field (by omega), field (by omega), field (by omega), field (by omega), field (by omega),
    field (by omega), flag (by omega), flag (by omega), field (by omega)⟩

end

theorem seqWord_eq (s : State) : s.seqWord = match s.job? with
    | some j => BitVec.ofNat 64 (j.keySlot + if s.keyDead j.keySlot then 0 else 256)
    | none => 0 := rfl

/-- The low byte of SEQ is the key slot (R113). -/
theorem bits_seqWord (s : State) : bits s.seqWord 7 0 = s.seqSlot % 256 := by
  rw [seqWord_eq, seqSlot]
  cases s.job? with
  | none => rfl
  | some j =>
    rw [bits, BitVec.toNat_ofNat]
    dsimp only
    split <;> omega

/-- The GPHASE that a strand has seen is the largest that it has read (R259). -/
theorem sawPhase_seePhase {s : State} (live : s.Live) (x : Word) :
    (s.seePhase x).u.sawPhase.toNat = max s.u.sawPhase.toNat x.toNat := by
  rw [seePhase, u_setU _ _ live.lt]
  by_cases later : s.u.sawPhase.ult x = true
  · have := BitVec.ult_iff_toNat_lt.1 later
    simp only [later, if_true]
    omega
  · have := mt BitVec.ult_iff_toNat_lt.2 later
    simp only [later, Bool.false_eq_true, if_false]
    omega

/-- A slot number that no core has names no slot to write. -/
theorem setU_of_le {s : State} (none : 4 ≤ s.cur.2) (x y : Strand) : s.setU x = s.setU y := by
  simp only [setU, setSlot, setSlotAt, Vector.setIfInBounds_eq_of_size_le none]

theorem seePhase_eq (s : State) (x : Word) : s.seePhase x = s.setU { s.u with sawPhase := (s.seePhase x).u.sawPhase } := by
  rcases Nat.lt_or_ge s.cur.2 4 with lt | le
  · rw [seePhase, u_setU _ _ lt]
  · exact setU_of_le le _ _

/-! ### Sequencers and scratchpads (R198, R292) -/

/-- The words that R292 bars go on while no sequencer runs, in a body, and in the supervisor's code. -/
theorem needIdleSequencer_ok' {s : State} (idle : s.u.rep.active = false ∨ s.u.rep.stream.isSome = true ∨ s.slot.mode = true) :
    s.needIdleSequencer = .ok () := by
  rcases idle with h | h | h <;> simp [needIdleSequencer, h]

/-- A byte in a run that is wiped reads as zero. -/
theorem byte_wipe (s : State) {a n c : Nat} (low : a ≤ c) (high : c < a + n) : (s.wipe a n).byte c = 0 := by
  refine Memory.get_absent fun d kept same => ?_
  have outside := (List.mem_filter.1 kept).2
  simp only [same, low, high, decide_true, Bool.and_true, Bool.not_true] at outside
  exact Bool.noConfusion outside

/-- A change of the split leaves the new number of KiB, and zeroes behind it (R198). -/
theorem core_resplit_sp (s : State) (c sp : Nat) : ((s.resplit c sp).core c).sp = sp := by
  rw [resplit, core_setCore_same]

theorem byte_resplit (s : State) (c sp : Nat) {o : Nat} (inside : o < sramKib c * 1024) : (s.resplit c sp).byte (localCell c o) = 0 :=
  byte_wipe (s.flushL1 c) (by unfold localCell; omega) (by unfold localCell; omega)

end State

/-! ### SRD (R126) -/

section
variable {s : State} (plain : s.NoPrefix)
include plain

theorem exec_srd_ok (d : Reg) {n : BitVec 11} (readable : State.sysReadable s.slot.mode n.toNat = true) (other : n ≠ 11) :
    exec (.srd d n) s = .next (s.setReg d (s.readSys n.toNat)).retire := by
  rw [exec_srd, execSrd, State.plain_ok plain, readable]
  simp only [other, if_false]
  rfl

theorem exec_srd_gphase (d : Reg) :
    exec (.srd d 11) s = .next ((s.seePhase (s.gphase + s.phaseOffset)).setReg d (s.gphase + s.phaseOffset)).retire := by
  rw [exec_srd, execSrd, State.plain_ok plain, show State.sysReadable s.slot.mode (11 : BitVec 11).toNat = true by cases s.slot.mode <;> rfl]
  rfl

theorem exec_srd_user (d : Reg) {n : BitVec 11} (closed : State.sysReadable s.slot.mode n.toNat = false) :
    exec (.srd d n) s = .next (s.trap .illPriv 0 0 0) := by
  rw [exec_srd, execSrd, State.plain_ok plain, closed]
  rfl

/-! ### SWR (R126) -/

theorem exec_swr_value {a : Reg} {n : BitVec 11} (bad : s.sysValueOk n.toNat (s.reg a) = false) :
    exec (.swr a n) s = .next (s.trap .illFunction 0 0 0) := by
  rw [exec_swr, execSwr, State.plain_ok plain, bad]
  rfl

theorem exec_swr_closed {a : Reg} {n : BitVec 11} (good : s.sysValueOk n.toNat (s.reg a) = true)
    (closed : State.sysWritable s.slot.mode n.toNat = false) : exec (.swr a n) s = .next (s.trap .illPriv 0 0 0) := by
  rw [exec_swr, execSwr, State.plain_ok plain, good, closed]
  rfl

theorem exec_swr_ok {a : Reg} {n : BitVec 11} (good : s.sysValueOk n.toNat (s.reg a) = true)
    (open_ : State.sysWritable s.slot.mode n.toNat = true) {t : State} (writes : s.writeSys n.toNat (s.reg a) = .ok t) :
    exec (.swr a n) s = .next t.retire := by
  rw [exec_swr, execSwr, State.plain_ok plain, good, open_, writes]
  rfl

theorem exec_swr_stops {a : Reg} {n : BitVec 11} (good : s.sysValueOk n.toNat (s.reg a) = true)
    (open_ : State.sysWritable s.slot.mode n.toNat = true) {e : Stop} (stops : s.writeSys n.toNat (s.reg a) = .error e) :
    exec (.swr a n) s = .next (s.finish (.error e)) := by
  rw [exec_swr, execSwr, State.plain_ok plain, good, open_, stops]
  rfl

end

/-- MEMDEF takes the PEER space from the supervisor alone (R109). -/
theorem writeSys_memdef {s : State} (idle : s.needIdleSequencer = .ok ()) (x : Word) :
    s.writeSys 1 x = if s.slot.mode = true ∨ bits x 7 6 ≠ 3 then .ok (s.setU { s.u with memdef := x &&& 0x3FF })
      else .error (.trap .illPriv 0 0 0 none) := by
  have space : bits (x &&& 0x3FF) 7 6 = bits x 7 6 := bits_and_ones x (n := 10) (by decide) (by decide)
  have allowed : (s.slot.mode || bits (x &&& 0x3FF) 7 6 != 3) = decide (s.slot.mode = true ∨ bits x 7 6 ≠ 3) := by
    rw [space, Bool.decide_or, Bool.decide_eq_true, bne, decide_not, Bool.beq_eq_decide_eq]
  have steps : s.writeSys 1 x = (do
      ensure (s.slot.mode || bits (x &&& 0x3FF) 7 6 != 3) .illPriv
      s.needIdleSequencer
      pure (s.setU { s.u with memdef := x &&& 0x3FF })) := rfl
  rw [steps, allowed, idle]
  split
  case isTrue yes => rw [decide_eq_true yes]; rfl
  case isFalse no => rw [decide_eq_false no]; rfl

/-- Settles O19: SRD register by register from `readSys`, SWR from the checks in their order and `writeSys`. -/
theorem systemRegisters : Obligations.SystemRegisters := by
  unfold Obligations.SystemRegisters
  refine ⟨fun s d plain => ?reads, fun s a plain idle => ?writes⟩
  case reads =>
    have reads {n : BitVec 11} (readable : ∀ m, State.sysReadable m n.toNat = true) (other : n ≠ 11) :
        exec (.srd d n) s = .next (s.setReg d (s.readSys n.toNat)).retire := exec_srd_ok plain d (readable _) other
    refine ⟨?open_, ?closed, ⟨s.cstat, reads (by decide) (by decide), ?cstat⟩,
      ⟨_, exec_srd_gphase plain d, State.seePhase_eq .., fun live => State.sawPhase_seePhase live _⟩,
      ⟨_, reads (by decide) (by decide), State.bits_seqWord s⟩⟩
    case open_ =>
      have granted : s.readSys 8 = BitVec.ofNat 64 (s.u.vlen + 256 * s.u.vregs) := by rw [Nat.mul_comm]; rfl
      simp only [List.forall_mem_cons]
      exact ⟨reads (by decide) (by decide), reads (by decide) (by decide), reads (by decide) (by decide), reads (by decide) (by decide),
        reads (by decide) (by decide), reads (by decide) (by decide), reads (by decide) (by decide),
        granted ▸ reads (by decide) (by decide), reads (by decide) (by decide), reads (by decide) (by decide),
        reads (by decide) (by decide), List.forall_mem_nil _⟩
    case closed =>
      have trapped {n : BitVec 11} (user : State.sysReadable false n.toNat = false) (other : n ≠ 11) :
          (s.slot.mode = true → exec (.srd d n) s = .next (s.setReg d (s.readSys n.toNat)).retire) ∧
            (s.slot.mode = false → exec (.srd d n) s = .next (s.trap .illPriv 0 0 0)) :=
        ⟨fun super => exec_srd_ok plain d (by rw [super]; rfl) other, fun mode => exec_srd_user plain d (by rw [mode]; exact user)⟩
      simp only [List.forall_mem_cons]
      exact ⟨trapped (by decide) (by decide), trapped (by decide) (by decide), trapped (by decide) (by decide),
        trapped (by decide) (by decide), trapped (by decide) (by decide), List.forall_mem_nil _⟩
    case cstat =>
      rw [State.cstat_eq]
      exact State.fields_cstatFields (State.kindNumber_lt _) (State.strandKindNumber_lt _) (Nat.mod_lt _ (by decide))
        (Nat.mod_lt _ (by decide)) (Nat.mod_lt _ (by decide)) (Nat.mod_lt _ (by decide))
  case writes =>
    intro x m
    have refused {n : BitVec 11} (good : s.sysValueOk n.toNat x = true) (closed : ∀ b, State.sysWritable b n.toNat = false) :
        exec (.swr a n) s = .next (s.trap .illPriv 0 0 0) := exec_swr_closed plain good (closed _)
    have user {n : BitVec 11} (good : s.sysValueOk n.toNat x = true) (closed : State.sysWritable false n.toNat = false) (mode : m = false) :
        exec (.swr a n) s = .next (s.trap .illPriv 0 0 0) := exec_swr_closed plain good ((congrArg (State.sysWritable · n.toNat) mode).trans closed)
    have super {n : BitVec 11} {t : State} (mode : m = true) (good : s.sysValueOk n.toNat x = true)
        (opened : State.sysWritable true n.toNat = true) (writes : s.writeSys n.toNat x = .ok t) :
        exec (.swr a n) s = .next t.retire := exec_swr_ok plain good ((congrArg (State.sysWritable · n.toNat) mode).trans opened) writes
    have idle := State.needIdleSequencer_ok' idle
    have both {n : BitVec 11} {t : State} (good : s.sysValueOk n.toNat x = true) (opened : ∀ b, State.sysWritable b n.toNat = true)
        (writes : s.writeSys n.toNat x = .ok t) : exec (.swr a n) s = .next t.retire := exec_swr_ok plain good (opened _) writes
    refine ⟨?readOnly, ?superOnly, fun bad => exec_swr_value plain bad, fun bad => exec_swr_value plain bad,
      fun mode => ⟨fun good => user good rfl mode, fun good => user good rfl mode⟩, ?memdef,
      both rfl (by decide) (congrArg (· >>= _) idle), both rfl (by decide) rfl, fun mode => ⟨super mode rfl rfl rfl,
      super mode rfl rfl rfl, super mode rfl rfl rfl, super mode rfl rfl rfl, super mode rfl rfl rfl, super mode rfl rfl rfl,
      fun good => super mode good rfl rfl, fun good => ⟨_, super mode good rfl rfl, State.core_resplit_sp .., fun o inside =>
        State.byte_resplit s _ _ inside⟩⟩⟩
    case readOnly =>
      simp only [List.forall_mem_cons]
      exact ⟨refused rfl (by decide), refused rfl (by decide), refused rfl (by decide), refused rfl (by decide),
        refused rfl (by decide), refused rfl (by decide), refused rfl (by decide), refused rfl (by decide), List.forall_mem_nil _⟩
    case superOnly =>
      simp only [List.forall_mem_cons]
      exact ⟨user rfl rfl, user rfl rfl, user rfl rfl, user rfl rfl, user rfl rfl, user rfl rfl, List.forall_mem_nil _⟩
    case memdef =>
      have open_ : State.sysWritable m 1 = true := by cases m <;> rfl
      have taken := writeSys_memdef idle x
      split
      case isFalse bad => exact exec_swr_value plain (Bool.eq_false_iff.2 bad)
      case isTrue good =>
        split at taken
        case isTrue allowed => rw [if_pos allowed, exec_swr_ok plain (n := 1) good open_ taken]
        case isFalse denied =>
          rw [if_neg denied, exec_swr_stops plain (n := 1) good open_ taken]
          rfl

/-! ### WFM, EXIT and HRET (R129, R130, R300) -/

namespace State

theorem needResident_ok {s : State} (resident : s.activation = false) : s.needResident = .ok () := by
  rw [needResident, resident]
  rfl

theorem needResident_trap {s : State} (activation : s.activation = true) :
    s.needResident = .error (.trap .handlerBlock 0 0 0 none) := by
  rw [needResident, activation]
  rfl

theorem awaitSequencer_ok {s : State} (idle : s.u.rep.active = false) : s.awaitSequencer = .ok () := by
  rw [awaitSequencer, idle]
  rfl

end State

/-- Settles O20: each word by its checks in their order. -/
theorem waitsAndEnds : Obligations.WaitsAndEnds := by
  unfold Obligations.WaitsAndEnds
  refine ⟨fun s m plain some => ⟨fun activation => ⟨?_, ?_⟩, fun resident => ⟨?_, fun idle => ?_⟩⟩, fun s plain =>
    ⟨fun resident => ?_, fun activation idle => ?_⟩⟩
  · rw [exec_wfm, execWfm, bne_iff_ne.2 some, State.plainWhere_legal, State.plain_ok plain, State.needResident_trap activation]
    rfl
  · rw [exec_exit, execExit, State.plain_ok plain, State.needResident_trap activation]
    rfl
  · rw [exec_wfm, execWfm, bne_iff_ne.2 some, State.plainWhere_legal, State.plain_ok plain, State.needResident_ok resident]
    simp only [← Bool.or_eq_true]
    cases s.someUnbound s.cur.1 m.toNat || s.unitCancelled <;> rfl
  · rw [exec_exit, execExit, State.plain_ok plain, State.needResident_ok resident, State.awaitSequencer_ok idle]
    rfl
  · rw [exec_hret, execHret, State.plain_ok plain, resident]
    rfl
  · rw [exec_hret, execHret, State.plain_ok plain, activation, State.awaitSequencer_ok idle]
    rfl

end Sys2Proof.Machine
end

section
/-!
PROOFS. Scalar loads and stores, the scratchpad, atomics (R194, R196, R226, R228, R233, R234).
-/

namespace Sys2Proof.Machine

namespace State

/-! ### Scalar accesses -/

theorem aligned_ok {x : Access} {a : Word} {n : Nat} (fits : a.toNat % n = 0) (step : Nat) : aligned x a n step = .ok () :=
  if_pos fits

end State

/-- A scalar load whose checks pass and whose bytes come. -/
theorem scalarLoad_ok {s t : State} {d a : Reg} {o : BitVec 13} {x : Access} {n : Nat} {bs : List Byte} (f : Nat → Word) (fits : s.BothFit)
    (checks : s.scalarAccess .load (s.lsAddress a o) n = .ok x) (place : (s.lsAddress a o).toNat % State.scalarAlign x n = 0)
    (loaded : s.loadAccess x (s.lsAddress a o) n 0 = .ok (bs, t)) :
    scalarLoad d a o n f s = .next (t.setReg d (f (leNat bs))).retire := by
  rw [scalarLoad, State.withBoth_ok fits]
  simp only [checks, State.aligned_ok place, loaded, bind, pure, Except.bind, Except.pure, State.finish_ok]

/-- A scalar store whose checks pass and whose bytes go. -/
theorem scalarStore_ok {s t : State} {r a : Reg} {o : BitVec 13} {x : Access} {n : Nat} (fits : s.BothFit)
    (checks : s.scalarAccess .store (s.lsAddress a o) n = .ok x) (place : (s.lsAddress a o).toNat % State.scalarAlign x n = 0)
    (stored : s.storeAccess x (s.lsAddress a o) (leBytes n (s.reg r).toNat) 0 = .ok t) :
    scalarStore r a o n s = .next t.retire := by
  rw [scalarStore, State.withBoth_ok fits]
  simp only [checks, State.aligned_ok place, stored, bind, pure, Except.bind, Except.pure, State.finish_ok]

namespace Laws

/-- Settles O23: each of the eleven words is one of the two shared forms, at its own width and extension. -/
theorem scalarAccesses : Obligations.ScalarAccesses := by
  have address (s : State) (a : Reg) (o : BitVec 13) :
      s.reg a + (match s.ext? with | none => o.signExtend 64 | some e => (e ++ o).signExtend 64) = s.lsAddress a o :=
    congrArg (s.reg a + ·) (s.immSigned_eq o).symm
  refine ⟨?loads, ?stores⟩
  case loads =>
    intro s t d a o x n bs fits va checks place loaded
    rw [show va = s.lsAddress a o from address s a o] at checks place loaded
    refine ⟨?_, ?_, ?_, ?_⟩ <;> rintro rfl
    · exact ⟨scalarLoad_ok (sext 8) fits checks place loaded, scalarLoad_ok (BitVec.ofNat 64) fits checks place loaded⟩
    · exact ⟨scalarLoad_ok (sext 16) fits checks place loaded, scalarLoad_ok (BitVec.ofNat 64) fits checks place loaded⟩
    · exact ⟨scalarLoad_ok (sext 32) fits checks place loaded, scalarLoad_ok (BitVec.ofNat 64) fits checks place loaded⟩
    · exact scalarLoad_ok (BitVec.ofNat 64) fits checks place loaded
  case stores =>
    intro s t r a o x n fits va checks place stored
    rw [show va = s.lsAddress a o from address s a o] at checks place stored
    refine ⟨?_, ?_, ?_, ?_⟩ <;> rintro rfl <;> exact scalarStore_ok fits checks place stored

end Laws

/-! ### Bytes of a number (R4) -/

@[simp] theorem length_leBytes (n x : Nat) : (leBytes n x).length = n := by
  induction n generalizing x with
  | zero => rfl
  | succ n ih => exact congrArg (· + 1) (ih _)

theorem getD_leBytes {n i : Nat} (inside : i < n) (x : Nat) (d : Byte) : (leBytes n x).getD i d = BitVec.ofNat 8 (x / 256 ^ i) := by
  induction n generalizing x i with
  | zero => omega
  | succ n ih =>
    cases i with
    | zero => simp [leBytes]
    | succ i =>
      rw [leBytes, List.getD_cons_succ, ih (Nat.lt_of_succ_lt_succ inside), Nat.div_div_eq_div_mul, Nat.pow_succ, Nat.mul_comm]

theorem leNat_leBytes (n x : Nat) : leNat (leBytes n x) = x % 256 ^ n := by
  induction n generalizing x with
  | zero => rw [Nat.pow_zero, Nat.mod_one]; rfl
  | succ n ih => rw [leBytes, leNat, ih, Nat.pow_succ, Nat.mul_comm _ 256, Nat.mod_mul, BitVec.toNat_ofNat]

/-- Byte `i` of a word, as a number's byte. -/
theorem extractLsb'_eq_ofNat (x : Word) (i : Nat) : x.extractLsb' (8 * i) 8 = BitVec.ofNat 8 (x.toNat / 256 ^ i) := by
  apply BitVec.eq_of_toNat_eq
  rw [BitVec.extractLsb'_toNat, BitVec.toNat_ofNat, Nat.shiftRight_eq_div_pow, Nat.pow_mul]

namespace State

/-! ### Cells (R194) -/

theorem byte_store_inside {s : State} (canonical : MemoryCanonical s) {a c : Nat} {bs : List Byte} (low : a ≤ c) (high : c < a + bs.length) :
    (s.store a bs).byte c = bs.getD (c - a) 0 := Memory.get_puts_inside canonical low high

theorem byte_store_outside {s : State} (canonical : MemoryCanonical s) {a c : Nat} {bs : List Byte}
    (outside : ¬ (a ≤ c ∧ c < a + bs.length)) : (s.store a bs).byte c = s.byte c :=
  Memory.get_puts_outside canonical (by omega)

/-- The bytes of a stored number. -/
theorem byte_store_leBytes {s : State} (canonical : MemoryCanonical s) (a n x : Nat) {i : Nat} (inside : i < n) :
    (s.store a (leBytes n x)).byte (a + i) = BitVec.ofNat 8 (x / 256 ^ i) := by
  rw [byte_store_inside canonical (by omega) (by rw [length_leBytes]; omega), Nat.add_sub_cancel_left, getD_leBytes inside]

/-! ### An access to SRAM of a strand that is in no pair -/

theorem localCell_not_physical (c o : Nat) : isPhysical (localCell c o) = false :=
  decide_eq_false (by unfold localCell region; omega)

section
variable {s : State} {key n : Nat} (sram : isPhysical key = false)
include sram

/-- A read of SRAM without poison gives its bytes. -/
theorem readAccess_sram (alone : s.slot.pair = none) (clean : (s.core ((key - 2 ^ 64) / 2 ^ 40)).poison = []) :
    s.readAccess (sramRun key n) = (s.bytes key n, s) := by
  have quiet : s.poisonRead s.cur.1 (sramRun key n) = s := by
    simp only [poisonRead, sramRun, List.foldl_cons, List.foldl_nil, sram, Bool.false_eq_true, if_false, clean, List.find?_nil]
  simp only [readAccess, quiet, alone, Option.isSome_none, Bool.false_eq_true, if_false]
  simp [sramRun, readSegments, sram]

theorem storeError_sram : s.storeError (sramRun key n) = false := by simp [storeError, sramRun, sram]

theorem storeEffects_sram (c : Nat) (flood : Bool) {bs : List Byte} (size : bs.length = n) :
    storeEffects c flood (sramRun key n) bs = [.store { key := key, length := n } bs] := by
  simp [storeEffects, sramRun, sram, List.take_of_length_le (Nat.le_of_eq size)]

theorem perform_sram (bs : List Byte) : s.perform (.store { key := key, length := n } bs) = s.store key bs := by
  simp [perform, cellOwned, cellStore, sram]

/-- A write of SRAM lays its bytes there. -/
theorem writeAccess_sram (alone : s.slot.pair = none) (still : s.me.stages = []) (flood : Bool) (a : Word) {bs : List Byte}
    (size : bs.length = n) : s.writeAccess flood a (sramRun key n) bs = .ok (s.store key bs) := by
  have unstaged : s.stageGuard (sramRun key n) = .ok () := by simp [stageGuard, still]
  have effects : s.emitAll [.store { key := key, length := n } bs] = .ok (s.store key bs) := by
    simp only [emitAll, alone, emitEach, emit, perform_sram sram, bind, pure, Except.bind, Except.pure]
  simp only [writeAccess, storeError_sram sram, Bool.false_eq_true, if_false, unstaged, storeEffects_sram sram _ _ size, bind, Except.bind,
    effects]

end

/-! ### LOCAL (R194, R196) -/

theorem firstBad_none {ok : Nat → Bool} {off n : Nat} (all : ∀ o, off ≤ o → o < off + n → ok o = true) : firstBad ok off n = none := by
  induction n generalizing off with
  | zero => rfl
  | succ n ih => rw [firstBad, if_pos (all off (Nat.le_refl _) (by omega)), ih fun o low high => all o (by omega) (by omega)]

theorem firstBad_some {ok : Nat → Bool} {off n o : Nat} (low : off ≤ o) (high : o < off + n) (bad : ok o = false) :
    ∃ p, firstBad ok off n = some p := by
  induction n generalizing off with
  | zero => omega
  | succ n ih =>
    rw [firstBad]
    by_cases here : ok off = true
    · rw [if_pos here]
      have past : off ≠ o := fun same => by rw [same, bad] at here; exact Bool.noConfusion here
      exact ih (by omega) (by omega)
    · rw [if_neg here]
      exact ⟨off, rfl⟩

/-- The strand reaches its core's scratchpad whole (R196, R327, R386). -/
structure ReachesLocal (s : State) : Prop where
  resident : s.u.kind = .resident
  whole : s.u.window = none
  size : s.scratchBytes s.cur.1 ≤ 2 ^ 24

section
variable {s : State} (reach : s.ReachesLocal) {x : Access} (space : x.attr.space = 1) {a : Word} {n : Nat}
include reach space

theorem sramCells_local (inside : a.toNat + n ≤ s.scratchBytes s.cur.1) (some_ : 0 < n) :
    s.sramCells x a n = .ok (sramRun (localCell s.cur.1 a.toNat) n) := by
  have small : bits a 63 24 = 0 := by
    have := reach.size
    rw [bits, Nat.shiftRight_eq_div_pow, Nat.div_eq_of_lt (by omega), Nat.zero_mod]
  have good : firstBad (fun o => decide (o < s.scratchBytes s.cur.1) && s.keepOpen o) a.toNat n = none :=
    firstBad_none fun o _ high => by simp [keepOpen, reach.resident, show o < s.scratchBytes s.cur.1 by omega]
  simp only [sramCells, space, localWindow, reach.whole, small, ne_eq, not_true, if_false, good, Nat.zero_add]

theorem sramCells_localRange (outside : s.scratchBytes s.cur.1 < a.toNat + n) (some_ : 0 < n) :
    ∃ e, s.sramCells x a n = .error (.localRange, e) := by
  simp only [sramCells, space, localWindow, reach.whole]
  by_cases far : bits a 63 24 = 0
  · obtain ⟨o, found⟩ : ∃ o, firstBad (fun o => decide (o < s.scratchBytes s.cur.1) && s.keepOpen o) a.toNat n = some o :=
      firstBad_some (o := a.toNat + n - 1) (by omega) (by omega) (by simp; omega)
    rw [if_neg (by simp [far]), found]
    exact ⟨_, rfl⟩
  · exact ⟨a, if_pos far⟩

theorem resolve_local (inside : a.toNat + n ≤ s.scratchBytes s.cur.1) (some_ : 0 < n) (step : Nat) :
    s.resolve x a n step = .ok (sramRun (localCell s.cur.1 a.toNat) n, s) := by
  rw [resolve, if_neg (by omega), if_neg (by omega), sramCells_local reach space inside some_]

theorem resolve_localRange (outside : s.scratchBytes s.cur.1 < a.toNat + n) (some_ : 0 < n) (step : Nat) :
    ∃ e, s.resolve x a n step = .error (.trap .localRange x.info e step none) := by
  obtain ⟨e, found⟩ := sramCells_localRange reach space outside some_
  exact ⟨e, by rw [resolve, if_neg (by omega), if_neg (by omega), found]⟩

end

/-! ### STD and LDD on the scratchpad -/

/-- A store that completes: the cells are those stored, and the slot and strand go on to the next word. -/
theorem store_retire {s : State} (live : s.Live) (unstepped : s.Unstepped) (a : Nat) (bs : List Byte) :
    (s.store a bs).retire.mem = (s.store a bs).mem ∧ (∀ q, (s.store a bs).retire.reg q = s.reg q) ∧
      (s.store a bs).retire.pc = s.pc + 4 ∧ SameSlot s (s.store a bs).retire ∧ SameStrand s (s.store a bs).retire := by
  have slot : (s.store a bs).slot = s.slot := rfl
  have u : (s.store a bs).u = s.u := rfl
  have live' : (s.store a bs).Live := live
  have unstepped' : (s.store a bs).Unstepped := unstepped
  have frame : RegisterFrame 0 (s.store a bs) (s.store a bs).retire := by
    have written := retire_frame live' unstepped' 0 0
    rwa [setReg_zero] at written
  have sameSlot := frame.slot
  have sameStrand := frame.strand
  rw [SameSlot, slot] at sameSlot
  rw [SameStrand, u] at sameStrand
  exact ⟨frame.elsewhere.mem, fun q => reg_complete live' unstepped' _ q, frame.next, sameSlot, sameStrand⟩

/-- The attributes that MEMDEF gives where no MOD does. -/
def defaultAttr (s : State) : Attr :=
  { cls := bits s.u.memdef 2 0, scope := bits s.u.memdef 5 3, space := bits s.u.memdef 7 6, policy := bits s.u.memdef 9 8, use := 0 }

theorem attrs_of_pre_none {s : State} (open_ : s.slot.pre = none) (ignored : Nat) : s.attrs ignored = .ok s.defaultAttr := by
  rw [attrs, open_]
  rfl

theorem bothFit_of_pre_none {s : State} (open_ : s.slot.pre = none) : s.BothFit := by
  rw [BothFit, prefixFits, open_]

theorem ext?_of_pre_none {s : State} (open_ : s.slot.pre = none) : s.ext? = none := by
  rw [ext?, open_]
  rfl

theorem lsAddress_of_pre_none {s : State} (open_ : s.slot.pre = none) (a : Reg) (o : BitVec 13) :
    s.lsAddress a o = s.reg a + o.signExtend 64 := by
  rw [lsAddress, immSigned_eq, ext?_of_pre_none open_]

/-- MEMDEF names LOCAL with class RLX and a scope that LOCAL has (R221, R224). -/
structure DefaultLocal (s : State) : Prop where
  space : bits s.u.memdef 7 6 = 1
  scope : bits s.u.memdef 5 3 ≠ 5
  cls : bits s.u.memdef 2 0 = 0

section
variable {s : State} (open_ : s.slot.pre = none) (local_ : s.DefaultLocal)
include open_ local_

theorem scalarAccess_local {k : AccessKind} (row : k = .load ∨ k = .store) (va : Word) (n : Nat) :
    s.scalarAccess k va n = .ok { attr := s.defaultAttr, reads := k == .load, writes := k == .store } := by
  have privilege : s.istorePrivilege s.defaultAttr = .ok () := by
    simp [istorePrivilege, defaultAttr, local_.space]
  have checks : attrCheck k { attr := s.defaultAttr, reads := k == .load, writes := k == .store } va = .ok () := by
    rcases row with rfl | rfl <;> simp [attrCheck, defaultAttr, classPermitted, spacePermitted, local_.space, local_.scope, local_.cls]
  simp only [scalarAccess, attrs_of_pre_none open_, privilege, checks, bind, Except.bind]
  exact if_neg fun h => by simp [defaultAttr, local_.space] at h

omit open_ in
theorem scalarAlign_local (reads writes : Bool) (n : Nat) :
    scalarAlign { attr := s.defaultAttr, reads := reads, writes := writes } n = 1 :=
  if_neg (by simp [defaultAttr, local_.space, local_.cls])

variable (reach : s.ReachesLocal) (alone : s.slot.pair = none)
include reach

theorem exec_std_local (alone : s.slot.pair = none) (still : s.me.stages = []) (r a : Reg) (o : BitVec 13)
    (inside : (s.lsAddress a o).toNat + 8 ≤ s.scratchBytes s.cur.1) :
    exec (.std r a o) s = .next (s.store (localCell s.cur.1 (s.lsAddress a o).toNat) (leBytes 8 (s.reg r).toNat)).retire := by
  refine scalarStore_ok (bothFit_of_pre_none open_) (scalarAccess_local open_ local_ (.inr rfl) _ 8) ?_ ?_
  · rw [scalarAlign_local local_, Nat.mod_one]
  · rw [storeAccess, length_leBytes, resolve_local reach local_.space inside (by decide)]
    exact writeAccess_sram (localCell_not_physical ..) alone still _ _ (length_leBytes 8 _)

theorem exec_std_localRange (r a : Reg) (o : BitVec 13) (outside : s.scratchBytes s.cur.1 < (s.lsAddress a o).toNat + 8) :
    ∃ e, exec (.std r a o) s = .next (s.trap .localRange 1 e 0) := by
  obtain ⟨e, refused⟩ := resolve_localRange reach (x := { attr := s.defaultAttr, reads := false, writes := true }) local_.space outside
    (by decide) 0
  refine ⟨e, ?_⟩
  rw [exec_std, execStd, scalarStore, withBoth_ok (bothFit_of_pre_none open_)]
  have place : aligned { attr := s.defaultAttr, reads := false, writes := true } (s.lsAddress a o)
      (scalarAlign { attr := s.defaultAttr, reads := false, writes := true } 8) 0 = .ok () :=
    aligned_ok (by rw [scalarAlign_local local_, Nat.mod_one]) 0
  have stored : s.storeAccess { attr := s.defaultAttr, reads := false, writes := true } (s.lsAddress a o) (leBytes 8 (s.reg r).toNat) 0 =
      .error (.trap .localRange 1 e 0 none) := by
    rw [storeAccess, length_leBytes, refused]
    rfl
  have checks : s.scalarAccess .store (s.lsAddress a o) 8 = .ok { attr := s.defaultAttr, reads := false, writes := true } :=
    scalarAccess_local open_ local_ (.inr rfl) _ 8
  simp only [checks, place, stored, bind, Except.bind, finish_trap, Option.getD_none]

theorem exec_ldd_local (alone : s.slot.pair = none) (clean : s.me.poison = []) (d a : Reg) (o : BitVec 13)
    (inside : (s.lsAddress a o).toNat + 8 ≤ s.scratchBytes s.cur.1) :
    exec (.ldd d a o) s =
      .next (s.setReg d (BitVec.ofNat 64 (s.num (localCell s.cur.1 (s.lsAddress a o).toNat) 8))).retire := by
  have own : (localCell s.cur.1 (s.lsAddress a o).toNat - 2 ^ 64) / 2 ^ 40 = s.cur.1 := by
    have := reach.size
    unfold localCell region
    omega
  refine scalarLoad_ok (BitVec.ofNat 64) (bothFit_of_pre_none open_) (scalarAccess_local open_ local_ (.inl rfl) _ 8) ?_ ?_
  · rw [scalarAlign_local local_, Nat.mod_one]
  · rw [loadAccess, resolve_local reach local_.space inside (by decide)]
    have relaxed : s.defaultAttr.cls ≠ 4 := by rw [show s.defaultAttr.cls = 0 from local_.cls]; decide
    simp only [relaxed, if_false, bind, Except.bind, pure, Except.pure]
    rw [readAccess_sram (localCell_not_physical ..) alone (by rw [own]; exact clean)]

end

end State

namespace Laws

/-- Settles O24: the two words by their equations on LOCAL, and the cells of a stored number. -/
theorem localAccesses : Obligations.LocalAccesses := by
  refine ⟨?stores, ?loads⟩
  case stores =>
    intro s r a o open_ live unstepped alone resident whole still canonical size space scope cls va
    have local_ : s.DefaultLocal := ⟨space, scope, cls⟩
    have reach : s.ReachesLocal := ⟨resident, whole, size⟩
    have address : (s.lsAddress a o).toNat = va := congrArg _ (State.lsAddress_of_pre_none open_ a o)
    refine ⟨fun inside => ?_, fun outside => ?_⟩
    · obtain ⟨memory, registers, next, slot, strand⟩ := State.store_retire live unstepped (localCell s.cur.1 va) (leBytes 8 (s.reg r).toNat)
      refine ⟨_, State.exec_std_local open_ local_ reach alone still r a o (by rw [address]; exact inside), fun i inside => ?_,
        fun c outside => ?_, ?_⟩
      · rw [address, State.byte, memory]
        exact (State.byte_store_leBytes canonical _ 8 _ inside).trans (extractLsb'_eq_ofNat _ i).symm
      · rw [address, State.byte, memory]
        exact State.byte_store_outside canonical (by rw [length_leBytes]; exact outside)
      · rw [address]
        exact ⟨registers, next, slot, strand⟩
    · exact State.exec_std_localRange open_ local_ reach r a o (by rw [address]; exact outside)
  case loads =>
    intro s d a o open_ live unstepped alone resident whole clean size space scope cls va inside
    have local_ : s.DefaultLocal := ⟨space, scope, cls⟩
    have reach : s.ReachesLocal := ⟨resident, whole, size⟩
    have address : (s.lsAddress a o).toNat = va := congrArg _ (State.lsAddress_of_pre_none open_ a o)
    refine ⟨_, State.exec_ldd_local open_ local_ reach alone clean d a o (by rw [address]; exact inside),
      State.retire_frame live unstepped d _, fun nonzero => ?_⟩
    rw [address]
    exact State.reg_retire live unstepped _ nonzero

end Laws

/-! ### Atomics (R233, R234) -/

/-- The access of an atomic with the attributes of its word. -/
abbrev atomicAccessOf (t : Attr) : Access := { attr := t, reads := true, writes := true, atomic := true }

/-- What the checks of an atomic's word and address come to where they pass: its segments and the state after their translation. -/
structure AtomicReady (s t : State) (a : Reg) (n : Nat) (attr : Attr) (segs : List Segment) : Prop where
  fits : s.ModFits
  attributes : s.attrs 0 = .ok attr
  privilege : s.istorePrivilege attr = .ok ()
  row : State.attrCheck .atomic (atomicAccessOf attr) (s.reg a) = .ok ()
  place : (s.reg a).toNat % n = 0
  resolved : s.resolve (atomicAccessOf attr) (s.reg a) n 0 = .ok (segs, t)
  tracked : State.untrackedRun segs = false

theorem atomic_ok {s t u : State} {d a b : Reg} {n : Nat} {attr : Attr} {segs : List Segment} (ready : AtomicReady s t a n attr segs)
    {code : Nat} {zero : Bool} {op : AtomicOp} {old : Nat}
    (accessed : t.atomicAccess attr.scope segs n (atomicReq code n ((s.reg b).toNat % 2 ^ (8 * n)) ((s.reg d).toNat % 2 ^ (8 * n)))
      (fun old => op n old ((s.reg b).toNat % 2 ^ (8 * n)) ((s.reg d).toNat % 2 ^ (8 * n))) = .ok (old, u)) :
    atomic code d a b n zero op s = .next (u.setReg d (atomicResult n zero old)).retire := by
  have allowed : State.refuseUntracked segs (s.reg a) t = .ok () := by simp [State.refuseUntracked, ready.tracked]
  rw [atomic, State.withMod_ok ready.fits]
  simp only [ready.attributes, ready.privilege, ready.row, State.aligned_ok ready.place, State.resolveAtomic, ready.resolved, allowed,
    accessed, bind, pure, Except.bind, Except.pure, ite_self, State.finish_ok]

theorem atomicSize_eq (w : BitVec 1) : atomicSize w = if w = 1 then 4 else 8 := rfl

/-- What a map gives at a key is one of its entries. -/
theorem AMap.mem_of_get? {α : Type} {m : AMap α} {k : Nat} {x : α} (found : AMap.get? m k = some x) : (k, x) ∈ m := by
  induction m with
  | nil => exact nomatch found
  | cons p m ih =>
    obtain ⟨j, y⟩ := p
    simp only [AMap.get?] at found
    split at found
    case isTrue same =>
      rw [same, Option.some.inj found]
      exact List.mem_cons_self
    case isFalse => exact List.mem_cons_of_mem _ (ih found)

namespace State

/-- What holds of a core at reset and of every core listed holds of every core. -/
theorem core_of_forall {s : State} {P : Core → Prop} (reset : P {}) (listed : ∀ p ∈ s.cores, P p.2) (c : Nat) : P (s.core c) := by
  rw [core, AMap.getD]
  cases found : AMap.get? s.cores c with
  | none => exact reset
  | some k => exact listed _ (AMap.mem_of_get? found)

/-- An atomic of a scope below SYSTEM on clean SRAM: its old value, and the state with the new one stored where there is one. -/
theorem atomicAccess_sram {s : State} {scope key n : Nat} (r : HostTx) (f : Nat → Option Nat) (alone : s.slot.pair = none)
    (still : s.me.stages = []) (narrow : scope < 4) (sram : isPhysical key = false) (clean : ∀ c, (s.core c).poison = []) :
    s.atomicAccess scope (sramRun key n) n r f =
      .ok (s.num key n, match f (s.num key n) with | none => s | some y => s.store key (leBytes n y)) := by
  have unstaged : s.stageGuard (sramRun key n) = .ok () := by simp [stageGuard, still]
  have uncommitted : s.commitPoint true = .ok s := by rw [commitPoint, alone]
  have near : ¬ (4 ≤ scope ∧ (sramRun key n).all (fun g => isPhysical g.key && !g.untracked) = true) := fun h => by omega
  simp only [atomicAccess, unstaged, uncommitted, near, readAccess_sram sram alone (clean _), bind, pure, Except.bind, Except.pure, if_false,
    num]
  cases f (leNat (s.bytes key n)) with
  | none => simp [sramRun, sram]
  | some y => simp [storeEffects_sram sram, perform_sram sram]

end State

namespace Laws

/-- Settles O25: each word is the shared form with its own operation; on SRAM, the access is a read of its cells and a store to them. -/
theorem atomics : Obligations.Atomics := by
  refine ⟨?words, ?sram⟩
  case words =>
    intro s t u d a b w attr segs old op f fits n x e access value signed attributes privilege row place resolved tracked accessed
    have ready : AtomicReady s t a n attr segs := ⟨fits, attributes, privilege, row, place, resolved, tracked⟩
    refine ⟨?_, ?_, ?_, ?_, ?_, ?_, ?_, ?_, ?_, ?_, ?_⟩ <;> rintro rfl rfl
    · exact (exec_amoadd ..).trans (atomic_ok ready accessed)
    · exact (exec_amoand ..).trans (atomic_ok ready accessed)
    · exact (exec_amoor ..).trans (atomic_ok ready accessed)
    · exact (exec_amoxor ..).trans (atomic_ok ready accessed)
    · exact (exec_amomin ..).trans (atomic_ok ready accessed)
    · exact (exec_amomax ..).trans (atomic_ok ready accessed)
    · exact (exec_amominu ..).trans (atomic_ok ready accessed)
    · exact (exec_amomaxu ..).trans (atomic_ok ready accessed)
    · exact (exec_amoswp ..).trans (atomic_ok ready accessed)
    · exact (exec_amocas ..).trans (atomic_ok ready accessed)
    · rintro rfl
      exact (exec_amofadd ..).trans (atomic_ok ready accessed)
  case sram =>
    intro s scope n key r f alone still narrow sram some_ canonical clean
    have quiet (c : Nat) : (s.core c).poison = [] := State.core_of_forall (P := (·.poison = [])) rfl clean c
    refine ⟨_, State.atomicAccess_sram r f alone still narrow sram quiet, fun none_ c => ?_, fun y written => ?_⟩
    · rw [none_]
    · rw [written]
      refine ⟨fun i inside => State.byte_store_leBytes canonical key n y inside, fun c outside => ?_⟩
      exact State.byte_store_outside canonical (by rw [length_leBytes]; exact outside)

end Laws

end Sys2Proof.Machine
end

section
/-!
PROOFS. WAITA, FLUSHR and INVR (R236, R237).
-/

namespace Sys2Proof.Machine

namespace State

theorem refuseUntracked_ok {segs : List Segment} (tracked : untrackedRun segs = false) (a : Word) (t : State) :
    refuseUntracked segs a t = .ok () := by simp [refuseUntracked, tracked]

theorem commitPoint_alone {s : State} (alone : s.slot.pair = none) (effect : Bool) : s.commitPoint effect = .ok s := by
  rw [commitPoint, alone]

theorem emit_alone {s : State} (alone : s.slot.pair = none) (e : Effect) : s.emit e = .ok (s.perform e) := by
  rw [emit, alone]

end State

/-! ### WAITA (R236) -/

/-- The access of WAITA with the attributes of its word. -/
abbrev watchAccess (t : Attr) : Access := { attr := t, reads := true, writes := false }

section
variable {s : State} {d a b : Reg} {w : BitVec 1} {attr : Attr} (fits : s.ModFits) (attributes : s.attrs 0 = .ok attr)
  (privilege : s.istorePrivilege attr = .ok ())
include fits attributes privilege

theorem exec_waita_activation (activation : s.activation = true) : exec (.waita d a b w) s = .next (s.trap .handlerBlock 0 0 0) := by
  rw [exec_waita, execWaita, State.withMod_ok fits]
  simp only [attributes, privilege, State.needResident_trap activation, bind, Except.bind, State.finish_trap, Option.getD_none]

theorem exec_waita_resolved {t u : State} {segs : List Segment} {bs : List Byte} (resident : s.activation = false)
    (row : State.attrCheck .waita (watchAccess attr) (s.reg a) = .ok ()) (place : (s.reg a).toNat % (if w = 1 then 4 else 8) = 0)
    (resolved : s.resolve (watchAccess attr) (s.reg a) (if w = 1 then 4 else 8) 0 = .ok (segs, t)) (tracked : State.untrackedRun segs = false)
    (alone : t.slot.pair = none) (read : t.readAccess segs = (bs, u)) :
    exec (.waita d a b w) s = .next (s.finish
      (let old := BitVec.ofNat 64 ((u.reg b).toNat % 2 ^ (8 * if w = 1 then 4 else 8))
       if leWord bs = old then .error (.wait (.watch ((segs.head?.map (·.key)).getD 0) (if w = 1 then 4 else 8) old) (some u))
       else .ok (u.setReg d (leWord bs)).retire)) := by
  rw [exec_waita, execWaita, State.withMod_ok fits]
  simp only [attributes, privilege, State.needResident_ok resident, row, State.aligned_ok place, resolved,
    State.refuseUntracked_ok tracked, State.commitPoint_alone alone, read, bind, pure, Except.bind, Except.pure]

end

/-! ### FLUSHR and INVR (R237) -/

/-- The command that a range word makes of its operands (R237, R239). -/
def State.walkOf (t : State) (attr : Attr) (inval : Bool) (a b : Word) (segs : List Segment) : WalkCmd :=
  { invalidate := inval, base := a, length := b.toNat, barrier := segs.headD { key := 0, length := 8 }, scope := attr.scope
    members := if t.slot.pair.isSome then 2 else 2 ^ t.u.cuff, unit := t.u.unit, job := t.u.job }

namespace State

section
variable {s t : State} {attr : Attr} {segs : List Segment} {c a b : Word} (attributes : s.attrs 9 = .ok attr)
  (checked : s.rangeChecks attr c a b = .ok ())
  (resolved : s.resolve { attr := { attr with space := 0 }, reads := true, writes := true, atomic := true } c 8 0 = .ok (segs, t))
  (inval : Bool)
include attributes checked resolved

theorem rangeCommand_room (room : t.walkCount < 8) {u : State} (emitted : t.emit (.walk t.cur.1 (t.walkOf attr inval a b segs)) = .ok u) :
    s.rangeCommand inval c a b = .ok (u.engineIssued u.u.unit).retire := by
  have emitted' := emitted
  simp only [walkOf] at emitted'
  simp only [rangeCommand, attributes, checked, resolved, bind, pure, Except.bind, Except.pure, ge_iff_le, Nat.not_le.2 room, if_false,
    emitted']

theorem rangeCommand_full (full : 8 ≤ t.walkCount) :
    s.rangeCommand inval c a b = .error (if t.activation then .trap .handlerBlock 0 0 0 (some t) else .wait .walkRoom (some t)) := by
  simp only [rangeCommand, attributes, checked, resolved, bind, Except.bind, ge_iff_le, full, if_true]

end

end State

theorem exec_flushr_ok {s : State} (fits : s.ModFits) (c a b : Reg) :
    exec (.flushr c a b) s = .next (s.finish (s.rangeCommand false (s.reg c) (s.reg a) (s.reg b))) := by
  rw [exec_flushr, execFlushr, State.withMod_ok fits]

theorem exec_invr_ok {s : State} (fits : s.ModFits) (c a b : Reg) :
    exec (.invr c a b) s = .next (s.finish (s.rangeCommand true (s.reg c) (s.reg a) (s.reg b))) := by
  rw [exec_invr, execInvr, State.withMod_ok fits]

/-- Walk commands of a core do not touch its strand. -/
theorem State.u_issuedWalk (t : State) (w : List WalkCmd) : (t.setMe { t.me with walks := w }).u = t.u := by
  simp only [State.u, State.slot, State.slotAt, State.setMe, State.setCore, State.core, State.me, AMap.getD_set_same]

namespace Laws

/-- Settles O26: WAITA after its read, and the two range words as one command with room and without. -/
theorem watchesAndRanges : Obligations.WatchesAndRanges := by
  refine ⟨?watches, ?ranges⟩
  case watches =>
    intro s t u d a b w attr segs bs fits n access old attributes privilege
    refine ⟨exec_waita_activation fits attributes privilege, fun resident row place resolved tracked alone read => ?_⟩
    rw [exec_waita_resolved fits attributes privilege resident row place resolved tracked alone read]
    exact ⟨fun differs => congrArg (Host.Outcome.next <| s.finish ·) (if_neg differs),
      fun same => congrArg (Host.Outcome.next <| s.finish ·) (if_pos same)⟩
  case ranges =>
    intro s t c a b attr segs fits attributes space access command checked resolved
    refine ⟨fun room alone => ?_, fun p u v room paired => ⟨fun emitted => ?_, fun emitted => ?_⟩, fun full => ?_⟩
    · have done (inval : Bool) : s.rangeCommand inval (s.reg c) (s.reg a) (s.reg b) =
          .ok ((t.setMe { t.me with walks := t.me.walks ++ [command inval] }).engineIssued t.u.unit).retire := by
        rw [State.rangeCommand_room attributes checked resolved inval room (State.emit_alone alone _)]
        exact congrArg (fun x => Except.ok (State.retire (State.engineIssued _ (Strand.unit x)))) (t.u_issuedWalk _)
      rw [exec_flushr_ok fits, exec_invr_ok fits, done, done]
      exact ⟨rfl, rfl⟩
    · rw [exec_flushr_ok fits, State.rangeCommand_room attributes checked resolved false room emitted]
      rfl
    · rw [exec_invr_ok fits, State.rangeCommand_room attributes checked resolved true room emitted]
      rfl
    · rw [exec_flushr_ok fits, exec_invr_ok fits, State.rangeCommand_full attributes checked resolved false full,
        State.rangeCommand_full attributes checked resolved true full]
      cases t.activation <;> exact ⟨rfl, rfl⟩

end Laws

end Sys2Proof.Machine
end

section
/-!
PROOFS. Vector loads and stores (R230 to R232).
-/

namespace Sys2Proof.Machine

section
variable {s : State} {k : AccessKind} {va : Word} {rs : List Reg} {x : Access}

/-- The access of a vector word writes as its row says. -/
theorem State.writes_of_vectorAccess (checked : s.vectorAccess k va rs = .ok x) : x.writes = (k == .vstore) := by
  simp only [State.vectorAccess, bind, Except.bind, pure, Except.pure] at checked
  split at checked
  · exact nomatch checked
  · split at checked
    · exact nomatch checked
    · split at checked
      · exact nomatch checked
      · split at checked
        · exact nomatch checked
        · rw [← Except.ok.inj checked]

end

/-! ### One access of the active lanes (R231) -/

section
variable {s : State} {k : AccessKind} {d a : Reg} {m : BitVec 1} {n : BitVec 3} {x : Access} (fits : s.ModFits)
  (checked : s.vectorAccess k (s.reg a) [d] = .ok x)
include fits checked

/-- The elements of a whole access: each lane that takes part with its address. -/
abbrev State.wholeLanes (w : State) (a : Reg) (m : BitVec 1) (n : BitVec 3) : List (Nat × Word) :=
  (w.memLanes m n).map fun i => (i, w.reg a + BitVec.ofNat 64 (4 * i))

theorem vectorWhole_none (none_ : (s.wakeBanks [d]).wholeLanes a m n = []) :
    vectorWhole k d a m n s = .next (s.wakeBanks [d]).retire := by
  rw [vectorWhole, State.withMod_ok fits]
  simp only [checked, none_, bind, pure, Except.bind, Except.pure, List.isEmpty_nil, if_true, State.finish_ok]

variable {p : Nat × Word} {ps : List (Nat × Word)} {gs : List (Nat × List Segment)} {t : State}
  (lanes : (s.wakeBanks [d]).wholeLanes a m n = p :: ps) (place : p.2.toNat % 4 = 0)
  (range : State.laneRange x (((s.wakeBanks [d]).wholeLanes a m n).map (·.2)) = .ok ())
  (resolved : (s.wakeBanks [d]).resolveLanes x ((s.wakeBanks [d]).wholeLanes a m n) = .ok (gs, t))
include lanes place range resolved

theorem vectorWhole_some :
    vectorWhole k d a m n s =
      .next (s.finish (if x.writes then (t.storeLanes d ((s.wakeBanks [d]).reg a) gs).map State.retire else .ok (t.loadLanes d gs).retire)) := by
  have leading : State.aligned x ((((s.wakeBanks [d]).wholeLanes a m n).map (·.2)).headD ((s.wakeBanks [d]).reg a)) 4 0 = .ok () := by
    rw [lanes]
    exact State.aligned_ok place 0
  have some_ : ((s.wakeBanks [d]).wholeLanes a m n).isEmpty = false := by rw [lanes]; rfl
  rw [vectorWhole, State.withMod_ok fits]
  simp only [checked, some_, leading, range, resolved, bind, pure, Except.bind, Except.pure, Bool.false_eq_true, if_false]
  split
  · cases t.storeLanes d ((s.wakeBanks [d]).reg a) gs <;> rfl
  · rfl

end

/-! ### Lane by lane (R231, R232) -/

theorem vectorSteps_ok {s t : State} {k : AccessKind} {d a : Reg} {rs : List Reg} {m : BitVec 1} {n : BitVec 3}
    {address : State → Nat → Word} {x : Access} (fits : s.ModFits) (checked : s.vectorAccess k (s.reg a) rs = .ok x)
    (steps : (s.wakeBanks rs).laneSteps x d ((((s.wakeBanks rs).memLanes m n).filter fun i => decide ((s.wakeBanks rs).slot.eprog ≤ i)).map
      fun i => (i, address (s.wakeBanks rs) i)) = .ok t) :
    vectorSteps k d a rs m n address s = .next t := by
  rw [vectorSteps, State.withMod_ok fits]
  simp only [checked, steps, bind, Except.bind, State.finish_ok]

namespace Laws

/-- Settles O27: a whole access by its two cases, the others by their steps. -/
theorem vectorAccesses : Obligations.VectorAccesses := by
  refine ⟨?whole, ?steps⟩
  case whole =>
    intro s t u d a m k x gs fits w lanes
    refine ⟨fun checked => ⟨fun none_ => ?_, fun p ps some_ place range resolved => ?_⟩,
      fun checked => ⟨fun none_ => ?_, fun p ps some_ place range resolved stored => ?_⟩⟩
    · exact (exec_vld ..).trans (vectorWhole_none fits checked none_)
    · rw [exec_vld, execVld, vectorWhole_some fits checked some_ place range resolved, State.writes_of_vectorAccess checked]
      rfl
    · exact (exec_vst ..).trans (vectorWhole_none fits checked none_)
    · rw [exec_vst, execVst, vectorWhole_some fits checked some_ place range resolved, State.writes_of_vectorAccess checked]
      exact congrArg (fun r => Host.Outcome.next (s.finish (Except.map State.retire r))) stored
  case steps =>
    intro s t d a b r m k x fits from' stride index one two
    refine ⟨fun checked steps => ?_, fun checked steps => ?_, fun checked steps => ?_, fun checked steps => ?_, rfl, ?_⟩
    · exact (exec_vlds ..).trans (vectorSteps_ok (address := strided a r) fits checked steps)
    · exact (exec_vsts ..).trans (vectorSteps_ok (address := strided a r) fits checked steps)
    · exact (exec_vgath ..).trans (vectorSteps_ok (address := indexed a b) fits checked steps)
    · exact (exec_vscat ..).trans (vectorSteps_ok (address := indexed a b) fits checked steps)
    · intro i j va vb rest c info e n w done stopped
      simp only [State.laneSteps, done, stopped, State.keepSteps, Option.getD_none]

end Laws

end Sys2Proof.Machine
end

section
/-!
PROOFS. Vector arithmetic, integers, masks, moves and the grant (R136 to R153): the words as changes of the strand.
-/

namespace Sys2Proof.Machine

/-! ### What a vector word changes of its strand -/

namespace Strand

/-- The banks that words naming these registers wake (R138). -/
def awake (u : Strand) (rs : List Reg) : Strand :=
  { u with banks := Vector.ofFn fun b =>
    if u.banks[b] = .retention ∧ rs.any (fun r => r.toNat / 8 == b.val) then .active else u.banks[b] }

/-- The flags raised (R59). -/
def flagged (u : Strand) (flags : Nat) : Strand := { u with fpctl := u.fpctl ||| BitVec.ofNat 64 (flags % 64 * 256) }

/-- A vector register as the strand has it. -/
def vectorOf (u : Strand) (r : Reg) : Vector Lane 32 := u.v[r.toNat]?.getD (Vector.replicate 32 0)

/-- A vector register written in the lanes that `f` gives. -/
def withLanes (u : Strand) (r : Reg) (f : Nat → Option Lane) : Strand :=
  { u with v := u.v.setIfInBounds r.toNat (Vector.ofFn fun i => (f i.val).getD (u.vectorOf r)[i]) }

/-- A mask register written. -/
def withMask (u : Strand) (k : Nat) (x : BitVec 32) : Strand :=
  { u with k := u.k.setIfInBounds k (x &&& BitVec.ofNat 32 (2 ^ u.vlen - 1)) }

theorem vectorOf_withLanes_same (u : Strand) (r : Reg) (f : Nat → Option Lane) {i : Nat} (inside : i < 32) :
    ((u.withLanes r f).vectorOf r)[i]?.getD 0 = (f i).getD ((u.vectorOf r)[i]?.getD 0) := by
  have held : r.toNat < 32 := r.isLt
  rw [vectorOf, withLanes, Vector.getElem?_setIfInBounds_self_of_lt held, Option.getD_some, Vector.getElem?_eq_getElem inside,
    Vector.getElem?_eq_getElem inside, Option.getD_some, Option.getD_some, Vector.getElem_ofFn]
  rfl

theorem vectorOf_withLanes_other (u : Strand) {q r : Reg} (f : Nat → Option Lane) (other : q ≠ r) :
    (u.withLanes r f).vectorOf q = u.vectorOf q := by
  rw [vectorOf, withLanes, Vector.getElem?_setIfInBounds_ne (fun same => other (BitVec.eq_of_toNat_eq same.symm))]
  rfl

end Strand

namespace State

@[simp] theorem setSlotAt_setSlotAt (s : State) (c i : Nat) (x y : Slot) : (s.setSlotAt c i x).setSlotAt c i y = s.setSlotAt c i y := by
  simp [setSlotAt]

theorem setU_setU {s : State} (live : s.Live) (x y : Strand) : (s.setU x).setU y = s.setU y := by
  rw [setU_eq (s.setU x), slot_setU live, setU_eq, setU_eq]
  exact setSlotAt_setSlotAt ..

/-! ### The next word after a change of the strand -/

/-- The next word follows a change of the strand to `x`, which keeps its pc: nothing else of the slot, the core and the part moves (R86). -/
structure StrandStep (s t : State) (x : Strand) : Prop where
  elsewhere : SameElsewhere s t
  core : SameCore s t
  slot : SameSlot s t
  strand : { t.u with pc := x.pc, lastFault := x.lastFault, admitted := x.admitted } = x
  supervisor : t.slot.sw = s.slot.sw
  mode : t.slot.mode = s.slot.mode
  next : t.pc = s.pc + 4

theorem strandStep_retire {s : State} (live : s.Live) (unstepped : s.Unstepped) {x : Strand} (pc : x.pc = s.u.pc) :
    StrandStep s (s.setU x).retire x := by
  have live' := live_setU live x
  have unstepped' := unstepped_setU live unstepped x
  have slot := slot_complete live' unstepped' ((s.setU x).pc + 4)
  have same := complete_same live' unstepped' ((s.setU x).pc + 4)
  have changed := setSlot_same s { s.slot with u := x }
  rw [← setU_eq] at changed
  have both := same_trans changed same
  have pc' : (s.setU x).pc = s.pc := by
    unfold State.pc u
    rw [slot_setU live]
    exact congrArg (fun p => if s.slot.mode = true then s.slot.spc else p) pc
  have ready : s.slot.status = .ready := live
  rw [slot_setU live] at slot
  refine ⟨both.1, both.2, ?_, ?_, ?_, ?_, ?_⟩
  · unfold SameSlot retire
    rw [slot]
    generalize s.slot = y at ready
    obtain ⟨⟩ := y
    unfold slotComplete
    dsimp only at ready ⊢
    subst ready
    split <;> rfl
  · unfold retire
    rw [u, slot]
    unfold slotComplete withoutFault
    cases s.slot.mode <;> rfl
  · unfold retire
    rw [slot]
    unfold slotComplete
    cases s.slot.mode <;> rfl
  · exact (mode_complete live' unstepped' _).trans (congrArg Slot.mode (slot_setU live x) :)
  · exact (pc_complete live' unstepped' _).trans (congrArg (· + 4) pc')

/-- The scalar registers are those of the changed strand. -/
theorem StrandStep.reg {s t : State} {x : Strand} (step : StrandStep s t x) (g : x.g = s.u.g) (w : x.w = s.u.w) (r : Reg) :
    t.reg r = s.reg r := by
  have g' : t.u.g = s.u.g := (congrArg Strand.g step.strand :).trans g
  have w' : t.u.w = s.u.w := (congrArg Strand.w step.strand :).trans w
  simp only [State.reg, g', w', step.mode, step.supervisor]

/-! ### The state that a vector word computes in -/

section
variable {s : State} (live : s.Live)
include live

theorem u_setU_live (x : Strand) : (s.setU x).u = x := u_setU s x live.lt

theorem lane_setU (x : Strand) (r : Reg) (i : Nat) : (s.setU x).lane r i = (x.vectorOf r)[i]?.getD 0 := by
  rw [lane, vreg, u_setU_live live, Strand.vectorOf]

theorem orFlags_setU (x : Strand) (flags : Nat) : (s.setU x).orFlags flags = s.setU (x.flagged flags) := by
  rw [orFlags, u_setU_live live, setU_setU live, Strand.flagged]

theorem setLanes_setU (x : Strand) (r : Reg) (f : Nat → Option Lane) : (s.setU x).setLanes r f = s.setU (x.withLanes r f) := by
  simp only [setLanes, vreg, u_setU_live live, setU_setU live, Strand.withLanes, Strand.vectorOf]

theorem setActive_setU (x : Strand) (r : Reg) (f : Nat → Nat) :
    (s.setU x).setActive r f = s.setU (x.withLanes r fun i => if i < x.vlen then some (BitVec.ofNat 32 (f i)) else none) := by
  rw [setActive, u_setU_live live, setLanes_setU live]

theorem setMask_setU (x : Strand) (k : Nat) (y : BitVec 32) : (s.setU x).setMask k y = s.setU (x.withMask k y) := by
  rw [setMask, u_setU_live live, setU_setU live, Strand.withMask]

end

theorem wakeBanks_eq (s : State) (rs : List Reg) : s.wakeBanks rs = s.setU (s.u.awake rs) := rfl

section
variable {s : State} (live : s.Live) (rs : List Reg)
include live

theorem u_wakeBanks : (s.wakeBanks rs).u = s.u.awake rs := u_setU_live live _

theorem lane_wakeBanks (r : Reg) (i : Nat) : (s.wakeBanks rs).lane r i = s.lane r i := by
  rw [wakeBanks_eq, lane_setU live, lane, vreg, Strand.vectorOf, Strand.awake]

theorem laneNat_wakeBanks (r : Reg) (i : Nat) : (s.wakeBanks rs).laneNat r i = s.laneNat r i :=
  congrArg BitVec.toNat (lane_wakeBanks live rs r i)

theorem fpctl_wakeBanks : (s.wakeBanks rs).u.fpctl = s.u.fpctl := by
  rw [u_wakeBanks live]
  simp only [Strand.awake]

theorem vlen_wakeBanks : (s.wakeBanks rs).u.vlen = s.u.vlen := by
  rw [u_wakeBanks live]
  simp only [Strand.awake]

theorem mask_wakeBanks (k : Nat) : (s.wakeBanks rs).mask k = s.mask k := by
  rw [mask, u_wakeBanks live]
  simp only [Strand.awake, mask]

theorem rounding_wakeBanks : (s.wakeBanks rs).rounding = s.rounding := by
  rw [rounding, fpctl_wakeBanks live, rounding]

theorem activeLanes_wakeBanks : (s.wakeBanks rs).activeLanes = s.activeLanes := by
  rw [activeLanes, vlen_wakeBanks live, activeLanes]

theorem reg_wakeBanks (r : Reg) : (s.wakeBanks rs).reg r = s.reg r := by
  unfold reg
  rw [u_wakeBanks live, wakeBanks_eq, slot_setU live]
  simp only [Strand.awake]

end

end State

/-! ### The checks of a vector word (R136, R292) -/

section
variable {s : State} {rs : List Reg} (ready : VectorReady s rs)
include ready

theorem needGrant_ready : s.needGrant rs = .ok () := by
  have named : (s.u.vregs != 0 && rs.all fun r => decide (r.toNat < s.u.vregs)) = true := by
    simp only [bne_iff_ne, ne_eq, ready.granted, not_false_eq_true, Bool.and_eq_true, List.all_eq_true, decide_eq_true_eq, true_and]
    exact ready.named
  rw [State.needGrant, State.needIdleSequencer_ok' ready.idle, named]
  rfl

theorem vectorWord_ready (k : State → Res State) : vectorWord rs s k = .next (s.finish (k (s.wakeBanks rs))) := by
  rw [vectorWord, State.plain_ok ready.prefixes, needGrant_ready ready]
  rfl

end

/-! ### One vector destination -/

section
variable {s : State} (live : s.Live) (unstepped : s.Unstepped) {rs : List Reg} {d : Reg}
include live unstepped

/-- The frame of a word that changes one vector register, and wakes banks and raises flags besides. -/
theorem vectorFrame_retire {x : Strand} (rest : { x with v := s.u.v, banks := s.u.banks, fpctl := s.u.fpctl } = s.u)
    (others : ∀ r, r ≠ d → x.vectorOf r = s.u.vectorOf r) : VectorFrame d s (s.setU x).retire := by
  have pc : x.pc = s.u.pc := (congrArg Strand.pc rest :)
  have step := State.strandStep_retire live unstepped pc
  refine ⟨step.elsewhere, step.core, step.slot, ?_, step.supervisor, fun r other => ?_, step.next⟩
  · have kept := step.strand
    generalize (s.setU x).retire.u = y at kept
    rw [← kept] at rest
    rw [← rest]
  · have v : (s.setU x).retire.u.v = x.v := (congrArg Strand.v step.strand :)
    have same := others r other
    rw [Strand.vectorOf, ← v] at same
    exact same

theorem lane_retire {x : Strand} (pc : x.pc = s.u.pc) (r : Reg) (i : Nat) :
    (s.setU x).retire.lane r i = (x.vectorOf r)[i]?.getD 0 := by
  have v : (s.setU x).retire.u.v = x.v := (congrArg Strand.v (State.strandStep_retire live unstepped pc).strand :)
  rw [State.lane, State.vreg, v, Strand.vectorOf]

theorem fpctl_retire {x : Strand} (pc : x.pc = s.u.pc) : (s.setU x).retire.u.fpctl = x.fpctl :=
  (congrArg Strand.fpctl (State.strandStep_retire live unstepped pc).strand :)

end

/-! ### Results by lane -/

/-- The lanes of a destination after results `f` for the active ones (R136). -/
def activeResults (vlen : Nat) (f : Nat → Nat) (i : Nat) : Option Lane := if i < vlen then some (BitVec.ofNat 32 (f i)) else none

/-- The strand after a vector word: banks awake, flags raised, one destination written. -/
def Strand.vectorResult (u : Strand) (rs : List Reg) (flags : Nat) (d : Reg) (f : Nat → Option Lane) : Strand :=
  ((u.awake rs).flagged flags).withLanes d f

section
variable (u : Strand) (rs : List Reg) (flags : Nat) (d : Reg) (f : Nat → Option Lane)

theorem Strand.pc_vectorResult : (u.vectorResult rs flags d f).pc = u.pc := by
  simp only [vectorResult, withLanes, flagged, awake]

theorem Strand.fpctl_vectorResult : (u.vectorResult rs flags d f).fpctl = u.fpctl ||| BitVec.ofNat 64 (flags % 64 * 256) := by
  simp only [vectorResult, withLanes, flagged, awake]

theorem Strand.rest_vectorResult : { u.vectorResult rs flags d f with v := u.v, banks := u.banks, fpctl := u.fpctl } = u := by
  simp only [vectorResult, withLanes, flagged, awake]

theorem Strand.vectorOf_flagged_awake (r : Reg) : ((u.awake rs).flagged flags).vectorOf r = u.vectorOf r := by
  simp only [vectorOf, flagged, awake]

/-- Raising no flag leaves the strand as it is. -/
theorem Strand.flagged_zero : u.flagged 0 = u := by
  have none_ : u.fpctl ||| BitVec.ofNat 64 (0 % 64 * 256) = u.fpctl := BitVec.or_zero
  rw [flagged, none_]

end

section
variable {s : State} (live : s.Live) (unstepped : s.Unstepped) {rs : List Reg} {d : Reg}
include live unstepped

theorem vectorFrame_vectorResult (flags : Nat) (f : Nat → Option Lane) : VectorFrame d s (s.setU (s.u.vectorResult rs flags d f)).retire :=
  vectorFrame_retire live unstepped (Strand.rest_vectorResult ..) fun r other => by
    rw [Strand.vectorResult, Strand.vectorOf_withLanes_other _ _ other, Strand.vectorOf_flagged_awake]

/-- A lane that the results give, or as it was. -/
theorem lane_vectorResult (flags : Nat) (f : Nat → Option Lane) {i : Nat} (inside : i < 32) :
    (s.setU (s.u.vectorResult rs flags d f)).retire.lane d i = (f i).getD (s.lane d i) := by
  rw [lane_retire live unstepped (Strand.pc_vectorResult ..), Strand.vectorResult, Strand.vectorOf_withLanes_same _ _ _ inside,
    Strand.vectorOf_flagged_awake]
  rfl

theorem lanesAre_vectorResult (flags : Nat) (f : Nat → Nat) :
    LanesAre d s (s.setU (s.u.vectorResult rs flags d (activeResults s.u.vlen f))).retire f := fun i inside => by
  rw [lane_vectorResult live unstepped _ _ inside, activeResults]
  split <;> rfl

theorem fpctl_vectorResult (flags : Nat) (f : Nat → Option Lane) :
    (s.setU (s.u.vectorResult rs flags d f)).retire.u.fpctl = s.u.fpctl ||| BitVec.ofNat 64 (flags % 64 * 256) := by
  rw [fpctl_retire live unstepped (Strand.pc_vectorResult ..), Strand.fpctl_vectorResult]

omit unstepped in
theorem setActive_wakeBanks (f : Nat → Nat) :
    (s.wakeBanks rs).setActive d f = s.setU (s.u.vectorResult rs 0 d (activeResults s.u.vlen f)) := by
  have vlen : (s.u.awake rs).vlen = s.u.vlen := by simp only [Strand.awake]
  rw [State.wakeBanks_eq, State.setActive_setU live, Strand.vectorResult, Strand.flagged_zero, vlen]
  rfl

omit unstepped in
theorem setActive_orFlags_wakeBanks (flags : Nat) (f : Nat → Nat) :
    ((s.wakeBanks rs).orFlags flags).setActive d f = s.setU (s.u.vectorResult rs flags d (activeResults s.u.vlen f)) := by
  have vlen : ((s.u.awake rs).flagged flags).vlen = s.u.vlen := by simp only [Strand.flagged, Strand.awake]
  rw [State.wakeBanks_eq, State.orFlags_setU live, State.setActive_setU live, Strand.vectorResult, vlen]
  rfl

variable (ready : VectorReady s rs)
include ready

/-- A word whose results by lane raise no flag. -/
theorem active_done {i : Instr} {f : State → Nat → Nat} {g : Nat → Nat}
    (form : exec i s = vectorWord rs s fun s => .ok (s.setActive d (f s)).retire) (same : ∀ n, f (s.wakeBanks rs) n = g n) :
    ∃ t, exec i s = .next t ∧ VectorFrame d s t ∧ LanesAre d s t g ∧ t.u.fpctl = s.u.fpctl := by
  refine ⟨_, ?_, vectorFrame_vectorResult (rs := rs) live unstepped 0 _, lanesAre_vectorResult live unstepped 0 g, ?_⟩
  · rw [form, vectorWord_ready ready, funext same, setActive_wakeBanks live, State.finish_ok]
  · rw [fpctl_vectorResult live unstepped]
    exact BitVec.or_zero

/-- A word whose results by lane raise flags, none of them enabled (R59, R141). -/
theorem laneResults_done (disabled : bits s.u.fpctl 21 16 = 0) {i : Instr} {f : State → Nat → Nat × Nat} {g : Nat → Nat × Nat}
    (form : exec i s = vectorWord rs s fun s => s.laneResults d (f s)) (same : ∀ n, f (s.wakeBanks rs) n = g n) :
    ∃ t, exec i s = .next t ∧ VectorFrame d s t ∧ LanesAre d s t (fun n => (g n).1) ∧
      t.u.fpctl = s.u.fpctl ||| BitVec.ofNat 64 ((s.activeLanes.foldl (fun acc n => acc ||| (g n).2) 0) % 64 * 256) := by
  have open_ : bits (s.wakeBanks rs).u.fpctl 21 16 = 0 := by rw [State.fpctl_wakeBanks live, disabled]
  refine ⟨_, ?_, vectorFrame_vectorResult (rs := rs) live unstepped _ _, lanesAre_vectorResult live unstepped _ _, fpctl_vectorResult live unstepped _ _⟩
  rw [form, vectorWord_ready ready, State.laneResults, funext same, State.activeLanes_wakeBanks live,
    State.withFlags_ok (State.enabledFlag_of_disabled open_ _), setActive_orFlags_wakeBanks live, State.finish_ok]

end

/-! ### Integers, selection and logic (R49, R148, R150) -/

section
variable (a b d : Lane) (sel : BitVec 4) (x : Bool) (op : Int → Int → Int)

/-- A whole lane as the value of 32 bits that it is. -/
theorem splitLane_whole (f : (x y d : Nat) → Nat) (small : ∀ x y d, f x y d < 2 ^ 32) :
    splitLane 32 f a.toNat b.toNat d.toNat = f a.toNat b.toNat d.toNat := by
  have ha : a.toNat % 4294967296 = a.toNat := Nat.mod_eq_of_lt a.isLt
  have hb : b.toNat % 4294967296 = b.toNat := Nat.mod_eq_of_lt b.isLt
  have hd : d.toNat % 4294967296 = d.toNat := Nat.mod_eq_of_lt d.isLt
  have hf := small a.toNat b.toNat d.toNat
  simp only [splitLane, Nat.reduceDiv, List.range_one, List.map_cons, List.map_nil, packBits, Nat.mul_zero, Nat.pow_zero, Nat.div_one,
    Nat.reducePow, Nat.add_zero, ha, hb, hd]
  exact Nat.mod_eq_of_lt hf

theorem signedOf_toNat (a : Lane) : signedOf 32 a.toNat = a.toInt := by
  rw [signedOf, BitVec.ofNat_toNat, BitVec.setWidth_eq]

theorem deliver_lt (sat : Bool) (z : Int) : deliver 32 sat z < 2 ^ 32 := BitVec.isLt _

theorem integerLane_wrap :
    integerLane 0 sel x (fun n sat x y _ => deliver n sat (op (signedOf n x) (signedOf n y))) a b d =
      (BitVec.ofInt 32 (op a.toInt b.toInt)).toNat := by
  have lane := splitLane_whole a b d (fun x y _ => deliver 32 false (op (signedOf 32 x) (signedOf 32 y))) fun _ _ _ => deliver_lt ..
  rw [signedOf_toNat, signedOf_toNat] at lane
  exact lane

theorem integerLane_saturate :
    integerLane 1 sel x (fun n sat x y _ => deliver n sat (op (signedOf n x) (signedOf n y))) a b d =
      (BitVec.ofInt 32 (saturate 32 (op a.toInt b.toInt))).toNat := by
  have lane := splitLane_whole a b d (fun x y _ => deliver 32 true (op (signedOf 32 x) (signedOf 32 y))) fun _ _ _ => deliver_lt ..
  rw [signedOf_toNat, signedOf_toNat] at lane
  exact lane

end

theorem toInt_saturate (z : Int) :
    (BitVec.ofInt 32 (saturate 32 z)).toInt = if z < -2 ^ 31 then -2 ^ 31 else if 2 ^ 31 ≤ z then 2 ^ 31 - 1 else z := by
  have range : saturate 32 z = if z < -2 ^ 31 then -2 ^ 31 else if 2 ^ 31 ≤ z then 2 ^ 31 - 1 else z := by
    unfold saturate
    split
    · omega
    · split <;> omega
  rw [range, BitVec.toInt_ofInt, Int.bmod_eq_of_le]
  · split
    · decide
    · split <;> omega
  · split
    · decide
    · split <;> omega

/-! ### The quantiser (R147) -/

theorem packBits_lt (w : Nat) (xs : List Nat) : packBits w xs < 2 ^ (w * xs.length) := by
  induction xs with
  | nil => exact Nat.two_pow_pos _
  | cons x xs ih =>
    have low : x % 2 ^ w < 2 ^ w := Nat.mod_lt _ (Nat.two_pow_pos w)
    rw [packBits, List.length_cons, Nat.mul_succ, Nat.pow_add, Nat.mul_comm (2 ^ (w * xs.length))]
    calc x % 2 ^ w + 2 ^ w * packBits w xs < 2 ^ w + 2 ^ w * packBits w xs := Nat.add_lt_add_right low _
      _ = 2 ^ w * (packBits w xs + 1) := by rw [Nat.mul_succ, Nat.add_comm]
      _ ≤ 2 ^ w * 2 ^ (w * xs.length) := Nat.mul_le_mul_left _ ih

/-- Each number of a packed run stands at its place. -/
theorem packBits_div_mod (w : Nat) (xs : List Nat) (k : Nat) : packBits w xs / 2 ^ (w * k) % 2 ^ w = xs.getD k 0 % 2 ^ w := by
  induction xs generalizing k with
  | nil => simp [packBits]
  | cons x xs ih =>
    cases k with
    | zero => simp [packBits]
    | succ k =>
      have low : x % 2 ^ w < 2 ^ w := Nat.mod_lt _ (Nat.two_pow_pos w)
      have shift : 2 ^ (w * (k + 1)) = 2 ^ w * 2 ^ (w * k) := by rw [Nat.mul_succ, Nat.pow_add, Nat.mul_comm]
      rw [packBits, shift, ← Nat.div_div_eq_div_mul, Nat.add_mul_div_left _ _ (Nat.two_pow_pos w), Nat.div_eq_of_lt low, Nat.zero_add,
        List.getD_cons_succ, ih]

/-- A lane of VQNT's result: elements of `w` bits, then the scale, then zeros. -/
def quantLane (w scale : Nat) (elements : List Nat) (i : Nat) : Lane :=
  BitVec.ofNat 32 (if i < w then packBits w ((elements.drop (32 / w * i)).take (32 / w)) else if i = w then scale else 0)

theorem quantLane_element {w n k : Nat} (scale : Nat) (elements : List Nat) (below : n < w) (inside : k < 32 / w) :
    (quantLane w scale elements n).toNat / 2 ^ (w * k) % 2 ^ w = elements.getD (32 / w * n + k) 0 % 2 ^ w := by
  have fits : packBits w ((elements.drop (32 / w * n)).take (32 / w)) < 2 ^ 32 := by
    refine Nat.lt_of_lt_of_le (packBits_lt ..) (Nat.pow_le_pow_right (by decide) ?_)
    calc w * ((elements.drop (32 / w * n)).take (32 / w)).length ≤ w * (32 / w) := Nat.mul_le_mul_left _ (List.length_take_le ..)
      _ ≤ 32 := Nat.mul_div_le ..
  rw [quantLane, if_pos below, BitVec.toNat_ofNat, Nat.mod_eq_of_lt fits, packBits_div_mod, List.getD_eq_getElem?_getD,
    List.getElem?_take_of_lt inside, List.getElem?_drop, List.getD_eq_getElem?_getD]

section
variable {s : State} {d a : Reg} {t : BitVec 3} (live : s.Live) (ready : VectorReady s [d, a])
include live ready

theorem exec_vqnt_short (short : s.u.vlen ≠ 32) : exec (.vqnt d a t) s = .next (s.trap .vecLength 0 0 0) := by
  have refused : ((s.wakeBanks [d, a]).u.vlen == 32) = false := by
    rw [State.vlen_wakeBanks live]
    exact beq_false_of_ne short
  rw [exec_vqnt, execVqnt, vectorWord_ready ready, refused]
  rfl

theorem exec_vqnt_ok (disabled : bits s.u.fpctl 21 16 = 0) (full : s.u.vlen = 32) {scale flags : Nat} {elements : List Nat}
    (block : Quant.block (narrowFormat t.toNat) ((List.range 32).map fun i => FloatFormat.f32.read (s.laneNat a i)) = (scale, elements, flags)) :
    exec (.vqnt d a t) s = .next (s.setU (s.u.vectorResult [d, a] flags d
      fun i => some (quantLane (if t = 7 then 4 else 8) scale elements i))).retire := by
  have allowed : ((s.wakeBanks [d, a]).u.vlen == 32) = true := by
    rw [State.vlen_wakeBanks live, full]
    rfl
  have open_ : bits (s.wakeBanks [d, a]).u.fpctl 21 16 = 0 := by rw [State.fpctl_wakeBanks live, disabled]
  have number (i : Nat) := State.laneNat_wakeBanks live [d, a] a i
  rw [exec_vqnt, execVqnt, vectorWord_ready ready, allowed]
  simp only [ensure_true, number, block, bind, Except.bind, State.withFlags_ok (State.enabledFlag_of_disabled open_ _), State.finish_ok]
  rw [State.wakeBanks_eq, State.orFlags_setU live, State.setLanes_setU live]
  rfl

end

namespace Laws

/-- Settles O29: each word is one result by lane; a whole lane is one value of 32 bits. -/
theorem vectorInteger : Obligations.VectorInteger := by
  refine ⟨?words, ?whole⟩
  case words =>
    intro s d a b t n sel x live unstepped ready done lanes
    have lane (r : Reg) (i : Nat) := State.lane_wakeBanks live [d, a, b] r i
    have integer {i : Instr} (op : (n : Nat) → Bool → (x y c : Nat) → Nat) (form : exec i s = integerWord d a b t sel x op s) :
        done i (lanes op) := active_done live unstepped ready form fun i => by rw [lane, lane, lane]
    have bitwise {i : Instr} (f : Lane → Lane → Lane) (form : exec i s = bitwiseWord d a b f s) :
        done i (fun i => (f (s.lane a i) (s.lane b i)).toNat) := active_done live unstepped ready form fun i => by rw [lane, lane]
    refine ⟨integer _ (exec_viadd ..), integer _ (exec_visub ..), integer _ (exec_vimul ..), integer _ (exec_vimac ..),
      integer _ (exec_vshl ..), integer _ (exec_vshr ..), integer _ (exec_vsra ..), ?_, bitwise _ (exec_vand ..), bitwise _ (exec_vor ..),
      bitwise _ (exec_vxor ..)⟩
    exact active_done live unstepped ready (exec_vsel ..) fun i => by
      rw [State.mask_wakeBanks live, State.laneNat_wakeBanks live, State.laneNat_wakeBanks live]
  case whole =>
    intro a b d sel x wrap sat
    have wraps (op : Int → Int → Int) : wrap op = (BitVec.ofInt 32 (op a.toInt b.toInt)).toNat := integerLane_wrap ..
    refine ⟨?_, ?_, ?_, ?_⟩
    · rw [wraps, BitVec.ofInt_add, BitVec.ofInt_toInt, BitVec.ofInt_toInt]
    · rw [wraps, Int.sub_eq_add_neg, BitVec.ofInt_add, BitVec.ofInt_neg, BitVec.ofInt_toInt, BitVec.ofInt_toInt, ← BitVec.sub_eq_add_neg]
    · rw [wraps, BitVec.ofInt_mul, BitVec.ofInt_toInt, BitVec.ofInt_toInt]
    · intro op _ z
      rw [show sat op = (BitVec.ofInt 32 (saturate 32 z)).toNat from integerLane_saturate .., BitVec.ofNat_toNat, BitVec.setWidth_eq]
      exact toInt_saturate z

/-- Settles O28: every word but VQNT is one result by lane with its flags. -/
theorem vectorFloat : Obligations.VectorFloat := by
  refine ⟨?words, ?quantise⟩
  case words =>
    intro s d a b t sel x live unstepped disabled done two one value
    refine ⟨fun ready => ?_, fun ready => ?_⟩
    · have lane (r : Reg) (i : Nat) := State.lane_wakeBanks live [d, a, b] r i
      have mode := State.rounding_wakeBanks live [d, a, b]
      have float {i : Instr} (op : PatternOp) (form : exec i s = floatWord d a b t sel x op s) : done i (two op) :=
        laneResults_done live unstepped ready disabled form fun i => by rw [lane, lane, lane, mode]
      refine ⟨float _ (exec_vadd ..), float _ (exec_vsub ..), float _ (exec_vmul ..), float _ (exec_vfma ..), float _ (exec_vmin ..),
        float _ (exec_vmax ..), ?_⟩
      exact laneResults_done live unstepped ready disabled (exec_vpack ..) fun i => by rw [lane, lane, lane, mode]
    · have lane (i : Nat) := State.lane_wakeBanks live [d, a] a i
      have number (i : Nat) := State.laneNat_wakeBanks live [d, a] a i
      have mode := State.rounding_wakeBanks live [d, a]
      have sign {i : Instr} (op : FloatFormat → Nat → Nat) (form : exec i s = vectorWord [d, a] s fun s => s.laneResults d fun i =>
          floatLane t.toNat sel false s.rounding (fun f _ a _ _ => (op f a, 0)) (s.lane a i) 0 0) : done i (one op) :=
        laneResults_done live unstepped ready disabled form fun i => by rw [lane, mode]
      have approximates {i : Instr} (f : FVal → Nat × Nat) (form : exec i s = approximate d a f s) : done i (fun n => f (value n)) :=
        laneResults_done live unstepped ready disabled form fun i => by rw [number]
      refine ⟨sign _ (exec_vabs ..), sign _ (exec_vneg ..), approximates _ (exec_vrcp ..), approximates _ (exec_vrsq ..),
        approximates _ (exec_vexp2 ..), approximates _ (exec_vlog2 ..), ?_, ?_⟩
      · exact laneResults_done live unstepped ready disabled (exec_vcvt ..) fun i => by rw [number, mode]
      · exact laneResults_done live unstepped ready disabled (exec_vunpack ..) fun i => by rw [lane]
  case quantise =>
    intro s d a t live unstepped disabled ready
    refine ⟨fun short => exec_vqnt_short live ready short, fun full scale elements flags block => ?_⟩
    intro w
    have narrow : w = 4 ∨ w = 8 := by
      change (if t = 7 then 4 else 8) = 4 ∨ (if t = 7 then 4 else 8) = 8
      split <;> simp
    have lane {i : Nat} (inside : i < 32) := lane_vectorResult (rs := [d, a]) (d := d) live unstepped flags
      (fun i => some (quantLane w scale elements i)) inside
    refine ⟨_, exec_vqnt_ok live ready disabled full block, vectorFrame_vectorResult live unstepped _ _, fun n below k inside => ?_, ?_,
      fun n beyond inside => ?_⟩
    · rw [State.laneNat, lane (by omega), Option.getD_some]
      exact quantLane_element scale elements below inside
    · rw [lane (by omega), Option.getD_some, quantLane, if_neg (Nat.lt_irrefl w), if_pos rfl]
    · rw [lane inside, Option.getD_some, quantLane, if_neg (Nat.not_lt.2 (Nat.le_of_lt beyond)), if_neg (Nat.ne_of_gt beyond)]
      rfl

end Laws

end Sys2Proof.Machine
end

section
/-!
PROOFS. Masks, compares, reductions, permutations, moves and the grant (R136 to R140, R149 to R153).
-/

namespace Sys2Proof.Machine

/-! ### Masks (R139) -/

/-- A mask made of tests has each test at its bit. -/
theorem getLsbD_maskOf (f : Nat → Bool) {n : Nat} (inside : n < 32) : (maskOf f).getLsbD n = f n := by
  have fits : packBits 1 ((List.range 32).map fun i => if f i then 1 else 0) < 2 ^ 32 := by
    have bound := packBits_lt 1 ((List.range 32).map fun i => if f i then 1 else 0)
    rwa [List.length_map, List.length_range] at bound
  have place := packBits_div_mod 1 ((List.range 32).map fun i => if f i then 1 else 0) n
  rw [Nat.one_mul, Nat.pow_one, List.getD_eq_getElem?_getD, List.getElem?_map, List.getElem?_range inside] at place
  rw [maskOf, BitVec.getLsbD, BitVec.toNat_ofNat, Nat.mod_eq_of_lt fits, Nat.testBit_eq_decide_div_mod_eq, place]
  cases test : f n <;> simp [test]

/-- The bits of a mask from VLEN upward are zero. -/
theorem getLsbD_granted {vlen n : Nat} (x : BitVec 32) (lanes : vlen ≤ 32) (inside : n < 32) :
    (x &&& BitVec.ofNat 32 (2 ^ vlen - 1)).getLsbD n = (decide (n < vlen) && x.getLsbD n) := by
  have fits : (2 ^ vlen - 1) % 2 ^ 32 = 2 ^ vlen - 1 :=
    Nat.mod_eq_of_lt (Nat.lt_of_lt_of_le (Nat.sub_lt (Nat.two_pow_pos _) Nat.one_pos) (Nat.pow_le_pow_right (by decide) lanes))
  rw [BitVec.getLsbD_and, Bool.and_comm, BitVec.getLsbD_ofNat, Nat.testBit_two_pow_sub_one]
  simp [inside]

/-- The strand after a mask word: banks awake, flags raised, one mask written. -/
def Strand.maskResult (u : Strand) (rs : List Reg) (flags k : Nat) (x : BitVec 32) : Strand :=
  ((u.awake rs).flagged flags).withMask k x

theorem Strand.rest_maskResult (u : Strand) (rs : List Reg) (flags k : Nat) (x : BitVec 32) :
    { u.maskResult rs flags k x with k := u.k, banks := u.banks, fpctl := u.fpctl } = u := by
  simp only [maskResult, withMask, flagged, awake]

theorem Strand.k_maskResult (u : Strand) (rs : List Reg) (flags k : Nat) (x : BitVec 32) :
    (u.maskResult rs flags k x).k = u.k.setIfInBounds k (x &&& BitVec.ofNat 32 (2 ^ u.vlen - 1)) := by
  simp only [maskResult, withMask, flagged, awake]

/-- What a word with the one mask destination `k` leaves, and the bits that it writes (R139). -/
def MaskDone (k : Nat) (s t : State) (f : Nat → Bool) : Prop :=
  t.u.v = s.u.v ∧ t.mem = s.mem ∧ t.pc = s.pc + 4 ∧ (∀ r, t.reg r = s.reg r) ∧ (∀ n, n ≠ k → t.mask n = s.mask n) ∧
    ∀ n, n < 32 → (t.mask k).getLsbD n = (decide (n < s.u.vlen) && f n)

section
variable {s : State} (live : s.Live) (unstepped : s.Unstepped) {rs : List Reg} {k : Nat} (named : k < 8) (lanes : s.u.vlen ≤ 32)
include live unstepped named lanes

theorem maskDone_maskResult (flags : Nat) {x : BitVec 32} {f : Nat → Bool} (bit : ∀ n, n < s.u.vlen → x.getLsbD n = f n) :
    MaskDone k s (s.setU (s.u.maskResult rs flags k x)).retire f := by
  have rest := s.u.rest_maskResult rs flags k x
  have masks := s.u.k_maskResult rs flags k x
  generalize s.u.maskResult rs flags k x = y at rest masks
  have samePc : y.pc = s.u.pc := by simpa only using congrArg Strand.pc rest
  have step := State.strandStep_retire live unstepped samePc
  have kept : (s.setU y).retire.u.k = y.k := (congrArg Strand.k step.strand :)
  have vectors : (s.setU y).retire.u.v = y.v := (congrArg Strand.v step.strand :)
  have same : y.v = s.u.v := by simpa only using congrArg Strand.v rest
  have sameG : y.g = s.u.g := by simpa only using congrArg Strand.g rest
  have sameW : y.w = s.u.w := by simpa only using congrArg Strand.w rest
  rw [masks] at kept
  refine ⟨vectors.trans same, step.elsewhere.mem, step.next, step.reg sameG sameW,
    fun n other => ?_, fun n inside => ?_⟩
  · rw [State.mask, kept, Vector.getElem?_setIfInBounds_ne other.symm]
    rfl
  · rw [State.mask, kept, Vector.getElem?_setIfInBounds_self_of_lt named, Option.getD_some, getLsbD_granted x lanes inside]
    by_cases active : n < s.u.vlen
    · rw [bit n active]
    · simp [active]

variable (ready : VectorReady s rs)
include ready

/-- A mask word that raises no flag. -/
theorem setMask_done {i : Instr} {x : State → BitVec 32} {f : Nat → Bool}
    (form : exec i s = vectorWord rs s fun s => .ok (s.setMask k (x s)).retire)
    (bit : ∀ n, n < s.u.vlen → (x (s.wakeBanks rs)).getLsbD n = f n) : ∃ t, exec i s = .next t ∧ MaskDone k s t f := by
  refine ⟨_, ?_, maskDone_maskResult (rs := rs) live unstepped named lanes 0 bit⟩
  rw [form, vectorWord_ready ready, State.finish_ok, Strand.maskResult, Strand.flagged_zero, ← State.setMask_setU live]
  rfl

end

/-! ### Compares (R149) -/

theorem exec_vcmp_done {s : State} (live : s.Live) (unstepped : s.Unstepped) {k : Reg} (named : k.toNat < 8) (lanes : s.u.vlen ≤ 32)
    (disabled : bits s.u.fpctl 21 16 = 0) {a b : Reg} (ready : VectorReady s [a, b]) (t : BitVec 3) :
    ∃ u, exec (.vcmp k a b t) s = .next u ∧ MaskDone k.toNat s u fun n => (compareLane t.toNat (s.lane a n) (s.lane b n)).1 := by
  have lane (r : Reg) (i : Nat) := State.lane_wakeBanks live [a, b] r i
  have open_ : bits (s.wakeBanks [a, b]).u.fpctl 21 16 = 0 := by rw [State.fpctl_wakeBanks live, disabled]
  refine ⟨_, ?_, maskDone_maskResult (rs := [a, b]) live unstepped named lanes
    (s.activeLanes.foldl (fun acc i => acc ||| (compareLane t.toNat (s.lane a i) (s.lane b i)).2) 0)
    (x := maskOf fun i => (compareLane t.toNat (s.lane a i) (s.lane b i)).1) fun n active => getLsbD_maskOf _ (by omega)⟩
  rw [exec_vcmp, execVcmp, vectorWord_ready ready]
  simp only [lane, State.activeLanes_wakeBanks live, State.withFlags_ok (State.enabledFlag_of_disabled open_ _), State.finish_ok]
  rw [State.wakeBanks_eq, State.orFlags_setU live, State.setMask_setU live]
  rfl

/-! ### Reductions (R152) -/

/-- A tree of an operation without flags raises none. -/
theorem treeLevel_flags (f : Nat → Nat → Nat) : ∀ xs, (treeLevel (fun x y => (f x y, 0)) xs).2 = 0
  | [] => rfl
  | [_] => rfl
  | _ :: _ :: rest => by
    show 0 ||| (treeLevel (fun x y => (f x y, 0)) rest).2 = 0
    rw [treeLevel_flags f rest, Nat.zero_or]

theorem tree_flags (f : Nat → Nat → Nat) (n : Nat) (xs : List Nat) : (tree (fun x y => (f x y, 0)) n xs).2 = 0 := by
  induction n generalizing xs with
  | zero => rfl
  | succ n ih =>
    rw [tree]
    split
    · rfl
    · show _ ||| _ = 0
      rw [treeLevel_flags, ih, Nat.zero_or]

section
variable {s : State} (live : s.Live) (disabled : bits s.u.fpctl 21 16 = 0) {d a : Reg} (ready : VectorReady s [a])
  (float : Round → Nat → Nat → Nat × Nat) (int : Bool → Nat → Nat → Nat) (empty : Nat × Nat × Nat)
include live disabled ready

theorem reduceWord_float : reduceWord d a 0 float int empty s =
    let x := tree (float s.rounding) 6 (s.activeLanes.map fun i => s.laneNat a i)
    .next (((s.wakeBanks [a]).orFlags x.2).setReg d (BitVec.ofNat 64 (x.1.headD empty.1))).retire := by
  have open_ : bits (s.wakeBanks [a]).u.fpctl 21 16 = 0 := by rw [State.fpctl_wakeBanks live, disabled]
  rw [reduceWord, vectorWord_ready ready]
  simp only [State.laneNat_wakeBanks live, State.activeLanes_wakeBanks live, State.rounding_wakeBanks live,
    State.withFlags_ok (State.enabledFlag_of_disabled open_ _), State.finish_ok]
  rfl

theorem reduceWord_signed : reduceWord d a 1 float int empty s =
    .next (((s.wakeBanks [a]).orFlags 0).setReg d ((BitVec.ofNat 32
      ((tree (fun x y => (int true x y, 0)) 6 (s.activeLanes.map fun i => s.laneNat a i)).1.headD empty.2.1)).signExtend 64)).retire := by
  have open_ : bits (s.wakeBanks [a]).u.fpctl 21 16 = 0 := by rw [State.fpctl_wakeBanks live, disabled]
  have quiet := tree_flags (int true) 6 (s.activeLanes.map fun i => s.laneNat a i)
  rw [reduceWord, vectorWord_ready ready]
  simp only [State.laneNat_wakeBanks live, State.activeLanes_wakeBanks live, State.withFlags_ok (State.enabledFlag_of_disabled open_ _),
    State.finish_ok]
  refine Eq.trans ?_ (congrArg (fun flags => Host.Outcome.next (((s.wakeBanks [a]).orFlags flags).setReg d _).retire) quiet)
  rfl

theorem reduceWord_unsigned : reduceWord d a 2 float int empty s =
    .next (((s.wakeBanks [a]).orFlags 0).setReg d (BitVec.ofNat 64
      ((tree (fun x y => (int false x y, 0)) 6 (s.activeLanes.map fun i => s.laneNat a i)).1.headD empty.2.2))).retire := by
  have open_ : bits (s.wakeBanks [a]).u.fpctl 21 16 = 0 := by rw [State.fpctl_wakeBanks live, disabled]
  have quiet := tree_flags (int false) 6 (s.activeLanes.map fun i => s.laneNat a i)
  rw [reduceWord, vectorWord_ready ready]
  simp only [State.laneNat_wakeBanks live, State.activeLanes_wakeBanks live, State.withFlags_ok (State.enabledFlag_of_disabled open_ _),
    State.finish_ok]
  refine Eq.trans ?_ (congrArg (fun flags => Host.Outcome.next (((s.wakeBanks [a]).orFlags flags).setReg d _).retire) quiet)
  rfl

end

/-! ### Moves of lanes (R153) -/

section
variable {s : State} (live : s.Live) (unstepped : s.Unstepped) {rs : List Reg} {d : Reg}
include live

theorem setLanes_wakeBanks (f : Nat → Option Lane) : (s.wakeBanks rs).setLanes d f = s.setU (s.u.vectorResult rs 0 d f) := by
  rw [State.wakeBanks_eq, State.setLanes_setU live, Strand.vectorResult, Strand.flagged_zero]

include unstepped

/-- Banks that wake change no lane. -/
theorem lane_wakeBanks_retire (r : Reg) (i : Nat) : (s.wakeBanks rs).retire.lane r i = s.lane r i := by
  have pc : (s.u.awake rs).pc = s.u.pc := by simp only [Strand.awake]
  rw [State.wakeBanks_eq, lane_retire live unstepped pc]
  simp only [Strand.awake, Strand.vectorOf, State.lane, State.vreg]

theorem vectorFrame_wakeBanks : VectorFrame d s (s.wakeBanks rs).retire :=
  vectorFrame_retire live unstepped rfl fun _ _ => rfl

theorem fpctl_wakeBanks_retire : (s.wakeBanks rs).retire.u.fpctl = s.u.fpctl := by
  have pc : (s.u.awake rs).pc = s.u.pc := by simp only [Strand.awake]
  rw [State.wakeBanks_eq, fpctl_retire live unstepped pc]
  simp only [Strand.awake]

/-- VINS writes its lane where that is active. -/
theorem exec_vins_done (ready : VectorReady s [d]) (a r : Reg) :
    ∃ t, exec (.vins d a r) s = .next t ∧ VectorFrame d s t ∧
      LanesAre d s t (fun i => if i = (s.reg r).toNat % 32 then (s.reg a).toNat % 2 ^ 32 else s.laneNat d i) ∧
      t.u.fpctl = s.u.fpctl := by
  have form : exec (.vins d a r) s = .next (if (s.reg r).toNat % 32 < s.u.vlen then (s.wakeBanks [d]).setLanes d
      (fun i => if i = (s.reg r).toNat % 32 then some (BitVec.ofNat 32 ((s.reg a).toNat % 2 ^ 32)) else none) else s.wakeBanks [d]).retire := by
    rw [exec_vins, execVins, vectorWord_ready ready]
    simp only [State.reg32, State.reg_wakeBanks live, State.vlen_wakeBanks live, State.finish_ok]
  have kept (i : Nat) : BitVec.ofNat 32 (s.laneNat d i) = s.lane d i := by rw [State.laneNat, BitVec.ofNat_toNat, BitVec.setWidth_eq]
  by_cases active : (s.reg r).toNat % 32 < s.u.vlen
  · rw [if_pos active, setLanes_wakeBanks live] at form
    refine ⟨_, form, vectorFrame_vectorResult live unstepped _ _, fun i inside => ?_, ?_⟩
    · rw [lane_vectorResult live unstepped _ _ inside]
      dsimp only
      by_cases here : i = (s.reg r).toNat % 32
      · rw [if_pos here, if_pos here, if_pos (here ▸ active), Option.getD_some]
      · rw [if_neg here, if_neg here, Option.getD_none, kept, ite_self]
    · rw [fpctl_vectorResult live unstepped]
      exact BitVec.or_zero
  · rw [if_neg active] at form
    refine ⟨_, form, vectorFrame_wakeBanks live unstepped, fun i inside => ?_, fpctl_wakeBanks_retire live unstepped⟩
    rw [lane_wakeBanks_retire live unstepped]
    dsimp only
    split
    next lane =>
      have other : i ≠ (s.reg r).toNat % 32 := fun here => active (here ▸ lane)
      rw [if_neg other, kept]
    next => rfl

end

namespace Laws

/-- Settles O30: the mask words by the mask they write, the reductions by their tree, the moves by their results by lane. -/
theorem masksAndMoves : Obligations.MasksAndMoves := by
  refine ⟨?masks, ?moves⟩
  case masks =>
    intro s k j d a b t live unstepped disabled lanes named done
    refine ⟨fun ready => ⟨?_, ?_, ?_, ?_⟩, fun ready => exec_vcmp_done live unstepped named lanes disabled ready t⟩
    · exact setMask_done live unstepped named lanes ready (exec_kand ..) fun n _ => by
        rw [State.mask_wakeBanks live, State.mask_wakeBanks live, BitVec.getLsbD_and]
    · exact setMask_done live unstepped named lanes ready (exec_kor ..) fun n _ => by
        rw [State.mask_wakeBanks live, State.mask_wakeBanks live, BitVec.getLsbD_or]
    · exact setMask_done live unstepped named lanes ready (exec_knot ..) fun n active => by
        rw [State.mask_wakeBanks live, BitVec.getLsbD_not, decide_eq_true (by omega), Bool.true_and]
    · rw [exec_kpopc, execKpopc, vectorWord_ready ready]
      simp only [State.mask_wakeBanks live, State.activeLanes_wakeBanks live, State.finish_ok]
      rfl
  case moves =>
    intro s d a b r t live unstepped disabled done xs reduced
    refine ⟨fun ready => ?_, fun ready => ?_, fun ready => ?_, fun ready => ?_⟩
    · refine ⟨⟨?_, ?_, ?_⟩, ⟨?_, ?_, ?_⟩, ⟨?_, ?_, ?_⟩, ?_⟩
      case refine_10 =>
        rw [exec_vextr, execVextr, vectorWord_ready ready]
        simp only [State.reg_wakeBanks live, State.vlen_wakeBanks live, State.laneNat_wakeBanks live, State.finish_ok]
        refine congrArg (fun x => Host.Outcome.next (((s.wakeBanks [a]).setReg d x).retire)) ?_
        split
        · rw [State.laneNat, BitVec.ofNat_toNat]
        · rfl
      all_goals rintro rfl
      · exact (exec_vredadd ..).trans (reduceWord_float live disabled ready _ _ _)
      · exact (exec_vredadd ..).trans (reduceWord_signed live disabled ready _ _ _)
      · exact (exec_vredadd ..).trans (reduceWord_unsigned live disabled ready _ _ _)
      · exact (exec_vredmax ..).trans (reduceWord_float live disabled ready _ _ _)
      · exact (exec_vredmax ..).trans (reduceWord_signed live disabled ready _ _ _)
      · exact (exec_vredmax ..).trans (reduceWord_unsigned live disabled ready _ _ _)
      · exact (exec_vredmin ..).trans (reduceWord_float live disabled ready _ _ _)
      · exact (exec_vredmin ..).trans (reduceWord_signed live disabled ready _ _ _)
      · exact (exec_vredmin ..).trans (reduceWord_unsigned live disabled ready _ _ _)
    · exact active_done live unstepped ready (exec_vperm ..) fun i => by
        simp only [State.laneNat_wakeBanks live, State.vlen_wakeBanks live]
    · exact active_done live unstepped ready (exec_vslide ..) fun i => by
        simp only [State.reg_wakeBanks live, State.laneNat_wakeBanks live, State.vlen_wakeBanks live]
    · exact ⟨active_done live unstepped ready (exec_vbcast ..) fun i => by rw [State.reg32, State.reg_wakeBanks live],
        exec_vins_done live unstepped ready a r⟩

end Laws

/-! ### The grant (R136 to R140) -/

section
variable (u : Strand) (vregs vlen : Nat)

theorem grantTo_vregs : (grantTo u vregs vlen).vregs = vregs := by simp only [grantTo]

theorem grantTo_vlen : (grantTo u vregs vlen).vlen = vlen := by simp only [grantTo]

theorem grantTo_g : (grantTo u vregs vlen).g = u.g := by simp only [grantTo]

theorem grantTo_w : (grantTo u vregs vlen).w = u.w := by simp only [grantTo]

theorem grantTo_pc : (grantTo u vregs vlen).pc = u.pc := by simp only [grantTo]

theorem grantTo_k : (grantTo u vregs vlen).k = if u.vregs = 0 ∧ vregs ≠ 0 then Vector.replicate 8 0 else u.k := by simp only [grantTo]

/-- A register that is granted and was is kept; any other reads as zero (R138, R140). -/
theorem grantTo_vectorOf (r : Reg) :
    (grantTo u vregs vlen).vectorOf r = if r.toNat < vregs ∧ r.toNat < u.vregs then u.vectorOf r else Vector.replicate 32 0 := by
  have inside : r.toNat < 32 := r.isLt
  simp only [Strand.vectorOf, grantTo, inside, Option.getD_some, Vector.getElem?_eq_getElem, Vector.getElem_ofFn]

end

section
variable {s : State} (live : s.Live)
include live

/-- A change of the strand that keeps its registers and pc is seen in no scalar register. -/
theorem State.reg_setU_of_same {x : Strand} (g : x.g = s.u.g) (w : x.w = s.u.w) (r : Reg) : (s.setU x).reg r = s.reg r := by
  unfold State.reg
  rw [State.u_setU_live live, State.slot_setU live, g, w]

theorem State.pc_setU_of_same {x : Strand} (pc : x.pc = s.u.pc) : (s.setU x).pc = s.pc := by
  unfold State.pc
  rw [State.u_setU_live live, State.slot_setU live, pc]

variable (unstepped : s.Unstepped)
include unstepped

/-- What a change of the strand, a register write and the next word leave. -/
theorem setU_setReg_retire {y : Strand} (g : y.g = s.u.g) (w : y.w = s.u.w) (pc : y.pc = s.u.pc) (d : Reg) (x : Word) :
    RegisterFrame d (s.setU y) ((s.setU y).setReg d x).retire ∧ SameStrand (s.setU y) ((s.setU y).setReg d x).retire ∧
      (d ≠ 0 → ((s.setU y).setReg d x).retire.reg d = x) ∧ (∀ q, q ≠ d → ((s.setU y).setReg d x).retire.reg q = s.reg q) ∧
      ((s.setU y).setReg d x).retire.pc = s.pc + 4 := by
  have live' := State.live_setU live y
  have unstepped' := State.unstepped_setU live unstepped y
  have frame := State.retire_frame live' unstepped' d x
  exact ⟨frame, frame.strand, State.reg_retire live' unstepped' x,
    fun q other => (frame.registers q other).trans (State.reg_setU_of_same live g w q),
    frame.next.trans (congrArg (· + 4) (State.pc_setU_of_same live pc))⟩

/-- What a grant and the lanes in wd leave. -/
theorem grant_retire (vregs vlen : Nat) (d : Reg) (x : Word) {t : State} (done : ((s.setU (grantTo s.u vregs vlen)).setReg d x).retire = t) :
    t.u.vlen = vlen ∧ t.u.vregs = vregs ∧ (d ≠ 0 → t.reg d = x) ∧ (∀ q, q ≠ d → t.reg q = s.reg q) ∧ t.mem = s.mem ∧
      t.pc = s.pc + 4 ∧ (∀ r, t.vreg r = (grantTo s.u vregs vlen).vectorOf r) ∧ t.u.k = (grantTo s.u vregs vlen).k := by
  obtain ⟨frame, strand, wd, others, pc⟩ :=
    setU_setReg_retire live unstepped (grantTo_g s.u vregs vlen) (grantTo_w s.u vregs vlen) (grantTo_pc s.u vregs vlen) d x
  have mem := frame.elsewhere.mem
  rw [done] at frame strand wd others pc mem
  rw [SameStrand, State.u_setU_live live] at strand
  have hvlen := grantTo_vlen s.u vregs vlen
  have hvregs := grantTo_vregs s.u vregs vlen
  generalize grantTo s.u vregs vlen = y at *
  have hv : t.u.v = y.v := (congrArg Strand.v strand :)
  have hk : t.u.k = y.k := (congrArg Strand.k strand :)
  exact ⟨(congrArg Strand.vlen strand :).trans hvlen, (congrArg Strand.vregs strand :).trans hvregs, wd, others, mem, pc,
    fun r => by rw [State.vreg, hv, Strand.vectorOf], hk⟩

end

section
variable {s : State} (plain : s.NoPrefix) (idle : s.u.rep.active = false ∨ s.u.rep.stream.isSome = true ∨ s.slot.mode = true)
include plain idle

theorem exec_vgrant_off (d : Reg) : exec (.vgrant d 0 5) s = .next ((s.setU (grantTo s.u 0 0)).setReg d 0).retire := by
  rw [exec_vgrant, execVgrant, show ((5 : BitVec 3) != 5 || (0 : Reg) == 0) = true from rfl, State.plainWhere_legal, State.plain_ok plain,
    State.needIdleSequencer_ok' idle]
  rfl

/-- The registers that a type of VGRANT asks for. -/
abbrev grantSize (s : State) (t : BitVec 3) : Nat := if t = 0 then (if s.u.vregs = 0 then 8 else s.u.vregs) else 8 * t.toNat

theorem exec_vgrant_ok (d a : Reg) {t : BitVec 3} (small : t.toNat ≤ 4) :
    exec (.vgrant d a t) s = .next ((s.setU (grantTo s.u (grantSize s t) (min (s.reg a).toNat (maxLanes s.cur.1)))).setReg d
      (BitVec.ofNat 64 (min (s.reg a).toNat (maxLanes s.cur.1)))).retire := by
  have given : t ≠ 5 := fun five => by rw [five] at small; exact absurd small (by decide)
  have legal : (t != 5 || a == 0) = true := Bool.or_eq_true_iff.2 (.inl (bne_iff_ne.2 given))
  rw [exec_vgrant, execVgrant, legal, State.plainWhere_legal, State.plain_ok plain, State.needIdleSequencer_ok' idle]
  simp only [bind, Except.bind, given, if_false]
  rfl

end

namespace Laws

/-- Settles O31: the two forms of VGRANT by what a grant leaves of registers and masks. -/
theorem grant : Obligations.Grant := by
  intro s d a t plain live unstepped idle small n size
  constructor
  · obtain ⟨vlen, vregs, wd, others, mem, pc, vectors, masks⟩ := grant_retire live unstepped size n d (BitVec.ofNat 64 n) rfl
    refine ⟨_, exec_vgrant_ok plain idle d a small, vlen, vregs, wd, others, mem, pc, fun r granted held => ?_, fun r fresh i inside => ?_,
      fun none_ k => ?_, fun some_ => ?_⟩
    · rw [vectors, grantTo_vectorOf, if_pos ⟨granted, held⟩]
      rfl
    · rw [State.lane, vectors, grantTo_vectorOf, if_neg (fun both => Nat.not_lt.2 fresh both.2), Vector.getElem?_replicate, if_pos inside]
      rfl
    · have asked : size ≠ 0 := by
        change grantSize s t ≠ 0
        unfold grantSize
        split
        next => decide
        next other => exact fun zero => other (BitVec.eq_of_toNat_eq ((Nat.mul_eq_zero.mp zero).resolve_left (by decide)))
      rw [State.mask, masks, grantTo_k, if_pos ⟨none_, asked⟩, Vector.getElem?_replicate]
      split <;> rfl
    · rw [masks, grantTo_k, if_neg (fun both => some_ both.1)]
  · obtain ⟨vlen, vregs, wd, _⟩ := grant_retire live unstepped 0 0 d 0 rfl
    exact ⟨_, exec_vgrant_off plain idle d, vlen, vregs, wd⟩

end Laws

end Sys2Proof.Machine
end

section
/-!
PROOFS. Link and queue registers (R155 to R157, R286 to R288).
-/

namespace Sys2Proof.Machine

namespace State

/-- A strand changed in a slot leaves every pair as it is. -/
theorem pair_setStrandAt (s : State) (c i : Nat) (x : Strand) : (s.setStrandAt c i x).slot.pair = s.slot.pair := by
  by_cases core : s.cur.1 = c
  · by_cases slot : s.cur.2 = i
    · rcases Nat.lt_or_ge i 4 with inside | outside
      · rw [State.slot, setStrandAt, setSlotAt_cur, core, slot, slotAt_setSlotAt_same _ _ _ inside, State.slot, core, slot]
      · rw [State.slot, setStrandAt, setSlotAt_cur, core, slot, setSlotAt, Vector.setIfInBounds_eq_of_size_le outside, State.slot, core, slot,
          slotAt, slotAt, core_setCore_same]
    · rw [State.slot, setStrandAt, setSlotAt_cur, core, slotAt_setSlotAt_slot _ _ _ slot, State.slot, core]
  · rw [State.slot, setStrandAt, setSlotAt_cur, slotAt_setSlotAt_core _ _ _ _ core, State.slot]

section
variable {s : State} (alone : s.slot.pair = none) (c i n : Nat) (v : Word)
include alone

/-- A strand in no pair waits for its accepted write to land (R157). -/
theorem acceptLink_alone :
    s.acceptLink c i n v = .error (.wait .landing (some ((s.reserveLink c i n).sendLanding false c i n v none))) := by
  have alone' : (s.reserveLink c i n).slot.pair = none := (pair_setStrandAt ..).trans alone
  simp only [acceptLink, alone', Option.isSome_none, Bool.false_eq_true, if_false]

/-- A strand in no pair waits for its accepted push to land (R288). -/
theorem acceptPush_alone (report : Option Reg) :
    s.acceptPush c i n v report = .error (.wait .landing (some ((s.reserveQueue c i n).sendLanding true c i n v report))) := by
  have alone' : (s.reserveQueue c i n).slot.pair = none := (pair_setStrandAt ..).trans alone
  simp only [acceptPush, alone', Option.isSome_none, Bool.false_eq_true, if_false]

end

end State

section
variable {s : State} (plain : s.NoPrefix) {a d : Reg} {n : BitVec 3} {o : BitVec 6}
include plain

/-! ### NPUT (R156) -/

theorem exec_nput_activation (activation : s.activation = true) : exec (.nput a n o) s = .next (s.trap .handlerBlock 0 0 0) := by
  rw [exec_nput, execNput, State.plain_ok plain, State.needResident_trap activation]
  rfl

theorem exec_nput_ended (resident : s.activation = false) (target : s.targetOf (s.offsetCore o) = .ended) :
    exec (.nput a n o) s = .next (s.trap .linkGone 0 (BitVec.ofNat 64 (s.offsetCore o)) 0) := by
  rw [exec_nput, execNput, State.plain_ok plain, State.needResident_ok resident]
  simp only [bind, Except.bind, target]
  rfl

/-- A target that is not there, or whose register is full, makes NPUT wait. -/
theorem exec_nput_waits (resident : s.activation = false)
    (target : s.targetOf (s.offsetCore o) = .notStarted ∨ s.targetOf (s.offsetCore o) = .away ∨
      ∃ c i, s.targetOf (s.offsetCore o) = .here c i ∧ s.linkFree c i n.toNat = false) :
    exec (.nput a n o) s = .next (s.setWait (.linkTarget (s.u.home.getD 0) (s.offsetCore o) n.toNat)) := by
  rw [exec_nput, execNput, State.plain_ok plain, State.needResident_ok resident]
  rcases target with target | target | ⟨c, i, target, full⟩
  · simp only [bind, Except.bind, target]
    rfl
  · simp only [bind, Except.bind, target]
    rfl
  · simp only [bind, Except.bind, target, full]
    rfl

theorem exec_nput_accepted (alone : s.slot.pair = none) (resident : s.activation = false) {c i : Nat}
    (target : s.targetOf (s.offsetCore o) = .here c i) (free : s.linkFree c i n.toNat = true) :
    exec (.nput a n o) s = .next (((s.reserveLink c i n.toNat).sendLanding false c i n.toNat (s.reg a) none).setWait .landing) := by
  rw [exec_nput, execNput, State.plain_ok plain, State.needResident_ok resident]
  simp only [bind, Except.bind, target, free, if_true, State.acceptLink_alone alone, State.finish_wait, Option.getD_some]

/-! ### QPUSH and QPUTT (R287) -/

theorem exec_qpush_activation (activation : s.activation = true) : exec (.qpush a n o) s = .next (s.trap .handlerBlock 0 0 0) := by
  rw [exec_qpush, execQpush, State.plain_ok plain, State.needResident_trap activation]
  rfl

theorem exec_qpush_ended (resident : s.activation = false) (target : s.targetOf (s.offsetCore o) = .ended) :
    exec (.qpush a n o) s = .next (s.trap .queueGone 0 (BitVec.ofNat 64 (s.offsetCore o)) 0) := by
  rw [exec_qpush, execQpush, State.plain_ok plain, State.needResident_ok resident]
  simp only [bind, Except.bind, target]
  rfl

/-- A target that is not there, or whose queue is full, makes QPUSH wait. -/
theorem exec_qpush_waits (resident : s.activation = false)
    (target : s.targetOf (s.offsetCore o) = .notStarted ∨ s.targetOf (s.offsetCore o) = .away ∨
      ∃ c i, s.targetOf (s.offsetCore o) = .here c i ∧ s.queueFree c i n.toNat = false) :
    exec (.qpush a n o) s = .next (s.setWait (.queueTarget (s.u.home.getD 0) (s.offsetCore o) n.toNat)) := by
  rw [exec_qpush, execQpush, State.plain_ok plain, State.needResident_ok resident]
  rcases target with target | target | ⟨c, i, target, full⟩
  · simp only [bind, Except.bind, target]
    rfl
  · simp only [bind, Except.bind, target]
    rfl
  · simp only [bind, Except.bind, target, full]
    rfl

theorem exec_qpush_accepted (alone : s.slot.pair = none) (resident : s.activation = false) {c i : Nat}
    (target : s.targetOf (s.offsetCore o) = .here c i) (free : s.queueFree c i n.toNat = true) :
    exec (.qpush a n o) s = .next (((s.reserveQueue c i n.toNat).sendLanding true c i n.toNat (s.reg a) none).setWait .landing) := by
  rw [exec_qpush, execQpush, State.plain_ok plain, State.needResident_ok resident]
  simp only [bind, Except.bind, target, free, if_true, State.acceptPush_alone alone, State.finish_wait, Option.getD_some]

/-- QPUTT gives what its target makes of it, and waits for its landing alone. -/
theorem exec_qputt_resident (resident : s.activation = false) :
    exec (.qputt d a n o) s = .next (s.finish (match s.targetOf (s.offsetCore o) with
      | .ended => .ok (s.setPair d 0 2).retire
      | .here c i => if s.queueFree c i n.toNat then s.acceptPush c i n.toNat (s.reg a) (some d) else .ok (s.setPair d 0 1).retire
      | _ => .ok (s.setPair d 0 1).retire)) := by
  rw [exec_qputt, execQputt, State.plain_ok plain, resident]
  rfl

theorem exec_qputt_accepted (alone : s.slot.pair = none) (resident : s.activation = false) {c i : Nat}
    (target : s.targetOf (s.offsetCore o) = .here c i) (free : s.queueFree c i n.toNat = true) :
    exec (.qputt d a n o) s =
      .next (((s.reserveQueue c i n.toNat).sendLanding true c i n.toNat (s.reg a) (some d)).setWait .landing) := by
  rw [exec_qputt_resident plain resident, target]
  simp only [free, if_true, State.acceptPush_alone alone, State.finish_wait, Option.getD_some]

/-! ### NTRY.put (R156) -/

variable (alone : s.slot.pair = none)
include alone

/-- NTRY.put gives what its target makes of it, and waits for its landing alone. -/
theorem exec_ntryPut_alone :
    exec (.ntryPut d a n o) s = .next (s.finish (match s.targetOf (s.offsetCore o) with
      | .ended => .ok (s.setPair d 0 2).retire
      | .here c i =>
        if s.linkFree c i n.toNat then
          .error (.wait .landing (some ((s.reserveLink c i n.toNat).sendLanding false c i n.toNat (s.reg a) (some d))))
        else .ok (s.setPair d 0 1).retire
      | _ => .ok (s.setPair d 0 1).retire)) := by
  rw [exec_ntryPut, execNtryPut, State.plain_ok plain]
  simp only [State.commitPoint_alone alone, bind, Except.bind, pure, Except.pure] <;> rfl

end

namespace Laws

/-- Settles O32: the words that write a link or queue register by their target, the others by the own register. -/
theorem linksAndQueues : Obligations.LinksAndQueues := by
  refine ⟨?links, ?queues⟩
  case links =>
    intro s d a n o plain alone lc mine empty wait
    have quiet := State.commitPoint_alone alone false
    refine ⟨fun activation => ⟨exec_nput_activation plain activation, ?_, ?_, ?_⟩, fun resident => ⟨exec_nput_ended plain resident,
      fun target => exec_nput_waits plain resident (target.imp_right .inl),
      fun c i target full => exec_nput_waits plain resident (.inr (.inr ⟨c, i, target, full⟩)),
      fun c i target free => exec_nput_accepted plain alone resident target free, fun present => ⟨?_, ?_⟩, fun absent => ⟨?_, ?_⟩, ?_⟩,
      fun target => ?_, fun target => ?_, fun c i target => ?_⟩
    · rw [exec_nget, execNget, State.plain_ok plain, State.needResident_trap activation]
      rfl
    · rw [exec_ntry, execNtry, State.plain_ok plain, quiet]
      simp only [bind, Except.bind, activation, if_true]
      rfl
    · rw [exec_nclr, execNclr, State.plain_ok plain, activation]
      rfl
    · have held : (s.link n.toNat).present = true := present
      rw [exec_nget, execNget, State.plain_ok plain, State.needResident_ok resident, quiet]
      simp only [bind, Except.bind, held, if_true]
      rfl
    · have held : (s.link n.toNat).present = true := present
      rw [exec_ntry, execNtry, State.plain_ok plain, quiet]
      simp only [bind, Except.bind, resident, Bool.false_eq_true, if_false, held, if_true]
      rfl
    · have bare : (s.link n.toNat).present = false := absent
      rw [exec_nget, execNget, State.plain_ok plain, State.needResident_ok resident, quiet]
      simp only [bind, Except.bind, bare, Bool.false_eq_true, if_false]
      rfl
    · have bare : (s.link n.toNat).present = false := absent
      rw [exec_ntry, execNtry, State.plain_ok plain, quiet]
      simp only [bind, Except.bind, resident, bare, Bool.false_eq_true, if_false]
      rfl
    · rw [exec_nclr, execNclr, State.plain_ok plain, resident, quiet]
      rfl
    · rw [exec_ntryPut_alone plain alone, show s.targetOf (s.offsetCore o) = _ from target]
      rfl
    · rcases target with target | target <;> rw [exec_ntryPut_alone plain alone, show s.targetOf (s.offsetCore o) = _ from target] <;> rfl
    · rw [exec_ntryPut_alone plain alone, show s.targetOf (s.offsetCore o) = _ from target]
      cases free : s.linkFree c i n.toNat
      · simp only [free, Bool.false_eq_true, if_false]
        rfl
      · simp only [free, if_true, State.finish_wait, Option.getD_some]
  case queues =>
    intro s d a n o plain alone lc mine keep status wait
    have quiet := State.commitPoint_alone alone false
    refine ⟨?_, fun activation => ⟨exec_qpush_activation plain activation, ?_, ?_, ?_⟩, fun resident => ⟨fun target =>
      ⟨exec_qpush_ended plain resident target, ?_⟩, fun target => ⟨exec_qpush_waits plain resident (target.imp_right .inl), ?_⟩,
      fun c i target full => ⟨exec_qpush_waits plain resident (.inr (.inr ⟨c, i, target, full⟩)), ?_⟩, fun c i target free =>
      ⟨exec_qpush_accepted plain alone resident target free, exec_qputt_accepted plain alone resident target free⟩,
      fun none_ => ⟨?_, ?_⟩, fun x xs some_ => ⟨?_, ?_⟩⟩⟩
    · rw [exec_qdepth, execQdepth, State.plain_ok plain]
      rfl
    · rw [exec_qpop, execQpop, State.plain_ok plain, State.needResident_trap activation]
      rfl
    · rw [exec_qtry, execQtry, State.plain_ok plain, activation]
      rfl
    · rw [exec_qputt, execQputt, State.plain_ok plain, activation]
      rfl
    · rw [exec_qputt_resident plain resident, show s.targetOf (s.offsetCore o) = _ from target]
      rfl
    · rcases target with target | target <;> rw [exec_qputt_resident plain resident, show s.targetOf (s.offsetCore o) = _ from target] <;> rfl
    · rw [exec_qputt_resident plain resident, show s.targetOf (s.offsetCore o) = _ from target]
      simp only [full]
      rfl
    · have items : (s.queue n.toNat).items = [] := none_
      rw [exec_qpop, execQpop, State.plain_ok plain, State.needResident_ok resident, quiet]
      simp only [bind, Except.bind, items]
      rfl
    · have items : (s.queue n.toNat).items = [] := none_
      rw [exec_qtry, execQtry, State.plain_ok plain, resident, quiet]
      simp only [bind, Except.bind, pure, Except.pure, Bool.false_eq_true, if_false, items, State.finish_ok]
      rfl
    · have items : (s.queue n.toNat).items = x :: xs := some_
      have kept : s.setItems n.toNat xs = keep xs := rfl
      rw [exec_qpop, execQpop, State.plain_ok plain, State.needResident_ok resident, quiet]
      simp only [bind, Except.bind, pure, Except.pure, items, kept, State.finish_ok]
    · have items : (s.queue n.toNat).items = x :: xs := some_
      have kept : s.setItems n.toNat xs = keep xs := rfl
      rw [exec_qtry, execQtry, State.plain_ok plain, resident, quiet]
      simp only [bind, Except.bind, pure, Except.pure, Bool.false_eq_true, if_false, items, kept, State.finish_ok]
      rfl

end Laws

end Sys2Proof.Machine
end

section
/-!
PROOFS. Arrival queues, messages and gusts (R25, R287, R298, R299, R303, R304).
-/

namespace Sys2Proof.Machine

namespace State

/-! ### Messages taken (R299) -/

theorem needQueuePrivilege_ok {s : State} {n : BitVec 2} (open_ : n ≠ 0 ∨ s.slot.mode = true) : s.needQueuePrivilege n.toNat = .ok () := by
  have allowed : (n.toNat != 0 || s.slot.mode) = true := by
    rcases open_ with other | super
    · have number : n.toNat ≠ 0 := fun zero => other (BitVec.eq_of_toNat_eq zero)
      simp [number]
    · simp [super]
  rw [needQueuePrivilege, allowed, ensure_true]

theorem needQueuePrivilege_trap {s : State} (user : s.slot.mode = false) :
    s.needQueuePrivilege (0 : BitVec 2).toNat = .error (.trap .illPriv 0 0 0 none) := by
  rw [needQueuePrivilege, user]
  rfl

/-- The message taken stands in the queue, and no handler is bound to it (R25). -/
theorem takeUnbound_spec {s t : State} {q : Nat} {m : Msg} (taken : s.takeUnbound q = some (m, t)) :
    State.bound s.me q m = false ∧ m ∈ s.me.aq[q]?.getD [] := by
  have head : (unbound s.me q).head? = some m := by
    rw [takeUnbound] at taken
    split at taken
    next => exact nomatch taken
    next found =>
      rw [found]
      exact congrArg some (Prod.mk.inj (Option.some.inj taken)).1
  have listed := List.mem_of_head? head
  rw [unbound, List.mem_filter] at listed
  exact ⟨by simpa using listed.2, listed.1⟩

/-- Writes to registers one after another, from the one after `d` on. -/
theorem reg_foldl_setReg {s : State} (live : s.Live) {d : Reg} (f : Nat → Word) {n : Nat} (some_ : 0 < d.toNat) (room : d.toNat + n ≤ 31) :
    let t := (List.range n).foldl (fun s i => s.setReg (d + BitVec.ofNat 5 (i + 1)) (f i)) s
    t.Live ∧ ∀ i, i < n → t.reg (d + BitVec.ofNat 5 (i + 1)) = f i := by
  induction n with
  | zero => exact ⟨live, fun i below => absurd below (Nat.not_lt_zero i)⟩
  | succ n ih =>
    obtain ⟨live', written⟩ := ih (by omega)
    have number (i : Nat) (below : i ≤ n) : (d + BitVec.ofNat 5 (i + 1)).toNat = d.toNat + (i + 1) := by
      rw [BitVec.toNat_add, BitVec.toNat_ofNat, Nat.mod_eq_of_lt (show i + 1 < 2 ^ 5 by omega), Nat.mod_eq_of_lt (by omega)]
    rw [List.range_succ, List.foldl_append]
    refine ⟨live_setReg live' _ _, fun i below => ?_⟩
    rcases Nat.lt_succ_iff_lt_or_eq.1 below with earlier | rfl
    · have apart : d + BitVec.ofNat 5 (i + 1) ≠ d + BitVec.ofNat 5 (n + 1) := fun same => by
        have := congrArg BitVec.toNat same
        rw [number i (Nat.le_of_lt earlier), number n (Nat.le_refl n)] at this
        omega
      exact (reg_setReg_other live' _ apart).trans (written i earlier)
    · refine reg_setReg live' _ fun zero => ?_
      have := congrArg BitVec.toNat zero
      rw [number i (Nat.le_refl i)] at this
      exact absurd this (by simp)

end State

/-! ### Messages sent (R298) -/

/-- The fields of a message request in order (R298). -/
structure MessageFields (s : State) (a : Reg) (w : Word) : Prop where
  type : bits w 7 0 ≠ 255
  length : bits w 13 8 ≤ 56
  queue : bits w 15 14 ≠ 3
  supervisor : bits w 15 14 ≠ 0 ∨ s.slot.mode = true
  low : bits w 31 16 = 0
  high : bits w 63 48 = 0
  block : a.toNat - 8 + (bits w 13 8 + 7) / 8 ≤ 23

namespace State

section
variable {s : State} {a : Reg} {w : Word}

theorem messageChecks_format (bad : bits w 7 0 = 255 ∨ 56 < bits w 13 8 ∨ bits w 15 14 = 3 ∨ bits w 31 16 ≠ 0 ∨ bits w 63 48 ≠ 0 ∨
    (bits w 15 14 = 0 ∧ s.slot.mode = false)) : s.messageChecks a w = .error (.trap .msgFormat 0 0 0 none) := by
  have refused : (bits w 7 0 != 255 && decide (bits w 13 8 ≤ 56) && bits w 15 14 != 3 && (bits w 15 14 != 0 || s.slot.mode) &&
      bits w 31 16 == 0 && bits w 63 48 == 0 && decide (a.toNat - 8 + (bits w 13 8 + 7) / 8 ≤ 23)) = false := by
    rcases bad with h | h | h | h | h | ⟨h, user⟩
    · simp [h]
    · simp [Nat.not_le.2 h]
    · simp [h]
    · simp [h]
    · simp [h]
    · simp [h, user]
  simp only [messageChecks, refused]
  rfl

variable (fields : MessageFields s a w)
include fields

theorem messageChecks_fields :
    s.messageChecks a w = if s.me.grants.contains (s.reg a) || s.admittedHere then .ok () else raiseAt .handleDenied 0 (s.reg a) := by
  have allowed : (bits w 7 0 != 255 && decide (bits w 13 8 ≤ 56) && bits w 15 14 != 3 && (bits w 15 14 != 0 || s.slot.mode) &&
      bits w 31 16 == 0 && bits w 63 48 == 0 && decide (a.toNat - 8 + (bits w 13 8 + 7) / 8 ≤ 23)) = true := by
    simp [fields.type, fields.length, fields.queue, fields.supervisor, fields.low, fields.high, fields.block]
  simp only [messageChecks, allowed]
  rfl

theorem messageChecks_denied (closed : s.me.grants.contains (s.reg a) = false) (first : s.admittedHere = false) :
    s.messageChecks a w = .error (.trap .handleDenied 0 (s.reg a) 0 none) := by
  rw [messageChecks_fields fields, closed, first]
  rfl

theorem messageChecks_ok (granted : s.me.grants.contains (s.reg a) = true ∨ s.admittedHere = true) : s.messageChecks a w = .ok () := by
  rw [messageChecks_fields fields, if_pos (by simpa using granted)]

end

/-- A message to a logical core of a strand in no pair, on its way. -/
def sentMessage (s : State) (a : Reg) (w : Word) (c l lc : Nat) : State :=
  (s.perform (.message c (bits w 15 14) (messageHeader s.slot.mode s.u.lcore w (s.reg a)) (s.payloadWords a (bits w 13 8))
    (if s.slot.mode then none else s.u.launch) s.u.job (l, lc) (s.reg a))).count s.cur.1 9 1

theorem sendTo_core {s : State} (alone : s.slot.pair = none) (a : Reg) (w : Word) (c l lc : Nat) :
    s.sendTo a w (.core c l lc) = .ok (s.sentMessage a w c l lc) := by
  rw [sendTo]
  simp only [emit_alone alone, bind, Except.bind, pure, Except.pure]
  rfl

end State

section
variable {s : State} (plain : s.NoPrefix) {a b d : Reg}
include plain

theorem exec_send_activation (activation : s.activation = true) : exec (.send a b) s = .next (s.trap .handlerBlock 0 0 0) := by
  rw [exec_send, execSend, State.plain_ok plain, State.needResident_trap activation]
  rfl

/-- A check of a message that fails stops both words (R298). -/
theorem exec_sendt_refused {c : Cause} {x : Word} (refused : s.messageChecks a (s.reg b) = .error (.trap c 0 x 0 none)) :
    exec (.sendt d a b) s = .next (s.trap c 0 x 0) := by
  rw [exec_sendt, execSendt, State.plain_ok plain]
  simp only [refused, bind, Except.bind]
  rfl

theorem exec_send_refused (resident : s.activation = false) {c : Cause} {x : Word}
    (refused : s.messageChecks a (s.reg b) = .error (.trap c 0 x 0 none)) : exec (.send a b) s = .next (s.trap c 0 x 0) := by
  rw [exec_send, execSend, State.plain_ok plain, State.needResident_ok resident]
  simp only [refused, bind, Except.bind]
  rfl

variable (checked : s.messageChecks a (s.reg b) = .ok ())
include checked

theorem exec_sendt_gone (target : s.endpointOf (s.reg a) = .gone) : exec (.sendt d a b) s = .next (s.setPair d 0 2).retire := by
  rw [exec_sendt, execSendt, State.plain_ok plain]
  simp only [checked, target, bind, Except.bind, pure, Except.pure, State.finish_ok]

theorem exec_sendt_full {c l lc : Nat} (target : s.endpointOf (s.reg a) = .core c l lc)
    (full : s.aqRoom c (bits (s.reg b) 15 14) = false) : exec (.sendt d a b) s = .next (s.setPair d 0 1).retire := by
  rw [exec_sendt, execSendt, State.plain_ok plain]
  simp only [checked, target, full, bind, Except.bind, pure, Except.pure, Bool.false_eq_true, if_false, State.finish_ok]

theorem exec_sendt_accepted (alone : s.slot.pair = none) {c l lc : Nat} (target : s.endpointOf (s.reg a) = .core c l lc)
    (room : s.aqRoom c (bits (s.reg b) 15 14) = true) :
    exec (.sendt d a b) s = .next ((s.sentMessage a (s.reg b) c l lc).setPair d 0 0).retire := by
  rw [exec_sendt, execSendt, State.plain_ok plain]
  simp only [checked, target, room, State.sendTo_core alone, bind, Except.bind, pure, Except.pure, if_true, State.finish_ok]

theorem exec_sendt_unreachable (target : s.endpointOf (s.reg a) = .otherBox) (cut : s.spanReady = false) :
    exec (.sendt d a b) s = .next (s.setPair d 0 2).retire := by
  have refuses : s.spanAccepts = (2, s) := by rw [State.spanAccepts, cut]; rfl
  rw [exec_sendt, execSendt, State.plain_ok plain]
  simp only [checked, target, refuses, bind, Except.bind, pure, Except.pure, State.finish_ok]
  rfl

variable (resident : s.activation = false)
include resident

theorem exec_send_gone (target : s.endpointOf (s.reg a) = .gone) : exec (.send a b) s = .next s.retire := by
  rw [exec_send, execSend, State.plain_ok plain, State.needResident_ok resident]
  simp only [checked, target, bind, Except.bind, pure, Except.pure, State.finish_ok]

/-- A SEND that waits notes that its checks have passed (R11). -/
theorem exec_send_full {c l lc : Nat} (target : s.endpointOf (s.reg a) = .core c l lc)
    (full : s.aqRoom c (bits (s.reg b) 15 14) = false) :
    exec (.send a b) s = .next (s.finish (s.sendWaits (.room c (bits (s.reg b) 15 14)))) := by
  rw [exec_send, execSend, State.plain_ok plain, State.needResident_ok resident]
  simp only [checked, target, full, bind, Except.bind, Bool.false_eq_true, if_false]

theorem exec_send_accepted (alone : s.slot.pair = none) {c l lc : Nat} (target : s.endpointOf (s.reg a) = .core c l lc)
    (room : s.aqRoom c (bits (s.reg b) 15 14) = true) : exec (.send a b) s = .next (s.sentMessage a (s.reg b) c l lc).retire := by
  rw [exec_send, execSend, State.plain_ok plain, State.needResident_ok resident]
  simp only [checked, target, room, State.sendTo_core alone, bind, Except.bind, pure, Except.pure, if_true, State.finish_ok]

theorem exec_send_unplaced {l : Nat} (target : s.endpointOf (s.reg a) = .unplaced l) :
    exec (.send a b) s = .next (s.finish (s.sendWaits (.placed l))) := by
  rw [exec_send, execSend, State.plain_ok plain, State.needResident_ok resident]
  simp only [checked, target, bind, Except.bind]

theorem exec_send_unreachable (target : s.endpointOf (s.reg a) = .otherBox) (cut : s.spanReady = false) :
    exec (.send a b) s = .next (s.finish (s.sendWaits .spanLink)) := by
  rw [exec_send, execSend, State.plain_ok plain, State.needResident_ok resident]
  simp only [checked, target, cut, bind, Except.bind, Bool.not_false, if_true]

end

namespace Laws

/-- Settles O33: the words that take an arrival by its check, the strand's kind and the queue; the words that send by their checks and
the endpoint. -/
theorem arrivalsAndMessages : Obligations.ArrivalsAndMessages := by
  refine ⟨?arrivals, ?messages⟩
  case arrivals =>
    intro s t d n m plain alone status
    have quiet := State.commitPoint_alone alone false
    refine ⟨?closed, fun open_ => ?opened⟩
    case closed =>
      rintro rfl user
      have closed := State.needQueuePrivilege_trap user
      refine ⟨?_, ?_, ?_, ?_, ?_⟩
      · rw [exec_qpopAq, execQpopAq, State.plain_ok plain, closed]; rfl
      · rw [exec_qtryAq, execQtryAq, State.plain_ok plain, closed]; rfl
      · rw [exec_qdepthAq, execQdepthAq, State.plain_ok plain, closed]; rfl
      · rw [exec_recv, execRecv, State.plain_ok plain, closed]; rfl
      · rw [exec_recvt, execRecvt, State.plain_ok plain, closed]; rfl
    case opened =>
      have opened := State.needQueuePrivilege_ok open_
      refine ⟨?_, fun activation => ⟨?_, ?_, ?_, ?_⟩, fun resident => ⟨fun none_ => ⟨?_, ?_, ?_, ?_⟩, fun taken => ?_⟩⟩
      · rw [exec_qdepthAq, execQdepthAq, State.plain_ok plain, opened]; rfl
      · rw [exec_qpopAq, execQpopAq, State.plain_ok plain, opened, State.needResident_trap activation]; rfl
      · rw [exec_recv, execRecv, State.plain_ok plain, opened, State.needResident_trap activation]; rfl
      · rw [exec_qtryAq, execQtryAq, State.plain_ok plain, opened, activation]; rfl
      · rw [exec_recvt, execRecvt, State.plain_ok plain, opened, quiet]
        simp only [activation, bind, Except.bind, pure, Except.pure, if_true, State.finish_ok]
      · rw [exec_qpopAq, execQpopAq, State.plain_ok plain, opened, State.needResident_ok resident, quiet]
        simp only [none_, bind, Except.bind, State.finish_wait, Option.getD_some]
      · rw [exec_recv, execRecv, State.plain_ok plain, opened, State.needResident_ok resident, quiet]
        simp only [none_, bind, Except.bind, State.finish_wait, Option.getD_some]
      · rw [exec_qtryAq, execQtryAq, State.plain_ok plain, opened, resident, quiet]
        simp only [none_, bind, Except.bind, pure, Except.pure, Bool.false_eq_true, if_false, State.finish_ok]
        rfl
      · rw [exec_recvt, execRecvt, State.plain_ok plain, opened, quiet]
        simp only [none_, resident, bind, Except.bind, pure, Except.pure, Bool.false_eq_true, if_false, State.finish_ok]
      · obtain ⟨unbound, listed⟩ := State.takeUnbound_spec taken
        refine ⟨?_, ?_, ?_, ?_, unbound, listed, fun some_ room live i below => ?_⟩
        · rw [exec_qpopAq, execQpopAq, State.plain_ok plain, opened, State.needResident_ok resident, quiet]
          simp only [taken, bind, Except.bind, pure, Except.pure, State.finish_ok]
        · rw [exec_recv, execRecv, State.plain_ok plain, opened, State.needResident_ok resident, quiet]
          simp only [taken, bind, Except.bind, pure, Except.pure, State.finish_ok]
        · rw [exec_qtryAq, execQtryAq, State.plain_ok plain, opened, resident, quiet]
          simp only [taken, bind, Except.bind, pure, Except.pure, Bool.false_eq_true, if_false, State.finish_ok]
          rfl
        · rw [exec_recvt, execRecvt, State.plain_ok plain, opened, quiet]
          simp only [taken, resident, bind, Except.bind, pure, Except.pure, Bool.false_eq_true, if_false, State.finish_ok]
        · exact (State.reg_foldl_setReg (State.live_setReg live d m.header) (fun i => m.payload.getD i 0) (n := 7) some_ (by omega)).2 i below
  case messages =>
    intro s d a b c l lc plain alone w h sent status waits
    refine ⟨exec_send_activation plain, fun bad => ?_, fun type length queue supervisor low high block => ?_⟩
    · have refused := State.messageChecks_format (a := a) bad
      exact ⟨exec_sendt_refused plain refused, fun resident => exec_send_refused plain resident refused⟩
    · have fields : MessageFields s a w := ⟨type, length, queue, supervisor, low, high, block⟩
      refine ⟨fun closed first => ?_, fun granted => ?_⟩
      · have refused := State.messageChecks_denied fields closed first
        exact ⟨exec_sendt_refused plain refused, fun resident => exec_send_refused plain resident refused⟩
      · have checked := State.messageChecks_ok fields granted
        exact ⟨fun target => ⟨exec_sendt_gone plain checked target, fun resident => exec_send_gone plain checked resident target⟩,
          fun target => ⟨fun full => ⟨exec_sendt_full plain checked target full,
              fun resident => exec_send_full plain checked resident target full⟩,
            fun room => ⟨exec_sendt_accepted plain checked alone target room,
              fun resident => exec_send_accepted plain checked resident alone target room⟩⟩,
          fun l target resident => exec_send_unplaced plain checked resident target,
          fun target cut => ⟨exec_sendt_unreachable plain checked target cut,
            fun resident => exec_send_unreachable plain checked resident target cut⟩⟩

end Laws

/-! ### Gusts (R303, R304) -/

namespace State

/-- A gust on its way to its owner (R303). -/
def gustSent (s : State) (spawn : Bool) (i : Nat) (r : OwnerRule) (lc c : Nat) : State :=
  { s with net := s.net ++ [{ core := c, queue := 3, sender := some (s.cur.1, s.cur.2, spawn), msg :=
    { header := gustHeader s.u.lcore (s.pc + 4) i, payload := (List.range 7).map fun n => s.reg (BitVec.ofNat 5 (9 + n))
      launch := s.u.launch, job := s.u.job, home := r.launch.map fun l => (l, lc) } }] }

theorem sendGust_noJob {s : State} (none_ : s.job? = none) (a : Word) (spawn : Bool) :
    s.sendGust a spawn = .error (.trap .gustOwner 0 0 0 none) := by
  rw [sendGust, ownerOf, none_]
  rfl

theorem sendGust_alone {s : State} (alone : s.slot.pair = none) {a : Word} {i lc c : Nat} {r : OwnerRule}
    (owner : s.ownerOf a = .ok (i, r, lc, c)) (spawn : Bool) :
    s.sendGust a spawn = if spawn && decide (bits s.me.gspill 15 8 ≤ s.liveGusts s.cur.1) then .ok (s.setReg 8 2).retire
      else .error (.wait .answer (some (s.gustSent spawn i r lc c))) := by
  simp only [sendGust, owner, commitPoint_alone alone, bind, Except.bind, pure, Except.pure]
  rfl

end State

theorem exec_gust_leaving {s : State} (plain : s.NoPrefix) (a : Reg) (leaving : s.u.leaving = true) :
    exec (.gust a) s =
      .next (if s.u.rep.active = true ∧ s.u.rep.iteration < s.u.rep.count then s.setWait .repetition else s.leave) := by
  rw [exec_gust, execGust, State.plain_ok plain, leaving, State.awaitSequencer]
  by_cases runs : s.u.rep.active = true ∧ s.u.rep.iteration < s.u.rep.count
  · have waits : (s.u.rep.active && decide (s.u.rep.iteration < s.u.rep.count)) = true := by simpa using runs
    rw [if_pos runs, waits]
    rfl
  · have done : (s.u.rep.active && decide (s.u.rep.iteration < s.u.rep.count)) = false := by simpa using runs
    rw [if_neg runs, done]
    rfl

theorem exec_gust_stays {s : State} (plain : s.NoPrefix) (a : Reg) (stays : s.u.leaving = false) :
    exec (.gust a) s = .next (s.finish (s.sendGust (s.reg a) false)) := by
  rw [exec_gust, execGust, State.plain_ok plain, stays]
  rfl

theorem exec_gspawn_ok {s : State} (plain : s.NoPrefix) (a : Reg) :
    exec (.gspawn a) s = .next (s.finish (s.sendGust (s.reg a) true)) := by
  rw [exec_gspawn, execGspawn, State.plain_ok plain]

namespace Laws

/-- Settles O34: a gust without a job, with an owner, and one whose strand already leaves. -/
theorem gusts : Obligations.Gusts := by
  intro s a i lc c r plain alone sent
  refine ⟨exec_gust_leaving plain a, fun none_ => ⟨fun stays => ?_, ?_⟩, fun owner => ⟨fun stays => ?_, ?_⟩⟩
  · rw [exec_gust_stays plain a stays, State.sendGust_noJob none_]
    rfl
  · rw [exec_gspawn_ok plain, State.sendGust_noJob none_]
    rfl
  · rw [exec_gust_stays plain a stays, State.sendGust_alone alone owner]
    rfl
  · rw [exec_gspawn_ok plain, State.sendGust_alone alone owner, Bool.true_and]
    by_cases full : bits s.me.gspill 15 8 ≤ s.liveGusts s.cur.1
    · rw [if_pos full, if_pos (decide_eq_true full), State.finish_ok]
    · rw [if_neg full, if_neg (by simpa using full)]
      rfl

end Laws

end Sys2Proof.Machine
end

section
/-!
PROOFS. Cuffs, the repetition buffer, LAUNCH (R158 to R160, R164, R290 to R292, R310, R312).
-/

namespace Sys2Proof.Machine

/-! ### Cuffs (R158 to R160) -/

theorem exec_cmps_illegal {s : State} (other : s.kind ≠ .score) (k : BitVec 2) : exec (.cmps k) s = .next (s.trap .illFunction 0 0 0) := by
  rw [exec_cmps, execCmps, show (s.kind == .score) = false from beq_false_of_ne other, State.plainWhere_illegal]

section
variable {s : State} (plain : s.NoPrefix)
include plain

theorem exec_cmps_score (kind : s.kind = .score) (k : BitVec 2) : exec (.cmps k) s = .next (
    if s.activation = false ∧ s.u.cuff = 0 ∧ s.cur.2 = 0 ∧ (s.cur.1 - 128) % 8 % 2 ^ k.toNat = 0 ∧ s.membersFree (2 ^ k.toNat) = true
    then (s.composeCuff k.toNat).retire else s.trap .composeState 0 0 0) := by
  rw [exec_cmps, execCmps, show (s.kind == .score) = true from beq_iff_eq.2 kind, State.plainWhere_legal, State.plain_ok plain]
  by_cases fits : s.activation = false ∧ s.u.cuff = 0 ∧ s.cur.2 = 0 ∧ (s.cur.1 - 128) % 8 % 2 ^ k.toNat = 0
  · obtain ⟨resident, whole, slot, place⟩ := fits
    simp only [bind, Except.bind, resident, whole, slot, place, true_and]
    cases s.membersFree (2 ^ k.toNat) <;> rfl
  · have fits' : (!s.activation && s.u.cuff == 0 && s.cur.2 == 0 && (s.cur.1 - 128) % 8 % 2 ^ k.toNat == 0) = false := by
      simpa [and_assoc] using fits
    rw [if_neg fun all => fits ⟨all.1, all.2.1, all.2.2.1, all.2.2.2.1⟩]
    simp only [fits']
    rfl

theorem exec_dcmp_ok : exec .dcmp s = .next (if s.u.cuff = 0 then s.trap .composeState 0 0 0 else s.decomposeCuff.retire) := by
  rw [exec_dcmp, execDcmp, State.plain_ok plain]
  by_cases whole : s.u.cuff = 0
  · rw [if_pos whole, whole]
    rfl
  · rw [if_neg whole, show (s.u.cuff != 0) = true from bne_iff_ne.2 whole]
    rfl

/-! ### CKPT (R164) -/

variable (a : Reg) (c : BitVec 2)

theorem exec_ckpt_misaligned (odd : (s.reg a).toNat % 256 ≠ 0) : exec (.ckpt a c) s = .next (s.trap .misaligned 0 (s.reg a) 0) := by
  rw [exec_ckpt, execCkpt, State.plain_ok plain]
  simp only [if_pos odd]
  rfl

theorem exec_ckpt_alone (alone : s.slot.pair = none) (whole : s.u.window = none) (even : (s.reg a).toNat % 256 = 0)
    (room : (s.reg a).toNat + 2 * (8192 + 65536 * (c.toNat % 2 + c.toNat / 2)) ≤ s.scratchBytes s.cur.1) :
    exec (.ckpt a c) s = .next s.retire := by
  rw [exec_ckpt, execCkpt, State.plain_ok plain]
  simp only [even, ne_eq, not_true, if_false, whole, gt_iff_lt, Nat.not_lt.2 room, alone]
  rfl

end

namespace State

/-! ### Slots closed and opened (R36) -/

theorem slotAt_closeSlots (s : State) (c : Nat) (closed : Bool) (k : Nat) {i : Nat} (inside : i < 4) :
    (s.closeSlots c closed).slotAt k i = if k = c then { s.slotAt k i with closed := closed } else s.slotAt k i := by
  by_cases same : k = c
  · rw [if_pos same, same, slotAt, closeSlots, core_setCore_same]
    simp [Vector.each, slotAt, inside]
  · rw [if_neg same, slotAt, closeSlots, core_setCore_other _ _ same, slotAt]

/-- What closing or opening the slots of some cores leaves: each slot of theirs closed or open, and nothing else changed. -/
theorem foldl_closeSlots (closed : Bool) (cs : List Nat) (s : State) :
    let t := cs.foldl (fun s c => s.closeSlots c closed) s
    t.cur = s.cur ∧ ∀ k i, i < 4 → t.slotAt k i = if k ∈ cs then { s.slotAt k i with closed := closed } else s.slotAt k i := by
  induction cs generalizing s with
  | nil => exact ⟨rfl, fun k i _ => rfl⟩
  | cons c cs ih =>
    obtain ⟨cur, slots⟩ := ih (s.closeSlots c closed)
    refine ⟨cur, fun k i inside => (slots k i inside).trans ?_⟩
    rw [slotAt_closeSlots s c closed k inside]
    by_cases same : k = c
    · simp only [same, List.mem_cons_self, if_true, ite_self]
    · simp only [List.mem_cons, same, false_or, if_false]

theorem mem_members {s : State} {k c : Nat} : c ∈ s.members k ↔ s.cur.1 ≤ c ∧ c < s.cur.1 + k := by
  simp only [members, List.mem_map, List.mem_range]
  exact ⟨fun ⟨m, below, same⟩ => by omega, fun ⟨low, high⟩ => ⟨c - s.cur.1, by omega, by omega⟩⟩

theorem slotAt_setU_other {s : State} {c i : Nat} (other : (c, i) ≠ s.cur) (x : Strand) : (s.setU x).slotAt c i = s.slotAt c i := by
  by_cases core : c = s.cur.1
  · have slot : i ≠ s.cur.2 := fun slot => other (by rw [core, slot])
    rw [core]
    exact slotAt_setSlotAt_slot _ _ _ slot
  · exact slotAt_setSlotAt_core _ _ _ _ core

theorem slotAt_setSlot_other {s : State} {c i : Nat} (other : (c, i) ≠ s.cur) (x : Slot) : (s.setSlot x).slotAt c i = s.slotAt c i := by
  by_cases core : c = s.cur.1
  · have slot : i ≠ s.cur.2 := fun slot => other (by rw [core, slot])
    rw [core]
    exact slotAt_setSlotAt_slot _ _ _ slot
  · exact slotAt_setSlotAt_core _ _ _ _ core

/-- Two slots that differ in the cuff of their strands and in being closed hold the same scalar registers. -/
theorem reg_of_slot {s t : State} {n : Nat} {closed : Bool} (slot : t.slot = { s.slot with closed := closed, u := { s.u with cuff := n } })
    (r : Reg) : t.reg r = s.reg r := by
  unfold reg u
  rw [slot]
  rfl

section
variable {s : State} (inside : s.cur.2 < 4) (n : Nat)
include inside

theorem slot_composeCuff : (s.composeCuff n).slot = { s.slot with closed := false, u := { s.u with cuff := n } } := by
  obtain ⟨cur, slots⟩ := foldl_closeSlots true (s.members (2 ^ n)) s
  unfold composeCuff
  generalize (s.members (2 ^ n)).foldl (fun s c => s.closeSlots c true) s = t at cur slots
  have own : s.cur.1 ∈ s.members (2 ^ n) := mem_members.2 ⟨Nat.le_refl _, Nat.lt_add_of_pos_right (Nat.two_pow_pos n)⟩
  have slot : t.slot = { s.slot with closed := true } := by
    rw [State.slot, cur, slots _ _ inside, if_pos own, State.slot]
  have inside' : t.cur.2 < 4 := cur ▸ inside
  have own : (t.setSlot { t.slot with closed := false }).slot = { s.slot with closed := false } := by
    rw [slot_setSlot _ _ inside', slot]
  have cur' : (t.setSlot { t.slot with closed := false }).cur.2 < 4 := inside'
  dsimp only
  generalize t.setSlot { t.slot with closed := false } = v at own cur'
  rw [setU_eq, slot_setSlot _ _ cur', u, own]
  rfl

omit inside in
theorem closed_composeCuff {c i : Nat} (low : s.cur.1 ≤ c) (high : c < s.cur.1 + 2 ^ n) (small : i < 4) (other : (c, i) ≠ s.cur) :
    ((s.composeCuff n).slotAt c i).closed = true := by
  obtain ⟨cur, slots⟩ := foldl_closeSlots true (s.members (2 ^ n)) s
  unfold composeCuff
  generalize (s.members (2 ^ n)).foldl (fun s c => s.closeSlots c true) s = t at cur slots
  dsimp only
  rw [slotAt_setU_other (by rw [setSlot_cur, cur]; exact other), slotAt_setSlot_other (by rw [cur]; exact other), slots c i small,
    if_pos (mem_members.2 ⟨low, high⟩)]

theorem slot_decomposeCuff : s.decomposeCuff.slot = { s.slot with closed := false, u := { s.u with cuff := 0 } } := by
  obtain ⟨cur, slots⟩ := foldl_closeSlots false (s.members (2 ^ s.u.cuff)) s
  unfold decomposeCuff
  generalize (s.members (2 ^ s.u.cuff)).foldl (fun s c => s.closeSlots c false) s = t at cur slots
  have own : s.cur.1 ∈ s.members (2 ^ s.u.cuff) := mem_members.2 ⟨Nat.le_refl _, Nat.lt_add_of_pos_right (Nat.two_pow_pos _)⟩
  have slot : t.slot = { s.slot with closed := false } := by
    rw [State.slot, cur, slots _ _ inside, if_pos own, State.slot]
  dsimp only
  rw [setU_eq, slot_setSlot _ _ (cur ▸ inside), u, slot]
  rfl

theorem closed_decomposeCuff {c i : Nat} (low : s.cur.1 ≤ c) (high : c < s.cur.1 + 2 ^ s.u.cuff) (small : i < 4) :
    (s.decomposeCuff.slotAt c i).closed = false := by
  by_cases own : (c, i) = s.cur
  · have cur : s.decomposeCuff.cur = s.cur := (foldl_closeSlots false (s.members (2 ^ s.u.cuff)) s).1
    have slot := slot_decomposeCuff inside
    rw [State.slot, cur, ← own] at slot
    exact congrArg Slot.closed slot
  · obtain ⟨cur, slots⟩ := foldl_closeSlots false (s.members (2 ^ s.u.cuff)) s
    unfold decomposeCuff
    generalize (s.members (2 ^ s.u.cuff)).foldl (fun s c => s.closeSlots c false) s = t at cur slots
    dsimp only
    rw [slotAt_setU_other (by rw [cur]; exact own), slots c i small, if_pos (mem_members.2 ⟨low, high⟩)]

end

end State

namespace Laws

/-- Settles O35: the words by their checks, composing and opening by the slots of the members. -/
theorem cuffs : Obligations.Cuffs := by
  refine ⟨fun s k c a => ⟨fun other => exec_cmps_illegal other k, fun plain => ⟨fun kind => exec_cmps_score plain kind k, exec_dcmp_ok plain,
    exec_ckpt_misaligned plain a c, exec_ckpt_alone plain a c⟩⟩, fun s n live first => ?_⟩
  have inside : s.cur.2 < 4 := by omega
  have composed := State.slot_composeCuff inside n
  have opened := State.slot_decomposeCuff inside
  exact ⟨fun c i => State.closed_composeCuff n, congrArg Slot.closed composed, (congrArg (fun x => (Slot.u x).cuff) composed :),
    fun c i => State.closed_decomposeCuff inside, (congrArg (fun x => (Slot.u x).cuff) opened :),
    fun r => ⟨State.reg_of_slot composed r, State.reg_of_slot opened r⟩⟩

end Laws

/-! ### The repetition buffer (R290 to R292) -/

section
variable {s : State} (plain : s.NoPrefix) (kind : s.kind = .mcore) (resident : s.activation = false)
include plain kind resident

/-- A word of M-cores for a resident strand, past its first checks. -/
theorem plainWhere_mcore (k : State → Res State) :
    (s.plainWhere (s.kind == .mcore) fun s => do s.needResident; k s) = .next (s.finish (k s)) := by
  rw [show (s.kind == .mcore) = true from beq_iff_eq.2 kind, State.plainWhere_legal, State.plain_ok plain, State.needResident_ok resident]
  rfl

theorem exec_repb_active (n : BitVec 5) (active : s.u.rep.active = true) : exec (.repb n) s = .next (s.trap .repState 0 0 0) := by
  rw [exec_repb, execRepb, plainWhere_mcore plain kind resident, active]
  rfl

/-- The words that a REPB captures (R290). -/
abbrev capturedWords (s : State) (n : BitVec 5) : List (BitVec 32) :=
  (List.range (n.toNat + 1)).map fun i => s.wordAt (s.pc.toNat + 4 + 4 * i)

theorem exec_repb_idle (n : BitVec 5) (idle : s.u.rep.active = false) (inside : s.pc.toNat + 4 + 4 * (n.toNat + 1) ≤ istoreSize s.cur.1) :
    exec (.repb n) s = .next (s.finish (match bodyFault (capturedWords s n) with
      | some i => raiseAt .repBody i 0
      | none => .ok ((s.setU { s.u with rep := { s.u.rep with
          captured := true, body := capturedWords s n, base := s.pc + 4, fromBody := false } }).complete
            (s.pc + 4 + BitVec.ofNat 64 (4 * (n.toNat + 1)))))) := by
  have room : ¬ (istoreSize s.cur.1 - s.pc.toNat - 4) / 4 < n.toNat + 1 := by omega
  have all : Nat.min (n.toNat + 1) ((istoreSize s.cur.1 - s.pc.toNat - 4) / 4) = n.toNat + 1 := Nat.min_eq_left (by omega)
  rw [exec_repb, execRepb, plainWhere_mcore plain kind resident, idle]
  simp only [all, room, Bool.not_false, ensure_true, bind, Except.bind, if_false, pure, Except.pure] <;> rfl

theorem exec_repe_refused (a : Reg) (g : BitVec 5)
    (bad : (s.u.rep.captured && !s.u.rep.active && decide ((s.reg a).toNat < 2 ^ 32)) = false) :
    exec (.repe a g) s = .next (s.trap .repState 0 0 0) := by
  rw [exec_repe, execRepe, plainWhere_mcore plain kind resident, bad]
  rfl

theorem exec_repe_ok (a : Reg) (g : BitVec 5) (idle : s.u.rep.active = false) (captured : s.u.rep.captured = true)
    (count : (s.reg a).toNat < 2 ^ 32) :
    exec (.repe a g) s = .next (s.setU { s.u with rep := { s.u.rep with
      active := true, stagger := g.toNat, next := 0, count := (s.reg a).toNat, iteration := 0
      snap := { g := s.u.g, w := s.u.w, memdef := s.u.memdef, fpctl := s.u.fpctl, pc := 0 } } }).retire := by
  rw [exec_repe, execRepe, plainWhere_mcore plain kind resident, idle, captured, decide_eq_true count]
  rfl

theorem exec_repwait_ok :
    exec .repwait s = .next (if s.u.rep.active = true ∧ s.u.rep.iteration < s.u.rep.count then s.setWait .repetition
      else (s.setU { s.u with rep := { s.u.rep with active := false } }).retire) := by
  rw [exec_repwait, execRepwait, plainWhere_mcore plain kind resident, State.awaitSequencer]
  by_cases runs : s.u.rep.active = true ∧ s.u.rep.iteration < s.u.rep.count
  · have waits : (s.u.rep.active && decide (s.u.rep.iteration < s.u.rep.count)) = true := by simpa using runs
    rw [if_pos runs, waits]
    rfl
  · have done : (s.u.rep.active && decide (s.u.rep.iteration < s.u.rep.count)) = false := by simpa using runs
    rw [if_neg runs, done]
    rfl

end

/-! ### LAUNCH (R312) -/

section
variable {s : State} (plain : s.NoPrefix) (d a : Reg)
include plain

theorem exec_launch_misaligned (odd : (s.reg a).toNat % 64 ≠ 0) : exec (.launch d a) s = .next (s.trap .misaligned 0 (s.reg a) 0) := by
  have low : bits (s.reg a) 5 0 ≠ 0 := odd
  rw [exec_launch, execLaunch, State.plain_ok plain]
  simp only [if_pos low]
  rfl

/-- The read of a launch descriptor (R312). -/
abbrev descriptorAccess : Access :=
  { attr := { cls := 0, scope := 0, space := 0, policy := 0, use := 0 }, reads := true, writes := false }

variable {bs : List Byte} {t : State} {j : Job} (even : (s.reg a).toNat % 64 = 0)
  (loaded : s.loadAccess descriptorAccess (s.reg a) 64 0 = .ok (bs, t)) (job : t.job? = some j)
include even loaded job

theorem exec_launch_illegal (bad : (t.descriptor? (t.u.job.getD 0) { j with windowSize := 4096 } bs).isSome = false) :
    exec (.launch d a) s = .next (s.trap .launchArg 0 0 0) := by
  have low : ¬ bits (s.reg a) 5 0 ≠ 0 := fun odd => odd even
  rw [exec_launch, execLaunch, State.plain_ok plain]
  simp only [if_neg low, loaded, job, bad, bind, Except.bind]
  rfl

variable (legal : (t.descriptor? (t.u.job.getD 0) { j with windowSize := 4096 } bs).isSome = true)
include legal

theorem exec_launch_counterRange {n : Nat} (beyond : State.badCounter j bs = some n) :
    exec (.launch d a) s = .next (s.trap .counterRange 0 (BitVec.ofNat 64 n) 0) := by
  have low : ¬ bits (s.reg a) 5 0 ≠ 0 := fun odd => odd even
  rw [exec_launch, execLaunch, State.plain_ok plain]
  simp only [if_neg low, loaded, job, legal, beyond, ensure_true, bind, Except.bind]
  rfl

variable (inWindow : State.badCounter j bs = none)
include inWindow

theorem exec_launch_full (full : t.launchRoom (dieOf t.cur.1) = false) : exec (.launch d a) s = .next (t.setReg d 1).retire := by
  have low : ¬ bits (s.reg a) 5 0 ≠ 0 := fun odd => odd even
  rw [exec_launch, execLaunch, State.plain_ok plain]
  simp only [if_neg low, loaded, job, legal, inWindow, full, ensure_true, bind, Except.bind, pure, Except.pure, Bool.false_eq_true, if_false,
    State.finish_ok]

theorem exec_launch_placed (room : t.launchRoom (dieOf t.cur.1) = true) (alone : t.slot.pair = none) :
    exec (.launch d a) s = .next ((t.perform (.launch (dieOf t.cur.1) (t.u.job.getD 0) bs)).setReg d 0).retire := by
  have low : ¬ bits (s.reg a) 5 0 ≠ 0 := fun odd => odd even
  rw [exec_launch, execLaunch, State.plain_ok plain]
  simp only [if_neg low, loaded, job, legal, inWindow, room, State.emit_alone alone, ensure_true, bind, Except.bind, pure, Except.pure, if_true,
    State.finish_ok]

end

namespace Laws

/-- Settles O36: each word of the repetition buffer by its check and its effect. -/
theorem repetition : Obligations.Repetition := by
  intro s a n g plain kind resident words
  refine ⟨fun active => ⟨exec_repb_active plain kind resident n active, exec_repe_refused plain kind resident a g (by simp [active])⟩,
    fun idle inside => ⟨fun i fault => ?_, fun sound => ?_⟩, exec_repe_ok plain kind resident a g,
    fun bad => exec_repe_refused plain kind resident a g ?_, exec_repwait_ok plain kind resident⟩
  · rw [exec_repb_idle plain kind resident n idle inside, show bodyFault (capturedWords s n) = _ from fault]
    rfl
  · rw [exec_repb_idle plain kind resident n idle inside, show bodyFault (capturedWords s n) = _ from sound]
    rfl
  · rcases bad with uncaptured | large
    · simp [uncaptured]
    · rw [decide_eq_false (Nat.not_lt.2 large), Bool.and_false]

/-- Settles O37: LAUNCH by the address, the descriptor, the counters and the room. -/
theorem launches : Obligations.Launches := by
  intro s t d a bs j plain x legal
  exact ⟨exec_launch_misaligned plain d a, fun even loaded job => ⟨exec_launch_illegal plain d a even loaded job, fun good =>
    ⟨fun n beyond => exec_launch_counterRange plain d a even loaded job good beyond, fun inWindow =>
      ⟨exec_launch_full plain d a even loaded job good inWindow, exec_launch_placed plain d a even loaded job good inWindow⟩⟩⟩⟩

end Laws

end Sys2Proof.Machine
end

section
/-!
PROOFS. Copy commands and collectives (R313 to R319), the Bezel's words (R321, R336), timelines, counters and phases (R339 to R362).
-/

namespace Sys2Proof.Machine

/-! ### Copy commands and batches (R313 to R317, R340) -/

section
variable {s : State} {n : Nat}

/-- The operand block of a copy command: the two, three or four words that its op reads. -/
def State.copyBlock (s : State) (op : Nat) (a : Reg) : List Word :=
  (List.range 4).map fun i => if i < (if op = 2 then 4 else if op = 1 then 3 else 2) then s.block a i else 0

/-- The command that a copy word hands to a context. -/
def State.copyCommand (s : State) (op : Nat) (a b : Reg) (ctx src dst : Nat) : CopyCmd :=
  { op, mod := dst + 4 * src + 16 * ctx, batch := (s.copyCtx ctx).batch, ticket := (s.copyCtx ctx).issued + 1, a := s.copyBlock op a
    wb := s.reg b, core := s.cur.1, slot := s.cur.2, unit := s.u.unit, job := s.u.job, home := s.u.home, policy := bits s.u.memdef 9 8 }

theorem claimCtx_own (own : s.ctxHolder (s.copyCtx n) = some (s.cur.2, s.u.unit)) : s.claimCtx n = .ok s := by
  rw [State.claimCtx, own]
  exact if_pos (beq_self_eq_true _)

theorem claimCtx_other {o : Nat × Option Nat} (held : s.ctxHolder (s.copyCtx n) = some o) (other : o ≠ (s.cur.2, s.u.unit)) :
    s.claimCtx n = raise .engineOwner := by
  rw [State.claimCtx, held]
  exact if_neg (by simpa using other)

theorem CopyReady.notFull (ready : CopyReady s n) : decide (State.outstanding (s.copyCtx n) + s.heldCopies n ≥ 16) = false := by
  have none_held : s.heldCopies n = 0 := by rw [State.heldCopies, ready.pair]
  have room := ready.room
  rw [none_held]
  exact decide_eq_false (by omega)

/-- The completion word of a CPYN is aligned and in the scratchpad (R313, R314); the other ops have none. -/
def State.CopyWord (s : State) (op : Nat) (a : Reg) : Prop :=
  op = 2 → (s.reg (a + 2)).toNat % 8 = 0 ∧ s.endRange 2 true (s.reg (a + 2)) 8 = .ok ()

/-- Copy contexts of a core are no part of its slots. -/
theorem State.slot_setCopies (t : State) (v : Vector CopyCtx 4) : (t.setMe { t.me with copies := v }).slot = t.slot := by
  simp only [State.slot, State.slotAt, State.setMe, State.setCore, State.core, State.me, AMap.getD_set_same]

theorem State.pair_setU (t : State) (x : Strand) : (t.setU x).slot.pair = t.slot.pair := State.pair_setStrandAt t t.cur.1 t.cur.2 x

theorem issueCopy_ok (ready : CopyReady s n) (op : Nat) (d a b : Reg) (src dst : Nat) (size : copySizeLegal op (s.reg b) = true)
    (rows : s.rowRanges op dst src (s.copyBlock op a) (s.reg b) (copyRows op (s.reg b)) 0 = .ok ()) (word : s.CopyWord op a) :
    s.issueCopy op d a b n src dst =
      let k := s.setMe { s.me with
        copies := s.me.copies.setIfInBounds n { s.copyCtx n with issued := (s.copyCtx n).issued + 1, joined := true } }
      let k := k.perform (.copy k.cur.1 n (s.copyCommand op a b n src dst))
      .ok ((k.engineIssued k.u.unit).setReg d ((s.copyCtx n).issued + 1)).retire := by
  have alone (v : Vector CopyCtx 4) : (s.setMe { s.me with copies := v }).slot.pair = none := by
    rw [State.slot_setCopies, ready.pair]
  have at2 (h : op = 2) : (s.copyBlock op a).getD 2 0 = s.reg (a + 2) := by subst h; rfl
  simp only [State.issueCopy, ready.notFull, claimCtx_own ready.claimed, size, ensure_true, Bool.false_and,
    Bool.not_false, bind, Except.bind]
  rw [← State.copyBlock]
  by_cases h : op = 2
  · obtain ⟨aligned, inside⟩ := word h
    rw [if_neg (by rw [at2 h]; omega), rows]
    simp only [if_pos h, at2 h, inside, State.emit_alone (alone _), Bool.false_eq_true, if_false]
    rfl
  · rw [if_neg (fun both => h both.1), rows]
    simp only [if_neg h, State.emit_alone (alone _), Bool.false_eq_true, if_false]
    rfl

theorem issueCopy_size (ready : CopyReady s n) (op : Nat) (d a b : Reg) (src dst : Nat) (size : copySizeLegal op (s.reg b) = false) :
    s.issueCopy op d a b n src dst = raise .engineArg := by
  simp only [State.issueCopy, ready.notFull, claimCtx_own ready.claimed, size, ensure_true, Bool.false_and, Bool.not_false, bind,
    Except.bind]
  rfl

theorem issueCopy_owner (resident : s.activation = false) {o : Nat × Option Nat} (held : s.ctxHolder (s.copyCtx n) = some o)
    (other : o ≠ (s.cur.2, s.u.unit)) (op : Nat) (d a b : Reg) (src dst : Nat) :
    s.issueCopy op d a b n src dst = raise .engineOwner := by
  simp only [State.issueCopy, resident, claimCtx_other held other, ensure_true, Bool.and_false, Bool.not_false, bind, Except.bind]
  rfl

/-- BATCH's context: a batch that a command has joined is closed. -/
def closedBatch (x : CopyCtx) : CopyCtx := if x.joined = true then { x with batch := x.batch + 1, joined := false } else x

section
variable (plain : s.NoPrefix) {c : BitVec 2} (exists_ : c.toNat < copyContexts s.cur.1)
include plain exists_

theorem exec_cpy_issue (d a b : Reg) (r e : BitVec 2) :
    exec (.cpy d a b c r e) s = .next (s.finish (s.issueCopy 0 d a b c.toNat r.toNat e.toNat)) := by
  rw [exec_cpy, execCpy, decide_eq_true exists_, State.plainWhere_legal, State.plain_ok plain]

theorem exec_cpy2d_issue (d a b : Reg) (r e : BitVec 2) :
    exec (.cpy2d d a b c r e) s = .next (s.finish (s.issueCopy 1 d a b c.toNat r.toNat e.toNat)) := by
  rw [exec_cpy2d, execCpy2d,
    decide_eq_true exists_, State.plainWhere_legal, State.plain_ok plain]

theorem exec_cpyn_issue (d a b : Reg) (r e : BitVec 2) :
    exec (.cpyn d a b c r e) s = .next (s.finish (s.issueCopy 2 d a b c.toNat r.toNat e.toNat)) := by
  rw [exec_cpyn, execCpyn,
    decide_eq_true exists_, State.plainWhere_legal, State.plain_ok plain]

theorem exec_batch_own (own : s.ctxHolder (s.copyCtx c.toNat) = some (s.cur.2, s.u.unit)) :
    exec (.batch c) s =
      .next (s.setMe { s.me with copies := s.me.copies.setIfInBounds c.toNat (closedBatch (s.copyCtx c.toNat)) }).retire := by
  rw [exec_batch, execBatch, decide_eq_true exists_, State.plainWhere_legal, State.plain_ok plain,
    claimCtx_own own]
  rfl

theorem exec_batch_owner {o : Nat × Option Nat} (held : s.ctxHolder (s.copyCtx c.toNat) = some o)
    (other : o ≠ (s.cur.2, s.u.unit)) : exec (.batch c) s = .next (s.trap .engineOwner 0 0 0) := by
  rw [exec_batch, execBatch, decide_eq_true exists_, State.plainWhere_legal, State.plain_ok plain,
    claimCtx_other held other]
  rfl
end

/-! ### Collectives (R319) -/

/-- The command that COLL hands to a context, on a schedule's image and its launch. -/
def State.collCommand (s : State) (a b : Reg) (c : Nat) (im : List Byte) (l : Option Nat) : CollCmd :=
  { core := s.cur.1, slot := s.cur.2, unit := s.u.unit, job := s.u.job, home := s.u.home, lcore := s.u.lcore, wb := s.reg b
    src := s.reg a, dst := s.reg (a + 1), ticket := (s.u.views[c]?.getD {}).issued + 1, mod := c, image := im, launch := l }

section
variable (plain : s.NoPrefix) (alone : s.slot.pair = none) {c : BitVec 3} (room : (s.collCtx (dieOf s.cur.1) c.toNat).length < 4)
include plain alone room

omit plain in
theorem collNotFull : decide ((s.collCtx (dieOf s.cur.1) c.toNat).length + s.heldColls c.toNat ≥ 4) = false := by
  have none_held : s.heldColls c.toNat = 0 := by rw [State.heldColls, alone]
  rw [none_held]
  exact decide_eq_false (by omega)

theorem exec_coll_unscheduled (d a b : Reg) (absent : s.schedule? (dieOf s.cur.1) s.u.job (bits (s.reg b) 11 0) = none) :
    exec (.coll d a b c) s = .next (s.trap .engineArg 0 0 0) := by
  rw [exec_coll, execColl, State.plain_ok plain]
  simp only [collNotFull alone room, absent, ensure_true, Bool.false_and, Bool.not_false, bind, Except.bind]
  rfl

theorem exec_coll_ok (d a b : Reg) {im : List Byte} {l : Option Nat}
    (found : s.schedule? (dieOf s.cur.1) s.u.job (bits (s.reg b) 11 0) = some (im, l))
    (fields : (decide (bits (s.reg b) 14 12 ≤ 3 ∧ bits (s.reg b) 17 15 ≤ 3 ∧ 1 ≤ bits (s.reg b) 63 32) && bits (s.reg b) 31 18 == 0 &&
      collSuits (Sched.kind im) (bits (s.reg b) 17 15)) = true)
    (source : s.endRange 0 false (s.block a 0) (bits (s.reg b) 63 32 * collWidth (bits (s.reg b) 14 12)) = .ok ())
    (target : s.endRange 0 true (s.block a 1) (bits (s.reg b) 63 32 * collWidth (bits (s.reg b) 14 12)) = .ok ()) :
    exec (.coll d a b c) s =
      let view := s.u.views[c.toNat]?.getD {}
      let k := (s.setU { s.u with views := s.u.views.setIfInBounds c.toNat { view with issued := view.issued + 1 } }).perform
        (.coll (dieOf s.cur.1) c.toNat { s.collCommand a b c.toNat im l with src := s.block a 0, dst := s.block a 1 })
      .next ((k.engineIssued k.u.unit).setReg d (view.issued + 1)).retire := by
  have alone' (x : Strand) : (s.setU x).slot.pair = none := (State.pair_setU s x).trans alone
  rw [exec_coll, execColl, State.plain_ok plain]
  simp only [collNotFull alone room, found, fields, source, target, ensure_true, Bool.false_and, Bool.not_false, bind, Except.bind,
    Bool.false_eq_true, if_false, State.emit_alone (alone' _)]
  rfl
end
end

namespace Laws

/-- Settles O38: each copy word through `issueCopy`, BATCH through the claim of its context, COLL through its schedule. -/
theorem copiesAndCollectives : Obligations.CopiesAndCollectives := by
  unfold Obligations.CopiesAndCollectives
  refine ⟨fun s d a b c r e ready => ?_, fun s d a b c im l plain alone => ?_⟩
  · intro n x ticket command issued good
    have noWord {op : Nat} (h : op ≠ 2) : s.CopyWord op a := fun two => absurd two h
    refine ⟨fun ⟨size, rows⟩ => ?_, fun ⟨size, rows⟩ => ?_, fun ⟨size, rows⟩ aligned inside => ?_, fun size => ?_, fun size => ?_,
      fun size => ?_, exec_batch_own ready.prefixes ready.exists_ ready.claimed, ?_⟩
    · rw [exec_cpy_issue ready.prefixes ready.exists_, issueCopy_ok ready 0 d a b _ _ size rows (noWord (by decide))]
      rfl
    · rw [exec_cpy2d_issue ready.prefixes ready.exists_, issueCopy_ok ready 1 d a b _ _ size rows (noWord (by decide))]
      rfl
    · rw [exec_cpyn_issue ready.prefixes ready.exists_, issueCopy_ok ready 2 d a b _ _ size rows fun _ => ⟨aligned, inside⟩]
      rfl
    · rw [exec_cpy_issue ready.prefixes ready.exists_, issueCopy_size ready 0 d a b _ _ size]
      rfl
    · rw [exec_cpy2d_issue ready.prefixes ready.exists_, issueCopy_size ready 1 d a b _ _ size]
      rfl
    · rw [exec_cpyn_issue ready.prefixes ready.exists_, issueCopy_size ready 2 d a b _ _ size]
      rfl
    · rintro t plain ⟨o, held, other⟩ resident exists_
      refine ⟨?_, exec_batch_owner plain exists_ held other⟩
      rw [exec_cpy_issue plain exists_, issueCopy_owner resident held other]
      rfl
  · intro die wb view ticket command room
    refine ⟨exec_coll_unscheduled plain alone room d a b, fun found dtype op count reserved suits source target => ?_⟩
    have fields : (decide (bits wb 14 12 ≤ 3 ∧ bits wb 17 15 ≤ 3 ∧ 1 ≤ bits wb 63 32) && bits wb 31 18 == 0 &&
      collSuits (Sched.kind im) (bits wb 17 15)) = true := by simp [dtype, op, count, reserved, suits]
    have first : s.block a 0 = s.reg a := congrArg s.reg (BitVec.add_zero a)
    exact (exec_coll_ok plain alone room d a b found fields (first ▸ source) target).trans (by rw [first]; rfl)

end Laws

/-! ### The Bezel's words (R321, R336) -/

section
variable {s : State} {d a b : Reg}

theorem bezelWord_elsewhere (other : s.kind ≠ .bezel) (f : State → Res State) :
    s.plainWhere (s.kind == .bezel) f = .next (s.trap .illFunction 0 0 0) := by
  rw [show (s.kind == .bezel) = false from beq_false_of_ne other, State.plainWhere_illegal]

variable (bezel : s.kind = .bezel) (plain : s.NoPrefix)
include bezel plain

theorem bezelWord_ready (f : State → Res State) : s.plainWhere (s.kind == .bezel) f = .next (s.finish (f s)) := by
  rw [show (s.kind == .bezel) = true from beq_iff_eq.mpr bezel, State.plainWhere_legal, State.plain_ok plain]

theorem exec_rndg_drawn :
    exec (.rndg d) s = .next (({ s with drawn := s.drawn + 1 } : State).setReg d (Config.random s.drawn)).retire := by
  rw [exec_rndg, execRndg, bezelWord_ready bezel plain]
  rfl

theorem exec_hashc_disorder {m : BitVec 2} (disorder : s.bezel.hashOpen ≠ decide (2 ≤ m.toNat)) :
    exec (.hashc d a b m) s = .next (s.trap .engineArg 0 0 0) := by
  have refused : (bits (s.reg b) 63 32 == 0 && (s.bezel.hashOpen == decide (2 ≤ m.toNat))) = false := by simp [disorder]
  rw [exec_hashc, execHashc, bezelWord_ready bezel plain]
  simp only [refused, ensure_false]
  rfl

theorem exec_mext_user (user : s.slot.mode = false) (x : BitVec 1) (n : BitVec 3) :
    exec (.mext a b x n) s = .next (s.trap .illPriv 0 0 0) := by
  rw [exec_mext, execMext, bezelWord_ready bezel plain, State.needSupervisor_user user]
  rfl

section
variable (space : bits s.u.memdef 7 6 ≤ 1)
include space

omit bezel plain in
theorem operandSpace_ok : s.operandSpace = .ok () := if_pos space

theorem exec_hashc_queued {m : BitVec 2} {t u : State} {input output : List Segment} (short : bits (s.reg b) 63 32 = 0)
    (order : s.bezel.hashOpen = decide (2 ≤ m.toNat))
    (read : s.resolve (s.plainAccess false) (s.reg a) (s.reg b).toNat 0 = .ok (input, t))
    (written : t.resolve (t.plainAccess true) (t.reg (a + 1)) (if m = 0 ∨ m = 3 then 48 else 0) 0 = .ok (output, u)) :
    exec (.hashc d a b m) s =
      let k := u.withBezel fun z => { z with
        hashIssued := s.bezel.hashIssued + 1, hashOpen := !decide (m = 0 ∨ m = 3)
        hashCmds := z.hashCmds ++ [{ mode := m.toNat, input := input, output := output, unit := u.u.unit }] }
      .next ((k.engineIssued k.u.unit).setReg d (s.bezel.hashIssued + 1)).retire := by
  have legal : (bits (s.reg b) 63 32 == 0 && (s.bezel.hashOpen == decide (2 ≤ m.toNat))) = true := by simp [short, order]
  have base : s.block a 0 = s.reg a := congrArg s.reg (BitVec.add_zero a)
  have finishing : decide (m.toNat = 0 ∨ m.toNat = 3) = decide (m = 0 ∨ m = 3) :=
    decide_eq_decide.mpr (or_congr (BitVec.toNat_inj (y := 0#2)) (BitVec.toNat_inj (y := 3#2)))
  have output48 : (if decide (m = 0 ∨ m = 3) = true then 48 else 0) = if m = 0 ∨ m = 3 then 48 else 0 := by
    simp only [decide_eq_true_eq]
  rw [exec_hashc, execHashc, bezelWord_ready bezel plain]
  simp only [legal, ensure_true, operandSpace_ok space, base, read, show t.block a 1 = t.reg (a + 1) from rfl, output48, written,
    finishing, bind, Except.bind]
  rfl

theorem exec_signc_queued {o : BitVec 2} {t u v w : State} {bs : List Byte} {message signature result : List Segment}
    (block : s.loadAccess (s.plainAccess false) (s.reg a) 40 0 = .ok (bs, w))
    (read : w.resolve (w.plainAccess false) (leWord ((bs.drop 0).take 8)) (leWord ((bs.drop 8).take 8)).toNat 0 = .ok (message, t))
    (signed : t.resolve (t.plainAccess (o.toNat % 2 == 0)) (leWord ((bs.drop 16).take 8)) (if o.toNat < 2 then 384 else 7856) 0 =
      .ok (signature, u))
    (answer : u.resolve (u.plainAccess true) (s.reg a + 32) 8 0 = .ok (result, v)) :
    exec (.signc d a o) s =
      let k := v.withBezel fun z => { z with
        signIssued := v.bezel.signIssued + 1
        signCmds := z.signCmds ++ [{ op := o.toNat, key := bits (leWord ((bs.drop 24).take 8)) 7 0, message, signature, result
                                     unit := v.u.unit }] }
      .next ((k.engineIssued k.u.unit).setReg d (v.bezel.signIssued + 1)).retire := by
  rw [exec_signc, execSignc, bezelWord_ready bezel plain]
  simp only [operandSpace_ok space, block, read, signatureBytes, signed, answer, bind, Except.bind]
  rfl

section
variable (supervisor : s.slot.mode = true) (n : BitVec 3)
include supervisor

theorem exec_mext_extend {w : State} {bs : List Byte} (short : bits (s.reg b) 63 32 = 0)
    (read : s.loadAccess (s.plainAccess false) (s.reg a) (s.reg b).toNat 0 = .ok (bs, w)) :
    exec (.mext a b 1 n) s = .next (if w.bezel.locked = true ∧ n.toNat ≤ 3 then s.trap .tableArg 15 0 0
      else (w.withBezel fun z => { z with
        meas := z.meas.setIfInBounds n.toNat (Sha384.digest ((s.bezel.meas[n.toNat]?.getD []) ++ bs)) }).retire) := by
  rw [exec_mext, execMext, bezelWord_ready bezel plain, State.needSupervisor_ok supervisor]
  simp only [short, beq_self_eq_true, State.tableArg, State.readOperand, operandSpace_ok space, read, bind, Except.bind, if_true]
  by_cases locked : w.bezel.locked = true ∧ n.toNat ≤ 3
  · have refused : (!(w.bezel.locked && decide (n.toNat ≤ 3))) = false := by simp [locked]
    simp only [refused, if_pos locked]
    rfl
  · have free : (!(w.bezel.locked && decide (n.toNat ≤ 3))) = true := by
      rw [Bool.not_eq_true', Bool.and_eq_false_iff, decide_eq_false_iff_not, ← Bool.not_eq_true]
      exact Classical.not_and_iff_not_or_not.mp locked
    simp only [free, if_neg locked, if_true]
    rfl

theorem exec_mext_read {w : State} (written : s.storeAccess (s.plainAccess true) (s.reg a) (s.bezel.meas[n.toNat]?.getD []) 0 = .ok w) :
    exec (.mext a b 0 n) s = .next w.retire := by
  rw [exec_mext, execMext, bezelWord_ready bezel plain, State.needSupervisor_ok supervisor]
  simp only [operandSpace_ok space, written, bind, Except.bind]
  rfl
end
end
end

namespace Laws

/-- Settles O39: the words elsewhere, then each word on the Bezel. -/
theorem bezelWords : Obligations.BezelWords := by
  unfold Obligations.BezelWords
  intro s t u v d a b m n segs outs sig res bs
  refine ⟨fun other => ?_, fun bezel plain => ?_⟩
  · exact ⟨(exec_hashc ..).trans (bezelWord_elsewhere other _), (exec_signc ..).trans (bezelWord_elsewhere other _),
      (exec_rndg ..).trans (bezelWord_elsewhere other _), fun _ => (exec_mext ..).trans (bezelWord_elsewhere other _)⟩
  · refine ⟨exec_rndg_drawn bezel plain, exec_hashc_disorder bezel plain, fun x user => exec_mext_user bezel plain user x n,
      fun space => ⟨?_, ?_, fun supervisor => ⟨?_, ?_⟩⟩⟩
    · intro short order read written
      exact exec_hashc_queued bezel plain space short order read written
    · intro w block field read signed answer
      exact exec_signc_queued bezel plain space block read signed answer
    · exact fun w short read => exec_mext_extend bezel plain space supervisor n short read
    · exact fun w written => exec_mext_read bezel plain space supervisor n written

end Laws

/-! ### Timelines (R339 to R343) -/

section
variable {s : State} {tl : Reg}

theorem timelineWord_absent (absent : timelineOn s.kind tl.toNat = false) (f : State → Res State) :
    s.plainWhere (timelineOn s.kind tl.toNat) f = .next (s.trap .illFunction 0 0 0) := by
  rw [absent, State.plainWhere_illegal]

variable (present : timelineOn s.kind tl.toNat = true) (plain : s.NoPrefix)
include present plain

theorem timelineWord_ready (f : State → Res State) : s.plainWhere (timelineOn s.kind tl.toNat) f = .next (s.finish (f s)) := by
  rw [present, State.plainWhere_legal, State.plain_ok plain]

/-- TLWAIT and TLWAITB may not stand in a handler or a gust. -/
theorem timelineWord_activation (activation : s.activation = true) (f : State → Unit → Res State) :
    s.plainWhere (timelineOn s.kind tl.toNat) (fun s => s.needResident >>= f s) = .next (s.trap .handlerBlock 0 0 0) := by
  rw [timelineWord_ready present plain, State.needResident_trap activation]
  rfl

theorem exec_tlread_value (d : Reg) (i : BitVec 1) :
    exec (.tlread d i tl) s =
      .next (s.setReg d (if i = 1 then (s.timelineOf tl.toNat).1 else (s.timelineOf tl.toNat).2)).retire := by
  rw [exec_tlread, execTlread, timelineWord_ready present plain]
  rfl

section
variable (resident : s.activation = false)
include resident

theorem exec_tlwait_resident (a : Reg) :
    exec (.tlwait a tl) s = .next (
      if (s.timelineOf tl.toNat).1.toNat < (s.reg a).toNat then s.trap .timelineArg 0 (s.reg a) 0
      else if (s.timelineOf tl.toNat).2.toNat < (s.reg a).toNat then s.setWait (.timeline tl.toNat (s.reg a)) else s.retire) := by
  rw [exec_tlwait, execTlwait, timelineWord_ready present plain, State.needResident_ok resident]
  simp only [bind, Except.bind, BitVec.ult, decide_eq_true_eq]
  by_cases unissued : (s.timelineOf tl.toNat).1.toNat < (s.reg a).toNat
  · rw [if_pos unissued, if_pos unissued]
    rfl
  · rw [if_neg unissued, if_neg unissued]
    split <;> rfl

theorem exec_tlwaitb_resident (n : Reg) :
    exec (.tlwaitb n tl) s =
      .next (if n.toNat < s.openBatches tl.toNat then s.setWait (.batches tl.toNat n.toNat) else s.retire) := by
  rw [exec_tlwaitb, execTlwaitb, timelineWord_ready present plain, State.needResident_ok resident]
  simp only [bind, Except.bind]
  split <;> rfl
end
end

/-! ### Counters (R344 to R348, R360) -/

section
variable {s : State} (plain : s.NoPrefix)
include plain

section
variable {j : Nat} (job : s.u.job = some j) {a : Reg}
include job

theorem exec_cancel_job : exec (.cancel a 5) s = .next (s.retire.cancelJob j) := by
  rw [exec_cancel, execCancel, State.plain_ok plain]
  simp only [job]
  rfl

theorem exec_cancel_level {l : BitVec 3} (level : l ≠ 5) {c : Nat}
    (own : (s.job?.bind fun j => State.windowCounter j (bits (s.reg a) 11 0)) = some c) :
    exec (.cancel a l) s = .next (s.retire.cancelLevel j l.toNat c) := by
  have level' : l.toNat ≠ 5 := fun h => level (BitVec.toNat_inj (y := 5#3) |>.mp h)
  rw [exec_cancel, execCancel, State.plain_ok plain]
  simp only [if_neg level', State.ownCounter, own, bind, Except.bind, job]
  rfl
end

section
variable {a : Reg} (beyond : (s.job?.bind fun j => State.windowCounter j (bits (s.reg a) 11 0)) = none)
include beyond

theorem exec_cancel_beyond {l : BitVec 3} (level : l ≠ 5) :
    exec (.cancel a l) s = .next (s.trap .counterRange 0 (BitVec.ofNat 64 (bits (s.reg a) 11 0)) 0) := by
  have level' : l.toNat ≠ 5 := fun h => level (BitVec.toNat_inj (y := 5#3) |>.mp h)
  rw [exec_cancel, execCancel, State.plain_ok plain]
  simp only [if_neg level', State.ownCounter, beyond]
  rfl

theorem exec_cntwait_beyond (resident : s.activation = false) (d b : Reg) :
    exec (.cntwait d a b) s = .next (s.trap .counterRange 0 (BitVec.ofNat 64 (bits (s.reg a) 11 0)) 0) := by
  rw [exec_cntwait, execCntwait, State.plain_ok plain, State.needResident_ok resident]
  simp only [State.ownCounter, beyond]
  rfl
end

theorem exec_cntwait_own (resident : s.activation = false) {a : Reg} {c : Nat} (d b : Reg)
    (own : (s.job?.bind fun j => State.windowCounter j (bits (s.reg a) 11 0)) = some c) :
    exec (.cntwait d a b) s = .next (
      if s.reached (c, BitVec.ofNat 32 (bits (s.reg b) 31 0)) = true ∨ s.unitCancelled = true then (s.setReg d (s.counterWord c)).retire
      else s.setWait (.counter c (BitVec.ofNat 32 (bits (s.reg b) 31 0)))) := by
  rw [exec_cntwait, execCntwait, State.plain_ok plain, State.needResident_ok resident]
  simp only [State.ownCounter, own, bind, Except.bind, Bool.or_eq_true]
  split <;> rfl

theorem exec_cntwait_activation (activation : s.activation = true) (d a b : Reg) :
    exec (.cntwait d a b) s = .next (s.trap .handlerBlock 0 0 0) := by
  rw [exec_cntwait, execCntwait, State.plain_ok plain, State.needResident_trap activation]
  rfl

theorem exec_phread_activation (activation : s.activation = true) (d a : Reg) :
    exec (.phread d a) s = .next (s.trap .handlerBlock 0 0 0) := by
  rw [exec_phread, execPhread, State.plain_ok plain, State.needResident_trap activation]
  rfl

theorem exec_phread_resident (resident : s.activation = false) (d a : Reg) :
    exec (.phread d a) s = .next (
      if (s.reg a).toNat < (s.gphase + s.phaseOffset).toNat ∨ s.unitCancelled = true then
        ((s.seePhase (s.gphase + s.phaseOffset)).setReg d (s.gphase + s.phaseOffset)).retire
      else s.setWait (.gphase (s.reg a))) := by
  rw [exec_phread, execPhread, State.plain_ok plain, State.needResident_ok resident]
  simp only [bind, Except.bind, Bool.or_eq_true, BitVec.ult, decide_eq_true_eq]
  split <;> rfl
end

namespace Laws

/-- Settles O40: the timelines by the kind of core and of strand, then the counters by the job's window. -/
theorem timelinesAndCounters : Obligations.TimelinesAndCounters := by
  unfold Obligations.TimelinesAndCounters
  refine ⟨fun s d a n tl i => ⟨fun absent => ?_, fun present plain => ?_⟩, fun s d a b l c j plain job => ?_⟩
  · exact ⟨(exec_tlwait ..).trans (timelineWord_absent absent _), (exec_tlwaitb ..).trans (timelineWord_absent absent _),
      (exec_tlread ..).trans (timelineWord_absent absent _)⟩
  · refine ⟨exec_tlread_value present plain d i, fun activation => ⟨?_, ?_⟩, fun resident => ⟨?_, ?_⟩⟩
    · exact (exec_tlwait ..).trans (timelineWord_activation present plain activation _)
    · exact (exec_tlwaitb ..).trans (timelineWord_activation present plain activation _)
    · exact exec_tlwait_resident present plain resident a
    · exact exec_tlwaitb_resident present plain resident n
  · intro n v own
    refine ⟨fun beyond => ⟨?_, ?_⟩, fun inside => ⟨?_, ?_⟩, exec_cancel_job plain job, fun activation => ⟨?_, ?_⟩, ?_⟩
    · exact exec_cancel_beyond plain beyond
    · exact fun resident => exec_cntwait_beyond plain beyond resident d b
    · exact fun level => exec_cancel_level plain job level inside
    · exact fun resident => exec_cntwait_own plain resident d b inside
    · exact exec_cntwait_activation plain activation d a b
    · exact exec_phread_activation plain activation d a
    · exact fun resident => exec_phread_resident plain resident d a

end Laws

/-! ### Phases and performance counters (R257, R359, R361, R362) -/

section
variable {s : State}

/-- No engine command that the core issued is outstanding. -/
def State.EnginesDone (s : State) : Prop :=
  (∀ x ∈ s.me.copies.toList, ∀ d ∈ x.cmds, d.finished = true) ∧ s.me.walks = [] ∧ (∀ t ∈ s.me.stages, t.ticket = 0) ∧
    (∀ x ∈ s.dies, ∀ cs ∈ x.2.coll.toList, ∀ k ∈ cs, k.core ≠ s.cur.1) ∧
    (s.kind = .bezel → s.bezel.hashCmds = [] ∧ s.bezel.signCmds = [])

theorem enginesBusy_eq_false_iff : s.enginesBusy s.cur.1 = false ↔ s.EnginesDone := by
  have bezel : (coreKind s.cur.1 == .bezel && !(s.bezel.hashCmds.isEmpty && s.bezel.signCmds.isEmpty)) = false ↔
      (s.kind = .bezel → s.bezel.hashCmds = [] ∧ s.bezel.signCmds = []) := by
    simp only [Bool.and_eq_false_iff, Bool.not_eq_false', Bool.and_eq_true, List.isEmpty_iff, beq_eq_false_iff_ne, Decidable.imp_iff_not_or]
    rfl
  simp only [State.enginesBusy, Bool.or_eq_false_iff, bezel]
  simp only [State.EnginesDone, and_assoc, List.any_eq_false, Bool.not_eq_true', Bool.not_eq_false, Bool.not_eq_false', List.isEmpty_iff,
    bne_iff_ne, beq_iff_eq, ne_eq, Classical.not_not, List.any_eq_true, not_exists, not_and]
  rfl

variable (plain : s.NoPrefix)
include plain

section
variable (alone : s.slot.pair = none) (d : Reg)
include alone

theorem exec_phadv_busy (busy : ¬s.EnginesDone) : exec (.phadv d) s = .next (s.setWait .engines) := by
  have waits : s.enginesBusy s.cur.1 = true := by
    rw [← Bool.not_eq_false]
    exact fun done => busy (enginesBusy_eq_false_iff.mp done)
  have held : s.heldEngines = (false, 0) := by rw [State.heldEngines, alone]
  rw [exec_phadv, execPhadv, State.plain_ok plain]
  simp only [held, Bool.false_eq_true, if_false, waits, if_true]
  rfl

/-- Whether a core's job has untracked phases. -/
def State.phasedAt (s : State) (c : Nat) : Bool :=
  match (s.core c).job.bind fun n => AMap.get? s.jobs n with | some j => j.untracked | none => false

theorem exec_phadv_idle (idle : s.EnginesDone) :
    exec (.phadv d) s = .next ((s.raisePhase s.cur.1).setReg d
      (s.me.phase + (if s.phasedAt s.cur.1 = true then 1 else 0) + (s.raisePhase s.cur.1).phaseOffset)).retire := by
  have held : s.heldEngines = (false, 0) := by rw [State.heldEngines, alone]
  rw [exec_phadv, execPhadv, State.plain_ok plain]
  simp only [held, Bool.false_eq_true, if_false, enginesBusy_eq_false_iff.mpr idle, State.emit_alone alone, bind, Except.bind]
  rfl
end

section
variable (d a b : Reg)

theorem exec_pcnt_read : exec (.pcnt d a b 0) s = .next (s.setReg d (s.me.pmc[bits (s.reg a) 1 0]?.getD 0)).retire := by
  rw [exec_pcnt, execPcnt, State.plain_ok plain]
  rfl

theorem exec_pcnt_user (user : s.slot.mode = false) {f : BitVec 2} (writes : f ≠ 0) :
    exec (.pcnt d a b f) s = .next (s.trap .illPriv 0 0 0) := by
  rw [exec_pcnt, execPcnt, State.plain_ok plain]
  simp only [if_neg writes, user]
  rfl

section
variable (supervisor : s.slot.mode = true)
include supervisor

theorem exec_pcnt_event : exec (.pcnt d a b 1) s = .next (
    if bits (s.reg a) 15 8 ≤ 13 then
      ((s.setMe { s.me with events := s.me.events.setIfInBounds (bits (s.reg a) 1 0) (bits (s.reg a) 15 8) }).setReg d 0).retire
    else s.trap .illFunction 0 0 0) := by
  rw [exec_pcnt, execPcnt, State.plain_ok plain]
  simp only [supervisor, ensure_true, bind, Except.bind]
  by_cases known : bits (s.reg a) 15 8 ≤ 13
  · simp only [decide_eq_true known, if_pos known, ensure_true]
    rfl
  · simp only [decide_eq_false known, if_neg known, ensure_false]
    rfl

theorem exec_pcnt_value : exec (.pcnt d a b 2) s =
    .next ((s.setMe { s.me with pmc := s.me.pmc.setIfInBounds (bits (s.reg a) 1 0) (s.reg b) }).setReg d 0).retire := by
  rw [exec_pcnt, execPcnt, State.plain_ok plain]
  simp only [supervisor, ensure_true, bind, Except.bind]
  rfl
end
end
end

namespace Laws

/-- Settles O41: PHADV by whether the core's engines are done, PCNT by its function. -/
theorem phasesAndCounts : Obligations.PhasesAndCounts := by
  unfold Obligations.PhasesAndCounts
  refine ⟨fun s d plain alone => ⟨exec_phadv_busy plain alone d, fun idle => ⟨_, exec_phadv_idle plain alone d idle, ?_, ?_⟩⟩,
    fun s d a b plain => ⟨exec_pcnt_read plain d a b, fun user => ⟨?_, ?_⟩, fun supervisor => ⟨?_, ?_⟩⟩⟩
  · intro n j job found untracked
    have phased : s.phasedAt s.cur.1 = true := by
      rw [State.phasedAt, show (s.core s.cur.1).job = some n from job, Option.bind_some, found]
      exact untracked
    rw [if_pos phased]
  · intro job
    have unphased : s.phasedAt s.cur.1 = false := by
      rw [State.phasedAt, show (s.core s.cur.1).job = none from job]
      rfl
    rw [unphased, if_neg Bool.false_ne_true, show s.me.phase + 0 = s.me.phase from BitVec.add_zero _]
  · exact exec_pcnt_user plain d a b user (by decide)
  · exact exec_pcnt_user plain d a b user (by decide)
  · exact exec_pcnt_event plain d a b supervisor
  · exact exec_pcnt_value plain d a b supervisor

end Laws

end Sys2Proof.Machine
end

section
/-!
PROOFS. The table words (R325 to R335).
-/

namespace Sys2Proof.Machine

namespace State

theorem tableArg_ok {ok : Bool} (h : ok = true) (word low : Nat) : tableArg ok word low = .ok () := if_pos h

theorem tableArg_refused {ok : Bool} (h : ok = false) (word low : Nat) :
    tableArg ok word low = raiseAt .tableArg (word + 16 * low) 0 := by rw [tableArg, h]; rfl

theorem block_zero (s : State) (a : Reg) : s.block a 0 = s.reg a := congrArg s.reg (BitVec.add_zero a)

end State

/-! ### HTSET (R326) -/

section
variable {s r : State} {a b : Reg} (plain : s.NoPrefix)
include plain

theorem exec_htset_user (valid : bit (s.reg a) 16 = true) (supervisor : bits (s.reg a) 1 0 = 0) (user : s.slot.mode = false) :
    exec (.htset a b) s = .next (s.trap .illPriv 0 0 0) := by
  rw [exec_htset, execHtset, State.plain_ok plain]
  simp only [State.block_zero, valid, supervisor, user]
  rfl

theorem exec_htset_erased (held : s.performHeld = .ok r) (inside : (s.reg b).toNat ≤ 63) (invalid : bit (s.reg a) 16 = false) :
    exec (.htset a b) s = .next (r.setMe { r.me with handlers := AMap.erase r.me.handlers (s.reg b).toNat }).retire := by
  rw [exec_htset, execHtset, State.plain_ok plain]
  simp only [State.block_zero, invalid, Bool.false_and, Bool.not_false, ensure_true, State.tableArg_ok (decide_eq_true inside), held, bind,
    Except.bind, if_true]
  rfl

omit plain in
/-- The handler that a word of HTSET enters. -/
def State.handlerOf (s : State) (w : Word) (keeps : List (Nat × Nat)) : Handler :=
  { q := bits w 1 0, type := bits w 15 8, pc := BitVec.ofNat 64 (bits w 48 32), keeps, launch := s.u.home, lcore := s.u.lcore
    job := s.u.job }

omit plain in
/-- The fields of a valid word of HTSET that names a user's arrival queue (R326). -/
structure HandlerFields (s : State) (w : Word) : Prop where
  valid : bit w 16 = true
  queue : bits w 1 0 ∈ [1, 2]
  zero2 : bits w 7 2 = 0
  zero17 : bits w 31 17 = 0
  zero49 : bits w 63 49 = 0
  type : bits w 15 8 ≠ 255
  aligned : bits w 48 32 % 4 = 0
  inside : bits w 48 32 < istoreSize s.cur.1

theorem exec_htset_entered (held : s.performHeld = .ok r) (inside : (s.reg b).toNat ≤ 63) (fields : HandlerFields s (s.reg a))
    (alone : ∀ e ∈ s.me.handlers, e.1 = (s.reg b).toNat ∨ e.2.q ≠ bits (s.reg a) 1 0 ∨ e.2.type ≠ bits (s.reg a) 15 8)
    {x y : List (Nat × Nat)} (keep1 : s.keepRegion a 1 = .ok x) (keep2 : s.keepRegion a 2 = .ok y)
    (apart : State.keepsMeet x y = false) :
    exec (.htset a b) s = .next (r.setMe { r.me with
      handlers := AMap.set r.me.handlers (s.reg b).toNat (s.handlerOf (s.reg a) (x ++ y)) }).retire := by
  obtain ⟨valid, queue, zero2, zero17, zero49, type, aligned, inStore⟩ := fields
  have queue' : (bits (s.reg a) 1 0 == 0) = false ∧ (bits (s.reg a) 1 0 != 3) = true := by
    rcases List.mem_cons.mp queue with h | h
    · rw [h]
      decide
    · rw [List.mem_singleton.mp h]
      decide
  have type' : (bits (s.reg a) 15 8 != 255) = true := bne_iff_ne.mpr type
  have target : (bits (s.reg a) 48 32 % 4 == 0 && decide (bits (s.reg a) 48 32 < istoreSize s.cur.1)) = true := by simp [aligned, inStore]
  have alone' : (s.me.handlers.all fun (j, h) =>
      j == (s.reg b).toNat || h.q != bits (s.reg a) 1 0 || h.type != bits (s.reg a) 15 8) = true :=
    List.all_eq_true.mpr fun e member => by simpa [or_assoc] using alone e member
  rw [exec_htset, execHtset, State.plain_ok plain]
  simp only [State.block_zero, valid, queue', Bool.and_false, Bool.false_and, Bool.not_false, ensure_true,
    State.tableArg_ok (decide_eq_true inside), Bool.not_true, Bool.false_eq_true, if_false, State.tableArg_ok (beq_iff_eq.mpr zero2),
    State.tableArg_ok (beq_iff_eq.mpr zero17), State.tableArg_ok (beq_iff_eq.mpr zero49), State.tableArg_ok type',
    State.tableArg_ok target, keep1, keep2, apart, State.tableArg_ok alone', State.tableArg_ok rfl, held, bind, Except.bind]
  rfl
end

/-! ### OWNSET (R334) -/

section
variable {s r : State} {a b : Reg} (plain : s.NoPrefix)

/-- The rule that a block of OWNSET enters. -/
def State.ownerRuleOf (s : State) (w0 w1 w2 : Word) : OwnerRule :=
  { base := bits w0 47 0, length := bits w1 47 0, shift := bits w2 5 0, count := bits w2 27 16, first := bits w2 42 32
    launch := s.u.home }

/-- The fields of OWNSET's block that its check asks for whether the rule is entered or removed (R334). -/
structure OwnerFields (s : State) (a b : Reg) : Prop where
  inside : (s.reg b).toNat ≤ 15
  base : bits (s.reg a) 63 48 = 0
  length : bits (s.reg (a + 1)) 63 48 = 0
  zero6 : bits (s.reg (a + 2)) 15 6 = 0
  zero28 : bits (s.reg (a + 2)) 31 28 = 0
  zero43 : bits (s.reg (a + 2)) 63 43 = 0
  last : s.reg (a + 3) = 0

variable (held : s.performHeld = .ok r) (fields : OwnerFields s a b)
include plain held fields

theorem exec_ownset_erased (empty : bits (s.reg (a + 1)) 47 0 = 0) :
    exec (.ownset a b) s = .next (r.mapJob (s.u.job.getD 0) fun j => { j with owners := AMap.erase j.owners (s.reg b).toNat }).retire := by
  obtain ⟨inside, base, length, zero6, zero28, zero43, last⟩ := fields
  rw [exec_ownset, execOwnset, State.plain_ok plain]
  simp only [State.block_zero, show s.block a 1 = s.reg (a + 1) from rfl, show s.block a 2 = s.reg (a + 2) from rfl,
    show s.block a 3 = s.reg (a + 3) from rfl, State.tableArg_ok (decide_eq_true inside), State.tableArg_ok (beq_iff_eq.mpr base),
    State.tableArg_ok (beq_iff_eq.mpr length), State.tableArg_ok (beq_iff_eq.mpr zero6), State.tableArg_ok (beq_iff_eq.mpr zero28),
    State.tableArg_ok (beq_iff_eq.mpr zero43), State.tableArg_ok (beq_iff_eq.mpr last), empty, if_true, held, bind, Except.bind]
  rfl

theorem exec_ownset_entered (some_ : bits (s.reg (a + 1)) 47 0 ≠ 0) (shift : bits (s.reg (a + 2)) 5 0 ≤ 47)
    (count : 1 ≤ bits (s.reg (a + 2)) 27 16 ∧ bits (s.reg (a + 2)) 27 16 ≤ 2048)
    (cores : bits (s.reg (a + 2)) 42 32 + bits (s.reg (a + 2)) 27 16 ≤ s.u.lcount) :
    exec (.ownset a b) s = .next (r.mapJob (s.u.job.getD 0) fun j => { j with
      owners := AMap.set j.owners (s.reg b).toNat (s.ownerRuleOf (s.reg a) (s.reg (a + 1)) (s.reg (a + 2))) }).retire := by
  obtain ⟨inside, base, length, zero6, zero28, zero43, last⟩ := fields
  rw [exec_ownset, execOwnset, State.plain_ok plain]
  simp only [State.block_zero, show s.block a 1 = s.reg (a + 1) from rfl, show s.block a 2 = s.reg (a + 2) from rfl,
    show s.block a 3 = s.reg (a + 3) from rfl, State.tableArg_ok (decide_eq_true inside), State.tableArg_ok (beq_iff_eq.mpr base),
    State.tableArg_ok (beq_iff_eq.mpr length), State.tableArg_ok (beq_iff_eq.mpr zero6), State.tableArg_ok (beq_iff_eq.mpr zero28),
    State.tableArg_ok (beq_iff_eq.mpr zero43), State.tableArg_ok (beq_iff_eq.mpr last), if_neg some_,
    State.tableArg_ok (decide_eq_true shift), State.tableArg_ok (decide_eq_true count), State.tableArg_ok (decide_eq_true cores), held,
    bind, Except.bind]
  rfl
end

/-! ### URTSET (R333) -/

section
variable {s r : State} {a b : Reg} (plain : s.NoPrefix)
include plain

theorem exec_urtset_user (user : s.slot.mode = false) : exec (.urtset a b) s = .next (s.trap .illPriv 0 0 0) := by
  rw [exec_urtset, execUrtset, State.plain_ok plain, State.needSupervisor_user user]
  rfl

omit plain in
/-- The fields of URTSET's block (R333). -/
structure RangeFields (s : State) (a b : Reg) : Prop where
  inside : (s.reg b).toNat ≤ 63
  aligned : bits (s.reg a) 11 0 = 0
  base : bits (s.reg a) 63 52 = 0
  pages : (s.reg (a + 1)).toNat ≤ 2 ^ 28

variable (held : s.performHeld = .ok r) (supervisor : s.slot.mode = true) (fields : RangeFields s a b)
include held supervisor fields

theorem exec_urtset_erased (empty : s.reg (a + 1) = 0) :
    exec (.urtset a b) s = .next ({ r with ranges := AMap.erase s.ranges (s.reg b).toNat } : State).retire := by
  obtain ⟨inside, aligned, base, pages⟩ := fields
  rw [exec_urtset, execUrtset, State.plain_ok plain, State.needSupervisor_ok supervisor]
  simp only [State.block_zero, show s.block a 1 = 0 from empty, State.tableArg_ok (decide_eq_true inside),
    State.tableArg_ok (beq_iff_eq.mpr aligned), State.tableArg_ok (beq_iff_eq.mpr base), held, bind, Except.bind]
  rfl

theorem exec_urtset_entered (some_ : s.reg (a + 1) ≠ 0) (inMemory : (s.reg a).toNat + (s.reg (a + 1)).toNat * 4096 ≤ 2 ^ 52)
    (apart : ∀ x ∈ AMap.erase s.ranges (s.reg b).toNat,
      (s.reg a).toNat + (s.reg (a + 1)).toNat * 4096 ≤ x.2.1 ∨ x.2.1 + x.2.2 * 4096 ≤ (s.reg a).toNat) :
    exec (.urtset a b) s =
      .next ({ r with ranges := AMap.set r.ranges (s.reg b).toNat ((s.reg a).toNat, (s.reg (a + 1)).toNat) } : State).retire := by
  obtain ⟨inside, aligned, base, pages⟩ := fields
  have some' : (s.reg (a + 1)).toNat ≠ 0 := fun h => some_ (BitVec.toNat_inj (y := 0#64) |>.mp h)
  have apart' : ((AMap.erase s.ranges (s.reg b).toNat).all fun (_, x, n) =>
      decide ((s.reg a).toNat + (s.reg (a + 1)).toNat * 4096 ≤ x) || decide (x + n * 4096 ≤ (s.reg a).toNat)) = true :=
    List.all_eq_true.mpr fun e member => by simpa using apart e member
  rw [exec_urtset, execUrtset, State.plain_ok plain, State.needSupervisor_ok supervisor]
  simp only [State.block_zero, show s.block a 1 = s.reg (a + 1) from rfl, State.tableArg_ok (decide_eq_true inside),
    State.tableArg_ok (beq_iff_eq.mpr aligned), State.tableArg_ok (beq_iff_eq.mpr base), State.tableArg_ok (decide_eq_true pages),
    if_neg some', State.tableArg_ok (decide_eq_true inMemory), State.tableArg_ok apart', held, bind, Except.bind]
  rfl
end

/-! ### SCHSET and CBLOAD (R331, R335) -/

section
variable {s v : State}

theorem MatrixReady.checkOwner (ready : MatrixReady s) : s.checkOwner = .ok () := by
  have unshared : s.sharedRow = false := by rw [State.sharedRow, ready.unshared]; rfl
  have even : s.oddOwned = false := by rw [State.oddOwned, ready.pair]; rfl
  rw [State.checkOwner, unshared, even, ready.owner]
  exact if_pos (beq_self_eq_true _)

theorem claimMatrix_own (even : v.oddOwned = false) (owner : v.me.owner = some (v.cur.2, v.u.unit)) (zeroed : v.me.zeroing = false) :
    v.claimMatrix = .ok v := by
  simp only [State.claimMatrix, even, Bool.false_eq_true, if_false, owner, zeroed]
  exact if_pos (beq_self_eq_true _)

end

section
variable {s t v : State} {a b : Reg} {bs : List Byte} (space : bits s.u.memdef 7 6 ≤ 1)
include space

/-- The dies whose tables SCHSET writes. -/
def scheduleDies (t : State) (f : BitVec 1) : List Nat := if f = 1 then List.range 4 else [dieOf t.cur.1]

theorem exec_schset_entered (plain : s.NoPrefix) (f : BitVec 1) (length : (s.reg (a + 1)).toNat % 16 = 0 ∧ (s.reg (a + 1)).toNat ≤ 65536)
    (aligned : (s.reg a).toNat % 16 = 0) (read : s.loadAccess (s.plainAccess false) (s.reg a) (s.reg (a + 1)).toNat 0 = .ok (bs, t))
    (number : (t.reg b).toNat < 4096) (legal : Sched.fault? bs t.u.lcount = none)
    (room : ∀ k ∈ scheduleDies t f, t.schedRoom k (State.schedKey t.u.job (t.reg b).toNat) bs = true) (held : t.performHeld = .ok v) :
    exec (.schset a b f) s = .next ((scheduleDies t f).foldl (fun k e => k.setDie e { k.die e with
      schedules := AMap.set (k.die e).schedules (State.schedKey t.u.job (t.reg b).toNat) (bs, k.u.home) }) v).retire := by
  have length' : ((s.reg (a + 1)).toNat % 16 == 0 && decide ((s.reg (a + 1)).toNat ≤ 65536)) = true := by
    rw [decide_eq_true length.2, Bool.and_true, beq_iff_eq, length.1]
  have room' : ((if f = 1 then List.range 4 else [dieOf t.cur.1]).all fun d =>
      t.schedRoom d (State.schedKey t.u.job (t.reg b).toNat) bs) = true := List.all_eq_true.mpr room
  rw [exec_schset, execSchset, State.plain_ok plain]
  simp only [State.block_zero, show s.block a 1 = s.reg (a + 1) from rfl, State.tableArg_ok length', operandSpace_ok space,
    State.aligned_ok aligned, read, State.tableArg_ok (decide_eq_true number), legal, room', ensure_true, held, bind, Except.bind]
  rfl

theorem exec_cbload_filled (ready : MatrixReady s) (aligned : (s.reg a).toNat % 32 = 0)
    (read : s.loadAccess (s.plainAccess false) (s.reg a) 32 0 = .ok (bs, t)) (held : t.performHeld = .ok v)
    (claimed : v.claimMatrix = .ok v) (queue : v.me.matrix = []) (n : BitVec 3) :
    exec (.cbload a n) s = .next (v.store (codebookCell v.cur.1 n.toNat 0) bs).retire := by
  rw [exec_cbload, execCbload, show (s.kind == .mcore) = true from beq_iff_eq.mpr ready.kind, State.plainWhere_legal,
    State.plain_ok ready.prefixes]
  simp only [ready.resident, Bool.not_false, ensure_true, ready.checkOwner, operandSpace_ok space, State.aligned_ok aligned, read, held,
    claimed, queue, List.any_nil, Bool.false_eq_true, if_false, bind, Except.bind]
  rfl
end

namespace Laws

/-- Settles O42: each table word by its own lemma, behind what a pair holds. -/
theorem tables : Obligations.Tables := by
  unfold Obligations.Tables
  intro s t r v a b f slot bs plain held i w w1 w2
  refine ⟨fun inside invalid => exec_htset_erased plain held inside invalid, ?_,
    fun _ valid supervisor user => exec_htset_user plain valid supervisor user, ?_, fun user => exec_urtset_user plain user, ?_, ?_, ?_⟩
  · intro inside valid queue zero2 zero17 zero49 type aligned inStore alone x y keep1 keep2 apart
    exact exec_htset_entered plain held inside ⟨valid, queue, zero2, zero17, zero49, type, aligned, inStore⟩ alone keep1 keep2 apart
  · intro inside base length zero6 zero28 zero43 last
    have fields : OwnerFields s a b := ⟨inside, base, length, zero6, zero28, zero43, last⟩
    exact ⟨exec_ownset_erased plain held fields, fun some_ shift least most cores =>
      exec_ownset_entered plain held fields some_ shift ⟨least, most⟩ cores⟩
  · intro supervisor inside aligned base pages
    have fields : RangeFields s a b := ⟨inside, aligned, base, pages⟩
    exact ⟨exec_urtset_erased plain held supervisor fields, exec_urtset_entered plain held supervisor fields⟩
  · intro space even short aligned read n dies key number legal room held'
    exact exec_schset_entered space plain f ⟨even, short⟩ aligned read number legal room held'
  · intro ready space aligned read held' even owner zeroed queue
    exact exec_cbload_filled space ready aligned read held' (claimMatrix_own even owner zeroed) queue slot

end Laws

/-! ### SEQNEW and SEQEND (R274, R332) -/

section
variable {s r : State} (plain : s.NoPrefix)
include plain

theorem exec_seqnew_user (user : s.slot.mode = false) (d : Reg) : exec (.seqnew d) s = .next (s.trap .illPriv 0 0 0) := by
  rw [exec_seqnew, execSeqnew, State.plain_ok plain, State.needSupervisor_user user]
  rfl

theorem exec_seqend_user (user : s.slot.mode = false) (a : Reg) : exec (.seqend a) s = .next (s.trap .illPriv 0 0 0) := by
  rw [exec_seqend, execSeqend, State.plain_ok plain, State.needSupervisor_user user]
  rfl

variable (held : s.performHeld = .ok r) (supervisor : s.slot.mode = true)
include held supervisor

theorem exec_seqend_supervisor (a : Reg) :
    exec (.seqend a) s = .next (
      if 1 ≤ (s.reg a).toNat ∧ (s.reg a).toNat ≤ 255 ∧ (s.keySlot (s.reg a).toNat).state = .live then (r.killKey (s.reg a).toNat).retire
      else s.trap .tableArg 15 0 0) := by
  rw [exec_seqend, execSeqend, State.plain_ok plain, State.needSupervisor_ok supervisor]
  by_cases live : 1 ≤ (s.reg a).toNat ∧ (s.reg a).toNat ≤ 255 ∧ (s.keySlot (s.reg a).toNat).state = .live
  · have legal : (decide (1 ≤ (s.reg a).toNat ∧ (s.reg a).toNat ≤ 255) && (s.keySlot (s.reg a).toNat).state == .live) = true := by
      simp [live]
    simp only [State.tableArg_ok legal, held, if_pos live, bind, Except.bind]
    rfl
  · have refused : (decide (1 ≤ (s.reg a).toNat ∧ (s.reg a).toNat ≤ 255) && (s.keySlot (s.reg a).toNat).state == .live) = false := by
      rw [Bool.eq_false_iff]
      intro legal
      simp only [Bool.and_eq_true, decide_eq_true_eq, beq_iff_eq] at legal
      exact live ⟨legal.1.1, legal.1.2, legal.2⟩
    simp only [State.tableArg_refused refused, if_neg live, bind, Except.bind]
    rfl

section
variable (calm : r.bezel.alarmed = false) (d : Reg)
include calm

theorem exec_seqnew_full (full : ∀ n, 1 ≤ n → n ≤ 255 → (r.keySlot n).state ≠ .free) :
    exec (.seqnew d) s = .next (r.setReg d 0).retire := by
  have none_ : (((List.range 255).map (· + 1)).find? fun k => (r.keySlot k).state == .free) = none := by
    simp only [List.find?_eq_none, List.mem_map, List.mem_range, beq_iff_eq]
    rintro n ⟨m, below, rfl⟩
    exact full (m + 1) (by omega) (by omega)
  rw [exec_seqnew, execSeqnew, State.plain_ok plain, State.needSupervisor_ok supervisor]
  simp only [held, calm, none_, bind, Except.bind, Bool.false_eq_true, if_false]
  rfl

theorem exec_seqnew_lowest {k : Nat} (least : 1 ≤ k) (most : k ≤ 255) (free : (r.keySlot k).state = .free)
    (lower : ∀ n, 1 ≤ n → n < k → (r.keySlot n).state ≠ .free) :
    exec (.seqnew d) s = .next ((({ r with
      keysDrawn := r.keysDrawn + 1
      keys := AMap.set r.keys k { state := .live, key := r.keysDrawn + 1 } } : State).setReg d (BitVec.ofNat 64 k)).retire) := by
  have found : (((List.range 255).map (· + 1)).find? fun k => (r.keySlot k).state == .free) = some k := by
    rw [List.find?_eq_some_iff_getElem]
    refine ⟨beq_iff_eq.mpr free, k - 1, by simp; omega, by simp; omega, fun j below => ?_⟩
    simpa using lower (j + 1) (by omega) (by omega)
  rw [exec_seqnew, execSeqnew, State.plain_ok plain, State.needSupervisor_ok supervisor]
  simp only [held, calm, found, bind, Except.bind, Bool.false_eq_true, if_false]
  rfl
end
end

/-! ### CMAP (R328) -/

section
variable {s v : State} (plain : s.NoPrefix) (held : s.dropMaps.performHeld = .ok v) (d a b : Reg)
include plain held

theorem exec_cmap_freed {m : CoreMap} (found : AMap.get? s.dropMaps.maps (s.dropMaps.reg a).toNat = some m)
    (own : m.job = s.dropMaps.u.job) (live : m.freed = false) :
    exec (.cmap d a b 0 2) s = .next (({ v with
      maps := AMap.set v.maps (s.dropMaps.reg a).toNat { m with freed := true } } : State).dropMaps).retire := by
  have legal : (m.job == s.dropMaps.u.job && !m.freed) = true := by simp [own, live]
  rw [exec_cmap, execCmap, State.plain_ok plain]
  simp only [found, State.tableArg_ok legal, held, bind, Except.bind]
  rfl

omit plain held in
/-- The fields of CMAP's word for a map that the system chooses (R328). -/
structure MapFields (w : Word) : Prop where
  pair : bit w 1 = true → bit w 0 = false
  cuff : bits w 3 2 ≠ 0 → bit w 0 = true
  zero4 : bits w 7 4 = 0
  least : 1 ≤ bits w 19 8
  most : bits w 19 8 ≤ 2048
  place : bits w 21 20 ≠ 3
  zero22 : bits w 63 22 = 0

omit plain held in
/-- The map of a word of CMAP on chosen cores. -/
def State.mapOf (s : State) (w : Word) (cores : List Nat) : CoreMap :=
  { job := s.u.job, smallCores := bit w 0, pair := bit w 1, cuff := bits w 3 2, cores }

section
variable (fields : MapFields (s.dropMaps.reg b)) {cs : List Nat}
  (chosen : s.dropMaps.chooseCores (bit (s.dropMaps.reg b) 0) (bit (s.dropMaps.reg b) 1) (bits (s.dropMaps.reg b) 3 2)
    (bits (s.dropMaps.reg b) 19 8) (if bits (s.dropMaps.reg b) 21 20 = 1 then dieOf s.dropMaps.cur.1 else 0) 0
    (bits (s.dropMaps.reg b) 21 20 == 0) (bits (s.dropMaps.reg b) 21 20 == 2) = some cs)
include fields chosen

theorem exec_cmap_chosen :
    exec (.cmap d a b 0 0) s = .next (match s.dropMaps.freeMap with
      | none => s.trap .tableFull 0 0 0
      | some k => (({ v with maps := AMap.set v.maps k (s.dropMaps.mapOf (s.dropMaps.reg b) cs) } : State).setReg d (BitVec.ofNat 64 k)).retire) := by
  obtain ⟨pair, cuff, zero4, least, most, place, zero22⟩ := fields
  have pair' : (!(bit (s.dropMaps.reg b) 1 && bit (s.dropMaps.reg b) 0)) = true := by
    cases h : bit (s.dropMaps.reg b) 1
    · rfl
    · rw [pair h]; rfl
  have cuff' : (!(bits (s.dropMaps.reg b) 3 2 != 0 && !bit (s.dropMaps.reg b) 0)) = true := by
    by_cases h : bits (s.dropMaps.reg b) 3 2 = 0
    · rw [h]; rfl
    · rw [cuff h, Bool.not_true, Bool.and_false]; rfl
  have place' : (bits (s.dropMaps.reg b) 21 20 != 2 || decide ((none : Option (List Nat)).getD []).Nodup) = true := by simp
  have chosenForm : ¬(0 : BitVec 2) = 2 ∧ ¬(0 : BitVec 2) = 1 := by decide
  have unlisted : ((0 : BitVec 2) == 1) = false ∧ ((0 : BitVec 1) == 1) = false := ⟨rfl, rfl⟩
  rw [exec_cmap, execCmap, State.plain_ok plain]
  simp only [chosenForm, unlisted, if_false, Bool.or_false, Bool.false_and, Bool.not_false, ensure_true, pure, Except.pure,
    State.tableArg_ok pair', State.tableArg_ok cuff', State.tableArg_ok (beq_iff_eq.mpr zero4),
    State.tableArg_ok (decide_eq_true (And.intro least most)), State.tableArg_ok (bne_iff_ne.mpr place),
    State.tableArg_ok (beq_iff_eq.mpr zero22), State.tableArg_ok place', chosen, held, bind, Except.bind]
  cases s.dropMaps.freeMap <;> rfl
end
end

/-! ### EPREQ (R297, R329) -/

namespace State

theorem core_mapJob (s : State) (q : Nat) (f : Job → Job) (c : Nat) : (s.mapJob q f).core c = s.core c := by
  simp only [mapJob]
  split <;> rfl

/-- The entry of a core's grant table when the core is the job's. -/
theorem core_setGrants_here {s : State} {job : Option Nat} {c : Nat} (here : (s.core c).job = job) (l : List Word) :
    (s.setGrants job c l).core c = { s.core c with grants := l } := by
  rw [setGrants.eq_def, if_pos (beq_iff_eq.mpr here), core_setCore_same]

theorem core_setGrants_other (s : State) (job : Option Nat) {c e : Nat} (other : c ≠ e) (l : List Word) :
    (s.setGrants job c l).core e = s.core e := by
  rw [setGrants.eq_def]
  split
  · exact core_setCore_other _ _ (Ne.symm other)
  · split
    · rfl
    · exact core_mapJob ..

theorem core_setGrants_away {s : State} {job : Option Nat} {c : Nat} (away : (s.core c).job ≠ job) (l : List Word) (e : Nat) :
    (s.setGrants job c l).core e = s.core e := by
  rw [setGrants.eq_def, if_neg (by simpa using away)]
  split
  · rfl
  · exact core_mapJob ..

theorem grantsOf_here {s : State} {job : Option Nat} {c : Nat} (here : (s.core c).job = job) : s.grantsOf job c = (s.core c).grants :=
  if_pos (beq_iff_eq.mpr here)

theorem job_setGrants (s : State) (job : Option Nat) (c : Nat) (l : List Word) (e : Nat) :
    ((s.setGrants job c l).core e).job = (s.core e).job := by
  by_cases h : c = e
  · subst h
    by_cases here : (s.core c).job = job
    · rw [core_setGrants_here here]
    · rw [core_setGrants_away here]
  · rw [core_setGrants_other s job h]

/-- One entry of `grant`. -/
def grantOne (job : Option Nat) (h : Word) (x : Bool × State) (c : Nat) : Bool × State :=
  let l := x.2.grantsOf job c
  if l.contains h then (x.1, x.2)
  else if l.length ≥ 128 then (true, x.2)
  else (x.1, x.2.setGrants job c (l ++ [h]))

theorem grant_eq (s : State) (job : Option Nat) (cs : List Nat) (h : Word) : s.grant job cs h = cs.foldl (grantOne job h) (false, s) := rfl

section
variable (job : Option Nat) (h : Word) (x : Bool × State)

/-- A full table stays noted. -/
theorem full_grantOne {c : Nat} (room : (grantOne job h x c).1 = false) : x.1 = false := by
  simp only [grantOne] at room
  split at room
  · exact room
  · split at room
    · cases room
    · exact room

theorem job_grantOne (c e : Nat) : ((grantOne job h x c).2.core e).job = (x.2.core e).job := by
  simp only [grantOne]
  split
  · rfl
  · split
    · rfl
    · exact job_setGrants ..

/-- A handle in a core's table stays there. -/
theorem mem_grantOne {e : Nat} (c : Nat) (member : h ∈ (x.2.core e).grants) : h ∈ ((grantOne job h x c).2.core e).grants := by
  simp only [grantOne]
  split
  · exact member
  · split
    · exact member
    · by_cases same : c = e
      · subst same
        by_cases here : (x.2.core c).job = job
        · rw [core_setGrants_here here]
          exact List.mem_append_right _ (List.mem_singleton_self h)
        · rwa [core_setGrants_away here]
      · rwa [core_setGrants_other _ job same]

/-- The handle is entered where there is room. -/
theorem grantOne_enters {c : Nat} (here : (x.2.core c).job = job) (room : (grantOne job h x c).1 = false) :
    h ∈ ((grantOne job h x c).2.core c).grants := by
  simp only [grantOne] at room ⊢
  rw [grantsOf_here here] at room ⊢
  by_cases present : (x.2.core c).grants.contains h = true
  · rw [if_pos present]
    exact List.contains_iff_mem.mp present
  · rw [if_neg present] at room ⊢
    by_cases full : (x.2.core c).grants.length ≥ 128
    · rw [if_pos full] at room
      cases room
    · rw [if_neg full, core_setGrants_here here]
      exact List.mem_append_right _ (List.mem_singleton_self h)

theorem full_foldl_grantOne (cs : List Nat) (room : (cs.foldl (grantOne job h) x).1 = false) : x.1 = false := by
  induction cs generalizing x with
  | nil => exact room
  | cons c cs ih => exact full_grantOne job h x (ih _ room)

theorem mem_foldl_grantOne (cs : List Nat) {e : Nat} (member : h ∈ (x.2.core e).grants) :
    h ∈ ((cs.foldl (grantOne job h) x).2.core e).grants := by
  induction cs generalizing x with
  | nil => exact member
  | cons c cs ih => exact ih _ (mem_grantOne job h x c member)

theorem foldl_grantOne_enters (cs : List Nat) (room : (cs.foldl (grantOne job h) x).1 = false) {e : Nat} (listed : e ∈ cs)
    (here : (x.2.core e).job = job) : h ∈ ((cs.foldl (grantOne job h) x).2.core e).grants := by
  induction cs generalizing x with
  | nil => cases listed
  | cons c cs ih =>
    rcases List.mem_cons.mp listed with rfl | later
    · exact mem_foldl_grantOne job h _ cs (grantOne_enters job h x here (full_foldl_grantOne job h _ cs room))
    · exact ih _ room later ((job_grantOne job h x c e).trans here)
end

theorem grant_enters {s : State} {job : Option Nat} {cs : List Nat} {h : Word} (room : (s.grant job cs h).1 = false) {c : Nat}
    (listed : c ∈ cs) (here : (s.core c).job = job) : h ∈ ((s.grant job cs h).2.core c).grants :=
  foldl_grantOne_enters job h (false, s) cs room listed here

end State

section
variable {r : State} {d a : Reg}

/-- The cores whose tables an EPREQ of a function reaches. -/
def State.grantCores (r : State) (f : Nat) : List Nat := if f % 2 = 1 then r.mapCores else [r.cur.1]

theorem askBezel_alarmed (alarmed : r.bezel.alarmed = true) (f : Nat) : r.askBezel d a f = r.setPair d 0 2 := by
  simp only [State.askBezel, alarmed, if_true]
  rfl

variable (calm : r.bezel.alarmed = false)
include calm

theorem askBezel_release {f : Nat} (release : f = 2 ∨ f = 3) :
    r.askBezel d a f = (r.ungrant r.u.job (r.grantCores f) (r.reg a)).setPair d 0 0 := by
  rcases release with rfl | rfl <;> simp only [State.askBezel, calm, Bool.false_eq_true, if_false] <;> rfl

theorem askBezel_region :
    r.askBezel d a 4 = (r.defineRegion (r.reg a)).2.setPair d 0 (BitVec.ofNat 64 (r.defineRegion (r.reg a)).1) := by
  simp only [State.askBezel, calm, Bool.false_eq_true, if_false]

section
variable {f : Nat} (asks : f = 0 ∨ f = 1) (near : bits (r.reg a) 18 16 ≠ 3)
include asks near

theorem askBezel_refused (bad : r.requestOk (r.reg a) = false) : r.askBezel d a f = r.setPair d 0 2 := by
  rcases asks with rfl | rfl <;> simp only [State.askBezel, calm, Bool.false_eq_true, if_false, if_neg near, bad, Bool.not_false, if_true] <;> rfl

theorem askBezel_granted (good : r.requestOk (r.reg a) = true) {t : State} (bound : t = (r.bindRequest (r.reg a)).2) :
    r.askBezel d a f =
      let h := t.makeHandle (r.reg a) (r.bindRequest (r.reg a)).1
      let g := t.grant t.u.job (r.grantCores f) h
      g.2.setPair d h (BitVec.ofNat 64 (if g.1 then 1 else 0)) := by
  subst bound
  rcases asks with rfl | rfl <;>
    simp only [State.askBezel, calm, Bool.false_eq_true, if_false, if_neg near, good, Bool.not_true] <;> rfl
end
end

theorem exec_epreq_asked {s r : State} (plain : s.NoPrefix) (held : s.performHeld = .ok r) (d a : Reg) (f : BitVec 3) :
    exec (.epreq d a f) s = .next (r.askBezel d a f.toNat).retire := by
  rw [exec_epreq, execEpreq, State.plain_ok plain]
  simp only [held, bind, Except.bind]
  rfl

namespace Laws

/-- Settles O43: the key slots, the maps and the requests for handles, each behind what a pair holds. -/
theorem keysMapsHandles : Obligations.KeysMapsHandles := by
  unfold Obligations.KeysMapsHandles
  intro s t r v d a b f k plain held heldMaps
  refine ⟨fun user => ⟨exec_seqnew_user plain user d, exec_seqend_user plain user a⟩,
    fun supervisor calm => ⟨exec_seqnew_full plain held supervisor calm d, exec_seqnew_lowest plain held supervisor calm d⟩,
    fun supervisor => exec_seqend_supervisor plain held supervisor a,
    fun m found own live => exec_cmap_freed plain heldMaps d a b found own live, ?_, ?_⟩
  · intro m w n cs pair cuff zero4 least most place zero22 chosen
    have made := exec_cmap_chosen plain heldMaps d a b ⟨pair, cuff, zero4, least, most, place, zero22⟩ chosen
    refine ⟨fun full => ?_, ?_⟩
    · rw [made, show s.dropMaps.freeMap = none from full]
    · intro new free
      rw [made, show s.dropMaps.freeMap = some k from free]
      rfl
  · intro status req cs
    have asked := exec_epreq_asked plain held d a f
    refine ⟨fun alarmed => asked.trans ?_, fun calm => ⟨fun release => asked.trans ?_, fun region => asked.trans ?_,
      fun asks near => ⟨fun bad => asked.trans ?_, fun good bound => ⟨asked.trans ?_, fun room c listed here => ?_⟩⟩⟩⟩
    · rw [askBezel_alarmed alarmed]
      rfl
    · have release' : f.toNat = 2 ∨ f.toNat = 3 := release.imp (congrArg BitVec.toNat) (congrArg BitVec.toNat)
      rw [askBezel_release calm release']
      rfl
    · rw [show f.toNat = 4 from congrArg BitVec.toNat region, askBezel_region calm]
      rfl
    · rw [askBezel_refused calm (asks.imp (congrArg BitVec.toNat) (congrArg BitVec.toNat)) near bad]
      rfl
    · rw [askBezel_granted calm (asks.imp (congrArg BitVec.toNat) (congrArg BitVec.toNat)) near good bound]
      rfl
    · exact State.grant_enters room listed here

end Laws

end Sys2Proof.Machine
end

section
/-!
PROOFS. The matrix unit: who may issue, gang sessions, the words and their data moves (R168 to R193).
-/

namespace Sys2Proof.Machine

/-! ### What completing leaves of the matrix state and the vectors -/

/-- The memory, the queue of the core's matrix unit, and the strand's vectors and session are the same. -/
structure MatrixKept (s t : State) : Prop where
  cur : t.cur = s.cur
  mem : t.mem = s.mem
  matrix : t.me.matrix = s.me.matrix
  vectors : t.u.v = s.u.v
  session : t.u.session = s.u.session
  alone : s.slot.pair = none → t.slot.pair = none

namespace MatrixKept

theorem rfl' (s : State) : MatrixKept s s := ⟨rfl, rfl, rfl, rfl, rfl, id⟩

theorem trans {s t k : State} (first : MatrixKept s t) (next : MatrixKept t k) : MatrixKept s k :=
  ⟨next.cur.trans first.cur, next.mem.trans first.mem, next.matrix.trans first.matrix, next.vectors.trans first.vectors,
    next.session.trans first.session, next.alone ∘ first.alone⟩

end MatrixKept

namespace State

theorem matrix_setSlotAt (s : State) (c i : Nat) (x : Slot) (k : Nat) : ((s.setSlotAt c i x).core k).matrix = (s.core k).matrix := by
  by_cases h : k = c
  · subst h
    rw [setSlotAt, core_setCore_same]
  · rw [setSlotAt, core_setCore_other _ _ h]

theorem kept_setSlot {s : State} {x : Slot} (vectors : x.u.v = s.u.v) (session : x.u.session = s.u.session)
    (alone : s.slot.pair = none → x.pair = none) : MatrixKept s (s.setSlot x) := by
  have slots : (s.setSlot x).slot = x ∨ (s.setSlot x).slot = s.slot := by
    rcases Nat.lt_or_ge s.cur.2 4 with inside | outside
    · exact .inl (slot_setSlot s x inside)
    · rw [setSlot, setSlotAt, Vector.setIfInBounds_eq_of_size_le outside]
      simp only [slot, slotAt, setCore_cur, core_setCore_same, or_true]
  refine ⟨rfl, rfl, matrix_setSlotAt .., ?_, ?_, fun none_ => ?_⟩
  · rcases slots with h | h <;> rw [u, h]
    · exact vectors
    · rfl
  · rcases slots with h | h <;> rw [u, h]
    · exact session
    · rfl
  · rcases slots with h | h <;> rw [h]
    · exact alone none_
    · exact none_

theorem kept_setU {s : State} {x : Strand} (vectors : x.v = s.u.v) (session : x.session = s.u.session) :
    MatrixKept s (s.setU x) := kept_setSlot vectors session id

theorem kept_count (s : State) (c code n : Nat) : MatrixKept s (s.count c code n) := by
  have slots (k i : Nat) : (s.count c code n).slotAt k i = s.slotAt k i := slotAt_count ..
  refine ⟨count_cur .., count_mem .., ?_, ?_, ?_, ?_⟩
  · simp only [me, count_cur]
    simp only [count]
    split
    · rfl
    · by_cases h : s.cur.1 = c
      · rw [h, core_setCore_same]
      · rw [core_setCore_other _ _ h]
  all_goals simp only [u, slot, count_cur, slots]
  exact id

theorem kept_setPc (s : State) (pc : Word) : MatrixKept s (s.setPc pc) := by
  unfold setPc
  split
  · exact kept_setSlot rfl rfl id
  · exact kept_setU rfl rfl

theorem leaveBody_vectors (x : Strand) : (leaveBody x).v = x.v ∧ (leaveBody x).session = x.session := by
  unfold leaveBody
  split <;> exact ⟨rfl, rfl⟩

theorem enteredSlot_vectors (tvec : Word) (native precise : Bool) (c : Cause) (info : Nat) (a : Word) (n : Nat) (x : Slot) :
    (enteredSlot tvec native precise c info a n x).u.v = x.u.v ∧
      (enteredSlot tvec native precise c info a n x).u.session = x.u.session := by
  simp only [enteredSlot]
  split <;> exact leaveBody_vectors x.u

theorem kept_doubleTrap (s : State) : MatrixKept s (s.doubleTrap s.cur.1) := by
  have slots : (s.doubleTrap s.cur.1).slot = s.slot ∨ (s.doubleTrap s.cur.1).slot = { s.slot with status := .halted .core } := by
    rcases Nat.lt_or_ge s.cur.2 4 with inside | outside
    · rw [slot, show (s.doubleTrap s.cur.1).cur = s.cur from rfl, slotAt_doubleTrap s _ inside]
      split
      · exact .inl rfl
      · exact .inr rfl
    · refine .inl ?_
      simp only [slot, slotAt, doubleTrap, setCore_cur, core_setCore_same, Vector.getElem?_eq_none outside]
  refine ⟨rfl, rfl, ?_, ?_, ?_, ?_⟩
  · simp only [me, doubleTrap, setCore_cur, core_setCore_same]
  · rcases slots with h | h <;> rw [u, h] <;> rfl
  · rcases slots with h | h <;> rw [u, h] <;> rfl
  · rcases slots with h | h <;> rw [h] <;> exact id

theorem kept_trap {s : State} (alone : s.slot.pair = none) (c : Cause) (info n : Nat) (a : Word) : MatrixKept s (s.trap c info a n) := by
  cases nest : s.slot.nest with
  | true =>
    rw [trap_of_nest nest]
    exact kept_doubleTrap s
  | false =>
    rw [trap_eq nest alone]
    have slots : (s.count s.cur.1 11 1).u = s.slot.u := by simp only [u, slot, count_cur, slotAt_count]
    obtain ⟨vectors, session⟩ := enteredSlot_vectors s.me.tvec s.native true c info a n s.slot
    refine (kept_count s s.cur.1 11 1).trans (kept_setSlot ?_ ?_ fun _ => ?_)
    · rw [slots, vectors]
    · rw [slots, session]
    · rw [enteredSlot, alone]
      rfl

/-- A slot whose group has completed. -/
def closedSlot (x : Slot) (start : Word) : Slot :=
  { x with
    pre := none, eprog := if x.mode then x.eprog else 0, status := .ready
    u := if x.mode then { x.u with admitted := x.u.admitted.filter (!·.1) } else withoutFault x.u start }

/-- The state in which a group has completed, its slot closed and the group counted. -/
def closedGroup (s : State) (pc : Word) : State :=
  let t := (s.setPc pc).setSlot (closedSlot (s.setPc pc).slot (groupStart s.slot))
  t.count t.cur.1 1 1

theorem complete_closed (s : State) (pc : Word) :
    s.complete pc =
      let t := (s.closedGroup pc).sealPoint
      if t.slot.step && !t.slot.mode then t.trap .singleStep 0 0 0 else t := rfl

theorem kept_closedGroup (s : State) (pc : Word) : MatrixKept s (s.closedGroup pc) := by
  have fields : (closedSlot (s.setPc pc).slot (groupStart s.slot)).u.v = (s.setPc pc).u.v ∧
      (closedSlot (s.setPc pc).slot (groupStart s.slot)).u.session = (s.setPc pc).u.session := by
    rw [closedSlot]
    split <;> exact ⟨rfl, rfl⟩
  exact ((kept_setPc s pc).trans (kept_setSlot fields.1 fields.2 fun h => h)).trans (kept_count ..)

theorem kept_complete {s : State} (alone : s.slot.pair = none) (pc : Word) : MatrixKept s (s.complete pc) := by
  have closed := kept_closedGroup s pc
  have alone' := closed.alone alone
  have unsealed : (s.closedGroup pc).sealPoint = s.closedGroup pc := by simp only [sealPoint, alone']
  rw [complete_closed, unsealed]
  dsimp only
  split
  · exact closed.trans (kept_trap alone' ..)
  · exact closed

theorem kept_retire {s : State} (alone : s.slot.pair = none) : MatrixKept s s.retire := kept_complete alone _

theorem kept_finishSteps {s : State} (alone : s.slot.pair = none) : MatrixKept s s.finishSteps :=
  have cleared : MatrixKept s (s.setSlot { s.slot with eprog := 0 }) := kept_setSlot rfl rfl id
  cleared.trans (kept_retire (cleared.alone alone))

end State
/-! ### Who may issue a matrix word (R180) -/

section
variable {s : State} {gang blocking : Bool} {operands : State → Res Unit} {k : State → Res State}

theorem matrixWord_elsewhere (other : s.kind ≠ .mcore) : s.matrixWord gang blocking operands k = .next (s.trap .illFunction 0 0 0) := by
  rw [State.matrixWord, show (s.kind == .mcore) = false from beq_false_of_ne other, State.plainWhere_illegal]

section
variable (kind : s.kind = .mcore) (plain : s.NoPrefix)
include kind plain

/-- A check that fails refuses the word. -/
theorem matrixWord_refused {c : Cause} {info n : Nat} {a : Word}
    (refused : s.matrixChecks gang blocking (operands s) = .error (.trap c info a n none)) :
    s.matrixWord gang blocking operands k = .next (s.trap c info a n) := by
  rw [State.matrixWord, show (s.kind == .mcore) = true from beq_iff_eq.mpr kind, State.plainWhere_legal, State.plain_ok plain]
  simp only [refused, bind, Except.bind]
  rfl

/-- What a word does once its checks pass and the matrix state is the strand's. -/
theorem matrixWord_checked (checked : s.matrixChecks gang blocking (operands s) = .ok s) {t : State} (done : k s = .ok t) :
    s.matrixWord gang blocking operands k = .next t := by
  rw [State.matrixWord, show (s.kind == .mcore) = true from beq_iff_eq.mpr kind, State.plainWhere_legal, State.plain_ok plain]
  simp only [checked, done, bind, Except.bind]
  rfl

theorem matrixWord_waits (checked : s.matrixChecks gang blocking (operands s) = .ok s) {w : Wait} (waits : k s = waitFor w) :
    s.matrixWord gang blocking operands k = .next (s.setWait w) := by
  rw [State.matrixWord, show (s.kind == .mcore) = true from beq_iff_eq.mpr kind, State.plainWhere_legal, State.plain_ok plain]
  simp only [checked, waits, waitFor, bind, Except.bind]
  rfl
end

variable {check : Res Unit}

theorem matrixChecks_activation (activation : s.activation = true) :
    s.matrixChecks gang blocking check = .error (.trap (if gang || blocking then .handlerBlock else .matOwner) 0 0 0 none) := by
  rw [State.matrixChecks, activation]
  rfl

section
variable (resident : s.activation = false) (idle : s.needIdleSequencer = .ok ())
include resident idle

theorem matrixChecks_foreign (foreign : s.checkOwner = raise .matOwner) :
    s.matrixChecks gang blocking check = .error (.trap .matOwner 0 0 0 none) := by
  simp only [State.matrixChecks, resident, idle, foreign, Bool.not_false, ensure_true, bind, Except.bind]
  rfl

variable (own : s.checkOwner = .ok ())
include own

theorem matrixChecks_outside (outside : s.u.session = false) :
    s.matrixChecks true blocking check = .error (.trap .gangState 0 0 0 none) := by
  simp only [State.matrixChecks, resident, idle, own, outside, Bool.not_false, Bool.not_true, Bool.false_and, Bool.or_false, ensure_true,
    bind, Except.bind]
  rfl

theorem matrixChecks_operands {c : Cause} {info n : Nat} {a : Word} (bad : check = .error (.trap c info a n none)) :
    s.matrixChecks false blocking check = .error (.trap c info a n none) := by
  simp only [State.matrixChecks, resident, idle, own, bad, Bool.not_false, Bool.true_or, ensure_true, bind, Except.bind]

theorem matrixChecks_ok (good : check = .ok ()) (claimed : s.claimMatrix = .ok s) : s.matrixChecks false blocking check = .ok s := by
  simp only [State.matrixChecks, resident, idle, own, good, claimed, Bool.not_false, Bool.true_or, ensure_true, Bool.false_and, bind,
    Except.bind]
  rfl
end

section
variable (unshared : s.u.window = none)
include unshared

theorem checkOwner_free (even : s.oddOwned = false) (free : s.me.owner = none ∨ s.me.owner = some (s.cur.2, s.u.unit)) :
    s.checkOwner = .ok () := by
  have alone : s.sharedRow = false := by rw [State.sharedRow, unshared]; rfl
  rcases free with owner | owner <;> rw [State.checkOwner, alone, even, owner]
  · rfl
  · exact if_pos (beq_self_eq_true _)

theorem checkOwner_foreign {o : Nat × Option Nat} (owner : s.me.owner = some o) (other : o ≠ (s.cur.2, s.u.unit))
    (present : s.ownerAway s.cur.1 = false) : s.checkOwner = raise .matOwner := by
  have alone : s.sharedRow = false := by rw [State.sharedRow, unshared]; rfl
  have other' : (o == (s.cur.2, s.u.unit)) = false := beq_false_of_ne other
  simp only [State.checkOwner, alone, owner, other', present, Bool.false_and, Bool.false_eq_true, if_false, ite_self]
end
end

/-- A strand that is ready for its core's matrix unit passes the checks of a word that is not gang-issued. -/
theorem MatrixReady.checks {s : State} (ready : MatrixReady s) {blocking : Bool} {check : Res Unit} (good : check = .ok ()) :
    s.matrixChecks false blocking check = .ok s :=
  matrixChecks_ok ready.resident (State.needIdleSequencer_ok' ready.idle) ready.checkOwner good
    (claimMatrix_own (by rw [State.oddOwned, ready.pair]; rfl) ready.owner ready.zeroed)

section
variable {s : State} (ready : MatrixReady s) {blocking : Bool} {operands : State → Res Unit} {k : State → Res State}
  (good : operands s = .ok ())
include ready good

theorem MatrixReady.word {t : State} (done : k s = .ok t) : s.matrixWord false blocking operands k = .next t :=
  matrixWord_checked ready.kind ready.prefixes (ready.checks good) done

theorem MatrixReady.word_waits {w : Wait} (waits : k s = waitFor w) : s.matrixWord false blocking operands k = .next (s.setWait w) :=
  matrixWord_waits ready.kind ready.prefixes (ready.checks good) waits
end

/-! ### Gang sessions (R175, R181) -/

namespace State

theorem kept_setCore {s : State} {c : Nat} {k : Core} (slots : k.slots = (s.core c).slots) (matrix : k.matrix = (s.core c).matrix) :
    MatrixKept s (s.setCore c k) := by
  have same (e : Nat) : ((s.setCore c k).core e).slots = (s.core e).slots ∧ ((s.setCore c k).core e).matrix = (s.core e).matrix := by
    by_cases h : e = c
    · subst h
      rw [core_setCore_same]
      exact ⟨slots, matrix⟩
    · rw [core_setCore_other _ _ h]
      exact ⟨rfl, rfl⟩
  have slot : (s.setCore c k).slot = s.slot := by simp only [slot, slotAt, setCore_cur, (same _).1]
  refine ⟨rfl, rfl, (same _).2, ?_, ?_, ?_⟩ <;> simp only [u, slot]
  exact id

theorem kept_setRowHolder (s : State) (c : Nat) (x : Option (Nat × Nat)) :
    MatrixKept s (s.setCore c { s.core c with rowHolder := x }) := kept_setCore rfl rfl

theorem kept_holdRow (s : State) (c : Nat) (x : Option (Nat × Nat)) : MatrixKept s (s.holdRow c x) := by
  unfold holdRow
  generalize List.range 8 = js
  induction js generalizing s with
  | nil => exact .rfl' s
  | cons j js ih => exact (kept_setRowHolder s _ x).trans (ih _)

/-- The other members of the strand's row. -/
def otherMembers (s : State) : List (Nat × Nat) :=
  (s.rowMembers s.cur.1 (s.u.launch.getD 0) (s.u.lcore / 8)).filter (· != s.cur)

end State

section
variable {s : State} (ready : MatrixReady s)
include ready

theorem MatrixReady.gangOperands {e : BitVec 1} (state : (if e = 1 then !s.u.session else s.u.session) = true) :
    ensure (s.slot.pair.isNone && (if e = 1 then !s.u.session else s.u.session)) .gangState = .ok () := by
  rw [ready.pair, state]
  rfl

section
variable (closed : s.u.session = false)
include closed

theorem exec_mgang_opens (seven : s.otherMembers.length = 7) (wait : ∀ x ∈ s.otherMembers, s.waitsGang x.1 x.2 = true)
    (free : s.rowOpen s.cur.1 = false) :
    exec (.mgang 1) s = .next ((s.otherMembers.foldl (fun k x => k.as x.1 x.2 State.joinSession)
      (s.holdRow s.cur.1 (some (s.u.launch.getD 0, s.u.lcore / 8)))).joinSession) := by
  have opens : (s.otherMembers.length = 7 && s.otherMembers.all (fun (k, i) => s.waitsGang k i) && !s.rowOpen s.cur.1) = true := by
    rw [decide_eq_true seven, List.all_eq_true.mpr fun x member => wait x member, free]
    rfl
  rw [exec_mgang, execMgang]
  exact ready.word (ready.gangOperands (by rw [closed]; rfl)) (if_pos opens)

theorem exec_mgang_few (few : s.otherMembers.length ≠ 7) : exec (.mgang 1) s = .next (s.setWait .gangOpen) := by
  have waits : ¬(s.otherMembers.length = 7 && s.otherMembers.all (fun (k, i) => s.waitsGang k i) && !s.rowOpen s.cur.1) = true := by
    simp [few]
  rw [exec_mgang, execMgang]
  exact ready.word_waits (ready.gangOperands (by rw [closed]; rfl)) (if_neg waits)
end

section
variable (opened : s.u.session = true)
include opened

theorem exec_mgang_clasp (start : s.slot.eprog = 0) : exec (.mgang 0) s = .next (s.setWait (.clasp (s.wordAt s.pc.toNat))) := by
  rw [exec_mgang, execMgang]
  exact ready.word_waits (ready.gangOperands (by rw [opened]; rfl)) (if_pos start)

theorem exec_mgang_closes (clasped : s.slot.eprog ≠ 0) :
    exec (.mgang 0) s = .next (
      let t := (s.setU { s.u with session := false, clasps := 0 }).finishSteps
      if t.rowOpen t.cur.1 = true then t else t.holdRow t.cur.1 none) := by
  rw [exec_mgang, execMgang]
  exact ready.word (ready.gangOperands (by rw [opened]; rfl)) (if_neg clasped)
end
end

namespace Laws

/-- Settles O44: the checks in their order, then the opening and the closing of a session. -/
theorem matrixChecks : Obligations.MatrixChecks := by
  unfold Obligations.MatrixChecks
  refine ⟨fun s d a g h z f p => ⟨fun other => ?_, fun kind plain => ⟨fun activation => ?_, fun resident inactive unshared => ?_⟩⟩,
    fun s ready => ?_⟩
  · exact ⟨(exec_mma ..).trans (matrixWord_elsewhere other), (exec_mcb ..).trans (matrixWord_elsewhere other),
      (exec_mmx ..).trans (matrixWord_elsewhere other), (exec_msca ..).trans (matrixWord_elsewhere other)⟩
  · have refused {gang blocking : Bool} {check : Res Unit} :=
      matrixChecks_activation (gang := gang) (blocking := blocking) (check := check) activation
    exact ⟨(exec_mma ..).trans (matrixWord_refused kind plain refused), (exec_mma ..).trans (matrixWord_refused kind plain refused),
      (exec_mwait ..).trans (matrixWord_refused kind plain refused)⟩
  · have idle := State.needIdleSequencer_ok' (s := s) (.inl inactive)
    refine ⟨fun o owner other present => ?_, fun free even closed => ?_⟩
    · have foreign := checkOwner_foreign unshared owner other present
      exact ⟨(exec_mma ..).trans (matrixWord_refused kind plain (matrixChecks_foreign resident idle foreign)),
        (exec_mwait ..).trans (matrixWord_refused kind plain (matrixChecks_foreign resident idle foreign))⟩
    · have own := checkOwner_free unshared even free
      have outside : ensure (s.slot.pair.isNone && s.u.session) .gangState = .error (.trap .gangState 0 0 0 none) := by
        rw [closed, Bool.and_false]
        rfl
      exact ⟨(exec_mma ..).trans (matrixWord_refused kind plain (matrixChecks_outside resident idle own closed)),
        (exec_mmx ..).trans (matrixWord_refused kind plain (matrixChecks_outside resident idle own closed)),
        (exec_mgang ..).trans (matrixWord_refused kind plain (matrixChecks_operands resident idle own outside))⟩
  · intro members
    refine ⟨fun closed => ⟨exec_mgang_opens ready closed, exec_mgang_few ready closed⟩,
      fun opened => ⟨exec_mgang_clasp ready opened, fun clasped live => ⟨_, exec_mgang_closes ready opened clasped, fun _ => ?_⟩⟩⟩
    have closed : (s.setU { s.u with session := false, clasps := 0 }).u.session = false := by rw [State.u, State.slot_setU live]
    have finished := State.kept_finishSteps ((State.pair_setU s { s.u with session := false, clasps := 0 }).trans ready.pair)
    dsimp only
    split
    · exact ⟨finished.session.trans closed, finished.mem⟩
    · have held (c : Nat) := finished.trans (State.kept_holdRow _ c none)
      exact ⟨(held _).session.trans closed, (held _).mem⟩

end Laws

/-! ### Products and the words without data moves (R182 to R184, R187 to R189) -/

section
variable {s : State} (ready : MatrixReady s)
include ready

theorem MatrixReady.needQueue : s.needQueue = .ok () := by
  rw [State.needQueue, ready.queue]
  exact if_pos (by decide)

theorem MatrixReady.needHalf (h : Nat) : s.needHalf h = .ok () := by
  rw [State.needHalf, ready.stages]
  rfl

theorem MatrixReady.needWeights (off n : Nat) : s.needWeights off n = .ok () := by
  rw [State.needWeights, ready.stages]
  rfl

theorem MatrixReady.needWritten (mask : Nat) : s.needWritten mask = .ok () := by
  rw [State.needWritten, ready.queue]
  rfl

/-- A product with nothing in flight has its effect and takes its place in the queue. -/
theorem MatrixReady.product (half off n steps : Nat) (op : MatrixOp) (effect : State → State) :
    product s half off n steps op effect = .ok (((effect s).enqueueOp op).count s.cur.1 7 steps).finishSteps := by
  rw [Machine.product, ready.needQueue, ready.needHalf, ready.needWeights]
  rfl

theorem exec_mma_ready {d a : Reg} {h z : BitVec 1} {f : BitVec 3}
    (legal : productOperands (s.reg a) (z == 1) (mmaShape f.toNat).2.1 (mmaShape f.toNat).2.2 (mmaShape f.toNat).1 = .ok ()) :
    exec (.mma d a 0 h z f) s = .next (((s.mmaEffect s.cur.1 d.toNat h.toNat (bits (s.reg a) 17 0) (bits (s.reg a) 31 20) (z == 1) f.toNat).enqueueOp
      { acc := 2 ^ d.toNat, pacc := 0, codebook := none }).count s.cur.1 7 (bits (s.reg a) 31 20)).finishSteps := by
  rw [exec_mma, execMma]
  exact ready.word legal (ready.product ..)

theorem exec_mcb_ready {d a : Reg} {h z : BitVec 1} {n : BitVec 3} (legal : productOperands (s.reg a) (z == 1) 2 128 4 = .ok ()) :
    exec (.mcb d a 0 h z n) s = .next (((s.mcbEffect s.cur.1 d.toNat h.toNat (bits (s.reg a) 17 0) (bits (s.reg a) 31 20) (z == 1) n.toNat).enqueueOp
      { acc := 2 ^ d.toNat, pacc := 0, codebook := some n.toNat }).count s.cur.1 7 (bits (s.reg a) 31 20)).finishSteps := by
  rw [exec_mcb, execMcb]
  exact ready.word legal (ready.product ..)

omit ready in
theorem State.matOperand_ok {ok : Bool} (h : ok = true) (n : Nat) : matOperand ok n = .ok () := if_pos h

omit ready in
/-- Steps that keep the current core take it from the state they start in. -/
theorem foldl_currentCore (f : State → Nat → Nat → State) (keeps : ∀ t c b, (f t c b).cur = t.cur) (l : List Nat) (s : State) :
    l.foldl (fun t b => f t t.cur.1 b) s = l.foldl (fun t b => f t s.cur.1 b) s := by
  suffices ∀ t : State, t.cur = s.cur → l.foldl (fun t b => f t t.cur.1 b) t = l.foldl (fun t b => f t s.cur.1 b) t from this s rfl
  induction l with
  | nil => exact fun _ _ => rfl
  | cons b l ih =>
    intro t here
    rw [List.foldl_cons, List.foldl_cons, here]
    exact ih _ ((keeps t s.cur.1 b).trans here)

omit ready in
theorem cur_mmxBlock (t : State) (c h a0 off b f p : Nat) (z : Bool) : (t.mmxBlock c h a0 off b f p z).cur = t.cur := by
  simp only [State.mmxBlock, State.setCore_cur]
  split <;> rfl

section
variable {d a : Reg} {h : BitVec 1} {f p : BitVec 3} (zero23 : bits (s.reg a) 23 18 = 0)
  (fits : paccFits f.toNat p.toNat (bits (s.reg a) 30 28 + 1) = true)
include zero23 fits

theorem exec_mmx_ready (aligned : bits (s.reg a) 17 0 % 128 = 0) (zero63 : bits (s.reg a) 63 32 = 0)
    (row : bits (s.reg a) 27 24 + (bits (s.reg a) 30 28 + 1) ≤ blocksPerRow f.toNat)
    (inside : bits (s.reg a) 17 0 + (bits (s.reg a) 30 28 + 1) * blockBytes (bit (s.reg a) 31) f.toNat ≤ 262144) :
    exec (.mmx a 0 h f p) s = .next (((((List.range (bits (s.reg a) 30 28 + 1)).foldl (fun t b => t.mmxBlock s.cur.1 h.toNat
        (bits (s.reg a) 27 24) (bits (s.reg a) 17 0) b f.toNat p.toNat (bit (s.reg a) 31)) s).enqueueOp
      { acc := 0, pacc := paccMask f.toNat p.toNat (bits (s.reg a) 30 28 + 1), codebook := none }).count s.cur.1 7
        (32 * (bits (s.reg a) 30 28 + 1)))).finishSteps := by
  have fields : (bits (s.reg a) 17 0 % 128 == 0 && bits (s.reg a) 23 18 == 0 && bits (s.reg a) 63 32 == 0 &&
      paccFits f.toNat p.toNat (bits (s.reg a) 30 28 + 1) &&
      decide (bits (s.reg a) 27 24 + (bits (s.reg a) 30 28 + 1) ≤ blocksPerRow f.toNat)) = true := by
    simp [aligned, zero23, zero63, fits, row]
  rw [exec_mmx, execMmx, ← foldl_currentCore (fun t c b => t.mmxBlock c h.toNat _ _ b f.toNat p.toNat _) fun t c b => cur_mmxBlock ..]
  refine ready.word ?_ (ready.product ..)
  simp only [State.matOperand_ok fields, State.matOperand_ok (decide_eq_true inside), bind, Except.bind]

theorem exec_msca_ready (aligned : bits (s.reg a) 17 0 % 64 = 0) (zero63 : bits (s.reg a) 63 31 = 0)
    (row : bits (s.reg a) 27 24 + (bits (s.reg a) 30 28 + 1) ≤ 16)
    (inside : bits (s.reg a) 17 0 + 64 * (bits (s.reg a) 30 28 + 1) ≤ 262144)
    (tags : ∀ n, n < 8 → paccMask f.toNat p.toNat (bits (s.reg a) 30 28 + 1) / 2 ^ n % 2 = 1 → s.me.tags[n]?.getD 0 = f.toNat + 1) :
    exec (.msca d a 0 h f p) s = .next (((((List.range (bits (s.reg a) 30 28 + 1)).foldl (fun t b => t.mscaBlock s.cur.1 d.toNat h.toNat
        (bits (s.reg a) 27 24) (bits (s.reg a) 17 0) b f.toNat p.toNat) s).enqueueOp
      { acc := 2 ^ d.toNat, pacc := 0, codebook := none }).count s.cur.1 7 0)).finishSteps := by
  have fields : (bits (s.reg a) 17 0 % 64 == 0 && bits (s.reg a) 23 18 == 0 && bits (s.reg a) 63 31 == 0 &&
      paccFits f.toNat p.toNat (bits (s.reg a) 30 28 + 1) && decide (bits (s.reg a) 27 24 + (bits (s.reg a) 30 28 + 1) ≤ 16)) = true := by
    simp [aligned, zero23, zero63, fits, row]
  have tagged : ((List.range 8).all fun n => paccMask f.toNat p.toNat (bits (s.reg a) 30 28 + 1) / 2 ^ n % 2 == 0 ||
      s.me.tags[n]?.getD 0 == f.toNat + 1) = true := by
    refine List.all_eq_true.mpr fun n below => ?_
    rcases Nat.mod_two_eq_zero_or_one (paccMask f.toNat p.toNat (bits (s.reg a) 30 28 + 1) / 2 ^ n) with clear | set
    · rw [clear]; rfl
    · rw [tags n (List.mem_range.mp below) set, beq_self_eq_true, Bool.or_true]
  rw [exec_msca, execMsca, ← foldl_currentCore (fun t c b => t.mscaBlock c d.toNat h.toNat _ _ b f.toNat p.toNat) fun t c b => rfl]
  refine ready.word ?_ (ready.product ..)
  simp only [State.matOperand_ok fields, State.matOperand_ok (decide_eq_true inside), State.matOperand_ok tagged, bind, Except.bind]
end

theorem exec_mwait_idle (m : BitVec 8) : exec (.mwait m) s = .next s.retire := by
  rw [exec_mwait, execMwait]
  refine ready.word rfl ?_
  rw [ready.queue, ready.stages]
  simp only [List.isEmpty_nil, Bool.not_true, List.any_nil, Bool.or_false, ite_self, Bool.false_eq_true, if_false]
end
/-! ### Cells wiped and stored (R183, R184) -/

namespace Memory

/-- A read where nothing is listed is blank. -/
theorem read_absent {m : Memory} {a n : Nat} (absent : ∀ e ∈ m, ¬(a ≤ e.1 ∧ e.1 < a + n)) : read m a n = List.replicate n blank := by
  induction n generalizing a with
  | zero => cases m <;> rfl
  | succ n ih =>
    cases m with
    | nil => rfl
    | cons e m =>
      have other : e.1 ≠ a := fun same => absent e (List.mem_cons_self ..) (by omega)
      rw [read, if_neg other, ih fun d member => fun inside => absent d member (by omega)]
      rfl

theorem gets_absent {m : Memory} {a n : Nat} (absent : ∀ e ∈ m, ¬(a ≤ e.1 ∧ e.1 < a + n)) : gets m a n = List.replicate n blank :=
  read_absent fun e member => absent e ((List.dropWhile_sublist _).subset member)

/-- What is listed behind runs cleared was listed before. -/
theorem mem_of_mem_foldl_clear (l : List Nat) (base : Nat → Nat) (len : Nat) (m : Memory) :
    ∀ e ∈ l.foldl (fun m k => clear m (base k) len) m, e ∈ m := by
  induction l generalizing m with
  | nil => exact fun e listed => listed
  | cons j l ih => exact fun e listed => (List.mem_filter.mp (ih _ e listed)).1

/-- Runs cleared one after another list nothing. -/
theorem foldl_clear_absent (l : List Nat) (base : Nat → Nat) (len : Nat) (m : Memory) {k : Nat} (listed : k ∈ l) :
    ∀ e ∈ l.foldl (fun m k => clear m (base k) len) m, ¬(base k ≤ e.1 ∧ e.1 < base k + len) := by
  induction l generalizing m with
  | nil => cases listed
  | cons j l ih =>
    rcases List.mem_cons.mp listed with rfl | later
    · intro e member
      have outside := (List.mem_filter.mp (mem_of_mem_foldl_clear l base len _ e member)).2
      rw [Bool.not_eq_true', Bool.and_eq_false_iff, decide_eq_false_iff_not, decide_eq_false_iff_not] at outside
      exact Classical.not_and_iff_not_or_not.mpr outside
    · exact ih _ later

end Memory

theorem leNat_replicate_zero (n : Nat) : leNat (List.replicate n Memory.blank) = 0 := by
  induction n with
  | zero => rfl
  | succ n ih => rw [List.replicate_succ, leNat, ih]; rfl

theorem num_absent {s : State} {a n : Nat} (absent : ∀ e ∈ s.mem, ¬(a ≤ e.1 ∧ e.1 < a + n)) : s.num a n = 0 := by
  rw [State.num, State.bytes, Memory.gets_absent absent, leNat_replicate_zero]

/-- The state is the same but for its memory, as far as the matrix queue and the vectors go. -/
def MatrixQuiet (s t : State) : Prop := MatrixKept { s with mem := t.mem } t

namespace MatrixQuiet

theorem of_kept {s t : State} (kept : MatrixKept s t) : MatrixQuiet s t :=
  ⟨kept.cur, rfl, kept.matrix, kept.vectors, kept.session, kept.alone⟩

theorem trans {s t k : State} (first : MatrixQuiet s t) (next : MatrixQuiet t k) : MatrixQuiet s k :=
  ⟨next.cur.trans first.cur, rfl, next.matrix.trans first.matrix, next.vectors.trans first.vectors, next.session.trans first.session,
    next.alone ∘ first.alone⟩

theorem withMem (s : State) (m : Memory) : MatrixQuiet s { s with mem := m } := .rfl' _

theorem foldl {f : State → Nat → State} (step : ∀ t n, MatrixQuiet t (f t n)) (l : List Nat) (s : State) : MatrixQuiet s (l.foldl f s) := by
  induction l generalizing s with
  | nil => exact .rfl' s
  | cons n l ih => exact (step s n).trans (ih _)

end MatrixQuiet

theorem mem_foldl_clear {f : State → Nat → State} {base : Nat → Nat} {len : Nat}
    (step : ∀ t n, (f t n).mem = Memory.clear t.mem (base n) len) (l : List Nat) (s : State) :
    (l.foldl f s).mem = l.foldl (fun m n => Memory.clear m (base n) len) s.mem := by
  induction l generalizing s with
  | nil => rfl
  | cons n l ih => rw [List.foldl_cons, ih, step]; rfl

theorem slot_setMe {s : State} {k : Core} (slots : k.slots = s.me.slots) : (s.setMe k).slot = s.slot := by
  simp only [State.slot, State.slotAt, State.setMe, State.setCore_cur, State.core_setCore_same, slots, State.me]

/-- An operation entered in the queue keeps the vectors, and the word completed keeps the queue. -/
theorem enqueueOp_retire {s : State} (alone : s.slot.pair = none) (op : MatrixOp) :
    (s.enqueueOp op).retire.me.matrix = s.me.matrix ++ [op] ∧ (s.enqueueOp op).retire.mem = s.mem := by
  have slots : (s.setMe { s.me with matrix := s.me.matrix ++ [op] }).slot = s.slot := slot_setMe rfl
  have entered : MatrixKept (s.setMe { s.me with matrix := s.me.matrix ++ [op] }) (s.enqueueOp op) :=
    State.kept_setSlot rfl rfl fun none_ => by
      dsimp only
      rw [none_]
      rfl
  have done := entered.trans (State.kept_retire (entered.alone (by rw [slots, alone])))
  refine ⟨done.matrix.trans ?_, done.mem⟩
  rw [State.me, State.setMe, State.setCore_cur, State.core_setCore_same]

/-! ### MZERO (R183) -/

section
variable {s : State} (ready : MatrixReady s) (m : BitVec 8)
include ready

/-- The accs of a mask wiped. -/
def wipeAccs (s : State) (m : Nat) : State := (maskedRegs m).foldl (fun t n => t.wipe (accCell s.cur.1 n 0 0) 8192) s

/-- A pacc of a core wiped, with its tag. -/
def wipePacc (c : Nat) (t : State) (n : Nat) : State :=
  (t.wipe (paccCell c n 0 0) 8192).setCore c { t.core c with tags := (t.core c).tags.setIfInBounds n 0 }

/-- The paccs of a mask wiped, with their tags. -/
def wipePaccs (s : State) (m : Nat) : State := (maskedRegs m).foldl (wipePacc s.cur.1) s

omit ready in
theorem mem_maskedRegs {m n : Nat} (set : m / 2 ^ n % 2 = 1) (below : n < 8) : n ∈ maskedRegs m :=
  List.mem_filter.mpr ⟨List.mem_range.mpr below, beq_iff_eq.mpr set⟩

theorem exec_mzero_acc : exec (.mzero 0 m) s = .next ((wipeAccs s m.toNat).enqueueOp { acc := m.toNat, pacc := 0, codebook := none }).retire := by
  rw [exec_mzero, execMzero]
  refine ready.word rfl ?_
  rw [ready.needQueue]
  rfl

theorem exec_mzero_pacc :
    exec (.mzero 1 m) s = .next ((wipePaccs s m.toNat).enqueueOp { acc := 0, pacc := m.toNat, codebook := none }).retire := by
  rw [exec_mzero, execMzero]
  refine ready.word rfl ?_
  rw [ready.needQueue]
  rfl

omit ready in
theorem quiet_wipeAccs (m : Nat) : MatrixQuiet s (wipeAccs s m) := .foldl (fun t _ => .withMem t _) _ _

omit ready in
theorem kept_setTags (t : State) (c : Nat) (x : Vector Nat 8) : MatrixKept t (t.setCore c { t.core c with tags := x }) :=
  State.kept_setCore rfl rfl

omit ready in
theorem quiet_wipePaccs (m : Nat) : MatrixQuiet s (wipePaccs s m) :=
  .foldl (fun t n => (MatrixQuiet.withMem t (t.wipe (paccCell s.cur.1 n 0 0) 8192).mem).trans (.of_kept (kept_setTags _ s.cur.1 _))) _ _

omit ready in
theorem num_wipeAccs (m : Nat) {n i j : Nat} (set : m / 2 ^ n % 2 = 1) (below : n < 8) (row : i < 32) (column : j < 64) :
    (wipeAccs s m).num (accCell s.cur.1 n i j) 4 = 0 := by
  refine num_absent fun e member inside => ?_
  rw [wipeAccs, mem_foldl_clear (base := fun n => accCell s.cur.1 n 0 0) (fun _ _ => rfl)] at member
  refine Memory.foldl_clear_absent _ _ _ _ (mem_maskedRegs set below) e member ?_
  simp only [accCell] at inside ⊢
  omega

omit ready in
theorem num_wipePaccs (m : Nat) {n i j : Nat} (set : m / 2 ^ n % 2 = 1) (below : n < 8) (row : i < 32) (column : j < 64) :
    (wipePaccs s m).num (paccCell s.cur.1 n i j) 4 = 0 := by
  refine num_absent fun e member inside => ?_
  rw [wipePaccs, mem_foldl_clear (base := fun n => paccCell s.cur.1 n 0 0) (fun _ _ => rfl)] at member
  refine Memory.foldl_clear_absent _ _ _ _ (mem_maskedRegs set below) e member ?_
  simp only [paccCell] at inside ⊢
  omega
end

/-! ### MMOV (R184) -/

section
variable {s : State} (ready : MatrixReady s) {d a : Reg} {p h : BitVec 1} {r : BitVec 5}

/-- The cell of a lane of a row of an acc or pacc. -/
def moveCell (c : Nat) (p : BitVec 1) (n : Nat) (r : BitVec 5) (h : BitVec 1) (i : Nat) : Nat :=
  State.tileCell c (p == 1) n r.toNat (32 * h.toNat + i)

/-- The lanes of a half row lie one after another. -/
theorem moveCell_eq (c : Nat) (p : BitVec 1) (n : Nat) (r : BitVec 5) (h : BitVec 1) :
    moveCell c p n r h = fun i => moveCell c p n r h 0 + 4 * i := by
  funext i
  simp only [moveCell, State.tileCell, accCell, paccCell]
  split <;> omega

theorem kept_wakeBanks (rs : List Reg) : MatrixKept s (s.wakeBanks rs) := State.kept_setU (x := s.u.awake rs) rfl rfl

theorem lane_of_vectors {t : State} (same : t.u.v = s.u.v) (q : Reg) (i : Nat) : t.lane q i = s.lane q i := by
  rw [State.lane, State.lane, State.vreg, State.vreg, same]

theorem lane_setLanes_of_lt {t : State} (inSlot : t.cur.2 < 4) (q : Reg) (f : Nat → Option Lane) {i : Nat} (inside : i < 32) :
    (t.setLanes q f).lane q i = (f i).getD (t.lane q i) := by
  have stored : (t.setLanes q f).u = t.u.withLanes q f := State.u_setU t _ inSlot
  rw [State.lane, State.vreg, stored]
  exact Strand.vectorOf_withLanes_same t.u q f inside

section
variable {t : State} (canonical : MemoryCanonical t)
include canonical

theorem canonical_storeNum (c n x : Nat) : MemoryCanonical (t.storeNum c n x) := Memory.wf_puts canonical _ _

theorem num_storeNum_same (c n x : Nat) : (t.storeNum c n x).num c n = x % 256 ^ n := by
  have back := Memory.gets_puts canonical c (leBytes n x)
  rw [length_leBytes] at back
  exact (congrArg leNat back).trans (leNat_leBytes n x)

theorem num_storeNum_other {c n e k : Nat} (x : Nat) (apart : e + k ≤ c ∨ c + n ≤ e) : (t.storeNum c n x).num e k = t.num e k := by
  have length : (leBytes n x).length = n := length_leBytes n x
  refine congrArg leNat ?_
  refine (Memory.gets_eq (canonical_storeNum canonical c n x) e k).trans ((Memory.gets_eq canonical e k).trans ?_).symm
  refine List.map_congr_left fun j inRun => (Memory.get_puts_outside canonical ?_).symm
  have := List.mem_range.mp inRun
  rw [length]
  omega
end

/-- The lanes of a run of cells stored in order: each cell reads what went there (R184). -/
theorem num_storeRow {t : State} (canonical : MemoryCanonical t) (cell : Nat) (x : Nat → Nat) (n : Nat) :
    let k := (List.range n).foldl (fun k i => k.storeNum (cell + 4 * i) 4 (x i)) t
    MemoryCanonical k ∧ ∀ i, i < n → k.num (cell + 4 * i) 4 = x i % 2 ^ 32 := by
  induction n with
  | zero => exact ⟨canonical, fun i below => absurd below (Nat.not_lt_zero i)⟩
  | succ n ih =>
    rw [List.range_succ, List.foldl_append, List.foldl_cons, List.foldl_nil]
    obtain ⟨canonical', stored⟩ := ih
    refine ⟨canonical_storeNum canonical' .., fun i below => ?_⟩
    rcases Nat.lt_succ_iff_lt_or_eq.mp below with earlier | rfl
    · exact (num_storeNum_other canonical' _ (by omega)).trans (stored i earlier)
    · exact num_storeNum_same canonical' ..

/-- A strand with a grant stands in a slot. -/
theorem lt_of_granted (granted : s.u.vregs ≠ 0) : s.cur.2 < 4 := by
  refine Nat.lt_of_not_le fun outside => ?_
  have blank : s.slot = {} := by rw [State.slot, State.slotAt, Vector.getElem?_eq_none outside, Option.getD_none]
  exact granted (by rw [State.u, blank])

section
variable (granted : s.u.vregs ≠ 0) (held : d.toNat < s.u.vregs)
include granted

theorem u_wakeBanks_granted (rs : List Reg) : (s.wakeBanks rs).u = s.u.awake rs := State.u_setU s _ (lt_of_granted granted)

include held

theorem mmovOperands : ensure (s.u.vregs != 0 && decide (d.toNat < s.u.vregs)) .vecUngranted = .ok () := by
  rw [bne_iff_ne.mpr granted, decide_eq_true held]
  rfl

include ready

theorem exec_mmov_load :
    exec (.mmov d a p 0 h r) s = .next ((s.wakeBanks [d]).setLanes d fun i =>
      if i < (s.wakeBanks [d]).u.vlen then some (BitVec.ofNat 32 (s.num (moveCell s.cur.1 p a.toNat r h i) 4)) else none).retire := by
  have unwritten (mask : Nat) : (s.wakeBanks [d]).needWritten mask = .ok () := by
    rw [State.needWritten, (kept_wakeBanks [d]).matrix, ready.queue]
    rfl
  rw [exec_mmov, execMmov]
  refine ready.word (mmovOperands granted held) ?_
  simp only [unwritten, bind, Except.bind]
  rfl

/-- The lanes that MMOV stores, one after another. -/
def storeMoved (t : State) (cell : Nat → Nat) (d : Reg) (l : List Nat) : State :=
  l.foldl (fun k i => k.storeNum (cell i) 4 (k.lane d i).toNat) t

/-- MMOV's state with its lanes stored and, for a pacc, its tag cleared. -/
def mmovStored (s : State) (d : Reg) (p : BitVec 1) (n : Nat) (r : BitVec 5) (h : BitVec 1) : State :=
  let k := storeMoved (s.wakeBanks [d]) (moveCell s.cur.1 p n r h) d (s.wakeBanks [d]).activeLanes
  if p = 1 then k.setMe { k.me with tags := k.me.tags.setIfInBounds n 0 } else k

theorem exec_mmov_store :
    exec (.mmov d a p 1 h r) s = .next ((mmovStored s d p a.toNat r h).enqueueOp (if p = 1 then { acc := 0, pacc := 2 ^ a.toNat, codebook := none }
      else { acc := 2 ^ a.toNat, pacc := 0, codebook := none })).retire := by
  have room : (s.wakeBanks [d]).needQueue = .ok () := by
    rw [State.needQueue, (kept_wakeBanks [d]).matrix, ready.queue]
    exact if_pos (by decide)
  rw [exec_mmov, execMmov]
  refine ready.word (mmovOperands granted held) ?_
  simp only [room, bind, Except.bind]
  rfl

theorem exec_mmov_loads : ∃ t, exec (.mmov d a p 0 h r) s = .next t ∧
    ∀ i, i < s.u.vlen → i < 32 → t.lane d i = BitVec.ofNat 32 (s.num (moveCell s.cur.1 p a.toNat r h i) 4) := by
  refine ⟨_, exec_mmov_load ready granted held, fun i active inside => ?_⟩
  have alone := (kept_wakeBanks [d]).alone ready.pair
  have active' : i < (s.wakeBanks [d]).u.vlen := by rw [u_wakeBanks_granted granted]; exact active
  generalize loaded : (s.wakeBanks [d]).setLanes d _ = t
  have alone' : t.slot.pair = none := by rw [← loaded]; exact (State.pair_setU ..).trans alone
  rw [lane_of_vectors (State.kept_retire alone').vectors, ← loaded,
    lane_setLanes_of_lt (t := s.wakeBanks [d]) (lt_of_granted (s := s) granted :) _ _ inside, if_pos active', Option.getD_some]

omit ready granted held in
theorem storeMoved_eq (t : State) (cell : Nat → Nat) (l : List Nat) :
    storeMoved t cell d l = l.foldl (fun k i => k.storeNum (cell i) 4 (t.lane d i).toNat) t := by
  suffices ∀ k : State, (∀ i, k.lane d i = t.lane d i) →
      l.foldl (fun k i => k.storeNum (cell i) 4 (k.lane d i).toNat) k = l.foldl (fun k i => k.storeNum (cell i) 4 (t.lane d i).toNat) k from
    this t fun _ => rfl
  induction l with
  | nil => exact fun _ _ => rfl
  | cons i l ih =>
    intro k same
    rw [List.foldl_cons, List.foldl_cons, same i]
    exact ih _ same

omit ready granted held in
theorem quiet_mmovStored (n : Nat) : MatrixQuiet s (mmovStored s d p n r h) := by
  have stored : MatrixQuiet s (storeMoved (s.wakeBanks [d]) (moveCell s.cur.1 p n r h) d (s.wakeBanks [d]).activeLanes) :=
    (MatrixQuiet.of_kept (kept_wakeBanks [d])).trans (.foldl (fun t _ => .withMem t _) _ _)
  rw [mmovStored]
  dsimp only
  split
  · exact stored.trans (.of_kept (kept_setTags _ _ _))
  · exact stored

theorem exec_mmov_stores : ∃ t, exec (.mmov d a p 1 h r) s = .next t ∧ t.me.matrix.length = 1 ∧
    (MemoryCanonical s → ∀ i, i < s.u.vlen → i < 32 → t.num (moveCell s.cur.1 p a.toNat r h i) 4 = (s.lane d i).toNat) := by
  have quiet : MatrixQuiet s (mmovStored s d p a.toNat r h) := quiet_mmovStored _
  refine ⟨_, exec_mmov_store ready granted held, ?_, fun canonical i active inside => ?_⟩
  · rw [(enqueueOp_retire (quiet.alone ready.pair) _).1,
      show (mmovStored s d p a.toNat r h).me.matrix = [] from quiet.matrix.trans ready.queue]
    rfl
  · have memory : (mmovStored s d p a.toNat r h).mem =
        (storeMoved (s.wakeBanks [d]) (moveCell s.cur.1 p a.toNat r h) d (s.wakeBanks [d]).activeLanes).mem := by
      rw [mmovStored]
      dsimp only
      split <;> rfl
    have woken : (s.wakeBanks [d]).lane d i = s.lane d i := lane_of_vectors (kept_wakeBanks [d]).vectors d i
    have active' : i < (s.wakeBanks [d]).u.vlen := by rw [u_wakeBanks_granted granted]; exact active
    rw [State.num, State.bytes, (enqueueOp_retire (quiet.alone ready.pair) _).2, memory, storeMoved_eq, ← State.bytes, ← State.num,
      moveCell_eq]
    have stored := (num_storeRow (t := s.wakeBanks [d]) canonical (moveCell s.cur.1 p a.toNat r h 0)
      (fun i => ((s.wakeBanks [d]).lane d i).toNat) _).2 i active'
    exact stored.trans (by rw [woken, Nat.mod_eq_of_lt (s.lane d i).isLt])

end
end

/-! ### Data moves (R185, R186, R190) -/

section
variable {s t : State} (ready : MatrixReady s) {d a b : Reg} {h l p : BitVec 1}
include ready

/-- The state of a load whose issue stage is done: the next ticket of TLM taken, and written to wd. -/
def stageIssued (t : State) (d : Reg) : State :=
  let whole := t.setU { t.u with issue := [] }
  let taken := whole.setMe { whole.me with tlmIssued := whole.me.tlmIssued + 1 }
  (taken.setReg d (whole.me.tlmIssued + 1)).engineIssued taken.u.unit

/-- A data stage left behind on the core. -/
def stageLeft (k : State) (g : DataStage) : State := (k.setMe { k.me with stages := k.me.stages ++ [g] }).finishSteps

/-- The ticket that a load of a strand takes. -/
def nextTicket (t : State) : Word := (t.setU { t.u with issue := [] }).me.tlmIssued + 1

theorem exec_mlda_ready (fields : mldaOperand (s.reg b) = true) (range : s.rowRange a b 0 l = .ok ())
    (issued : s.issueRows a b 0 l 32 = .ok t) :
    exec (.mlda d a b 0 h l) s = .next (stageLeft (stageIssued t d)
      { ticket := nextTicket t, unit := (stageIssued t d).u.unit, job := (stageIssued t d).u.job, half := some h.toNat
        rb := bits (s.reg b) 8 0, nb := bits (s.reg b) 28 24, nr := bits (s.reg b) 20 16 + 1, rows := t.u.issue.map some, offset := 0
        gang := false }) := by
  rw [exec_mlda, execMlda]
  refine ready.word ?_ ?_
  · simp only [State.matOperand_ok fields, range, bind, Except.bind]
  · simp only [State.commitPoint_alone ready.pair, issued, bind, Except.bind]
    rfl

theorem exec_mldb_ready (fields : State.mldbOperands (s.reg a) (s.reg b) = .ok ()) (range : s.pieceRange a b l = .ok ())
    (issued : s.issuePieces a b l 256 = .ok t) :
    exec (.mldb d a b l) s = .next (stageLeft (stageIssued t d)
      { ticket := nextTicket t, unit := (stageIssued t d).u.unit, job := (stageIssued t d).u.job, half := none
        rb := bits (s.reg b) 63 32, nb := 0, nr := 0, rows := [some (t.u.issue.flatMap (·.1), [])], offset := bits (s.reg b) 17 0
        gang := false }) := by
  rw [exec_mldb, execMldb]
  refine ready.word ?_ ?_
  · simp only [fields, range, bind, Except.bind]
  · simp only [State.commitPoint_alone ready.pair, issued, bind, Except.bind]
    rfl

omit ready in
theorem mldbOperands_ok {x w : Word} (fields : (bits w 17 0 % 128 == 0 && bits w 31 18 == 0 && bits w 63 32 % 128 == 0 &&
      decide (128 ≤ bits w 63 32 ∧ bits w 63 32 ≤ 32768)) = true)
    (inside : bits w 17 0 + bits w 63 32 ≤ 262144) (aligned : x.toNat % 16 = 0) : State.mldbOperands x w = .ok () := by
  simp only [State.mldbOperands, State.matOperand_ok fields, State.matOperand_ok (decide_eq_true inside), if_pos aligned, bind, Except.bind]

theorem exec_mstd_ready
    (fields : (bits (s.reg b) 15 0 % 4 == 0 && decide (1 ≤ bits (s.reg b) 30 24 ∧ bits (s.reg b) 30 24 ≤ 64) &&
      bits (s.reg b) 23 21 == 0 && bits (s.reg b) 63 31 == 0) = true)
    (aligned : (s.reg a).toNat % 4 = 0) (range : s.storeRange a b l = .ok ())
    (stored : s.issueStores d a b p l (bits (s.reg b) 20 16 + 1 - s.slot.eprog) = .ok t) :
    exec (.mstd d a b p l) s = .next t.finishSteps := by
  rw [exec_mstd, execMstd]
  refine ready.word ?_ ?_
  · simp only [State.matOperand_ok fields, if_pos aligned, range, bind, Except.bind]
  · simp only [ready.needWritten, stored, bind, Except.bind]
    rfl
end

namespace Laws

/-- Settles O45: the products by their checks, MZERO and MMOV cell by cell, the data moves by their issue stages. -/
theorem matrixWords : Obligations.MatrixWords := by
  unfold Obligations.MatrixWords
  refine ⟨fun s d a h z p f q slot m r ready => ?_, fun s t d a b h l p ready => ?_⟩
  · intro w off k nb a0 c done
    refine ⟨exec_mma_ready ready, exec_mcb_ready ready, ?_, ?_, exec_mwait_idle ready m, ⟨_, exec_mzero_acc ready m, ?_, ?_⟩,
      ⟨_, exec_mzero_pacc ready m, ?_, ?_⟩, ?_⟩
    · exact fun aligned zero23 zero63 fits row inside => exec_mmx_ready ready zero23 fits aligned zero63 row inside
    · exact fun aligned zero23 zero63 fits row inside tags => exec_msca_ready ready zero23 fits aligned zero63 row inside tags
    · have quiet := quiet_wipeAccs (s := s) m.toNat
      rw [(enqueueOp_retire (quiet.alone ready.pair) _).1, show (wipeAccs s m.toNat).me.matrix = [] from quiet.matrix.trans ready.queue]
      rfl
    · intro n i j set below row column
      rw [State.num, State.bytes, (enqueueOp_retire ((quiet_wipeAccs m.toNat).alone ready.pair) _).2, ← State.bytes, ← State.num]
      exact num_wipeAccs m.toNat set below row column
    · have quiet := quiet_wipePaccs (s := s) m.toNat
      rw [(enqueueOp_retire (quiet.alone ready.pair) _).1, show (wipePaccs s m.toNat).me.matrix = [] from quiet.matrix.trans ready.queue]
      rfl
    · intro n i j set below row column
      rw [State.num, State.bytes, (enqueueOp_retire ((quiet_wipePaccs m.toNat).alone ready.pair) _).2, ← State.bytes, ← State.num]
      exact num_wipePaccs m.toNat set below row column
    · intro granted held n
      have same : (n.setWidth 5).toNat = n.toNat := by
        rw [BitVec.toNat_setWidth, Nat.mod_eq_of_lt (by omega)]
      have loads := exec_mmov_loads ready granted held (a := n.setWidth 5) (p := p) (h := h) (r := r)
      have stores := exec_mmov_stores ready granted held (a := n.setWidth 5) (p := p) (h := h) (r := r)
      rw [same] at loads stores
      exact ⟨loads, stores⟩
  · intro w steps whole ticket taken issued staged
    refine ⟨?_, ?_, ?_⟩
    · intro least most scales zero15 zero23 zero63 range rows
      exact exec_mlda_ready ready (by simp [mldaOperand, w, least, most, scales, zero15, zero23, zero63]) range rows
    · intro aligned zero31 length least most inside pointer range pieces
      exact exec_mldb_ready ready (mldbOperands_ok (by simp [w, aligned, zero31, length, least, most]) inside pointer) range pieces
    · intro stride least most zero23 zero63 aligned range stored
      exact exec_mstd_ready ready (by simp [w, stride, least, most, zero23, zero63]) aligned range stored

end Laws

end Sys2Proof.Machine
end

section
/-!
PROOFS. A product of MMA element by element (R62 to R64, R187).
-/

namespace Sys2Proof.Machine

/-! ### Operands as arrays -/

theorem pickOf_operand {α : Type} {n k : Nat} (f : Nat → Nat → α) (d : α) {i e : Nat} (row : i < n) (column : e < k) :
    pickOf (operand n k f) d i e = f i e := by
  simp [pickOf, operand, row, column]

theorem getD_aRows (s : State) (c h : Nat) {i : Nat} (row : i < 32) : (s.aRows c h).getD i 0 = s.num (halfCell c h i 0) 256 := by
  simp [State.aRows, State.aRow, row]

/-- Bytes in fours are little-endian numbers. -/
theorem quads_map_range (g : Nat → Byte) (n : Nat) :
    quads ((List.range (4 * n)).map g) = (List.range n).map fun q => leNat ((List.range 4).map fun b => g (4 * q + b)) := by
  induction n generalizing g with
  | zero => rfl
  | succ n ih =>
    have head : (List.range (4 * (n + 1))).map g = g 0 :: g 1 :: g 2 :: g 3 :: (List.range (4 * n)).map fun i => g (i + 4) := by
      rw [show 4 * (n + 1) = 4 * n + 1 + 1 + 1 + 1 by omega]
      simp only [List.range_succ_eq_map, List.map_cons, List.map_map, List.cons.injEq, true_and]
      rfl
    rw [head, quads, ih, List.range_succ_eq_map (n := n), List.map_cons, List.map_map]
    refine congrArg (List.cons _) (List.map_congr_left fun q _ => congrArg leNat (List.map_congr_left fun b _ => ?_))
    exact congrArg g (by simp only [Nat.succ_eq_add_one]; omega)

theorem getD_tile {s : State} (canonical : MemoryCanonical s) (cell : Nat) {q : Nat} (inside : q < 2048) :
    (s.tile cell).getD q 0 = s.num (cell + 4 * q) 4 := by
  have bytes : s.bytes cell 8192 = (List.range (4 * 2048)).map fun i => Memory.get s.mem (cell + i) := Memory.gets_eq canonical cell 8192
  have element : s.num (cell + 4 * q) 4 = leNat ((List.range 4).map fun b => Memory.get s.mem (cell + (4 * q + b))) := by
    rw [State.num, State.bytes, Memory.gets_eq canonical]
    simp only [Nat.add_assoc]
  rw [State.tile, bytes, quads_map_range, element, Array.getD_eq_getD_getElem?, List.getElem?_toArray, List.getElem?_map,
    List.getElem?_range inside]
  rfl

/-! ### A tile stored -/

/-- Block `i` of blocks of one length laid one after another. -/
theorem take_drop_flatMap_range {α : Type} (g : Nat → List α) {len : Nat} (length : ∀ i, (g i).length = len) {n i : Nat} (inside : i < n) :
    (((List.range n).flatMap g).drop (len * i)).take len = g i := by
  induction n generalizing g i with
  | zero => omega
  | succ n ih =>
    rw [List.range_succ_eq_map, List.flatMap_cons, List.flatMap_map]
    cases i with
    | zero => rw [Nat.mul_zero, List.drop_zero, ← length 0, List.take_left]
    | succ i =>
      rw [show len * (i + 1) = (g 0).length + len * i by rw [length 0, Nat.mul_succ, Nat.add_comm], ← List.drop_drop, List.drop_left]
      exact ih (fun i => g (i + 1)) (fun i => length (i + 1)) (Nat.lt_of_succ_lt_succ inside)

theorem length_flatMap_range {α : Type} (g : Nat → List α) {len : Nat} (length : ∀ i, (g i).length = len) (n : Nat) :
    ((List.range n).flatMap g).length = n * len := by
  simp only [List.length_flatMap, length, List.map_const', List.length_range, List.sum_replicate_nat]

/-- A run stored, read back in part. -/
theorem num_store_part {s : State} (canonical : MemoryCanonical s) (cell : Nat) (bs : List Byte) {off n : Nat} (inside : off + n ≤ bs.length) :
    (s.store cell bs).num (cell + off) n = leNat ((bs.drop off).take n) := by
  refine congrArg leNat ((Memory.gets_eq (Memory.wf_puts canonical _ _) _ _).trans (List.ext_getElem (by simp; omega) fun b low high => ?_))
  have below : b < n := by simpa using low
  rw [List.getElem_map, List.getElem_range, Memory.get_puts_inside canonical (by omega) (by omega), List.getElem_take, List.getElem_drop,
    show cell + off + b - cell = off + b by omega, List.getD_eq_getElem?_getD, List.getElem?_eq_getElem (by omega), Option.getD_some]

/-- The bytes of a tile. -/
def tileBytes (f : Nat → Nat → Nat) : List Byte := (List.range 32).flatMap fun i => (List.range 64).flatMap fun j => leBytes 4 (f i j)

section
variable (f : Nat → Nat → Nat)

theorem length_tileRow (i : Nat) : ((List.range 64).flatMap fun j => leBytes 4 (f i j)).length = 256 :=
  length_flatMap_range _ (fun _ => length_leBytes 4 _) 64

theorem length_tileBytes : (tileBytes f).length = 8192 := length_flatMap_range _ (length_tileRow f) 32

theorem tileBytes_element {i j : Nat} (row : i < 32) (column : j < 64) :
    ((tileBytes f).drop (256 * i + 4 * j)).take 4 = leBytes 4 (f i j) := by
  have inRow : (((tileBytes f).drop (256 * i)).take 256).drop (4 * j) = ((tileBytes f).drop (256 * i + 4 * j)).take (256 - 4 * j) := by
    rw [List.drop_take, List.drop_drop]
  have four : ((tileBytes f).drop (256 * i + 4 * j)).take 4 = (((tileBytes f).drop (256 * i + 4 * j)).take (256 - 4 * j)).take 4 := by
    rw [List.take_take, Nat.min_eq_left (by omega)]
  rw [four, ← inRow, tileBytes, take_drop_flatMap_range _ (length_tileRow f) row]
  exact take_drop_flatMap_range _ (fun _ => length_leBytes 4 _) column

variable {s : State} (canonical : MemoryCanonical s) (cell : Nat)
include canonical

theorem num_storeTile {i j : Nat} (row : i < 32) (column : j < 64) :
    (s.storeTile cell f).num (cell + (256 * i + 4 * j)) 4 = f i j % 2 ^ 32 := by
  refine (num_store_part canonical cell (tileBytes f) (by rw [length_tileBytes]; omega)).trans ?_
  exact (congrArg leNat (tileBytes_element f row column)).trans (leNat_leBytes 4 _)

theorem byte_storeTile {e : Nat} (outside : ¬(cell ≤ e ∧ e < cell + 8192)) : (s.storeTile cell f).byte e = s.byte e :=
  Memory.get_puts_outside canonical (by
    have length : (tileBytes f).length = 8192 := length_tileBytes f
    rw [← tileBytes, length]
    omega)
end

/-! ### Sums over the steps of a product -/

theorem foldl_congr_of_mem {α β : Type} {f g : α → β → α} {l : List β} (a : α) (same : ∀ a, ∀ b ∈ l, f a b = g a b) :
    l.foldl f a = l.foldl g a := by
  induction l generalizing a with
  | nil => rfl
  | cons b l ih =>
    rw [List.foldl_cons, List.foldl_cons, same a b (List.mem_cons_self ..)]
    exact ih _ fun a b member => same a b (List.mem_cons_of_mem _ member)

theorem intSum_congr {k : Nat} {a b a' b' : Nat → Int} (same : ∀ e, e < k → a e = a' e ∧ b e = b' e) (acc : Nat) :
    intSum k a b acc = intSum k a' b' acc := by
  have sums : (List.range k).foldl (fun t i => t + a i * b i) 0 = (List.range k).foldl (fun t i => t + a' i * b' i) 0 :=
    foldl_congr_of_mem _ fun t i member => by
      rw [(same i (List.mem_range.mp member)).1, (same i (List.mem_range.mp member)).2]
  rw [intSum, intSum, sums]

theorem floatSum_congr {group groups : Nat} {a b a' b' : Nat → FVal} (same : ∀ e, e < groups * group → a e = a' e ∧ b e = b' e) (acc : Nat) :
    floatSum group groups a b acc = floatSum group groups a' b' acc := by
  refine foldl_congr_of_mem _ fun t g member => congrArg (accumulate t ∘ groupSum) (List.map_congr_left fun u inGroup => ?_)
  have below : g * group + u < groups * group := by
    have hg := List.mem_range.mp member
    have hu := List.mem_range.mp inGroup
    calc g * group + u < g * group + group := by omega
      _ = (g + 1) * group := (Nat.succ_mul g group).symm
      _ ≤ groups * group := Nat.mul_le_mul_right _ hg
  rw [(same _ below).1, (same _ below).2]

theorem accCell_eq (c n i j : Nat) : accCell c n i j = accCell c n 0 0 + (256 * i + 4 * j) := by
  simp only [accCell]
  omega


/-! ### The product (R62, R64, R187) -/

/-- The value of a row of A at a step of a product. -/
def aStep (s : State) (c h w i e : Nat) : Nat := packed w (s.num (halfCell c h i 0) 256) e

/-- The value of a column of B at a step of a product. -/
def bStep (s : State) (c : Nat) (z : Bool) (w off k j e : Nat) : Nat := bValue (s.bRuns c z w off k) z w e j

section
variable {s : State} (canonical : MemoryCanonical s) (c n h off k : Nat) (z : Bool) {f : Nat}
include canonical

theorem byte_mmaEffect {e : Nat} (outside : ¬(accCell c n 0 0 ≤ e ∧ e < accCell c n 0 0 + 8192)) :
    (s.mmaEffect c n h off k z f).byte e = s.byte e := by
  by_cases integer : f = 3
  · simp only [State.mmaEffect, if_pos integer]
    exact byte_storeTile _ canonical _ outside
  · simp only [State.mmaEffect, if_neg integer]
    exact byte_storeTile _ canonical _ outside

variable {i j : Nat} (row : i < 32) (column : j < 64)
include row column

/-- The element's old value as the product reads it. -/
theorem getD_accTile : (s.tile (accCell c n 0 0)).getD (i * 64 + j) 0 = s.num (accCell c n i j) 4 := by
  rw [getD_tile canonical _ (by omega), accCell_eq c n i j]
  exact congrArg (s.num · 4) (by omega)

theorem num_mmaEffect_integer :
    (s.mmaEffect c n h off k z 3).num (accCell c n i j) 4 =
      intSum k (fun e => (BitVec.ofNat 8 (aStep s c h 8 i e)).toInt) (fun e => (BitVec.ofNat 8 (bStep s c z 8 off k j e)).toInt)
        (s.num (accCell c n i j) 4) % 2 ^ 32 := by
  rw [accCell_eq c n i j]
  simp only [State.mmaEffect, if_true]
  rw [num_storeTile _ canonical _ row column, getD_accTile canonical c n row column, ← accCell_eq]
  refine congrArg (· % 2 ^ 32) (intSum_congr (fun e step => ⟨?_, ?_⟩) _)
  · rw [pickOf_operand _ _ row step, getD_aRows s c h row]
    rfl
  · rw [pickOf_operand _ _ column step]
    rfl

theorem num_mmaEffect_float (float : f ≠ 3) :
    (s.mmaEffect c n h off k z f).num (accCell c n i j) 4 =
      floatSum (mmaShape f).2.1 (k / (mmaShape f).2.1) (fun e => (mmaFormat f).read (aStep s c h (mmaShape f).1 i e))
        (fun e => (mmaFormat f).read (bStep s c z (mmaShape f).1 off k j e)) (s.num (accCell c n i j) 4) % 2 ^ 32 := by
  rw [accCell_eq c n i j]
  simp only [State.mmaEffect, if_neg float]
  rw [num_storeTile _ canonical _ row column, getD_accTile canonical c n row column, ← accCell_eq]
  refine congrArg (· % 2 ^ 32) (floatSum_congr (fun e step => ?_) _)
  have inside : e < k := Nat.lt_of_lt_of_le step (Nat.div_mul_le_self ..)
  refine ⟨?_, ?_⟩
  · rw [pickOf_operand _ _ row inside, getD_aRows s c h row]
    rfl
  · rw [pickOf_operand _ _ column inside]
    rfl
end

namespace Laws

/-- Settles O46: the stored tile element by element, its operands as arrays. -/
theorem matrixProduct : Obligations.MatrixProduct := by
  unfold Obligations.MatrixProduct
  intro s c n h off k z f canonical _ _ _ t w group avalue bvalue
  refine ⟨fun i j row column => ?_, fun e outside => byte_mmaEffect canonical c n h off k z outside⟩
  by_cases integer : f = 3
  · subst integer
    rw [if_pos rfl]
    exact num_mmaEffect_integer canonical c n h off k z row column
  · rw [if_neg integer]
    exact num_mmaEffect_float canonical c n h off k z row column integer

end Laws

end Sys2Proof.Machine
end

section
/-!
PROOFS. The commands of a submission queue (R307 to R311, R344, R348).
-/

namespace Sys2Proof.Machine

/-- The next slot of a queue may be accepted: its job is there, the slot has been read with a header in order, nothing bars it, and HEAD's
page is writable. -/
structure CommandReady (s t u : State) (j : Job) (bs : List Byte) : Prop where
  job : AMap.get? (s.settleQueue s.ev.queue).jobs s.ev.queue = some j
  may : (s.settleQueue s.ev.queue).mayAccept s.ev.queue = true
  slot : (s.settleQueue s.ev.queue).queueRead s.ev.queue j (State.queueSlot j) 64 = (some bs, t)
  header : State.headerOk j bs = true
  barrier : State.field bs 0 8 8 = 0 ∨ t.earlierDone s.ev.queue = true
  head : t.queueWrite s.ev.queue j (State.queueField j 128) (leBytes 8 j.head.toNat) = (true, u)
  ev : u.ev = s.ev

/-- HEAD gone on behind an accepted command, and what the queue has pending settled. -/
def State.headOn (v : State) (q : Nat) (j : Job) : State :=
  ((v.mapJob q fun j => { j with head := j.head + 1, fault := none }).queueWrite q j (State.queueField j 128)
    (leBytes 8 (j.head + 1).toNat)).2.settleQueue q

theorem acceptNext_absent {s : State} {q : Nat} (absent : AMap.get? (s.settleQueue q).jobs q = none) (code : Nat)
    (body : Job → List Byte → State → State.Verdict) : s.acceptNext q code body = s.settleQueue q := by
  simp only [State.acceptNext, absent]

section
variable {s t u : State} {j : Job} {bs : List Byte} (ready : CommandReady s t u j bs) {code : Nat}
  (command : State.field bs 0 7 0 = code) {body : Job → List Byte → State → State.Verdict}
include ready command

/-- What is done with the slot is what its body says. -/
theorem acceptNext_ready : s.acceptNext s.ev.queue code body = match body j bs u with
    | .bad code => u.badSlot s.ev.queue code
    | .held k => k
    | .accepted k => k.headOn s.ev.queue j := by
  obtain ⟨job, may, slot, header, barrier, head, ev⟩ := ready
  have free : ¬(State.field bs 0 8 8 = 1 ∧ (!t.earlierDone s.ev.queue) = true) := by
    rintro ⟨one, undone⟩
    rcases barrier with zero | done
    · omega
    · rw [done] at undone
      exact Bool.noConfusion undone
  simp only [State.acceptNext, job, may, slot, header, command, if_neg free, head, ne_eq, not_true_eq_false, if_false, Bool.not_true,
    Bool.false_eq_true] <;> rfl

theorem acceptNext_bad {n : Nat} (bad : body j bs u = .bad n) : s.acceptNext s.ev.queue code body = u.badSlot s.ev.queue n := by
  rw [acceptNext_ready ready command, bad]

theorem acceptNext_held {k : State} (held : body j bs u = .held k) : s.acceptNext s.ev.queue code body = k := by
  rw [acceptNext_ready ready command, held]

theorem acceptNext_accepted {k : State} (accepted : body j bs u = .accepted k) :
    s.acceptNext s.ev.queue code body = k.headOn s.ev.queue j := by
  rw [acceptNext_ready ready command, accepted]
end

section
variable {s t u : State} {j : Job} {bs : List Byte} (ready : CommandReady s t u j bs)
include ready

theorem exec_nopCommand_ready (command : State.field bs 0 7 0 = 0) :
    exec .nopCommand s = .next (if State.zeroBytes bs 8 64 = true then
      (u.advance? (State.headerCounter j bs) false).headOn s.ev.queue j else u.badSlot s.ev.queue 2) := by
  rw [exec_nopCommand, execNopCommand]
  by_cases zero : State.zeroBytes bs 8 64 = true
  · rw [if_pos zero]
    exact congrArg _ (acceptNext_accepted ready command (if_pos zero))
  · rw [if_neg zero]
    exact congrArg _ (acceptNext_bad ready command (if_neg zero))

section
variable (command : State.field bs 0 7 0 = 1)
include command

theorem exec_launchCommand_bad (bad : u.descriptor? s.ev.queue { j with windowSize := 4096 } bs = none) :
    exec .launchCommand s = .next (u.badSlot s.ev.queue 3) := by
  rw [exec_launchCommand, execLaunchCommand]
  refine congrArg _ (acceptNext_bad ready command ?_)
  dsimp only
  rw [ready.ev, bad]
  rfl

section
variable {d l : Launch} (wide : u.descriptor? s.ev.queue { j with windowSize := 4096 } bs = some d)
  (inWindow : u.descriptor? s.ev.queue j bs = some l)
include wide inWindow

theorem exec_launchCommand_held (full : u.placeLaunch (dieOf j.dispatcher) l = none) : exec .launchCommand s = .next u := by
  rw [exec_launchCommand, execLaunchCommand]
  refine congrArg _ (acceptNext_held ready command ?_)
  simp only [ready.ev, wide, inWindow, full, Option.isNone_some, Bool.false_eq_true, if_false]

theorem exec_launchCommand_placed {n : Nat} {v : State} (placed : u.placeLaunch (dieOf j.dispatcher) l = some (n, v)) :
    exec .launchCommand s = .next (v.headOn s.ev.queue j) := by
  rw [exec_launchCommand, execLaunchCommand]
  refine congrArg _ (acceptNext_accepted ready command ?_)
  simp only [ready.ev, wide, inWindow, placed, Option.isNone_some, Bool.false_eq_true, if_false]
end
end

section
variable (command : State.field bs 0 7 0 = 2)
include command

theorem exec_graph_count (bad : State.field bs 8 63 0 = 0 ∨ 1024 < State.field bs 8 63 0) :
    exec .graph s = .next (u.badSlot s.ev.queue 2) := by
  rw [exec_graph, execGraph]
  exact congrArg _ (acceptNext_bad ready command (if_pos (by omega)))

/-- The address and the count of a GRAPH's body in order. -/
structure GraphFields (bs : List Byte) : Prop where
  least : 1 ≤ State.field bs 8 63 0
  most : State.field bs 8 63 0 ≤ 1024
  zero : State.zeroBytes bs 24 64 = true
  aligned : (BitVec.ofNat 64 (State.field bs 16 63 0)).toNat % 128 = 0
  low : canonical (BitVec.ofNat 64 (State.field bs 16 63 0)) = true
  high : canonical (BitVec.ofNat 64 (State.field bs 16 63 0) + BitVec.ofNat 64 (128 * State.field bs 8 63 0 - 1)) = true

variable (fields : GraphFields bs)
include fields

theorem exec_graph_noInstance (none_ : u.freeInstance = none) : exec .graph s = .next u := by
  obtain ⟨least, most, zero, aligned, low, high⟩ := fields
  rw [exec_graph, execGraph]
  refine congrArg _ (acceptNext_held ready command ?_)
  rw [if_neg (by simp only [zero, Bool.not_true, Bool.false_eq_true, or_false]; omega),
    if_neg (by simp only [aligned, low, high, ne_eq, not_true_eq_false, Bool.not_true, Bool.false_eq_true, or_self, not_false_eq_true]),
    none_]

/-- The graph of an accepted GRAPH. -/
def graphOf (q : Nat) (j : Job) (bs : List Byte) (c : Nat) : Graph :=
  { job := q, phase := j.phase, counter := State.headerCounter j bs, inst := c, launches := [], count := State.field bs 8 63 0 }

theorem exec_graph_taken {c : Nat} {ns : List Byte} {v : State} {ls : List Launch} (free : u.freeInstance = some c)
    (room : (u.die (dieOf j.dispatcher)).pool.length < 256)
    (read : u.queueRead s.ev.queue j (BitVec.ofNat 64 (State.field bs 16 63 0)) (128 * State.field bs 8 63 0) = (some ns, v))
    (nodes : v.nodes? s.ev.queue j v.nextId ns (State.field bs 8 63 0) = .ok ls) :
    exec .graph s = .next (((({ v with
      nextId := v.nextId + 1
      graphs := AMap.set v.graphs v.nextId (graphOf s.ev.queue j bs c)
      counters := AMap.set v.counters c {} } : State).mapJob s.ev.queue fun j => { j with unplaced := ls })).headOn s.ev.queue j) := by
  obtain ⟨least, most, zero, aligned, low, high⟩ := fields
  rw [exec_graph, execGraph]
  refine congrArg _ (acceptNext_accepted ready command ?_)
  rw [if_neg (by simp only [zero, Bool.not_true, Bool.false_eq_true, or_false]; omega),
    if_neg (by simp only [aligned, low, high, ne_eq, not_true_eq_false, Bool.not_true, Bool.false_eq_true, or_self, not_false_eq_true]),
    free]
  dsimp only
  rw [if_neg (Nat.not_le_of_lt room), ready.ev, read]
  dsimp only
  rw [nodes]
  rfl
end

section
variable (command : State.field bs 0 7 0 = 3)
include command

theorem exec_waitcnt_beyond (beyond : State.windowCounter j (State.field bs 8 63 0) = none) :
    exec .waitcnt s = .next (u.badSlot s.ev.queue 2) := by
  rw [exec_waitcnt, execWaitcnt]
  refine congrArg _ (acceptNext_bad ready command ?_)
  rw [execWaitcnt.windowCounterOf, beyond]

theorem exec_waitcnt_holds {c : Nat} (own : State.windowCounter j (State.field bs 8 63 0) = some c) (zero63 : State.field bs 16 63 32 = 0)
    (zero : State.zeroBytes bs 24 64 = true) :
    exec .waitcnt s = .next ((u.mapJob s.ev.queue fun x => { x with
      hold := .counter c (BitVec.ofNat 32 (State.field bs 16 31 0)) (State.headerCounter j bs) }).headOn s.ev.queue j) := by
  rw [exec_waitcnt, execWaitcnt]
  refine congrArg _ (acceptNext_accepted ready command ?_)
  rw [execWaitcnt.windowCounterOf, own]
  dsimp only
  rw [if_neg (by simp [zero63, zero]), ready.ev]
end

section
variable (command : State.field bs 0 7 0 = 4) (zero63 : State.field bs 24 63 1 = 0) (zero : State.zeroBytes bs 32 64 = true)
include command zero63 zero

theorem exec_signal_misaligned (misaligned : (BitVec.ofNat 64 (State.field bs 8 63 0)).toNat % 8 ≠ 0) :
    exec .signal s = .next (u.badSlot s.ev.queue 4) := by
  rw [exec_signal, execSignal]
  refine congrArg _ (acceptNext_bad ready command ?_)
  rw [if_neg (by simp [zero63, zero]), if_pos (.inl misaligned)]

theorem exec_signal_holds (aligned : (BitVec.ofNat 64 (State.field bs 8 63 0)).toNat % 8 = 0)
    (place : canonical (BitVec.ofNat 64 (State.field bs 8 63 0)) = true) :
    exec .signal s = .next ((u.mapJob s.ev.queue fun x => { x with
      hold := .signal (BitVec.ofNat 64 (State.field bs 8 63 0)) (BitVec.ofNat 64 (State.field bs 16 63 0)) (State.field bs 24 0 0 == 1)
        (State.headerCounter j bs) }).headOn s.ev.queue j) := by
  rw [exec_signal, execSignal]
  refine congrArg _ (acceptNext_accepted ready command ?_)
  rw [if_neg (by simp [zero63, zero]),
    if_neg (by simp only [aligned, place, ne_eq, not_true_eq_false, Bool.not_true, Bool.false_eq_true, or_self, not_false_eq_true]),
    ready.ev]
end

/-- A queue's phase closed, the next begun. -/
def closePhase (counter : Option Nat) (x : Job) : Job :=
  { x with
    phases := AMap.set (AMap.set x.phases x.phase { AMap.getD x.phases x.phase {} with closed := true, counter }) (x.phase + 1) {}
    phase := x.phase + 1 }

theorem exec_phaseCommand_ready (command : State.field bs 0 7 0 = 5) :
    exec .phaseCommand s = .next (if State.zeroBytes bs 8 64 = true then
      (u.mapJob s.ev.queue (closePhase (State.headerCounter j bs))).headOn s.ev.queue j else u.badSlot s.ev.queue 2) := by
  rw [exec_phaseCommand, execPhaseCommand]
  by_cases zero : State.zeroBytes bs 8 64 = true
  · rw [if_pos zero]
    refine congrArg _ (acceptNext_accepted ready command ?_)
    rw [if_neg (by simp [zero]), ready.ev]
    rfl
  · rw [if_neg zero]
    exact congrArg _ (acceptNext_bad ready command (if_pos (by simpa using zero)))

section
variable (command : State.field bs 0 7 0 = 6)
include command

theorem exec_cancelCommand_job (zero : State.zeroBytes bs 24 64 = true) (level : State.field bs 8 63 0 = 5) :
    exec .cancelCommand s = .next (((u.advance? (State.headerCounter j bs) false).cancelJob s.ev.queue).headOn s.ev.queue j) := by
  rw [exec_cancelCommand, execCancelCommand]
  refine congrArg _ (acceptNext_accepted ready command ?_)
  simp only [level, zero, if_true, Bool.not_true, Bool.false_eq_true, or_false, ready.ev]
  rfl

variable (least : 1 ≤ State.field bs 8 63 0) (most : State.field bs 8 63 0 ≤ 4)
include least most

theorem exec_cancelCommand_beyond (beyond : State.windowCounter j (State.field bs 16 63 0) = none) :
    exec .cancelCommand s = .next (u.badSlot s.ev.queue 2) := by
  rw [exec_cancelCommand, execCancelCommand]
  refine congrArg _ (acceptNext_bad ready command ?_)
  dsimp only
  rw [if_neg (by omega), beyond]

theorem exec_cancelCommand_level (zero : State.zeroBytes bs 24 64 = true) {c : Nat}
    (own : State.windowCounter j (State.field bs 16 63 0) = some c) :
    exec .cancelCommand s = .next
      (((u.advance? (State.headerCounter j bs) false).cancelLevel s.ev.queue (State.field bs 8 63 0) c).headOn s.ev.queue j) := by
  rw [exec_cancelCommand, execCancelCommand]
  refine congrArg _ (acceptNext_accepted ready command ?_)
  dsimp only
  rw [if_neg (by omega), own]
  dsimp only
  rw [if_neg (by simp only [zero, Bool.not_true, Bool.false_eq_true, or_false]; omega), ready.ev]
end
end

namespace Laws

/-- Settles O51: a queue whose job has gone, then each command by its code and its body. -/
theorem commands : Obligations.Commands := by
  unfold Obligations.Commands
  intro s t u j bs q k f counter done
  refine ⟨fun absent i listed => ?_, fun job may slot header barrier head ev => ?_⟩
  · have accept (code : Nat) (body : Job → List Byte → State → State.Verdict) : s.acceptNext s.ev.queue code body = k :=
      acceptNext_absent absent code body
    simp only [List.mem_cons, List.not_mem_nil, or_false] at listed
    rcases listed with rfl | rfl | rfl | rfl | rfl | rfl | rfl
    · exact congrArg _ (accept ..)
    · exact congrArg _ (accept ..)
    · exact congrArg _ (accept ..)
    · exact congrArg _ (accept ..)
    · exact congrArg _ (accept ..)
    · exact congrArg _ (accept ..)
    · exact congrArg _ (accept ..)
  · have ready : CommandReady s t u j bs := ⟨job, may, slot, header, barrier, head, ev⟩
    refine ⟨fun command => ?_, fun command => ⟨exec_launchCommand_bad ready command, fun d l wide inWindow =>
      ⟨exec_launchCommand_held ready command wide inWindow, fun n v => exec_launchCommand_placed ready command wide inWindow⟩⟩,
      fun command => ⟨exec_graph_count ready command, ?_⟩, fun command => ⟨exec_waitcnt_beyond ready command,
        fun c => exec_waitcnt_holds ready command⟩, fun command zero63 zero => ?_, fun command => ?_, fun command zero => ?_⟩
    · rw [exec_nopCommand_ready ready command]
      split <;> rfl
    · intro least most zero a aligned low high
      have fields : GraphFields bs := ⟨least, most, zero, aligned, low, high⟩
      refine ⟨exec_graph_noInstance ready command fields, ?_⟩
      intro c ns v ls free room read nodes
      exact exec_graph_taken ready command fields free room read nodes
    · exact ⟨exec_signal_misaligned ready command zero63 zero, exec_signal_holds ready command zero63 zero⟩
    · rw [exec_phaseCommand_ready ready command]
      split <;> rfl
    · exact ⟨exec_cancelCommand_job ready command zero, fun least most =>
        ⟨exec_cancelCommand_beyond ready command least most, fun c => exec_cancelCommand_level ready command least most zero⟩⟩

end Laws

end Sys2Proof.Machine
end

section
/-!
PROOFS. The requests of the management ring (R395 to R397, R408, R217, R419).
-/

namespace Sys2Proof.Machine

namespace State

theorem serveRequest_none {s : State} (none_ : s.request = none) (op : Nat) (f : List Byte → State → State) : s.serveRequest op f = s := by
  rw [serveRequest, none_]

theorem serveRequest_held {s : State} (held : s.bezel.released = false) (op : Nat) (f : List Byte → State → State) :
    s.serveRequest op f = s := by
  rw [serveRequest]
  cases s.request with
  | none => rfl
  | some bs => simp only [held, Bool.false_and, Bool.false_eq_true, if_false]

theorem yieldFreeze_none {s : State} (none_ : s.request = none) : s.yieldFreeze = s := by
  rw [yieldFreeze, none_]

theorem jobs_latch (s : State) (c i : Nat) (l : Latched) : (s.latch c i l).jobs = s.jobs := by
  simp only [latch]
  split <;> rfl

theorem jobs_latchCore (s : State) (c : Nat) (l : Latched) : (s.latchCore c l).jobs = s.jobs := by
  simp only [latchCore]
  split
  · exact jobs_latch ..
  · split
    · exact jobs_latch ..
    · rfl

theorem jobs_foldl_latchCore (cs : List Nat) (l : Latched) (s : State) : (cs.foldl (fun k c => k.latchCore c l) s).jobs = s.jobs := by
  induction cs generalizing s with
  | nil => rfl
  | cons c cs ih => rw [List.foldl_cons, ih, jobs_latchCore]

section
variable {s : State} {bs : List Byte} (asked : s.request = some bs) (released : s.bezel.released = true)
include asked released

theorem serveRequest_served {op : Nat} (same : opOf bs = op) (f : List Byte → State → State) : s.serveRequest op f = f bs s := by
  rw [serveRequest, asked]
  exact if_pos (by rw [released, same]; exact beq_self_eq_true op)
end

end State

/-! ### Nothing to serve -/

section
variable {s : State}

theorem exec_management_none (none_ : s.request = none) : ∀ i ∈ [Instr.register, .teardown, .freeze, .resume, .spanRegion, .fwUpdate,
    .spanJoin, .faultq, .unknownManagementOp], exec i s = .next s := by
  intro i listed
  simp only [List.mem_cons, List.not_mem_nil, or_false] at listed
  rcases listed with rfl | rfl | rfl | rfl | rfl | rfl | rfl | rfl | rfl
  · exact congrArg _ (State.serveRequest_none none_ ..)
  · exact (congrArg (fun k : State => Host.Outcome.next (k.serveRequest 2 _)) (State.yieldFreeze_none none_)).trans
      (congrArg _ (State.serveRequest_none none_ ..))
  · exact congrArg _ (State.serveRequest_none none_ ..)
  · exact congrArg _ (State.serveRequest_none none_ ..)
  · exact congrArg _ (State.serveRequest_none none_ ..)
  · exact congrArg _ (State.serveRequest_none none_ ..)
  · exact congrArg _ (State.serveRequest_none none_ ..)
  · exact congrArg _ (State.serveRequest_none none_ ..)
  · rw [exec_unknownManagementOp, execUnknownManagementOp, none_]

theorem exec_management_held (held : s.bezel.released = false) : ∀ i ∈ [Instr.register, .freeze, .resume, .spanRegion, .fwUpdate,
    .spanJoin, .faultq, .unknownManagementOp], exec i s = .next s := by
  intro i listed
  simp only [List.mem_cons, List.not_mem_nil, or_false] at listed
  rcases listed with rfl | rfl | rfl | rfl | rfl | rfl | rfl | rfl
  · exact congrArg _ (State.serveRequest_held held ..)
  · exact congrArg _ (State.serveRequest_held held ..)
  · exact congrArg _ (State.serveRequest_held held ..)
  · exact congrArg _ (State.serveRequest_held held ..)
  · exact congrArg _ (State.serveRequest_held held ..)
  · exact congrArg _ (State.serveRequest_held held ..)
  · exact congrArg _ (State.serveRequest_held held ..)
  · rw [exec_unknownManagementOp, execUnknownManagementOp]
    cases s.request with
    | none => rfl
    | some bs => simp only [held, Bool.not_false, true_or, if_true]

theorem exec_drainComplete_absent (absent : AMap.get? s.jobs s.ev.queue = none) : exec .drainComplete s = .next s := by
  rw [exec_drainComplete, execDrainComplete, absent]
  rfl

theorem exec_drainComplete_image {j : Job} {place : Nat × Nat × Nat} (job : AMap.get? s.jobs s.ev.queue = some j)
    (image : j.image = some place) :
    exec .drainComplete s = .next (if s.drainDone s.ev.queue = true then s.finishFreeze s.ev.queue place else s) := by
  rw [exec_drainComplete, execDrainComplete, job, Option.bind_some, image]

theorem exec_sidebandRegisterWrite_locked (locked : s.spdm.locked = true) : exec .sidebandRegisterWrite s = .next s := by
  rw [exec_sidebandRegisterWrite, execSidebandRegisterWrite, if_pos locked]

section
variable (unlocked : s.spdm.locked = false)
include unlocked

theorem exec_sidebandRegisterWrite_base (kind : s.ev.kind = 0) :
    exec .sidebandRegisterWrite s = .next { s with mgmt := { s.mgmt with base := s.ev.word, head := 0, busy := false } } := by
  rw [exec_sidebandRegisterWrite, execSidebandRegisterWrite, unlocked, if_neg Bool.false_ne_true, kind]
  rfl

theorem exec_sidebandRegisterWrite_boot (kind : s.ev.kind = 1) :
    exec .sidebandRegisterWrite s = .next { s with mgmt := { s.mgmt with bootPa := s.ev.word } } := by
  rw [exec_sidebandRegisterWrite, execSidebandRegisterWrite, unlocked, if_neg Bool.false_ne_true, kind]
  rfl
end
end

/-! ### Requests by their operation -/

section
variable {s : State} {bs : List Byte} (asked : s.request = some bs) (released : s.bezel.released = true)
include asked released

theorem exec_unknownManagementOp_refused (unknown : State.opOf bs = 0 ∨ 8 < State.opOf bs) :
    exec .unknownManagementOp s = .next (s.refuseRequest .illFunction) := by
  rw [exec_unknownManagementOp, execUnknownManagementOp, asked]
  dsimp only
  rw [if_neg (by simp only [released, Bool.not_true, Bool.false_eq_true, false_or]; omega)]

section
variable (op : State.opOf bs = 1)
include op

theorem exec_register_refused {x : Cause} (refused : s.register bs = .error x) : exec .register s = .next (s.refuseRequest x) := by
  rw [exec_register, execRegister, State.serveRequest_served asked released op, refused]

theorem exec_register_made {n : Nat} {t : State} (made : s.register bs = .ok (n, t)) :
    exec .register s = .next (({ t with mgmt := { t.mgmt with torn := t.mgmt.torn.filter (· != n) } } : State).answerRequest 0 0 n) := by
  rw [exec_register, execRegister, State.serveRequest_served asked released op, made]
end

section
variable (op : State.opOf bs = 2) (firm : s.yieldFreeze = s) (idle : s.mgmt.busy = false)
include op firm idle

theorem exec_teardown_absent (absent : AMap.get? s.jobs (State.queueOf bs) = none) :
    exec .teardown s = .next (s.refuseRequest .launchArg) := by
  rw [exec_teardown, execTeardown, firm, State.serveRequest_served asked released op]
  simp only [idle, absent, Bool.false_eq_true, if_false, Option.isNone_none, if_true]

theorem exec_teardown_begun (present : (AMap.get? s.jobs (State.queueOf bs)).isSome = true) :
    exec .teardown s = .next ((s.beginTeardown (State.queueOf bs)).settleTeardown (State.queueOf bs)) := by
  have there : (AMap.get? s.jobs (State.queueOf bs)).isNone = false := by rw [Option.isNone_eq_false_iff]; exact present
  rw [exec_teardown, execTeardown, firm, State.serveRequest_served asked released op]
  simp only [idle, there, Bool.false_eq_true, if_false]
end

section
variable (op : State.opOf bs = 3)
include op

theorem exec_freeze_busy (busy : s.mgmt.busy = true) : exec .freeze s = .next s := by
  rw [exec_freeze, execFreeze, State.serveRequest_served asked released op]
  exact congrArg _ (if_pos busy)

variable (idle : s.mgmt.busy = false)
include idle

theorem exec_freeze_absent (absent : AMap.get? s.jobs (State.queueOf bs) = none) (never : s.mgmt.torn.contains (State.queueOf bs) = false) :
    exec .freeze s = .next (s.refuseRequest .launchArg) := by
  rw [exec_freeze, execFreeze, State.serveRequest_served asked released op]
  simp only [idle, absent, never, Bool.false_eq_true, if_false]

theorem exec_freeze_begun {j : Job} (job : AMap.get? s.jobs (State.queueOf bs) = some j) (thawed : j.frozen = false) :
    exec .freeze s = .next (({ s with mgmt := { s.mgmt with busy := true } } : State).beginFreeze (State.queueOf bs)
      (State.field bs 16 63 0, State.field bs 24 63 0, State.field bs 32 63 0)) := by
  rw [exec_freeze, execFreeze, State.serveRequest_served asked released op]
  simp only [idle, job, thawed, Bool.false_eq_true, if_false]
end

section
variable (op : State.opOf bs = 4)
include op

theorem exec_resume_absent (absent : AMap.get? s.jobs (State.queueOf bs) = none) :
    exec .resume s = .next (s.refuseRequest .launchArg) := by
  rw [exec_resume, execResume, State.serveRequest_served asked released op]
  simp only [absent]

variable {j : Job} (job : AMap.get? s.jobs (State.queueOf bs) = some j)
include job

theorem exec_resume_refused {x : Cause}
    (refused : s.resumeImage (State.queueOf bs) (s.bytes (State.field bs 40 63 0) 128) (State.field bs 16 63 0) (State.field bs 24 63 0) =
      .error x) :
    exec .resume s = .next ((s.writeResult (State.field bs 32 63 0) 3 x.code 0).refuseRequest x) := by
  rw [exec_resume, execResume, State.serveRequest_served asked released op]
  simp only [job, refused]

theorem exec_resume_restored {t : State}
    (restored : s.resumeImage (State.queueOf bs) (s.bytes (State.field bs 40 63 0) 128) (State.field bs 16 63 0) (State.field bs 24 63 0) =
      .ok t) :
    exec .resume s = .next ((t.writeResult (State.field bs 32 63 0) 0 0
      (State.field (t.bytes (State.field bs 16 63 0 + 16) 8) 0 63 0)).requestDone) := by
  rw [exec_resume, execResume, State.serveRequest_served asked released op]
  simp only [job, restored]
end

section
variable (op : State.opOf bs = 5)
include op

theorem exec_spanRegion_locked (locked : s.spdm.locked = true) : exec .spanRegion s = .next (s.refuseRequest .illPriv) := by
  rw [exec_spanRegion, execSpanRegion, State.serveRequest_served asked released op]
  exact congrArg _ (if_pos locked)

variable (unlocked : s.spdm.locked = false)
include unlocked

theorem exec_spanRegion_down (down : s.spanReady = false) : exec .spanRegion s = .next (s.refuseRequest .spanDown) := by
  rw [exec_spanRegion, execSpanRegion, State.serveRequest_served asked released op]
  simp only [unlocked, down, Bool.false_eq_true, if_false, Bool.not_false, if_true]

theorem exec_spanRegion_declared (ready : s.spanReady = true) (aligned : State.field bs 16 47 0 % 4096 = 0) (agreed : s.ev.flag = true)
    (length : s.ev.amount = State.field bs 24 63 0) :
    ∃ t : State, exec .spanRegion s = .next t.requestDone ∧
      t.span.regions = AMap.set s.span.regions (State.field bs 32 63 0) (State.field bs 16 47 0 / 4096, State.field bs 24 63 0) := by
  rw [exec_spanRegion, execSpanRegion, State.serveRequest_served asked released op]
  simp only [unlocked, ready, aligned, agreed, length, Bool.false_eq_true, if_false, Bool.not_true, ne_eq, not_true_eq_false, or_self]
  exact ⟨_, rfl, rfl⟩
end

section
variable (op : State.opOf bs = 6) (idle : s.mgmt.busy = false)
include op idle

theorem exec_fwUpdate_locked (locked : s.spdm.locked = true) : exec .fwUpdate s = .next (s.refuseRequest .illPriv) := by
  rw [exec_fwUpdate, execFwUpdate, State.serveRequest_served asked released op]
  simp only [idle, locked, Bool.false_eq_true, if_false, if_true]

/-- The part as an update begins: its requests wait for the images. -/
def updateBegun (s : State) (bs : List Byte) : State :=
  { s with mgmt := { s.mgmt with
    busy := true, updating := true, images := [], area := State.field bs 24 63 0, bootPa := BitVec.ofNat 64 (State.field bs 16 63 0) } }

theorem exec_fwUpdate_empty (unlocked : s.spdm.locked = false) (empty : s.jobs = []) :
    exec .fwUpdate s =
      .next ((updateBegun s bs).reportingCores.foldl (fun k c => k.latchCore c { cause := .fwUpdate }) (updateBegun s bs)) := by
  have told : ((updateBegun s bs).reportingCores.foldl (fun k c => k.latchCore c { cause := .fwUpdate }) (updateBegun s bs)).jobs = [] :=
    (State.jobs_foldl_latchCore ..).trans empty
  rw [exec_fwUpdate, execFwUpdate, State.serveRequest_served asked released op]
  simp only [idle, unlocked, Bool.false_eq_true, if_false]
  rw [← updateBegun, told, List.filter_nil, List.foldl_nil]
end

section
variable (op : State.opOf bs = 7) (unlocked : s.spdm.locked = false)
include op unlocked

theorem exec_spanJoin_refused (refused : s.span.joined = true ∨ s.bezel.spanEnable = false ∨ s.ev.flag = false) :
    exec .spanJoin s = .next (s.refuseRequest .spanDown) := by
  have down : (s.span.joined || !s.bezel.spanEnable || !s.ev.flag) = true := by
    rcases refused with h | h | h <;> simp [h]
  rw [exec_spanJoin, execSpanJoin, State.serveRequest_served asked released op]
  simp only [unlocked, down, Bool.false_eq_true, if_false, if_true]

theorem exec_spanJoin_joined (apart : s.span.joined = false) (enabled : s.bezel.spanEnable = true) (authentic : s.ev.flag = true) :
    exec .spanJoin s = .next ({ s with span := { s.span with
      joined := true, up := true, acked := 0, expect := 0, replays := 0, seq := 0, unacked := [], sealed := 0
      joins := s.span.joins + 1 } } : State).requestDone := by
  rw [exec_spanJoin, execSpanJoin, State.serveRequest_served asked released op]
  simp only [unlocked, apart, enabled, authentic, Bool.false_eq_true, if_false, Bool.not_true, Bool.or_self]
end

theorem exec_faultq_asked (op : State.opOf bs = 8) :
    exec .faultq s = .next (
      if s.jobs ≠ [] ∨ State.field bs 16 63 0 % 4096 ≠ 0 ∨ 2 ^ 52 ≤ State.field bs 16 63 0 ∨ 10 < State.field bs 24 63 0 then
        s.refuseRequest .tableArg
      else ({ s with mgmt := { s.mgmt with faultQueue := some (State.field bs 16 63 0, State.field bs 24 63 0 + 6) } } :
        State).requestDone) := by
  have condition : (!s.jobs.isEmpty || decide (State.field bs 16 63 0 % 4096 ≠ 0) || decide (2 ^ 52 ≤ State.field bs 16 63 0) ||
      decide (10 < State.field bs 24 63 0)) = true ↔
      s.jobs ≠ [] ∨ State.field bs 16 63 0 % 4096 ≠ 0 ∨ 2 ^ 52 ≤ State.field bs 16 63 0 ∨ 10 < State.field bs 24 63 0 := by
    simp only [Bool.or_eq_true, decide_eq_true_eq, or_assoc, Bool.not_eq_true', List.isEmpty_eq_false_iff]
  rw [exec_faultq, execFaultq, State.serveRequest_served asked released op]
  split
  next refused => exact congrArg _ (if_pos (condition.mpr refused))
  next refused => exact congrArg _ (if_neg fun h => refused (condition.mp h))
end

namespace Laws

/-- Settles O54: nothing to serve, then each request by its operation. -/
theorem management : Obligations.Management := by
  unfold Obligations.Management
  intro s bs f q
  refine ⟨exec_management_none, exec_drainComplete_absent, fun j place => exec_drainComplete_image, exec_sidebandRegisterWrite_locked,
    fun unlocked => ⟨exec_sidebandRegisterWrite_base unlocked, exec_sidebandRegisterWrite_boot unlocked⟩, exec_management_held,
    fun asked released => ⟨exec_unknownManagementOp_refused asked released, fun op => ⟨?_, ?_⟩, fun op firm idle => ⟨?_, ?_⟩,
      fun op => ⟨?_, fun idle => ⟨?_, ?_⟩⟩, fun op => ⟨?_, fun j job => ⟨?_, ?_⟩⟩, fun op => ⟨?_, ?_, ?_⟩, fun op idle => ⟨?_, ?_⟩,
      fun op unlocked => ⟨?_, ?_⟩, exec_faultq_asked asked released⟩⟩
  · exact fun x => exec_register_refused asked released op
  · exact fun n t made => ⟨_, exec_register_made asked released op made, rfl, by simp⟩
  · exact exec_teardown_absent asked released op firm idle
  · exact exec_teardown_begun asked released op firm idle
  · exact exec_freeze_busy asked released op
  · exact exec_freeze_absent asked released op idle
  · exact fun j => exec_freeze_begun asked released op idle
  · exact exec_resume_absent asked released op
  · exact fun x => exec_resume_refused asked released op job
  · exact fun t restored => ⟨_, exec_resume_restored asked released op job restored⟩
  · exact exec_spanRegion_locked asked released op
  · exact exec_spanRegion_down asked released op
  · exact exec_spanRegion_declared asked released op
  · exact exec_fwUpdate_locked asked released op idle
  · exact exec_fwUpdate_empty asked released op idle
  · exact exec_spanJoin_refused asked released op unlocked
  · exact exec_spanJoin_joined asked released op unlocked

end Laws

end Sys2Proof.Machine
end

section
/-!
PROOFS. The SPDM responder (R402 to R408, R442 to R445).
-/

namespace Sys2Proof.Machine

/-! ### Delivery (R442) -/

/-- The firmware's responder gets the request: it is the model's, nothing waits before the request, and RLEN can have its length. -/
structure Delivered (s : State) : Prop where
  native : s.native = true
  free : s.sidebandFree = true
  least : 4 ≤ s.ev.bytes.length
  most : s.ev.bytes.length ≤ 16384

section
variable {s : State} {what : Instr} {always : Bool} {f : List Byte → State → List Byte × State}

theorem answerSpdm_undelivered (length : s.ev.bytes.length < 4 ∨ 16384 < s.ev.bytes.length) : s.answerSpdm what always f = s :=
  if_pos length

theorem answerSpdm_waits (least : 4 ≤ s.ev.bytes.length) (most : s.ev.bytes.length ≤ 16384) (behind : s.sidebandFree = false) :
    s.answerSpdm what always f =
      s.withSpdm fun c => { c with waiting := c.waiting ++ [{ what, args := { s.ev with flag2 := true } }] } := by
  have length : ¬(s.ev.bytes.length < 4 ∨ 16384 < s.ev.bytes.length) := by omega
  simp only [State.answerSpdm, if_neg length, behind, Bool.not_false, if_true]

section
variable (delivered : Delivered s)
include delivered

theorem answerSpdm_delivered :
    s.answerSpdm what always f =
      if (!always && (s.bezel.alarmed || s.mgmt.bootStatus != 0)) = true then
        (s.deliverRequest s.ev.bytes).respond (State.spdmError 5)
      else (f s.ev.bytes (s.deliverRequest s.ev.bytes)).2.respond (f s.ev.bytes (s.deliverRequest s.ev.bytes)).1 := by
  obtain ⟨native, free, least, most⟩ := delivered
  have length : ¬(s.ev.bytes.length < 4 ∨ 16384 < s.ev.bytes.length) := by omega
  have native' : (s.deliverRequest s.ev.bytes).native = true := native
  simp only [State.answerSpdm, if_neg length, free, native', Bool.not_true, Bool.false_eq_true, if_false]
  rfl

theorem answerSpdm_always :
    s.answerSpdm what true f = (f s.ev.bytes (s.deliverRequest s.ev.bytes)).2.respond (f s.ev.bytes (s.deliverRequest s.ev.bytes)).1 :=
  answerSpdm_delivered delivered

theorem answerSpdm_closed (closed : s.bezel.alarmed = true ∨ s.mgmt.bootStatus ≠ 0) :
    s.answerSpdm what false f = (s.deliverRequest s.ev.bytes).respond (State.spdmError 5) := by
  have unspecified : (!false && (s.bezel.alarmed || s.mgmt.bootStatus != 0)) = true := by
    rcases closed with h | h <;> simp [h]
  rw [answerSpdm_delivered delivered, if_pos unspecified]

section
variable (calm : s.bezel.alarmed = false) (booted : s.mgmt.bootStatus = 0)
include calm booted

theorem answerSpdm_open :
    s.answerSpdm what false f = (f s.ev.bytes (s.deliverRequest s.ev.bytes)).2.respond (f s.ev.bytes (s.deliverRequest s.ev.bytes)).1 := by
  rw [answerSpdm_delivered delivered, calm, booted]
  exact if_neg (by decide)
end
end
end

/-! ### Checks in order -/

section
variable (n : Nat) (l : List (Bool × Nat)) (g : State → List Byte × State) (s : State)

theorem spdmCheck_fails : State.spdmCheck ((false, n) :: l) g s = (State.spdmError n, s) := rfl

theorem spdmCheck_passes : State.spdmCheck ((true, n) :: l) g s = State.spdmCheck l g s := rfl

theorem spdmCheck_done : State.spdmCheck [] g s = g s := rfl
end

/-- A request that asks for the version first, and for the negotiated state next. -/
def NegotiatedForm (i : Instr) : Prop :=
  ∃ f : List Byte → State → List Byte × State, (∀ s, exec i s = .next (s.answerSpdm i false f)) ∧
    ∀ req s, s.mgmt.updating = false → ∃ (c : Bool) (l : List (Bool × Nat)) (g : State → List Byte × State),
      (s.negotiated = false → c = false) ∧ f req s = State.spdmCheck ((State.version13 req, 0x41) :: (c, 4) :: l) g s

/-- A request that asks for the version first. -/
def VersionedForm (i : Instr) : Prop :=
  ∃ f : List Byte → State → List Byte × State, (∀ s, exec i s = .next (s.answerSpdm i false f)) ∧
    ∀ req s, s.mgmt.updating = false → ∃ (l : List (Bool × Nat)) (g : State → List Byte × State),
      f req s = State.spdmCheck ((State.version13 req, 0x41) :: l) g s

theorem NegotiatedForm.versioned {i : Instr} (form : NegotiatedForm i) : VersionedForm i := by
  obtain ⟨f, answers, checks⟩ := form
  refine ⟨f, answers, fun req s current => ?_⟩
  obtain ⟨c, l, g, -, body⟩ := checks req s current
  exact ⟨(c, 4) :: l, g, body⟩

theorem negotiatedForm_of_mem : ∀ i ∈ [Instr.getDigests, .getCertificate, .challenge, .getMeasurements, .keyExchange, .finish,
    .endSession, .lockInterface, .channelOpen], NegotiatedForm i := by
  have both {x y : Bool} (h : x = false) : (x && y) = false := by rw [h, Bool.false_and]
  intro i listed
  simp only [List.mem_cons, List.not_mem_nil, or_false] at listed
  rcases listed with rfl | rfl | rfl | rfl | rfl | rfl | rfl | rfl | rfl
  · exact ⟨_, exec_getDigests, fun _ _ _ => ⟨_, _, _, id, rfl⟩⟩
  · exact ⟨_, exec_getCertificate, fun _ _ _ => ⟨_, _, _, id, rfl⟩⟩
  · exact ⟨_, exec_challenge, fun _ _ current => ⟨_, _, _, id, if_neg (by rw [current]; decide)⟩⟩
  · exact ⟨_, exec_getMeasurements, fun _ _ current => ⟨_, _, _, id, if_neg (by rw [current]; decide)⟩⟩
  · exact ⟨_, exec_keyExchange, fun _ _ _ => ⟨_, _, _, fun h => both (both h), rfl⟩⟩
  · exact ⟨_, exec_finish, fun _ _ _ => ⟨_, _, _, both, rfl⟩⟩
  · exact ⟨_, exec_endSession, fun _ _ _ => ⟨_, _, _, both, rfl⟩⟩
  · exact ⟨_, exec_lockInterface, fun _ _ _ => ⟨_, _, _, both, rfl⟩⟩
  · exact ⟨_, exec_channelOpen, fun _ _ _ => ⟨_, _, _, both, rfl⟩⟩

/-- The requests that an alarm or a failed boot leaves unanswered. -/
def laterRequests : List Instr :=
  [.negotiateAlgorithms, .getDigests, .getCertificate, .challenge, .getMeasurements, .keyExchange, .finish, .endSession, .lockInterface,
    .channelOpen, .unsupportedRequest]

theorem versionedForm_of_mem : ∀ i ∈ laterRequests, VersionedForm i := by
  intro i listed
  rcases List.mem_cons.mp listed with rfl | listed
  · exact ⟨_, exec_negotiateAlgorithms, fun _ _ _ => ⟨_, _, rfl⟩⟩
  · rcases List.mem_append.mp (show i ∈ [Instr.getDigests, .getCertificate, .challenge, .getMeasurements, .keyExchange, .finish,
      .endSession, .lockInterface, .channelOpen] ++ [Instr.unsupportedRequest] from listed) with early | last
    · exact (negotiatedForm_of_mem i early).versioned
    · rw [List.mem_singleton.mp last]
      exact ⟨_, exec_unsupportedRequest, fun _ _ _ => ⟨_, _, rfl⟩⟩

section
variable {s : State} (delivered : Delivered s)
include delivered

theorem exec_later_closed (closed : s.bezel.alarmed = true ∨ s.mgmt.bootStatus ≠ 0) : ∀ i ∈ laterRequests,
    exec i s = .next ((s.deliverRequest s.ev.bytes).respond (State.spdmError 5)) := by
  intro i listed
  obtain ⟨f, answers, -⟩ := versionedForm_of_mem i listed
  rw [answers, answerSpdm_closed delivered closed]

section
variable (calm : s.bezel.alarmed = false) (booted : s.mgmt.bootStatus = 0) (current : s.mgmt.updating = false)
include calm booted current

theorem exec_later_version (other : State.version13 s.ev.bytes = false) : ∀ i ∈ laterRequests,
    exec i s = .next ((s.deliverRequest s.ev.bytes).respond (State.spdmError 0x41)) := by
  intro i listed
  obtain ⟨f, answers, checks⟩ := versionedForm_of_mem i listed
  obtain ⟨l, g, body⟩ := checks s.ev.bytes (s.deliverRequest s.ev.bytes) current
  rw [answers, answerSpdm_open delivered calm booted, body, other, spdmCheck_fails]

theorem exec_unnegotiated (version : State.version13 s.ev.bytes = true) (stage : s.spdm.stage ≠ 3) :
    ∀ i ∈ [Instr.getDigests, .getCertificate, .challenge, .getMeasurements, .keyExchange, .finish, .endSession, .lockInterface,
      .channelOpen], exec i s = .next ((s.deliverRequest s.ev.bytes).respond (State.spdmError 4)) := by
  intro i listed
  obtain ⟨f, answers, checks⟩ := negotiatedForm_of_mem i listed
  obtain ⟨c, l, g, early, body⟩ := checks s.ev.bytes (s.deliverRequest s.ev.bytes) current
  have early' : c = false := early (beq_false_of_ne stage)
  rw [answers, answerSpdm_open delivered calm booted, body, version, early', spdmCheck_passes, spdmCheck_fails]
end
end

/-! ### Requests in their states (R445) -/

section
variable {s : State} (delivered : Delivered s)
include delivered

theorem exec_getVersion_answered : ∃ u : State, exec .getVersion s = .next (u.respond State.versionBytes) ∧ u.spdm.stage = 1 ∧
    u.spdm.m = s.ev.bytes ++ State.versionBytes ∧ u.spdm.l = s.ev.bytes ++ State.versionBytes := by
  rw [exec_getVersion, execGetVersion, answerSpdm_always delivered]
  exact ⟨_, rfl, rfl, rfl, rfl⟩

variable (version : State.version13 s.ev.bytes = true)
include version

theorem exec_getCapabilities_answered (stage : s.spdm.stage = 1) (length : s.ev.bytes.length = 20) :
    ∃ u : State, exec .getCapabilities s = .next (u.respond State.capabilityBytes) ∧ u.spdm.stage = 2 := by
  have stage' : ((s.deliverRequest s.ev.bytes).spdm.stage == 1) = true := beq_iff_eq.mpr stage
  rw [exec_getCapabilities, execGetCapabilities, answerSpdm_always delivered]
  simp only [version, stage', length, beq_self_eq_true, spdmCheck_passes, spdmCheck_done]
  exact ⟨_, rfl, rfl⟩

theorem exec_getCapabilities_early (stage : s.spdm.stage ≠ 1) :
    exec .getCapabilities s = .next ((s.deliverRequest s.ev.bytes).respond (State.spdmError 4)) := by
  have stage' : ((s.deliverRequest s.ev.bytes).spdm.stage == 1) = false := beq_false_of_ne stage
  rw [exec_getCapabilities, execGetCapabilities, answerSpdm_always delivered]
  simp only [version, stage', spdmCheck_passes, spdmCheck_fails]

variable (calm : s.bezel.alarmed = false) (booted : s.mgmt.bootStatus = 0) 
include calm booted

theorem exec_unsupportedRequest_refused :
    exec .unsupportedRequest s = .next ((s.deliverRequest s.ev.bytes).respond (State.spdmError 7)) := by
  rw [exec_unsupportedRequest, execUnsupportedRequest, answerSpdm_open delivered calm booted]
  simp only [version, spdmCheck_passes, spdmCheck_fails]

theorem exec_negotiateAlgorithms_answered (stage : s.spdm.stage = 2) (length : s.ev.bytes.length = 48)
    (bit3 : (s.ev.bytes.getD 8 0).getLsbD 3 = true) (bit1 : (s.ev.bytes.getD 12 0).getLsbD 1 = true) :
    ∃ u : State, exec .negotiateAlgorithms s = .next (u.respond State.algorithmBytes) ∧ u.spdm.stage = 3 := by
  have stage' : ((s.deliverRequest s.ev.bytes).spdm.stage == 2) = true := beq_iff_eq.mpr stage
  rw [exec_negotiateAlgorithms, execNegotiateAlgorithms, answerSpdm_open delivered calm booted]
  simp only [version, stage', length, bit3, bit1, beq_self_eq_true, Bool.and_self, spdmCheck_passes, spdmCheck_done]
  exact ⟨_, rfl, rfl⟩

variable (stage : s.spdm.stage = 3)
include stage

omit delivered version calm booted in
theorem negotiated_delivered : (s.deliverRequest s.ev.bytes).negotiated = true := beq_iff_eq.mpr stage

theorem exec_getDigests_answered (length : s.ev.bytes.length = 4) :
    ∃ u : State, exec .getDigests s = .next (u.respond ([0x13, 0x01, 1, 1] ++ Sha384.digest State.chain)) ∧ u.spdm.stage = 3 := by
  rw [exec_getDigests, execGetDigests, answerSpdm_open delivered calm booted]
  simp only [version, negotiated_delivered stage, length, beq_self_eq_true, spdmCheck_passes, spdmCheck_done]
  exact ⟨_, rfl, stage⟩

omit delivered version calm booted stage in
/-- No byte of the chain is asked for: the answer is its header. -/
theorem certificate_header (chain : List Byte) (off : Nat) :
    [0x13, 0x02, 0, 0] ++ leBytes 2 0 ++ leBytes 2 (1652 - off - 0) ++ (chain.drop off).take 0 =
      [0x13, 0x02, 0, 0, 0, 0] ++ leBytes 2 (1652 - off) := by
  rw [Nat.sub_zero, List.take_zero, List.append_nil, show leBytes 2 0 = [0, 0] from by decide]
  rfl

theorem exec_getCertificate_empty (length : s.ev.bytes.length = 8) (slot : State.half s.ev.bytes 2 = 0)
    (inside : State.half s.ev.bytes 4 < 1652) (none_ : State.half s.ev.bytes 6 = 0) :
    ∃ u : State, exec .getCertificate s =
      .next (u.respond ([0x13, 0x02, 0, 0, 0, 0] ++ leBytes 2 (1652 - State.half s.ev.bytes 4))) := by
  have none' : Nat.min 0 (1652 - State.half s.ev.bytes 4) = 0 := Nat.zero_min _
  rw [exec_getCertificate, execGetCertificate, answerSpdm_open delivered calm booted]
  simp only [version, negotiated_delivered stage, length, slot, inside, none_, decide_true, beq_self_eq_true, Bool.and_self,
    spdmCheck_passes, spdmCheck_done, none', certificate_header]
  exact ⟨_, rfl⟩

omit delivered version calm booted stage in
/-- Drawing and signing leave the connection as it is. -/
theorem spdm_signedTail (k : State) (ctx before reqCtx : List Byte) : (k.signedTail ctx before reqCtx).2.spdm = k.spdm := rfl

theorem exec_challenge_answered (current : s.mgmt.updating = false) (length : s.ev.bytes.length = 44) (slot : State.half s.ev.bytes 2 = 0) :
    ∃ (u : State) (bs : List Byte), exec .challenge s = .next (u.respond bs) ∧ u.spdm.m = s.spdm.m.take s.spdm.vca := by
  have current' : (s.deliverRequest s.ev.bytes).mgmt.updating = false := current
  rw [exec_challenge, execChallenge, answerSpdm_open delivered calm booted]
  simp only [current', version, negotiated_delivered stage, length, slot, beq_self_eq_true, Bool.and_self, spdmCheck_passes,
    spdmCheck_done, Bool.false_eq_true, if_false]
  exact ⟨_, _, rfl, rfl⟩

theorem exec_getMeasurements_signed (current : s.mgmt.updating = false) (length : s.ev.bytes.length = 45)
    (signed : s.ev.bytes.getD 2 0 = 1) (all : s.ev.bytes.getD 3 0 = 0xFF) (slot : s.ev.bytes.getD 36 0 = 0) :
    ∃ (u : State) (bs : List Byte), exec .getMeasurements s = .next (u.respond bs) ∧ u.spdm.l = s.spdm.l.take s.spdm.vca := by
  have current' : (s.deliverRequest s.ev.bytes).mgmt.updating = false := current
  have legal : ((s.ev.bytes.getD 2 0 == 1 && s.ev.bytes.length == 45 && s.ev.bytes.getD 36 0 == 0 ||
      s.ev.bytes.getD 2 0 == 0 && s.ev.bytes.length == 12) &&
      (decide (1 ≤ (s.ev.bytes.getD 3 0).toNat ∧ (s.ev.bytes.getD 3 0).toNat ≤ 8) || (s.ev.bytes.getD 3 0).toNat == 0xFF)) = true := by
    rw [signed, length, slot, all]
    rfl
  rw [exec_getMeasurements, execGetMeasurements, answerSpdm_open delivered calm booted]
  simp only [current', version, negotiated_delivered stage, legal, spdmCheck_passes, spdmCheck_done, Bool.false_eq_true, if_false]
  simp only [signed, beq_self_eq_true, if_true]
  exact ⟨_, _, rfl, rfl⟩

theorem exec_getMeasurements_unsigned (current : s.mgmt.updating = false) (unsigned : s.ev.bytes.getD 2 0 = 0)
    (length : s.ev.bytes.length = 12) (all : s.ev.bytes.getD 3 0 = 0xFF) :
    ∃ (u : State) (bs : List Byte), exec .getMeasurements s = .next (u.respond bs) ∧ u.spdm.l = s.spdm.l ++ s.ev.bytes ++ bs := by
  have current' : (s.deliverRequest s.ev.bytes).mgmt.updating = false := current
  have legal : ((s.ev.bytes.getD 2 0 == 1 && s.ev.bytes.length == 45 && s.ev.bytes.getD 36 0 == 0 ||
      s.ev.bytes.getD 2 0 == 0 && s.ev.bytes.length == 12) &&
      (decide (1 ≤ (s.ev.bytes.getD 3 0).toNat ∧ (s.ev.bytes.getD 3 0).toNat ≤ 8) || (s.ev.bytes.getD 3 0).toNat == 0xFF)) = true := by
    rw [unsigned, length, all]
    rfl
  have plain : ¬((0 : Byte) == 1) = true := by decide
  rw [exec_getMeasurements, execGetMeasurements, answerSpdm_open delivered calm booted]
  simp only [current', version, negotiated_delivered stage, legal, spdmCheck_passes, spdmCheck_done, Bool.false_eq_true, if_false]
  simp only [unsigned, if_neg plain]
  exact ⟨_, _, rfl, rfl⟩

theorem exec_keyExchange_answered (closed : s.spdm.session = false) (idle : s.spdm.handshaking = false)
    (length : 138 ≤ s.ev.bytes.length) (slot : s.ev.bytes.getD 3 0 = 0) :
    ∃ (u : State) (bs : List Byte), exec .keyExchange s = .next (u.respond bs) ∧ u.spdm.handshaking = true := by
  have state : ((s.deliverRequest s.ev.bytes).negotiated && !(s.deliverRequest s.ev.bytes).spdm.session &&
      !(s.deliverRequest s.ev.bytes).spdm.handshaking) = true := by
    rw [negotiated_delivered stage, show (s.deliverRequest s.ev.bytes).spdm.session = false from closed,
      show (s.deliverRequest s.ev.bytes).spdm.handshaking = false from idle]
    rfl
  rw [exec_keyExchange, execKeyExchange, answerSpdm_open delivered calm booted]
  simp only [version, state, decide_eq_true length, slot, beq_self_eq_true, Bool.and_self, spdmCheck_passes, spdmCheck_done]
  exact ⟨_, _, rfl, rfl⟩

theorem exec_finish_answered (handshaking : s.spdm.handshaking = true) (proven : s.ev.flag = true) :
    ∃ u : State, exec .finish s = .next (u.respond [0x13, 0x65, 0, 0]) ∧ u.spdm.session = true ∧ u.spdm.handshaking = false := by
  have state : ((s.deliverRequest s.ev.bytes).negotiated && (s.deliverRequest s.ev.bytes).spdm.handshaking) = true := by
    rw [negotiated_delivered stage]
    exact handshaking
  rw [exec_finish, execFinish, answerSpdm_open delivered calm booted]
  simp only [version, state, show (s.deliverRequest s.ev.bytes).ev.flag = true from proven, spdmCheck_passes, spdmCheck_done]
  exact ⟨_, rfl, rfl, rfl⟩

section
variable (session : s.spdm.session = true)
include session

omit delivered version calm booted in
theorem session_delivered : ((s.deliverRequest s.ev.bytes).negotiated && (s.deliverRequest s.ev.bytes).spdm.session) = true := by
  rw [negotiated_delivered stage]
  exact session

theorem exec_endSession_answered (length : s.ev.bytes.length = 4) :
    ∃ u : State, exec .endSession s = .next (u.respond [0x13, 0x6C, 0, 0]) ∧ u.spdm.session = false ∧ u.spdm.locked = false := by
  rw [exec_endSession, execEndSession, answerSpdm_open delivered calm booted]
  simp only [version, session_delivered stage session, length, beq_self_eq_true, spdmCheck_passes, spdmCheck_done]
  exact ⟨_, rfl, rfl, rfl⟩

theorem exec_lockInterface_answered (unlocked : s.spdm.locked = false) :
    ∃ u : State, exec .lockInterface s = .next (u.respond [0x13, 0x7E, 0, 0]) ∧ u.spdm.locked = true := by
  rw [exec_lockInterface, execLockInterface, answerSpdm_open delivered calm booted]
  simp only [version, session_delivered stage session, show (s.deliverRequest s.ev.bytes).spdm.locked = false from unlocked,
    Bool.not_false, spdmCheck_passes, spdmCheck_done]
  exact ⟨_, rfl, rfl⟩

theorem exec_lockInterface_busy (locked : s.spdm.locked = true) :
    exec .lockInterface s = .next ((s.deliverRequest s.ev.bytes).respond (State.spdmError 3)) := by
  rw [exec_lockInterface, execLockInterface, answerSpdm_open delivered calm booted]
  simp only [version, session_delivered stage session, show (s.deliverRequest s.ev.bytes).spdm.locked = true from locked,
    Bool.not_true, spdmCheck_passes, spdmCheck_fails]

theorem exec_channelOpen_answered {n : Nat} (named : s.ev.index ≠ 0) (live : (s.keySlot s.ev.index).state = .live)
    (fresh : AMap.freshBelow s.channels 65536 = some n) :
    ∃ u : State, exec .channelOpen s = .next (u.respond ([0x13, 0x7E, 0, 0] ++ leBytes 2 n)) ∧
      ∃ x, AMap.get? u.channels n = some x ∧ x.keySlot = s.ev.index := by
  have fresh' : AMap.freshBelow (s.deliverRequest s.ev.bytes).channels 65536 = some n := fresh
  have legal : ((s.deliverRequest s.ev.bytes).ev.index != 0 &&
      ((s.deliverRequest s.ev.bytes).keySlot (s.deliverRequest s.ev.bytes).ev.index).state == .live &&
      (AMap.freshBelow (s.deliverRequest s.ev.bytes).channels 65536).isSome) = true := by
    rw [fresh', show (s.deliverRequest s.ev.bytes).ev.index = s.ev.index from rfl, bne_iff_ne.mpr named,
      show (s.deliverRequest s.ev.bytes).keySlot s.ev.index = s.keySlot s.ev.index from rfl, live]
    rfl
  rw [exec_channelOpen, execChannelOpen, answerSpdm_open delivered calm booted]
  simp only [version, session_delivered stage session, legal, spdmCheck_passes, spdmCheck_done]
  simp only [fresh']
  exact ⟨_, rfl, _, AMap.get?_set_same .., rfl⟩
end
end

namespace Laws

/-- Settles O56: what is delivered, then each request by the state of the connection. -/
theorem spdmResponder : Obligations.SpdmResponder := by
  unfold Obligations.SpdmResponder
  refine ⟨fun s => ⟨fun i listed => ?_, fun sent => ?_, fun taken => ?_⟩, fun s native free least most => ?_⟩
  · have answers : ∃ always f, exec i s = .next (s.answerSpdm i always f) := by
      simp only [List.mem_cons, List.not_mem_nil, or_false] at listed
      rcases listed with rfl | rfl | rfl | rfl | rfl | rfl | rfl | rfl | rfl | rfl | rfl | rfl | rfl <;> exact ⟨_, _, rfl⟩
    obtain ⟨always, f, answer⟩ := answers
    rw [answer]
    exact ⟨fun least most behind => congrArg _ (answerSpdm_waits least most behind),
      fun length => congrArg _ (answerSpdm_undelivered length)⟩
  · rw [exec_channelRecord, execChannelRecord, if_pos sent]
  · rw [exec_channelRecord, execChannelRecord, taken, if_neg Bool.false_ne_true]
  · have delivered : Delivered s := ⟨native, free, least, most⟩
    intro req t error later
    refine ⟨exec_getVersion_answered delivered, exec_later_closed delivered, exec_later_version delivered, fun version =>
      ⟨exec_getCapabilities_answered delivered version, exec_getCapabilities_early delivered version, fun calm booted current =>
        ⟨exec_unnegotiated delivered calm booted current version, exec_unsupportedRequest_refused delivered version calm booted,
          exec_negotiateAlgorithms_answered delivered version calm booted, fun stage => ?_⟩⟩⟩
    exact ⟨exec_getDigests_answered delivered version calm booted stage, exec_getCertificate_empty delivered version calm booted stage,
      exec_challenge_answered delivered version calm booted stage current,
      exec_getMeasurements_signed delivered version calm booted stage current,
      exec_getMeasurements_unsigned delivered version calm booted stage current,
      exec_keyExchange_answered delivered version calm booted stage, exec_finish_answered delivered version calm booted stage,
      fun session => ⟨exec_endSession_answered delivered version calm booted stage session,
        exec_lockInterface_answered delivered version calm booted stage session,
        exec_lockInterface_busy delivered version calm booted stage session,
        fun n => exec_channelOpen_answered delivered version calm booted stage session⟩⟩

end Laws

end Sys2Proof.Machine
end

section
/-!
PROOFS. One step: the word that it runs, the part without clocks, and what reset leaves (R72, R88, R413, R414).
-/

namespace Sys2Proof.Machine

namespace State

theorem cur_turn (s : State) (c i : Nat) : (s.turn c i).cur = (c, i) := by
  rw [turn, enterSlot]

theorem fetched_ok {s : State} {x : Instr} (word : decodeWord (s.wordAt s.pc.toNat) = .ok x) : s.fetched = x := by
  rw [fetched, word]

theorem fetched_error {s : State} {e : Illegal} (word : decodeWord (s.wordAt s.pc.toNat) = .error e) :
    s.fetched = .notAnInstructionWord (s.wordAt s.pc.toNat) := by
  rw [fetched, word]

theorem issue_inside {s : State} (inside : s.pc.toNat < istoreSize s.cur.1) : issue s = exec s.fetched s.fetchPoison :=
  if_neg (Nat.not_le.mpr inside)

theorem fetchPoison_clean {s : State} (clean : ∀ p ∈ s.cores, p.2.poison = []) : s.fetchPoison = s := by
  have none_ : (s.cores.any fun p => istoreUnit p.1 == istoreUnit s.cur.1 &&
      p.2.poison.contains (istoreCell (istoreUnit s.cur.1) (s.pc.toNat / 8 * 8))) = false := by
    rw [List.any_eq_false]
    intro p listed
    rw [clean p listed]
    simp
  rw [fetchPoison]
  exact if_neg (by rw [none_]; exact Bool.false_ne_true)

theorem step_stopped {s : State} (stopped : s.bezel.off = true ∨ s.bezel.frost = true) : step s = stepStopped s := by
  rw [step, stepOnce, if_pos (Bool.or_eq_true_iff.mpr stopped)]

theorem stepStopped_none {s : State} (deaf : ∀ e ∈ s.agenda, unclocked s.bezel.frost e.what = false) :
    stepStopped s = .fault .clocksStopped := by
  rw [stepStopped, List.find?_eq_none.mpr fun e listed => by rw [deaf e listed]; exact Bool.false_ne_true]

theorem stepStopped_head {s : State} {e : Event} {rest : List Event} (agenda : s.agenda = e :: rest)
    (reaches : unclocked s.bezel.frost e.what = true) : stepStopped s = happen e { s with agenda := rest } := by
  have found : s.agenda.find? (fun e => unclocked s.bezel.frost e.what) = some e := by
    rw [agenda]
    exact List.find?_cons_of_pos reaches
  rw [stepStopped, found]
  simp only [agenda, List.erase_cons_head]

end State

/-- The power and reset events reach a part in Off and one in Frost. -/
theorem unclocked_power (frost : Bool) {i : Instr} (power : i ∈ [Instr.powerOn, .reset, .powerOff]) : unclocked frost i = true := by
  simp only [List.mem_cons, List.not_mem_nil, or_false] at power
  rcases power with rfl | rfl | rfl <;> rfl

namespace Laws

/-- Settles O1: the decoder evaluates on each word. -/
theorem writtenWordsDecode : Obligations.WrittenWordsDecode := by
  unfold Obligations.WrittenWordsDecode
  exact ⟨rfl, rfl, rfl, rfl, rfl, rfl, rfl, rfl, rfl, rfl, rfl, rfl, rfl⟩

/-- Settles O3: the turn issues, and what it issues is the decoded word or its fate. -/
theorem stepRunsDecoded : Obligations.StepRunsDecoded := by
  unfold Obligations.StepRunsDecoded
  refine fun s on thawed => ⟨fun c i rest quiet turns issues inside => ?_, State.fetchPoison_clean⟩
  have inside' : (s.turn c i).pc.toNat < istoreSize (s.turn c i).cur.1 := by
    rw [State.cur_turn]
    exact inside
  rw [State.step_eq_issue on thawed quiet turns issues, State.issue_inside inside']
  exact ⟨fun x word => by rw [State.fetched_ok word], fun e word => by rw [State.fetched_error word]⟩

/-- Settles O58: the reset state, field by field. -/
theorem resetState : Obligations.ResetState := by
  unfold Obligations.ResetState
  refine ⟨rfl, rfl, rfl, rfl, rfl, rfl, rfl, fun c => ⟨rfl, rfl, rfl, rfl, rfl⟩, fun c i lt => ?_⟩
  match i, lt with
  | 0, _ | 1, _ | 2, _ | 3, _ => exact ⟨rfl, rfl, rfl, rfl, rfl, rfl, rfl, rfl⟩

/-- Settles O59: nothing on the agenda reaches the part, or its head does. -/
theorem stoppedClocks : Obligations.StoppedClocks := by
  unfold Obligations.StoppedClocks
  refine fun s stopped => ⟨fun deaf => ?_, fun e rest agenda power => ?_⟩
  · rw [State.step_stopped stopped, State.stepStopped_none deaf]
  · rw [State.step_stopped stopped, State.stepStopped_head agenda (unclocked_power _ power)]
    rfl

end Laws

end Sys2Proof.Machine
end

section
/-!
PROOFS. A FREEZE at a GUST that is about to end its strand (R304, R367): no cause is taken there.
-/

namespace Sys2Proof.Machine

/-- A strand whose GUST has been accepted and whose wait for the sequencer has ended: it is Ready, and a FREEZE is pending. -/
def leavingGust : State :=
  { State.reset with cores := [(0, { slots := Vector.ofFn fun _ =>
      { status := .ready, latched := [{ cause := .freeze }], u := { leaving := true } } })] }

/-- The FREEZE waits until the strand has ended. -/
theorem exec_asyncCauseTaken_leavingGust : ∃ t : State, exec .asyncCauseTaken leavingGust = .next t ∧ (t.slotAt 0 0).mode = false :=
  ⟨_, rfl, by decide⟩

/-- The trap entry that the statement asks for would have changed the mode. -/
theorem mode_leavingGust_trapped : (((leavingGust.setSlotAt 0 0 { leavingGust.slotAt 0 0 with latched := [] }).takeTrap 0 0
    false .freeze 0 0 0).slotAt 0 0).mode = true := by decide

/-- Refutes O47: a Ready strand with IE set takes no FREEZE once its GUST has left it. -/
theorem not_slotEvents : ¬ Obligations.SlotEvents := by
  unfold Obligations.SlotEvents
  rintro ⟨events, -⟩
  obtain ⟨causes, -⟩ := events leavingGust
  obtain ⟨taken, -⟩ := causes rfl rfl rfl
  obtain ⟨t, answer, user⟩ := exec_asyncCauseTaken_leavingGust
  injection answer.symm.trans (taken { cause := .freeze } rfl rfl rfl) with trapped
  rw [trapped] at user
  exact Bool.false_ne_true (user.symm.trans mode_leavingGust_trapped)

end Sys2Proof.Machine
end

section
/-!
PROOFS. What is on its way arrives (R157, R288, R295, R297, R298, R304).
-/

namespace Sys2Proof.Machine

namespace State

/-! ### What latching a cause changes (R367, R369) -/

/-- A latched cause changes at most one core, and of it neither the arrival queues nor anything but what is latched. -/
theorem latchCore_cases (s : State) (c : Nat) (l : Latched) :
    s.latchCore c l = s ∨ ∃ k x, s.latchCore c l = s.setCore k x ∧ x.aq = (s.core k).aq := by
  have latched (k i : Nat) : s.latch k i l = s ∨ ∃ k' x, s.latch k i l = s.setCore k' x ∧ x.aq = (s.core k').aq := by
    simp only [latch]
    split
    · exact .inl rfl
    · exact .inr ⟨_, _, rfl, rfl⟩
  simp only [latchCore]
  split
  · exact latched ..
  · split
    · exact latched ..
    · exact .inr ⟨_, _, rfl, rfl⟩

@[simp] theorem mem_latchCore (s : State) (c : Nat) (l : Latched) : (s.latchCore c l).mem = s.mem := by
  obtain same | ⟨k, x, same, -⟩ := s.latchCore_cases c l
  · rw [same]
  · rw [same, setCore_mem]

@[simp] theorem net_latchCore (s : State) (c : Nat) (l : Latched) : (s.latchCore c l).net = s.net := by
  obtain same | ⟨k, x, same, -⟩ := s.latchCore_cases c l
  · rw [same]
  · rw [same, setCore]

@[simp] theorem aq_latchCore (s : State) (c d : Nat) (l : Latched) : ((s.latchCore c l).core d).aq = (s.core d).aq := by
  obtain same | ⟨k, x, same, kept⟩ := s.latchCore_cases c l
  · rw [same]
  · rw [same]
    by_cases own : d = k
    · rw [own, core_setCore_same, kept]
    · rw [core_setCore_other _ _ own]

/-! ### Messages -/

theorem retiredHandle_noJob {s : State} {f : Flight} (job : f.msg.job = none) : s.retiredHandle f = false := by
  rw [retiredHandle, job]
  cases f.handle <;> rfl

theorem divert_noJob {s : State} {m : Msg} (job : m.job = none) (c q : Nat) : s.divert c q m = none := by
  rw [divert, draining, awayJob, job]
  rfl

/-- A message of no job for a logical core that has not ended joins its queue where there is room. -/
theorem arrive_room {s : State} {f : Flight} (job : f.msg.job = none) (there : s.homeEnded f.msg = false)
    (room : ((s.core f.core).aq[f.queue]?.getD []).length < aqDepth f.queue) :
    s.arrive f = (s.landFlight f).deliver f.core f.queue f.msg := by
  rw [arrive, retiredHandle_noJob job, there, divert_noJob job]
  simp only [Bool.false_eq_true, if_false, room, if_true]

theorem arrive_full {s : State} {f : Flight} (job : f.msg.job = none) (there : s.homeEnded f.msg = false)
    (full : aqDepth f.queue ≤ ((s.core f.core).aq[f.queue]?.getD []).length) (user : f.queue ≠ 0) : s.arrive f = s := by
  rw [arrive, retiredHandle_noJob job, there, divert_noJob job]
  simp only [Bool.false_eq_true, if_false, Nat.not_lt.mpr full, user]

/-- SYS_MESSAGE of arrival queue 0 aside, delivery changes the queue alone. -/
theorem deliver_cases (s : State) (c q : Nat) (m : Msg) :
    let t := s.setCore c { s.core c with aq := (s.core c).aq.setIfInBounds q (((s.core c).aq[q]?.getD []) ++ [m]) }
    s.deliver c q m = t ∨ ∃ l, s.deliver c q m = t.latchCore c l := by
  simp only [deliver]
  split
  · exact .inr ⟨_, rfl⟩
  · exact .inl rfl

@[simp] theorem mem_deliver (s : State) (c q : Nat) (m : Msg) : (s.deliver c q m).mem = s.mem := by
  obtain same | ⟨l, same⟩ := s.deliver_cases c q m
  · rw [same, setCore_mem]
  · rw [same, mem_latchCore, setCore_mem]

@[simp] theorem net_deliver (s : State) (c q : Nat) (m : Msg) : (s.deliver c q m).net = s.net := by
  obtain same | ⟨l, same⟩ := s.deliver_cases c q m
  · rw [same, setCore]
  · rw [same, net_latchCore, setCore]

theorem aq_deliver (s : State) (c : Nat) {q : Nat} (m : Msg) (inside : q < 4) :
    ((s.deliver c q m).core c).aq[q]?.getD [] = ((s.core c).aq[q]?.getD []) ++ [m] := by
  have joined : ((s.core c).aq.setIfInBounds q (((s.core c).aq[q]?.getD []) ++ [m]))[q]?.getD [] = ((s.core c).aq[q]?.getD []) ++ [m] := by
    rw [Vector.getElem?_setIfInBounds_self_of_lt inside, Option.getD_some]
  obtain same | ⟨l, same⟩ := s.deliver_cases c q m
  · rw [same, core_setCore_same, joined]
  · rw [same, aq_latchCore, core_setCore_same, joined]

/-! ### Landings -/

theorem push_of_landing? {s : State} {push : Bool} {n : Nat} {l : Landing} (due : s.landing? push n = some l) : l.push = push := by
  rw [landing?] at due
  split at due
  · exact absurd due.symm (Option.some_ne_none _)
  case h_2 m found =>
    have listed : m ∈ s.landings.filter fun l => l.push == push := List.mem_of_getElem? found
    dsimp only at due
    split at due
    · rw [← Option.some.inj due]
      exact beq_iff_eq.mp (List.mem_filter.mp listed).2
    · exact absurd due.symm (Option.some_ne_none _)

/-- A value of no waiting writer lands at its strand: its register changes, and the landing is over. -/
theorem land_there {s : State} {l : Landing} (inside : l.slot < 4) (writer : l.writer = none)
    (there : l.unit = (s.strandAt l.core l.slot).unit) :
    (s.land l).strandAt l.core l.slot = settled l (withLanding l (s.strandAt l.core l.slot)) ∧
      (s.land l).landings = s.landings.erase l := by
  have there' : (!(({ s with landings := s.landings.erase l } : State).slotAt l.core l.slot).u.unit == l.unit) = false := by
    rw [Bool.not_eq_false', beq_iff_eq]
    exact there.symm
  simp only [land, there', Bool.false_eq_true, if_false, releaseWriter, writer, strandAt, slotAt_setSlotAt_same _ _ _ inside]
  exact ⟨rfl, rfl⟩

theorem link_landed {l : Landing} {u : Strand} (link : l.push = false) (inside : l.n < 8) :
    (settled l (withLanding l u)).links[l.n]?.getD {} = { value := l.value, present := true, reserved := false } := by
  simp only [settled, withLanding, link, Bool.false_eq_true, if_false, Vector.getElem?_setIfInBounds_self_of_lt inside, Option.getD_some]

theorem queue_landed {l : Landing} {u : Strand} (push : l.push = true) (inside : l.n < 8) :
    (settled l (withLanding l u)).queues[l.n]?.getD {} =
      { items := (u.queues[l.n]?.getD {}).items ++ [l.value], reserved := (u.queues[l.n]?.getD {}).reserved - 1 } := by
  simp only [settled, withLanding, push, if_true, Vector.getElem?_setIfInBounds_self_of_lt inside, Option.getD_some]

end State

/-! ### The events -/

section
variable {s : State} {f : Flight} (due : s.firstFlight s.ev.index = some f) (awake : s.asleep f.core = false)
include due awake

theorem exec_messageArrival_due (message : f.queue < 3) : exec .messageArrival s = .next (s.arrive f) := by
  simp only [exec_messageArrival, execMessageArrival, due, awake, Nat.ne_of_lt message, Bool.false_eq_true, if_false]

theorem exec_messageArrival_retired (message : f.queue < 3) (retired : s.retiredHandle f = true) :
    exec .messageArrival s = .next ((s.landFlight f).latchCore f.core { cause := .grantStale }) := by
  rw [exec_messageArrival_due due awake message, State.arrive, if_pos retired]

theorem exec_messageArrival_ended (message : f.queue < 3) (current : s.retiredHandle f = false) (ended : s.homeEnded f.msg = true) :
    exec .messageArrival s = .next (s.landFlight f) := by
  rw [exec_messageArrival_due due awake message, State.arrive, current, if_neg Bool.false_ne_true, if_pos ended]

theorem exec_messageArrival_joins (message : f.queue < 3) (job : f.msg.job = none) (there : s.homeEnded f.msg = false)
    (room : ((s.core f.core).aq[f.queue]?.getD []).length < aqDepth f.queue) :
    ∃ t, exec .messageArrival s = .next t ∧ (t.core f.core).aq[f.queue]?.getD [] = ((s.core f.core).aq[f.queue]?.getD []) ++ [f.msg] ∧
      t.net = s.net.erase f ∧ t.mem = s.mem := by
  refine ⟨_, exec_messageArrival_due due awake message, ?_⟩
  rw [State.arrive_room job there room]
  exact ⟨State.aq_deliver _ _ _ (by omega), State.net_deliver .., State.mem_deliver ..⟩

omit awake in
theorem exec_messageArrival_gust (gust : f.queue = 3) : exec .messageArrival s = .next s := by
  simp only [exec_messageArrival, execMessageArrival, due, gust, if_true]

theorem exec_gustArrival_accepted (gust : f.queue = 3) {t : State} (place : (s.landFlight f).placeGust f = some t) :
    exec .gustArrival s = .next (t.answer f true) := by
  simp only [exec_gustArrival, execGustArrival, due, awake, gust, place, ne_eq, not_true_eq_false, Bool.false_eq_true, if_false]

theorem exec_gustArrival_refused (gust : f.queue = 3) (place : (s.landFlight f).placeGust f = none) :
    exec .gustArrival s = .next ((s.landFlight f).answer f false) := by
  simp only [exec_gustArrival, execGustArrival, due, awake, gust, place, ne_eq, not_true_eq_false, Bool.false_eq_true, if_false]
end

namespace Laws

/-- Settles O48: what is due at the place, then the message by its queue, the gust by its place, the value by its register. -/
theorem landings : Obligations.Landings := by
  unfold Obligations.Landings
  refine fun s f l => ⟨fun none_ => ?_, fun due awake => ⟨fun gust => ?_, ?_, ?_, fun message job there => ?_⟩,
    fun none_ => ?_, fun none_ => ?_, fun due slot n writer there _ => ?_, fun due slot n writer there => ?_⟩
  · rw [exec_messageArrival, execMessageArrival, exec_gustArrival, execGustArrival, none_]
    exact ⟨rfl, rfl⟩
  · exact ⟨exec_messageArrival_gust due gust, fun t => exec_gustArrival_accepted due awake gust,
      exec_gustArrival_refused due awake gust⟩
  · exact exec_messageArrival_retired due awake
  · exact exec_messageArrival_ended due awake
  · refine ⟨exec_messageArrival_joins due awake message job there, fun full user => ?_⟩
    rw [exec_messageArrival_due due awake message, State.arrive_full job there full user]
  · rw [exec_linkLanding, execLinkLanding, none_]
  · rw [exec_queuePushLanding, execQueuePushLanding, none_]
  · obtain ⟨strand, gone⟩ := State.land_there slot writer there
    refine ⟨_, by rw [exec_linkLanding, execLinkLanding, due], ?_, gone⟩
    rw [strand, State.link_landed (State.push_of_landing? due) n]
  · intro q reserved
    obtain ⟨strand, gone⟩ := State.land_there slot writer there
    refine ⟨_, by rw [exec_queuePushLanding, execQueuePushLanding, due], ?_, gone⟩
    rw [strand, State.queue_landed (State.push_of_landing? due) n]

end Laws

end Sys2Proof.Machine
end

section
/-!
PROOFS. A copy command that a fault has paused and whose fault has been answered (R214, R316): it goes on.
-/

namespace Sys2Proof.Machine

/-- A paused CPY of no bytes whose host has resolved its fault. -/
def answeredCopy : CopyCmd :=
  { op := 0, mod := 0, batch := 0, ticket := 1, a := [0, 0], wb := 0, paused := true, core := 0, slot := 0, unit := none, job := none
    home := none
    fault := some { claim := 0, written := true, va := 0, asn := 0, core := 0, slot := 0, cause := 0, flags := 0, job := 0, generation := 0
                    replied := some 0 } }

/-- It is the one command of context 0 of core 0. -/
def answeredCopyState : State :=
  { State.reset with cores := [(0, { copies := Vector.ofFn fun _ => { issued := 1, cmds := [answeredCopy] } })] }

/-- Its completion leaves the context with nothing outstanding. -/
theorem exec_copyCommandComplete_answered : ∃ t : State, exec .copyCommandComplete answeredCopyState = .next t ∧
    (t.core 0).copies[0].reached = 1 := ⟨_, rfl, by decide⟩

/-- Refutes O50: a command that is paused goes on once its fault has been answered. -/
theorem not_engineEvents : ¬ Obligations.EngineEvents := by
  unfold Obligations.EngineEvents
  intro events
  obtain ⟨-, copies, -⟩ := events answeredCopyState
  obtain ⟨stays, -⟩ := copies answeredCopy rfl
  obtain ⟨t, answer, reached⟩ := exec_copyCommandComplete_answered
  injection answer.symm.trans (stays (.inl rfl)) with same
  rw [same] at reached
  exact absurd reached (by decide)

end Sys2Proof.Machine
end

section
/-!
PROOFS. What the caches, the directories and the host's line states may change (R257 to R278): an access that they serve moves lines,
and neither a slot nor the running strand, nor GPHASE; what moves no untracked byte changes no byte of memory.
-/

namespace Sys2Proof.Machine

/-- Lines have moved and nothing else that an instruction reads: memory, slots, the running strand and GPHASE are as before. -/
structure LineMoves (s t : State) : Prop where
  mem : t.mem = s.mem
  cur : t.cur = s.cur
  gphase : t.gphase = s.gphase
  slots : ∀ c, (t.core c).slots = (s.core c).slots

namespace LineMoves

theorem refl (s : State) : LineMoves s s := ⟨rfl, rfl, rfl, fun _ => rfl⟩

theorem trans {s t u : State} (h : LineMoves s t) (k : LineMoves t u) : LineMoves s u :=
  ⟨k.mem.trans h.mem, k.cur.trans h.cur, k.gphase.trans h.gphase, fun c => (k.slots c).trans (h.slots c)⟩

theorem foldl {α : Type} {f : State → α → State} (h : ∀ s a, LineMoves s (f s a)) (l : List α) (s : State) : LineMoves s (l.foldl f s) := by
  induction l generalizing s with
  | nil => exact refl s
  | cons a l ih => exact (h s a).trans (ih _)

theorem ite {p : Prop} [Decidable p] {s t u : State} (h : LineMoves s t) (k : LineMoves s u) : LineMoves s (if p then t else u) := by
  split
  · exact h
  · exact k

theorem slot {s t : State} (h : LineMoves s t) : t.slot = s.slot := by
  rw [State.slot, State.slotAt, h.cur, h.slots]
  rfl

end LineMoves

namespace State

/-! ### Cores, dies, transactions -/

theorem moves_setCore {s : State} {c : Nat} {x : Core} (same : x.slots = (s.core c).slots) : LineMoves s (s.setCore c x) := by
  refine ⟨setCore_mem .., rfl, rfl, fun k => ?_⟩
  by_cases own : k = c
  · rw [own, core_setCore_same, same]
  · rw [core_setCore_other _ _ own]

theorem moves_setDie (s : State) (d : Nat) (x : Die) : LineMoves s (s.setDie d x) := ⟨rfl, rfl, rfl, fun _ => rfl⟩

theorem moves_count (s : State) (c code n : Nat) : LineMoves s (s.count c code n) := by
  rw [count]
  exact (LineMoves.refl s).ite (moves_setCore rfl)

theorem moves_countMiss (s : State) (c : Nat) (b : Bool) : LineMoves s (s.countMiss c b) := by
  rw [countMiss]
  exact (moves_count ..).trans ((LineMoves.refl _).ite (moves_count ..))

theorem moves_forgetHost (s : State) (l : Nat) : LineMoves s (s.forgetHost l) := ⟨rfl, rfl, rfl, fun _ => rfl⟩

theorem moves_noteHost (s : State) (l slot : Nat) : LineMoves s (s.noteHost l slot) := by
  rw [noteHost]
  exact (LineMoves.refl s).ite ⟨rfl, rfl, rfl, fun _ => rfl⟩

theorem moves_hostTx (s : State) (x : AMap HostTx) : LineMoves s { s with hostTx := x } := ⟨rfl, rfl, rfl, fun _ => rfl⟩

theorem moves_sendHost (s : State) (t : HostTx) : LineMoves s (s.sendHost t) := by
  unfold sendHost
  generalize s.moduleOf t.line = m
  dsimp only
  split
  · exact moves_hostTx ..
  · exact .refl s

theorem moves_openTx (s : State) (op l : Nat) : LineMoves s (s.openTx op l) := moves_sendHost ..

theorem moves_closeTx (s : State) (l : Nat) (p : Nat → Bool) : LineMoves s (s.closeTx l p) := moves_hostTx ..

/-! ### Lines of L1s, L2s, directories and the host -/

theorem moves_markLine (s : State) (c l : Nat) : LineMoves s (s.markLine c l) := by
  simp only [markLine]
  split
  · exact moves_setCore rfl
  · exact .refl s

theorem moves_setL1 (s : State) (c l : Nat) (x : LineState) (slot : Nat) : LineMoves s (s.setL1 c l x slot) := by
  rw [setL1]
  refine moves_setCore ?_
  split <;> rfl

theorem moves_setUt (s : State) (c l : Nat) (x : UtLine) : LineMoves s (s.setUt c l x) := moves_setCore rfl

theorem moves_holdL2 (s : State) (d l : Nat) (x : L2Line) : LineMoves s (s.holdL2 d l x) := moves_setDie ..

theorem moves_setL2 (s : State) (d l : Nat) (x : L2Line) : LineMoves s (s.setL2 d l x) := by
  rw [setL2]
  exact (moves_setDie ..).ite (moves_holdL2 ..)

theorem moves_holdDir (s : State) (l : Nat) (x : DirEntry) : LineMoves s (s.holdDir l x) := moves_setDie ..

theorem moves_setDir (s : State) (l : Nat) (x : DirEntry) : LineMoves s (s.setDir l x) := by
  simp only [setDir]
  exact (moves_setDie ..).ite (moves_holdDir ..)

theorem moves_mapDir (s : State) (l : Nat) (f : DirEntry → DirEntry) : LineMoves s (s.mapDir l f) := moves_setDir ..

theorem moves_setHostLine (s : State) (l : Nat) (x : LineState) : LineMoves s (s.setHostLine l x) := by
  rw [setHostLine]
  split
  · exact ⟨rfl, rfl, rfl, fun _ => rfl⟩
  · exact ⟨rfl, rfl, rfl, fun _ => rfl⟩

theorem moves_recallL1s (s : State) (d l : Nat) (keep : Bool) (but : Option Nat) : LineMoves s (s.recallL1s d l keep but) := by
  simp only [recallL1s]
  exact (LineMoves.refl s).ite ((LineMoves.foldl (fun s c => (LineMoves.refl s).ite (moves_setL1 ..)) _ _).trans (moves_setL2 ..))

theorem moves_invalidateDie (s : State) (d l : Nat) : LineMoves s (s.invalidateDie d l) := (moves_recallL1s ..).trans (moves_setL2 ..)

theorem moves_backInvalidate (s : State) (l : Nat) : LineMoves s (s.backInvalidate l) := by
  simp only [backInvalidate]
  exact ((LineMoves.foldl (fun s d => moves_invalidateDie s d l) _ _).trans (moves_setDir ..)).trans (moves_setHostLine ..)

theorem moves_leaveHost (s : State) (l : Nat) (dirty : Bool) : LineMoves s (s.leaveHost l dirty) := by
  simp only [leaveHost]
  exact ((moves_setHostLine ..).trans ((moves_setDie ..).trans (moves_openTx ..))).ite ((moves_setHostLine ..).trans (moves_openTx ..))

theorem moves_keepHost (s : State) (l : Nat) : LineMoves s (s.keepHost l) :=
  ((moves_forgetHost s l).trans (moves_setHostLine ..)).trans (moves_openTx ..)

theorem moves_evictLine (s : State) (l : Nat) : LineMoves s (s.evictLine l) := by
  rw [evictLine]
  exact (LineMoves.refl s).ite ((moves_backInvalidate ..).trans (moves_leaveHost ..))

theorem moves_makeRoom (s : State) (l : Nat) : LineMoves s (s.makeRoom l) := by
  rw [makeRoom]
  split
  · exact moves_evictLine ..
  · exact .refl s

theorem moves_dropLine (s : State) (l d : Nat) (dirty : Bool) : LineMoves s (s.dropLine l d dirty) := by
  simp only [dropLine]
  refine (LineMoves.refl s).ite (((moves_invalidateDie ..).trans ((moves_setDir ..).trans (moves_leaveHost ..))).ite ?_)
  exact ((moves_invalidateDie ..).trans ((moves_setDir ..).trans (moves_keepHost ..))).ite ((moves_invalidateDie ..).trans (moves_setDir ..))

/-! ### Accesses of lines -/

/-- Another die's copy of a line that is read: recalled, and shared from then on. -/
theorem moves_shareOwner (s : State) (l : Nat) (owner : Option Nat) (st : LineState) :
    LineMoves s (match owner with
      | some o => (s.recallL1s o l true).setL2 o l { (s.recallL1s o l true).l2Line o l with state := st }
      | none => s) := by
  cases owner with
  | none => exact .refl s
  | some o => exact (moves_recallL1s ..).trans (moves_setL2 ..)

theorem moves_homeGrant (s : State) (d l : Nat) (write : Bool) (slot : Nat) : LineMoves s (s.homeGrant d l write slot) := by
  simp only [homeGrant]
  have room : LineMoves s ((if s.slotClash l slot then s.evictLine l else s).makeRoom l) :=
    ((moves_evictLine ..).ite (.refl s)).trans (moves_makeRoom ..)
  refine room.trans ?_
  generalize (if s.slotClash l slot then s.evictLine l else s).makeRoom l = t
  refine LineMoves.ite (((LineMoves.foldl (fun s k => moves_invalidateDie s k l) _ _).trans ((moves_holdL2 ..).trans
    (moves_holdDir ..))).trans (moves_setHostLine ..)) ?_
  split
  · exact ((moves_holdL2 ..).trans (moves_holdDir ..)).trans (moves_setHostLine ..)
  · exact (moves_shareOwner ..).trans ((moves_holdL2 ..).trans (moves_holdDir ..))

theorem moves_serveL1 (s : State) (c l : Nat) (write : Bool) (slot policy : Nat) : LineMoves s (s.serveL1 c l write slot policy) := by
  simp only [serveL1]
  refine LineMoves.ite ?_ ((LineMoves.refl s).ite ?_)
  · refine ((moves_recallL1s s (dieOf c) l false (some c)).trans (moves_noteHost _ l slot)).trans ?_
    exact (moves_holdL2 ..).ite ((moves_holdL2 ..).trans (moves_setL1 ..))
  · exact (moves_recallL1s ..).trans ((LineMoves.refl _).ite ((moves_holdL2 ..).trans (moves_setL1 ..)))

theorem moves_touch (s : State) (c l : Nat) (write : Bool) (slot policy : Nat) : LineMoves s (s.touch c l write slot policy) := by
  simp only [touch]
  refine (LineMoves.refl s).ite ?_
  have counted : LineMoves s (if s.l1State c l = .i then s.countMiss c ((s.l2Line (dieOf c) l).state != .i) else s) :=
    (moves_countMiss ..).ite (.refl s)
  have served := fun t => (LineMoves.ite (moves_homeGrant t (dieOf c) l write slot) (.refl t)
    (p := s.homeNeeded c l write slot = true)).trans (moves_serveL1 _ c l write slot policy)
  exact (counted.trans ((served _).trans (moves_markLine ..))).ite (counted.trans (served _))

end State

namespace State

/-! ### Untracked lines that an L1 has none of (R257, R278) -/

theorem moves_l2Untracked (s : State) (d l slot : Nat) : LineMoves s (s.l2Untracked d l slot).2 := by
  simp only [l2Untracked]
  split
  · split
    · exact .refl s
    · exact moves_setDie ..
  · exact moves_setDie ..

theorem meetSlot_absent {s : State} {c : Nat} (absent : (s.core c).untracked = []) (l slot : Nat) : s.meetSlot c l slot = s := by
  rw [meetSlot, absent]
  exact if_pos rfl

theorem moves_fill (s : State) (c l slot policy : Nat) (x : UtLine) (o n : Nat) :
    LineMoves s (let r := s.l2Untracked (dieOf c) l slot
      let y : UtLine := { x with slot := slot, copy := some r.1 }
      ((List.range n).map fun i => (y.at? (o + i)).getD 0, if policy = 1 then r.2 else r.2.setUt c l y)).2 :=
  (moves_l2Untracked s (dieOf c) l slot).trans ((LineMoves.refl _).ite (moves_setUt ..))

/-- A read of untracked bytes by a core publishes nothing where its L1 meets the line's slot. -/
theorem moves_untrackedPiece_met {s : State} {c l slot : Nat} (met : s.meetSlot c l slot = s) (policy o n : Nat) :
    LineMoves s (s.untrackedPiece c l slot policy o n).2 := by
  simp only [untrackedPiece, met]
  split
  · exact .refl s
  · exact (moves_countMiss ..).trans (moves_fill ..)

end State

/-! ### What publishing keeps (R257, R278) -/

/-- Slots, the running strand and GPHASE are as before, and memory is canonical where it was: bytes may have been written. -/
structure LinesPublished (s t : State) : Prop where
  cur : t.cur = s.cur
  gphase : t.gphase = s.gphase
  slots : ∀ c, (t.core c).slots = (s.core c).slots
  canonical : MemoryCanonical s → MemoryCanonical t

theorem LineMoves.published {s t : State} (h : LineMoves s t) : LinesPublished s t :=
  ⟨h.cur, h.gphase, h.slots, fun wf => by rwa [MemoryCanonical, h.mem]⟩

namespace LinesPublished

theorem refl (s : State) : LinesPublished s s := (LineMoves.refl s).published

theorem trans {s t u : State} (h : LinesPublished s t) (k : LinesPublished t u) : LinesPublished s u :=
  ⟨k.cur.trans h.cur, k.gphase.trans h.gphase, fun c => (k.slots c).trans (h.slots c), k.canonical ∘ h.canonical⟩

theorem foldl {α : Type} {f : State → α → State} (h : ∀ s a, LinesPublished s (f s a)) (l : List α) (s : State) :
    LinesPublished s (l.foldl f s) := by
  induction l generalizing s with
  | nil => exact refl s
  | cons a l ih => exact (h s a).trans (ih _)

theorem ite {p : Prop} [Decidable p] {s t u : State} (h : LinesPublished s t) (k : LinesPublished s u) :
    LinesPublished s (if p then t else u) := by
  split
  · exact h
  · exact k

theorem slot {s t : State} (h : LinesPublished s t) : t.slot = s.slot := by
  rw [State.slot, State.slotAt, h.cur, h.slots]
  rfl

end LinesPublished

namespace State

theorem published_store (s : State) (a : Nat) (bs : List Byte) : LinesPublished s (s.store a bs) :=
  ⟨rfl, rfl, fun _ => rfl, fun wf => Memory.wf_puts wf ..⟩

/-- The seals are beside what is kept. -/
theorem published_seals (s : State) (x : AMap Nat) : LinesPublished s { s with seals := x } := ⟨rfl, rfl, fun _ => rfl, id⟩

theorem published_stamps (s : State) (x : AMap (Nat × Option Nat)) : LinesPublished s { s with stamps := x } :=
  ⟨rfl, rfl, fun _ => rfl, id⟩

theorem published_resealLine (s : State) (pa key : Nat) : LinesPublished s (s.resealLine pa key) := by
  rw [resealLine]
  exact (LinesPublished.refl s).ite ((published_store ..).trans (published_seals ..))

theorem published_physStore (s : State) (pa : Nat) (bs : List Byte) (slot : Nat) : LinesPublished s (s.physStore pa bs slot) := by
  rw [physStore]
  exact (LinesPublished.refl s).ite ((LinesPublished.foldl (fun s i => published_resealLine s _ _) _ _).trans (published_store ..))

theorem published_cellStore (s : State) (key : Nat) (bs : List Byte) (slot : Nat) : LinesPublished s (s.cellStore key bs slot) := by
  rw [cellStore]
  exact (published_physStore ..).ite (published_store ..)

/-- The die's L2 follows a published byte (R278). -/
theorem published_publishByte (s : State) (c pa slot : Nat) (b : Byte) : LinesPublished s (s.publishByte c pa slot b) := by
  simp only [publishByte]
  refine (LinesPublished.refl s).ite ((published_physStore s pa [b] slot).trans ?_)
  generalize s.physStore pa [b] slot = t
  have stamped : LinesPublished t (if (s.core c).phase.toNat = 0 then t else
      { t with stamps := AMap.set t.stamps pa ((s.core c).phase.toNat, (s.core c).job) }) :=
    (LinesPublished.refl t).ite (published_stamps ..)
  refine stamped.trans ?_
  generalize (if (s.core c).phase.toNat = 0 then t else _) = u
  split
  · exact (moves_setDie ..).published
  · exact .refl _

theorem published_publishLine (s : State) (c l : Nat) : LinesPublished s (s.publishLine c l) := by
  rw [publishLine]
  exact LinesPublished.foldl (fun s x => published_publishByte s _ _ _ _) _ _

theorem published_meetSlot (s : State) (c l slot : Nat) : LinesPublished s (s.meetSlot c l slot) := by
  rw [meetSlot]
  exact (LinesPublished.refl s).ite ((published_publishLine ..).trans (moves_setUt ..).published)

theorem published_untrackedPiece (s : State) (c l slot policy o n : Nat) : LinesPublished s (s.untrackedPiece c l slot policy o n).2 := by
  simp only [untrackedPiece]
  refine (published_meetSlot s c l slot).trans ?_
  split
  · exact .refl _
  · exact ((moves_countMiss ..).trans (moves_fill ..)).published

/-- A line whose dirty bytes have been published is left clean, with the bytes that the L1 or the L2 has. -/
theorem published_cleanLine (s : State) (c l : Nat) (x : UtLine) : LinesPublished s
    (let r := match x.copy with
      | some bs => (x.dirty.foldl (fun (bs : List Byte) (o, b) => bs.set o b) bs, s)
      | none => s.l2Untracked (dieOf c) l x.slot
    r.2.setUt c l { x with copy := some r.1, dirty := [] }) := by
  dsimp only
  cases x.copy with
  | some bs => exact (moves_setUt ..).published
  | none => exact ((moves_l2Untracked ..).trans (moves_setUt ..)).published

theorem published_flushUntracked (s : State) (c : Nat) (p : Nat → Bool) : LinesPublished s (s.flushUntracked c p) := by
  rw [flushUntracked]
  exact LinesPublished.foldl (fun s x => (published_publishLine ..).trans (published_cleanLine ..)) _ _

theorem moves_dropUntracked (s : State) (c : Nat) (p : Nat → Bool) : LineMoves s (s.dropUntracked c p) := moves_setCore rfl

end State

/-! ### Hints (R89) -/

section
variable {s : State} (fits : s.NoPrefix) (r : Reg) (i : BitVec 16)
include fits

theorem exec_hevict_moves : ∃ t : State, exec (.hevict r i) s = .next t.retire ∧ t.mem = s.mem ∧ t.slot = s.slot := by
  rw [exec_hevict, execHevict, State.plain_ok fits]
  dsimp only
  split
  case h_1 t _ =>
    have moved : LineMoves s (if bits s.u.memdef 7 6 ≠ 0 then s
        else s.markLine s.cur.1 (lineOf (leafAddress t.leaf (s.reg r + sext 16 i.toNat) t.level))) :=
      (LineMoves.refl s).ite (State.moves_markLine ..)
    exact ⟨_, rfl, moved.mem, moved.slot⟩
  case h_2 => exact ⟨s, rfl, rfl, rfl⟩

theorem exec_hpref_moves : ∃ t : State, exec (.hpref r i) s = .next t.retire ∧ (s.me.untracked = [] → t.mem = s.mem) ∧
    t.slot = s.slot := by
  rw [exec_hpref, execHpref, State.plain_ok fits]
  dsimp only
  split
  case h_1 t _ =>
    split
    · exact ⟨s, rfl, fun _ => rfl, rfl⟩
    · split
      · exact ⟨_, rfl, fun absent => (State.moves_untrackedPiece_met (State.meetSlot_absent absent ..) ..).mem,
          (State.published_untrackedPiece ..).slot⟩
      · exact ⟨_, rfl, fun _ => (State.moves_touch ..).mem, (State.moves_touch ..).slot⟩
  case h_2 => exact ⟨s, rfl, fun _ => rfl, rfl⟩

theorem exec_halign_alone (alone : s.alignPeers = []) : exec (.halign r i) s = .next s.retire := by
  rw [exec_halign, execHalign, State.plain_ok fits]
  simp only [alone]
  rfl

theorem exec_halign_waits (behind : ∃ p ∈ s.alignPeers, s.atAlign s.pc p.1 p.2 = false) :
    exec (.halign r i) s = .next (s.setWait (.align s.pc)) := by
  have waits : (s.alignPeers.all fun p => s.atAlign s.pc p.1 p.2) = false := by
    obtain ⟨p, listed, away⟩ := behind
    exact List.all_eq_false.mpr ⟨p, listed, by rw [away]; exact Bool.false_ne_true⟩
  rw [exec_halign, execHalign, State.plain_ok fits]
  simp only [waits, Bool.false_eq_true, if_false]
  rfl
end

/-! ### Fences (R235) and prefetches (R240) -/

theorem fencePerforms_iff (k c : BitVec 3) : fencePerforms k.toNat c.toNat = true ↔ c = 4 ∨ (3 ≤ k.toNat ∧ (c = 2 ∨ c = 3)) := by
  simp only [fencePerforms, Bool.or_eq_true, Bool.and_eq_true, beq_iff_eq, decide_eq_true_eq,
    ← BitVec.toNat_inj (x := c), show (4 : BitVec 3).toNat = 4 from rfl, show (2 : BitVec 3).toNat = 2 from rfl,
    show (3 : BitVec 3).toNat = 3 from rfl]

theorem State.performHeld_alone {s : State} (alone : s.slot.pair = none) : s.performHeld = .ok s := by
  rw [performHeld, alone]

theorem State.performHeld_paired {s : State} {p : Pair} (paired : s.slot.pair = some p) (served : s.awaitHeld p = .ok ()) :
    ∃ u, s.performHeld = .ok u := by
  simp only [performHeld, paired]
  split
  · exact ⟨_, rfl⟩
  · rw [served]
    exact ⟨_, rfl⟩

section
variable {s : State} {k c : BitVec 3} (fits : s.NoPrefix)
include fits

theorem exec_fence_light (light : fencePerforms k.toNat c.toNat = false) : exec (.fence k c) s = .next s.retire := by
  rw [exec_fence, execFence, State.plain_ok fits]
  simp only [light]
  rfl

theorem exec_fence_performs (heavy : fencePerforms k.toNat c.toNat = true) {u : State} (held : s.performHeld = .ok u) :
    exec (.fence k c) s = .next u.retire := by
  rw [exec_fence, execFence, State.plain_ok fits]
  simp only [heavy, if_true, held]
  rfl
end

theorem exec_pref_retires {s : State} {t : Attr} (fits : s.ModFits) (attributes : s.attrs 3 = .ok t) (a : Reg) (i : BitVec 2) :
    ∃ u : State, exec (.pref a i) s = .next u.retire ∧ (t.space ≠ 0 → u = s) := by
  rw [exec_pref, execPref, State.withMod_ok fits]
  simp only [attributes, bind, Except.bind]
  split
  · exact ⟨s, rfl, fun _ => rfl⟩
  case isFalse global =>
    split
    · exact ⟨_, rfl, fun other => absurd other global⟩
    · exact ⟨_, rfl, fun other => absurd other global⟩

namespace Laws

/-- Settles O22: each hint, then FENCE by whether it performs what a pair holds, and PREF by its space. -/
theorem hintsAndFences : Obligations.HintsAndFences := by
  unfold Obligations.HintsAndFences
  refine ⟨fun s r i fits => ⟨?_, ?_, exec_hevict_moves fits r i, exec_hpref_moves fits r i, exec_halign_alone fits r i,
    exec_halign_waits fits r i⟩, fun s k c a i t => ⟨fun fits => ⟨fun sc wide => ?_, fun heavy u => ?_⟩, State.performHeld_alone,
    fun p => State.performHeld_paired, fun fits attributes => exec_pref_retires fits attributes a i⟩⟩
  · rw [exec_hlikely, execHlikely, State.plain_ok fits]
    rfl
  · rw [exec_hprio, execHprio, State.plain_ok fits]
    rfl
  · refine exec_fence_light fits (Bool.eq_false_iff.mpr fun heavy => ?_)
    exact ((fencePerforms_iff k c).mp heavy).elim sc wide
  · exact exec_fence_performs fits ((fencePerforms_iff k c).mpr heavy)

end Laws

end Sys2Proof.Machine
end

section
/-!
PROOFS. Completions, dispatch, TICK, pre-emption requests and GPHASE (R258, R307, R345, R351 to R358, R371, R373).
-/

namespace Sys2Proof.Machine

namespace State

/-! ### GPHASE (R258, R358) -/

theorem published_becomePassive (s : State) (c : Nat) : LinesPublished s (s.becomePassive c) := by
  simp only [becomePassive]
  split
  · refine ((published_flushUntracked s c fun _ => true).trans (moves_dropUntracked _ c fun _ => true).published).trans ?_
    exact LineMoves.published (moves_setCore rfl)
  · exact .refl s

theorem gphase_foldl_becomePassive (cs : List Nat) (s : State) : (cs.foldl becomePassive s).gphase = s.gphase :=
  (LinesPublished.foldl published_becomePassive cs s).gphase

end State

section
variable (s : State) {k : State} (passive : (AMap.keys s.cores).foldl State.becomePassive s = k)
include passive

theorem exec_gphasePublish_none (none_ : k.leastPhase = none) : exec .gphasePublish s = .next k := by
  simp only [exec_gphasePublish, execGphasePublish, passive, none_]

theorem exec_gphasePublish_least {m : Word} (least : k.leastPhase = some m) :
    ∃ t, exec .gphasePublish s = .next t ∧ t.gphase.toNat = max k.gphase.toNat m.toNat := by
  simp only [exec_gphasePublish, execGphasePublish, passive, least]
  refine ⟨_, rfl, ?_⟩
  split
  case isTrue rises =>
    rw [BitVec.ult, decide_eq_true_eq] at rises
    exact (Nat.max_eq_right (Nat.le_of_lt rises)).symm
  case isFalse stays =>
    rw [BitVec.ult, decide_eq_true_eq, Nat.not_lt] at stays
    exact (Nat.max_eq_left stays).symm
end

/-! ### Pre-emption requests (R373) -/

section
variable {s : State} {p : Nat × Nat} (row : s.rowOfSlot s.ev.core s.ev.slot = [p])
include row

theorem exec_preempt_halted {h : Halt} (halted : (s.slotAt p.1 p.2).status = .halted h) : exec .preempt s = .next s := by
  simp only [exec_preempt, execPreempt, row, List.foldl_cons, List.foldl_nil, halted]

theorem exec_preempt_ready (ready : (s.slotAt p.1 p.2).status = .ready) :
    exec .preempt s = .next (s.latch p.1 p.2 { cause := .preempt }) := by
  simp only [exec_preempt, execPreempt, row, List.foldl_cons, List.foldl_nil, ready]
end

namespace Laws

/-- Settles O52: each event by its definition, and GPHASE by the least PHASE of the active cores. -/
theorem scheduling : Obligations.Scheduling := by
  unfold Obligations.Scheduling
  refine ⟨fun s => ⟨fun kind => ?_, fun kind => ?_, fun kind => ?_, fun kind => ?_, fun kind => ?_, ?_, fun none_ => ?_, fun j known => ?_, ?_,
    fun p row => ⟨fun h => exec_preempt_halted row, exec_preempt_ready row⟩⟩, fun s => ?_⟩
  · simp only [exec_instanceCompletion, execInstanceCompletion, kind]
  · simp only [exec_instanceCompletion, execInstanceCompletion, kind]
  · simp only [exec_instanceCompletion, execInstanceCompletion, kind]
  · simp only [exec_instanceCompletion, execInstanceCompletion, kind]
  · simp only [exec_instanceCompletion, execInstanceCompletion, kind]
  · rw [exec_nodeDispatch, execNodeDispatch]
  · simp only [exec_tailWatch, execTailWatch, none_]
  · simp only [exec_tailWatch, execTailWatch, known] <;> rfl
  · rw [exec_tick, execTick]
  · intro k
    have same : k.gphase = s.gphase := State.gphase_foldl_becomePassive ..
    cases least : k.leastPhase with
    | none =>
      refine ⟨same, k, exec_gphasePublish_none s rfl least, Nat.le_of_eq (congrArg _ same.symm), fun _ => rfl, fun m some_ => ?_⟩
      exact absurd some_.symm (Option.some_ne_none _)
    | some m =>
      obtain ⟨t, runs, published⟩ := exec_gphasePublish_least s rfl least
      rw [same] at published
      refine ⟨same, t, runs, ?_, fun none_ => absurd none_ (Option.some_ne_none _), fun n some_ => ?_⟩
      · rw [published]
        exact Nat.le_max_left ..
      · rw [published, Option.some.inj some_]

end Laws

end Sys2Proof.Machine
end

section
/-!
PROOFS. Coherence messages, the host's answers and hardware errors (R165, R200, R269 to R277, R371, R372, R392 to R394).
-/

namespace Sys2Proof.Machine

namespace State

/-! ### What the protocol moves (log 3) -/

theorem moves_sendCoh (s : State) (l source target : Nat) (m : Coh) : LineMoves s (s.sendCoh l source target m) :=
  ⟨rfl, rfl, rfl, fun _ => rfl⟩

theorem moves_sendSnoop (s : State) (l d : Nat) (m : Coh) : LineMoves s (s.sendSnoop l d m) :=
  (moves_mapDir ..).trans (moves_sendCoh ..)

theorem moves_answerHost (s : State) (l op attr : Nat) : LineMoves s (s.answerHost l op attr) := ⟨rfl, rfl, rfl, fun _ => rfl⟩

theorem moves_maybeComp (s : State) (l : Nat) : LineMoves s (s.maybeComp l) := by
  simp only [maybeComp]
  split
  · exact (moves_sendCoh ..).ite (.refl s)
  · exact .refl s

theorem moves_askHost (s : State) (op l : Nat) : LineMoves s ((s.openTx op l).mapDir l fun e => { e with hostPending := true }) :=
  (moves_openTx ..).trans (moves_mapDir ..)

/-- An Upgrade is asked for where the part holds the line in S or O. -/
theorem moves_upgrade (s : State) (l : Nat) : LineMoves s
    (match s.hostLine l with | .e => s | .m => s | _ => (s.openTx 3 l).mapDir l fun e => { e with hostPending := true }) := by
  split
  · exact .refl s
  · exact .refl s
  · exact moves_askHost ..

theorem moves_snoops (s : State) (l : Nat) (ds : List Nat) (m : Nat → Coh) : LineMoves s (ds.foldl (fun s o => s.sendSnoop l o (m o)) s) :=
  LineMoves.foldl (fun s o => moves_sendSnoop s l o (m o)) ds s

theorem moves_startEvict (s : State) (l : Nat) : LineMoves s (s.startEvict l) := (moves_mapDir ..).trans (moves_snoops _ l _ fun _ => .inv)

theorem moves_finishEvict (s : State) (l : Nat) : LineMoves s (s.finishEvict l) := by
  simp only [finishEvict]
  split
  · exact ((moves_setDir ..).trans (moves_leaveHost ..)).ite (.refl s)
  · exact .refl s

theorem moves_answerSnoop (s : State) (l d : Nat) (shared : Bool) : LineMoves s (s.answerSnoop l d shared).2 := by
  simp only [answerSnoop]
  split
  · exact (moves_recallL1s ..).trans (moves_setL2 ..)
  · exact moves_invalidateDie ..

theorem moves_snoopShared (s : State) (l : Nat) : LineMoves s (s.snoopShared l) := by
  simp only [snoopShared]
  split
  · exact (moves_setHostLine ..).trans (moves_answerHost ..)
  · exact (moves_setHostLine ..).trans (moves_answerHost ..)
  · split
    · exact (moves_setHostLine ..).trans (moves_answerHost ..)
    · exact (((moves_answerSnoop ..).trans (moves_setDir ..)).trans (moves_setHostLine ..)).trans (moves_answerHost ..)

theorem moves_snoopInv (s : State) (l : Nat) : LineMoves s (s.snoopInv l) :=
  (((LineMoves.foldl (fun s d => moves_invalidateDie s d l) _ _).trans (moves_setDir ..)).trans (moves_setHostLine ..)).trans
    (moves_answerHost ..)

/-- The owner is asked to forward a line; without one the home supplies it. -/
theorem moves_forwarded (s : State) (l h d : Nat) (owner : Option Nat) : LineMoves s (match owner with
    | some o => s.sendSnoop l o .fwdS
    | none => s.sendCoh l h d (.data .s true)) := by
  cases owner with
  | some o => exact moves_sendSnoop ..
  | none => exact moves_sendCoh ..

theorem moves_acceptLine (s : State) (r : LineReq) : LineMoves s (s.acceptLine r) := by
  unfold acceptLine
  extract_lets line d h e kind ask upgrade k others
  have asked (op : Nat) (t : State) : LineMoves t (ask op t) := moves_askHost ..
  have upgraded (t : State) : LineMoves t (upgrade t) := by
    dsimp only [upgrade]
    split
    · exact .refl t
    · exact .refl t
    · exact asked ..
  refine LineMoves.trans (t := k) (moves_mapDir ..) ?_
  have asked2 : LineMoves k (if e.state = .s ∨ e.state = .o then upgrade k else k) := (upgraded k).ite (.refl k)
  have owned (st : LineState) (p : Prop) [Decidable p] (m : Nat → Coh) (c : Coh) :
      let t := others.foldl (fun s o => s.sendSnoop line o (m o)) (if st = .o then upgrade k else k)
      LineMoves k (if p then t.sendCoh line h d c else t) := by
    have snooped := LineMoves.trans (t := if st = .o then upgrade k else k) ((upgraded k).ite (.refl k)) (moves_snoops _ line others m)
    exact (snooped.trans (moves_sendCoh ..)).ite snooped
  clear_value k ask upgrade kind
  obtain _ | _ | n := kind
  case zero =>
    dsimp only
    cases e.state with
    | i => exact asked ..
    | s => exact moves_sendCoh ..
    | _ => exact moves_forwarded ..
  case succ.zero =>
    cases e.state with
    | i => exact asked ..
    | s =>
      have snooped := (upgraded k).trans (moves_snoops _ line others fun _ => .inv)
      exact snooped.ite (snooped.trans (moves_sendCoh ..))
    | m => exact owned .m ..
    | o => exact owned .o ..
    | e => exact owned .e ..
  case succ.succ => exact asked2.trans (moves_snoops _ line others fun _ => .inv)

end State

namespace State

theorem moves_serveLine (s : State) (r : LineReq) : LineMoves s (s.serveLine r) := by
  unfold serveLine
  extract_lets h taken
  have taking (t : State) : LineMoves t (taken t) := moves_setDie ..
  clear_value taken
  refine (LineMoves.refl s).ite (LineMoves.ite ((LineMoves.refl s).ite (taking s)) (LineMoves.ite ((taking s).trans (moves_dropLine ..))
    ((LineMoves.refl s).ite ?_)))
  split
  · exact (LineMoves.refl s).ite (moves_startEvict ..)
  · exact ((taking s).trans (moves_acceptLine ..)).trans (moves_maybeComp ..)

/-- A host snoop that waits at a home is answered once its line is busy no more. -/
theorem moves_serveSnoop (s : State) (h l : Nat) (inv : Bool) : LineMoves s (if (s.dirLine l).busy.isSome then s
    else
      let s := s.setDie h { s.die h with snoops := (s.die h).snoops.erase (l, inv) }
      if inv then s.snoopInv l else s.snoopShared l) :=
  (LineMoves.refl s).ite ((moves_setDie ..).trans ((moves_snoopInv ..).ite (moves_snoopShared ..)))

theorem moves_serveHome (s : State) (h : Nat) : LineMoves s (s.serveHome h) := by
  unfold serveHome
  extract_lets t
  refine LineMoves.trans (t := t) (LineMoves.foldl (fun s x => ?_) _ _) (LineMoves.foldl (fun s r => ?_) _ _)
  · exact moves_serveSnoop s h x.1 x.2
  · exact (moves_serveLine s r).ite (.refl s)

theorem moves_requestLine (s : State) (r : LineReq) : LineMoves s (s.requestLine r) := (moves_setDie ..).trans (moves_serveHome ..)

theorem moves_answered1 (s : State) (l d : Nat) (kept : LineState) (dirty : Bool) : LineMoves s (s.answered1 l d kept dirty) :=
  (((moves_mapDir ..).trans (moves_maybeComp ..)).trans (moves_finishEvict ..)).trans (moves_serveHome ..)

/-- Installing sets the die's L2 entry, notes that in the directory and tells the home, or does nothing. -/
theorem installLine_cases (s : State) (l : Nat) : s.installLine l = s ∨ ∃ d x,
    s.installLine l = ((s.setL2 d l x).mapDir l fun e => { e with installed := true }).sendCoh l d (homeOf l) .done := by
  unfold installLine
  dsimp only
  split
  · generalize (!_ || _ : Bool) = waits
    cases waits with
    | true => exact .inl rfl
    | false => exact .inr ⟨_, _, rfl⟩
  · exact .inl rfl

theorem moves_installLine (s : State) (l : Nat) : LineMoves s (s.installLine l) := by
  obtain same | ⟨d, x, installs⟩ := s.installLine_cases l
  · rw [same]
    exact .refl s
  · rw [installs]
    exact ((moves_setL2 ..).trans (moves_mapDir ..)).trans (moves_sendCoh ..)

/-! ### Directory entries -/

theorem dirLine_setDir_busy (s : State) (l : Nat) {x : DirEntry} (busy : x.busy ≠ none) : (s.setDir l x).dirLine l = x := by
  rw [setDir, if_neg (fun h => busy h.2), holdDir, dirLine, die_setDie_same, AMap.getD_set_same]

theorem dirLine_setDie (s : State) (d l : Nat) {x : Die} (same : x.dir = (s.die d).dir) : (s.setDie d x).dirLine l = s.dirLine l := by
  rw [dirLine, dirLine]
  by_cases own : homeDie (l * 128) = d
  · rw [own, die_setDie_same, same]
  · rw [die_setDie_other _ _ own]

theorem dirLine_setL2 (s : State) (d l k : Nat) (x : L2Line) : (s.setL2 d l x).dirLine k = s.dirLine k := by
  rw [setL2]
  split
  · exact dirLine_setDie _ _ _ rfl
  · exact dirLine_setDie _ _ _ rfl

theorem dirLine_openTx (s : State) (op l k : Nat) : (s.openTx op l).dirLine k = s.dirLine k := by
  unfold openTx sendHost
  generalize s.moduleOf _ = m
  dsimp only
  split
  · rfl
  · rfl

theorem dirLine_maybeComp (s : State) (l k : Nat) : (s.maybeComp l).dirLine k = s.dirLine k := by
  simp only [maybeComp]
  split
  · split
    · rfl
    · rfl
  · rfl

/-- Installing a line notes that in its entry, and no more. -/
theorem dirLine_installLine {s : State} {l : Nat} (busy : (s.dirLine l).busy ≠ none) :
    ∃ b, (s.installLine l).dirLine l = { s.dirLine l with installed := b } := by
  obtain same | ⟨d, x, installs⟩ := s.installLine_cases l
  · rw [same]
    exact ⟨_, rfl⟩
  · refine ⟨true, ?_⟩
    rw [installs, mapDir, dirLine_setL2]
    exact dirLine_setDir_busy _ _ busy

theorem setDie_setDie (s : State) (d : Nat) (x y : Die) : (s.setDie d x).setDie d y = s.setDie d y := by simp [setDie]

/-- The entry of a line whose request its home has accepted. -/
def openEntry (r : LineReq) (e : DirEntry) : DirEntry :=
  { e with
    busy := some (r.die, r.kind), slot := r.slot, gotData := none, gotComp := false, installed := false, dirtySeen := false }

/-! ### Requests of the dies (R269, R270) -/

section
variable {s : State} {r : LineReq} (snoops : (s.die (homeOf r.line)).snoops = [])
include snoops

/-- With no snoop to answer, the requests that wait at the home are what it serves. -/
theorem requestLine_served : s.requestLine r =
    let t := s.setDie (homeOf r.line) { s.die (homeOf r.line) with requests := (s.die (homeOf r.line)).requests ++ [r] }
    ((s.die (homeOf r.line)).requests ++ [r]).foldl (fun k x => if firstOfLine (k.die (homeOf r.line)).requests x then k.serveLine x else k)
      t := by
  rw [requestLine, serveHome]
  simp only [die_setDie_same, snoops, List.foldl_nil]

theorem requestLine_busy (busy : (s.dirLine r.line).busy.isSome = true)
    (same : ∀ x ∈ (s.die (homeOf r.line)).requests, x.line = r.line) : s.requestLine r =
    s.setDie (homeOf r.line) { s.die (homeOf r.line) with requests := (s.die (homeOf r.line)).requests ++ [r] } := by
  rw [requestLine_served snoops]
  dsimp only
  have waits (rs : List LineReq) (same : ∀ x ∈ rs, x.line = r.line) (t : State) (busy : (t.dirLine r.line).busy.isSome = true) :
      rs.foldl (fun k x => if firstOfLine (k.die (homeOf r.line)).requests x then k.serveLine x else k) t = t := by
    induction rs with
    | nil => rfl
    | cons x rs ih =>
      have stays : t.serveLine x = t := by
        rw [serveLine, same x List.mem_cons_self, busy]
        rfl
      rw [List.foldl_cons, stays, ite_self, ih fun y listed => same y (List.mem_cons_of_mem _ listed)]
  refine waits _ (fun x listed => ?_) _ ?_
  · rcases List.mem_append.mp listed with old | new
    · exact same x old
    · rw [List.mem_singleton.mp new]
  · rw [dirLine_setDie]
    · exact busy
    · rfl

variable (alone : (s.die (homeOf r.line)).requests = [])
include alone

/-- The one request at a home is served at once. -/
theorem requestLine_alone : s.requestLine r =
    (s.setDie (homeOf r.line) { s.die (homeOf r.line) with requests := [r] }).serveLine r := by
  rw [requestLine_served snoops, alone]
  simp only [List.nil_append, List.foldl_cons, List.foldl_nil, die_setDie_same, firstOfLine, List.find?_cons_of_pos, beq_self_eq_true,
    if_true]

variable (free : (s.dirLine r.line).busy = none) (written : (s.die (homeOf r.line)).writeback = [])
include free written

omit snoops alone in
theorem served_free (rs : List LineReq) :
    let k := s.setDie (homeOf r.line) { s.die (homeOf r.line) with requests := rs }
    ((k.dirLine r.line).busy.isSome || k.inWriteback r.line) = false := by
  intro k
  have same : k.dirLine r.line = s.dirLine r.line := dirLine_setDie _ _ _ rfl
  have buffer : (k.die (homeDie (r.line * 128))).writeback = [] := by
    rw [show homeDie (r.line * 128) = homeOf r.line from rfl, die_setDie_same]
    exact written
  rw [same, free, inWriteback, buffer]
  rfl

omit snoops free written in
/-- The request taken off the home's list leaves the home as it was. -/
theorem taken_alone : (let k := s.setDie (homeOf r.line) { s.die (homeOf r.line) with requests := [r] }
    k.setDie (homeOf r.line) { k.die (homeOf r.line) with requests := (k.die (homeOf r.line)).requests.erase r }) =
      s.setDie (homeOf r.line) (s.die (homeOf r.line)) := by
  simp only [die_setDie_same, List.erase_cons_head, setDie_setDie]
  rw [← alone]

/-- A drop is followed at once. -/
theorem requestLine_drop (drop : r.kind = 3 ∨ r.kind = 4) : s.requestLine r =
    (s.setDie (homeOf r.line) (s.die (homeOf r.line))).dropLine r.line r.die (r.kind == 3) := by
  have atomic : r.kind ≠ 6 := by omega
  have drops : r.kind ≥ 3 := by omega
  rw [requestLine_alone snoops alone, serveLine]
  simp only [served_free free written, atomic, drops, Bool.false_eq_true, if_false, if_true]
  rw [taken_alone alone]

omit snoops alone free written in
/-- A read or an ownership request for a line that no die holds: it makes the line busy, and the host is asked. -/
theorem acceptLine_absent {t : State} (absent : t.dirLine r.line = {}) (read : r.kind = 0 ∨ r.kind = 1) :
    ((t.acceptLine r).dirLine r.line).busy = some (r.die, r.kind) ∧ ((t.acceptLine r).dirLine r.line).hostPending = true := by
  have accepted : t.acceptLine r =
      ((t.mapDir r.line (openEntry r)).openTx (r.kind + 1) r.line).mapDir r.line fun e => { e with hostPending := true } := by
    unfold acceptLine
    rcases read with kind | kind <;> simp [kind, absent, mapDir, openEntry]
  have busy := dirLine_setDir_busy t r.line (x := openEntry r (t.dirLine r.line)) (Option.some_ne_none _)
  rw [accepted, mapDir, dirLine_openTx, mapDir, busy]
  rw [dirLine_setDir_busy _ _ (Option.some_ne_none _)]
  exact ⟨rfl, rfl⟩

omit written free in
/-- A request for a line that no die holds, with a way free for it. -/
theorem requestLine_absent (written : (s.die (homeOf r.line)).writeback = []) (absent : s.dirLine r.line = {})
    (way : (s.filterSet r.line).length < 12) (read : r.kind = 0 ∨ r.kind = 1) :
    ((s.requestLine r).dirLine r.line).busy = some (r.die, r.kind) ∧ ((s.requestLine r).dirLine r.line).hostPending = true := by
  have atomic : r.kind ≠ 6 := by omega
  have drops : ¬ r.kind ≥ 3 := by omega
  have free : (s.dirLine r.line).busy = none := by rw [absent]
  generalize served : s.setDie (homeOf r.line) { s.die (homeOf r.line) with requests := [r] } = k
  have set_ : k.filterSet r.line = s.filterSet r.line := by
    rw [filterSet, filterSet, ← served, show homeDie (r.line * 128) = homeOf r.line from rfl, die_setDie_same]
  have full : k.filterFull r.line = false := by
    rw [filterFull, set_, decide_eq_false (Nat.not_le.mpr way)]
    rfl
  have victim : k.filterVictim r.line = none := by
    rw [filterVictim, set_, decide_eq_true way]
    rfl
  have closed := served_free free written [r]
  have taken := taken_alone alone
  simp only [served] at closed taken
  have there : (s.setDie (homeOf r.line) (s.die (homeOf r.line))).dirLine r.line = {} := by
    rw [dirLine_setDie _ _ _ rfl, absent]
  rw [requestLine_alone snoops alone, served, serveLine]
  simp only [closed, atomic, drops, full, victim, Bool.false_eq_true, if_false]
  rw [taken, dirLine_maybeComp]
  exact acceptLine_absent there read

end

/-! ### Messages under way (R269) -/

theorem takeCoh_none {s : State} {l : Nat} (none_ : ∀ m ∈ s.mesh, m.line ≠ l) (p : CohMsg → Bool) : s.takeCoh l p = none := by
  have absent : s.mesh.find? (fun m => m.line == l && p m) = none := by
    refine List.find?_eq_none.mpr fun m listed => ?_
    rw [beq_false_of_ne (none_ m listed)]
    exact Bool.false_ne_true
  rw [takeCoh, absent]

/-- The oldest message is taken where it is of the kind. -/
theorem takeCoh_oldest {s : State} {m : CohMsg} {rest : List CohMsg} (oldest : s.mesh = m :: rest) {p : CohMsg → Bool} (kind : p m = true) :
    s.takeCoh m.line p = some (m, { s with mesh := rest }) := by
  have found : s.mesh.find? (fun x => x.line == m.line && p x) = some m := by
    rw [oldest]
    exact List.find?_cons_of_pos (by rw [beq_self_eq_true, kind]; rfl)
  have ahead : s.mesh.takeWhile (· != m) = [] := by
    rw [oldest, List.takeWhile_cons_of_neg (by rw [bne_self_eq_false]; exact Bool.false_ne_true)]
  rw [takeCoh, found]
  simp only [ahead, List.any_nil, Bool.false_eq_true, if_false]
  rw [oldest, List.erase_cons_head]

/-! ### The host (R275, R276, R394) -/

theorem snoopShared_absent {s : State} {l : Nat} (absent : (s.dirLine l).state = .i) :
    s.snoopShared l = (s.setHostLine l .i).answerHost l 0x20 := by
  simp only [snoopShared, absent]

theorem snoopShared_clean {s : State} {l : Nat} (clean : (s.dirLine l).state = .s ∨ ((s.dirLine l).state ≠ .i ∧ (s.dirLine l).owner = none)) :
    s.snoopShared l = (s.setHostLine l .s).answerHost l 0x21 := by
  rcases clean with shared | ⟨held, none_⟩
  · simp only [snoopShared, shared]
  · rw [snoopShared]
    cases state : (s.dirLine l).state with
    | i => exact absurd state held
    | _ => simp only [none_]

theorem snoopShared_owned {s : State} {l d : Nat} (held : (s.dirLine l).state ≠ .i) (own : (s.dirLine l).state ≠ .s)
    (owner : (s.dirLine l).owner = some d) : s.snoopShared l =
    let a := s.answerSnoop l d true
    let st : LineState := if a.1 then .o else .s
    ((a.2.setDir l { s.dirLine l with state := st, owner := if a.1 then some d else none }).setHostLine l st).answerHost l
      (if a.1 then 0x22 else 0x21) (if a.1 then 4 else 0) := by
  rw [snoopShared]
  cases state : (s.dirLine l).state with
  | i => exact absurd state held
  | s => exact absurd state own
  | _ => simp only [owner]

theorem hostLine_setHostLine {s : State} {l : Nat} {x : LineState} (listed : x ≠ .i) : (s.setHostLine l x).hostLine l = x := by
  rw [setHostLine, if_neg listed, hostLine, AMap.getD_set_same]

/-- The completion mark changes neither the host's transactions nor its line states. -/
theorem host_maybeComp (s : State) (l : Nat) : (s.maybeComp l).hostTx = s.hostTx ∧ (s.maybeComp l).hostLines = s.hostLines := by
  simp only [maybeComp]
  split
  · split
    · exact ⟨rfl, rfl⟩
    · exact ⟨rfl, rfl⟩
  · exact ⟨rfl, rfl⟩

theorem host_mapDir (s : State) (l : Nat) (f : DirEntry → DirEntry) :
    (s.mapDir l f).hostTx = s.hostTx ∧ (s.mapDir l f).hostLines = s.hostLines := by
  simp only [mapDir, setDir]
  split
  · exact ⟨rfl, rfl⟩
  · exact ⟨rfl, rfl⟩

theorem hostTx_setHostLine (s : State) (l : Nat) (x : LineState) : (s.setHostLine l x).hostTx = s.hostTx := by
  rw [setHostLine]
  split
  · rfl
  · rfl

end State

/-! ### The events -/

section
variable {s : State} {o h : Nat} {rest : List CohMsg} {m : Coh}
  (oldest : s.mesh = { line := s.ev.line, source := o, target := h, what := m } :: rest)
include oldest

theorem takeCoh_oldest_event {p : CohMsg → Bool} (kind : p { line := s.ev.line, source := o, target := h, what := m } = true) :
    s.takeCoh s.ev.line p = some ({ line := s.ev.line, source := o, target := h, what := m }, { s with mesh := rest }) :=
  State.takeCoh_oldest oldest kind

theorem exec_dcomp_oldest (comp : m = .comp) (busy : (s.dirLine s.ev.line).busy.isSome = true) :
    ∃ t, exec .dcomp s = .next t ∧ (t.dirLine s.ev.line).gotComp = true ∧ t.mem = s.mem := by
  subst comp
  have busy' : (s.dirLine s.ev.line).busy ≠ none := Option.isSome_iff_ne_none.mp busy
  generalize marked : (({ s with mesh := rest } : State).mapDir s.ev.line fun e => { e with gotComp := true }) = k
  have entry : k.dirLine s.ev.line = { s.dirLine s.ev.line with gotComp := true } := by
    rw [← marked]
    exact State.dirLine_setDir_busy _ _ busy'
  obtain ⟨b, installed⟩ := State.dirLine_installLine (s := k) (l := s.ev.line) (by rw [entry]; exact busy')
  refine ⟨k.installLine s.ev.line, ?_, ?_, ?_⟩
  · rw [exec_dcomp, execDcomp, takeCoh_oldest_event oldest rfl, ← marked]
  · rw [installed, entry]
  · rw [(State.moves_installLine ..).mem, ← marked, (State.moves_mapDir ..).mem]

theorem exec_ddata_oldest {g : LineState} {mark : Bool} (data : m = .data g mark) (line : g ≠ .i)
    (busy : (s.dirLine s.ev.line).busy.isSome = true) :
    ∃ t, exec .ddata s = .next t ∧ (t.dirLine s.ev.line).gotData = some g ∧
      (t.dirLine s.ev.line).gotComp = ((s.dirLine s.ev.line).gotComp || mark) ∧ t.mem = s.mem := by
  subst data
  have busy' : (s.dirLine s.ev.line).busy ≠ none := Option.isSome_iff_ne_none.mp busy
  generalize marked : (({ s with mesh := rest } : State).mapDir s.ev.line fun e =>
    { e with gotData := some g, gotComp := e.gotComp || mark }) = k
  have entry : k.dirLine s.ev.line =
      { s.dirLine s.ev.line with gotData := some g, gotComp := (s.dirLine s.ev.line).gotComp || mark } := by
    rw [← marked]
    exact State.dirLine_setDir_busy _ _ busy'
  obtain ⟨b, installed⟩ := State.dirLine_installLine (s := k) (l := s.ev.line) (by rw [entry]; exact busy')
  refine ⟨k.installLine s.ev.line, ?_, ?_, ?_, ?_⟩
  · rw [exec_ddata, execDdata, takeCoh_oldest_event oldest rfl, ← marked]
    cases g with
    | i => exact absurd rfl line
    | _ => rfl
  · rw [installed, entry]
  · rw [installed, entry]
  · rw [(State.moves_installLine ..).mem, ← marked, (State.moves_mapDir ..).mem]

theorem exec_drsp_oldest {kept : LineState} {dirty : Bool} (answer : m = .rsp kept dirty) (die : o = s.ev.die) :
    exec .drsp s = .next (({ s with mesh := rest } : State).answered1 s.ev.line o kept dirty) := by
  subst answer die
  rw [exec_drsp, execDrsp, takeCoh_oldest_event oldest (by rw [beq_self_eq_true]; rfl)]

theorem exec_ddone_oldest (done : m = .done) (settled : (s.dirLine s.ev.line).pending = []) :
    ((s.dirLine s.ev.line).busy = none → exec .ddone s = .next { s with mesh := rest }) ∧
    ∀ d k, (s.dirLine s.ev.line).busy = some (d, k) → exec .ddone s =
      .next ((({ s with mesh := rest } : State).mapDir s.ev.line fun e => State.doneEntry e d k).serveHome h) := by
  subst done
  have runs : exec .ddone s = .next (match (s.dirLine s.ev.line).busy with
      | some (d, k) => (({ s with mesh := rest } : State).mapDir s.ev.line fun e => State.doneEntry e d k).serveHome h
      | none => { s with mesh := rest }) := by
    rw [exec_ddone, execDdone, settled, takeCoh_oldest_event oldest rfl]
    rfl
  exact ⟨fun free => by rw [runs, free], fun d k busy => by rw [runs, busy]⟩

end

/-- The host's data closes the line's requests and grants it. -/
theorem exec_data_granted {s : State} (asked : (s.dirLine s.ev.line).hostPending = true) :
    ∃ t, exec .data s = .next t ∧ (∀ x ∈ t.hostTx, x.2.line = s.ev.line → 3 < x.2.op) ∧
      t.hostLine s.ev.line = if (s.dirLine s.ev.line).busy.any (fun x => x.2 == 0) && s.ev.kind != 2 then .s else .e := by
  generalize grant : (if (s.dirLine s.ev.line).busy.any (fun x => x.2 == 0) && s.ev.kind != 2 then LineState.s else .e) = g
  have held : g ≠ .i := by
    rw [← grant]
    split <;> exact LineState.noConfusion
  have open_ : (!(s.dirLine s.ev.line).hostPending) = false := by rw [asked]; rfl
  rw [exec_data, execData]
  simp only [open_, Bool.false_eq_true, if_false, grant]
  refine ⟨_, rfl, fun x listed line => ?_, ?_⟩
  · rw [(State.host_maybeComp ..).1, State.sendCoh, (State.host_mapDir ..).1] at listed
    simp only [State.hostTx_setHostLine, State.closeTx, List.mem_filter] at listed
    have open_ := listed.2
    rw [line, beq_self_eq_true, Bool.true_and, Bool.not_eq_true', decide_eq_false_iff_not] at open_
    omega
  · rw [State.hostLine, (State.host_maybeComp ..).2, State.sendCoh, (State.host_mapDir ..).2]
    exact State.hostLine_setHostLine held

section
variable {s : State} (other : s.asksHost s.ev.line = false) (free : (s.dirLine s.ev.line).busy = none)
include other free

theorem exec_snpShared_free : exec .snpShared s = .next (s.snoopShared s.ev.line) := by
  rw [exec_snpShared, execSnpShared, State.hostSnoop, other, free]
  rfl

theorem exec_snpInv_free : exec .snpInv s = .next (s.snoopInv s.ev.line) := by
  rw [exec_snpInv, execSnpInv, State.hostSnoop, other, free]
  rfl
end

/-- A message that is not there changes nothing. -/
theorem exec_coherence_absent {s : State} (none_ : ∀ m ∈ s.mesh, m.line ≠ s.ev.line) :
    exec .dfwds s = .next s ∧ exec .dfwdx s = .next s ∧ exec .dinv s = .next s ∧ exec .drsp s = .next s ∧ exec .dcomp s = .next s ∧
      exec .ddata s = .next s ∧ exec .ddone s = .next s := by
  refine ⟨?_, ?_, ?_, ?_, ?_, ?_, ?_⟩
  · rw [exec_dfwds, execDfwds, State.takeCoh_none none_]
  · rw [exec_dfwdx, execDfwdx, State.takeCoh_none none_]
  · rw [exec_dinv, execDinv, State.takeCoh_none none_]
  · rw [exec_drsp, execDrsp, State.takeCoh_none none_]
  · rw [exec_dcomp, execDcomp, State.takeCoh_none none_]
  · rw [exec_ddata, execDdata, State.takeCoh_none none_]
  · rw [exec_ddone, execDdone, State.takeCoh_none none_, ite_self]

/-- The answers of a die to a snoop, and of a victim's data. -/
theorem exec_snoops_oldest {s : State} {o h : Nat} {rest : List CohMsg} :
    let l := s.ev.line
    let taken : State := { s with mesh := rest }
    let oldest (m : Coh) : Prop := s.mesh = { line := l, source := o, target := h, what := m } :: rest
    (oldest .fwdS → let a := taken.answerSnoop l h true
      exec .dfwds s = .next ((a.2.sendCoh l h o (.rsp (if a.1 then .o else .s) a.1)).sendCoh l h (((a.2.dirLine l).busy.map (·.1)).getD o)
        (.data .s false))) ∧
    (oldest .fwdX → let a := taken.answerSnoop l h false
      exec .dfwdx s = .next ((a.2.sendCoh l h o (.rsp .i a.1)).sendCoh l h (((a.2.dirLine l).busy.map (·.1)).getD o)
        (.data (if a.1 then .m else .e) false))) ∧
    (oldest .inv → h = s.ev.die → let a := taken.answerSnoop l h false
      exec .dinv s = .next (a.2.sendCoh l h o
        (if ((a.2.dirLine l).busy.any fun x => x.2 == 5) && a.1 then .data .i false else .rsp .i a.1))) ∧
    (∀ mark, oldest (.data .i mark) → exec .ddata s = .next (taken.answered1 l o .i true)) := by
  intro l taken oldest
  refine ⟨fun m => ?_, fun m => ?_, fun m die => ?_, fun mark m => ?_⟩
  · rw [exec_dfwds, execDfwds, takeCoh_oldest_event m rfl]
    rfl
  · rw [exec_dfwdx, execDfwdx, takeCoh_oldest_event m rfl]
    rfl
  · rw [exec_dinv, execDinv, takeCoh_oldest_event m (by simp [die])]
  · rw [exec_ddata, execDdata, takeCoh_oldest_event m rfl]

namespace Laws

/-- Settles O53: each message by its line's entry at the home, each answer of the host by what it closes, each error by its cause. -/
theorem linesAndErrors : Obligations.LinesAndErrors := by
  unfold Obligations.LinesAndErrors
  refine ⟨fun s rest o h => ?_, fun s => ?_⟩
  · intro l e home counted asked taken oldest
    have snooped := exec_snoops_oldest (s := s) (o := o) (h := h) (rest := rest)
    obtain ⟨fwdS, fwdX, inv, victim⟩ := snooped
    refine ⟨rfl, rfl, rfl, rfl, rfl, fun busy snoops same k n => ?_, fun absent snoops alone written way => ⟨?_, ?_⟩,
      fun free snoops alone written => ⟨?_, ?_⟩, exec_coherence_absent, fwdS, fwdX, inv, fun kept dirty m die => ⟨?_, ?_⟩,
      fun m busy => exec_dcomp_oldest m rfl busy, fun g mark m line busy => exec_ddata_oldest m rfl line busy, victim, fun waits => ?_,
      fun m settled => exec_ddone_oldest m rfl settled, fun decides => ⟨?_, ?_⟩, fun other => ⟨fun busy => ⟨?_, ?_⟩, fun free => ⟨?_, ?_, ?_, ?_⟩⟩,
      fun idle => ?_, exec_data_granted, ?_, ?_, fun x open_ op => ?_, fun absent => ?_, rfl⟩
    · exact State.requestLine_busy snoops busy same
    · obtain ⟨busy, pending⟩ := State.requestLine_absent (r := asked 0 s.ev.index) snoops alone written absent way (.inl rfl)
      exact ⟨_, rfl, busy, pending, (State.moves_requestLine ..).mem⟩
    · obtain ⟨busy, pending⟩ := State.requestLine_absent (r := asked 1 s.ev.index) snoops alone written absent way (.inr rfl)
      exact ⟨_, rfl, busy, pending, (State.moves_requestLine ..).mem⟩
    · exact congrArg _ (State.requestLine_drop (r := asked 3 0) snoops alone free written (.inl rfl))
    · exact congrArg _ (State.requestLine_drop (r := asked 4 0) snoops alone free written (.inr rfl))
    · exact exec_drsp_oldest m rfl die
    · exact (State.moves_answered1 ..).mem
    · rw [exec_ddone, execDdone, if_pos (by rw [List.isEmpty_eq_false_iff.mpr waits]; rfl)]
    · rw [exec_snpShared, execSnpShared, State.hostSnoop, if_pos decides]
    · rw [exec_snpInv, execSnpInv, State.hostSnoop, if_pos decides]
    · rw [exec_snpShared, execSnpShared, State.hostSnoop, other, if_neg Bool.false_ne_true, if_pos busy]
    · rw [exec_snpInv, execSnpInv, State.hostSnoop, other, if_neg Bool.false_ne_true, if_pos busy]
    · exact fun absent => (exec_snpShared_free other free).trans (congrArg _ (State.snoopShared_absent absent))
    · exact fun clean => (exec_snpShared_free other free).trans (congrArg _ (State.snoopShared_clean clean))
    · exact fun d held own owner => (exec_snpShared_free other free).trans (congrArg _ (State.snoopShared_owned held own owner))
    · exact exec_snpInv_free other free
    · rw [exec_data, execData, idle]
      rfl
    · refine ⟨_, by rw [exec_cmp, execCmp], fun none_ => if_neg ?_⟩
      rw [List.any_eq_true]
      rintro ⟨x, listed, upgrade⟩
      rw [Bool.and_eq_true, beq_iff_eq, beq_iff_eq] at upgrade
      exact (none_ x listed).elim (fun op => op upgrade.1) fun line => line upgrade.2
    · rw [exec_wbAck, execWbAck]
      rfl
    · obtain ⟨_, _, _, _⟩ := x
      cases op
      simp only [exec_atomicRsp, execAtomicRsp, open_]
    · rw [exec_atomicRsp, execAtomicRsp, absent]
  · intro c d n
    refine ⟨rfl, rfl, rfl, rfl, rfl, rfl, rfl, rfl, rfl, rfl, rfl, rfl, rfl, ?_, ?_⟩
    · exact ⟨_, rfl, rfl, AMap.getD_set_same ..⟩
    · intro t
      refine ⟨fun flag => ?_, fun flag ready => ?_⟩
      · rw [exec_hostErrorAnswer, execHostErrorAnswer, if_pos flag]
      · rw [exec_hostErrorAnswer, execHostErrorAnswer, flag, if_neg Bool.false_ne_true]
        exact congrArg _ (if_pos ready)

end Laws

end Sys2Proof.Machine
end

section
/-!
PROOFS. Boot, reset, power, temperature, the alarm and the debug port (R398 to R400, R409 to R416).
-/

namespace Sys2Proof.Machine

namespace State

/-! ### Boot (R398 to R400) -/

/-- The firmware in the I-stores changes memory alone. -/
theorem loadFirmware_eq (s : State) (bs : List Byte) : s.loadFirmware bs = { s with mem := (s.loadFirmware bs).mem } := by
  rw [loadFirmware]
  generalize List.range 193 = us
  have fold (t : State) : us.foldl (fun s u => s.store (istoreCell u 0) (bs.take (if u < 128 then 65536 else 131072))) t =
      { t with mem := (us.foldl (fun s u => s.store (istoreCell u 0) (bs.take (if u < 128 then 65536 else 131072))) t).mem } := by
    induction us generalizing t with
    | nil => rfl
    | cons u us ih => rw [List.foldl_cons, ih]; rfl
  exact fold s

section
variable {s : State} {b : Boot}

theorem boot_faulty {n : Nat} (fault : bootFault s.bezel.counter b = some n) :
    s.boot b = { s.withBezel fun z => { z with boots := z.boots + 1 } with mgmt := { s.mgmt with bootStatus := n } } := by
  rw [boot]
  simp only [show (s.withBezel fun z => { z with boots := z.boots + 1 }).bezel.counter = s.bezel.counter from rfl, fault]
  rfl

/-- What a boot that passes its checks leaves of the Bezel. -/
def booted (b : Boot) (z : Bezel) : Bezel := { z with
  meas := Vector.ofFn fun i => match i.val with
    | 0 => measured b.identity | 1 => measured b.firmware | 2 => measured b.blob | 3 => measured (policyBytes b)
    | _ => List.replicate 48 0
  locked := true, released := true, counter := Nat.max z.counter b.version, powerLimit := b.powerLimit, maxWeight := b.maxWeight
  spanEnable := b.spanEnable, debugPolicy := b.debugPolicy }

theorem boot_passes (pass : bootFault s.bezel.counter b = none) :
    s.boot b = (((s.withBezel fun z => { z with boots := z.boots + 1 }).loadFirmware b.firmware).withBezel (booted b)) := by
  rw [boot]
  simp only [show (s.withBezel fun z => { z with boots := z.boots + 1 }).bezel.counter = s.bezel.counter from rfl, pass]
  rfl
end

/-- A boot of a part that has lost what the part held: nothing of that is back, and the Bezel is as the checks leave it. -/
theorem boot_cold (s : State) (b : Boot) : let t := s.cold.boot b
    (t.jobs = [] ∧ t.keys = [] ∧ t.cores = [] ∧ t.launches = [] ∧ t.bezel.boots = s.bezel.boots + 1 ∧
      (bootFault s.bezel.counter b = none → t.bezel.released = true ∧ t.bezel.locked = true ∧
        t.bezel.meas[1]?.getD [] = Sha384.digest (List.replicate 48 0 ++ b.firmware)) ∧
      ∀ n, bootFault s.bezel.counter b = some n → t.bezel.released = false ∧ t.mgmt.bootStatus = n) ∧ t.bezel.alarmed = false := by
  intro t
  cases fault : bootFault s.bezel.counter b with
  | some n =>
    have result : t = _ := boot_faulty (s := s.cold) fault
    rw [result]
    exact ⟨⟨rfl, rfl, rfl, rfl, rfl, fun none_ => absurd none_ (Option.some_ne_none _), fun m same => ⟨rfl, Option.some.inj same⟩⟩, rfl⟩
  | none =>
    have result : t = _ := boot_passes (s := s.cold) fault
    rw [result, loadFirmware_eq]
    exact ⟨⟨rfl, rfl, rfl, rfl, rfl, fun _ => ⟨rfl, rfl, rfl⟩, fun n some_ => absurd some_.symm (Option.some_ne_none _)⟩, rfl⟩

/-! ### The clock (R415, R416) -/

theorem nextClock_lowered {clock limit milliwatts degrees : Nat} (above : limit * 1000 < milliwatts ∨ 100 < degrees) :
    nextClock clock limit milliwatts degrees = max 8 (clock - 2) := by
  rw [nextClock, if_pos above]

theorem nextClock_raised {clock limit milliwatts degrees : Nat} (below : milliwatts * 10 < limit * 9000) (cool : degrees ≤ 100)
    (inside : milliwatts ≤ limit * 1000) : nextClock clock limit milliwatts degrees = min 16 (clock + 2) := by
  rw [nextClock, if_neg (by omega), if_pos below]

/-! ### Debug (R411) -/

theorem port_debugRelease (s : State) : s.debugRelease.port = s.port := by
  have fold (xs : List (Nat × Nat)) (t : State) : (xs.foldl (fun s x => match (s.slotAt x.1 x.2).status with
      | .halted .debug => s.setSlotAt x.1 x.2 { s.slotAt x.1 x.2 with status := .ready, step := false }
      | _ => s) t).port = t.port := by
    induction xs generalizing t with
    | nil => rfl
    | cons x xs ih =>
      rw [List.foldl_cons, ih]
      split
      · rfl
      · rfl
  exact fold s.occupied s

end State

/-! ### The events -/

section
variable (s : State)

theorem exec_powerMeasure_cool (cool : s.ev.index < 115) : exec .powerMeasure s = .next (s.withBezel fun z => { z with
    clock := State.nextClock z.clock z.powerLimit s.ev.amount s.ev.index, temperature := s.ev.index }) := by
  rw [exec_powerMeasure, execPowerMeasure, if_neg (Nat.not_le.mpr cool)]

theorem exec_reset_plain (current : s.mgmt.updating = false) :
    exec .reset s = .next ((s.cold.boot s.ev.boot).withBezel fun z => { z with alarmed := s.bezel.alarmed }) := by
  rw [exec_reset, execReset, State.updateReady, current]
  rfl

theorem exec_bypass_known (known : s.isSealed = false ∨ s.ev.index % 256 ∈ tapCodes) :
    exec .bypass s = .next { s with port := { s.port with ir := BitVec.ofNat 8 s.ev.index, out := [] } } := by
  have quiet : (!tapCodes.contains (s.ev.index % 256) && s.isSealed) = false := by
    rcases known with open_ | listed
    · rw [open_, Bool.and_false]
    · rw [List.contains_iff_mem.mpr listed]
      rfl
  rw [exec_bypass, execBypass]
  simp only [quiet, Bool.false_eq_true, if_false, State.tap]
  rw [show BitVec.ofNat 8 (s.ev.index % 256) = BitVec.ofNat 8 s.ev.index from BitVec.eq_of_toNat_eq (by simp)]

theorem exec_bypass_unknown (sealed : s.isSealed = true) (unknown : s.ev.index % 256 ∉ tapCodes) :
    exec .bypass s = .next ((s.tap (s.ev.index % 256) []).raiseAlarm) := by
  have loud : (!tapCodes.contains (s.ev.index % 256) && s.isSealed) = true := by
    rw [sealed, Bool.and_true, Bool.not_eq_true', ← Bool.not_eq_true, List.contains_iff_mem]
    exact unknown
  rw [exec_bypass, execBypass]
  simp only [loud, if_true]

theorem exec_auth_port : ∃ t, exec .auth s = .next t ∧ t = { s with port := t.port } ∧
    t.port.authStates = (if s.authorises s.ev.auth then s.ev.auth.states else []) ∧
    t.port.authSlots = (if s.authorises s.ev.auth then s.ev.auth.slots else []) := ⟨_, rfl, rfl, rfl, rfl⟩

theorem authorises_iff (a : DebugAuth) : s.authorises a = true ↔ a.verifies = true ∧ a.serial = Config.serial ∧ s.port.nonce = some a.nonce := by
  rw [State.authorises, Bool.and_eq_true, Bool.and_eq_true, beq_iff_eq, beq_iff_eq, and_assoc]

theorem exec_dbgReq_off (thawed : s.bezel.frost = false) (off : s.ev.request.state = 0) :
    ∃ t, exec .dbgReq s = .next t ∧ t.port.state = 0 ∧ t.port.nonce = some (Config.random s.drawn) := by
  rw [exec_dbgReq, execDbgReq]
  dsimp only [State.draw, State.tap]
  simp only [thawed, off, Bool.false_eq_true, if_false]
  refine ⟨_, rfl, rfl, ?_⟩
  rw [State.port_debugRelease]

theorem exec_dbgReq_frost (frost : s.bezel.frost = true) :
    ∃ t, exec .dbgReq s = .next t ∧ t.port.state = s.port.state ∧ t.port.nonce = some (Config.random s.drawn) := by
  rw [exec_dbgReq, execDbgReq]
  dsimp only [State.draw, State.tap]
  simp only [frost, if_true]
  exact ⟨_, rfl, rfl, rfl⟩

theorem exec_scanRead_frost (frost : s.bezel.frost = true) : ∃ t, exec .scanRead s = .next t ∧ t.port.out.length = 8 := by
  rw [exec_scanRead, execScanRead, if_pos frost]
  exact ⟨_, rfl, length_leBytes ..⟩
end

namespace Laws

/-- Settles O55: boot and power by what is lost, the clock by its measurement, each instruction of the port by what it shifts out. -/
theorem powerAndDebug : Obligations.PowerAndDebug := by
  unfold Obligations.PowerAndDebug
  refine ⟨fun s => ?_, fun s => ?_⟩
  · intro lost
    obtain ⟨gone, calm⟩ := State.boot_cold s s.ev.boot
    refine ⟨⟨_, rfl, gone, calm⟩, fun current => ⟨_, exec_reset_plain s current, gone, rfl⟩, ⟨_, rfl, rfl, rfl, rfl, rfl⟩,
      ⟨_, rfl, rfl, rfl⟩, fun cool => ⟨_, exec_powerMeasure_cool s cool, rfl, State.nextClock_lowered, State.nextClock_raised⟩,
      fun hot => ?_, fun idle => ?_, fun busy => ?_, rfl, rfl⟩
    · exact ⟨s.trip, by rw [exec_powerMeasure, execPowerMeasure, if_pos hot], rfl⟩
    · rw [exec_dieRetentionEntry, execDieRetentionEntry, if_pos idle]
    · rw [exec_dieRetentionEntry, execDieRetentionEntry, busy, if_neg Bool.false_ne_true]
  · obtain ⟨t, runs, port, states, slots⟩ := exec_auth_port s
    refine ⟨⟨_, rfl, rfl, rfl⟩, ⟨t, runs, port, fun verifies serial nonce => ?_, fun bad => ?_⟩, ⟨_, rfl, rfl, rfl, rfl⟩, fun thawed => ?_,
      exec_scanRead_frost s, rfl, ⟨_, rfl, rfl, rfl⟩, ?_, exec_bypass_unknown s, exec_dbgReq_off s, exec_dbgReq_frost s⟩
    · rw [states, slots, if_pos ((authorises_iff s _).mpr ⟨verifies, serial, nonce⟩), if_pos ((authorises_iff s _).mpr ⟨verifies, serial, nonce⟩)]
      exact ⟨rfl, rfl⟩
    · have refused : s.authorises s.ev.auth ≠ true := fun good => by
        obtain ⟨verifies, serial, nonce⟩ := (authorises_iff s _).mp good
        rcases bad with forged | other | stale
        · exact Bool.false_ne_true (forged.symm.trans verifies)
        · exact other serial
        · exact stale nonce
      rw [states, slots, if_neg refused, if_neg refused]
      exact ⟨rfl, rfl⟩
    · rw [exec_scanRead, execScanRead, thawed, if_neg Bool.false_ne_true]
      exact ⟨_, rfl, rfl, rfl⟩
    · by_cases known : s.isSealed = false ∨ s.ev.index % 256 ∈ tapCodes
      · exact ⟨_, exec_bypass_known s known, fun _ => rfl⟩
      · exact ⟨_, exec_bypass s, fun again => absurd again known⟩

end Laws

end Sys2Proof.Machine
end

section
/-!
PROOFS. The Span: flits, its link, pages handed over, and atomics of the other box (R281 to R285, R371, R418 to R420).
-/

namespace Sys2Proof.Machine

namespace State

/-! ### Flits (R418 to R420) -/

section
variable {s : State} {f : SpanFlit}

theorem takeFlit_ignored (ignored : s.span.up = false ∨ f.seq ≠ s.span.expect) : s.takeFlit f = s := by
  rw [takeFlit]
  refine if_pos ?_
  rcases ignored with down | order
  · rw [down]
    rfl
  · rw [bne_iff_ne.mpr order, Bool.or_true]

variable (up : s.span.up = true) (order : f.seq = s.span.expect)
include up order

theorem takeFlit_awaited : (!s.span.up || f.seq != s.span.expect) = false := by
  rw [up, order, bne_self_eq_false]
  rfl

theorem takeFlit_corrupt (crc : f.crcOk = false) (room : s.span.replays < 16) :
    s.takeFlit f = { s with span := { s.span with replays := s.span.replays + 1 } } := by
  have few : ¬ 16 < s.span.replays + 1 := by omega
  rw [takeFlit, takeFlit_awaited up order]
  simp only [crc, withSpan, Bool.false_eq_true, Bool.not_false, if_false, if_true, few]

theorem takeFlit_empty (crc : f.crcOk = true) (empty : f.cls = 0) : s.takeFlit f =
    s.withSpan fun x => { x with
      expect := (x.expect + 1) % 256, acked := f.ack, replays := 0, unacked := x.unacked.filter fun y => !acknowledged f.ack y.1 } := by
  rw [takeFlit, takeFlit_awaited up order]
  simp only [crc, empty, Bool.false_eq_true, Bool.not_true, if_false, if_true]
end

theorem span_latchCore (s : State) (c : Nat) (l : Latched) : (s.latchCore c l).span = s.span := by
  obtain same | ⟨k, x, same, -⟩ := s.latchCore_cases c l
  · rw [same]
  · rw [same, setCore]

theorem span_foldl_latchCore (cs : List Nat) (l : Latched) (s : State) : (cs.foldl (fun s c => s.latchCore c l) s).span = s.span := by
  induction cs generalizing s with
  | nil => rfl
  | cons c cs ih => rw [List.foldl_cons, ih, span_latchCore]

theorem up_spanLost (s : State) : s.spanLost.span.up = false := by
  simp only [spanLost, span_foldl_latchCore]
  rfl

/-! ### Pages (R282, R284, R285) -/

theorem pages_mapPage {s : State} {n : Nat} {p : SpanPage} (known : AMap.get? s.span.pages n = some p) (f : SpanPage → SpanPage) :
    AMap.get? (s.mapPage n f).span.pages n = some (f p) := by
  simp only [mapPage, known, withSpan]
  exact AMap.get?_set_same ..

theorem mapPage_congr {s : State} {n : Nat} {p : SpanPage} (known : AMap.get? s.span.pages n = some p) {f g : SpanPage → SpanPage}
    (same : f p = g p) : s.mapPage n f = s.mapPage n g := by
  simp only [mapPage, known, same]

theorem up_mapPage (s : State) (n : Nat) (f : SpanPage → SpanPage) : (s.mapPage n f).span.up = s.span.up := by
  rw [mapPage]
  split
  · rfl
  · rfl

section
variable {s : State} {n : Nat} {p : SpanPage} {write : Bool} (known : AMap.get? s.span.pages n = some p) (asked : p.asked = some write)
include known asked

/-- What keeps a page here: the link is down, or the home's own request or access comes before the hand-over. -/
theorem servePage_waits (kept : s.span.up = false ∨ (p.handing = false ∧ ((p.home = true ∧ p.wanted ≠ 0) ∨ s.pageAwaited n = true))) :
    s.servePage n = s := by
  have stays : (!s.span.up || (!p.handing && ((p.home && p.wanted != 0) || s.pageAwaited n))) = true := by
    rcases kept with down | ⟨idle, ⟨home, wanted⟩ | awaited⟩
    · rw [down]
      rfl
    · rw [idle, home, bne_iff_ne.mpr wanted]
      simp
    · rw [idle, awaited]
      simp
  rw [servePage, known]
  simp only [asked, stays, if_true]

variable (up : s.span.up = true) (turn : p.handing = true ∨ ¬ ((p.home = true ∧ p.wanted ≠ 0) ∨ s.pageAwaited n = true))
include up turn

omit known asked in
theorem servePage_goes : (!s.span.up || (!p.handing && ((p.home && p.wanted != 0) || s.pageAwaited n))) = false := by
  rcases turn with handing | none_
  · rw [up, handing]
    rfl
  · obtain ⟨wanted, awaited⟩ := not_or.mp none_
    have idle : (p.home && p.wanted != 0) = false := by
      rw [Bool.eq_false_iff]
      intro both
      rw [Bool.and_eq_true, bne_iff_ne] at both
      exact wanted both
    rw [up, idle, Bool.eq_false_iff.mpr awaited]
    simp

theorem servePage_unbacked (frame : (s.mapPage n fun p => { p with handing := true }).pageFrame n = none) :
    s.servePage n = (s.mapPage n fun p => { p with handing := true }).handOver n write := by
  rw [servePage, known]
  simp only [asked, servePage_goes up turn, Bool.false_eq_true, if_false, frame]

theorem servePage_backed {k : Place} (frame : (s.mapPage n fun p => { p with handing := true }).pageFrame n = some k) :
    s.servePage n = (let u := (s.mapPage n fun p => { p with handing := true }).commitFrame k.pa
      if u.frameUsed k.pa then u else u.handOver n write) := by
  rw [servePage, known]
  simp only [asked, servePage_goes up turn, Bool.false_eq_true, if_false, frame]
end

/-! ### Atomics of the other box (R270, R283) -/

section
variable {s : State} {a : SpanAtomic}

theorem takeAtomic_performed (here : s.performsAtomic a.page = true) (idle : s.homeBusy (lineOf a.address) = false) :
    s.takeAtomic a = s.homePerforms a := by
  rw [takeAtomic]
  simp only [here, idle, Bool.false_eq_true, if_true, if_false]

theorem takeAtomic_later (here : s.performsAtomic a.page = true) (busy : s.homeBusy (lineOf a.address) = true) :
    s.takeAtomic a = s.withSpan fun x => { x with atomics := x.atomics ++ [a] } := by
  rw [takeAtomic]
  simp only [here, busy, if_true]

theorem takeAtomic_refused (away : s.performsAtomic a.page = false) (fixed : s.upgradesPage a.page = false) :
    s.takeAtomic a = s.sendSpan [.refused ((AMap.get? s.span.pages a.page).any fun p => p.handing || p.state == 2)] := by
  rw [takeAtomic]
  simp only [away, fixed, Bool.false_eq_true, if_false]
end

end State

/-! ### The events -/

/-- The other box's request is noted and served as far as it can be. -/
theorem exec_pageReq_noted {s : State} {p : SpanPage} (known : AMap.get? s.span.pages s.ev.index = some p) (other : s.ev.flag2 = false)
    (here : p.state ≠ 2) : exec .pageReq s =
      .next ((s.mapPage s.ev.index fun p => { p with asked := some (s.ev.flag || p.asked == some true) }).servePage s.ev.index) := by
  rw [exec_pageReq, execPageReq]
  simp only [other, known, here, Bool.false_eq_true, if_false]

theorem exec_pageReq_gone {s : State} {p : SpanPage} (known : AMap.get? s.span.pages s.ev.index = some p) (other : s.ev.flag2 = false)
    (gone : p.state = 2) : exec .pageReq s = .next s := by
  rw [exec_pageReq, execPageReq]
  simp only [other, known, gone, Bool.false_eq_true, if_false, if_true]

theorem exec_pageReq_unknown {s : State} (unknown : AMap.get? s.span.pages s.ev.index = none) : exec .pageReq s = .next s := by
  rw [exec_pageReq, execPageReq]
  cases own : s.ev.flag2 with
  | true => simp only [if_true, State.askPage, unknown]
  | false => simp only [Bool.false_eq_true, if_false, unknown]

namespace Laws

/-- Settles O57: flits by their order and form, the link by its state, pages by what keeps them here, atomics by who performs them. -/
theorem spanEvents : Obligations.SpanEvents := by
  unfold Obligations.SpanEvents
  intro s f c i
  refine ⟨fun down => ?_, fun order => ?_, fun up crc order room => ?_, fun up crc order empty => ?_, rfl, ⟨_, rfl, State.up_spanLost s⟩,
    fun joined => ?_, fun apart => ?_, fun unknown => ?_, fun p known other => ⟨exec_pageReq_gone known other, fun here => ?_⟩, ?_, fun up => ?_,
    fun down engine => ?_, fun va w down strand waiting => ?_⟩
  · exact congrArg _ (State.takeFlit_ignored (.inl down))
  · exact congrArg _ (State.takeFlit_ignored (.inr order))
  · exact congrArg _ (State.takeFlit_corrupt up order crc room)
  · exact congrArg _ (State.takeFlit_empty up order crc empty)
  · rw [exec_spanLinkRecovered, execSpanLinkRecovered, if_pos joined]
    rfl
  · rw [exec_spanLinkRecovered, execSpanLinkRecovered, apart, if_neg Bool.false_ne_true]
  · exact exec_pageReq_unknown unknown
  · intro write t u first
    have noted : AMap.get? t.span.pages s.ev.index = some { p with asked := some write } := State.pages_mapPage known _
    have link : t.span.up = s.span.up := State.up_mapPage ..
    have requested : exec .pageReq s = .next (t.servePage s.ev.index) :=
      (exec_pageReq_noted known other here).trans (congrArg (fun k => Host.Outcome.next (State.servePage k s.ev.index)) (State.mapPage_congr known rfl))
    rw [requested]
    refine ⟨fun kept => congrArg _ (State.servePage_waits noted rfl ?_), fun up turn => ⟨fun frame => ?_, fun k frame => ?_⟩⟩
    · rw [link]
      exact kept
    · exact congrArg _ (State.servePage_unbacked noted rfl (link.trans up) turn frame)
    · exact congrArg _ (State.servePage_backed noted rfl (link.trans up) turn frame)
  · intro a asked
    exact ⟨fun here idle => congrArg _ (State.takeAtomic_performed here idle), fun here busy => congrArg _ (State.takeAtomic_later here busy),
      fun away fixed => congrArg _ (State.takeAtomic_refused away fixed)⟩
  · rw [exec_spanLinkTimeout, execSpanLinkTimeout, if_pos up]
  · rw [exec_spanLinkTimeout, execSpanLinkTimeout, down, if_neg Bool.false_ne_true, if_pos engine]
    rfl
  · rw [exec_spanLinkTimeout, execSpanLinkTimeout]
    simp only [down, strand, show (s.slotAt s.ev.core s.ev.slot).status = .waiting (.span va w) from waiting, Bool.false_eq_true, if_false]
    rfl

end Laws

end Sys2Proof.Machine
end

section
/-!
PROOFS. What every operation keeps: the strand that runs, and the canonical form of memory (log 2). A lemma `Kept.f` says it of the
model's function `f`; a derivation of it follows the function's own text.
-/

namespace Sys2Proof.Machine

/-- Where an operation starts, and whether the strand that runs there stays the running one. -/
structure Origin where
  state : State
  stays : Bool

/-- From the origin `r` on, the running strand is the same in `t` if it is to stay, and memory is canonical where it was. -/
structure Kept (r : Origin) (t : State) : Prop where
  cur : r.stays = true → t.cur = r.state.cur
  canonical : MemoryCanonical r.state → MemoryCanonical t

/-- The state that a stop names, if it names one, is kept. -/
def StopKept (r : Origin) : Stop → Prop
  | .trap _ _ _ _ k => ∀ t, k = some t → Kept r t
  | .wait _ k => ∀ t, k = some t → Kept r t

/-- A result has `P`, and the state of a stop is kept. -/
def ResKept (r : Origin) {α : Type} (P : α → Prop) : Res α → Prop
  | .ok a => P a
  | .error e => StopKept r e

/-- The value that an option holds, if it holds one, has `P`. -/
def OptKept {α : Type} (P : α → Prop) (o : Option α) : Prop := ∀ a, o = some a → P a

/-- The value of a success has `P`, whatever a failure carries. -/
def OkKept {ε α : Type} (P : α → Prop) (x : Except ε α) : Prop := ∀ a, x = .ok a → P a

/-- The state that follows, if one does, is kept. -/
def OutKept (r : Origin) (o : Out) : Prop := ∀ t, o = .next t → Kept r t

section
variable {r : Origin} {s t u : State}

namespace Kept

theorem refl (s : State) (b : Bool) : Kept ⟨s, b⟩ s := ⟨fun _ => rfl, id⟩

theorem step (h : Kept r s) (cur : t.cur = s.cur) (canonical : MemoryCanonical s → MemoryCanonical t) : Kept r t :=
  ⟨fun stays => cur.trans (h.cur stays), canonical ∘ h.canonical⟩

/-- A state with the same memory and the same running strand. -/
theorem same (h : Kept r s) (mem : t.mem = s.mem) (cur : t.cur = s.cur) : Kept r t :=
  h.step cur fun wf => by rw [MemoryCanonical, mem]; exact wf

/-- The memory and the running strand of a state that is kept, whatever else there is. -/
theorem fields {cores dies gphase cycle counters launches graphs units jobs maps keys seals ranges net landings shootdowns
    mesh stamps answers acks hostLines hostTx hostCopies holes generations endpoints bezel mgmt spdm channels port span
    nextId keysDrawn ev agenda turns steps drawn native}
    (h : Kept r s) :
    Kept r ⟨s.mem, cores, dies, gphase, cycle, counters, launches, graphs, units, jobs, maps, keys, seals, ranges, net,
      landings, shootdowns, mesh, stamps, answers, acks, hostLines, hostTx, hostCopies, holes, generations, endpoints,
      bezel, mgmt, spdm, channels, port, span, nextId, keysDrawn, s.cur, ev, agenda, turns, steps, drawn, native⟩ :=
  h.same rfl rfl

/-- What may go over to another strand, where the origin lets it. -/
theorem goes (h : Kept r s) (loose : r.stays = false) (canonical : MemoryCanonical s → MemoryCanonical t) : Kept r t :=
  ⟨fun stays => absurd (stays.symm.trans loose) Bool.noConfusion, canonical ∘ h.canonical⟩

theorem published (h : Kept r s) (k : LinesPublished s t) : Kept r t := h.step k.cur k.canonical

theorem moved (h : Kept r s) (k : LineMoves s t) : Kept r t := h.published k.published

theorem ite {p : Prop} [Decidable p] (h : Kept r s) (k : Kept r t) : Kept r (if p then s else t) := by
  split
  · exact h
  · exact k

theorem ite_snd {α : Type} {p : Prop} [Decidable p] {x y : α × State} (h : Kept r x.2) (k : Kept r y.2) :
    Kept r (if p then x else y).2 := by
  split
  · exact h
  · exact k

theorem ite_snd2 {α β : Type} {p : Prop} [Decidable p] {x y : α × β × State} (h : Kept r x.2.2) (k : Kept r y.2.2) :
    Kept r (if p then x else y).2.2 := by
  split
  · exact h
  · exact k

theorem foldl {α : Type} {f : State → α → State} {l : List α} (step : ∀ t a, Kept r t → Kept r (f t a)) (h : Kept r s) :
    Kept r (l.foldl f s) := by
  induction l generalizing s with
  | nil => exact h
  | cons a l ih => exact ih (step s a h)

/-- A fold that hands a value along besides the state. -/
theorem foldl_snd {α β : Type} {f : β × State → α → β × State} {l : List α} {x : β × State}
    (step : ∀ x a, Kept r x.2 → Kept r (f x a).2) (h : Kept r x.2) : Kept r (l.foldl f x).2 := by
  induction l generalizing x with
  | nil => exact h
  | cons a l ih => exact ih (step x a h)

theorem of_eq (h : Kept r s) (is : s = t) : Kept r t := is ▸ h

/-- The state of a pair that has been taken apart. -/
theorem snd {α : Type} {x : α × State} {a : α} (h : Kept r x.2) (is : x = (a, t)) : Kept r t := by
  rw [is] at h
  exact h

/-- The state of a triple that has been taken apart. -/
theorem snd2 {α β : Type} {x : α × β × State} {a : α} {b : β} (h : Kept r x.2.2) (is : x = (a, b, t)) : Kept r t := by
  rw [is] at h
  exact h

/-- The state of a quadruple that has been taken apart. -/
theorem snd3 {α β γ : Type} {x : α × β × γ × State} {a : α} {b : β} {c : γ} (h : Kept r x.2.2.2)
    (is : x = (a, b, c, t)) : Kept r t := by
  rw [is] at h
  exact h

theorem getD {o : Option State} (inner : OptKept (Kept r) o) (h : Kept r s) : Kept r (o.getD s) := by
  cases o with
  | some t => exact inner t rfl
  | none => exact h

theorem setCore {c : Nat} {x : Core} (h : Kept r s) : Kept r (s.setCore c x) := h.same rfl rfl

theorem setDie {d : Nat} {x : Die} (h : Kept r s) : Kept r (s.setDie d x) := h.same rfl rfl

theorem setSlotAt {c i : Nat} {x : Slot} (h : Kept r s) : Kept r (s.setSlotAt c i x) := h.setCore

theorem setStrandAt {c i : Nat} {x : Strand} (h : Kept r s) : Kept r (s.setStrandAt c i x) := h.setSlotAt

theorem store {a : Nat} {bs : List Byte} (h : Kept r s) : Kept r (s.store a bs) := h.published (State.published_store ..)

theorem wipe {a n : Nat} (h : Kept r s) : Kept r (s.wipe a n) := h.step rfl fun wf => Memory.wf_clear wf ..

theorem wf_laid {m : Memory} (wf : Memory.wf m = true) (cells : List (Nat × Byte)) :
    Memory.wf (cells.foldl (fun m x => Memory.put m x.1 x.2) m) = true := by
  induction cells generalizing m with
  | nil => exact wf
  | cons x cells ih => exact ih (Memory.wf_put wf ..)

/-- Memory laid down cell by cell. -/
theorem puts {cells : List (Nat × Byte)} (h : Kept r s) (mem : t.mem = cells.foldl (fun m x => Memory.put m x.1 x.2) s.mem)
    (cur : t.cur = s.cur) : Kept r t :=
  h.step cur fun wf => by rw [MemoryCanonical, mem]; exact wf_laid wf cells

/-- Something done as the strand of a slot: the running strand is the same afterwards. -/
theorem as {c i : Nat} {f : State → State} (done : ∀ t, Kept ⟨t, true⟩ (f t)) (h : Kept r s) : Kept r (s.as c i f) :=
  h.step rfl fun wf => (done { s with cur := (c, i) }).canonical wf

/-- Something done as a strand that is put back afterwards. -/
theorem aside {p : Nat × Nat} (done : Kept ⟨{ s with cur := p }, true⟩ t) (h : Kept r s) : Kept r { t with cur := s.cur } :=
  h.step rfl done.canonical

theorem cellStore {key slot : Nat} {bs : List Byte} (h : Kept r s) : Kept r (s.cellStore key bs slot) :=
  h.published (State.published_cellStore ..)

theorem physStore {pa slot : Nat} {bs : List Byte} (h : Kept r s) : Kept r (s.physStore pa bs slot) :=
  h.published (State.published_physStore ..)

end Kept

namespace ResKept

variable {α β : Type} {P : α → Prop} {Q : β → Prop}

theorem bind {x : Res α} {f : α → Res β} (h : ResKept r P x) (k : ∀ a, P a → ResKept r Q (f a)) : ResKept r Q (x >>= f) := by
  cases x with
  | ok a => exact k a h
  | error e => exact h

theorem ok {a : α} (h : P a) : ResKept r P (.ok a) := h

theorem error {e : Stop} (h : StopKept r e) : ResKept r P (.error e) := h

theorem of_ok {x : Res α} {a : α} (h : ResKept r P x) (is : x = .ok a) : P a := by
  rw [is] at h
  exact h

theorem of_error {x : Res α} {e : Stop} (h : ResKept r P x) (is : x = .error e) : StopKept r e := by
  rw [is] at h
  exact h

theorem raise {c : Cause} : ResKept r P (raise c) := fun _ is => absurd is.symm (Option.some_ne_none _)

theorem raiseAt {c : Cause} {n : Nat} {a : Word} : ResKept r P (raiseAt c n a) := fun _ is => absurd is.symm (Option.some_ne_none _)

theorem waitFor {w : Wait} : ResKept r P (waitFor w) := fun _ is => absurd is.symm (Option.some_ne_none _)

theorem ensure {b : Bool} {c : Cause} : ResKept r (fun _ => True) (ensure b c) := by
  rw [Machine.ensure]
  split
  · exact ok trivial
  · exact .raise

theorem ite {p : Prop} [Decidable p] {x y : Res α} (h : ResKept r P x) (k : ResKept r P y) : ResKept r P (if p then x else y) := by
  split
  · exact h
  · exact k

end ResKept

namespace StopKept

theorem trap {c : Cause} {n k : Nat} {a : Word} (h : Kept r t) : StopKept r (.trap c n a k (some t)) :=
  fun _ is => Option.some.inj is ▸ h

theorem wait {w : Wait} (h : Kept r t) : StopKept r (.wait w (some t)) := fun _ is => Option.some.inj is ▸ h

theorem trap_none {c : Cause} {n k : Nat} {a : Word} : StopKept r (.trap c n a k none) :=
  fun _ is => absurd is.symm (Option.some_ne_none _)

theorem ite {p : Prop} [Decidable p] {x y : Stop} (h : StopKept r x) (k : StopKept r y) : StopKept r (if p then x else y) := by
  split
  · exact h
  · exact k

end StopKept

theorem OptKept.some {α : Type} {P : α → Prop} {a : α} (h : P a) : OptKept P (some a) := fun _ is => Option.some.inj is ▸ h

theorem OptKept.of_some {α : Type} {P : α → Prop} {o : Option α} {a : α} (h : OptKept P o) (is : o = Option.some a) : P a := h a is

theorem OptKept.ite {α : Type} {P : α → Prop} {p : Prop} [Decidable p] {x y : Option α} (h : OptKept P x) (k : OptKept P y) :
    OptKept P (if p then x else y) := by
  split
  · exact h
  · exact k

theorem OptKept.map {α : Type} {P : State → Prop} {o : Option α} {f : α → State} (step : ∀ a, P (f a)) : OptKept P (o.map f) := by
  cases o with
  | some a => exact .some (step a)
  | none => exact fun _ is => nomatch is

theorem OptKept.none {α : Type} {P : α → Prop} : OptKept P none := fun _ is => absurd is.symm (Option.some_ne_none _)

namespace OkKept

variable {ε α : Type} {P : α → Prop}

theorem ok {a : α} (h : P a) : OkKept P (.ok a : Except ε α) := fun _ is => Except.ok.inj is ▸ h

theorem error {e : ε} : OkKept P (.error e : Except ε α) := fun _ is => nomatch is

theorem of_ok {x : Except ε α} {a : α} (h : OkKept P x) (is : x = .ok a) : P a := h a is

theorem ite {p : Prop} [Decidable p] {x y : Except ε α} (h : OkKept P x) (k : OkKept P y) : OkKept P (if p then x else y) := by
  split
  · exact h
  · exact k

end OkKept

/-- The state that a command's body gives is kept. -/
def VerdictKept (r : Origin) : State.Verdict → Prop
  | .bad _ => True
  | .held t => Kept r t
  | .accepted t => Kept r t

namespace VerdictKept

theorem bad {code : Nat} : VerdictKept r (.bad code) := trivial

theorem held (h : Kept r t) : VerdictKept r (.held t) := h

theorem accepted (h : Kept r t) : VerdictKept r (.accepted t) := h

theorem ite {p : Prop} [Decidable p] {x y : State.Verdict} (h : VerdictKept r x) (k : VerdictKept r y) :
    VerdictKept r (if p then x else y) := by
  split
  · exact h
  · exact k

theorem of_held {x : State.Verdict} (h : VerdictKept r x) (is : x = .held t) : Kept r t := by
  rw [is] at h
  exact h

theorem of_accepted {x : State.Verdict} (h : VerdictKept r x) (is : x = .accepted t) : Kept r t := by
  rw [is] at h
  exact h

end VerdictKept

theorem OutKept.of_next {x : Out} (h : OutKept r x) (is : x = .next t) : Kept r t := h t is

theorem OutKept.fault {f : Fault} : OutKept r (.fault f) := fun _ is => nomatch is

theorem OutKept.next (h : Kept r t) : OutKept r (.next t) := fun _ is => Host.Outcome.next.inj is ▸ h

theorem OutKept.ite {p : Prop} [Decidable p] {x y : Out} (h : OutKept r x) (k : OutKept r y) : OutKept r (if p then x else y) := by
  split
  · exact h
  · exact k

end

end Sys2Proof.Machine
end

section
/-!
PROOFS. Memory, lines, translation and what instructions share: each operation keeps what `Kept` says.
-/

namespace Sys2Proof.Machine

section
variable {r : Origin} {s t u : State}

/-! ### Memory itself -/

theorem Kept.storeNum {a n x : Nat} (h : Kept r s) : Kept r (s.storeNum a n x) := by
  unfold State.storeNum
  exact h.store

theorem Kept.dropShares {job : Nat} (h : Kept r s) : Kept r (s.dropShares job) := by
  unfold State.dropShares
  exact h.wipe.fields

theorem Kept.moveCells {a b n : Nat} (h : Kept r s) : Kept r (s.moveCells a b n) := by
  unfold State.moveCells
  exact h.store.wipe

/-! ### Places of the state -/

theorem Kept.setMe {x : Core} (h : Kept r s) : Kept r (s.setMe x) := by
  unfold State.setMe
  exact h.setCore

theorem Kept.setSlot {x : Slot} (h : Kept r s) : Kept r (s.setSlot x) := by
  unfold State.setSlot
  exact h.setSlotAt

theorem Kept.setU {x : Strand} (h : Kept r s) : Kept r (s.setU x) := by
  unfold State.setU
  exact h.setSlot

theorem Kept.setPc {x : Word} (h : Kept r s) : Kept r (s.setPc x) := by
  unfold State.setPc
  exact .ite h.setSlot h.setU

theorem Kept.setReg {y : Reg} {x : Word} (h : Kept r s) : Kept r (s.setReg y x) := by
  unfold State.setReg
  exact .ite h (.ite h.setU (.ite h.setSlot h.setU))

theorem Kept.draw (h : Kept r s) : Kept r s.draw.2 := by
  unfold State.draw
  exact h.fields

theorem Kept.mapLaunch {n : Nat} {f : Launch → Launch} (h : Kept r s) : Kept r (s.mapLaunch n f) := by
  unfold State.mapLaunch
  split
  · exact h.fields
  · exact h

theorem Kept.mapJob {n : Nat} {f : Job → Job} (h : Kept r s) : Kept r (s.mapJob n f) := by
  unfold State.mapJob
  split
  · exact h.fields
  · exact h

theorem Kept.mapUnit {n : Option Nat} {f : UnitRec → UnitRec} (h : Kept r s) : Kept r (s.mapUnit n f) := by
  unfold State.mapUnit
  split
  · exact h.fields
  · exact h

theorem Kept.latch {c i : Nat} {l : Latched} (h : Kept r s) : Kept r (s.latch c i l) := by
  unfold State.latch
  exact .ite h h.setSlotAt

theorem Kept.withSpan {f : Span → Span} (h : Kept r s) : Kept r (s.withSpan f) := by
  unfold State.withSpan
  exact h.fields

theorem Kept.sendSpan {l : List SpanOut} (h : Kept r s) : Kept r (s.sendSpan l) := by
  unfold State.sendSpan
  exact h.withSpan

theorem Kept.resendBounced {p : Option Nat → Bool} (h : Kept r s) : Kept r (s.resendBounced p) := by
  unfold State.resendBounced
  exact h.withSpan.sendSpan

theorem Kept.latchCore {c : Nat} {l : Latched} (h : Kept r s) : Kept r (s.latchCore c l) := by
  unfold State.latchCore
  dsimp only
  split
  · exact h.latch
  · exact .ite h.latch h.setCore

theorem Kept.count {c code n : Nat} (h : Kept r s) : Kept r (s.count c code n) :=
  h.moved (State.moves_count ..)

theorem Kept.afterExit {d : Nat} {e : Event} (h : Kept r s) : Kept r (s.afterExit d e) := by
  unfold State.afterExit
  exact h.fields

/-! ### Caches, directories and untracked lines -/

theorem Kept.noteHost {line slot : Nat} (h : Kept r s) : Kept r (s.noteHost line slot) :=
  h.moved (State.moves_noteHost ..)

theorem Kept.forgetHost {line : Nat} (h : Kept r s) : Kept r (s.forgetHost line) :=
  h.moved (State.moves_forgetHost ..)

theorem Kept.loseLine {line : Nat} (h : Kept r s) : Kept r (s.loseLine line) := by
  unfold State.loseLine
  dsimp only
  split
  · exact h
  · exact h.store.forgetHost.fields

theorem Kept.setUt {c line : Nat} {x : UtLine} (h : Kept r s) : Kept r (s.setUt c line x) :=
  h.moved (State.moves_setUt ..)

theorem Kept.publishByte {c pa slot : Nat} {b : Byte} (h : Kept r s) : Kept r (s.publishByte c pa slot b) :=
  h.published (State.published_publishByte ..)

theorem Kept.untrackedWriteBack {c pa slot : Nat} {l : List Byte} (h : Kept r s) : Kept r (s.untrackedWriteBack c pa slot l) := by
  induction l generalizing s c pa slot with
  | nil =>
    unfold State.untrackedWriteBack
    exact h
  | cons y l ih =>
    unfold State.untrackedWriteBack
    exact ih h.publishByte

theorem Kept.publishLine {c line : Nat} (h : Kept r s) : Kept r (s.publishLine c line) :=
  h.published (State.published_publishLine ..)

theorem Kept.meetSlot {c line slot : Nat} (h : Kept r s) : Kept r (s.meetSlot c line slot) :=
  h.published (State.published_meetSlot ..)

theorem Kept.untrackedPiece {c line slot policy o n : Nat} (h : Kept r s) : Kept r (s.untrackedPiece c line slot policy o n).2 :=
  h.published (State.published_untrackedPiece ..)

theorem Kept.untrackedBytes {c : Nat} {g : Segment} (h : Kept r s) : Kept r (s.untrackedBytes c g).2 := by
  unfold State.untrackedBytes
  dsimp only
  refine .foldl_snd (fun _ _ k => ?_) ?_
  · exact k.untrackedPiece
  · exact h

theorem Kept.markLine {c line : Nat} (h : Kept r s) : Kept r (s.markLine c line) :=
  h.moved (State.moves_markLine ..)

theorem Kept.untrackedWrite {c pa slot policy : Nat} {b : Byte} (h : Kept r s) : Kept r (s.untrackedWrite c pa slot policy b) := by
  unfold State.untrackedWrite
  exact .ite h.meetSlot.publishByte h.meetSlot.setUt

theorem Kept.untrackedStore {c pa slot policy : Nat} {l : List Byte} (h : Kept r s) :
    Kept r (s.untrackedStore c pa slot policy l) := by
  induction l generalizing s c pa slot policy with
  | nil =>
    unfold State.untrackedStore
    exact h
  | cons y l ih =>
    unfold State.untrackedStore
    exact ih (.ite h.untrackedWrite.markLine h.untrackedWrite)

theorem Kept.flushUntracked {c : Nat} {p : Nat → Bool} (h : Kept r s) : Kept r (s.flushUntracked c p) :=
  h.published (State.published_flushUntracked ..)

theorem Kept.dropUntracked {c : Nat} {p : Nat → Bool} (h : Kept r s) : Kept r (s.dropUntracked c p) :=
  h.moved (State.moves_dropUntracked ..)

theorem Kept.dropL2Untracked {d : Nat} {p : Nat → Bool} (h : Kept r s) : Kept r (s.dropL2Untracked d p) := by
  unfold State.dropL2Untracked
  exact h.setDie

theorem Kept.dropCleanUntracked (h : Kept r s) : Kept r s.dropCleanUntracked := by
  unfold State.dropCleanUntracked
  exact h.fields

theorem Kept.setL1 {c line : Nat} {x : LineState} {slot : Nat} (h : Kept r s) : Kept r (s.setL1 c line x slot) :=
  h.moved (State.moves_setL1 ..)

theorem Kept.setL2 {d line : Nat} {x : L2Line} (h : Kept r s) : Kept r (s.setL2 d line x) :=
  h.moved (State.moves_setL2 ..)

theorem Kept.setDir {line : Nat} {x : DirEntry} (h : Kept r s) : Kept r (s.setDir line x) :=
  h.moved (State.moves_setDir ..)

theorem Kept.setHostLine {line : Nat} {x : LineState} (h : Kept r s) : Kept r (s.setHostLine line x) :=
  h.moved (State.moves_setHostLine ..)

theorem Kept.recallL1s {d line : Nat} {keepShared : Bool} {but : Option Nat} (h : Kept r s) :
    Kept r (s.recallL1s d line keepShared but) :=
  h.moved (State.moves_recallL1s ..)

theorem Kept.invalidateDie {d line : Nat} (h : Kept r s) : Kept r (s.invalidateDie d line) :=
  h.moved (State.moves_invalidateDie ..)

theorem Kept.backInvalidate {line : Nat} (h : Kept r s) : Kept r (s.backInvalidate line) :=
  h.moved (State.moves_backInvalidate ..)

theorem Kept.sendHost {t : HostTx} (h : Kept r s) : Kept r (s.sendHost t) :=
  h.moved (State.moves_sendHost ..)

theorem Kept.openTx {op line : Nat} (h : Kept r s) : Kept r (s.openTx op line) :=
  h.moved (State.moves_openTx ..)

theorem Kept.closeTx {line : Nat} {p : Nat → Bool} (h : Kept r s) : Kept r (s.closeTx line p) :=
  h.moved (State.moves_closeTx ..)

theorem Kept.leaveHost {line : Nat} {dirty : Bool} (h : Kept r s) : Kept r (s.leaveHost line dirty) :=
  h.moved (State.moves_leaveHost ..)

theorem Kept.keepHost {line : Nat} (h : Kept r s) : Kept r (s.keepHost line) :=
  h.moved (State.moves_keepHost ..)

theorem Kept.evictLine {line : Nat} (h : Kept r s) : Kept r (s.evictLine line) :=
  h.moved (State.moves_evictLine ..)

theorem Kept.touch {c line : Nat} {write : Bool} {slot policy : Nat} (h : Kept r s) : Kept r (s.touch c line write slot policy) :=
  h.moved (State.moves_touch ..)

theorem Kept.own {c line slot policy : Nat} (h : Kept r s) : Kept r (s.own c line slot policy) := by
  unfold State.own
  exact .ite h.touch h.touch.setL1

theorem Kept.enqueue {x : LineReq} (h : Kept r s) : Kept r (s.enqueue x) := by
  unfold State.enqueue
  exact .ite h h.setDie

theorem Kept.askHome {c line : Nat} {write : Bool} {slot : Nat} (h : Kept r s) : Kept r (s.askHome c line write slot) := by
  unfold State.askHome
  exact .ite h (.enqueue (.ite h.evictLine h))

theorem Kept.askAtomic {c line : Nat} (h : Kept r s) : Kept r (s.askAtomic c line) := by
  unfold State.askAtomic
  exact h.enqueue

theorem Kept.homeAtomic {line slot : Nat} {wrote : Bool} {t : HostTx} (h : Kept r s) : Kept r (s.homeAtomic line slot wrote t) := by
  unfold State.homeAtomic
  dsimp only
  refine .ite h.setDie ?_
  split
  · exact h.setDie.sendHost
  · exact h.setDie.backInvalidate.sendHost
  · exact h.setDie.backInvalidate.leaveHost.sendHost
  · exact .setDir (.setL2 (.ite (.noteHost (.foldl (fun _ _ k => k.invalidateDie) h.setDie)) (.foldl (fun _ _ k =>
        k.invalidateDie) h.setDie)))

theorem Kept.dropLine {line d : Nat} {dirty : Bool} (h : Kept r s) : Kept r (s.dropLine line d dirty) :=
  h.moved (State.moves_dropLine ..)

theorem Kept.replaceL1 {c line : Nat} (h : Kept r s) : Kept r (s.replaceL1 c line) := by
  unfold State.replaceL1
  exact .setCore (.ite (.setUt (.publishLine (.setL1 (.ite h.setL2 h)))) (.setL1 (.ite h.setL2 h)))

theorem Kept.replaceL2 {d line : Nat} (h : Kept r s) : Kept r (s.replaceL2 d line) := by
  unfold State.replaceL2
  exact .ite h.dropL2Untracked h.dropL2Untracked.dropLine

/-! ### Units, launches, jobs and the ends of strands -/

theorem Kept.advance {c : Nat} {cancelled : Bool} (h : Kept r s) : Kept r (s.advance c cancelled) := by
  unfold State.advance
  exact h.fields

theorem Kept.advanceBy {c n : Nat} (h : Kept r s) : Kept r (s.advanceBy c n) := by
  unfold State.advanceBy
  exact .foldl (fun _ _ k => k.advance) h

theorem Kept.advancePhase {q p : Nat} {cancelled : Bool} (h : Kept r s) : Kept r (s.advancePhase q p cancelled) := by
  unfold State.advancePhase
  exact h.mapJob

theorem Kept.advance? {c : Option Nat} {cancelled : Bool} (h : Kept r s) : Kept r (s.advance? c cancelled) := by
  unfold State.advance?
  split
  · exact h.advance
  · exact h

theorem Kept.placeLaunch {d : Nat} {l : Launch} (h : Kept r s) : OptKept (fun a => Kept r a.2) (s.placeLaunch d l) := by
  unfold State.placeLaunch
  dsimp only
  split
  · exact .none
  · refine .ite .none (.some ?_)
    exact .ite (.advanceBy h.fields) (.setDie h.fields)

theorem Kept.newUnit {t : UnitRec} (h : Kept r s) : Kept r (s.newUnit t).2 := by
  unfold State.newUnit
  exact h.fields

theorem Kept.engineDone {t : Option Nat} (h : Kept r s) : Kept r (s.engineDone t) := by
  unfold State.engineDone
  exact h.mapUnit

theorem Kept.engineIssued {t : Option Nat} (h : Kept r s) : Kept r (s.engineIssued t) := by
  unfold State.engineIssued
  exact h.mapUnit

theorem Kept.setLcoreState {l : Option Nat} {lcore x : Nat} (h : Kept r s) : Kept r (s.setLcoreState l lcore x) := by
  unfold State.setLcoreState
  split
  · exact h.mapLaunch
  · exact h

theorem Kept.setGrants {job : Option Nat} {c : Nat} {l : List Word} (h : Kept r s) : Kept r (s.setGrants job c l) := by
  unfold State.setGrants
  dsimp only
  refine .ite h.setCore ?_
  split
  · exact h
  · exact h.mapJob

theorem Kept.chargeMeter {c : Nat} (h : Kept r s) : Kept r (s.chargeMeter c) := by
  unfold State.chargeMeter
  dsimp only
  split
  · exact h
  · exact h.setCore.mapJob

theorem Kept.joinMinimum {c : Nat} {job : Option Nat} (h : Kept r s) : Kept r (s.joinMinimum c job) := by
  unfold State.joinMinimum
  exact .ite h.setCore h

theorem Kept.becomePassive {c : Nat} (h : Kept r s) : Kept r (s.becomePassive c) :=
  h.published (State.published_becomePassive ..)

theorem Kept.mirrorCore {c : Nat} {rs : List Nat} (h : Kept r s) : Kept r (s.mirrorCore c rs) := by
  unfold State.mirrorCore
  exact h.step rfl fun wf => Kept.wf_laid (Memory.wf_filter wf _) _

theorem Kept.partPair {c i : Nat} (h : Kept r s) : Kept r (s.partPair c i) := by
  unfold State.partPair
  exact .ite h.mirrorCore.setCore h.mirrorCore

theorem Kept.endStrand {c i : Nat} {cancelled : Bool} (h : Kept r s) : Kept r (s.endStrand c i cancelled) := by
  unfold State.endStrand
  dsimp only
  refine .becomePassive (.chargeMeter (.ite ?_ ?_))
  · refine .setCore (.setCore (.setSlotAt (.ite ?_ ?_)))
    · exact .setSlotAt (.partPair (.foldl (fun _ _ k => .ite k k.setCore) (.ite h.mapUnit.setLcoreState h.mapUnit)))
    · exact .foldl (fun _ _ k => .ite k k.setCore) (.ite h.mapUnit.setLcoreState h.mapUnit)
  · refine .setCore (.setSlotAt (.ite ?_ ?_))
    · exact .setSlotAt (.partPair (.foldl (fun _ _ k => .ite k k.setCore) (.ite h.mapUnit.setLcoreState h.mapUnit)))
    · exact .foldl (fun _ _ k => .ite k k.setCore) (.ite h.mapUnit.setLcoreState h.mapUnit)

theorem Kept.discardCopies {c : Nat} {unit : Option Nat} (h : Kept r s) : Kept r (s.discardCopies c unit) := by
  unfold State.discardCopies
  exact h.setCore.mapUnit

theorem Kept.discardColls {d : Nat} {unit : Option Nat} (h : Kept r s) : Kept r (s.discardColls d unit) := by
  unfold State.discardColls
  exact h.setDie.mapUnit

theorem Kept.discardWalks {c : Nat} {unit : Option Nat} (h : Kept r s) : Kept r (s.discardWalks c unit) := by
  unfold State.discardWalks
  exact h.setCore.mapUnit

theorem Kept.discardUnstarted {c : Nat} {unit : Option Nat} (h : Kept r s) : Kept r (s.discardUnstarted c unit) := by
  unfold State.discardUnstarted
  exact h.discardCopies.discardColls.discardWalks

theorem Kept.cancelSaved {job : Nat} {p : Strand → Bool} (h : Kept r s) : Kept r (s.cancelSaved job p) := by
  unfold State.cancelSaved
  dsimp only
  split
  · exact h
  · exact .mapJob (.foldl (fun _ _ k => .ite k.mapUnit.setLcoreState k.mapUnit) h)

theorem Kept.cancelStrand {c i level : Nat} (h : Kept r s) : Kept r (s.cancelStrand c i level) := by
  unfold State.cancelStrand
  exact h.latch

theorem Kept.cancelUnstarted {n : Nat} (h : Kept r s) : Kept r (s.cancelUnstarted n) := by
  unfold State.cancelUnstarted
  dsimp only
  split
  · exact h
  · exact .ite h (.ite h.setDie.advanceBy.mapLaunch (.mapLaunch (.advanceBy h.fields)))

theorem Kept.cancelLaunch {n level : Nat} (h : Kept r s) : Kept r (s.cancelLaunch n level) := by
  unfold State.cancelLaunch
  dsimp only
  refine .foldl (fun _ _ k => .ite k.cancelStrand k) ?_
  split
  · exact h.cancelUnstarted.mapLaunch.cancelSaved
  · exact h.cancelUnstarted.mapLaunch

theorem Kept.dropUnplaced {job : Nat} {p : Launch → Bool} (h : Kept r s) : Kept r (s.dropUnplaced job p) := by
  unfold State.dropUnplaced
  dsimp only
  split
  · exact h
  · refine .foldl (fun _ _ k => ?_) h.mapJob
    split
    · exact .advance k.advance?.fields
    · exact k.advance?

theorem Kept.cancelGraph {n level : Nat} (h : Kept r s) : Kept r (s.cancelGraph n level) := by
  unfold State.cancelGraph
  dsimp only
  split
  · exact h
  · exact .foldl (fun _ _ k => k.cancelLaunch) (.dropUnplaced h.fields)

theorem Kept.cancelPhase {job p level : Nat} (h : Kept r s) : Kept r (s.cancelPhase job p level) := by
  unfold State.cancelPhase
  exact .foldl (fun _ _ k => k.cancelLaunch) (.foldl (fun _ _ k => k.cancelGraph) h.mapJob)

theorem Kept.cancelJob {job : Nat} (h : Kept r s) : Kept r (s.cancelJob job) := by
  unfold State.cancelJob
  exact .foldl (fun _ _ k => .ite k.cancelStrand k) (.cancelSaved (.foldl (fun _ _ k => k.cancelLaunch) h.mapJob.dropUnplaced.fields))

theorem Kept.recordReason {job : Option Nat} {code : Nat} {cause : Cause} {second : Option Cause} (h : Kept r s) :
    Kept r (s.recordReason job code cause second) := by
  unfold State.recordReason
  dsimp only
  split
  · exact h
  · exact h.mapJob

theorem Kept.cancelJobFor {job : Nat} {cause : Cause} (h : Kept r s) : Kept r (s.cancelJobFor job cause) := by
  unfold State.cancelJobFor
  exact h.recordReason.cancelJob

theorem Kept.cancelUnitFor {c i : Nat} {cause : Cause} (h : Kept r s) : Kept r (s.cancelUnitFor c i cause) := by
  unfold State.cancelUnitFor
  dsimp only
  split
  · exact h.recordReason.cancelLaunch
  · exact h.recordReason.cancelStrand

/-! ### Translation -/

theorem Kept.dirtyLog {job : Option Nat} {va : Word} {level : Nat} (h : Kept r s) : Kept r (s.dirtyLog job va level) := by
  unfold State.dirtyLog
  dsimp only
  split
  · exact h
  · exact .ite h (.ite h (.ite h.physStore.physStore h.physStore))

theorem Kept.aliasCheck {q : Request} {va e : Word} {level : Nat} (h : Kept r s) : Kept r (s.aliasCheck q va e level) := by
  unfold State.aliasCheck
  exact .ite h.latch h

theorem Kept.fillTlb {c : Nat} {va : Word} {t : TlbEntry} (h : Kept r s) : Kept r (s.fillTlb c va t) := by
  unfold State.fillTlb
  exact h.setCore.setDie

theorem Kept.dropTlb {c : Nat} {t : TlbEntry} (h : Kept r s) : Kept r (s.dropTlb c t) := by
  unfold State.dropTlb
  exact h.setCore.setDie

theorem Kept.markEntry {a : Nat} {old new : Word} (h : Kept r s) : Kept r (s.markEntry a old new) := by
  unfold State.markEntry
  exact .ite h.homeAtomic.physStore h

theorem Kept.holdEvent {e : Effect} (h : Kept r s) : Kept r (s.holdEvent e) := by
  unfold State.holdEvent
  exact h.setSlot

theorem Kept.walk {q : Request} {va : Word} {n level base restarts : Nat} (h : Kept r s) :
    Kept r (State.walk q va n level base restarts s).2 := by
  induction n generalizing level base restarts s with
  | zero =>
    unfold State.walk
    exact h
  | succ n ih =>
    unfold State.walk
    dsimp only
    refine .ite_snd h (.ite_snd h (.ite_snd h (.ite_snd (.ite_snd h (ih h.setDie)) ?_)))
    split
    · exact h
    · refine .ite_snd h.askAtomic (.ite_snd ?_ ?_)
      · exact .ite_snd (.ite (.ite h.holdEvent h.dirtyLog) h) (ih (.ite (.ite h.holdEvent h.dirtyLog) h))
      · exact .fillTlb (.aliasCheck (.ite (.ite (.holdEvent (.ite (.ite h.holdEvent h.dirtyLog) h)) (.markEntry (.ite (.ite
            h.holdEvent h.dirtyLog) h))) h))

theorem Kept.askPage {n : Nat} {write : Bool} (h : Kept r s) : Kept r (s.askPage n write) := by
  unfold State.askPage
  dsimp only
  split
  · exact h
  · exact .ite h h.withSpan.sendSpan

theorem Kept.poisonedTranslation {c : Nat} {va : Word} {t : TlbEntry} (h : Kept r s) : Kept r (s.poisonedTranslation c va t) := by
  unfold State.poisonedTranslation
  exact .ite h.latchCore h

theorem Kept.translate {q : Request} {va : Word} (h : Kept r s) : Kept r (s.translate q va).2 := by
  unfold State.translate
  dsimp only
  refine .ite_snd h ?_
  split
  next is =>
    dsimp only
    refine Kept.snd ?_ is
    split
    · exact .ite (.poisonedTranslation (.ite h.count h)) (.fillTlb (.aliasCheck (.ite h.count h)))
    · refine .walk (.count ?_)
      split
      · exact .dropTlb (.ite h.count h)
      · exact .ite h.count h
  next is =>
    refine .ite_snd ?_ ?_
    · refine Kept.snd ?_ is
      split
      · exact .ite (.poisonedTranslation (.ite h.count h)) (.fillTlb (.aliasCheck (.ite h.count h)))
      · refine .walk (.count ?_)
        split
        · exact .dropTlb (.ite h.count h)
        · exact .ite h.count h
    · refine .ite_snd ?_ ?_
      · refine .ite_snd ?_ ?_
        · refine Kept.snd ?_ is
          split
          · exact .ite (.poisonedTranslation (.ite h.count h)) (.fillTlb (.aliasCheck (.ite h.count h)))
          · refine .walk (.count ?_)
            split
            · exact .dropTlb (.ite h.count h)
            · exact .ite h.count h
        · refine .ite ?_ ?_
          · refine .askPage (Kept.snd ?_ is)
            split
            · exact .ite (.poisonedTranslation (.ite h.count h)) (.fillTlb (.aliasCheck (.ite h.count h)))
            · refine .walk (.count ?_)
              split
              · exact .dropTlb (.ite h.count h)
              · exact .ite h.count h
          · refine Kept.snd ?_ is
            split
            · exact .ite (.poisonedTranslation (.ite h.count h)) (.fillTlb (.aliasCheck (.ite h.count h)))
            · refine .walk (.count ?_)
              split
              · exact .dropTlb (.ite h.count h)
              · exact .ite h.count h
      · refine Kept.snd ?_ is
        split
        · exact .ite (.poisonedTranslation (.ite h.count h)) (.fillTlb (.aliasCheck (.ite h.count h)))
        · refine .walk (.count ?_)
          split
          · exact .dropTlb (.ite h.count h)
          · exact .ite h.count h

theorem Kept.translateRange {q : Request} {fuel n : Nat} {va : Word} (h : Kept r s) :
    Kept r (State.translateRange q fuel n va s).2 := by
  induction fuel generalizing n va s with
  | zero =>
    unfold State.translateRange
    exact h
  | succ fuel ih =>
    unfold State.translateRange
    dsimp only
    refine .ite_snd h ?_
    split
    next is => exact h.translate.snd is
    next is =>
      split
      · exact h.translate.snd is
      · split
        · exact h.translate.snd is
        · split
          next is2 => exact (ih (h.translate.snd is)).snd is2
          next is2 => exact (ih (h.translate.snd is)).snd is2

theorem Kept.shoot {kind asn page : Nat} (h : Kept r s) : Kept r (s.shoot kind asn page) := by
  unfold State.shoot
  exact h.fields

/-! ### Effects and what a pair holds -/

theorem Kept.readSegments {c : Nat} {l : List Segment} (h : Kept r s) : Kept r (s.readSegments c l).2 := by
  induction l generalizing s with
  | nil =>
    unfold State.readSegments
    exact h
  | cons y l ih =>
    unfold State.readSegments
    dsimp only
    refine ih (.ite_snd ?_ ?_)
    · exact h
    · exact .ite_snd (.ite (.foldl (fun _ _ k => k.markLine) h.untrackedBytes) h.untrackedBytes) (.foldl (fun _ _ k => k.touch) h)

theorem Kept.jobLoad {job : Option Nat} {c i : Nat} {va : Word} {n : Nat} (h : Kept r s) : Kept r (s.jobLoad job c i va n).2 := by
  unfold State.jobLoad
  dsimp only
  split
  next is => exact h.translateRange.snd is
  next is =>
    split
    · exact (h.translateRange.snd is).askHome
    · exact (h.translateRange.snd is).readSegments

theorem Kept.storeSegments {l : List Segment} {l2 : List Byte} (h : Kept r s) : Kept r (s.storeSegments l l2) := by
  induction l generalizing s l2 with
  | nil =>
    unfold State.storeSegments
    exact h
  | cons y l ih =>
    unfold State.storeSegments
    exact ih h.cellStore

theorem Kept.cellOwned {c : Nat} {g : Segment} {bs : List Byte} (h : Kept r s) : Kept r (s.cellOwned c g bs) := by
  unfold State.cellOwned
  exact .cellStore (.ite (.foldl (fun _ _ k => k.touch) h) h)

theorem Kept.engineLay {c : Nat} {l : List Segment} {l2 : List Byte} (h : Kept r s) : Kept r (s.engineLay c l l2) := by
  induction l generalizing s l2 with
  | nil =>
    unfold State.engineLay
    exact h
  | cons y l ih =>
    unfold State.engineLay
    exact ih (.ite h.untrackedWriteBack h.cellOwned)

theorem Kept.jobStore {job : Option Nat} {c i : Nat} {va : Word} {bs : List Byte} {waited : Bool} (h : Kept r s) :
    Kept r (s.jobStore job c i va bs waited).2 := by
  unfold State.jobStore
  dsimp only
  split
  next is => exact h.translateRange.snd is
  next is =>
    split
    · exact (h.translateRange.snd is).askHome
    · exact (h.translateRange.snd is).engineLay

theorem Kept.reserveLink {c i n : Nat} (h : Kept r s) : Kept r (s.reserveLink c i n) := by
  unfold State.reserveLink
  exact h.setStrandAt

theorem Kept.reserveQueue {c i n : Nat} (h : Kept r s) : Kept r (s.reserveQueue c i n) := by
  unfold State.reserveQueue
  exact h.setStrandAt

theorem Kept.raisePhase {c : Nat} (h : Kept r s) : Kept r (s.raisePhase c) := by
  unfold State.raisePhase
  exact .ite h.flushUntracked.dropUntracked.setCore h.flushUntracked.dropUntracked

theorem Kept.perform {x : Effect} (h : Kept r s) : Kept r (s.perform x) := by
  unfold State.perform
  dsimp only
  split
  · exact h.cellOwned
  · exact h.untrackedStore
  · exact h.fields
  · exact h.fields
  · exact h.fields
  · exact h.sendSpan
  · split
    · exact h
    · split
      next is => exact (h.jobStore.snd is).latch
      next is =>
        split
        next is2 => exact (((h.jobStore.snd is).jobStore).snd is2).latch
        next is2 => exact (((h.jobStore.snd is).jobStore).snd is2).mapJob
  · exact h.setCore
  · exact h.setDie
  · exact h.setCore
  · split
    · exact h
    · split
      · exact h
      · split
        next is2 => exact h.placeLaunch.of_some is2
        · exact h
  · exact h.raisePhase
  · exact h.markEntry
  · exact h.dirtyLog

theorem Kept.writeImage {c i : Nat} (h : Kept r s) : Kept r (s.writeImage c i) := by
  unfold State.writeImage
  dsimp only
  split
  · exact h
  · split
    · exact h
    · exact h.store.setSlotAt

theorem Kept.commit {c i : Nat} (h : Kept r s) : Kept r (s.commit c i) := by
  unfold State.commit
  dsimp only
  split
  · exact h
  · exact .writeImage (.aside (.foldl (fun _ _ k => k.perform) (.refl ..)) h.setSlotAt)

/-! ### Stopping, trapping and completing -/

theorem Kept.doubleTrap {c : Nat} (h : Kept r s) : Kept r (s.doubleTrap c) := by
  unfold State.doubleTrap
  exact h.setCore

theorem Kept.takeTrap {c i : Nat} {precise : Bool} {cause : Cause} {info : Nat} {eaddr : Word} {step : Nat} (h : Kept r s) :
    Kept r (s.takeTrap c i precise cause info eaddr step) := by
  unfold State.takeTrap
  exact .ite h.doubleTrap (.setSlotAt (.ite h.commit.count h.commit))

theorem Kept.trap {cause : Cause} {info : Nat} {eaddr : Word} {step : Nat} (h : Kept r s) :
    Kept r (s.trap cause info eaddr step) := by
  unfold State.trap
  exact h.takeTrap

theorem Kept.sealPoint (h : Kept r s) : Kept r s.sealPoint := by
  unfold State.sealPoint
  dsimp only
  split
  · exact h
  · split
    · exact h
    · exact h.setSlot.writeImage

theorem Kept.complete {pc : Word} (h : Kept r s) : Kept r (s.complete pc) := by
  unfold State.complete
  exact .ite h.setPc.setSlot.count.sealPoint.trap h.setPc.setSlot.count.sealPoint

theorem Kept.retire (h : Kept r s) : Kept r s.retire := by
  unfold State.retire
  exact h.complete

theorem Kept.setWait {w : Wait} (h : Kept r s) : Kept r (s.setWait w) := by
  unfold State.setWait
  exact h.setSlot

theorem Kept.finish {x : Res State} (h : Kept r s) (kx : ResKept r (Kept r) x) : Kept r (s.finish x) := by
  unfold State.finish
  split
  · exact kx
  · exact .trap (.getD kx h)
  · exact .setWait (.getD kx h)

theorem Kept.returnFromTrap (h : Kept r s) : Kept r s.returnFromTrap := by
  unfold State.returnFromTrap
  exact h.commit.setSlot

theorem OutKept.plain {k : State → Res State} (h : Kept r s) (kk : ∀ (s : State), Kept r s → ResKept r (Kept r) (k s)) :
    OutKept r (s.plain k) := by
  unfold State.plain
  exact .next (h.finish (.bind .ensure (fun _ _ => kk _ h)))

theorem OutKept.plainWhere {legal : Bool} {k : State → Res State} (h : Kept r s) (kk : ∀ (s : State), Kept r s → ResKept r (Kept
    r) (k s)) :
    OutKept r (s.plainWhere legal k) := by
  unfold State.plainWhere
  exact .next (h.finish (.bind .ensure (fun _ _ => .bind .ensure (fun _ _ => kk _ h))))

theorem OutKept.withExt {k : State → Res State} (h : Kept r s) (kk : ∀ (s : State), Kept r s → ResKept r (Kept r) (k s)) :
    OutKept r (s.withExt k) := by
  unfold State.withExt
  exact .next (h.finish (.bind .ensure (fun _ _ => kk _ h)))

theorem OutKept.withMod {k : State → Res State} (h : Kept r s) (kk : ∀ (s : State), Kept r s → ResKept r (Kept r) (k s)) :
    OutKept r (s.withMod k) := by
  unfold State.withMod
  exact .next (h.finish (.bind .ensure (fun _ _ => kk _ h)))

theorem OutKept.withBoth {k : State → Res State} (h : Kept r s) (kk : ∀ (s : State), Kept r s → ResKept r (Kept r) (k s)) :
    OutKept r (s.withBoth k) := by
  unfold State.withBoth
  exact .next (h.finish (.bind .ensure (fun _ _ => kk _ h)))

theorem ResKept.needSupervisor : ResKept r (fun _ => True) s.needSupervisor := by
  unfold State.needSupervisor
  exact .ensure

theorem ResKept.needResident : ResKept r (fun _ => True) s.needResident := by
  unfold State.needResident
  exact .ensure

theorem ResKept.needIdleSequencer : ResKept r (fun _ => True) s.needIdleSequencer := by
  unfold State.needIdleSequencer
  exact .ensure

theorem ResKept.needArea {p : Pair} {effect : Bool} : ResKept r (fun _ => True) (State.needArea p effect) := by
  unfold State.needArea
  exact .ensure

theorem ResKept.awaitHeld {p : Pair} (h : Kept r s) : ResKept r (fun _ => True) (s.awaitHeld p) := by
  unfold State.awaitHeld
  split
  · exact .error (.wait h.askHome)
  · exact .ok trivial

theorem ResKept.commitFull (h : Kept r s) : ResKept r (Kept r) s.commitFull := by
  unfold State.commitFull
  split
  · exact .ok h
  · exact .bind .needArea (fun _ _ => .bind (.awaitHeld h) (fun _ _ => .ok h.commit))

theorem ResKept.performHeld (h : Kept r s) : ResKept r (Kept r) s.performHeld := by
  unfold State.performHeld
  split
  · exact .ok h
  · exact .ite (.ok h) (.bind (.awaitHeld h) (fun _ _ => .ok h.commit))

theorem ResKept.emit {e : Effect} (h : Kept r s) : ResKept r (Kept r) (s.emit e) := by
  unfold State.emit
  dsimp only
  split
  · exact .ok h.perform
  · refine .ite ?_ ?_
    · refine .bind (P := Kept r) (.ok h) fun _ k => ?_
      split
      · exact .ok k
      · exact .ok k.setSlot
    · refine .bind (.commitFull h) fun _ k => ?_
      split
      · exact .ok k
      · exact .ok k.setSlot

theorem ResKept.commitPoint {effect : Bool} (h : Kept r s) : ResKept r (Kept r) (s.commitPoint effect) := by
  unfold State.commitPoint
  dsimp only
  split
  · exact .ok h
  · exact .bind .needArea (fun _ _ => .bind (.awaitHeld h) (fun _ _ => .ok h.commit.setSlot))

/-! ### Flags of a word -/

theorem Kept.orFlags {flags : Nat} (h : Kept r s) : Kept r (s.orFlags flags) := by
  unfold State.orFlags
  exact h.setU

theorem ResKept.withFlags {flags : Nat} {k : State → State} (h : Kept r s) (kk : ∀ (s : State), Kept r s → Kept r (k s)) :
    ResKept r (Kept r) (s.withFlags flags k) := by
  unfold State.withFlags
  exact .ite (.error (.trap h.orFlags)) (.ok ((kk _ h.orFlags).retire))

/-! ### Operands and their checks -/

theorem Kept.setPair {d : Reg} {x status : Word} (h : Kept r s) : Kept r (s.setPair d x status) := by
  unfold State.setPair
  exact h.setReg.setReg

theorem Kept.setLanes {x : Reg} {f : Nat → Option Lane} (h : Kept r s) : Kept r (s.setLanes x f) := by
  unfold State.setLanes
  exact h.setU

theorem Kept.wakeBanks {rs : List Reg} (h : Kept r s) : Kept r (s.wakeBanks rs) := by
  unfold State.wakeBanks
  exact h.setU

theorem ResKept.needGrant {rs : List Reg} : ResKept r (fun _ => True) (s.needGrant rs) := by
  unfold State.needGrant
  exact .bind .needIdleSequencer (fun _ _ => .ensure)

theorem Kept.setMask {k : Nat} {x : BitVec 32} (h : Kept r s) : Kept r (s.setMask k x) := by
  unfold State.setMask
  exact h.setU

end

end Sys2Proof.Machine
end

section
/-!
PROOFS. System words, accesses, services and the engines' work: each operation keeps what `Kept` says.
-/

namespace Sys2Proof.Machine

section
variable {r : Origin} {s t u : State}

/-! ### System words -/

theorem Kept.seePhase {x : Word} (h : Kept r s) : Kept r (s.seePhase x) := by
  unfold State.seePhase
  exact h.setU

theorem Kept.flushL1 {c : Nat} (h : Kept r s) : Kept r (s.flushL1 c) := by
  unfold State.flushL1
  exact .setCore (.foldl (fun _ _ k => k.setL2) h.flushUntracked.dropUntracked)

theorem Kept.resplit {c sp : Nat} (h : Kept r s) : Kept r (s.resplit c sp) := by
  unfold State.resplit
  exact h.flushL1.wipe.setCore

theorem ResKept.writeSys {n : Nat} {x : Word} (h : Kept r s) : ResKept r (Kept r) (s.writeSys n x) := by
  unfold State.writeSys
  dsimp only
  split
  · exact .bind .ensure (fun _ _ => .bind .needIdleSequencer (fun _ _ => .ok h.setU))
  · exact .bind .needIdleSequencer (fun _ _ => .ok h.setU)
  · exact .ok h.setU
  · exact .ok h.setU
  · exact .ok h.resplit
  · exact .ok h.setMe
  · exact .ok h.setSlot
  · exact .ok h.setSlot
  · exact .ok h.setSlot
  · exact .ok h.setSlot
  · exact .ok h.setMe
  · exact .ok h

theorem ResKept.awaitSequencer : ResKept r (fun _ => True) s.awaitSequencer := by
  unfold State.awaitSequencer
  exact .ite .waitFor (.ok trivial)

theorem OutKept.execSrd {d : Reg} {n : BitVec 11} (h : Kept r s) : OutKept r (execSrd d n s) := by
  unfold Machine.execSrd
  exact .plain h (fun _ k => .bind .ensure (fun _ _ => .ok (.retire (.setReg (.ite k.seePhase k)))))

theorem OutKept.execSwr {a : Reg} {n : BitVec 11} (h : Kept r s) : OutKept r (execSwr a n s) := by
  unfold Machine.execSwr
  exact .plain h (fun _ k => .bind .ensure (fun _ _ => .bind .ensure (fun _ _ => .bind (.writeSys k) (fun _ k2 => .ok k2.retire))))

theorem OutKept.execTrap {c : BitVec 11} (h : Kept r s) : OutKept r (execTrap c s) := by
  unfold Machine.execTrap
  exact .plain h (fun _ _ => .raiseAt)

theorem OutKept.execBrk {c : BitVec 11} (h : Kept r s) : OutKept r (execBrk c s) := by
  unfold Machine.execBrk
  exact .plain h (fun _ _ => .raiseAt)

theorem OutKept.execWfm {m : BitVec 4} (h : Kept r s) : OutKept r (execWfm m s) := by
  unfold Machine.execWfm
  exact .plainWhere h (fun _ k => .bind .needResident (fun _ _ => .ite (.ok k.retire) .waitFor))

theorem OutKept.execExit (h : Kept r s) : OutKept r (execExit s) := by
  unfold Machine.execExit
  exact .plain h (fun _ k => .bind .needResident (fun _ _ => .bind .awaitSequencer (fun _ _ => .ok k.commit.count.endStrand)))

theorem OutKept.execTlbinv {a : Reg} {k : BitVec 11} (h : Kept r s) : OutKept r (execTlbinv a k s) := by
  unfold Machine.execTlbinv
  exact .plain h (fun _ k2 => .bind .needSupervisor (fun _ _ => .bind (.performHeld k2) (fun _ k3 => .ite (.error (.wait
      k3.shoot.fields)) (.ok k3.shoot.retire))))

theorem OutKept.execHalign {x : Reg} {y : BitVec 16} (h : Kept r s) : OutKept r (execHalign x y s) := by
  unfold Machine.execHalign
  exact .plain h (fun _ k => .ite (.ok (.retire (.foldl (fun _ _ k2 => .as (fun _ => .retire (.refl ..)) k2) k))) .waitFor)

theorem OutKept.execHpref {a : Reg} {i : BitVec 16} (h : Kept r s) : OutKept r (execHpref a i s) := by
  unfold Machine.execHpref
  dsimp only
  refine .plain h (fun _ k => ?_)
  split
  · exact .ite (.ok k.retire) (.ite (.ok k.untrackedPiece.retire) (.ok k.touch.retire))
  · exact .ok k.retire

theorem OutKept.execHevict {a : Reg} {i : BitVec 16} (h : Kept r s) : OutKept r (execHevict a i s) := by
  unfold Machine.execHevict
  dsimp only
  refine .plain h (fun _ k => ?_)
  split
  · exact .ok (.retire (.ite k k.markLine))
  · exact .ok k.retire

theorem OutKept.execHprio {x : Reg} {i : BitVec 16} (h : Kept r s) : OutKept r (execHprio x i s) := by
  unfold Machine.execHprio
  exact .plain h (fun _ k => .ok (.retire (.ite k.setU k)))

theorem OutKept.execHlikely {x : Reg} {y : BitVec 16} (h : Kept r s) : OutKept r (execHlikely x y s) := by
  unfold Machine.execHlikely
  exact .plain h (fun _ k => .ok k.retire)

/-! ### Accesses -/

theorem ResKept.attrs {ignored : Nat} : ResKept r (fun _ => True) (s.attrs ignored) := by
  unfold State.attrs
  dsimp only
  split
  · exact .ok trivial
  · exact .ite .raise (.ok trivial)

theorem ResKept.memAttr {a : Attr} {code field : Nat} : ResKept r (fun _ => True) (State.memAttr a code field) := by
  unfold State.memAttr
  exact .raiseAt

theorem ResKept.attrCheck {k : AccessKind} {x : Access} {va : Word} : ResKept r (fun _ => True) (State.attrCheck k x va) := by
  unfold State.attrCheck
  exact .ite .memAttr (.ite .memAttr (.ite .raiseAt (.ite .memAttr (.ok trivial))))

theorem ResKept.istorePrivilege {a : Attr} : ResKept r (fun _ => True) (s.istorePrivilege a) := by
  unfold State.istorePrivilege
  exact .ensure

theorem ResKept.aligned {x : Access} {a : Word} {n step : Nat} : ResKept r (fun _ => True) (State.aligned x a n step) := by
  unfold State.aligned
  exact .ite (.ok trivial) (.error .trap_none)

theorem Kept.noteStep {step : Nat} (h : Kept r t) : Kept r (t.noteStep step) := by
  unfold State.noteStep
  exact .ite h h.setSlot

theorem StopKept.missStop {q : Request} {m : Miss} {va : Word} {step : Nat} (h : Kept r t) :
    StopKept r (State.missStop q m va step t) := by
  unfold State.missStop
  dsimp only
  split
  · exact .wait (.noteStep (.ite h h.askPage))
  · exact .wait h.noteStep
  · exact .trap h
  · exact .trap h

theorem ResKept.resolve {x : Access} {a : Word} {n step : Nat} (h : Kept r s) :
    ResKept r (fun a => Kept r a.2) (s.resolve x a n step) := by
  unfold State.resolve
  dsimp only
  refine .ite ?_ ?_
  · refine .ok ?_
    exact h
  · refine .ite ?_ ?_
    · refine .ite (.error .trap_none) (.ite (.error .trap_none) ?_)
      split
      next is => exact .error (.missStop (h.translateRange.snd is))
      next is =>
        split
        · exact .error (.trap (h.translateRange.snd is))
        · split
          · exact .error (.missStop (.ite ((h.translateRange.snd is).askAtomic) ((h.translateRange.snd is).askHome)))
          · refine .ok ?_
            exact h.translateRange.snd is
    · split
      · exact .error .trap_none
      · refine .ok ?_
        exact h

theorem ResKept.refuseUntracked {segs : List Segment} {a : Word} (h : Kept r t) :
    ResKept r (fun _ => True) (State.refuseUntracked segs a t) := by
  unfold State.refuseUntracked
  exact .ite (.error (.trap h)) (.ok trivial)

theorem Kept.poisonRead {c : Nat} {segs : List Segment} (h : Kept r s) : Kept r (s.poisonRead c segs) := by
  unfold State.poisonRead
  dsimp only
  refine .foldl (fun _ _ k => .ite (.foldl (fun _ _ k2 => .ite k2.latchCore (.ite k2.latchCore k2)) k) ?_) h
  split
  · exact k.latchCore
  · exact k

theorem Kept.readAccess {segs : List Segment} (h : Kept r s) : Kept r (s.readAccess segs).2 := by
  unfold State.readAccess
  exact .ite_snd h.poisonRead.readSegments h.poisonRead.readSegments

theorem ResKept.emitEach {l : List Effect} (h : Kept r s) : ResKept r (Kept r) (s.emitEach l) := by
  induction l generalizing s with
  | nil =>
    unfold State.emitEach
    exact .ok h
  | cons y l ih =>
    unfold State.emitEach
    exact .bind (.emit h) (fun _ k => ih k)

theorem ResKept.emitAll {es : List Effect} (h : Kept r s) : ResKept r (Kept r) (s.emitAll es) := by
  unfold State.emitAll
  dsimp only
  split
  · exact .ite (.bind (.commitFull h) (fun _ k => .emitEach k)) (.bind (P := Kept r) (.ok h) (fun _ k => .emitEach k))
  · exact .bind (P := Kept r) (.ok h) (fun _ k => .emitEach k)

theorem ResKept.stageGuard {segs : List Segment} : ResKept r (fun _ => True) (s.stageGuard segs) := by
  unfold State.stageGuard
  exact .ite .waitFor (.ok trivial)

theorem ResKept.writeAccess {flood : Bool} {a : Word} {segs : List Segment} {bs : List Byte} (h : Kept r s) :
    ResKept r (Kept r) (s.writeAccess flood a segs bs) := by
  unfold State.writeAccess
  exact .ite (.ok h.latch) (.bind .stageGuard (fun _ _ => .emitAll h))

theorem ResKept.loadAccess {x : Access} {a : Word} {n step : Nat} (h : Kept r s) :
    ResKept r (fun a => Kept r a.2) (s.loadAccess x a n step) := by
  unfold State.loadAccess
  dsimp only
  refine .bind (.resolve h) fun _ k => ?_
  refine .ite ?_ ?_
  · exact .bind (.performHeld k) (fun _ k2 => .ok k2.readAccess)
  · exact .bind (P := Kept r) (.ok k) (fun _ k2 => .ok k2.readAccess)

theorem ResKept.storeAccess {x : Access} {a : Word} {bs : List Byte} {step : Nat} (h : Kept r s) :
    ResKept r (Kept r) (s.storeAccess x a bs step) := by
  unfold State.storeAccess
  exact .bind (.resolve h) (fun _ k => .writeAccess k)

theorem Kept.finishSteps (h : Kept r s) : Kept r s.finishSteps := by
  unfold State.finishSteps
  exact h.setSlot.retire

theorem StopKept.keepSteps {i : Nat} {x : Stop} (h : Kept r t) (kx : StopKept r x) : StopKept r (t.keepSteps i x) := by
  unfold State.keepSteps
  split
  · exact .trap (.getD kx h)
  · exact .wait (.noteStep (.getD kx h))

/-! ### Gusts -/

theorem ResKept.ownerOf {a : Word} : ResKept r (fun _ => True) (s.ownerOf a) := by
  unfold State.ownerOf
  dsimp only
  split
  · exact .raiseAt
  · split
    · exact .raiseAt
    · exact .ite .raiseAt (.ok trivial)

theorem ResKept.sendGust {a : Word} {spawn : Bool} (h : Kept r s) : ResKept r (Kept r) (s.sendGust a spawn) := by
  unfold State.sendGust
  exact .bind .ownerOf (fun _ _ => .ite (.ok h.setReg.retire) (.bind (.commitPoint h) (fun _ k => .error (.wait k.fields))))

theorem Kept.leave (h : Kept r s) : Kept r s.leave := by
  unfold State.leave
  exact h.commit.count.endStrand

theorem Kept.answerGust {accepted spawn : Bool} (h : Kept r s) : Kept r (s.answerGust accepted spawn) := by
  unfold State.answerGust
  exact .ite h.setReg.retire (.ite h.setReg.retire (.ite h.setSlot h.leave))

theorem OutKept.execGust {a : Reg} (h : Kept r s) : OutKept r (execGust a s) := by
  unfold Machine.execGust
  exact .plain h (fun _ k => .ite (.bind .awaitSequencer (fun _ _ => .ok k.leave)) (.sendGust k))

theorem OutKept.execGspawn {a : Reg} (h : Kept r s) : OutKept r (execGspawn a s) := by
  unfold Machine.execGspawn
  exact .plain h (fun _ k => .sendGust k)

/-! ### Words of the Bezel -/

theorem ResKept.operandSpace : ResKept r (fun _ => True) s.operandSpace := by
  unfold State.operandSpace
  exact .ite (.ok trivial) .memAttr

theorem ResKept.readOperand {a : Word} {n : Nat} (h : Kept r s) : ResKept r (fun a => Kept r a.2) (s.readOperand a n) := by
  unfold State.readOperand
  exact .bind .operandSpace (fun _ _ => .loadAccess h)

theorem ResKept.tableArg {ok : Bool} {word low : Nat} : ResKept r (fun _ => True) (State.tableArg ok word low) := by
  unfold State.tableArg
  exact .ite (.ok trivial) .raiseAt

theorem Kept.withBezel {f : Bezel → Bezel} (h : Kept r s) : Kept r (s.withBezel f) := by
  unfold State.withBezel
  exact h.fields

theorem OutKept.execHashc {d a b : Reg} {m : BitVec 2} (h : Kept r s) : OutKept r (execHashc d a b m s) := by
  unfold Machine.execHashc
  exact .plainWhere h (fun _ k => .bind .ensure (fun _ _ => .bind .operandSpace (fun _ _ => .bind (.resolve k) (fun _ k2 => .bind
      (.resolve k2) (fun _ k3 => .ok k3.withBezel.engineIssued.setReg.retire)))))

theorem OutKept.execSignc {d a : Reg} {o : BitVec 2} (h : Kept r s) : OutKept r (execSignc d a o s) := by
  unfold Machine.execSignc
  exact .plainWhere h (fun _ k => .bind .operandSpace (fun _ _ => .bind (.loadAccess k) (fun _ k2 => .bind (.resolve k2) (fun _ k3
      => .bind (.resolve k3) (fun _ k4 => .bind (.resolve k4) (fun _ k5 => .ok k5.withBezel.engineIssued.setReg.retire))))))

theorem OutKept.execRndg {d : Reg} (h : Kept r s) : OutKept r (execRndg d s) := by
  unfold Machine.execRndg
  exact .plainWhere h (fun _ k => .ok k.draw.setReg.retire)

theorem OutKept.execMext {a b : Reg} {x : BitVec 1} {n : BitVec 3} (h : Kept r s) : OutKept r (execMext a b x n s) := by
  unfold Machine.execMext
  dsimp only
  refine .plainWhere h (fun _ k => .bind .needSupervisor fun _ _ => ?_)
  refine .ite ?_ ?_
  · exact .bind .tableArg (fun _ _ => .bind (.readOperand k) (fun _ k2 => .bind .tableArg (fun _ _ => .ok k2.withBezel.retire)))
  · exact .bind .operandSpace (fun _ _ => .bind (.storeAccess k) (fun _ k2 => .ok k2.retire))

theorem Kept.engineWrite {segs : List Segment} {bs : List Byte} (h : Kept r s) : Kept r (s.engineWrite segs bs) := by
  unfold State.engineWrite
  exact h.engineLay

theorem Kept.completeHash (h : Kept r s) : Kept r s.completeHash := by
  unfold State.completeHash
  dsimp only
  split
  · exact h
  · exact .engineDone (.withBezel (.ite h.readSegments.engineWrite h.readSegments))

theorem Kept.makeSignature {key : Nat} {m : List Byte} (h : Kept r s) : Kept r (s.makeSignature key m).2 := by
  unfold State.makeSignature
  exact .ite_snd h.fields h.fields

theorem Kept.completeSign (h : Kept r s) : Kept r s.completeSign := by
  unfold State.completeSign
  dsimp only
  split
  · exact h
  · refine .engineDone (.withBezel (.ite ?_ ?_))
    · exact h.readSegments.engineWrite
    · exact .ite h.readSegments.makeSignature.engineWrite.engineWrite h.readSegments.readSegments.engineWrite

/-! ### Saving and restoring for the micro-kernel -/

theorem Kept.writeRecord {x : FaultRecord} (h : Kept r s) : Kept r (s.writeRecord x) := by
  unfold State.writeRecord
  exact h.physStore.physStore.physStore

theorem Kept.postRecord {x : FaultRecord} (h : Kept r s) : Kept r (s.postRecord x).2 := by
  unfold State.postRecord
  exact .ite h.physStore.writeRecord h.physStore

theorem Kept.setReply {y : FaultRecord} {x : Nat} (h : Kept r s) : Kept r (s.setReply y x) := by
  unfold State.setReply
  exact h.physStore

theorem Kept.withdrawRecord {x : FaultRecord} (h : Kept r s) : Kept r (s.withdrawRecord x).2 := by
  unfold State.withdrawRecord
  dsimp only
  refine .ite_snd h.fields ?_
  split
  · exact h.setReply
  · exact h.setReply
  · exact h.setReply
  · exact h

theorem Kept.postRepeat {prev : Option FaultRecord} {x : FaultRecord} (h : Kept r s) : Kept r (s.postRepeat prev x).2 := by
  unfold State.postRepeat
  exact .ite_snd h.cancelJobFor h.postRecord

theorem Kept.engineRecord {prev : Option FaultRecord} {job : Option Nat} {c i : Nat} {q : Request} {cause : Cause} {va : Word}
    (h : Kept r s) :
    Kept r (s.engineRecord prev job c i q cause va).2 := by
  unfold State.engineRecord
  exact .ite_snd h h.postRepeat

theorem Kept.latchUnit {e : Engine} {l : Latched} (h : Kept r s) : Kept r (s.latchUnit e l) := by
  unfold State.latchUnit
  exact .ite h.latch h.latchCore

theorem Kept.transferDead {e : Engine} {a : Word} {key : Nat} (h : Kept r s) : Kept r (s.transferDead e a key) := by
  unfold State.transferDead
  exact h.latchUnit

theorem Kept.engineLoad {e : Engine} {space : Nat} {a : Word} {n : Nat} (h : Kept r s) : Kept r (s.engineLoad e space a n).2 := by
  unfold State.engineLoad
  dsimp only
  refine .ite_snd h.poisonRead ?_
  split
  next is => exact (h.translateRange.snd is).transferDead
  next is => exact .latchUnit ((h.translateRange.snd is).fields)
  next is2 => exact h.translateRange.snd is2
  next is =>
    split
    · exact (h.translateRange.snd is).askHome
    · exact ((h.translateRange.snd is).poisonRead).readSegments

theorem Kept.engineStore {e : Engine} {space : Nat} {a : Word} {bs : List Byte} (h : Kept r s) :
    Kept r (s.engineStore e space a bs).2 := by
  unfold State.engineStore
  refine .ite_snd h.store ?_
  split
  next is => exact h.translateRange.snd is
  next is => exact (h.translateRange.snd is).latchUnit
  next is2 => exact h.translateRange.snd is2
  next is =>
    refine .ite_snd ((h.translateRange.snd is).latchUnit) ?_
    split
    · exact (h.translateRange.snd is).askHome
    · exact (h.translateRange.snd is).engineLay

/-! ### Copy engines -/

theorem ResKept.claimCtx {n : Nat} (h : Kept r s) : ResKept r (Kept r) (s.claimCtx n) := by
  unfold State.claimCtx
  dsimp only
  split
  · exact .ite (.ok h) .raise
  · exact .ok h.setMe

theorem ResKept.endRange {space : Nat} {writes : Bool} {a : Word} {n : Nat} :
    ResKept r (fun _ => True) (s.endRange space writes a n) := by
  unfold State.endRange
  dsimp only
  refine .ite (.ite .raiseAt (.ite .raiseAt (.ok trivial))) ?_
  split
  · exact .raiseAt
  · exact .ok trivial

theorem ResKept.rowRanges {op dst src : Nat} {a : List Word} {wb : Word} {n i : Nat} (h : Kept r s) :
    ResKept r (fun _ => True) (s.rowRanges op dst src a wb n i) := by
  induction n generalizing s i with
  | zero =>
    unfold State.rowRanges
    exact .ok trivial
  | succ n ih =>
    unfold State.rowRanges
    exact .bind .endRange (fun _ _ => .bind .endRange (fun _ _ => ih h))

theorem ResKept.issueCopy {op : Nat} {d a b : Reg} {ctx src dst : Nat} (h : Kept r s) :
    ResKept r (Kept r) (s.issueCopy op d a b ctx src dst) := by
  unfold State.issueCopy
  dsimp only
  refine .bind .ensure fun _ _ => ?_
  refine .bind (.claimCtx h) fun _ k => ?_
  refine .bind .ensure fun _ _ => ?_
  refine .ite .raiseAt (.bind (.rowRanges h) fun _ _ => ?_)
  refine .ite ?_ ?_
  · exact .bind .endRange (fun _ _ => .ite .waitFor (.bind (.emit k.setMe) (fun _ k3 => .ok k3.engineIssued.setReg.retire)))
  · exact .ite .waitFor (.bind (.emit k.setMe) (fun _ k2 => .ok k2.engineIssued.setReg.retire))

theorem OutKept.execCpy {d a b : Reg} {c x e : BitVec 2} (h : Kept r s) : OutKept r (execCpy d a b c x e s) := by
  unfold Machine.execCpy
  exact .plainWhere h (fun _ k => .issueCopy k)

theorem OutKept.execCpy2d {d a b : Reg} {c x e : BitVec 2} (h : Kept r s) : OutKept r (execCpy2d d a b c x e s) := by
  unfold Machine.execCpy2d
  exact .plainWhere h (fun _ k => .issueCopy k)

theorem OutKept.execCpyn {d a b : Reg} {c x e : BitVec 2} (h : Kept r s) : OutKept r (execCpyn d a b c x e s) := by
  unfold Machine.execCpyn
  exact .plainWhere h (fun _ k => .issueCopy k)

theorem OutKept.execBatch {c : BitVec 2} (h : Kept r s) : OutKept r (execBatch c s) := by
  unfold Machine.execBatch
  exact .plainWhere h (fun _ k => .bind (.claimCtx k) (fun _ k2 => .ok k2.setMe.retire))

theorem Kept.beneath {shield segs : List Segment} {c : Nat} {old new : State} (knew : Kept r new) :
    Kept r (State.beneath shield segs c old new) := by
  unfold State.beneath
  exact .foldl (fun _ _ k => k.engineLay) knew

theorem Kept.transfer {d : CopyCmd} {shield : List Segment} {n done : Nat} {l : List Segment} (h : Kept r s) :
    Kept r (State.transfer d shield n done l s).2.2.2 := by
  induction n generalizing done l s with
  | zero =>
    unfold State.transfer
    exact h
  | succ n ih =>
    unfold State.transfer
    dsimp only
    split
    · exact h
    · split
      next is => exact h.engineLoad.snd is
      next is =>
        split
        next is2 => exact ((h.engineLoad.snd is).engineStore).snd is2
        next is2 => exact ih ((((h.engineLoad.snd is).engineStore).snd is2).beneath)

theorem Kept.setCopy {c ctx : Nat} {old new : CopyCmd} (h : Kept r s) : Kept r (s.setCopy c ctx old new) := by
  unfold State.setCopy
  exact h.setCore

theorem Kept.endCopy {c ctx : Nat} {d : CopyCmd} {done : Nat} {wrote : List Segment} (h : Kept r s) :
    Kept r (s.endCopy c ctx d done wrote) := by
  unfold State.endCopy
  exact h.setCopy.engineDone

theorem Kept.runCopy {c ctx : Nat} {d : CopyCmd} (h : Kept r s) : Kept r (s.runCopy c ctx d) := by
  unfold State.runCopy
  dsimp only
  split
  next is =>
    split
    next is2 => exact (((h.transfer.snd3 is).engineRecord).snd is2).setCopy
    next is2 => exact (((h.transfer.snd3 is).engineRecord).snd is2).endCopy
  next is2 => exact (h.transfer.snd3 is2).setCopy
  next is => exact .ite ((((h.transfer.snd3 is).store).beneath).endCopy) ((h.transfer.snd3 is).endCopy)

/-! ### Collectives -/

theorem OutKept.execColl {d a b : Reg} {c : BitVec 3} (h : Kept r s) : OutKept r (execColl d a b c s) := by
  unfold Machine.execColl
  dsimp only
  refine .plain h (fun _ k => .bind .ensure fun _ _ => ?_)
  split
  · exact .raise
  · exact .bind .ensure (fun _ _ => .bind .endRange (fun _ _ => .bind .endRange (fun _ _ => .ite .waitFor (.bind (.emit k.setU)
        (fun _ k2 => .ok k2.engineIssued.setReg.retire)))))

theorem Kept.setColl {d n : Nat} {old new : CollCmd} (h : Kept r s) : Kept r (s.setColl d n old new) := by
  unfold State.setColl
  exact h.setDie

theorem Kept.endColl {d n : Nat} {c : CollCmd} (h : Kept r s) : Kept r (s.endColl d n c) := by
  unfold State.endColl
  exact .engineDone (.ite h.setDie.setStrandAt h.setDie)

theorem Kept.pauseColl {d n : Nat} {c : CollCmd} {writes : Bool} {m : Miss × Word} (h : Kept r s) :
    Kept r (s.pauseColl d n c writes m) := by
  unfold State.pauseColl
  split
  · split
    next is => exact (h.engineRecord.snd is).setColl
    next is => exact (h.engineRecord.snd is).endColl
  · exact h

/-- Both states that a collective's sources give: that of a pause, and the one that goes on. -/
def CollKept (r : Origin) {α : Type} (x : Except State α × State) : Prop := (∀ t, x.1 = .error t → Kept r t) ∧ Kept r x.2

theorem CollKept.collSources {n len : Nat} {l : List (Option (Nat × CollCmd))} {other : List Byte} (h : Kept r s) :
    CollKept r (State.collSources n len l other s) := by
  induction l generalizing other s with
  | nil => exact ⟨fun _ is => (nomatch is), h⟩
  | cons y l ih =>
    cases y with
    | none =>
      have rest := ih (other := other.drop len) h
      unfold State.collSources
      split
      next is => exact ⟨fun _ failed => (nomatch failed), rest.2.snd is⟩
      · exact rest
    | some x =>
      unfold State.collSources
      split
      next is =>
        have read := h.engineLoad.snd is
        exact ⟨fun _ failed => .of_eq read.pauseColl (Except.error.inj failed), read⟩
      next is =>
        have rest := ih (other := other) (h.engineLoad.snd is)
        split
        next is => exact ⟨fun _ failed => (nomatch failed), rest.2.snd is⟩
        · exact rest

theorem Kept.collSources {n len : Nat} {l : List (Option (Nat × CollCmd))} {other : List Byte} (h : Kept r s) :
    Kept r (State.collSources n len l other s).2 := (CollKept.collSources h).2

theorem Kept.collReach_pause {n len : Nat} {l : List (Option (Nat × CollCmd))} (h : Kept r s) :
    OptKept (Kept r) (State.collReach n len l s).1 ∧ Kept r (State.collReach n len l s).2 := by
  induction l generalizing s with
  | nil => exact ⟨.none, h⟩
  | cons y l ih =>
    cases y with
    | none => exact ih h
    | some x =>
      unfold State.collReach
      split
      next is => exact ih (h.translateRange.snd is)
      next is => exact ⟨.some (h.translateRange.snd is).pauseColl, h.translateRange.snd is⟩
      next is =>
        have found := h.translateRange.snd is
        split
        · exact ⟨.some found.askHome, found⟩
        · exact ih found

theorem Kept.collReach {n len : Nat} {l : List (Option (Nat × CollCmd))} (h : Kept r s) :
    Kept r (State.collReach n len l s).2 := h.collReach_pause.2

theorem Kept.runColl {n : Nat} {x : CollCmd} {other : List Byte} {differ : Bool} (h : Kept r s) :
    Kept r (s.runColl n x other differ) := by
  unfold State.runColl
  split
  · exact h
  · dsimp only
    refine .ite h (.ite (Kept.foldl (fun _ _ k => k.latchUnit.endColl) h) ?_)
    split
    next is => exact (CollKept.collSources h).1 _ (congrArg Prod.fst is)
    next is =>
      have read := h.collSources.snd is
      split
      next is => exact read.collReach_pause.1 _ (congrArg Prod.fst is)
      next is =>
        have reached := read.collReach.snd is
        refine reached.ite (Kept.foldl (fun t p k => ?_) (reached.same rfl rfl))
        split
        · exact k
        · exact k.engineStore.endColl

theorem Kept.withdrawColls {c i : Nat} (h : Kept r s) : Kept r (s.withdrawColls c i) := by
  unfold State.withdrawColls
  exact .foldl (fun _ _ k => .foldl (fun _ _ k2 => k2.setDie.setStrandAt.engineDone) k) h

theorem Kept.reissueWithdrawn {c i : Nat} (h : Kept r s) : Kept r (s.reissueWithdrawn c i) := by
  unfold State.reissueWithdrawn
  exact .foldl (fun _ _ k => .foldl (fun _ _ k2 => k2.setDie.engineIssued) k.setStrandAt) h

/-! ### Fetching -/

theorem Kept.takePrefix {inOrder : Bool} {f : Prefix → Prefix} (h : Kept r s) : Kept r (s.takePrefix inOrder f) := by
  unfold State.takePrefix
  exact .ite h.trap h.setSlot.setPc

theorem Kept.wordFate {w : BitVec 32} (h : Kept r s) : Kept r (s.wordFate w) := by
  unfold State.wordFate
  dsimp only
  split
  · exact .ite h.retire h.trap
  · exact .ite h.trap h.trap

theorem Kept.fetchPastEnd (h : Kept r s) : Kept r s.fetchPastEnd := by
  unfold State.fetchPastEnd
  exact h.trap

theorem OutKept.execMod {u : BitVec 4} {p sp : BitVec 2} {sc c : BitVec 3} (h : Kept r s) : OutKept r (execMod u p sp sc c s) := by
  unfold Machine.execMod
  exact .next h.takePrefix

theorem OutKept.execExt {e : BitVec 26} (h : Kept r s) : OutKept r (execExt e s) := by
  unfold Machine.execExt
  exact .next h.takePrefix

theorem OutKept.execNotAnInstructionWord {w : BitVec 32} (h : Kept r s) : OutKept r (execNotAnInstructionWord w s) := by
  unfold Machine.execNotAnInstructionWord
  exact .next h.wordFate

end

end Sys2Proof.Machine
end

section
/-!
PROOFS. Matrix words, registers between strands, tables and contexts: each operation keeps what `Kept` says.
-/

namespace Sys2Proof.Machine

section
variable {r : Origin} {s t u : State}

/-! ### Matrix words -/

theorem Kept.storeTile {cell : Nat} {f : Nat → Nat → Nat} (h : Kept r s) : Kept r (s.storeTile cell f) := by
  unfold State.storeTile
  exact h.store

theorem Kept.setOwner {c : Nat} {pair : Bool} {owner : Option (Nat × Option Nat)} {job : Option (Option Nat)} (h : Kept r s) :
    Kept r (s.setOwner c pair owner job) := by
  unfold State.setOwner
  exact .ite h.setCore.setCore h.setCore

theorem ResKept.checkOwner : ResKept r (fun _ => True) s.checkOwner := by
  unfold State.checkOwner
  refine .ite .waitFor (.ite .raise ?_)
  split
  · exact .ok trivial
  · exact .ite (.ok trivial) (.ite .waitFor (.ite (.ok trivial) .raise))

theorem Kept.zeroMatrix {c : Nat} (h : Kept r s) : Kept r (s.zeroMatrix c) := by
  unfold State.zeroMatrix
  exact h.wipe.wipe.wipe.wipe.wipe.wipe.setCore

theorem Kept.parkOwner {c : Nat} (h : Kept r s) : Kept r (s.parkOwner c) := by
  unfold State.parkOwner
  dsimp only
  split
  · exact h
  · exact .setOwner (.ite h.setStrandAt h)

theorem Kept.unparkMatrix {c i : Nat} (h : Kept r s) : Kept r (s.unparkMatrix c i) := by
  unfold State.unparkMatrix
  dsimp only
  split
  · exact h
  · exact .setOwner (.setCore (h.zeroMatrix.setStrandAt.puts rfl rfl))

theorem ResKept.claimFree (h : Kept r s) : ResKept r (Kept r) s.claimFree := by
  unfold State.claimFree
  exact .ite (.ok h.unparkMatrix) (.ite (.ok h.setOwner) (.ite .waitFor (.error (.wait h.setOwner.setMe.zeroMatrix))))

theorem ResKept.claimMatrix (h : Kept r s) : ResKept r (Kept r) s.claimMatrix := by
  unfold State.claimMatrix
  dsimp only
  split
  · exact .claimFree (.ite h.parkOwner h)
  · exact .ite .waitFor (.ite (.ok (.ite h.parkOwner h)) (.ite (.claimFree (.parkOwner (.ite h.parkOwner h))) .waitFor))

theorem ResKept.needQueue : ResKept r (fun _ => True) s.needQueue := by
  unfold State.needQueue
  exact .ite (.ok trivial) .waitFor

theorem Kept.enqueueOp {op : MatrixOp} (h : Kept r s) : Kept r (s.enqueueOp op) := by
  unfold State.enqueueOp
  exact h.setMe.setSlot

theorem ResKept.needWritten {mask : Nat} : ResKept r (fun _ => True) (s.needWritten mask) := by
  unfold State.needWritten
  exact .ite .waitFor (.ok trivial)

theorem ResKept.needHalf {n : Nat} : ResKept r (fun _ => True) (s.needHalf n) := by
  unfold State.needHalf
  exact .ite .waitFor (.ok trivial)

theorem ResKept.needWeights {off n : Nat} : ResKept r (fun _ => True) (s.needWeights off n) := by
  unfold State.needWeights
  exact .ite .waitFor (.ok trivial)

theorem ResKept.matrixChecks {gang blocking : Bool} {operands : Res Unit} (h : Kept r s) (koperands : ResKept r (fun _ => True)
    operands) :
    ResKept r (Kept r) (s.matrixChecks gang blocking operands) := by
  unfold State.matrixChecks
  exact .bind .ensure (fun _ _ => .bind .needIdleSequencer (fun _ _ => .bind .checkOwner (fun _ _ => .bind .ensure (fun _ _ =>
      .bind koperands (fun _ _ => .bind (.claimMatrix h) (fun _ k => .ite (.error (.wait k)) (.ok k)))))))

theorem OutKept.matrixWord {gang blocking : Bool} {operands : State → Res Unit} {k : State → Res State} (h : Kept r s)
    (koperands : ∀ (s : State), Kept r s → ResKept r (fun _ => True) (operands s)) (kk : ∀ (s : State), Kept r s → ResKept r
    (Kept r) (k s)) :
    OutKept r (s.matrixWord gang blocking operands k) := by
  unfold State.matrixWord
  refine .plainWhere h (fun _ k2 => .bind (.matrixChecks k2 (koperands _ k2)) fun _ k3 => ?_)
  split
  next is => exact .ok ((kk _ k3).of_ok is)
  next is => exact .error (.wait (.getD ((kk _ k3).of_error is) k3))
  next is => exact .error (.trap (.getD ((kk _ k3).of_error is) k3))

theorem ResKept.matOperand {ok : Bool} {operand : Nat} : ResKept r (fun _ => True) (State.matOperand ok operand) := by
  unfold State.matOperand
  exact .ite (.ok trivial) .raiseAt

theorem Kept.holdRow {c : Nat} {x : Option (Nat × Nat)} (h : Kept r s) : Kept r (s.holdRow c x) := by
  unfold State.holdRow
  exact .foldl (fun _ _ k => k.setCore) h

theorem Kept.joinSession (h : Kept r s) : Kept r s.joinSession := by
  unfold State.joinSession
  exact h.setU.retire

theorem OutKept.execMgang {e : BitVec 1} (h : Kept r s) : OutKept r (execMgang e s) := by
  unfold Machine.execMgang
  dsimp only
  refine .matrixWord h (fun _ _ => .ensure) (fun _ k => .ite ?_ ?_)
  · exact .ite (.ok (.joinSession (.foldl (fun _ _ k2 => .as (fun _ => .joinSession (.refl ..)) k2) k.holdRow))) .waitFor
  · exact .ite .waitFor (.ok (.ite k.setU.finishSteps k.setU.finishSteps.holdRow))

theorem OutKept.execMwait {m : BitVec 8} (h : Kept r s) : OutKept r (execMwait m s) := by
  unfold Machine.execMwait
  exact .matrixWord h (fun _ _ => .ok trivial) (fun _ k => .ite .waitFor (.ok k.retire))

theorem OutKept.execMzero {p : BitVec 1} {m : BitVec 8} (h : Kept r s) : OutKept r (execMzero p m s) := by
  unfold Machine.execMzero
  dsimp only
  refine .matrixWord h (fun _ _ => .ok trivial) (fun _ k => .bind .needQueue fun _ _ => ?_)
  refine .ite ?_ ?_
  · exact .ok (.retire (.enqueueOp (.foldl (fun _ _ k2 => k2.wipe) k)))
  · exact .ok (.retire (.enqueueOp (.foldl (fun _ _ k2 => k2.wipe.setCore) k)))

theorem OutKept.execMmov {v a : Reg} {p d x : BitVec 1} {y : BitVec 5} (h : Kept r s) : OutKept r (execMmov v a p d x y s) := by
  unfold Machine.execMmov
  dsimp only
  refine .matrixWord h (fun _ _ => .ensure) (fun _ k => .ite ?_ ?_)
  · exact .bind .needWritten (fun _ _ => .ok k.wakeBanks.setLanes.retire)
  · exact .bind .needQueue (fun _ _ => .ok (.retire (.enqueueOp (.ite (.setMe (.foldl (fun _ _ k2 => k2.storeNum) k.wakeBanks))
        (.foldl (fun _ _ k2 => k2.storeNum) k.wakeBanks)))))

theorem Kept.nextTlm (h : Kept r s) : Kept r s.nextTlm.2 := by
  unfold State.nextTlm
  exact h.setMe

theorem Kept.resumeIssue {done : Nat} (h : Kept r s) : Kept r (s.resumeIssue done) := by
  unfold State.resumeIssue
  exact .ite h h.setU

theorem ResKept.resolveSteps {run : Nat → Nat → State → Res ((List Segment × List Segment) × State)} {gang n k : Nat} (krun : ∀
    (k step : Nat) (s : State), Kept r s → ResKept r (fun a => Kept r a.2) (run k step s)) (h : Kept r s) :
    ResKept r (Kept r) (State.resolveSteps run gang n k s) := by
  induction n generalizing k s with
  | zero =>
    unfold State.resolveSteps
    exact .ok h
  | succ n ih =>
    unfold State.resolveSteps
    dsimp only
    split
    next is => exact .error (.keepSteps h ((krun _ _ _ h).of_error is))
    next is => exact ih (((krun _ _ _ h).of_ok is).setU)

theorem ResKept.resolveRow {x : Access} {a stride base : Word} {rb nb nr first n step : Nat} (h : Kept r s) :
    ResKept r (fun a => Kept r a.2) (State.resolveRow x a stride base rb nb nr first n step s) := by
  unfold State.resolveRow
  dsimp only
  refine .ite ?_ ?_
  · refine .ok ?_
    exact h
  · refine .ite ?_ ?_
    · refine .bind (.resolve h) fun _ k => ?_
      refine .bind (.resolve k) fun _ k2 => ?_
      refine .ok ?_
      exact k2
    · refine .bind (.resolve h) fun _ k => ?_
      refine .bind (.resolve k) fun _ k2 => ?_
      refine .ok ?_
      exact k2

theorem ResKept.localFirst {x : Access} {runs : List (Word × Nat)} : ResKept r (fun _ => True) (s.localFirst x runs) := by
  unfold State.localFirst
  dsimp only
  refine .ite (.ok trivial) ?_
  split
  · exact .error .trap_none
  · exact .ok trivial

theorem Kept.shareRows {c half clasp first : Nat} {rows : List (List Segment × List Segment)} (h : Kept r s) :
    Kept r (s.shareRows c half clasp first rows) := by
  unfold State.shareRows
  exact h.setCore

theorem ResKept.issueRows {a b : Reg} {g l : BitVec 1} {n : Nat} (h : Kept r s) : ResKept r (Kept r) (s.issueRows a b g l n) := by
  unfold State.issueRows
  exact .resolveSteps (fun _ _ _ k => .resolveRow k) h.resumeIssue

theorem ResKept.rowRange {a b : Reg} {g l : BitVec 1} : ResKept r (fun _ => True) (s.rowRange a b g l) := by
  unfold State.rowRange
  exact .ite (.ok trivial) .localFirst

theorem OutKept.execMlda {d a b : Reg} {g x l : BitVec 1} (h : Kept r s) : OutKept r (execMlda d a b g x l s) := by
  unfold Machine.execMlda
  dsimp only
  refine .matrixWord h (fun _ _ => .bind .matOperand (fun _ _ => .rowRange)) (fun _ k => ?_)
  refine .bind (.commitPoint k) fun _ k2 => ?_
  refine .bind (.issueRows k2) fun _ k3 => ?_
  refine .ite ?_ ?_
  · exact .ok k3.setU.nextTlm.setReg.engineIssued.setMe.finishSteps
  · exact .ok (.finishSteps (.setMe (.foldl (fun _ _ k4 => k4.shareRows) k3.setU.nextTlm.setReg.engineIssued)))

theorem ResKept.resolvePiece {x : Access} {a : Word} {n step : Nat} (h : Kept r s) :
    ResKept r (fun a => Kept r a.2) (State.resolvePiece x a n step s) := by
  unfold State.resolvePiece
  dsimp only
  refine .bind (.resolve h) fun _ k => ?_
  refine .ok ?_
  exact k

theorem ResKept.issuePieces {a b : Reg} {l : BitVec 1} {n : Nat} (h : Kept r s) : ResKept r (Kept r) (s.issuePieces a b l n) := by
  unfold State.issuePieces
  exact .resolveSteps (fun _ _ _ k => .resolvePiece k) h.resumeIssue

theorem ResKept.pieceRange {a b : Reg} {l : BitVec 1} : ResKept r (fun _ => True) (s.pieceRange a b l) := by
  unfold State.pieceRange
  exact .ite (.ok trivial) .localFirst

theorem ResKept.mldbOperands {a w : Word} : ResKept r (fun _ => True) (State.mldbOperands a w) := by
  unfold State.mldbOperands
  exact .bind .matOperand (fun _ _ => .bind .matOperand (fun _ _ => .ite (.ok trivial) .raiseAt))

theorem OutKept.execMldb {d a b : Reg} {l : BitVec 1} (h : Kept r s) : OutKept r (execMldb d a b l s) := by
  unfold Machine.execMldb
  exact .matrixWord h (fun _ _ => .bind .mldbOperands (fun _ _ => .pieceRange)) (fun _ k => .bind (.commitPoint k) (fun _ k2 =>
      .bind (.issuePieces k2) (fun _ k3 => .ok k3.setU.nextTlm.setReg.engineIssued.setMe.finishSteps)))

theorem ResKept.storeRows {x : Access} {p : Bool} {n : Nat} {a : Word} {stride nc k row : Nat} (h : Kept r s) :
    ResKept r (Kept r) (s.storeRows x p n a stride nc k row) := by
  induction k generalizing s row with
  | zero =>
    unfold State.storeRows
    exact .ok h
  | succ k ih =>
    unfold State.storeRows
    dsimp only
    split
    next is => exact ih ((ResKept.storeAccess h).of_ok is)
    next is => exact .error (.keepSteps h ((ResKept.storeAccess h).of_error is))

theorem ResKept.issueStores {d a b : Reg} {p l : BitVec 1} {n : Nat} (h : Kept r s) :
    ResKept r (Kept r) (s.issueStores d a b p l n) := by
  unfold State.issueStores
  exact .storeRows h

theorem ResKept.storeRange {a b : Reg} {l : BitVec 1} : ResKept r (fun _ => True) (s.storeRange a b l) := by
  unfold State.storeRange
  exact .ite (.ok trivial) .localFirst

theorem OutKept.execMstd {d a b : Reg} {p l : BitVec 1} (h : Kept r s) : OutKept r (execMstd d a b p l s) := by
  unfold Machine.execMstd
  dsimp only
  refine .matrixWord h (fun _ _ => ?_) (fun _ k => .bind .needWritten (fun _ _ => .bind (.issueStores k) (fun _ k2 => .ok
      k2.finishSteps)))
  refine .bind .matOperand fun _ _ => ?_
  refine .ite ?_ ?_
  · exact .bind (P := fun _ => True) (.ok trivial) (fun _ _ => .storeRange)
  · exact .bind (P := fun _ => True) .raiseAt (fun _ _ => .storeRange)

theorem Kept.partly {n : Nat} {x : Res State} (h : Kept r s) (kx : ResKept r (Kept r) x) : Kept r (s.partly n x) := by
  unfold State.partly
  dsimp only
  split
  · exact kx.setSlot
  · exact h

theorem Kept.stepPartly {n : Nat} (h : Kept r s) : Kept r (s.stepPartly n) := by
  unfold State.stepPartly
  dsimp only
  refine .ite h ?_
  split
  · exact h.partly (.issueRows h)
  · split
    · exact h.partly (.issuePieces h)
    · exact h
  · exact .ite (h.partly (.bind .needWritten (fun _ _ => .issueStores h))) h
  · exact h

theorem ResKept.product {half off n steps : Nat} {op : MatrixOp} {effect : State → State} (h : Kept r s) (keffect : ∀ (s :
    State), Kept r s → Kept r (effect s)) :
    ResKept r (Kept r) (product s half off n steps op effect) := by
  unfold Machine.product
  exact .bind .needQueue (fun _ _ => .bind .needHalf (fun _ _ => .bind .needWeights (fun _ _ => .ok ((((keffect _
      h).enqueueOp).count).finishSteps))))

theorem ResKept.productOperands {w : Word} {z : Bool} {group limit bw : Nat} :
    ResKept r (fun _ => True) (productOperands w z group limit bw) := by
  unfold Machine.productOperands
  exact .bind .matOperand (fun _ _ => .matOperand)

theorem Kept.mmaEffect {c acc n off k : Nat} {z : Bool} {f : Nat} (h : Kept r s) : Kept r (s.mmaEffect c acc n off k z f) := by
  unfold State.mmaEffect
  exact .ite h.storeTile h.storeTile

theorem Kept.mcbEffect {c acc n off k : Nat} {z : Bool} {slot : Nat} (h : Kept r s) :
    Kept r (s.mcbEffect c acc n off k z slot) := by
  unfold State.mcbEffect
  exact h.storeTile

theorem OutKept.execMma {d a : Reg} {g x z : BitVec 1} {f : BitVec 3} (h : Kept r s) : OutKept r (execMma d a g x z f s) := by
  unfold Machine.execMma
  exact .matrixWord h (fun _ _ => .productOperands) (fun _ k => .product k (fun _ k2 => k2.mmaEffect))

theorem OutKept.execMcb {d a : Reg} {g x z : BitVec 1} {slot : BitVec 3} (h : Kept r s) : OutKept r (execMcb d a g x z slot s) := by
  unfold Machine.execMcb
  exact .matrixWord h (fun _ _ => .productOperands) (fun _ k => .product k (fun _ k2 => k2.mcbEffect))

theorem Kept.mmxBlock {c n a0 off b fmt p : Nat} {z : Bool} (h : Kept r s) : Kept r (s.mmxBlock c n a0 off b fmt p z) := by
  unfold State.mmxBlock
  exact .setCore (.ite h.storeTile.storeTile h.storeTile)

theorem Kept.mscaBlock {c acc n a0 soff b fmt p : Nat} (h : Kept r s) : Kept r (s.mscaBlock c acc n a0 soff b fmt p) := by
  unfold State.mscaBlock
  exact h.storeTile

theorem OutKept.execMmx {a : Reg} {g x : BitVec 1} {f p : BitVec 3} (h : Kept r s) : OutKept r (execMmx a g x f p s) := by
  unfold Machine.execMmx
  exact .matrixWord h (fun _ _ => .bind .matOperand (fun _ _ => .matOperand)) (fun _ k => .product k (fun _ k2 => .foldl (fun _ _
      k3 => k3.mmxBlock) k2))

theorem OutKept.execMsca {d a : Reg} {g x : BitVec 1} {f p : BitVec 3} (h : Kept r s) : OutKept r (execMsca d a g x f p s) := by
  unfold Machine.execMsca
  exact .matrixWord h (fun _ _ => .bind .matOperand (fun _ _ => .bind .matOperand (fun _ _ => .matOperand))) (fun _ k => .product
      k (fun _ k2 => .foldl (fun _ _ k3 => k3.mscaBlock) k2))

theorem Kept.stageRead {c : Nat} {slot : Option (Nat × Nat)} {segs : List Segment} (h : Kept r s) :
    Kept r (s.stageRead c slot segs).2 := by
  unfold State.stageRead
  dsimp only
  refine .foldl_snd (fun _ _ k => ?_) ?_
  · refine .ite_snd ?_ k.readSegments
    split
    · exact k.latch
    · exact k.latchCore
  · exact h

theorem Kept.tlmComplete {c : Nat} {ticket : Word} (h : Kept r s) : Kept r (s.tlmComplete c ticket) := by
  unfold State.tlmComplete
  exact h.setCore

theorem Kept.readRow {c : Nat} {unit : Option Nat} {x : List Segment × List Segment} (h : Kept r s) :
    Kept r (s.readRow c unit x).2 := by
  unfold State.readRow
  exact h.stageRead.stageRead

theorem Kept.readRows {by_ : Nat → Nat × Option Nat} {i : Nat} {l : List (Option (List Segment × List Segment))} (h : Kept r s) :
    Kept r (s.readRows by_ i l).2 := by
  induction l generalizing s by_ i with
  | nil =>
    unfold State.readRows
    exact h
  | cons y l ih =>
    unfold State.readRows
    exact ih h.readRow

theorem Kept.layRows {c : Nat} {t : DataStage} {bytes : List (List Byte × List Byte)} (h : Kept r s) :
    Kept r (s.layRows c t bytes) := by
  unfold State.layRows
  dsimp only
  split
  · exact .foldl (fun _ _ k => k.store.store) h
  · exact h.store

theorem Kept.endStage {c : Nat} {t : DataStage} {bytes : List (List Byte × List Byte)} (h : Kept r s) :
    Kept r (s.endStage c t bytes) := by
  unfold State.endStage
  exact h.layRows.setCore.tlmComplete.engineDone

theorem Kept.completeStage {c : Nat} {t : DataStage} (h : Kept r s) : Kept r (s.completeStage c t) := by
  unfold State.completeStage
  exact h.readRows.endStage

/-! ### Link registers -/

theorem Kept.sendLanding {push : Bool} {c i n : Nat} {v : Word} {report : Option Reg} (h : Kept r s) :
    Kept r (s.sendLanding push c i n v report) := by
  unfold State.sendLanding
  exact h.fields

theorem ResKept.acceptLink {c i n : Nat} {v : Word} (h : Kept r s) : ResKept r (Kept r) (s.acceptLink c i n v) := by
  unfold State.acceptLink
  exact .ite (.bind (.emit h.reserveLink) (fun _ k => .ok k.retire)) (.error (.wait h.reserveLink.sendLanding))

theorem Kept.setLink {n : Nat} {f : Link → Link} (h : Kept r s) : Kept r (s.setLink n f) := by
  unfold State.setLink
  exact h.setU

theorem OutKept.execNput {a : Reg} {n : BitVec 3} {o : BitVec 6} (h : Kept r s) : OutKept r (execNput a n o s) := by
  unfold Machine.execNput
  dsimp only
  refine .plain h (fun _ k => .bind .needResident fun _ _ => ?_)
  split
  · exact .raiseAt
  · exact .waitFor
  · exact .waitFor
  · exact .ite (.acceptLink k) .waitFor

theorem OutKept.execNget {d : Reg} {n : BitVec 3} (h : Kept r s) : OutKept r (execNget d n s) := by
  unfold Machine.execNget
  exact .plain h (fun _ k => .bind .needResident (fun _ _ => .bind (.commitPoint k) (fun _ k2 => .ite (.ok
      k2.setReg.setLink.retire) (.error (.wait k2)))))

theorem OutKept.execNtry {d : Reg} {n : BitVec 3} (h : Kept r s) : OutKept r (execNtry d n s) := by
  unfold Machine.execNtry
  exact .plain h (fun _ k => .bind (.commitPoint k) (fun _ k2 => .ite (.ok k2.setReg.retire) (.ite (.ok k2.setPair.setLink.retire)
      (.ok k2.setReg.retire))))

theorem OutKept.execNtryPut {d a : Reg} {n : BitVec 3} {o : BitVec 6} (h : Kept r s) : OutKept r (execNtryPut d a n o s) := by
  unfold Machine.execNtryPut
  dsimp only
  refine .plain h (fun _ k => .bind (.commitPoint k) fun _ k2 => ?_)
  split
  · exact .ok k2.setPair.retire
  · exact .ite (.error (.wait k2.reserveLink.sendLanding)) (.ok k2.setPair.retire)
  · exact .ok k2.setPair.retire

theorem OutKept.execNclr {n : BitVec 3} (h : Kept r s) : OutKept r (execNclr n s) := by
  unfold Machine.execNclr
  exact .plain h (fun _ k => .ite (.ok k.retire) (.bind (.commitPoint k) (fun _ k2 => .ok k2.setLink.retire)))

/-! ### Queue registers -/

theorem Kept.setItems {n : Nat} {xs : List Word} (h : Kept r s) : Kept r (s.setItems n xs) := by
  unfold State.setItems
  exact h.setU

theorem ResKept.acceptPush {c i n : Nat} {v : Word} {report : Option Reg} (h : Kept r s) :
    ResKept r (Kept r) (s.acceptPush c i n v report) := by
  unfold State.acceptPush
  dsimp only
  refine .ite (.bind (.emit h.reserveQueue) fun _ k => ?_) (.error (.wait h.reserveQueue.sendLanding))
  refine .ok (.retire ?_)
  split
  · exact k.setPair
  · exact k

theorem ResKept.needQueuePrivilege {n : Nat} : ResKept r (fun _ => True) (s.needQueuePrivilege n) := by
  unfold State.needQueuePrivilege
  exact .ensure

theorem Kept.takeUnbound {q : Nat} (h : Kept r s) : OptKept (fun a => Kept r a.2) (s.takeUnbound q) := by
  unfold State.takeUnbound
  dsimp only
  split
  · exact .none
  · refine .some ?_
    exact h.setMe.count

theorem OutKept.execQpush {a : Reg} {n : BitVec 3} {o : BitVec 6} (h : Kept r s) : OutKept r (execQpush a n o s) := by
  unfold Machine.execQpush
  dsimp only
  refine .plain h (fun _ k => .bind .needResident fun _ _ => ?_)
  split
  · exact .raiseAt
  · exact .waitFor
  · exact .waitFor
  · exact .ite (.acceptPush k) .waitFor

theorem OutKept.execQpop {d : Reg} {n : BitVec 3} (h : Kept r s) : OutKept r (execQpop d n s) := by
  unfold Machine.execQpop
  refine .plain h (fun _ k => .bind .needResident fun _ _ => ?_)
  refine .bind (.commitPoint k) fun _ k2 => ?_
  split
  · exact .error (.wait k2)
  · exact .ok k2.setItems.setReg.retire

theorem OutKept.execQpopAq {d : Reg} {n : BitVec 2} (h : Kept r s) : OutKept r (execQpopAq d n s) := by
  unfold Machine.execQpopAq
  refine .plain h (fun _ k => .bind .needQueuePrivilege fun _ _ => ?_)
  refine .bind .needResident fun _ _ => ?_
  refine .bind (.commitPoint k) fun _ k2 => ?_
  split
  · exact .error (.wait k2)
  next is => exact .ok (((k2.takeUnbound.of_some is).setReg).retire)

theorem OutKept.execQtry {d : Reg} {n : BitVec 3} (h : Kept r s) : OutKept r (execQtry d n s) := by
  unfold Machine.execQtry
  refine .plain h (fun _ k => .ite (.ok k.setPair.retire) (.bind (.commitPoint k) fun _ k2 => ?_))
  split
  · exact .ok k2.setPair.retire
  · exact .ok k2.setItems.setPair.retire

theorem OutKept.execQtryAq {d : Reg} {n : BitVec 2} (h : Kept r s) : OutKept r (execQtryAq d n s) := by
  unfold Machine.execQtryAq
  refine .plain h (fun _ k => .bind .needQueuePrivilege fun _ _ => ?_)
  refine .ite (.ok k.setPair.retire) (.bind (.commitPoint k) fun _ k2 => ?_)
  split
  · exact .ok k2.setPair.retire
  next is => exact .ok (((k2.takeUnbound.of_some is).setPair).retire)

theorem OutKept.execQputt {d a : Reg} {n : BitVec 3} {o : BitVec 6} (h : Kept r s) : OutKept r (execQputt d a n o s) := by
  unfold Machine.execQputt
  dsimp only
  refine .plain h (fun _ k => .ite (.ok k.setPair.retire) ?_)
  split
  · exact .ok k.setPair.retire
  · exact .ite (.acceptPush k) (.ok k.setPair.retire)
  · exact .ok k.setPair.retire

theorem OutKept.execQdepth {d : Reg} {n : BitVec 3} (h : Kept r s) : OutKept r (execQdepth d n s) := by
  unfold Machine.execQdepth
  exact .plain h (fun _ k => .ok k.setReg.retire)

theorem OutKept.execQdepthAq {d : Reg} {n : BitVec 2} (h : Kept r s) : OutKept r (execQdepthAq d n s) := by
  unfold Machine.execQdepthAq
  exact .plain h (fun _ k => .bind .needQueuePrivilege (fun _ _ => .ok k.setReg.retire))

/-! ### Messages -/

theorem ResKept.sendWaits {w : Wait} (h : Kept r s) : ResKept r (Kept r) (s.sendWaits w) := by
  unfold State.sendWaits
  exact .error (.wait h.setU)

theorem ResKept.messageChecks {a : Reg} {w : Word} : ResKept r (fun _ => True) (s.messageChecks a w) := by
  unfold State.messageChecks
  exact .bind .ensure (fun _ _ => .ite (.ok trivial) .raiseAt)

theorem Kept.mailboxBusy {j : Job} {n : Nat} (h : Kept r s) : OptKept (fun a => Kept r a.2) (s.mailboxBusy j n) := by
  unfold State.mailboxBusy
  dsimp only
  split
  next a _ is =>
    refine .some (OptKept.of_some (P := fun a => Kept r a.2) ?_ is)
    split
    next is2 =>
      refine .some ?_
      exact h.jobStore.snd is2
    · exact .none
  · split
    next is2 =>
      refine .some ?_
      exact h.jobStore.snd is2
    · exact .none

theorem Kept.mailboxState {n : Nat} (h : Kept r s) : Kept r (s.mailboxState n).2 := by
  unfold State.mailboxState
  split
  · exact h
  · split
    next is =>
      refine .ite_snd ?_ (h.jobLoad.snd is)
      split
      next is2 => exact ((h.jobLoad.snd is).mailboxBusy).of_some is2
      · exact h.jobLoad.snd is
    next is => exact h.jobLoad.snd is

theorem Kept.mailboxFault {write : Bool} {m : Miss × Word} (h : Kept r s) : Kept r (s.mailboxFault write m) := by
  unfold State.mailboxFault
  exact h.latch

theorem ResKept.sendTo {a : Reg} {w : Word} {e : Endpoint} (h : Kept r s) : ResKept r (Kept r) (s.sendTo a w e) := by
  unfold State.sendTo
  dsimp only
  split
  · exact .bind (.emit h) (fun _ k => .ok k.count)
  · exact .bind (.emit h) (fun _ k => .ok k.count)
  · exact .bind (.emit h) (fun _ k => .ok k.count)
  · exact .bind (P := Kept r) (.ok h) (fun _ k => .ok k.count)

theorem Kept.spanAccepts (h : Kept r s) : Kept r s.spanAccepts.2 := by
  unfold State.spanAccepts
  exact .ite_snd h.draw h

theorem OutKept.execSend {a b : Reg} (h : Kept r s) : OutKept r (execSend a b s) := by
  unfold Machine.execSend
  dsimp only
  refine .plain h (fun _ k => .bind .needResident fun _ _ => ?_)
  refine .bind .messageChecks fun _ _ => ?_
  split
  · exact .ok k.retire
  · exact .ite (.bind (.sendTo k) (fun _ k2 => .ok k2.retire)) (.sendWaits k)
  · exact .sendWaits k
  · refine .ite (.sendWaits k) ?_
    split
    next is => exact .bind (.sendTo (k.spanAccepts.snd is)) (fun _ k2 => .ok k2.retire)
    next is => exact .sendWaits (k.spanAccepts.snd is)
    next is3 => exact .ok ((k.spanAccepts.snd is3).retire)
  · split
    next is => exact .bind (.sendTo (k.mailboxState.snd is)) (fun _ k2 => .ok k2.retire)
    next is => exact .sendWaits (k.mailboxState.snd is)
    next is => exact .sendWaits (k.mailboxState.snd is)
    next is2 => exact .ok (((k.mailboxState.snd is2).mailboxFault).retire)

theorem OutKept.execSendt {d a b : Reg} (h : Kept r s) : OutKept r (execSendt d a b s) := by
  unfold Machine.execSendt
  dsimp only
  refine .plain h (fun _ k => .bind .messageChecks fun _ _ => ?_)
  split
  · exact .ok k.setPair.retire
  · exact .ok k.setPair.retire
  · exact .ite (.bind (.sendTo k) (fun _ k2 => .ok k2.setPair.retire)) (.ok k.setPair.retire)
  · split
    next is => exact .bind (.sendTo (k.spanAccepts.snd is)) (fun _ k2 => .ok k2.setPair.retire)
    next is2 => exact .ok (((k.spanAccepts.snd is2).setPair).retire)
  · split
    next is => exact .bind (.sendTo (k.mailboxState.snd is)) (fun _ k2 => .ok k2.setPair.retire)
    next is => exact .ok (((k.mailboxState.snd is).setPair).retire)
    next is => exact .error (.wait (k.mailboxState.snd is))
    next is2 => exact .ok ((((k.mailboxState.snd is2).mailboxFault).setPair).retire)

theorem Kept.deliverMessage {d : Reg} {m : Msg} (h : Kept r s) : Kept r (s.deliverMessage d m) := by
  unfold State.deliverMessage
  exact .foldl (fun _ _ k => k.setReg) h.setReg

theorem OutKept.execRecv {d : Reg} {n : BitVec 2} (h : Kept r s) : OutKept r (execRecv d n s) := by
  unfold Machine.execRecv
  refine .plain h (fun _ k => .bind .needQueuePrivilege fun _ _ => ?_)
  refine .bind .needResident fun _ _ => ?_
  refine .bind (.commitPoint k) fun _ k2 => ?_
  split
  · exact .error (.wait k2)
  next is => exact .ok (((k2.takeUnbound.of_some is).deliverMessage).retire)

theorem OutKept.execRecvt {d : Reg} {n : BitVec 2} (h : Kept r s) : OutKept r (execRecvt d n s) := by
  unfold Machine.execRecvt
  refine .plain h (fun _ k => .bind .needQueuePrivilege fun _ _ => ?_)
  refine .bind (.commitPoint k) fun _ k2 => ?_
  refine .ite (.ok k2.setReg.retire) ?_
  split
  · exact .ok k2.setReg.retire
  next is => exact .ok ((((k2.takeUnbound.of_some is).deliverMessage).setReg).retire)

theorem OutKept.execHret (h : Kept r s) : OutKept r (execHret s) := by
  unfold Machine.execHret
  exact .plain h (fun _ k => .bind .ensure (fun _ _ => .bind .awaitSequencer (fun _ _ => .ok k.commit.count.endStrand)))

/-! ### Tables -/

theorem OutKept.execCbload {a : Reg} {n : BitVec 3} (h : Kept r s) : OutKept r (execCbload a n s) := by
  unfold Machine.execCbload
  exact .plainWhere h (fun _ k => .bind .ensure (fun _ _ => .bind .checkOwner (fun _ _ => .bind .operandSpace (fun _ _ => .bind
      .aligned (fun _ _ => .bind (.loadAccess k) (fun _ k2 => .bind (.performHeld k2) (fun _ k3 => .bind (.claimMatrix k3) (fun
      _ k4 => .ite (.error (.wait k4)) (.ok k4.store.retire)))))))))

theorem ResKept.keepRegion {a : Reg} {i : Nat} : ResKept r (fun _ => True) (s.keepRegion a i) := by
  unfold State.keepRegion
  exact .bind .tableArg (fun _ _ => .bind .tableArg (fun _ _ => .bind .tableArg (fun _ _ => .bind .tableArg (fun _ _ => .bind
      .tableArg (fun _ _ => .ok trivial)))))

theorem OutKept.execHtset {a b : Reg} (h : Kept r s) : OutKept r (execHtset a b s) := by
  unfold Machine.execHtset
  dsimp only
  refine .plain h (fun _ k => .bind .ensure fun _ _ => ?_)
  refine .bind .tableArg fun _ _ => ?_
  refine .ite ?_ ?_
  · exact .bind (.performHeld k) (fun _ k2 => .ok k2.setMe.retire)
  · exact .bind .tableArg (fun _ _ => .bind .tableArg (fun _ _ => .bind .tableArg (fun _ _ => .bind .tableArg (fun _ _ => .bind
        .tableArg (fun _ _ => .bind .tableArg (fun _ _ => .bind .keepRegion (fun _ _ => .bind .keepRegion (fun _ _ => .bind
        .tableArg (fun _ _ => .bind .tableArg (fun _ _ => .bind (.performHeld k) (fun _ k3 => .ok k3.setMe.retire)))))))))))

theorem Kept.bindRequest {x : Word} (h : Kept r s) : Kept r (s.bindRequest x).2 := by
  unfold State.bindRequest
  dsimp only
  refine .ite_snd ?_ h
  split
  · exact .ite_snd h h.fields
  · exact h.fields

theorem Kept.grant {job : Option Nat} {cs : List Nat} {x : Word} (h : Kept r s) : Kept r (s.grant job cs x).2 := by
  unfold State.grant
  dsimp only
  refine .foldl_snd (fun _ _ k => .ite_snd k (.ite_snd k k.setGrants)) ?_
  exact h

theorem Kept.ungrant {job : Option Nat} {cs : List Nat} {x : Word} (h : Kept r s) : Kept r (s.ungrant job cs x) := by
  unfold State.ungrant
  exact .foldl (fun _ _ k => k.setGrants) h

theorem Kept.retireRegion {job region : Nat} (h : Kept r s) : Kept r (s.retireRegion job region) := by
  unfold State.retireRegion
  exact .mapJob h.fields

theorem Kept.defineRegion {x : Word} (h : Kept r s) : Kept r (s.defineRegion x).2 := by
  unfold State.defineRegion
  exact .ite_snd h (.mapJob (.ite h.retireRegion h))

theorem Kept.askBezel {d a : Reg} {f : Nat} (h : Kept r s) : Kept r (s.askBezel d a f) := by
  unfold State.askBezel
  dsimp only
  refine .ite h.setPair ?_
  split
  · exact h.ungrant.setPair
  · exact h.ungrant.setPair
  · exact h.defineRegion.setPair
  · exact .ite (.setPair (.ite h.fields h)) (.setPair (.grant (.bindRequest (.ite h.fields h))))

theorem OutKept.execEpreq {d a : Reg} {f : BitVec 3} (h : Kept r s) : OutKept r (execEpreq d a f s) := by
  unfold Machine.execEpreq
  exact .plain h (fun _ k => .bind (.performHeld k) (fun _ k2 => .ok k2.askBezel.retire))

theorem OutKept.execOwnset {a b : Reg} (h : Kept r s) : OutKept r (execOwnset a b s) := by
  unfold Machine.execOwnset
  dsimp only
  refine .plain h (fun _ k => .bind .tableArg fun _ _ => ?_)
  refine .bind .tableArg fun _ _ => ?_
  refine .bind .tableArg fun _ _ => ?_
  refine .bind .tableArg fun _ _ => ?_
  refine .bind .tableArg fun _ _ => ?_
  refine .bind .tableArg fun _ _ => ?_
  refine .bind .tableArg fun _ _ => ?_
  refine .ite ?_ ?_
  · exact .bind (.performHeld k) (fun _ k2 => .ok k2.mapJob.retire)
  · exact .bind .tableArg (fun _ _ => .bind .tableArg (fun _ _ => .bind .tableArg (fun _ _ => .bind (.performHeld k) (fun _ k3 =>
        .ok k3.mapJob.retire))))

theorem Kept.dropMaps (h : Kept r s) : Kept r s.dropMaps := by
  unfold State.dropMaps
  exact h.fields

theorem OutKept.execCmap {d a b : Reg} {x : BitVec 1} {f : BitVec 2} (h : Kept r s) : OutKept r (execCmap d a b x f s) := by
  unfold Machine.execCmap
  dsimp only
  refine .plain h (fun _ k => .bind .ensure fun _ _ => ?_)
  refine .bind .ensure fun _ _ => ?_
  refine .ite ?_ ?_
  · split
    · exact .raiseAt
    · exact .bind .tableArg (fun _ _ => .bind (.performHeld k.dropMaps) (fun _ k3 => .ok (.retire (.dropMaps k3.fields))))
  · refine .ite ?_ ?_
    · refine .bind .operandSpace fun _ _ => ?_
      refine .bind .aligned fun _ _ => ?_
      refine .bind (.loadAccess k.dropMaps) fun _ k4 => ?_
      refine .bind (P := fun a => Kept r a.2) ?_ fun _ k5 => ?_
      · refine .ok ?_
        exact k4
      · refine .bind .tableArg fun _ _ => ?_
        refine .bind .tableArg fun _ _ => ?_
        refine .bind .tableArg fun _ _ => ?_
        refine .bind .tableArg fun _ _ => ?_
        refine .bind .tableArg fun _ _ => ?_
        refine .bind .tableArg fun _ _ => ?_
        refine .bind .tableArg fun _ _ => ?_
        split
        · exact .ite .raiseAt .raiseAt
        · split
          · exact .raise
          · exact .bind (.performHeld k5) (fun _ k7 => .ok (.retire (.setReg k7.fields)))
    · refine .bind (P := fun a => Kept r a.2) ?_ fun _ k2 => ?_
      · refine .ok ?_
        exact k.dropMaps
      · refine .bind .tableArg fun _ _ => ?_
        refine .bind .tableArg fun _ _ => ?_
        refine .bind .tableArg fun _ _ => ?_
        refine .bind .tableArg fun _ _ => ?_
        refine .bind .tableArg fun _ _ => ?_
        refine .bind .tableArg fun _ _ => ?_
        refine .bind .tableArg fun _ _ => ?_
        split
        · exact .ite .raiseAt .raiseAt
        · split
          · exact .raise
          · exact .bind (.performHeld k2) (fun _ k6 => .ok (.retire (.setReg k6.fields)))

theorem OutKept.execUrtset {a b : Reg} (h : Kept r s) : OutKept r (execUrtset a b s) := by
  unfold Machine.execUrtset
  dsimp only
  refine .plain h (fun _ k => .bind .needSupervisor fun _ _ => ?_)
  refine .bind .tableArg fun _ _ => ?_
  refine .bind .tableArg fun _ _ => ?_
  refine .bind .tableArg fun _ _ => ?_
  refine .bind .tableArg fun _ _ => ?_
  refine .ite ?_ ?_
  · exact .bind (.performHeld k) (fun _ k2 => .ok (.retire k2.fields))
  · exact .bind .tableArg (fun _ _ => .bind .tableArg (fun _ _ => .bind (.performHeld k) (fun _ k3 => .ok (.retire k3.fields))))

theorem OutKept.execSchset {a b : Reg} {f : BitVec 1} (h : Kept r s) : OutKept r (execSchset a b f s) := by
  unfold Machine.execSchset
  dsimp only
  refine .plain h (fun _ k => .bind .tableArg fun _ _ => ?_)
  refine .bind .operandSpace fun _ _ => ?_
  refine .bind .aligned fun _ _ => ?_
  refine .bind (.loadAccess k) fun _ k2 => ?_
  refine .bind .tableArg fun _ _ => ?_
  split
  · exact .raiseAt
  · exact .bind .ensure (fun _ _ => .bind (.performHeld k2) (fun _ k3 => .ok (.retire (.foldl (fun _ _ k4 => k4.setDie) k3))))

theorem Kept.killKey {k : Nat} (h : Kept r s) : Kept r (s.killKey k) := by
  unfold State.killKey
  dsimp only
  exact .fields (.foldl (fun _ _ k2 => k2.loseLine) h)

theorem OutKept.execSeqnew {d : Reg} (h : Kept r s) : OutKept r (execSeqnew d s) := by
  unfold Machine.execSeqnew
  dsimp only
  refine .plain h (fun _ k => .bind .needSupervisor fun _ _ => ?_)
  refine .bind (.performHeld k) fun _ k2 => ?_
  refine .ite (.ok k2.setReg.retire) ?_
  split
  · exact .ok k2.setReg.retire
  · exact .ok (.retire (.setReg k2.fields))

theorem OutKept.execSeqend {a : Reg} (h : Kept r s) : OutKept r (execSeqend a s) := by
  unfold Machine.execSeqend
  exact .plain h (fun _ k => .bind .needSupervisor (fun _ _ => .bind .tableArg (fun _ _ => .bind (.performHeld k) (fun _ k2 => .ok
      k2.killKey.retire))))

/-! ### Arrivals -/

theorem Kept.landFlight {f : Flight} (h : Kept r s) : Kept r (s.landFlight f) := by
  unfold State.landFlight
  exact h.fields

theorem Kept.divert {c q : Nat} {m : Msg} (h : Kept r s) : OptKept (Kept r) (s.divert c q m) := by
  unfold State.divert
  split
  · exact .some h.mapJob
  · split
    · exact .some h.mapJob
    · exact .none

theorem Kept.deliver {c q : Nat} {m : Msg} (h : Kept r s) : Kept r (s.deliver c q m) := by
  unfold State.deliver
  exact .ite h.setCore.latchCore h.setCore

theorem Kept.arrive {f : Flight} (h : Kept r s) : Kept r (s.arrive f) := by
  unfold State.arrive
  refine .ite h.landFlight.latchCore (.ite h.landFlight ?_)
  split
  next is => exact .ite h.landFlight.deliver (h.landFlight.divert.of_some is)
  · exact .ite h.landFlight.deliver (.ite h.latchCore h)

theorem Kept.placeGust {f : Flight} (h : Kept r s) : OptKept (Kept r) (s.placeGust f) := by
  unfold State.placeGust
  dsimp only
  split
  next is => exact .some (h.divert.of_some is)
  · exact .ite (.some h.setCore) (.ite (.some h.setCore.store) .none)

theorem Kept.answer {f : Flight} {accepted : Bool} (h : Kept r s) : Kept r (s.answer f accepted) := by
  unfold State.answer
  split
  · exact .ite (.as (fun _ => .answerGust (.refl ..)) h) h
  · exact h

theorem OutKept.execMessageArrival (h : Kept r s) : OutKept r (execMessageArrival s) := by
  unfold Machine.execMessageArrival
  refine .next ?_
  split
  · exact .ite h (.ite h.afterExit h.arrive)
  · exact h

theorem OutKept.execGustArrival (h : Kept r s) : OutKept r (execGustArrival s) := by
  unfold Machine.execGustArrival
  refine .next ?_
  split
  · refine .ite h (.ite h.afterExit ?_)
    split
    next is => exact (h.landFlight.placeGust.of_some is).answer
    · exact h.landFlight.answer
  · exact h

theorem Kept.releaseWriter {l : Landing} {landed : Bool} (h : Kept r s) : Kept r (s.releaseWriter l landed) := by
  unfold State.releaseWriter
  dsimp only
  split
  · refine .ite h (.ite h.setSlotAt (.as (fun _ => .retire ?_) h))
    split
    · exact .setPair (.refl ..)
    · exact .refl ..
  · exact h

theorem Kept.land {l : Landing} (h : Kept r s) : Kept r (s.land l) := by
  unfold State.land
  exact .releaseWriter (.ite h.fields (.setSlotAt h.fields))

theorem OutKept.execLinkLanding (h : Kept r s) : OutKept r (execLinkLanding s) := by
  unfold Machine.execLinkLanding
  refine .next ?_
  split
  · exact h.land
  · exact h

theorem OutKept.execQueuePushLanding (h : Kept r s) : OutKept r (execQueuePushLanding s) := by
  unfold Machine.execQueuePushLanding
  refine .next ?_
  split
  · exact h.land
  · exact h

/-! ### Contexts saved and loaded -/

theorem ResKept.needDrained {part : Nat} : ResKept r (fun _ => True) (s.needDrained part) := by
  unfold State.needDrained
  exact .ite .waitFor (.ok trivial)

theorem Kept.pauseCopies {c i : Nat} {pausing : Bool} (h : Kept r s) : Kept r (s.pauseCopies c i pausing) := by
  unfold State.pauseCopies
  exact h.setCore

theorem Kept.settleColls {c i : Nat} (h : Kept r s) : Kept r (s.settleColls c i) := by
  unfold State.settleColls
  dsimp only
  refine .withdrawColls (.foldl (fun _ _ k => ?_) h)
  split
  · exact k.runColl
  · exact k

theorem Kept.holdEngines {c i : Nat} (h : Kept r s) : Kept r (s.holdEngines c i) := by
  unfold State.holdEngines
  exact h.pauseCopies.settleColls

theorem Kept.resumeEngines {c i : Nat} (h : Kept r s) : Kept r (s.resumeEngines c i) := by
  unfold State.resumeEngines
  exact h.pauseCopies.reissueWithdrawn

theorem Kept.loadTimelines {i : Nat} {bs : List Byte} (h : Kept r s) : Kept r (s.loadTimelines i bs) := by
  unfold State.loadTimelines
  exact h.setMe.mapUnit.setStrandAt

theorem Kept.loadRecord {part i : Nat} {bs : List Byte} (h : Kept r s) : OptKept (Kept r) (s.loadRecord part i bs) := by
  unfold State.loadRecord
  dsimp only
  split
  · exact .some h.setStrandAt
  · exact .ite .none (.ite (.some h.setStrandAt.setSlot) (.some h.setStrandAt))
  · exact .ite (.some h.setStrandAt) .none
  · refine .ite ?_ ?_
    · exact .none
    · exact .some (.ite h.store.store.store.store.setMe.setStrandAt h.store.store.store.store.setMe.setStrandAt.setSlotAt)
  · exact .ite (.some h.setStrandAt) .none
  · exact .ite (.some h.loadTimelines) .none
  · exact .some h

theorem Kept.loadPiece {part i off : Nat} {bs : List Byte} (h : Kept r s) : Kept r (s.loadPiece part i off bs) := by
  unfold State.loadPiece
  exact .ite h.setStrandAt h.store

theorem ResKept.moveOut {a : Word} {n k : Nat} {l : List Byte} (h : Kept r s) : ResKept r (Kept r) (State.moveOut a n k l s) := by
  induction n generalizing k l s with
  | zero =>
    unfold State.moveOut
    exact .ok h
  | succ n ih =>
    unfold State.moveOut
    dsimp only
    refine .ite (.ok h) ?_
    split
    next is => exact .error (.keepSteps h ((ResKept.storeAccess h).of_error is))
    next is => exact ih ((ResKept.storeAccess h).of_ok is)

theorem ResKept.moveIn {a : Word} {take : Nat → List Byte → State → State} {n k left : Nat} (ktake : ∀ (n : Nat) (l : List Byte)
    (s : State), Kept r s → Kept r (take n l s)) (h : Kept r s) :
    ResKept r (Kept r) (State.moveIn a take n k left s) := by
  induction n generalizing k left s with
  | zero =>
    unfold State.moveIn
    exact .ok h
  | succ n ih =>
    unfold State.moveIn
    dsimp only
    refine .ite (.ok h) ?_
    split
    next is => exact .error (.keepSteps h ((ResKept.loadAccess h).of_error is))
    next is => exact ih (ktake _ _ _ ((ResKept.loadAccess h).of_ok is))

theorem ResKept.readRecord {a : Word} {n : Nat} {got : List Byte} {left : Nat} (h : Kept r s) :
    ResKept r (fun a => Kept r a.2) (State.readRecord a n got left s) := by
  induction n generalizing got left s with
  | zero =>
    unfold State.readRecord
    refine .ok ?_
    exact h
  | succ n ih =>
    unfold State.readRecord
    dsimp only
    refine .ite ?_ ?_
    · refine .ok ?_
      exact h
    · split
      next is => exact .error (.keepSteps h.setSlot ((ResKept.loadAccess h).of_error is))
      next is => exact ih ((ResKept.loadAccess h).of_ok is)

theorem ResKept.contextChecks {ws wa : Word} {allowed writes : Bool} :
    ResKept r (fun _ => True) (s.contextChecks ws wa allowed writes) := by
  unfold State.contextChecks
  exact .bind .needSupervisor (fun _ _ => .bind .ensure (fun _ _ => .aligned))

theorem OutKept.execCtxsv {d a : Reg} {p : BitVec 11} (h : Kept r s) : OutKept r (execCtxsv d a p s) := by
  unfold Machine.execCtxsv
  dsimp only
  refine .plainWhere h (fun _ k => .bind .contextChecks fun _ _ => ?_)
  refine .bind .needDrained fun _ _ => ?_
  refine .ite ?_ ?_
  · exact .error (.wait (.ite k.holdEngines k))
  · exact .bind (.moveOut (.ite k.holdEngines k)) (fun _ k2 => .ok (.finishSteps (.ite k2.setStrandAt k2)))

theorem OutKept.execCtxld {d a : Reg} {p : BitVec 11} (h : Kept r s) : OutKept r (execCtxld d a p s) := by
  unfold Machine.execCtxld
  dsimp only
  refine .plainWhere h (fun _ k => .bind .contextChecks fun _ _ => ?_)
  refine .bind .needDrained fun _ _ => ?_
  refine .ite ?_ ?_
  · exact .bind (.moveIn (fun _ _ _ k2 => k2.loadPiece) (.ite k.setMe k)) (fun _ k2 => .ok k2.finishSteps)
  · refine .bind (.readRecord k) fun _ k2 => ?_
    split
    · exact .raise
    next is =>
      refine .ok (.finishSteps (OptKept.of_some (P := Kept r) ?_ is))
      exact .loadRecord (.ite k2.setSlot.setMe k2.setSlot)

theorem OutKept.execEret (h : Kept r s) : OutKept r (execEret s) := by
  unfold Machine.execEret
  exact .plain h (fun _ k => .bind .needSupervisor (fun _ _ => .ok (.ite k.returnFromTrap.count
      k.returnFromTrap.count.resumeEngines)))

/-! ### Counters and timelines -/

theorem ResKept.ownCounter {n : Nat} : ResKept r (fun _ => True) (s.ownCounter n) := by
  unfold State.ownCounter
  split
  · exact .ok trivial
  · exact .raiseAt

theorem OutKept.execTlwait {a t : Reg} (h : Kept r s) : OutKept r (execTlwait a t s) := by
  unfold Machine.execTlwait
  exact .plainWhere h (fun _ k => .bind .needResident (fun _ _ => .ite .raiseAt (.ite .waitFor (.ok k.retire))))

theorem OutKept.execTlwaitb {n t : Reg} (h : Kept r s) : OutKept r (execTlwaitb n t s) := by
  unfold Machine.execTlwaitb
  exact .plainWhere h (fun _ k => .bind .needResident (fun _ _ => .ite .waitFor (.ok k.retire)))

theorem OutKept.execTlread {d : Reg} {i : BitVec 1} {t : Reg} (h : Kept r s) : OutKept r (execTlread d i t s) := by
  unfold Machine.execTlread
  exact .plainWhere h (fun _ k => .ok k.setReg.retire)

theorem OutKept.execCntwait {d a b : Reg} (h : Kept r s) : OutKept r (execCntwait d a b s) := by
  unfold Machine.execCntwait
  exact .plain h (fun _ k => .bind .needResident (fun _ _ => .bind .ownCounter (fun _ _ => .ite (.ok k.setReg.retire) .waitFor)))

theorem Kept.cancelLevel {job level c : Nat} (h : Kept r s) : Kept r (s.cancelLevel job level c) := by
  unfold State.cancelLevel
  dsimp only
  split
  · exact .foldl (fun _ _ k => k.cancelUnstarted) h.dropUnplaced
  · exact .foldl (fun _ _ k => k.cancelLaunch) h.dropUnplaced
  · exact .foldl (fun _ _ k => k.cancelGraph) h
  · exact .foldl (fun _ _ k => k.cancelPhase) h
  · exact h.cancelJob

theorem OutKept.execCancel {a : Reg} {l : BitVec 3} (h : Kept r s) : OutKept r (execCancel a l s) := by
  unfold Machine.execCancel
  dsimp only
  refine .plain h (fun _ k => .ite ?_ ?_)
  · refine .bind (P := fun _ => True) (.ok trivial) fun _ _ => ?_
    split
    · exact .ok k.retire
    · exact .ok k.retire.cancelLevel
  · refine .bind .ownCounter fun _ _ => ?_
    split
    · exact .ok k.retire
    · exact .ok k.retire.cancelLevel

theorem OutKept.execPhadv {d : Reg} (h : Kept r s) : OutKept r (execPhadv d s) := by
  unfold Machine.execPhadv
  exact .plain h (fun _ k => .ite (.error (.wait (.ite k.commit k))) (.bind (.emit (.ite k.commit k)) (fun _ k2 => .ok
      k2.setReg.retire)))

theorem OutKept.execPhread {d a : Reg} (h : Kept r s) : OutKept r (execPhread d a s) := by
  unfold Machine.execPhread
  exact .plain h (fun _ k => .bind .needResident (fun _ _ => .ite (.ok k.seePhase.setReg.retire) .waitFor))

theorem OutKept.execPcnt {d a b : Reg} {f : BitVec 2} (h : Kept r s) : OutKept r (execPcnt d a b f s) := by
  unfold Machine.execPcnt
  dsimp only
  refine .plain h (fun _ k => .ite ?_ ?_)
  · exact .ok k.setReg.retire
  · exact .bind .ensure (fun _ _ => .ite (.bind .ensure (fun _ _ => .ok k.setMe.setReg.retire)) (.ok k.setMe.setReg.retire))

/-! ### Cuffs -/

theorem Kept.closeSlots {c : Nat} {closed : Bool} (h : Kept r s) : Kept r (s.closeSlots c closed) := by
  unfold State.closeSlots
  exact h.setCore

theorem Kept.composeCuff {n : Nat} (h : Kept r s) : Kept r (s.composeCuff n) := by
  unfold State.composeCuff
  exact .setU (.setSlot (.foldl (fun _ _ k => k.closeSlots) h))

theorem Kept.decomposeCuff (h : Kept r s) : Kept r s.decomposeCuff := by
  unfold State.decomposeCuff
  exact .setU (.foldl (fun _ _ k => k.closeSlots) h)

theorem OutKept.execCmps {k : BitVec 2} (h : Kept r s) : OutKept r (execCmps k s) := by
  unfold Machine.execCmps
  exact .plainWhere h (fun _ k2 => .bind .ensure (fun _ _ => .bind .ensure (fun _ _ => .ok k2.composeCuff.retire)))

theorem OutKept.execDcmp (h : Kept r s) : OutKept r (execDcmp s) := by
  unfold Machine.execDcmp
  exact .plain h (fun _ k => .bind .ensure (fun _ _ => .ok k.decomposeCuff.retire))

theorem OutKept.execCkpt {a : Reg} {c : BitVec 2} (h : Kept r s) : OutKept r (execCkpt a c s) := by
  unfold Machine.execCkpt
  dsimp only
  refine .plain h (fun _ k => .ite .raiseAt (.ite .raiseAt ?_))
  split
  · exact .ok k.retire
  · exact .ok k.setSlot.retire.commit

end

end Sys2Proof.Machine
end

section
/-!
PROOFS. Slots, rows, engines and the scheduler: each operation keeps what `Kept` says.
-/

namespace Sys2Proof.Machine

section
variable {r : Origin} {s t u : State}

/-! ### Slots: filled, waiting, freed -/

theorem Kept.takeCause {c i : Nat} (h : Kept r s) : Kept r (s.takeCause c i) := by
  unfold State.takeCause
  dsimp only
  split
  · exact h
  · exact h.setSlotAt.takeTrap

theorem Kept.dropReply {c i : Nat} (h : Kept r s) : Kept r (s.dropReply c i) := by
  unfold State.dropReply
  dsimp only
  split
  · exact .as (fun _ => .returnFromTrap (.refl ..)) h
  · refine .ite ?_ ?_
    · exact .cancelJobFor (.as (fun _ => .returnFromTrap (.refl ..)) h.withdrawRecord.setSlotAt)
    · exact .as (fun _ => .returnFromTrap (.refl ..)) h.withdrawRecord.setSlotAt

theorem Kept.endCancelled {c i : Nat} (h : Kept r s) : Kept r (s.endCancelled c i) := by
  unfold State.endCancelled
  exact h.discardUnstarted.endStrand

theorem OutKept.execAsyncCauseTaken (h : Kept r s) : OutKept r (execAsyncCauseTaken s) := by
  unfold Machine.execAsyncCauseTaken
  dsimp only
  refine .next (.ite (.endCancelled (.ite h (.foldl (fun _ _ k => k.latchCore) h.setCore))) (.ite ?_ ?_))
  · refine .takeCause (.ite ?_ ?_)
    · refine .as (fun _ => .stepPartly (.refl ..)) (.ite ?_ ?_)
      · exact .dropReply (.ite h (.foldl (fun _ _ k => k.latchCore) h.setCore))
      · exact .ite h (.foldl (fun _ _ k => k.latchCore) h.setCore)
    · refine .ite ?_ ?_
      · exact .dropReply (.ite h (.foldl (fun _ _ k => k.latchCore) h.setCore))
      · exact .ite h (.foldl (fun _ _ k => k.latchCore) h.setCore)
  · refine .ite ?_ ?_
    · refine .setSlotAt (.takeCause (.ite ?_ ?_))
      · exact .dropReply (.ite h (.foldl (fun _ _ k => k.latchCore) h.setCore))
      · exact .ite h (.foldl (fun _ _ k => k.latchCore) h.setCore)
    · refine .ite ?_ ?_
      · exact .dropReply (.ite h (.foldl (fun _ _ k => k.latchCore) h.setCore))
      · exact .ite h (.foldl (fun _ _ k => k.latchCore) h.setCore)

theorem Kept.wake {c i : Nat} (h : Kept r s) : Kept r (s.wake c i) := by
  unfold State.wake
  exact h.setSlotAt

theorem OutKept.execWaitSatisfied (h : Kept r s) : OutKept r (execWaitSatisfied s) := by
  unfold Machine.execWaitSatisfied
  dsimp only
  refine .next ?_
  split
  · exact .ite h.wake h
  · exact h

theorem OutKept.execHalignTimeout (h : Kept r s) : OutKept r (execHalignTimeout s) := by
  unfold Machine.execHalignTimeout
  refine .next ?_
  split
  · exact .as (fun _ => .retire (.refl ..)) h
  · exact h

theorem OutKept.execBankRetention (h : Kept r s) : OutKept r (execBankRetention s) := by
  unfold Machine.execBankRetention
  exact .next h.setStrandAt

theorem OutKept.execGale (h : Kept r s) : OutKept r (execGale s) := by
  unfold Machine.execGale
  dsimp only
  refine .next (.ite h.afterExit ?_)
  split
  · exact .ite h.setCore h
  · exact h

theorem Kept.openShape {c i : Nat} {x : Slot} (h : Kept r s) : Kept r (s.openShape c i x) := by
  unfold State.openShape
  exact .ite (.setSlotAt (.ite h (.foldl (fun _ _ k => k.closeSlots) h))) (.ite h (.foldl (fun _ _ k => k.closeSlots) h))

theorem Kept.closeShape {c i : Nat} {x : Slot} (h : Kept r s) : Kept r (s.closeShape c i x) := by
  unfold State.closeShape
  dsimp only
  refine .ite ?_ ?_
  · exact .setSlotAt (.ite h (.as (fun _ => .composeCuff (.refl ..)) h))
  · exact .ite h (.as (fun _ => .composeCuff (.refl ..)) h)

theorem Kept.saveShare {c : Nat} (h : Kept r s) : Kept r (s.saveShare c) := by
  unfold State.saveShare
  dsimp only
  split
  · exact h
  · exact .ite h (.setCore (.foldl (fun _ _ k => k.openShape) (.mapJob (.moveCells (.flushL1 (.ite h.parkOwner h))))))

theorem Kept.passCore {c : Nat} {job : Option Nat} (h : Kept r s) : Kept r (s.passCore c job) := by
  unfold State.passCore
  dsimp only
  refine .ite h (.setCore ?_)
  split
  · exact h.chargeMeter.saveShare.becomePassive.resplit.wipe.mapJob
  · exact h.chargeMeter.saveShare.becomePassive.resplit.wipe

theorem Kept.restoreShare {c job : Nat} (h : Kept r s) : Kept r (s.restoreShare c job) := by
  unfold State.restoreShare
  dsimp only
  split
  · exact h
  · refine .mapJob (.ite ?_ ?_)
    · split
      · exact .unparkMatrix (.foldl (fun _ _ k => k.closeShape) (.setCore (.moveCells (h.passCore.resplit.puts rfl rfl))))
      · exact .foldl (fun _ _ k => k.closeShape) (.setCore (.moveCells (h.passCore.resplit.puts rfl rfl)))
    · refine .joinMinimum ?_
      split
      · exact .unparkMatrix (.foldl (fun _ _ k => k.closeShape) (.setCore (.moveCells (h.passCore.resplit.puts rfl rfl))))
      · exact .foldl (fun _ _ k => k.closeShape) (.setCore (.moveCells (h.passCore.resplit.puts rfl rfl)))

theorem Kept.countPassed {c i n : Nat} (h : Kept r s) : Kept r (s.countPassed c i n) := by
  unfold State.countPassed
  exact h.setCore

theorem Kept.refillGusts {c : Nat} (h : Kept r s) : Kept r (s.refillGusts c) := by
  unfold State.refillGusts
  dsimp only
  refine .ite ?_ h
  split
  · exact h
  · exact h.setCore

theorem Kept.placeStrand {c i : Nat} {u : Strand} {pair : Option Pair} (h : Kept r s) : Kept r (s.placeStrand c i u pair) := by
  unfold State.placeStrand
  exact h.joinMinimum.setSlotAt

theorem Kept.joinOdd {c i : Nat} {job : Option Nat} (h : Kept r s) : Kept r (s.joinOdd c i job) := by
  unfold State.joinOdd
  exact h.passCore.setCore.mirrorCore.setSlotAt

theorem Kept.joinMembers {c i n : Nat} {job : Option Nat} (h : Kept r s) : Kept r (s.joinMembers c i n job) := by
  unfold State.joinMembers
  exact .as (fun _ => .composeCuff (.refl ..)) (.foldl (fun _ _ k => k.passCore) h)

theorem Kept.beginStart {c i : Nat} {t : Start} (h : Kept r s) : Kept r (s.beginStart c i t) := by
  unfold State.beginStart
  dsimp only
  split
  · exact h
  · refine .mapLaunch (.ite ?_ ?_)
    · exact .joinMembers (.ite h.newUnit.placeStrand.joinOdd h.newUnit.placeStrand)
    · exact .ite h.newUnit.placeStrand.joinOdd h.newUnit.placeStrand

theorem Kept.beginHandler {c i : Nat} {m : Msg} {index : Nat} {x : Handler} (h : Kept r s) :
    Kept r (s.beginHandler c i m index x) := by
  unfold State.beginHandler
  exact h.newUnit.placeStrand

theorem Kept.beginGust {c i : Nat} {m : Msg} (h : Kept r s) : Kept r (s.beginGust c i m) := by
  unfold State.beginGust
  exact h.newUnit.placeStrand

theorem Kept.fillSlot {c i : Nat} (h : Kept r s) : Kept r (s.fillSlot c i) := by
  unfold State.fillSlot
  dsimp only
  split
  · exact h
  · split
    · exact h.countPassed.passCore.setCore.beginStart
    · exact h.countPassed.passCore.setCore.count.beginHandler
    · exact h.countPassed.passCore.setCore.refillGusts.count.beginGust

theorem OutKept.execSlotFill (h : Kept r s) : OutKept r (execSlotFill s) := by
  unfold Machine.execSlotFill
  exact .next (.ite h.fillSlot h)

/-! ### Rows and pairs -/

theorem Kept.releaseMember {id k i : Nat} (h : Kept r s) : Kept r (s.releaseMember id k i) := by
  unfold State.releaseMember
  exact h.setSlotAt

theorem Kept.releaseMembers {ms : List (Nat × Nat)} (h : Kept r s) : Kept r (s.releaseMembers ms) := by
  unfold State.releaseMembers
  exact .fields (.foldl (fun _ _ k => k.releaseMember) h)

theorem Kept.clasp {row : Nat} (h : Kept r s) : Kept r (s.clasp row) := by
  unfold State.clasp
  exact .ite h (.ite (.foldl (fun _ _ k => k.takeTrap) h) h.releaseMembers)

theorem OutKept.execClaspRelease (h : Kept r s) : OutKept r (execClaspRelease s) := by
  unfold Machine.execClaspRelease
  exact .next h.clasp

theorem OutKept.execGangTimeout (h : Kept r s) : OutKept r (execGangTimeout s) := by
  unfold Machine.execGangTimeout
  exact .next (.ite h (.foldl (fun _ _ k => .ite k.takeTrap k) h))

theorem OutKept.execMatrixZeroingDone (h : Kept r s) : OutKept r (execMatrixZeroingDone s) := by
  unfold Machine.execMatrixZeroingDone
  exact .next h.setCore

theorem OutKept.execMatrixOpComplete (h : Kept r s) : OutKept r (execMatrixOpComplete s) := by
  unfold Machine.execMatrixOpComplete
  exact .next h.setCore

theorem Kept.completeGang {row : Nat} {all : List (Nat × DataStage)} (h : Kept r s) : Kept r (s.completeGang row all) := by
  unfold State.completeGang
  exact .foldl (fun _ _ k => k.endStage) h.readRows

theorem Kept.finishStage {c i : Nat} (h : Kept r s) : Kept r (s.finishStage c i) := by
  unfold State.finishStage
  dsimp only
  split
  · exact h
  · split
    · exact h.askHome
    · exact .ite (.ite h.completeStage h) (.ite h.completeGang h)

theorem OutKept.execDataStageComplete (h : Kept r s) : OutKept r (execDataStageComplete s) := by
  unfold Machine.execDataStageComplete
  exact .next h.finishStage

theorem Kept.parkMatrix {c : Nat} (h : Kept r s) : Kept r (s.parkMatrix c) := by
  unfold State.parkMatrix
  exact .ite h h.parkOwner.zeroMatrix

theorem Kept.switchRow {row launch lrow : Nat} (h : Kept r s) : Kept r (s.switchRow row launch lrow) := by
  unfold State.switchRow
  dsimp only
  refine .ite ?_ ?_
  · exact h
  · exact .foldl (fun _ _ k => .ite k k.latchCore) (.foldl (fun _ _ k => k.unparkMatrix) (.foldl (fun _ _ k => k.parkMatrix) h))

theorem OutKept.execRowSwitch (h : Kept r s) : OutKept r (execRowSwitch s) := by
  unfold Machine.execRowSwitch
  exact .next h.switchRow

theorem Kept.gateCore {c : Nat} (h : Kept r s) : Kept r (s.gateCore c) := by
  unfold State.gateCore
  exact h.zeroMatrix.setCore

theorem OutKept.execRowGate (h : Kept r s) : OutKept r (execRowGate s) := by
  unfold Machine.execRowGate
  exact .next (.ite (.foldl (fun _ _ k => k.gateCore) h) h)

theorem Kept.revoke {c i : Nat} {x : Effect} (h : Kept r s) : Kept r (s.revoke c i x) := by
  unfold State.revoke
  dsimp only
  split
  · exact .ite h h.setStrandAt
  · exact .ite h h.setStrandAt
  · exact h.setCore.engineDone
  · exact h.setStrandAt.engineDone
  · exact h.engineDone
  · exact h

theorem Kept.discardHeld {c i : Nat} (h : Kept r s) : Kept r (s.discardHeld c i) := by
  unfold State.discardHeld
  dsimp only
  split
  · exact h
  · exact .setSlotAt (.foldl (fun _ _ k => k.revoke) h)

theorem Kept.restoreImage {c i : Nat} {p : Pair} (h : Kept r s) : Kept r (s.restoreImage c i p) := by
  unfold State.restoreImage
  dsimp only
  split
  · exact h
  · exact .setSlotAt (.puts (.ite (.wipe (.ite h.wipe h)) (.ite h.wipe h)) rfl rfl)

theorem Kept.mismatch {c i : Nat} (h : Kept r s) : Kept r (s.mismatch c i) := by
  unfold State.mismatch
  dsimp only
  split
  · exact h
  · refine .ite ?_ ?_
    · exact h
    · exact .ite h.discardHeld.takeTrap (.ite h.discardHeld.restoreImage.setSlotAt h.discardHeld.restoreImage.setSlotAt.takeTrap)

theorem OutKept.execLockstepMismatch (h : Kept r s) : OutKept r (execLockstepMismatch s) := by
  unfold Machine.execLockstepMismatch
  exact .next h.mismatch

/-! ### Events of the engines -/

theorem OutKept.execCopyCommandComplete (h : Kept r s) : OutKept r (execCopyCommandComplete s) := by
  unfold Machine.execCopyCommandComplete
  dsimp only
  refine .next ?_
  split
  · exact .ite h.runCopy h
  · exact h

theorem OutKept.execCollComplete (h : Kept r s) : OutKept r (execCollComplete s) := by
  unfold Machine.execCollComplete
  refine .next ?_
  split
  · exact h.runColl
  · exact h

theorem OutKept.execBezelEngineComplete (h : Kept r s) : OutKept r (execBezelEngineComplete s) := by
  unfold Machine.execBezelEngineComplete
  exact .next (.ite h.completeSign h.completeHash)

theorem Kept.cleanL1s {cs : List Nat} {line : Nat} (h : Kept r s) : Kept r (s.cleanL1s cs line) := by
  unfold State.cleanL1s
  exact .foldl (fun _ _ k => .ite k.setL2.setL1 k) h

theorem Kept.cleanDie {d line : Nat} (h : Kept r s) : Kept r (s.cleanDie d line) := by
  unfold State.cleanDie
  exact .ite h h.setL2.setDir.keepHost

theorem Kept.walkTracked {c : Nat} {w : WalkCmd} {line : Nat} (h : Kept r s) : Kept r (s.walkTracked c w line) := by
  unfold State.walkTracked
  dsimp only
  refine .ite ?_ ?_
  · exact .foldl (fun _ _ k => .ite k k.dropLine) (.foldl (fun _ _ k => .ite k k.setL1) h.cleanL1s)
  · exact .foldl (fun _ _ k => k.cleanDie) h.cleanL1s

theorem Kept.walkUntracked {c : Nat} {w : WalkCmd} {line : Nat} (h : Kept r s) : Kept r (s.walkUntracked c w line) := by
  unfold State.walkUntracked
  dsimp only
  refine .ite ?_ ?_
  · exact .foldl (fun _ _ k => k.dropL2Untracked) (.foldl (fun _ _ k => k.dropUntracked) h)
  · exact .foldl (fun _ _ k => k.flushUntracked) h

theorem Kept.walkPage {c : Nat} {w : WalkCmd} {va : Word} (h : Kept r s) : Kept r (s.walkPage c w va).2 := by
  unfold State.walkPage
  exact h.translate

theorem Kept.walkLines {c : Nat} {w : WalkCmd} {p : Place} {n : Nat} (h : Kept r s) : Kept r (State.walkLines c w p n s) := by
  induction n generalizing s with
  | zero =>
    unfold State.walkLines
    exact h
  | succ n ih =>
    unfold State.walkLines
    exact ih (.ite h.walkUntracked h.walkTracked)

theorem Kept.walkOnePage {c : Nat} {w : WalkCmd} {pos : Nat} (h : Kept r s) : Kept r (s.walkOnePage c w pos).2 := by
  unfold State.walkOnePage
  dsimp only
  split
  next is =>
    split
    · exact h.walkPage.snd is
    · exact (h.walkPage.snd is).walkLines
  next is => exact (h.walkPage.snd is).transferDead
  next is => exact (h.walkPage.snd is).latchUnit
  next is2 => exact h.walkPage.snd is2

theorem Kept.walkPages {c : Nat} {w : WalkCmd} {n pos : Nat} (h : Kept r s) : Kept r (State.walkPages c w n pos s).2.2 := by
  induction n generalizing pos s with
  | zero =>
    unfold State.walkPages
    exact h
  | succ n ih =>
    unfold State.walkPages
    refine .ite_snd2 h ?_
    split
    next is => exact ih (h.walkOnePage.snd is)
    next is => exact h.walkOnePage.snd is

theorem Kept.setWalk {c : Nat} {old : WalkCmd} {new : Option WalkCmd} (h : Kept r s) : Kept r (s.setWalk c old new) := by
  unfold State.setWalk
  exact h.setCore

theorem Kept.signalBarrier {c : Nat} {w : WalkCmd} (h : Kept r s) : Kept r (s.signalBarrier c w) := by
  unfold State.signalBarrier
  exact .ite h.store (.ite h.untrackedBytes.untrackedStore (.ite h.homeAtomic.cellStore h.cellOwned))

theorem Kept.stopWalk {c : Nat} {w : WalkCmd} {pos : Nat} {x : Miss × Word} (h : Kept r s) : Kept r (s.stopWalk c w pos x) := by
  unfold State.stopWalk
  split
  · split
    next is => exact (h.engineRecord.snd is).setWalk
    next is => exact ((h.engineRecord.snd is).setWalk).engineDone
  · exact h.setWalk

theorem Kept.endWalk {c : Nat} {w : WalkCmd} (h : Kept r s) : Kept r (s.endWalk c w) := by
  unfold State.endWalk
  split
  · exact .setWalk (.ite h.askAtomic h.askHome)
  · exact h.signalBarrier.setWalk.engineDone

theorem Kept.runWalk {c : Nat} {w : WalkCmd} (h : Kept r s) : Kept r (s.runWalk c w) := by
  unfold State.runWalk
  refine .ite h (.ite ?_ ?_)
  · refine .ite h.endWalk ?_
    split
    next is => exact .setWalk (.foldl (fun _ _ k => k.openTx) (h.walkOnePage.snd is))
    next is => exact (h.walkOnePage.snd is).stopWalk
  · split
    next is => exact (h.walkPages.snd2 is).endWalk
    next is => exact (h.walkPages.snd2 is).stopWalk

theorem OutKept.execRangeWalkComplete (h : Kept r s) : OutKept r (execRangeWalkComplete s) := by
  unfold Machine.execRangeWalkComplete
  refine .next ?_
  split
  · exact .ite h h.runWalk
  · exact h

theorem Kept.resolveSlot {c i : Nat} {x : FaultRecord} {g : Nat} (h : Kept r s) : Kept r (s.resolveSlot c i x g) := by
  unfold State.resolveSlot
  exact .as (fun _ => .returnFromTrap (.refl ..)) h.setSlotAt

theorem Kept.refuseSlot {c i : Nat} {x : FaultRecord} (h : Kept r s) : Kept r (s.refuseSlot c i x) := by
  unfold State.refuseSlot
  exact .cancelJobFor (.as (fun _ => .returnFromTrap (.refl ..)) h.setSlotAt)

theorem Kept.deliverReply {k : Nat} {refused : Bool} {g : Nat} (h : Kept r s) : Kept r (s.deliverReply k refused g) := by
  unfold State.deliverReply
  split
  · exact .ite h.refuseSlot h.resolveSlot
  · split
    · exact .ite h.endCopy.cancelJobFor h.setCopy
    · split
      · exact .ite h.setWalk.engineDone.cancelJobFor h.setWalk
      · split
        · exact .ite h.endColl.cancelJobFor h.setColl
        · split
          · exact .ite h.mapJob.cancelJobFor h.mapJob
          · exact h

theorem Kept.sendReply {k : Nat} {x : FaultRecord} {refused : Bool} {g : Nat} (h : Kept r s) :
    Kept r (s.sendReply k x refused g) := by
  unfold State.sendReply
  exact .ite h.deliverReply h.fields

theorem Kept.serveMessage {m : Msg} (h : Kept r s) : Kept r (s.serveMessage m) := by
  unfold State.serveMessage
  exact .ite h.deliverReply h

theorem Kept.pollReply {c : Nat} (h : Kept r s) : Kept r (s.pollReply c) := by
  unfold State.pollReply
  dsimp only
  split
  · exact h.setCore.serveMessage
  · exact h

theorem Kept.takeReply {k : Nat} (h : Kept r s) : Kept r (s.takeReply k) := by
  unfold State.takeReply
  dsimp only
  split
  · exact h
  · split
    · exact h.setReply.sendReply
    · exact h.setReply.sendReply
    · exact h

theorem OutKept.execFaultReply (h : Kept r s) : OutKept r (execFaultReply s) := by
  unfold Machine.execFaultReply
  exact .next h.takeReply

/-! ### Launches -/

theorem OutKept.execLaunch {d a : Reg} (h : Kept r s) : OutKept r (execLaunch d a s) := by
  unfold Machine.execLaunch
  dsimp only
  refine .plain h (fun _ k => .ite .raiseAt (.bind (.loadAccess k) fun _ k2 => ?_))
  split
  · exact .raise
  · refine .bind .ensure fun _ _ => ?_
    split
    · exact .raiseAt
    · exact .ite (.bind (.emit k2) (fun _ k3 => .ok k3.setReg.retire)) (.ok k2.setReg.retire)

/-! ### Submission queues and the scheduler -/

theorem Kept.queueMiss {q : Nat} {j : Job} {x : Request} {m : Miss × Word} (h : Kept r s) : Kept r (s.queueMiss q j x m) := by
  unfold State.queueMiss
  split
  · split
    next is => exact ((h.engineRecord.snd is).mapJob).latchCore
    next is => exact h.engineRecord.snd is
  · exact h

theorem Kept.queueRead {q : Nat} {j : Job} {a : Word} {n : Nat} (h : Kept r s) : Kept r (s.queueRead q j a n).2 := by
  unfold State.queueRead
  split
  next is => exact h.jobLoad.snd is
  next is => exact (h.jobLoad.snd is).queueMiss

theorem Kept.queueWrite {q : Nat} {j : Job} {a : Word} {bs : List Byte} (h : Kept r s) : Kept r (s.queueWrite q j a bs).2 := by
  unfold State.queueWrite
  split
  next is => exact h.jobStore.snd is
  next is => exact (h.jobStore.snd is).queueMiss

theorem Kept.writeStatus {q : Nat} (h : Kept r s) : Kept r (s.writeStatus q) := by
  unfold State.writeStatus
  split
  · exact h
  · split
    · exact h
    · refine .ite h ?_
      split
      next is => exact (h.queueWrite.snd is).mapJob
      next is => exact h.queueWrite.snd is

theorem Kept.signalWrite {q : Nat} {j : Job} {a v : Word} {add : Bool} (h : Kept r s) : Kept r (s.signalWrite q j a v add).2 := by
  unfold State.signalWrite
  dsimp only
  split
  next is => exact (h.translateRange.snd is).queueMiss
  next is =>
    split
    · exact (h.translateRange.snd is).askAtomic
    · exact .storeSegments (.foldl (fun _ _ k => .ite k k.homeAtomic) (h.translateRange.snd is))

theorem Kept.settleHold {q : Nat} (h : Kept r s) : Kept r (s.settleHold q) := by
  unfold State.settleHold
  dsimp only
  split
  · exact h
  · split
    · exact h
    · exact .ite h.mapJob.advance? h
    · refine .ite h ?_
      split
      next is => exact ((h.signalWrite.snd is).mapJob).advance?
      next is => exact h.signalWrite.snd is

theorem Kept.placeNodes {q n : Nat} (h : Kept r s) : Kept r (State.placeNodes q n s) := by
  induction n generalizing s with
  | zero => exact h.of_eq rfl
  | succ n ih =>
    change Kept r (match AMap.get? s.jobs q with
      | none => s
      | some j => _)
    split
    · exact h
    · split
      · exact h
      · split
        · exact h
        next is =>
          refine ih ?_
          split
          · exact .fields (.mapJob (h.placeLaunch.of_some is))
          · exact .mapJob (h.placeLaunch.of_some is)

theorem Kept.settleQueue {q : Nat} (h : Kept r s) : Kept r (s.settleQueue q) := by
  unfold State.settleQueue
  exact .ite h h.settleHold.placeNodes

theorem Kept.badSlot {q code : Nat} (h : Kept r s) : Kept r (s.badSlot q code) := by
  unfold State.badSlot
  exact h.recordReason.cancelJob

theorem Kept.acceptNext {q code : Nat} {body : Job → List Byte → State → State.Verdict} (h : Kept r s) (kbody : ∀ (x : Job) (l :
    List Byte) (s : State), Kept r s → VerdictKept r (body x l s)) :
    Kept r (s.acceptNext q code body) := by
  unfold State.acceptNext
  dsimp only
  split
  · exact h.settleQueue
  · refine .ite h.settleQueue ?_
    split
    next is => exact h.settleQueue.queueRead.snd is
    next is =>
      refine .ite (h.settleQueue.queueRead.snd is) ?_
      refine .ite ((h.settleQueue.queueRead.snd is).badSlot) (.ite (h.settleQueue.queueRead.snd is) ?_)
      split
      next is2 => exact ((h.settleQueue.queueRead.snd is).queueWrite).snd is2
      next is2 =>
        split
        · exact (((h.settleQueue.queueRead.snd is).queueWrite).snd is2).badSlot
        next is3 => exact (kbody _ _ _ (((h.settleQueue.queueRead.snd is).queueWrite).snd is2)).of_held is3
        next is3 => exact ((((kbody _ _ _ (((h.settleQueue.queueRead.snd is).queueWrite).snd is2)).of_accepted
            is3).mapJob).queueWrite).settleQueue

theorem OutKept.execNopCommand (h : Kept r s) : OutKept r (execNopCommand s) := by
  unfold Machine.execNopCommand
  exact .next (h.acceptNext (fun _ _ _ k => .ite (.accepted k.advance?) .bad))

theorem OutKept.execLaunchCommand (h : Kept r s) : OutKept r (execLaunchCommand s) := by
  unfold Machine.execLaunchCommand
  dsimp only
  refine .next (.acceptNext h (fun _ _ _ k => .ite .bad ?_))
  split
  · exact .bad
  · split
    · exact .held k
    next is => exact .accepted (k.placeLaunch.of_some is)

theorem OutKept.execGraph (h : Kept r s) : OutKept r (execGraph s) := by
  unfold Machine.execGraph
  dsimp only
  refine .next (.acceptNext h (fun _ _ _ k => .ite .bad (.ite .bad ?_)))
  split
  · exact .held k
  · refine .ite (.held k) ?_
    split
    next is => exact .held (k.queueRead.snd is)
    next is =>
      split
      · exact .bad
      · exact .accepted (.mapJob ((k.queueRead.snd is).fields))

theorem OutKept.execWaitcnt (h : Kept r s) : OutKept r (execWaitcnt s) := by
  unfold Machine.execWaitcnt
  refine .next (.acceptNext h (fun _ _ _ k => ?_))
  split
  · exact .bad
  · exact .ite .bad (.accepted k.mapJob)

theorem OutKept.execSignal (h : Kept r s) : OutKept r (execSignal s) := by
  unfold Machine.execSignal
  exact .next (h.acceptNext (fun _ _ _ k => .ite .bad (.ite .bad (.accepted k.mapJob))))

theorem OutKept.execPhaseCommand (h : Kept r s) : OutKept r (execPhaseCommand s) := by
  unfold Machine.execPhaseCommand
  exact .next (h.acceptNext (fun _ _ _ k => .ite .bad (.accepted k.mapJob)))

theorem OutKept.execCancelCommand (h : Kept r s) : OutKept r (execCancelCommand s) := by
  unfold Machine.execCancelCommand
  dsimp only
  refine .next (.acceptNext h (fun _ _ _ k => ?_))
  split
  · exact .bad
  · exact .ite .bad (.accepted k.advance?.cancelLevel)

theorem Kept.dispatchQueue {q : Nat} (h : Kept r s) : Kept r (s.dispatchQueue q) := by
  unfold State.dispatchQueue
  dsimp only
  split
  · exact h.settleQueue
  · refine .ite h.settleQueue ?_
    split
    next is => exact h.settleQueue.queueRead.snd is
    next is => exact .ite (h.settleQueue.queueRead.snd is) ((h.settleQueue.queueRead.snd is).badSlot)

theorem Kept.rereadTail {q : Nat} (h : Kept r s) : Kept r (s.rereadTail q) := by
  unfold State.rereadTail
  dsimp only
  split
  · exact h.settleQueue
  · refine .ite h.settleQueue ?_
    split
    next is => exact h.settleQueue.queueRead.snd is
    next is =>
      split
      · exact .ite ((h.settleQueue.queueRead.snd is).mapJob) (((h.settleQueue.queueRead.snd is).mapJob).badSlot)
      · exact (h.settleQueue.queueRead.snd is).mapJob

theorem OutKept.execTailWatch (h : Kept r s) : OutKept r (execTailWatch s) := by
  unfold Machine.execTailWatch
  dsimp only
  split
  · exact .next h
  · refine .next ?_
    split
    · exact h.latchCore.rereadTail.fields
    · exact h.latchCore.rereadTail

theorem Kept.completeUnit {n : Nat} (h : Kept r s) : Kept r (s.completeUnit n) := by
  unfold State.completeUnit
  dsimp only
  split
  · exact h
  · refine .ite h ?_
    split
    · exact .mapLaunch (.advance h.fields)
    · exact h.fields

theorem Kept.completeLaunch {n : Nat} (h : Kept r s) : Kept r (s.completeLaunch n) := by
  unfold State.completeLaunch
  dsimp only
  split
  · exact h
  · refine .ite h (.dropMaps (.advance? ?_))
    split
    · exact h.mapLaunch.advance
    · exact h.mapLaunch.advancePhase

theorem Kept.completeGraph {n : Nat} (h : Kept r s) : Kept r (s.completeGraph n) := by
  unfold State.completeGraph
  dsimp only
  split
  · exact h
  · exact .ite h (.advance? (.advancePhase h.fields))

theorem Kept.completePhase {q p : Nat} (h : Kept r s) : Kept r (s.completePhase q p) := by
  unfold State.completePhase
  dsimp only
  split
  · exact h
  · split
    · exact h
    · exact .ite h h.mapJob.advance?

theorem Kept.completeJob {q : Nat} (h : Kept r s) : Kept r (s.completeJob q) := by
  unfold State.completeJob
  dsimp only
  split
  · exact h
  · exact .ite h h.fields

theorem OutKept.execInstanceCompletion (h : Kept r s) : OutKept r (execInstanceCompletion s) := by
  unfold Machine.execInstanceCompletion
  refine .next ?_
  split
  · exact h.completeUnit
  · exact h.completeLaunch
  · exact h.completeGraph
  · exact h.completePhase
  · exact h.completeJob

/-! ### The queue arbiter -/

theorem Kept.beginRound (h : Kept r s) : Kept r s.beginRound := by
  unfold State.beginRound
  exact .ite h (.foldl (fun _ _ k => k.mapJob) h)

theorem Kept.idleReset (h : Kept r s) : Kept r s.idleReset := by
  unfold State.idleReset
  exact .foldl (fun _ _ k => .ite k.mapJob k) h

theorem Kept.fetchLines {q : Request} {fuel len : Nat} {va : Word} (h : Kept r s) : Kept r (State.fetchLines q fuel len va s) := by
  induction fuel generalizing len va s with
  | zero =>
    unfold State.fetchLines
    exact h
  | succ fuel ih =>
    unfold State.fetchLines
    dsimp only
    refine .ite h ?_
    split
    next is => exact h.translate.snd is
    next is => exact ih (.ite (h.translate.snd is) (.foldl (fun _ _ k => k.touch) (h.translate.snd is)))

theorem Kept.fetchTile {l : Launch} {cores : List Nat} (h : Kept r s) : Kept r (s.fetchTile l cores) := by
  unfold State.fetchTile
  dsimp only
  split
  · exact h.fetchLines
  · exact h

theorem Kept.dispatchNode {d n : Nat} {cores : List Nat} (h : Kept r s) : Kept r (s.dispatchNode d n cores) := by
  unfold State.dispatchNode
  dsimp only
  refine .dropMaps (.fields (.mapLaunch (.setDie ?_)))
  split
  · exact h.fetchTile
  · exact h

theorem Kept.resumeSlot {c i : Nat} (h : Kept r s) : Kept r (s.resumeSlot c i) := by
  unfold State.resumeSlot
  exact .ite (.resumeEngines (.setSlotAt (.ite h.unparkMatrix h))) h

theorem Kept.resumeHere {q : Nat} (h : Kept r s) : OptKept (Kept r) (s.resumeHere q) := by
  unfold State.resumeHere
  exact .map (fun _ => .foldl (fun _ _ k => k.resumeSlot) h)

theorem Kept.resumeOne {q : Nat} (h : Kept r s) : OptKept (Kept r) (s.resumeOne q) := by
  unfold State.resumeOne
  split
  next is => exact .some (h.resumeHere.of_some is)
  · intro t is
    obtain ⟨j, _, is⟩ := Option.bind_eq_some_iff.1 is
    obtain ⟨⟨c, x⟩, _, is⟩ := List.exists_of_findSome?_eq_some is
    dsimp only at is
    split at is
    · exact (Kept.resumeHere (Kept.foldl (fun _ _ k => k.restoreShare) h)).of_some is
    · cases is

theorem Kept.returnShares (h : Kept r s) : Kept r s.returnShares := by
  unfold State.returnShares
  exact .foldl (fun _ _ k => .foldl (fun _ _ k2 => .ite k2.restoreShare k2) k) h

theorem Kept.dispatchFrom {d q : Nat} (h : Kept r s) : OptKept (Kept r) (s.dispatchFrom d q) := by
  unfold State.dispatchFrom
  split
  next is => exact .some (h.resumeOne.of_some is)
  · intro t is
    obtain ⟨⟨n, l⟩, _, is⟩ := List.exists_of_findSome?_eq_some is
    obtain ⟨cores, _, rfl⟩ := Option.map_eq_some_iff.1 is
    exact h.dispatchNode

theorem Kept.dispatchFirst {d : Nat} {l : List Nat} (h : Kept r s) : Kept r (s.dispatchFirst d l) := by
  induction l generalizing s with
  | nil =>
    unfold State.dispatchFirst
    exact h
  | cons y l ih =>
    unfold State.dispatchFirst
    dsimp only
    refine .ite (ih h) ?_
    split
    next is => exact (h.dispatchFrom.of_some is).setDie
    · exact ih h.setDie

theorem Kept.arbitrate (h : Kept r s) : Kept r s.arbitrate := by
  unfold State.arbitrate
  exact h.fields

theorem OutKept.execNodeDispatch (h : Kept r s) : OutKept r (execNodeDispatch s) := by
  unfold Machine.execNodeDispatch
  exact .next h.returnShares.beginRound.arbitrate.dispatchFirst

theorem OutKept.execPreempt (h : Kept r s) : OutKept r (execPreempt s) := by
  unfold Machine.execPreempt
  dsimp only
  refine .next (.foldl (fun _ _ k => ?_) h)
  split
  · exact k.latch
  · exact k.latch
  · exact k

theorem Kept.migrate {c k n : Nat} (h : Kept r s) : Kept r (s.migrate c k n) := by
  unfold State.migrate
  exact .foldl (fun _ _ k2 => k2.mapLaunch) h.setCore.setCore

theorem Kept.averageCore {loads : AMap Nat} {c : Nat} (h : Kept r s) : Kept r (State.averageCore loads s c) := by
  unfold State.averageCore
  exact .ite h h.migrate

theorem Kept.averageLoads (h : Kept r s) : Kept r s.averageLoads := by
  unfold State.averageLoads
  exact .foldl (fun _ _ k => k.averageCore) h

theorem Kept.retryRecord {x : Option FaultRecord} (h : Kept r s) : Kept r (s.retryRecord x).2 := by
  unfold State.retryRecord
  split
  · exact .ite_snd h.writeRecord h
  · exact h

theorem Kept.retrySlots (h : Kept r s) : Kept r s.retrySlots := by
  unfold State.retrySlots
  exact .foldl (fun _ _ k => k.retryRecord.setSlotAt) h

theorem Kept.retryEngines (h : Kept r s) : Kept r s.retryEngines := by
  unfold State.retryEngines
  exact .foldl (fun _ _ k => .foldl (fun _ _ k2 => k2.retryRecord.setWalk) (.foldl (fun _ _ k2 => .foldl (fun _ _ k3 =>
      k3.retryRecord.setCopy) k2) k)) h

theorem Kept.retryOthers (h : Kept r s) : Kept r s.retryOthers := by
  unfold State.retryOthers
  exact .foldl (fun _ _ k => k.retryRecord.mapJob) (.foldl (fun _ _ k => .foldl (fun _ _ k2 => .foldl (fun _ _ k3 =>
      k3.retryRecord.setColl) k2) k) h)

theorem Kept.payOwed (h : Kept r s) : Kept r s.payOwed := by
  unfold State.payOwed
  exact .foldl (fun _ _ k => .ite k.writeRecord.fields k) h

theorem Kept.retryRecords (h : Kept r s) : Kept r s.retryRecords := by
  unfold State.retryRecords
  exact h.retrySlots.retryEngines.retryOthers.payOwed

theorem OutKept.execTick (h : Kept r s) : OutKept r (execTick s) := by
  unfold Machine.execTick
  exact .next (.foldl (fun _ _ k => k.latchCore) (.retryRecords (.averageLoads (.beginRound (.foldl (fun _ _ k => k.chargeMeter)
      h)))))

theorem OutKept.execGphasePublish (h : Kept r s) : OutKept r (execGphasePublish s) := by
  unfold Machine.execGphasePublish
  dsimp only
  refine .next ?_
  split
  · refine .ite ?_ ?_
    · exact .dropCleanUntracked (.fields (.foldl (fun _ _ k => k.becomePassive) h))
    · exact .foldl (fun _ _ k => k.becomePassive) h
  · exact .foldl (fun _ _ k => k.becomePassive) h

end

end Sys2Proof.Machine
end

section
/-!
PROOFS. Atomics, branches, coherence, errors and images: each operation keeps what `Kept` says.
-/

namespace Sys2Proof.Machine

section
variable {r : Origin} {s t u : State}

/-! ### Atomics -/

theorem Kept.homeAccess {segs : List Segment} {n : Nat} {t : HostTx} {f : Nat → Option Nat} (h : Kept r s) :
    Kept r (s.homeAccess segs n t f).2 := by
  unfold State.homeAccess
  dsimp only
  split
  · exact .foldl (fun _ _ k => k.homeAtomic) h
  · exact .storeSegments (.foldl (fun _ _ k => k.homeAtomic) h)

theorem ResKept.atomicAccess {scope : Nat} {segs : List Segment} {n : Nat} {t : HostTx} {f : Nat → Option Nat} (h : Kept r s) :
    ResKept r (fun a => Kept r a.2) (s.atomicAccess scope segs n t f) := by
  unfold State.atomicAccess
  dsimp only
  refine .bind .stageGuard fun _ _ => ?_
  refine .bind (.commitPoint h) fun _ k => ?_
  refine .ite (.ok k.homeAccess) ?_
  split
  · refine .ok ?_
    exact .foldl (fun _ _ k2 => .ite k2.own k2) k.readAccess
  · refine .ok ?_
    exact .foldl (fun _ _ k2 => k2.perform) k.readAccess

theorem ResKept.spanAway {d : Reg} {n : Nat} {zero : Bool} {operand expected : Nat} {x : Stop} (h : Kept r s) (kx : StopKept r x) :
    ResKept r (fun a => Kept r a.2) (s.spanAway d n zero operand expected x) := by
  unfold State.spanAway
  dsimp only
  split
  · refine .ite ?_ ?_
    · exact .bind (.commitPoint (.getD kx h)) (fun _ k => .error (.wait k.sendSpan))
    · exact .error (.wait (.askPage (.getD kx h)))
  · exact .error kx

theorem ResKept.resolveAtomic {x : Access} {va : Word} {d : Reg} {n : Nat} {zero : Bool} {operand expected : Nat} (h : Kept r s) :
    ResKept r (fun a => Kept r a.2) (s.resolveAtomic x va d n zero operand expected) := by
  unfold State.resolveAtomic
  split
  next is => exact .ite (.spanAway h ((ResKept.resolve h).of_error is)) (.error ((ResKept.resolve h).of_error is))
  · exact .resolve h

theorem OutKept.atomic {code : Nat} {d a b : Reg} {n : Nat} {zero : Bool} {op : AtomicOp} (h : Kept r s) :
    OutKept r (atomic code d a b n zero op s) := by
  unfold Machine.atomic
  dsimp only
  refine .withMod h (fun _ k => .bind .attrs fun _ _ => ?_)
  refine .bind .istorePrivilege fun _ _ => ?_
  refine .bind .attrCheck fun _ _ => ?_
  refine .bind .aligned fun _ _ => ?_
  refine .bind (.resolveAtomic k) fun _ k2 => ?_
  refine .ite ?_ ?_
  · exact .bind (.refuseUntracked k2) (fun _ _ => .bind (.atomicAccess k2) (fun _ k4 => .ok k4.setReg.retire))
  · exact .bind (.atomicAccess k2) (fun _ k3 => .ok k3.setReg.retire)

theorem OutKept.execAmoadd {d a b : Reg} {w : BitVec 1} (h : Kept r s) : OutKept r (execAmoadd d a b w s) := by
  unfold Machine.execAmoadd
  exact .atomic h

theorem OutKept.execAmoand {d a b : Reg} {w : BitVec 1} (h : Kept r s) : OutKept r (execAmoand d a b w s) := by
  unfold Machine.execAmoand
  exact .atomic h

theorem OutKept.execAmoor {d a b : Reg} {w : BitVec 1} (h : Kept r s) : OutKept r (execAmoor d a b w s) := by
  unfold Machine.execAmoor
  exact .atomic h

theorem OutKept.execAmoxor {d a b : Reg} {w : BitVec 1} (h : Kept r s) : OutKept r (execAmoxor d a b w s) := by
  unfold Machine.execAmoxor
  exact .atomic h

theorem OutKept.execAmomin {d a b : Reg} {w : BitVec 1} (h : Kept r s) : OutKept r (execAmomin d a b w s) := by
  unfold Machine.execAmomin
  exact .atomic h

theorem OutKept.execAmomax {d a b : Reg} {w : BitVec 1} (h : Kept r s) : OutKept r (execAmomax d a b w s) := by
  unfold Machine.execAmomax
  exact .atomic h

theorem OutKept.execAmominu {d a b : Reg} {w : BitVec 1} (h : Kept r s) : OutKept r (execAmominu d a b w s) := by
  unfold Machine.execAmominu
  exact .atomic h

theorem OutKept.execAmomaxu {d a b : Reg} {w : BitVec 1} (h : Kept r s) : OutKept r (execAmomaxu d a b w s) := by
  unfold Machine.execAmomaxu
  exact .atomic h

theorem OutKept.execAmoswp {d a b : Reg} {w : BitVec 1} (h : Kept r s) : OutKept r (execAmoswp d a b w s) := by
  unfold Machine.execAmoswp
  exact .atomic h

theorem OutKept.execAmocas {d a b : Reg} {w : BitVec 1} (h : Kept r s) : OutKept r (execAmocas d a b w s) := by
  unfold Machine.execAmocas
  exact .atomic h

theorem OutKept.execAmofadd {d a b : Reg} (h : Kept r s) : OutKept r (execAmofadd d a b s) := by
  unfold Machine.execAmofadd
  exact .atomic h

/-! ### Branches, jumps and calls -/

theorem ResKept.jump {t : Word} {k : State → State} (h : Kept r s) (kk : ∀ (s : State), Kept r s → Kept r (k s)) :
    ResKept r (Kept r) (s.jump t k) := by
  unfold State.jump
  exact .ite (.ok ((kk _ h).complete)) .raiseAt

theorem OutKept.branch {n : Nat} {o : BitVec n} {taken : State → Bool} (h : Kept r s) : OutKept r (branch o taken s) := by
  unfold Machine.branch
  exact .withExt h (fun _ k => .ite (.jump k (fun _ k2 => k2)) (.ok k.retire))

theorem OutKept.execBeq {a b : Reg} {o : BitVec 16} (h : Kept r s) : OutKept r (execBeq a b o s) := by
  unfold Machine.execBeq
  exact .branch h

theorem OutKept.execBne {a b : Reg} {o : BitVec 16} (h : Kept r s) : OutKept r (execBne a b o s) := by
  unfold Machine.execBne
  exact .branch h

theorem OutKept.execBlt {a b : Reg} {o : BitVec 16} (h : Kept r s) : OutKept r (execBlt a b o s) := by
  unfold Machine.execBlt
  exact .branch h

theorem OutKept.execBge {a b : Reg} {o : BitVec 16} (h : Kept r s) : OutKept r (execBge a b o s) := by
  unfold Machine.execBge
  exact .branch h

theorem OutKept.execBltu {a b : Reg} {o : BitVec 11} (h : Kept r s) : OutKept r (execBltu a b o s) := by
  unfold Machine.execBltu
  exact .branch h

theorem OutKept.execBgeu {a b : Reg} {o : BitVec 11} (h : Kept r s) : OutKept r (execBgeu a b o s) := by
  unfold Machine.execBgeu
  exact .branch h

theorem OutKept.execJl {x : Reg} {o : BitVec 16} (h : Kept r s) : OutKept r (execJl x o s) := by
  unfold Machine.execJl
  exact .withExt h (fun _ k => .jump k (fun _ k2 => k2.setReg))

theorem OutKept.execJ {o : BitVec 26} (h : Kept r s) : OutKept r (execJ o s) := by
  unfold Machine.execJ
  exact .plain h (fun _ k => .jump k (fun _ k2 => k2))

theorem OutKept.execJr {a : Reg} (h : Kept r s) : OutKept r (execJr a s) := by
  unfold Machine.execJr
  exact .plain h (fun _ k => .jump k (fun _ k2 => k2))

theorem OutKept.callTo {target : State → Word} (h : Kept r s) : OutKept r (callTo target s) := by
  unfold Machine.callTo
  exact .plain h (fun _ k => .bind .ensure (fun _ _ => .bind .needIdleSequencer (fun _ _ => .ite .raiseAt (.ite .raiseAt (.ok
      k.setU.complete)))))

theorem OutKept.execCall {o : BitVec 26} (h : Kept r s) : OutKept r (execCall o s) := by
  unfold Machine.execCall
  exact .callTo h

theorem OutKept.execCallr {a : Reg} (h : Kept r s) : OutKept r (execCallr a s) := by
  unfold Machine.execCallr
  exact .callTo h

theorem OutKept.execRet (h : Kept r s) : OutKept r (execRet s) := by
  unfold Machine.execRet
  exact .plain h (fun _ k => .bind .ensure (fun _ _ => .bind .needIdleSequencer (fun _ _ => .ite .raise (.jump k (fun _ k2 =>
      k2.setU)))))

/-! ### Coherence messages -/

theorem Kept.mapDir {line : Nat} {f : DirEntry → DirEntry} (h : Kept r s) : Kept r (s.mapDir line f) :=
  h.moved (State.moves_mapDir ..)

theorem Kept.sendCoh {line source target : Nat} {m : Coh} (h : Kept r s) : Kept r (s.sendCoh line source target m) :=
  h.moved (State.moves_sendCoh ..)

theorem Kept.takeCoh {line : Nat} {p : CohMsg → Bool} (h : Kept r s) : OptKept (fun a => Kept r a.2) (s.takeCoh line p) := by
  unfold State.takeCoh
  dsimp only
  split
  · exact .none
  · refine .ite .none (.some ?_)
    exact h.fields

theorem Kept.maybeComp {line : Nat} (h : Kept r s) : Kept r (s.maybeComp line) :=
  h.moved (State.moves_maybeComp ..)

theorem Kept.answerSnoop {line d : Nat} {shared : Bool} (h : Kept r s) : Kept r (s.answerSnoop line d shared).2 :=
  h.moved (State.moves_answerSnoop ..)

theorem Kept.answerHost {line op attr : Nat} (h : Kept r s) : Kept r (s.answerHost line op attr) :=
  h.moved (State.moves_answerHost ..)

theorem Kept.snoopShared {line : Nat} (h : Kept r s) : Kept r (s.snoopShared line) :=
  h.moved (State.moves_snoopShared ..)

theorem Kept.snoopInv {line : Nat} (h : Kept r s) : Kept r (s.snoopInv line) :=
  h.moved (State.moves_snoopInv ..)

theorem Kept.hostSnoop {line : Nat} {inv : Bool} (h : Kept r s) : Kept r (s.hostSnoop line inv) := by
  unfold State.hostSnoop
  exact .ite h.answerHost (.ite h.setDie (.ite h.snoopInv h.snoopShared))

theorem Kept.serveHome {n : Nat} (h : Kept r s) : Kept r (s.serveHome n) :=
  h.moved (State.moves_serveHome ..)

theorem Kept.requestLine {x : LineReq} (h : Kept r s) : Kept r (s.requestLine x) :=
  h.moved (State.moves_requestLine ..)

theorem Kept.installLine {line : Nat} (h : Kept r s) : Kept r (s.installLine line) :=
  h.moved (State.moves_installLine ..)

theorem OutKept.execDrds (h : Kept r s) : OutKept r (execDrds s) := by
  unfold Machine.execDrds
  exact .next h.requestLine

theorem OutKept.execDrdx (h : Kept r s) : OutKept r (execDrdx s) := by
  unfold Machine.execDrdx
  exact .next h.requestLine

theorem OutKept.execDupg (h : Kept r s) : OutKept r (execDupg s) := by
  unfold Machine.execDupg
  exact .next h.requestLine

theorem OutKept.execDwb (h : Kept r s) : OutKept r (execDwb s) := by
  unfold Machine.execDwb
  exact .next h.requestLine

theorem OutKept.execDevict (h : Kept r s) : OutKept r (execDevict s) := by
  unfold Machine.execDevict
  exact .next h.requestLine

theorem Kept.forwardLine {m : CohMsg} {shared : Bool} (h : Kept r s) : Kept r (s.forwardLine m shared) := by
  unfold State.forwardLine
  exact h.answerSnoop.sendCoh.sendCoh

theorem OutKept.execDfwds (h : Kept r s) : OutKept r (execDfwds s) := by
  unfold Machine.execDfwds
  refine .next ?_
  split
  next is => exact (h.takeCoh.of_some is).forwardLine
  · exact h

theorem OutKept.execDfwdx (h : Kept r s) : OutKept r (execDfwdx s) := by
  unfold Machine.execDfwdx
  refine .next ?_
  split
  next is => exact (h.takeCoh.of_some is).forwardLine
  · exact h

theorem OutKept.execDinv (h : Kept r s) : OutKept r (execDinv s) := by
  unfold Machine.execDinv
  dsimp only
  refine .next ?_
  split
  next is => exact ((h.takeCoh.of_some is).answerSnoop).sendCoh
  · exact h

theorem Kept.answered1 {line d : Nat} {kept : LineState} {dirty : Bool} (h : Kept r s) : Kept r (s.answered1 line d kept dirty) :=
  h.moved (State.moves_answered1 ..)

theorem OutKept.execDrsp (h : Kept r s) : OutKept r (execDrsp s) := by
  unfold Machine.execDrsp
  refine .next ?_
  split
  next is => exact (h.takeCoh.of_some is).answered1
  · exact h

theorem OutKept.execDcomp (h : Kept r s) : OutKept r (execDcomp s) := by
  unfold Machine.execDcomp
  refine .next ?_
  split
  next is => exact ((h.takeCoh.of_some is).mapDir).installLine
  · exact h

theorem OutKept.execDdata (h : Kept r s) : OutKept r (execDdata s) := by
  unfold Machine.execDdata
  refine .next ?_
  split
  next is => exact (h.takeCoh.of_some is).answered1
  next is2 => exact ((h.takeCoh.of_some is2).mapDir).installLine
  · exact h

theorem OutKept.execDdone (h : Kept r s) : OutKept r (execDdone s) := by
  unfold Machine.execDdone
  refine .next (.ite h ?_)
  split
  next is =>
    split
    · exact ((h.takeCoh.of_some is).mapDir).serveHome
    · exact h.takeCoh.of_some is
  · exact h

theorem OutKept.execSnpShared (h : Kept r s) : OutKept r (execSnpShared s) := by
  unfold Machine.execSnpShared
  exact .next h.hostSnoop

theorem OutKept.execSnpInv (h : Kept r s) : OutKept r (execSnpInv s) := by
  unfold Machine.execSnpInv
  exact .next h.hostSnoop

theorem OutKept.execData (h : Kept r s) : OutKept r (execData s) := by
  unfold Machine.execData
  exact .ite (.next h.fields) (.next (.maybeComp (.sendCoh (.mapDir h.closeTx.setHostLine.fields))))

theorem OutKept.execCmp (h : Kept r s) : OutKept r (execCmp s) := by
  unfold Machine.execCmp
  exact .next (.ite h.closeTx.setHostLine.mapDir.maybeComp h.closeTx)

theorem OutKept.execWbAck (h : Kept r s) : OutKept r (execWbAck s) := by
  unfold Machine.execWbAck
  exact .next h.closeTx.setDie.serveHome

theorem OutKept.execAtomicRsp (h : Kept r s) : OutKept r (execAtomicRsp s) := by
  unfold Machine.execAtomicRsp
  dsimp only
  refine .next ?_
  split
  · exact h.fields
  · exact h.fields

theorem OutKept.execHostProtocolError (h : Kept r s) : OutKept r (execHostProtocolError s) := by
  unfold Machine.execHostProtocolError
  exact .next h.fields

theorem OutKept.execInval (h : Kept r s) : OutKept r (execInval s) := by
  unfold Machine.execInval
  exact .next h.shoot.fields

theorem Kept.endShootdown {i : Nat} (h : Kept r s) : Kept r (s.endShootdown i) := by
  unfold State.endShootdown
  dsimp only
  split
  · refine .as (fun _ => .retire (.refl ..)) (.fields ?_)
    split
    · exact h.shoot
    · exact h
  · refine .fields ?_
    split
    · exact h.shoot
    · exact h

theorem OutKept.execShootdownComplete (h : Kept r s) : OutKept r (execShootdownComplete s) := by
  unfold Machine.execShootdownComplete
  refine .next ?_
  split
  · exact .ite h h.endShootdown
  · exact h

theorem Kept.latchDie {d : Nat} {l : Latched} (h : Kept r s) : Kept r (s.latchDie d l) := by
  unfold State.latchDie
  exact .foldl (fun _ _ k => k.latchCore) h

theorem OutKept.execHostlinkFail (h : Kept r s) : OutKept r (execHostlinkFail s) := by
  unfold Machine.execHostlinkFail
  exact .next h.setDie.latchDie

theorem OutKept.execHostModuleFailover (h : Kept r s) : OutKept r (execHostModuleFailover s) := by
  unfold Machine.execHostModuleFailover
  exact .next h

theorem OutKept.execD2dFail (h : Kept r s) : OutKept r (execD2dFail s) := by
  unfold Machine.execD2dFail
  exact .next h.latchDie

theorem OutKept.execHostErrorAnswer (h : Kept r s) : OutKept r (execHostErrorAnswer s) := by
  unfold Machine.execHostErrorAnswer
  exact .next (.ite (.latch h.fields) (.ite (.takeTrap h.fields) h.fields))

/-! ### Errors of the hardware -/

theorem Kept.dropFlight {i : Nat} (h : Kept r s) : Kept r (s.dropFlight i) := by
  unfold State.dropFlight
  exact h.fields

theorem OutKept.execMeshUe (h : Kept r s) : OutKept r (execMeshUe s) := by
  unfold Machine.execMeshUe
  exact .next h.dropFlight.latchCore

theorem Kept.poisonAt {c array a : Nat} (h : Kept r s) : Kept r (s.poisonAt c array a) := by
  unfold State.poisonAt
  dsimp only
  split
  · exact h.setCore
  · exact h.setCore
  · exact h.setCore
  · exact h.setL2
  · exact h.setCore
  · exact h

theorem OutKept.execSramUe (h : Kept r s) : OutKept r (execSramUe s) := by
  unfold Machine.execSramUe
  exact .next h.poisonAt.latchCore

theorem OutKept.execAccUe (h : Kept r s) : OutKept r (execAccUe s) := by
  unfold Machine.execAccUe
  exact .next h.latchCore

theorem OutKept.execPaccUe (h : Kept r s) : OutKept r (execPaccUe s) := by
  unfold Machine.execPaccUe
  exact .next h.latchCore

theorem OutKept.execWbufUe (h : Kept r s) : OutKept r (execWbufUe s) := by
  unfold Machine.execWbufUe
  exact .next h.latchCore

theorem OutKept.execAbufParity (h : Kept r s) : OutKept r (execAbufParity s) := by
  unfold Machine.execAbufParity
  exact .next h.latchCore

theorem OutKept.execCbParity (h : Kept r s) : OutKept r (execCbParity s) := by
  unfold Machine.execCbParity
  exact .next h.latchCore

theorem OutKept.execRowBusCrc (h : Kept r s) : OutKept r (execRowBusCrc s) := by
  unfold Machine.execRowBusCrc
  exact .next h.latchCore

theorem OutKept.execClaspFault (h : Kept r s) : OutKept r (execClaspFault s) := by
  unfold Machine.execClaspFault
  exact .next h.latchCore

theorem Kept.noteParity {c i : Nat} (h : Kept r s) : Kept r (s.noteParity c i) := by
  unfold State.noteParity
  exact h.setCore

theorem OutKept.execRegParity (h : Kept r s) : OutKept r (execRegParity s) := by
  unfold Machine.execRegParity
  exact .next (.ite h.mismatch h.noteParity.latchCore)

theorem OutKept.execCorrectedError (h : Kept r s) : OutKept r (execCorrectedError s) := by
  unfold Machine.execCorrectedError
  exact .next h.fields

theorem Kept.discardLine {d line : Nat} (h : Kept r s) : Kept r (s.discardLine d line) := by
  unfold State.discardLine
  exact .ite h.invalidateDie.setDir.leaveHost h.invalidateDie.setDir

theorem Kept.sweepDie {d k : Nat} (h : Kept r s) : Kept r (s.sweepDie d k) := by
  unfold State.sweepDie
  exact .ite h (.fields (.foldl (fun _ _ k2 => k2.discardLine) h))

theorem OutKept.execKeySweepComplete (h : Kept r s) : OutKept r (execKeySweepComplete s) := by
  unfold Machine.execKeySweepComplete
  exact .next (.ite h.sweepDie h)

/-! ### Images of frozen queues -/

/-! ### Registration of queues -/

theorem Kept.bindSlot {k q : Nat} (h : Kept r s) : Kept r (s.bindSlot k q) := by
  unfold State.bindSlot
  exact .ite h h.fields

theorem Kept.clearWindow {base size : Nat} (h : Kept r s) : Kept r (s.clearWindow base size) := by
  unfold State.clearWindow
  exact h.fields

theorem Kept.register {bs : List Byte} (h : Kept r s) : OkKept (fun a => Kept r a.2) (s.register bs) := by
  unfold State.register
  dsimp only
  refine .ite .error (.ite .error ?_)
  split
  · refine .ok ?_
    exact h.clearWindow.bindSlot.fields
  · exact .error

/-! ### Images put back -/

theorem Kept.restoreLaunches {q : Nat} {j : Job} {im : List Byte} {p : State.Placement} (h : Kept r s) :
    Kept r (s.restoreLaunches q j im p).2 := by
  unfold State.restoreLaunches
  dsimp only
  refine .foldl_snd (fun _ _ k => ?_) ?_
  · split
    · dsimp only
      refine .ite ?_ (.setDie k.fields)
      split
      · exact k.fields
      · exact k.fields
    · exact k
  · exact h

theorem Kept.keepPhases {ids : List Nat} {old : List (Nat × Launch)} (h : Kept r s) : Kept r (s.keepPhases ids old) := by
  unfold State.keepPhases
  exact .foldl (fun _ _ k => k.mapLaunch) h

theorem Kept.restoreGraphs {q : Nat} {ids : List Nat} {old : AMap Graph} (h : Kept r s) : Kept r (s.restoreGraphs q ids old) := by
  unfold State.restoreGraphs
  dsimp only
  refine .foldl (fun _ _ k => ?_) h
  split
  · exact k.fields
  · exact k

theorem Kept.restoreTables {q : Nat} {j : Job} {im : List Byte} {ids : List Nat} {old : List (Nat × Launch)} (h : Kept r s) :
    Kept r (s.restoreTables q j im ids old) := by
  unfold State.restoreTables
  exact .foldl (fun _ _ k => .foldl (fun _ _ k2 => .ite k2.setDie k2) k) (.foldl (fun _ _ k => k.mapJob) (.foldl (fun _ _ k =>
      k.mapJob) (.foldl (fun _ _ k => k.fields) h)))

theorem Kept.restoreHandles {q : Nat} {j : Job} {im : List Byte} {ids : List Nat} (h : Kept r s) :
    Kept r (s.restoreHandles q j im ids) := by
  unfold State.restoreHandles
  dsimp only
  refine .foldl (fun _ _ k => .ite ?_ k.grant) (.foldl (fun _ _ k => k.setCore) h)
  split
  · exact k.grant.fields
  · exact k.grant

theorem Kept.restoreScratch {q : Nat} {im : List Byte} {p : State.Placement} (h : Kept r s) : Kept r (s.restoreScratch q im p) := by
  unfold State.restoreScratch
  exact .foldl (fun _ _ k => k.store.setCore) (.foldl (fun _ _ k => k.passCore.resplit) h)

theorem Kept.restoreStrand {q : Nat} {ids : List Nat} {im l : List Byte} (h : Kept r s) :
    Kept r (s.restoreStrand q ids im l).2 := by
  unfold State.restoreStrand
  dsimp only
  split
  · exact h
  · dsimp only
    refine .ite ?_ ?_
    · exact .joinMembers (.ite h.newUnit.placeStrand.setSlotAt.joinOdd h.newUnit.placeStrand.setSlotAt)
    · exact .ite h.newUnit.placeStrand.setSlotAt.joinOdd h.newUnit.placeStrand.setSlotAt

theorem Kept.restoreStrands {q : Nat} {ids : List Nat} {im : List Byte} (h : Kept r s) : Kept r (s.restoreStrands q ids im).2 := by
  unfold State.restoreStrands
  dsimp only
  refine .foldl_snd (fun _ _ k => ?_) ?_
  · exact k.restoreStrand
  · exact h

/-- Matrix state loaded piece by piece, as a strand that is no slot's. -/
theorem Kept.loadedParts {c i : Nat} {x : Core} {b4 b5 b6 b7 b9 : List Byte} (h : Kept r s) :
    let t := ((((s.zeroMatrix c).setCore c x).loadPiece 4 i 0 b4).loadPiece 5 i 0 b5)
    Kept r ((((t.loadRecord 6 i b6).getD t).loadPiece 7 i 0 b7).loadPiece 9 i 0 b9) :=
  have loaded := h.zeroMatrix.setCore.loadPiece.loadPiece
  (Kept.getD loaded.loadRecord loaded).loadPiece.loadPiece

theorem Kept.restoreParts {im : List Byte} {slots : List (Option (Nat × Nat))} (h : Kept r s) :
    Kept r (s.restoreParts im slots) := by
  unfold State.restoreParts
  refine .foldl (fun _ _ k => ?_) (.foldl (fun _ _ k => ?_) h)
  · split
    · exact k
    · exact .aside (.setStrandAt (.loadTimelines (.refl ..))) k
  · split
    · exact k
    · split
      · exact .aside (.loadedParts (.refl ..)) k
      · exact .setCore (.unparkMatrix (.parkMatrix (.aside (.loadedParts (.refl ..)) k.parkMatrix)))

theorem Kept.restoreMessages {q : Nat} {ids : List Nat} {im : List Byte} (h : Kept r s) : Kept r (s.restoreMessages q ids im) := by
  unfold State.restoreMessages
  exact .foldl (fun _ _ k => .ite k.setCore k.setCore) h

theorem Kept.restoreStarts {ids : List Nat} (h : Kept r s) : Kept r (s.restoreStarts ids) := by
  unfold State.restoreStarts
  dsimp only
  refine .foldl (fun _ _ k => ?_) h
  split
  · exact .ite k (.foldl (fun _ _ k2 => k2.setCore) k.mapLaunch)
  · exact k

theorem Kept.restoreDirty {j : Job} {im : List Byte} (h : Kept r s) : Kept r (s.restoreDirty j im) := by
  unfold State.restoreDirty
  dsimp only
  refine .ite h (.ite ?_ ?_)
  · exact .ite (.foldl (fun _ _ k => k.physStore.physStore) h) (.physStore (.foldl (fun _ _ k => k.physStore.physStore) h))
  · exact .foldl (fun _ _ k => k.physStore.physStore) h

theorem Kept.releaseStrands {slots : List (Option (Nat × Nat))} (h : Kept r s) : Kept r (s.releaseStrands slots) := by
  unfold State.releaseStrands
  exact .foldl (fun _ _ k => k.setSlotAt) (.dropCleanUntracked (.foldl (fun _ _ k => .resumeEngines (.ite k.setCore k)) h))

/-- The parts of an image put back in order, once its launches are. -/
theorem Kept.restoredParts {q : Nat} {ids : List Nat} {im : List Byte} {j : Job} {p : State.Placement} {graphs : AMap Graph}
    {launches : List (Nat × Launch)} {inPlace : Bool} (h : Kept r s) :
    let t := (((((if inPlace then s.keepPhases ids launches else s).restoreGraphs q ids graphs).restoreTables q j im ids
      launches).restoreScratch q im p).restoreHandles q j im ids).restoreStrands q ids im
    OptKept (Kept r) (if t.1.any (·.isNone) then none
      else some ((((if inPlace then (t.2.restoreParts im t.1).restoreMessages q ids im
        else ((t.2.restoreParts im t.1).restoreMessages q ids im).restoreDirty j im).restoreStarts ids).releaseStrands
          t.1).resendBounced (· == some q))) := by
  intro t
  have strands : Kept r t.2 :=
    .restoreStrands (.restoreHandles (.restoreScratch (.restoreTables (.restoreGraphs (.ite h.keepPhases h)))))
  clear_value t
  have messages := strands.restoreParts (im := im) (slots := t.1) |>.restoreMessages (q := q) (ids := ids) (im := im)
  exact .ite .none (.some (.resendBounced (.releaseStrands (.restoreStarts (.ite messages messages.restoreDirty)))))

theorem Kept.restoreJob {q : Nat} {bs im : List Byte} {p : State.Placement} {inPlace : Bool} (h : Kept r s) :
    OptKept (Kept r) (s.restoreJob q bs im p inPlace) := by
  delta State.restoreJob
  extract_lets old size base graphs launches s1 block g j1 j2 s2 s3
  have begun : Kept r s3 := .fields (.bindSlot (.clearWindow (.fields h)))
  clear_value s3 s2 j2 j1 g block s1 launches graphs base size old
  dsimp only
  exact .restoredParts begun.restoreLaunches

end

end Sys2Proof.Machine
end

section
/-!
PROOFS. Management, power, sideband, the scalar, vector and Span words: each operation keeps what `Kept` says.
-/

namespace Sys2Proof.Machine

section
variable {r : Origin} {s t u : State}

/-! ### Management requests -/

theorem Kept.answerRequest {status cause value : Nat} (h : Kept r s) : Kept r (s.answerRequest status cause value) := by
  unfold State.answerRequest
  exact .physStore h.physStore.fields

theorem Kept.requestDone (h : Kept r s) : Kept r s.requestDone := by
  unfold State.requestDone
  exact h.answerRequest

theorem Kept.refuseRequest {c : Cause} (h : Kept r s) : Kept r (s.refuseRequest c) := by
  unfold State.refuseRequest
  exact h.answerRequest

theorem Kept.serveRequest {op : Nat} {f : List Byte → State → State} (h : Kept r s) (kf : ∀ (l : List Byte) (s : State), Kept r
    s → Kept r (f l s)) :
    Kept r (s.serveRequest op f) := by
  unfold State.serveRequest
  split
  · exact .ite (kf _ _ h) h
  · exact h

theorem Kept.writeResult {a status cause length : Nat} (h : Kept r s) : Kept r (s.writeResult a status cause length) := by
  unfold State.writeResult
  exact h.physStore

theorem Kept.withdrawWork {q : Nat} (h : Kept r s) : Kept r (s.withdrawWork q) := by
  unfold State.withdrawWork
  exact h.fields

theorem Kept.beginFreeze {q : Nat} {place : Nat × Nat × Nat} (h : Kept r s) : Kept r (s.beginFreeze q place) := by
  unfold State.beginFreeze
  dsimp only
  refine .foldl (fun _ _ k => .ite k ?_) h.mapJob.withdrawWork
  split
  · exact k
  · exact k.latch

theorem Kept.rebuildWork {q : Nat} (h : Kept r s) : Kept r (s.rebuildWork q) := by
  unfold State.rebuildWork
  dsimp only
  refine .restoreStarts (.foldl (fun _ _ k => ?_) h)
  split
  · exact .ite k k.setDie
  · exact k

theorem Kept.returnMessages {xs : List (Nat × Nat × Msg)} (h : Kept r s) : Kept r (s.returnMessages xs) := by
  unfold State.returnMessages
  exact .foldl (fun _ _ k => .ite k.setCore k.setCore) h

theorem Kept.thawSlot {c i : Nat} (h : Kept r s) : Kept r (s.thawSlot c i) := by
  unfold State.thawSlot
  dsimp only
  split
  · exact h.setSlotAt.resumeEngines
  · exact h.setSlotAt

theorem Kept.thaw {q : Nat} (h : Kept r s) : Kept r (s.thaw q) := by
  unfold State.thaw
  dsimp only
  split
  · exact h
  · refine .resendBounced (.rebuildWork (.ite ?_ ?_))
    · exact .foldl (fun _ _ k => k.joinMinimum) (.foldl (fun _ _ k => k.thawSlot) h.mapJob.returnMessages)
    · exact .foldl (fun _ _ k => k.thawSlot) h.mapJob.returnMessages

theorem Kept.collectMessages {q : Nat} (h : Kept r s) : Kept r (s.collectMessages q) := by
  unfold State.collectMessages
  exact .mapJob h.fields

theorem Kept.publishAll {q : Nat} (h : Kept r s) : Kept r (s.publishAll q) := by
  unfold State.publishAll
  exact .foldl (fun _ _ k => k.flushUntracked.dropUntracked.setCore) h

theorem Kept.dropSlot {c i : Nat} (h : Kept r s) : Kept r (s.dropSlot c i) := by
  unfold State.dropSlot
  exact .setSlotAt (.setCore (.ite (.setSlotAt (.foldl (fun _ _ k => k.setCore) h)) (.foldl (fun _ _ k => k.setCore) h)))

theorem Kept.releaseCores {q : Nat} (h : Kept r s) : Kept r (s.releaseCores q) := by
  unfold State.releaseCores
  exact .dropShares (.mapJob (.fields (.foldl (fun _ _ k => k.chargeMeter) (.foldl (fun _ _ k => k.dropSlot) h))))

theorem Kept.finishFreeze {q : Nat} {place : Nat × Nat × Nat} (h : Kept r s) : Kept r (s.finishFreeze q place) := by
  unfold State.finishFreeze
  dsimp only
  split
  · exact h.collectMessages.publishAll
  · refine .ite ?_ ?_
    · exact .ite h.collectMessages.publishAll.thaw h.collectMessages.publishAll.writeResult.thaw.refuseRequest
    · refine .ite h.collectMessages.publishAll.physStore.releaseCores.mapJob.fields (.ite ?_ ?_)
      · exact h.collectMessages.publishAll.writeResult.thaw.requestDone
      · exact h.collectMessages.publishAll.physStore.writeResult.releaseCores.mapJob.requestDone

theorem Kept.dissolve {q : Nat} (h : Kept r s) : Kept r (s.dissolve q) := by
  unfold State.dissolve
  exact .dropShares (.mapJob h.fields)

theorem Kept.beginTeardown {q : Nat} (h : Kept r s) : Kept r (s.beginTeardown q) := by
  unfold State.beginTeardown
  exact .fields (.ite h.mapJob.dissolve h.mapJob.cancelJob)

theorem Kept.settleTeardown {q : Nat} (h : Kept r s) : Kept r (s.settleTeardown q) := by
  unfold State.settleTeardown
  exact .ite h.completeJob (.requestDone h.completeJob.fields)

theorem Kept.yieldFreeze (h : Kept r s) : Kept r s.yieldFreeze := by
  unfold State.yieldFreeze
  split
  · exact .ite h.writeResult.thaw.requestDone h
  · exact h

theorem OutKept.execRegister (h : Kept r s) : OutKept r (execRegister s) := by
  unfold Machine.execRegister
  dsimp only
  refine .next (.serveRequest h (fun _ _ k => ?_))
  split
  · exact k.refuseRequest
  next is => exact .answerRequest ((k.register.of_ok is).fields)

theorem OutKept.execTeardown (h : Kept r s) : OutKept r (execTeardown s) := by
  unfold Machine.execTeardown
  exact .next (h.yieldFreeze.serveRequest (fun _ _ k => .ite k.settleTeardown (.ite k.refuseRequest k.beginTeardown.settleTeardown)))

theorem OutKept.execFreeze (h : Kept r s) : OutKept r (execFreeze s) := by
  unfold Machine.execFreeze
  dsimp only
  refine .next (.serveRequest h (fun _ _ k => .ite k ?_))
  split
  · exact .ite k.writeResult.requestDone k.refuseRequest
  · exact .ite k.writeResult.refuseRequest (.beginFreeze k.fields)

theorem OutKept.execDrainComplete (h : Kept r s) : OutKept r (execDrainComplete s) := by
  unfold Machine.execDrainComplete
  refine .next ?_
  split
  · exact .ite h.finishFreeze h
  · exact h

theorem Kept.resumeImage {q : Nat} {blk : List Byte} {pa buffer : Nat} (h : Kept r s) :
    OkKept (Kept r) (s.resumeImage q blk pa buffer) := by
  unfold State.resumeImage
  dsimp only
  split
  · exact .error
  · split
    · exact .error
    · exact .error
    · refine .ite .error ?_
      split
      next is => exact .ok (h.restoreJob.of_some is)
      · exact .error

theorem OutKept.execResume (h : Kept r s) : OutKept r (execResume s) := by
  unfold Machine.execResume
  dsimp only
  refine .next (.serveRequest h (fun _ _ k => ?_))
  split
  · exact k.refuseRequest
  · split
    · exact k.writeResult.refuseRequest
    next is => exact ((k.resumeImage.of_ok is).writeResult).requestDone

theorem OutKept.execSpanRegion (h : Kept r s) : OutKept r (execSpanRegion s) := by
  unfold Machine.execSpanRegion
  exact .next (h.serveRequest (fun _ _ k => .ite k.refuseRequest (.ite k.refuseRequest (.ite k.refuseRequest (.requestDone
      k.fields)))))

theorem OutKept.execFwUpdate (h : Kept r s) : OutKept r (execFwUpdate s) := by
  unfold Machine.execFwUpdate
  exact .next (h.serveRequest (fun _ _ k => .ite k (.ite k.refuseRequest (.foldl (fun _ _ k2 => k2.beginFreeze) (.foldl (fun _ _
      k2 => k2.latchCore) k.fields)))))

theorem OutKept.execSpanJoin (h : Kept r s) : OutKept r (execSpanJoin s) := by
  unfold Machine.execSpanJoin
  exact .next (h.serveRequest (fun _ _ k => .ite k.refuseRequest (.ite k.refuseRequest (.requestDone k.fields))))

theorem OutKept.execFaultq (h : Kept r s) : OutKept r (execFaultq s) := by
  unfold Machine.execFaultq
  exact .next (h.serveRequest (fun _ _ k => .ite k.refuseRequest (.requestDone k.fields)))

theorem OutKept.execUnknownManagementOp (h : Kept r s) : OutKept r (execUnknownManagementOp s) := by
  unfold Machine.execUnknownManagementOp
  refine .next ?_
  split
  · exact .ite h h.refuseRequest
  · exact h

theorem OutKept.execSidebandRegisterWrite (h : Kept r s) : OutKept r (execSidebandRegisterWrite s) := by
  unfold Machine.execSidebandRegisterWrite
  dsimp only
  refine .next (.ite h ?_)
  split
  · exact h.fields
  · exact h.fields
  · exact h

/-! ### Power, boot and reset -/

theorem Kept.cold (h : Kept r s) (loose : r.stays = false) : Kept r s.cold := by
  exact h.goes loose fun wf => Memory.wf_filter wf _

theorem Kept.loadFirmware {firmware : List Byte} (h : Kept r s) : Kept r (s.loadFirmware firmware) := by
  unfold State.loadFirmware
  exact .foldl (fun _ _ k => k.store) h

theorem Kept.boot {b : Boot} (h : Kept r s) : Kept r (s.boot b) := by
  unfold State.boot
  dsimp only
  split
  · exact h.withBezel.fields
  · exact h.withBezel.loadFirmware.withBezel

theorem Kept.updated (h : Kept r s) (loose : r.stays = false) : Kept r s.updated := by
  unfold State.updated
  exact (h.cold loose).fields

theorem Kept.resumeUpdated {x : Nat × Nat × Nat} (h : Kept r s) : Kept r (s.resumeUpdated x) := by
  unfold State.resumeUpdated
  dsimp only
  split
  · exact h
  · split
    next is => exact h.resumeImage.of_ok is
    · exact h.mapJob.recordReason.dissolve.mapJob

theorem Kept.loseUnfrozen (h : Kept r s) : Kept r s.loseUnfrozen := by
  unfold State.loseUnfrozen
  exact .foldl (fun _ _ k => k.recordReason.dissolve.mapJob) h

theorem Kept.finishUpdate (h : Kept r s) : Kept r s.finishUpdate := by
  unfold State.finishUpdate
  exact .ite h.fields (.requestDone (.fields (.foldl (fun _ _ k => k.resumeUpdated) h.loseUnfrozen)))

theorem OutKept.execPowerOn (h : Kept r s) (loose : r.stays = false) : OutKept r (execPowerOn s) := by
  unfold Machine.execPowerOn
  exact .next ((h.cold loose).boot)

theorem OutKept.execReset (h : Kept r s) (loose : r.stays = false) : OutKept r (execReset s) := by
  unfold Machine.execReset
  exact .next (.ite ((((h.updated loose).boot).withBezel).finishUpdate) (((h.cold loose).boot).withBezel))

theorem OutKept.execPowerOff (h : Kept r s) (loose : r.stays = false) : OutKept r (execPowerOff s) := by
  unfold Machine.execPowerOff
  exact .next ((h.cold loose).withBezel)

theorem Kept.trip (h : Kept r s) (loose : r.stays = false) : Kept r s.trip := by
  unfold State.trip
  exact ((h.cold loose).withBezel).fields

theorem OutKept.execPowerMeasure (h : Kept r s) (loose : r.stays = false) : OutKept r (execPowerMeasure s) := by
  unfold Machine.execPowerMeasure
  exact .next (.ite (h.trip loose) h.withBezel)

theorem OutKept.execThermalTrip (h : Kept r s) (loose : r.stays = false) : OutKept r (execThermalTrip s) := by
  unfold Machine.execThermalTrip
  exact .next (h.trip loose)

theorem OutKept.execDieRetentionEntry (h : Kept r s) : OutKept r (execDieRetentionEntry s) := by
  unfold Machine.execDieRetentionEntry
  exact .next (.ite h.setDie h)

theorem OutKept.execDieRetentionExit (h : Kept r s) : OutKept r (execDieRetentionExit s) := by
  unfold Machine.execDieRetentionExit
  exact .next h.setDie

theorem Kept.zeroiseKeys (h : Kept r s) : Kept r s.zeroiseKeys := by
  unfold State.zeroiseKeys
  exact .fields (.foldl (fun _ _ k => k.killKey) h)

theorem Kept.cancelSealed (h : Kept r s) : Kept r s.cancelSealed := by
  unfold State.cancelSealed
  exact .ite h (.foldl (fun _ _ k => k.cancelJobFor) h)

theorem Kept.raiseAlarm (h : Kept r s) : Kept r s.raiseAlarm := by
  unfold State.raiseAlarm
  exact .cancelSealed (.foldl (fun _ _ k => k.latchCore) h.zeroiseKeys.withBezel)

theorem OutKept.execAlarm (h : Kept r s) : OutKept r (execAlarm s) := by
  unfold Machine.execAlarm
  exact .next h.raiseAlarm

/-! ### The SPDM responder -/

theorem Kept.withSpdm {f : Spdm → Spdm} (h : Kept r s) : Kept r (s.withSpdm f) := by
  unfold State.withSpdm
  exact h.fields

theorem Kept.sendResponse (h : Kept r s) : Kept r s.sendResponse := by
  unfold State.sendResponse
  exact .ite h.withSpdm h

theorem Kept.deliverRequest {req : List Byte} (h : Kept r s) : Kept r (s.deliverRequest req) := by
  unfold State.deliverRequest
  exact h.store.storeNum.storeNum.withSpdm

theorem Kept.respond {bs : List Byte} (h : Kept r s) : Kept r (s.respond bs) := by
  unfold State.respond
  exact h.store.storeNum.storeNum

theorem Kept.answerSpdm {what : Instr} {always : Bool} {f : List Byte → State → List Byte × State} (h : Kept r s) (kf : ∀ (l :
    List Byte) (s : State), Kept r s → Kept r (f l s).2) :
    Kept r (s.answerSpdm what always f) := by
  unfold State.answerSpdm
  exact .ite h (.ite h.withSpdm (.ite h.deliverRequest (.ite h.deliverRequest.respond ((kf _ _ h.deliverRequest).respond))))

theorem Kept.spdmCheck {checks : List (Bool × Nat)} {f : State → List Byte × State} (kf : ∀ (s : State), Kept r s → Kept r (f
    s).2) (h : Kept r s) :
    Kept r (State.spdmCheck checks f s).2 := by
  unfold State.spdmCheck
  split
  · exact h
  · exact kf _ h

theorem Kept.appendBoth {req bs : List Byte} (h : Kept r s) : Kept r (s.appendBoth req bs) := by
  unfold State.appendBoth
  exact h.withSpdm

theorem Kept.markVca (h : Kept r s) : Kept r s.markVca := by
  unfold State.markVca
  exact h.withSpdm

theorem OutKept.execGetVersion (h : Kept r s) : OutKept r (execGetVersion s) := by
  unfold Machine.execGetVersion
  dsimp only
  refine .next (.answerSpdm h (fun _ _ k => ?_))
  exact k.withSpdm.appendBoth

theorem OutKept.execGetCapabilities (h : Kept r s) : OutKept r (execGetCapabilities s) := by
  unfold Machine.execGetCapabilities
  refine .next (.answerSpdm h (fun _ _ k => .spdmCheck (fun _ k2 => ?_) k))
  exact k2.withSpdm.appendBoth

theorem OutKept.execNegotiateAlgorithms (h : Kept r s) : OutKept r (execNegotiateAlgorithms s) := by
  unfold Machine.execNegotiateAlgorithms
  dsimp only
  refine .next (.answerSpdm h (fun _ _ k => .spdmCheck (fun _ k2 => ?_) k))
  exact k2.withSpdm.appendBoth.markVca

theorem Kept.appendM {bs : List Byte} (h : Kept r s) : Kept r (s.appendM bs) := by
  unfold State.appendM
  exact h.withSpdm

theorem OutKept.execGetDigests (h : Kept r s) : OutKept r (execGetDigests s) := by
  unfold Machine.execGetDigests
  dsimp only
  refine .next (.answerSpdm h (fun _ _ k => .spdmCheck (fun _ k2 => ?_) k))
  exact k2.appendM

theorem OutKept.execGetCertificate (h : Kept r s) : OutKept r (execGetCertificate s) := by
  unfold Machine.execGetCertificate
  dsimp only
  refine .next (.answerSpdm h (fun _ _ k => .spdmCheck (fun _ k2 => ?_) k))
  exact k2.appendM

theorem Kept.nonce (h : Kept r s) : Kept r s.nonce.2 := by
  unfold State.nonce
  exact h.fields

theorem Kept.signedTail {ctx before reqCtx : List Byte} (h : Kept r s) : Kept r (s.signedTail ctx before reqCtx).2 := by
  unfold State.signedTail
  exact h.makeSignature.makeSignature

theorem OutKept.execChallenge (h : Kept r s) : OutKept r (execChallenge s) := by
  unfold Machine.execChallenge
  dsimp only
  refine .next (.answerSpdm h (fun _ _ k => .ite_snd k (.spdmCheck (fun _ k2 => ?_) k)))
  dsimp only
  exact k2.nonce.signedTail.withSpdm

theorem OutKept.execGetMeasurements (h : Kept r s) : OutKept r (execGetMeasurements s) := by
  unfold Machine.execGetMeasurements
  dsimp only
  refine .next (.answerSpdm h (fun _ _ k => (.ite_snd k (.spdmCheck (fun _ k2 => ?_) k))))
  split
  · dsimp only
    exact k2.nonce.signedTail.withSpdm
  · dsimp only
    exact k2.nonce.withSpdm

theorem OutKept.execKeyExchange (h : Kept r s) : OutKept r (execKeyExchange s) := by
  unfold Machine.execKeyExchange
  dsimp only
  refine .next (.answerSpdm h (fun _ _ k => .spdmCheck (fun _ k2 => ?_) k))
  dsimp only
  exact .withSpdm k2.nonce.signedTail.fields

theorem OutKept.execFinish (h : Kept r s) : OutKept r (execFinish s) := by
  unfold Machine.execFinish
  refine .next (.answerSpdm h (fun _ _ k => .spdmCheck (fun _ k2 => ?_) k))
  dsimp only
  exact k2.withSpdm

theorem OutKept.execEndSession (h : Kept r s) : OutKept r (execEndSession s) := by
  unfold Machine.execEndSession
  refine .next (.answerSpdm h (fun _ _ k => .spdmCheck (fun _ k2 => ?_) k))
  dsimp only
  exact k2.withSpdm

theorem OutKept.execLockInterface (h : Kept r s) : OutKept r (execLockInterface s) := by
  unfold Machine.execLockInterface
  refine .next (.answerSpdm h (fun _ _ k => .spdmCheck (fun _ k2 => ?_) k))
  dsimp only
  exact k2.withSpdm

theorem OutKept.execChannelOpen (h : Kept r s) : OutKept r (execChannelOpen s) := by
  unfold Machine.execChannelOpen
  dsimp only
  refine .next (.answerSpdm h (fun _ _ k => .spdmCheck (fun _ k2 => ?_) k))
  split
  · dsimp only
    exact .withSpdm k2.fields
  · dsimp only
    exact k2

theorem OutKept.execUnsupportedRequest (h : Kept r s) : OutKept r (execUnsupportedRequest s) := by
  unfold Machine.execUnsupportedRequest
  refine .next (.answerSpdm h (fun _ _ k => .spdmCheck (fun _ k2 => ?_) k))
  exact k2

theorem Kept.takeRecord {x : ChannelRecord} (h : Kept r s) : Kept r (s.takeRecord x) := by
  unfold State.takeRecord
  dsimp only
  split
  · exact h
  · exact .ite h.physStore.fields h.fields

theorem Kept.sendRecord {n : Nat} (h : Kept r s) : Kept r (s.sendRecord n) := by
  unfold State.sendRecord
  dsimp only
  split
  · exact h
  · exact .ite h h.physStore.fields

theorem OutKept.execChannelRecord (h : Kept r s) : OutKept r (execChannelRecord s) := by
  unfold Machine.execChannelRecord
  exact .next (.ite h.sendRecord h.takeRecord)

/-! ### The debug port -/

theorem Kept.tap {ir : Nat} {out : List Byte} (h : Kept r s) : Kept r (s.tap ir out) := by
  unfold State.tap
  exact h.fields

theorem Kept.debugHalt {x : DebugRequest} (h : Kept r s) : Kept r (s.debugHalt x) := by
  unfold State.debugHalt
  dsimp only
  split
  · exact h.setCore
  · exact .ite h.setCore.setSlotAt h.setCore.tap
  · exact h.setCore.latch

theorem Kept.debugRelease (h : Kept r s) : Kept r s.debugRelease := by
  unfold State.debugRelease
  dsimp only
  refine .fields (.foldl (fun _ _ k => ?_) h)
  split
  · exact k.setSlotAt
  · exact k

theorem Kept.eraseCore {c : Nat} (h : Kept r s) : Kept r (s.eraseCore c) := by
  unfold State.eraseCore
  exact h.wipe.wipe.zeroMatrix.dropUntracked.setCore

theorem Kept.frost (h : Kept r s) : Kept r s.frost := by
  unfold State.frost
  dsimp only
  exact .withBezel (.fields (.ite (.foldl (fun _ _ k => k.eraseCore) h.zeroiseKeys) h))

theorem OutKept.execIdcode (h : Kept r s) : OutKept r (execIdcode s) := by
  unfold Machine.execIdcode
  exact .next h.tap

theorem OutKept.execAuth (h : Kept r s) : OutKept r (execAuth s) := by
  unfold Machine.execAuth
  exact .next h.tap.fields

theorem OutKept.execDbgReq (h : Kept r s) : OutKept r (execDbgReq s) := by
  unfold Machine.execDbgReq
  dsimp only
  refine .next (.ite (.tap h.draw.fields) ?_)
  split
  · exact .fields (.debugRelease (.tap h.draw.fields))
  · exact .fields (.tap (.ite (.setDie (.tap h.draw.fields)) (.tap h.draw.fields)))
  · exact .ite (.fields (.debugHalt (.ite (.setDie (.tap h.draw.fields)) (.tap h.draw.fields)))) (.tap h.draw.fields)
  · exact .frost (.tap h.draw.fields)

theorem OutKept.execFrostEnter (h : Kept r s) : OutKept r (execFrostEnter s) := by
  unfold Machine.execFrostEnter
  exact .next h.tap.frost

theorem OutKept.execScanSelect (h : Kept r s) : OutKept r (execScanSelect s) := by
  unfold Machine.execScanSelect
  exact .next h.tap.fields

theorem OutKept.execScanRead (h : Kept r s) : OutKept r (execScanRead s) := by
  unfold Machine.execScanRead
  exact .next (.ite h.draw.tap h.tap)

theorem OutKept.execBypass (h : Kept r s) : OutKept r (execBypass s) := by
  unfold Machine.execBypass
  exact .next (.ite h.tap.raiseAlarm h.tap)

/-! ### Scalar floating point -/

theorem OutKept.floatOp {d : Reg} {f : State → Nat × Nat} (h : Kept r s) : OutKept r (floatOp d f s) := by
  unfold Machine.floatOp
  exact .plain h (fun _ k => .withFlags k (fun _ k2 => k2.setReg))

theorem OutKept.execFadd {d a b : Reg} (h : Kept r s) : OutKept r (execFadd d a b s) := by
  unfold Machine.execFadd
  exact .floatOp h

theorem OutKept.execFsub {d a b : Reg} (h : Kept r s) : OutKept r (execFsub d a b s) := by
  unfold Machine.execFsub
  exact .floatOp h

theorem OutKept.execFmul {d a b : Reg} (h : Kept r s) : OutKept r (execFmul d a b s) := by
  unfold Machine.execFmul
  exact .floatOp h

theorem OutKept.execFfma {d a b : Reg} (h : Kept r s) : OutKept r (execFfma d a b s) := by
  unfold Machine.execFfma
  exact .floatOp h

theorem OutKept.execFdiv {d a b : Reg} (h : Kept r s) : OutKept r (execFdiv d a b s) := by
  unfold Machine.execFdiv
  exact .floatOp h

theorem OutKept.execFsqrt {d a : Reg} (h : Kept r s) : OutKept r (execFsqrt d a s) := by
  unfold Machine.execFsqrt
  exact .floatOp h

theorem OutKept.execFmin {d a b : Reg} (h : Kept r s) : OutKept r (execFmin d a b s) := by
  unfold Machine.execFmin
  exact .floatOp h

theorem OutKept.execFmax {d a b : Reg} (h : Kept r s) : OutKept r (execFmax d a b s) := by
  unfold Machine.execFmax
  exact .floatOp h

theorem OutKept.execFcmp {d a b : Reg} {p : BitVec 2} (h : Kept r s) : OutKept r (execFcmp d a b p s) := by
  unfold Machine.execFcmp
  exact .floatOp h

theorem OutKept.execFcvtif {d a : Reg} {m : BitVec 2} (h : Kept r s) : OutKept r (execFcvtif d a m s) := by
  unfold Machine.execFcvtif
  exact .floatOp h

theorem OutKept.execFcvtfi {d a : Reg} {m : BitVec 3} (h : Kept r s) : OutKept r (execFcvtfi d a m s) := by
  unfold Machine.execFcvtfi
  exact .plain h (fun _ k => .withFlags k (fun _ k2 => k2.setReg))

/-! ### Scalar memory words -/

theorem ResKept.scalarAccess {k : AccessKind} {va : Word} {n : Nat} : ResKept r (fun _ => True) (s.scalarAccess k va n) := by
  unfold State.scalarAccess
  exact .bind .attrs (fun _ _ => .bind .istorePrivilege (fun _ _ => .bind .attrCheck (fun _ _ => .ite .raiseAt (.ok trivial))))

theorem OutKept.scalarLoad {d a : Reg} {o : BitVec 13} {n : Nat} {f : Nat → Word} (h : Kept r s) :
    OutKept r (scalarLoad d a o n f s) := by
  unfold Machine.scalarLoad
  exact .withBoth h (fun _ k => .bind .scalarAccess (fun _ _ => .bind .aligned (fun _ _ => .bind (.loadAccess k) (fun _ k2 => .ok
      k2.setReg.retire))))

theorem OutKept.scalarStore {x a : Reg} {o : BitVec 13} {n : Nat} (h : Kept r s) : OutKept r (scalarStore x a o n s) := by
  unfold Machine.scalarStore
  exact .withBoth h (fun _ k => .bind .scalarAccess (fun _ _ => .bind .aligned (fun _ _ => .bind (.storeAccess k) (fun _ k2 => .ok
      k2.retire))))

theorem OutKept.execLdb {d a : Reg} {o : BitVec 13} (h : Kept r s) : OutKept r (execLdb d a o s) := by
  unfold Machine.execLdb
  exact .scalarLoad h

theorem OutKept.execLdbu {d a : Reg} {o : BitVec 13} (h : Kept r s) : OutKept r (execLdbu d a o s) := by
  unfold Machine.execLdbu
  exact .scalarLoad h

theorem OutKept.execLdh {d a : Reg} {o : BitVec 13} (h : Kept r s) : OutKept r (execLdh d a o s) := by
  unfold Machine.execLdh
  exact .scalarLoad h

theorem OutKept.execLdhu {d a : Reg} {o : BitVec 13} (h : Kept r s) : OutKept r (execLdhu d a o s) := by
  unfold Machine.execLdhu
  exact .scalarLoad h

theorem OutKept.execLdw {d a : Reg} {o : BitVec 13} (h : Kept r s) : OutKept r (execLdw d a o s) := by
  unfold Machine.execLdw
  exact .scalarLoad h

theorem OutKept.execLdwu {d a : Reg} {o : BitVec 13} (h : Kept r s) : OutKept r (execLdwu d a o s) := by
  unfold Machine.execLdwu
  exact .scalarLoad h

theorem OutKept.execLdd {d a : Reg} {o : BitVec 13} (h : Kept r s) : OutKept r (execLdd d a o s) := by
  unfold Machine.execLdd
  exact .scalarLoad h

theorem OutKept.execStb {x a : Reg} {o : BitVec 13} (h : Kept r s) : OutKept r (execStb x a o s) := by
  unfold Machine.execStb
  exact .scalarStore h

theorem OutKept.execSth {x a : Reg} {o : BitVec 13} (h : Kept r s) : OutKept r (execSth x a o s) := by
  unfold Machine.execSth
  exact .scalarStore h

theorem OutKept.execStw {x a : Reg} {o : BitVec 13} (h : Kept r s) : OutKept r (execStw x a o s) := by
  unfold Machine.execStw
  exact .scalarStore h

theorem OutKept.execStd {x a : Reg} {o : BitVec 13} (h : Kept r s) : OutKept r (execStd x a o s) := by
  unfold Machine.execStd
  exact .scalarStore h

theorem OutKept.execFence {p c : BitVec 3} (h : Kept r s) : OutKept r (execFence p c s) := by
  unfold Machine.execFence
  exact .plain h (fun _ k => .ite (.bind (.performHeld k) (fun _ k2 => .ok k2.retire)) (.bind (P := Kept r) (.ok k) (fun _ k2 =>
      .ok k2.retire)))

theorem OutKept.execWaita {d a b : Reg} {w : BitVec 1} (h : Kept r s) : OutKept r (execWaita d a b w s) := by
  unfold Machine.execWaita
  exact .withMod h (fun _ k => .bind .attrs (fun _ _ => .bind .istorePrivilege (fun _ _ => .bind .needResident (fun _ _ => .bind
      .attrCheck (fun _ _ => .bind .aligned (fun _ _ => .bind (.resolve k) (fun _ k2 => .bind (.refuseUntracked k2) (fun _ _ =>
      .bind (.commitPoint k2) (fun _ k3 => .ite (.error (.wait k3.readAccess)) (.ok k3.readAccess.setReg.retire))))))))))

theorem ResKept.rangeChecks {t : Attr} {c a b : Word} : ResKept r (fun _ => True) (s.rangeChecks t c a b) := by
  unfold State.rangeChecks
  exact .bind .istorePrivilege (fun _ _ => .bind .attrCheck (fun _ _ => .ite .raiseAt (.ite .raiseAt (.ite .raiseAt (.ok trivial)))))

theorem ResKept.rangeCommand {invalidate : Bool} {c a b : Word} (h : Kept r s) :
    ResKept r (Kept r) (s.rangeCommand invalidate c a b) := by
  unfold State.rangeCommand
  exact .bind .attrs (fun _ _ => .bind .rangeChecks (fun _ _ => .bind (.resolve h) (fun _ k => .ite (.error (.ite (.trap k)
      (.wait k))) (.bind (.emit k) (fun _ k2 => .ok k2.engineIssued.retire)))))

theorem OutKept.execFlushr {c a b : Reg} (h : Kept r s) : OutKept r (execFlushr c a b s) := by
  unfold Machine.execFlushr
  exact .withMod h (fun _ k => .rangeCommand k)

theorem OutKept.execInvr {c a b : Reg} (h : Kept r s) : OutKept r (execInvr c a b s) := by
  unfold Machine.execInvr
  exact .withMod h (fun _ k => .rangeCommand k)

theorem Kept.prefetch {g : Segment} {intent : Nat} (h : Kept r s) : Kept r (s.prefetch g intent) := by
  unfold State.prefetch
  exact .ite (.markLine (.ite h.untrackedPiece (.ite h.own h.touch))) (.ite h.untrackedPiece (.ite h.own h.touch))

theorem OutKept.execPref {a : Reg} {i : BitVec 2} (h : Kept r s) : OutKept r (execPref a i s) := by
  unfold Machine.execPref
  dsimp only
  refine .withMod h (fun _ k => .bind .attrs fun _ _ => ?_)
  refine .ite (.ok k.retire) ?_
  split
  next is => exact .ok ((k.translate.snd is).retire)
  next is => exact .ok (((k.translate.snd is).prefetch).retire)

/-! ### The repetition buffer -/

theorem OutKept.execRepb {n : BitVec 5} (h : Kept r s) : OutKept r (execRepb n s) := by
  unfold Machine.execRepb
  dsimp only
  refine .plainWhere h (fun _ k => .bind .needResident fun _ _ => ?_)
  refine .bind .ensure fun _ _ => ?_
  split
  · exact .raiseAt
  · exact .ite .raiseAt (.ok k.setU.complete)

theorem OutKept.execRepe {a : Reg} {g : BitVec 5} (h : Kept r s) : OutKept r (execRepe a g s) := by
  unfold Machine.execRepe
  exact .plainWhere h (fun _ k => .bind .needResident (fun _ _ => .bind .ensure (fun _ _ => .ok k.setU.retire)))

theorem OutKept.execRepwait (h : Kept r s) : OutKept r (execRepwait s) := by
  unfold Machine.execRepwait
  exact .plainWhere h (fun _ k => .bind .needResident (fun _ _ => .bind .awaitSequencer (fun _ _ => .ok k.setU.retire)))

theorem Kept.bodyTrap {old : Slot} {queues : Vector Queue 8} (h : Kept r t) : OptKept (Kept r) (State.bodyTrap old queues t) := by
  unfold State.bodyTrap
  exact .ite .none (.some h.setSlot)

theorem Kept.endGroup {old : Slot} (h : Kept r t) : OptKept (Kept r) (State.endGroup old t) := by
  unfold State.endGroup
  exact .ite (.some h) (.ite .none h.setSlot.trap.bodyTrap)

theorem Kept.bodyGroup {run : Instr → State → Out} {old : Slot} {n k : Nat} (krun : ∀ (x : Instr) (s : State), Kept r s →
    OutKept r (run x s)) (h : Kept r s) :
    OptKept (Kept r) (State.bodyGroup run old n k s) := by
  induction n generalizing k s with
  | zero =>
    unfold State.bodyGroup
    exact .none
  | succ n ih =>
    unfold State.bodyGroup
    dsimp only
    split
    · exact .none
    · split
      next is =>
        refine .ite (((krun _ _ h.setU).of_next is).bodyTrap) ?_
        split
        · exact .some (((krun _ _ h.setU).of_next is).setSlot)
        · exact .ite (ih (((krun _ _ h.setU).of_next is).setU)) ((((krun _ _ h.setU).of_next is).setSlot).endGroup)
      · exact .none

theorem Kept.sequence {run : Instr → State → Out} {c i : Nat} (krun : ∀ q x t, q.stays = false → Kept q t → OutKept q (run x t))
    (h : Kept r s) : OptKept (Kept r) (State.sequence run s c i) := by
  unfold State.sequence
  dsimp only
  refine .ite .none ?_
  intro t is
  obtain ⟨u, issued, rfl⟩ := Option.map_eq_some_iff.1 is
  let start : State := { s with cur := (c, i) }
  have group := (Kept.bodyGroup (fun x t => krun ⟨start, false⟩ x t rfl) (Kept.setSlot (.refl start _))).of_some issued
  exact h.step rfl group.canonical

/-! ### Scalar integers -/

theorem OutKept.binary {d a b : Reg} {f : Word → Word → Word} (h : Kept r s) : OutKept r (binary d a b f s) := by
  unfold Machine.binary
  exact .plain h (fun _ k => .ok k.setReg.retire)

theorem OutKept.unary {d a : Reg} {f : Word → Word} (h : Kept r s) : OutKept r (unary d a f s) := by
  unfold Machine.unary
  exact .plain h (fun _ k => .ok k.setReg.retire)

theorem OutKept.immediate {d a : Reg} {i : BitVec 16} {f : Word → Word → Word} (h : Kept r s) :
    OutKept r (immediate d a i f s) := by
  unfold Machine.immediate
  exact .withExt h (fun _ k => .ok k.setReg.retire)

theorem OutKept.logicalImmediate {d a : Reg} {i : BitVec 16} {f : Word → Word → Word} (h : Kept r s) :
    OutKept r (logicalImmediate d a i f s) := by
  unfold Machine.logicalImmediate
  exact .withExt h (fun _ k => .ok k.setReg.retire)

theorem OutKept.execAdd {d a b : Reg} (h : Kept r s) : OutKept r (execAdd d a b s) := by
  unfold Machine.execAdd
  exact .binary h

theorem OutKept.execSub {d a b : Reg} (h : Kept r s) : OutKept r (execSub d a b s) := by
  unfold Machine.execSub
  exact .binary h

theorem OutKept.execAnd {d a b : Reg} (h : Kept r s) : OutKept r (execAnd d a b s) := by
  unfold Machine.execAnd
  exact .binary h

theorem OutKept.execOr {d a b : Reg} (h : Kept r s) : OutKept r (execOr d a b s) := by
  unfold Machine.execOr
  exact .binary h

theorem OutKept.execXor {d a b : Reg} (h : Kept r s) : OutKept r (execXor d a b s) := by
  unfold Machine.execXor
  exact .binary h

theorem OutKept.execAndn {d a b : Reg} (h : Kept r s) : OutKept r (execAndn d a b s) := by
  unfold Machine.execAndn
  exact .binary h

theorem OutKept.execShl {d a b : Reg} (h : Kept r s) : OutKept r (execShl d a b s) := by
  unfold Machine.execShl
  exact .binary h

theorem OutKept.execShr {d a b : Reg} (h : Kept r s) : OutKept r (execShr d a b s) := by
  unfold Machine.execShr
  exact .binary h

theorem OutKept.execSra {d a b : Reg} (h : Kept r s) : OutKept r (execSra d a b s) := by
  unfold Machine.execSra
  exact .binary h

theorem OutKept.execRot {d a b : Reg} (h : Kept r s) : OutKept r (execRot d a b s) := by
  unfold Machine.execRot
  exact .binary h

theorem OutKept.execClz {d a : Reg} (h : Kept r s) : OutKept r (execClz d a s) := by
  unfold Machine.execClz
  exact .unary h

theorem OutKept.execCtz {d a : Reg} (h : Kept r s) : OutKept r (execCtz d a s) := by
  unfold Machine.execCtz
  exact .unary h

theorem OutKept.execPopc {d a : Reg} (h : Kept r s) : OutKept r (execPopc d a s) := by
  unfold Machine.execPopc
  exact .unary h

theorem OutKept.execMin {d a b : Reg} (h : Kept r s) : OutKept r (execMin d a b s) := by
  unfold Machine.execMin
  exact .binary h

theorem OutKept.execMax {d a b : Reg} (h : Kept r s) : OutKept r (execMax d a b s) := by
  unfold Machine.execMax
  exact .binary h

theorem OutKept.execMinu {d a b : Reg} (h : Kept r s) : OutKept r (execMinu d a b s) := by
  unfold Machine.execMinu
  exact .binary h

theorem OutKept.execMaxu {d a b : Reg} (h : Kept r s) : OutKept r (execMaxu d a b s) := by
  unfold Machine.execMaxu
  exact .binary h

theorem OutKept.execSel {d a b : Reg} (h : Kept r s) : OutKept r (execSel d a b s) := by
  unfold Machine.execSel
  exact .plain h (fun _ k => .ok k.setReg.retire)

theorem OutKept.execCmpeq {d a b : Reg} (h : Kept r s) : OutKept r (execCmpeq d a b s) := by
  unfold Machine.execCmpeq
  exact .binary h

theorem OutKept.execCmplt {d a b : Reg} (h : Kept r s) : OutKept r (execCmplt d a b s) := by
  unfold Machine.execCmplt
  exact .binary h

theorem OutKept.execCmpltu {d a b : Reg} (h : Kept r s) : OutKept r (execCmpltu d a b s) := by
  unfold Machine.execCmpltu
  exact .binary h

theorem OutKept.execAddi {d a : Reg} {i : BitVec 16} (h : Kept r s) : OutKept r (execAddi d a i s) := by
  unfold Machine.execAddi
  exact .immediate h

theorem OutKept.execAndi {d a : Reg} {i : BitVec 16} (h : Kept r s) : OutKept r (execAndi d a i s) := by
  unfold Machine.execAndi
  exact .logicalImmediate h

theorem OutKept.execOri {d a : Reg} {i : BitVec 16} (h : Kept r s) : OutKept r (execOri d a i s) := by
  unfold Machine.execOri
  exact .logicalImmediate h

theorem OutKept.execXori {d a : Reg} {i : BitVec 16} (h : Kept r s) : OutKept r (execXori d a i s) := by
  unfold Machine.execXori
  exact .logicalImmediate h

theorem OutKept.execShli {d a : Reg} {n : BitVec 6} (h : Kept r s) : OutKept r (execShli d a n s) := by
  unfold Machine.execShli
  exact .unary h

theorem OutKept.execShri {d a : Reg} {n : BitVec 6} (h : Kept r s) : OutKept r (execShri d a n s) := by
  unfold Machine.execShri
  exact .unary h

theorem OutKept.execSrai {d a : Reg} {n : BitVec 6} (h : Kept r s) : OutKept r (execSrai d a n s) := by
  unfold Machine.execSrai
  exact .unary h

theorem OutKept.execCmpeqi {d a : Reg} {i : BitVec 16} (h : Kept r s) : OutKept r (execCmpeqi d a i s) := by
  unfold Machine.execCmpeqi
  exact .immediate h

theorem OutKept.execCmplti {d a : Reg} {i : BitVec 16} (h : Kept r s) : OutKept r (execCmplti d a i s) := by
  unfold Machine.execCmplti
  exact .immediate h

theorem OutKept.execMovhi {d : Reg} {i : BitVec 16} (h : Kept r s) : OutKept r (execMovhi d i s) := by
  unfold Machine.execMovhi
  exact .withExt h (fun _ k => .ok k.setReg.retire)

theorem OutKept.execAddpc {d : Reg} {i : BitVec 16} (h : Kept r s) : OutKept r (execAddpc d i s) := by
  unfold Machine.execAddpc
  exact .withExt h (fun _ k => .ok k.setReg.retire)

theorem OutKept.execMul {d a b : Reg} (h : Kept r s) : OutKept r (execMul d a b s) := by
  unfold Machine.execMul
  exact .binary h

theorem OutKept.execMulh {d a b : Reg} (h : Kept r s) : OutKept r (execMulh d a b s) := by
  unfold Machine.execMulh
  exact .binary h

theorem OutKept.execMulhu {d a b : Reg} (h : Kept r s) : OutKept r (execMulhu d a b s) := by
  unfold Machine.execMulhu
  exact .binary h

theorem OutKept.execDiv {d a b : Reg} (h : Kept r s) : OutKept r (execDiv d a b s) := by
  unfold Machine.execDiv
  exact .binary h

theorem OutKept.execDivu {d a b : Reg} (h : Kept r s) : OutKept r (execDivu d a b s) := by
  unfold Machine.execDivu
  exact .binary h

theorem OutKept.execRem {d a b : Reg} (h : Kept r s) : OutKept r (execRem d a b s) := by
  unfold Machine.execRem
  exact .binary h

theorem OutKept.execRemu {d a b : Reg} (h : Kept r s) : OutKept r (execRemu d a b s) := by
  unfold Machine.execRemu
  exact .binary h

/-! ### The Span -/

theorem Kept.spanLost (h : Kept r s) : Kept r s.spanLost := by
  unfold State.spanLost
  exact .foldl (fun _ _ k => k.latchCore) h.withSpan

theorem Kept.mapPage {n : Nat} {f : SpanPage → SpanPage} (h : Kept r s) : Kept r (s.mapPage n f) := by
  unfold State.mapPage
  split
  · exact h.withSpan
  · exact h

theorem Kept.recallPage {pa : Nat} {write : Bool} (h : Kept r s) : Kept r (s.recallPage pa write) := by
  unfold State.recallPage
  exact .foldl (fun _ _ k => .ite k.evictLine (.foldl (fun _ _ k2 => k2.cleanDie) (.foldl (fun _ _ k2 => k2.recallL1s) k))) h

theorem Kept.commitFrame {pa : Nat} (h : Kept r s) : Kept r (s.commitFrame pa) := by
  unfold State.commitFrame
  exact .foldl (fun _ _ k => .ite k.commit k) h

theorem Kept.handOver {n : Nat} {write : Bool} (h : Kept r s) : Kept r (s.handOver n write) := by
  unfold State.handOver
  dsimp only
  split
  · exact h
  · refine .sendSpan (.mapPage ?_)
    split
    · exact h.recallPage
    · exact h

theorem Kept.servePage {n : Nat} (h : Kept r s) : Kept r (s.servePage n) := by
  unfold State.servePage
  dsimp only
  split
  · exact h
  · split
    · exact h
    · refine .ite h ?_
      split
      · exact h.mapPage.handOver
      · exact .ite h.mapPage.commitFrame h.mapPage.commitFrame.handOver

theorem Kept.fillPage {n : Nat} {bs : List Byte} (h : Kept r s) : Kept r (s.fillPage n bs) := by
  unfold State.fillPage
  split
  · exact h.recallPage.physStore
  · exact h

theorem Kept.takePageData {n : Nat} {bs : List Byte} (h : Kept r s) : Kept r (s.takePageData n bs) := by
  unfold State.takePageData
  dsimp only
  split
  · exact h
  · exact .ite h (.ite h.mapPage (.ite h.mapPage h.fillPage.mapPage))

theorem Kept.atomicDone {c i old : Nat} (h : Kept r s) : Kept r (s.atomicDone c i old) := by
  unfold State.atomicDone
  dsimp only
  split
  · exact .as (fun _ => .retire (.setReg (.refl ..))) h.mapPage
  · exact h

theorem Kept.atomicRefused {c i : Nat} {here : Bool} (h : Kept r s) : Kept r (s.atomicRefused c i here) := by
  unfold State.atomicRefused
  dsimp only
  split
  · exact h.mapPage.setSlotAt
  · exact h

theorem Kept.takeMessage {address : Nat} {job : Option Nat} {bs : List Byte} (h : Kept r s) :
    Kept r (s.takeMessage address job bs) := by
  unfold State.takeMessage
  exact .ite h.withSpan.latchCore (.ite h.sendSpan h.fields)

theorem Kept.takePayload {f : SpanFlit} (h : Kept r s) : Kept r (s.takePayload f) := by
  unfold State.takePayload
  split
  · exact h.takePageData
  · exact h.takeMessage
  · exact .ite h.atomicDone h.atomicRefused
  · exact h

theorem Kept.takeFlit {f : SpanFlit} (h : Kept r s) : Kept r (s.takeFlit f) := by
  unfold State.takeFlit
  dsimp only
  refine .ite h (.ite ?_ ?_)
  · exact .ite h.withSpan.fields h.withSpan
  · exact .ite h.withSpan (.ite h.withSpan (.ite h.withSpan.withSpan.spanLost h.withSpan.takePayload))

theorem OutKept.execSpanFlit (h : Kept r s) : OutKept r (execSpanFlit s) := by
  unfold Machine.execSpanFlit
  exact .next h.takeFlit

theorem OutKept.execSpanRetrain (h : Kept r s) : OutKept r (execSpanRetrain s) := by
  unfold Machine.execSpanRetrain
  exact .next h.spanLost

theorem OutKept.execPageReq (h : Kept r s) : OutKept r (execPageReq s) := by
  unfold Machine.execPageReq
  dsimp only
  refine .next (.ite h.askPage ?_)
  split
  · exact .ite h h.mapPage.servePage
  · exact h

theorem Kept.homePerforms {a : SpanAtomic} (h : Kept r s) : Kept r (s.homePerforms a) := by
  unfold State.homePerforms
  exact h.homeAccess.sendSpan

theorem Kept.takeAtomic {a : SpanAtomic} (h : Kept r s) : Kept r (s.takeAtomic a) := by
  unfold State.takeAtomic
  exact .ite (.ite h.withSpan h.homePerforms) (.ite h.askPage.withSpan h.sendSpan)

theorem Kept.serveAtomic (h : Kept r s) : Kept r s.serveAtomic := by
  unfold State.serveAtomic
  split
  · exact h
  · exact h.withSpan.takeAtomic

theorem OutKept.execSpanAtomic (h : Kept r s) : OutKept r (execSpanAtomic s) := by
  unfold Machine.execSpanAtomic
  exact .next h.takeAtomic

theorem OutKept.execSpanLinkTimeout (h : Kept r s) : OutKept r (execSpanLinkTimeout s) := by
  unfold Machine.execSpanLinkTimeout
  dsimp only
  refine .next (.ite h (.ite h.withSpan ?_))
  split
  · exact h.takeTrap
  · exact h.takeTrap
  · exact h

theorem OutKept.execSpanLinkRecovered (h : Kept r s) : OutKept r (execSpanLinkRecovered s) := by
  unfold Machine.execSpanLinkRecovered
  exact .next (.ite h.withSpan h)

/-! ### Vector memory -/

theorem ResKept.vectorAccess {k : AccessKind} {va : Word} {rs : List Reg} : ResKept r (fun _ => True) (s.vectorAccess k va rs) := by
  unfold State.vectorAccess
  exact .bind .attrs (fun _ _ => .bind .istorePrivilege (fun _ _ => .bind .needGrant (fun _ _ => .bind .attrCheck (fun _ _ => .ok
      trivial))))

theorem ResKept.laneRange {x : Access} {l : List Word} : ResKept r (fun _ => True) (State.laneRange x l) := by
  induction l with
  | nil =>
    unfold State.laneRange
    exact .ok trivial
  | cons y l ih =>
    unfold State.laneRange
    exact .ite .raiseAt ih

theorem ResKept.resolveLanes {x : Access} {l : List (Nat × Word)} (h : Kept r s) :
    ResKept r (fun a => Kept r a.2) (s.resolveLanes x l) := by
  induction l generalizing s with
  | nil =>
    unfold State.resolveLanes
    refine .ok ?_
    exact h
  | cons y l ih =>
    unfold State.resolveLanes
    dsimp only
    refine .bind (.resolve h) fun _ k => ?_
    refine .bind (ih k) fun _ k2 => ?_
    refine .ok ?_
    exact k2

theorem Kept.loadLanes {d : Reg} {l : List (Nat × List Segment)} (h : Kept r s) : Kept r (s.loadLanes d l) := by
  induction l generalizing s with
  | nil =>
    unfold State.loadLanes
    exact h
  | cons y l ih =>
    unfold State.loadLanes
    exact ih h.readAccess.setLanes

theorem ResKept.storeLanes {d : Reg} {base : Word} {gs : List (Nat × List Segment)} (h : Kept r s) :
    ResKept r (Kept r) (s.storeLanes d base gs) := by
  unfold State.storeLanes
  exact .ite .waitFor (.emitAll (.foldl (fun _ _ k => k.latch) h))

theorem ResKept.laneStep {x : Access} {d : Reg} {i : Nat} {va : Word} (h : Kept r s) :
    ResKept r (Kept r) (s.laneStep x d i va) := by
  unfold State.laneStep
  exact .bind .aligned (fun _ _ => .ite (.storeAccess h) (.bind (.loadAccess h) (fun _ k => .ok k.setLanes)))

theorem ResKept.laneSteps {x : Access} {d : Reg} {l : List (Nat × Word)} (h : Kept r s) :
    ResKept r (Kept r) (s.laneSteps x d l) := by
  induction l generalizing s with
  | nil =>
    unfold State.laneSteps
    exact .ok h.finishSteps
  | cons y l ih =>
    unfold State.laneSteps
    split
    next is => exact ih ((ResKept.laneStep h).of_ok is)
    next is => exact .error (.keepSteps h ((ResKept.laneStep h).of_error is))

theorem OutKept.vectorWhole {k : AccessKind} {d a : Reg} {m : BitVec 1} {n : BitVec 3} (h : Kept r s) :
    OutKept r (vectorWhole k d a m n s) := by
  unfold Machine.vectorWhole
  dsimp only
  refine .withMod h (fun _ k2 => .bind .vectorAccess fun _ _ => ?_)
  refine .ite ?_ ?_
  · exact .ok k2.wakeBanks.retire
  · exact .bind .aligned (fun _ _ => .bind .laneRange (fun _ _ => .bind (.resolveLanes k2.wakeBanks) (fun _ k3 => .ite (.bind
        (.storeLanes k3) (fun _ k4 => .ok k4.retire)) (.ok k3.loadLanes.retire))))

theorem OutKept.vectorSteps {k : AccessKind} {d a : Reg} {rs : List Reg} {m : BitVec 1} {n : BitVec 3} {address : State → Nat →
    Word} (h : Kept r s) :
    OutKept r (vectorSteps k d a rs m n address s) := by
  unfold Machine.vectorSteps
  exact .withMod h (fun _ k2 => .bind .vectorAccess (fun _ _ => .laneSteps k2.wakeBanks))

theorem OutKept.execVld {d a : Reg} {m : BitVec 1} {k : BitVec 3} (h : Kept r s) : OutKept r (execVld d a m k s) := by
  unfold Machine.execVld
  exact .vectorWhole h

theorem OutKept.execVst {d a : Reg} {m : BitVec 1} {k : BitVec 3} (h : Kept r s) : OutKept r (execVst d a m k s) := by
  unfold Machine.execVst
  exact .vectorWhole h

theorem OutKept.execVlds {d a x : Reg} {m : BitVec 1} {k : BitVec 3} (h : Kept r s) : OutKept r (execVlds d a x m k s) := by
  unfold Machine.execVlds
  exact .vectorSteps h

theorem OutKept.execVsts {d a x : Reg} {m : BitVec 1} {k : BitVec 3} (h : Kept r s) : OutKept r (execVsts d a x m k s) := by
  unfold Machine.execVsts
  exact .vectorSteps h

theorem OutKept.execVgath {d a b : Reg} {m : BitVec 1} {k : BitVec 3} (h : Kept r s) : OutKept r (execVgath d a b m k s) := by
  unfold Machine.execVgath
  exact .vectorSteps h

theorem OutKept.execVscat {d a b : Reg} {m : BitVec 1} {k : BitVec 3} (h : Kept r s) : OutKept r (execVscat d a b m k s) := by
  unfold Machine.execVscat
  exact .vectorSteps h

/-! ### Vector words -/

theorem Kept.setActive {x : Reg} {f : Nat → Nat} (h : Kept r s) : Kept r (s.setActive x f) := by
  unfold State.setActive
  exact h.setLanes

theorem ResKept.laneResults {d : Reg} {f : Nat → Nat × Nat} (h : Kept r s) : ResKept r (Kept r) (s.laneResults d f) := by
  unfold State.laneResults
  exact .withFlags h (fun _ k => k.setActive)

theorem OutKept.vectorWord {rs : List Reg} {k : State → Res State} (h : Kept r s) (kk : ∀ (s : State), Kept r s → ResKept r
    (Kept r) (k s)) :
    OutKept r (vectorWord rs s k) := by
  unfold Machine.vectorWord
  exact .plain h (fun _ k2 => .bind .needGrant (fun _ _ => kk _ k2.wakeBanks))

theorem OutKept.floatWord {d a b : Reg} {t : BitVec 3} {sel : BitVec 4} {x : BitVec 1} {op : PatternOp} (h : Kept r s) :
    OutKept r (floatWord d a b t sel x op s) := by
  unfold Machine.floatWord
  exact .vectorWord h (fun _ k => .laneResults k)

theorem OutKept.execVadd {d a b : Reg} {t : BitVec 3} {sel : BitVec 4} {x : BitVec 1} (h : Kept r s) :
    OutKept r (execVadd d a b t sel x s) := by
  unfold Machine.execVadd
  exact .floatWord h

theorem OutKept.execVsub {d a b : Reg} {t : BitVec 3} {sel : BitVec 4} {x : BitVec 1} (h : Kept r s) :
    OutKept r (execVsub d a b t sel x s) := by
  unfold Machine.execVsub
  exact .floatWord h

theorem OutKept.execVmul {d a b : Reg} {t : BitVec 3} {sel : BitVec 4} {x : BitVec 1} (h : Kept r s) :
    OutKept r (execVmul d a b t sel x s) := by
  unfold Machine.execVmul
  exact .floatWord h

theorem OutKept.execVfma {d a b : Reg} {t : BitVec 3} {sel : BitVec 4} {x : BitVec 1} (h : Kept r s) :
    OutKept r (execVfma d a b t sel x s) := by
  unfold Machine.execVfma
  exact .floatWord h

theorem OutKept.execVmin {d a b : Reg} {t : BitVec 3} {sel : BitVec 4} {x : BitVec 1} (h : Kept r s) :
    OutKept r (execVmin d a b t sel x s) := by
  unfold Machine.execVmin
  exact .floatWord h

theorem OutKept.execVmax {d a b : Reg} {t : BitVec 3} {sel : BitVec 4} {x : BitVec 1} (h : Kept r s) :
    OutKept r (execVmax d a b t sel x s) := by
  unfold Machine.execVmax
  exact .floatWord h

theorem OutKept.execVabs {d a : Reg} {t : BitVec 3} {sel : BitVec 4} (h : Kept r s) : OutKept r (execVabs d a t sel s) := by
  unfold Machine.execVabs
  exact .vectorWord h (fun _ k => .laneResults k)

theorem OutKept.execVneg {d a : Reg} {t : BitVec 3} {sel : BitVec 4} (h : Kept r s) : OutKept r (execVneg d a t sel s) := by
  unfold Machine.execVneg
  exact .vectorWord h (fun _ k => .laneResults k)

theorem OutKept.approximate {d a : Reg} {f : FVal → Nat × Nat} (h : Kept r s) : OutKept r (approximate d a f s) := by
  unfold Machine.approximate
  exact .vectorWord h (fun _ k => .laneResults k)

theorem OutKept.execVrcp {d a : Reg} (h : Kept r s) : OutKept r (execVrcp d a s) := by
  unfold Machine.execVrcp
  exact .approximate h

theorem OutKept.execVrsq {d a : Reg} (h : Kept r s) : OutKept r (execVrsq d a s) := by
  unfold Machine.execVrsq
  exact .approximate h

theorem OutKept.execVexp2 {d a : Reg} (h : Kept r s) : OutKept r (execVexp2 d a s) := by
  unfold Machine.execVexp2
  exact .approximate h

theorem OutKept.execVlog2 {d a : Reg} (h : Kept r s) : OutKept r (execVlog2 d a s) := by
  unfold Machine.execVlog2
  exact .approximate h

theorem OutKept.execVcvt {d a : Reg} {t : BitVec 3} (h : Kept r s) : OutKept r (execVcvt d a t s) := by
  unfold Machine.execVcvt
  exact .vectorWord h (fun _ k => .laneResults k)

theorem OutKept.execVpack {d a b : Reg} {t : BitVec 3} {sel : BitVec 4} (h : Kept r s) : OutKept r (execVpack d a b t sel s) := by
  unfold Machine.execVpack
  exact .vectorWord h (fun _ k => .laneResults k)

theorem OutKept.execVunpack {d a : Reg} {t : BitVec 3} {sel : BitVec 4} (h : Kept r s) : OutKept r (execVunpack d a t sel s) := by
  unfold Machine.execVunpack
  exact .vectorWord h (fun _ k => .laneResults k)

theorem OutKept.execVqnt {d a : Reg} {t : BitVec 3} (h : Kept r s) : OutKept r (execVqnt d a t s) := by
  unfold Machine.execVqnt
  exact .vectorWord h (fun _ k => .bind .ensure (fun _ _ => .withFlags k (fun _ k2 => k2.setLanes)))

theorem OutKept.integerWord {d a b : Reg} {t : BitVec 3} {sel : BitVec 4} {x : BitVec 1} {op : Nat → Bool → Nat → Nat → Nat →
    Nat} (h : Kept r s) :
    OutKept r (integerWord d a b t sel x op s) := by
  unfold Machine.integerWord
  exact .vectorWord h (fun _ k => .ok k.setActive.retire)

theorem OutKept.execViadd {d a b : Reg} {t : BitVec 3} {sel : BitVec 4} {x : BitVec 1} (h : Kept r s) :
    OutKept r (execViadd d a b t sel x s) := by
  unfold Machine.execViadd
  exact .integerWord h

theorem OutKept.execVisub {d a b : Reg} {t : BitVec 3} {sel : BitVec 4} {x : BitVec 1} (h : Kept r s) :
    OutKept r (execVisub d a b t sel x s) := by
  unfold Machine.execVisub
  exact .integerWord h

theorem OutKept.execVimul {d a b : Reg} {t : BitVec 3} {sel : BitVec 4} {x : BitVec 1} (h : Kept r s) :
    OutKept r (execVimul d a b t sel x s) := by
  unfold Machine.execVimul
  exact .integerWord h

theorem OutKept.execVimac {d a b : Reg} {t : BitVec 3} {sel : BitVec 4} {x : BitVec 1} (h : Kept r s) :
    OutKept r (execVimac d a b t sel x s) := by
  unfold Machine.execVimac
  exact .integerWord h

theorem OutKept.execVshl {d a b : Reg} {t : BitVec 3} {sel : BitVec 4} {x : BitVec 1} (h : Kept r s) :
    OutKept r (execVshl d a b t sel x s) := by
  unfold Machine.execVshl
  exact .integerWord h

theorem OutKept.execVshr {d a b : Reg} {t : BitVec 3} {sel : BitVec 4} {x : BitVec 1} (h : Kept r s) :
    OutKept r (execVshr d a b t sel x s) := by
  unfold Machine.execVshr
  exact .integerWord h

theorem OutKept.execVsra {d a b : Reg} {t : BitVec 3} {sel : BitVec 4} {x : BitVec 1} (h : Kept r s) :
    OutKept r (execVsra d a b t sel x s) := by
  unfold Machine.execVsra
  exact .integerWord h

theorem OutKept.execVcmp {k a b : Reg} {t : BitVec 3} (h : Kept r s) : OutKept r (execVcmp k a b t s) := by
  unfold Machine.execVcmp
  exact .vectorWord h (fun _ k2 => .withFlags k2 (fun _ k3 => k3.setMask))

theorem OutKept.execVsel {d a b : Reg} {n : BitVec 3} (h : Kept r s) : OutKept r (execVsel d a b n s) := by
  unfold Machine.execVsel
  exact .vectorWord h (fun _ k => .ok k.setActive.retire)

theorem OutKept.bitwiseWord {d a b : Reg} {f : Lane → Lane → Lane} (h : Kept r s) : OutKept r (bitwiseWord d a b f s) := by
  unfold Machine.bitwiseWord
  exact .vectorWord h (fun _ k => .ok k.setActive.retire)

theorem OutKept.execVand {d a b : Reg} (h : Kept r s) : OutKept r (execVand d a b s) := by
  unfold Machine.execVand
  exact .bitwiseWord h

theorem OutKept.execVor {d a b : Reg} (h : Kept r s) : OutKept r (execVor d a b s) := by
  unfold Machine.execVor
  exact .bitwiseWord h

theorem OutKept.execVxor {d a b : Reg} (h : Kept r s) : OutKept r (execVxor d a b s) := by
  unfold Machine.execVxor
  exact .bitwiseWord h

theorem OutKept.execKand {d a b : Reg} (h : Kept r s) : OutKept r (execKand d a b s) := by
  unfold Machine.execKand
  exact .vectorWord h (fun _ k => .ok k.setMask.retire)

theorem OutKept.execKor {d a b : Reg} (h : Kept r s) : OutKept r (execKor d a b s) := by
  unfold Machine.execKor
  exact .vectorWord h (fun _ k => .ok k.setMask.retire)

theorem OutKept.execKnot {d a : Reg} (h : Kept r s) : OutKept r (execKnot d a s) := by
  unfold Machine.execKnot
  exact .vectorWord h (fun _ k => .ok k.setMask.retire)

theorem OutKept.execKpopc {d a : Reg} (h : Kept r s) : OutKept r (execKpopc d a s) := by
  unfold Machine.execKpopc
  exact .vectorWord h (fun _ k => .ok k.setReg.retire)

theorem OutKept.execVgrant {d a : Reg} {t : BitVec 3} (h : Kept r s) : OutKept r (execVgrant d a t s) := by
  unfold Machine.execVgrant
  exact .plainWhere h (fun _ k => .bind .needIdleSequencer (fun _ _ => .ite (.ok k.setU.setReg.retire) (.ok k.setU.setReg.retire)))

theorem OutKept.reduceWord {d a : Reg} {t : BitVec 3} {float : Round → Nat → Nat → Nat × Nat} {int : Bool → Nat → Nat → Nat}
    {empty : Nat × Nat × Nat} (h : Kept r s) :
    OutKept r (reduceWord d a t float int empty s) := by
  unfold Machine.reduceWord
  exact .vectorWord h (fun _ k => .withFlags k (fun _ k2 => k2.setReg))

theorem OutKept.execVredadd {d a : Reg} {t : BitVec 3} (h : Kept r s) : OutKept r (execVredadd d a t s) := by
  unfold Machine.execVredadd
  exact .reduceWord h

theorem OutKept.execVredmax {d a : Reg} {t : BitVec 3} (h : Kept r s) : OutKept r (execVredmax d a t s) := by
  unfold Machine.execVredmax
  exact .reduceWord h

theorem OutKept.execVredmin {d a : Reg} {t : BitVec 3} (h : Kept r s) : OutKept r (execVredmin d a t s) := by
  unfold Machine.execVredmin
  exact .reduceWord h

theorem OutKept.execVperm {d a b : Reg} (h : Kept r s) : OutKept r (execVperm d a b s) := by
  unfold Machine.execVperm
  exact .vectorWord h (fun _ k => .ok k.setActive.retire)

theorem OutKept.execVslide {d a x : Reg} (h : Kept r s) : OutKept r (execVslide d a x s) := by
  unfold Machine.execVslide
  exact .vectorWord h (fun _ k => .ok k.setActive.retire)

theorem OutKept.execVbcast {d x : Reg} (h : Kept r s) : OutKept r (execVbcast d x s) := by
  unfold Machine.execVbcast
  exact .vectorWord h (fun _ k => .ok k.setActive.retire)

theorem OutKept.execVextr {d a x : Reg} (h : Kept r s) : OutKept r (execVextr d a x s) := by
  unfold Machine.execVextr
  exact .vectorWord h (fun _ k => .ok k.setReg.retire)

theorem OutKept.execVins {d w x : Reg} (h : Kept r s) : OutKept r (execVins d w x s) := by
  unfold Machine.execVins
  exact .vectorWord h (fun _ k => .ok (.retire (.ite k.setLanes k)))

end

end Sys2Proof.Machine
end

section
/-!
PROOFS. Every instruction, every event, the micro-kernel and the step keep memory canonical (O60).
-/

namespace Sys2Proof.Machine

section
variable {r : Origin} {s t u : State}

/-! ### Every instruction and event -/

theorem OutKept.exec {i : Instr} (h : Kept r s) (loose : r.stays = false) : OutKept r (exec i s) := by
  cases i with
  | srd => exact .execSrd h
  | swr => exact .execSwr h
  | trap => exact .execTrap h
  | eret => exact .execEret h
  | brk => exact .execBrk h
  | wfm => exact .execWfm h
  | exit => exact .execExit h
  | ckpt => exact .execCkpt h
  | tlbinv => exact .execTlbinv h
  | ctxsv => exact .execCtxsv h
  | ctxld => exact .execCtxld h
  | add => exact .execAdd h
  | sub => exact .execSub h
  | and => exact .execAnd h
  | or => exact .execOr h
  | xor => exact .execXor h
  | andn => exact .execAndn h
  | shl => exact .execShl h
  | shr => exact .execShr h
  | sra => exact .execSra h
  | rot => exact .execRot h
  | clz => exact .execClz h
  | ctz => exact .execCtz h
  | popc => exact .execPopc h
  | min => exact .execMin h
  | max => exact .execMax h
  | minu => exact .execMinu h
  | maxu => exact .execMaxu h
  | sel => exact .execSel h
  | cmpeq => exact .execCmpeq h
  | cmplt => exact .execCmplt h
  | cmpltu => exact .execCmpltu h
  | addi => exact .execAddi h
  | andi => exact .execAndi h
  | ori => exact .execOri h
  | xori => exact .execXori h
  | shli => exact .execShli h
  | shri => exact .execShri h
  | srai => exact .execSrai h
  | cmpeqi => exact .execCmpeqi h
  | cmplti => exact .execCmplti h
  | movhi => exact .execMovhi h
  | addpc => exact .execAddpc h
  | mul => exact .execMul h
  | mulh => exact .execMulh h
  | mulhu => exact .execMulhu h
  | div => exact .execDiv h
  | divu => exact .execDivu h
  | rem => exact .execRem h
  | remu => exact .execRemu h
  | fadd => exact .execFadd h
  | fsub => exact .execFsub h
  | fmul => exact .execFmul h
  | ffma => exact .execFfma h
  | fdiv => exact .execFdiv h
  | fsqrt => exact .execFsqrt h
  | fmin => exact .execFmin h
  | fmax => exact .execFmax h
  | fcmp => exact .execFcmp h
  | fcvtif => exact .execFcvtif h
  | fcvtfi => exact .execFcvtfi h
  | beq => exact .execBeq h
  | bne => exact .execBne h
  | jl => exact .execJl h
  | blt => exact .execBlt h
  | bge => exact .execBge h
  | bltu => exact .execBltu h
  | bgeu => exact .execBgeu h
  | jr => exact .execJr h
  | callr => exact .execCallr h
  | ret => exact .execRet h
  | j => exact .execJ h
  | call => exact .execCall h
  | ldb => exact .execLdb h
  | ldbu => exact .execLdbu h
  | ldh => exact .execLdh h
  | ldhu => exact .execLdhu h
  | ldw => exact .execLdw h
  | ldwu => exact .execLdwu h
  | ldd => exact .execLdd h
  | stb => exact .execStb h
  | sth => exact .execSth h
  | stw => exact .execStw h
  | std => exact .execStd h
  | amoadd => exact .execAmoadd h
  | amoand => exact .execAmoand h
  | amoor => exact .execAmoor h
  | amoxor => exact .execAmoxor h
  | amomin => exact .execAmomin h
  | amomax => exact .execAmomax h
  | amominu => exact .execAmominu h
  | amomaxu => exact .execAmomaxu h
  | amoswp => exact .execAmoswp h
  | amocas => exact .execAmocas h
  | amofadd => exact .execAmofadd h
  | fence => exact .execFence h
  | waita => exact .execWaita h
  | flushr => exact .execFlushr h
  | invr => exact .execInvr h
  | pref => exact .execPref h
  | vld => exact .execVld h
  | vst => exact .execVst h
  | vlds => exact .execVlds h
  | vsts => exact .execVsts h
  | vgath => exact .execVgath h
  | vscat => exact .execVscat h
  | mod => exact .execMod h
  | ext => exact .execExt h
  | vadd => exact .execVadd h
  | vsub => exact .execVsub h
  | vmul => exact .execVmul h
  | vfma => exact .execVfma h
  | vmin => exact .execVmin h
  | vmax => exact .execVmax h
  | vabs => exact .execVabs h
  | vneg => exact .execVneg h
  | vrcp => exact .execVrcp h
  | vrsq => exact .execVrsq h
  | vexp2 => exact .execVexp2 h
  | vlog2 => exact .execVlog2 h
  | vcvt => exact .execVcvt h
  | vpack => exact .execVpack h
  | vunpack => exact .execVunpack h
  | vqnt => exact .execVqnt h
  | viadd => exact .execViadd h
  | visub => exact .execVisub h
  | vimul => exact .execVimul h
  | vimac => exact .execVimac h
  | vshl => exact .execVshl h
  | vshr => exact .execVshr h
  | vsra => exact .execVsra h
  | vcmp => exact .execVcmp h
  | vsel => exact .execVsel h
  | vand => exact .execVand h
  | vor => exact .execVor h
  | vxor => exact .execVxor h
  | kand => exact .execKand h
  | kor => exact .execKor h
  | knot => exact .execKnot h
  | kpopc => exact .execKpopc h
  | vgrant => exact .execVgrant h
  | vredadd => exact .execVredadd h
  | vredmax => exact .execVredmax h
  | vredmin => exact .execVredmin h
  | vperm => exact .execVperm h
  | vslide => exact .execVslide h
  | vbcast => exact .execVbcast h
  | vextr => exact .execVextr h
  | vins => exact .execVins h
  | nput => exact .execNput h
  | nget => exact .execNget h
  | ntry => exact .execNtry h
  | ntryPut => exact .execNtryPut h
  | nclr => exact .execNclr h
  | cmps => exact .execCmps h
  | dcmp => exact .execDcmp h
  | mgang => exact .execMgang h
  | mwait => exact .execMwait h
  | mzero => exact .execMzero h
  | mmov => exact .execMmov h
  | mlda => exact .execMlda h
  | mldb => exact .execMldb h
  | mstd => exact .execMstd h
  | mma => exact .execMma h
  | mcb => exact .execMcb h
  | mmx => exact .execMmx h
  | msca => exact .execMsca h
  | qpush => exact .execQpush h
  | qpop => exact .execQpop h
  | qpopAq => exact .execQpopAq h
  | qtry => exact .execQtry h
  | qtryAq => exact .execQtryAq h
  | qputt => exact .execQputt h
  | qdepth => exact .execQdepth h
  | qdepthAq => exact .execQdepthAq h
  | send => exact .execSend h
  | sendt => exact .execSendt h
  | recv => exact .execRecv h
  | recvt => exact .execRecvt h
  | hret => exact .execHret h
  | gust => exact .execGust h
  | gspawn => exact .execGspawn h
  | repb => exact .execRepb h
  | repe => exact .execRepe h
  | repwait => exact .execRepwait h
  | cpy => exact .execCpy h
  | cpy2d => exact .execCpy2d h
  | cpyn => exact .execCpyn h
  | batch => exact .execBatch h
  | coll => exact .execColl h
  | hashc => exact .execHashc h
  | signc => exact .execSignc h
  | rndg => exact .execRndg h
  | tlwait => exact .execTlwait h
  | tlwaitb => exact .execTlwaitb h
  | tlread => exact .execTlread h
  | cntwait => exact .execCntwait h
  | cancel => exact .execCancel h
  | phadv => exact .execPhadv h
  | phread => exact .execPhread h
  | pcnt => exact .execPcnt h
  | launch => exact .execLaunch h
  | cbload => exact .execCbload h
  | htset => exact .execHtset h
  | epreq => exact .execEpreq h
  | ownset => exact .execOwnset h
  | cmap => exact .execCmap h
  | urtset => exact .execUrtset h
  | schset => exact .execSchset h
  | seqnew => exact .execSeqnew h
  | seqend => exact .execSeqend h
  | mext => exact .execMext h
  | halign a i => exact .execHalign (x := a) (y := i) h
  | hpref => exact .execHpref h
  | hevict => exact .execHevict h
  | hprio a i => exact .execHprio (x := a) h
  | hlikely a i => exact .execHlikely (x := a) (y := i) h
  | notAnInstructionWord => exact .execNotAnInstructionWord h
  | asyncCauseTaken => exact .execAsyncCauseTaken h
  | waitSatisfied => exact .execWaitSatisfied h
  | faultReply => exact .execFaultReply h
  | slotFill => exact .execSlotFill h
  | gale => exact .execGale h
  | messageArrival => exact .execMessageArrival h
  | gustArrival => exact .execGustArrival h
  | linkLanding => exact .execLinkLanding h
  | queuePushLanding => exact .execQueuePushLanding h
  | claspRelease => exact .execClaspRelease h
  | gangTimeout => exact .execGangTimeout h
  | halignTimeout => exact .execHalignTimeout h
  | matrixZeroingDone => exact .execMatrixZeroingDone h
  | matrixOpComplete => exact .execMatrixOpComplete h
  | dataStageComplete => exact .execDataStageComplete h
  | lockstepMismatch => exact .execLockstepMismatch h
  | bankRetention => exact .execBankRetention h
  | copyCommandComplete => exact .execCopyCommandComplete h
  | collComplete => exact .execCollComplete h
  | bezelEngineComplete => exact .execBezelEngineComplete h
  | rangeWalkComplete => exact .execRangeWalkComplete h
  | instanceCompletion => exact .execInstanceCompletion h
  | nodeDispatch => exact .execNodeDispatch h
  | tailWatch => exact .execTailWatch h
  | nopCommand => exact .execNopCommand h
  | launchCommand => exact .execLaunchCommand h
  | graph => exact .execGraph h
  | waitcnt => exact .execWaitcnt h
  | signal => exact .execSignal h
  | phaseCommand => exact .execPhaseCommand h
  | cancelCommand => exact .execCancelCommand h
  | tick => exact .execTick h
  | preempt => exact .execPreempt h
  | gphasePublish => exact .execGphasePublish h
  | drds => exact .execDrds h
  | drdx => exact .execDrdx h
  | dupg => exact .execDupg h
  | dwb => exact .execDwb h
  | devict => exact .execDevict h
  | dfwds => exact .execDfwds h
  | dfwdx => exact .execDfwdx h
  | dinv => exact .execDinv h
  | drsp => exact .execDrsp h
  | dcomp => exact .execDcomp h
  | ddone => exact .execDdone h
  | ddata => exact .execDdata h
  | snpShared => exact .execSnpShared h
  | snpInv => exact .execSnpInv h
  | inval => exact .execInval h
  | shootdownComplete => exact .execShootdownComplete h
  | wbAck => exact .execWbAck h
  | cmp => exact .execCmp h
  | atomicRsp => exact .execAtomicRsp h
  | data => exact .execData h
  | hostlinkFail => exact .execHostlinkFail h
  | hostModuleFailover => exact .execHostModuleFailover h
  | d2dFail => exact .execD2dFail h
  | meshUe => exact .execMeshUe h
  | sramUe => exact .execSramUe h
  | accUe => exact .execAccUe h
  | paccUe => exact .execPaccUe h
  | wbufUe => exact .execWbufUe h
  | abufParity => exact .execAbufParity h
  | cbParity => exact .execCbParity h
  | rowBusCrc => exact .execRowBusCrc h
  | claspFault => exact .execClaspFault h
  | regParity => exact .execRegParity h
  | rowSwitch => exact .execRowSwitch h
  | keySweepComplete => exact .execKeySweepComplete h
  | register => exact .execRegister h
  | teardown => exact .execTeardown h
  | freeze => exact .execFreeze h
  | drainComplete => exact .execDrainComplete h
  | resume => exact .execResume h
  | spanRegion => exact .execSpanRegion h
  | fwUpdate => exact .execFwUpdate h
  | spanJoin => exact .execSpanJoin h
  | faultq => exact .execFaultq h
  | sidebandRegisterWrite => exact .execSidebandRegisterWrite h
  | powerOn => exact .execPowerOn h loose
  | reset => exact .execReset h loose
  | powerOff => exact .execPowerOff h loose
  | powerMeasure => exact .execPowerMeasure h loose
  | thermalTrip => exact .execThermalTrip h loose
  | rowGate => exact .execRowGate h
  | dieRetentionEntry => exact .execDieRetentionEntry h
  | dieRetentionExit => exact .execDieRetentionExit h
  | alarm => exact .execAlarm h
  | getVersion => exact .execGetVersion h
  | getCapabilities => exact .execGetCapabilities h
  | negotiateAlgorithms => exact .execNegotiateAlgorithms h
  | getDigests => exact .execGetDigests h
  | getCertificate => exact .execGetCertificate h
  | challenge => exact .execChallenge h
  | getMeasurements => exact .execGetMeasurements h
  | keyExchange => exact .execKeyExchange h
  | finish => exact .execFinish h
  | endSession => exact .execEndSession h
  | lockInterface => exact .execLockInterface h
  | channelOpen => exact .execChannelOpen h
  | channelRecord => exact .execChannelRecord h
  | idcode => exact .execIdcode h
  | auth => exact .execAuth h
  | dbgReq => exact .execDbgReq h
  | frostEnter => exact .execFrostEnter h
  | scanSelect => exact .execScanSelect h
  | scanRead => exact .execScanRead h
  | bypass => exact .execBypass h
  | spanFlit => exact .execSpanFlit h
  | spanRetrain => exact .execSpanRetrain h
  | pageReq => exact .execPageReq h
  | spanAtomic => exact .execSpanAtomic h
  | spanLinkTimeout => exact .execSpanLinkTimeout h
  | hostErrorAnswer => exact .execHostErrorAnswer h
  | hostProtocolError => exact .execHostProtocolError h
  | unknownManagementOp => exact .execUnknownManagementOp h
  | unsupportedRequest => exact .execUnsupportedRequest h
  | spanLinkRecovered => exact .execSpanLinkRecovered h
  | correctedError => exact .execCorrectedError h

/-! ### The micro-kernel's services -/

theorem Kept.cancelAlone {c i : Nat} {cause : Cause} (h : Kept r s) : Kept r (s.cancelAlone c i cause) := by
  unfold State.cancelAlone
  exact h.recordReason.endCancelled

theorem Kept.postFault {c i : Nat} {cause : Cause} {va : Word} {flags : Nat} (h : Kept r s) :
    Kept r (s.postFault c i cause va flags) := by
  unfold State.postFault
  dsimp only
  split
  · exact h.setSlotAt
  · split
    next is => exact (h.postRepeat.snd is).setSlotAt
    next is => exact .as (fun _ => .returnFromTrap (.refl ..)) (h.postRepeat.snd is)

theorem Kept.spillFault {c i : Nat} {writes : Bool} {m : Miss × Word} (h : Kept r s) : Kept r (s.spillFault c i writes m) := by
  unfold State.spillFault
  split
  · exact h.postFault
  · exact h

theorem Kept.serveOverflow {c i : Nat} (h : Kept r s) : Kept r (s.serveOverflow c i) := by
  unfold State.serveOverflow
  dsimp only
  refine .ite h.cancelAlone ?_
  split
  · exact .as (fun _ => .returnFromTrap (.refl ..)) h
  · split
    next is => exact (h.jobStore.snd is).spillFault
    next is => exact .as (fun _ => .returnFromTrap (.refl ..)) ((h.jobStore.snd is).setStrandAt)

theorem Kept.serveUnderflow {c i : Nat} (h : Kept r s) : Kept r (s.serveUnderflow c i) := by
  unfold State.serveUnderflow
  dsimp only
  split
  next is => exact (h.jobLoad.snd is).spillFault
  next is => exact .as (fun _ => .returnFromTrap (.refl ..)) ((h.jobLoad.snd is).setStrandAt)

theorem Kept.serveUnitError {c i : Nat} {victim : Nat × Nat} {cause : Cause} (h : Kept r s) :
    Kept r (s.serveUnitError c i victim cause) := by
  unfold State.serveUnitError
  exact .as (fun _ => .returnFromTrap (.refl ..)) h.cancelUnitFor

theorem Kept.serveParity {c i : Nat} (h : Kept r s) : Kept r (s.serveParity c i) := by
  unfold State.serveParity
  exact .as (fun _ => .returnFromTrap (.refl ..)) (.setCore (.foldl (fun _ _ k => .ite k.cancelUnitFor k) h))

theorem Kept.serveJobError {c i : Nat} {cause : Cause} (h : Kept r s) : Kept r (s.serveJobError c i cause) := by
  unfold State.serveJobError
  dsimp only
  refine .as (fun _ => .returnFromTrap (.refl ..)) ?_
  split
  · exact h.cancelJobFor
  · exact h

theorem Kept.serveSram {c i : Nat} (h : Kept r s) : Kept r (s.serveSram c i) := by
  unfold State.serveSram
  exact .as (fun _ => .returnFromTrap (.refl ..)) (.foldl (fun _ _ k => k.cancelJobFor) h)

theorem Kept.serveHalt {c i : Nat} {x : Halt} (h : Kept r s) : Kept r (s.serveHalt c i x) := by
  unfold State.serveHalt
  dsimp only
  split
  · exact .holdEngines (.setSlotAt (.as (fun _ => .returnFromTrap (.refl ..)) h))
  · exact .holdEngines (.setSlotAt (.as (fun _ => .returnFromTrap (.refl ..)) h))
  · exact .setSlotAt (.as (fun _ => .returnFromTrap (.refl ..)) h)

theorem Kept.abandonFreeze {q : Nat} (h : Kept r s) : Kept r (s.abandonFreeze q) := by
  unfold State.abandonFreeze
  split
  · exact .ite h.writeResult.thaw.requestDone h
  · exact h

theorem Kept.serveFreeze {c i : Nat} (h : Kept r s) : Kept r (s.serveFreeze c i) := by
  unfold State.serveFreeze
  dsimp only
  split
  · exact h.serveHalt.abandonFreeze
  · exact h.serveHalt

theorem Kept.takeSystemMessage {c : Nat} (h : Kept r s) : Kept r (s.takeSystemMessage c) := by
  unfold State.takeSystemMessage
  dsimp only
  split
  · exact h.setCore.serveMessage
  · exact h

theorem Kept.haltDebug {c i : Nat} (h : Kept r s) : Kept r (s.haltDebug c i) := by
  unfold State.haltDebug
  exact h.setSlotAt

theorem Kept.serve {c i : Nat} (h : Kept r s) : Kept r (s.serve c i) := by
  have back : Kept r (s.as c i State.returnFromTrap) := .as (fun _ => .returnFromTrap (.refl ..)) h
  unfold State.serve
  dsimp only
  split
  · exact h
  next cause _ =>
    cases cause with
    | winOverflow => exact h.serveOverflow
    | winUnderflow => exact h.serveUnderflow
    | retEmpty => exact h.cancelAlone
    | pfAddress | pfNotValid | pfEntry | pfUser | pfRead | pfWrite | pfKey => exact h.postFault
    | cancel => exact h.endCancelled
    | preempt | debugHalt => exact h.serveHalt
    | freeze => exact h.serveFreeze
    | singleStep => exact .haltDebug (.as (fun _ => .returnFromTrap (.refl ..)) h.setSlotAt)
    | watch => exact back.haltDebug
    | utAlias => exact h.serveJobError
    | sramUe => exact h.serveSram
    | accUe | paccUe | wbufUe | abufParity | cbParity | rowBusCrc | claspFault => exact h.serveUnitError
    | regParity => exact h.serveParity
    | sysMessage => exact .as (fun _ => .returnFromTrap (.refl ..)) h.takeSystemMessage
    | msgBounce => exact .as (fun _ => .returnFromTrap (.refl ..)) h.resendBounced
    | lockArea | meshUe | tailWatch | aq0Overflow | spanDown | queueFault | rowSwitch | tick | fwUpdate | alarm | d2dFail
    | hostlinkFail => exact back
    | keyDead | busError | collMismatch | mailboxFault | grantStale => exact .ite h.setSlotAt back
    | _ => exact h.setSlotAt

theorem Kept.resetDoubled {c : Nat} (h : Kept r s) : Kept r (s.resetDoubled c) := by
  unfold State.resetDoubled
  exact .setCore (.resplit (.foldl (fun _ _ k => k.endCancelled) (.foldl (fun _ _ k => k.cancelJobFor) h)))

/-! ### What can happen of itself -/

theorem Kept.fetchPoison (h : Kept r s) : Kept r s.fetchPoison := by
  unfold State.fetchPoison
  exact .ite h.latchCore h

theorem OutKept.issue (h : Kept r s) (loose : r.stays = false) : OutKept r (issue s) := by
  unfold Machine.issue
  exact .ite (.next h.fetchPastEnd) (.exec h.fetchPoison loose)

theorem OutKept.happen {e : Event} (h : Kept r s) (loose : r.stays = false) : OutKept r (happen e s) := by
  unfold Machine.happen
  exact .exec h.fields loose

theorem Kept.enterSlot {c i : Nat} (h : Kept r s) (loose : r.stays = false) : Kept r (s.enterSlot c i) := by
  exact h.goes loose fun wf => wf

theorem Kept.bodyStep {c i : Nat} (h : Kept r s) : OptKept (Kept r) (s.bodyStep c i) :=
  Kept.sequence (fun _ _ _ loose k => OutKept.exec k loose) h

theorem Kept.tick (h : Kept r s) : Kept r s.tick := by
  unfold State.tick
  exact h.idleReset.fields

theorem OutKept.perform {x : Choice} (h : Kept r s) (loose : r.stays = false) : OutKept r (perform s x) := by
  unfold Machine.perform
  split
  · exact .issue (h.enterSlot loose) loose
  · exact .next (.getD h.bodyStep h)
  · exact .next h.serve
  · exact .next h.resetDoubled
  · exact .next h.pollReply
  · exact .next h.writeStatus
  · exact .next h.dispatchQueue
  · exact .next h.replaceL1
  · exact .next h.replaceL2
  · exact .next h.serveHome
  · exact .next h.servePage
  · exact .next h.serveAtomic
  · split
    · exact .next h.sendResponse
    · exact .happen h.sendResponse.withSpdm loose
  · exact .happen h loose

theorem OutKept.chosen (h : Kept r s) (loose : r.stays = false) : OutKept r (chosen s) := by
  unfold Machine.chosen
  split
  · exact .perform h loose
  · exact .next h

theorem OutKept.stepStopped (h : Kept r s) (loose : r.stays = false) : OutKept r (stepStopped s) := by
  unfold Machine.stepStopped
  split
  · exact .happen h.fields loose
  · exact .fault

theorem OutKept.stepRunning (h : Kept r s) (loose : r.stays = false) : OutKept r (stepRunning s) := by
  unfold Machine.stepRunning
  dsimp only
  split
  · exact .happen h.fields loose
  · split
    · exact .ite (.issue (.enterSlot h.fields loose) loose) (.next h.fields)
    · exact .chosen h loose

theorem OutKept.stepOnce (h : Kept r s) (loose : r.stays = false) : OutKept r (stepOnce s) := by
  unfold Machine.stepOnce
  exact .ite (.stepStopped h loose) (.stepRunning h.tick loose)

/-! ### One step -/

theorem OutKept.step (h : Kept r s) (loose : r.stays = false) : OutKept r (step s) := by
  unfold Machine.step
  exact .stepOnce h loose

end

/-- Settles O60: whatever a step does lays bytes down by `store`, `wipe` or cell by cell, each of which keeps the canonical form. -/
theorem memoryKept : Obligations.MemoryKept := by
  unfold Obligations.MemoryKept
  intro s t wf stepped
  have kept : OutKept ⟨s, false⟩ (step s) := .step (.refl ..) rfl
  exact (kept.of_next stepped).canonical wf

end Sys2Proof.Machine
end

section
/-!
PROOFS. TLBINV, CTXSV and CTXLD (R132, R133, R208, R210, R211, R318).
-/

namespace Sys2Proof.Machine

namespace State

/-! ### Shootdowns (R210, R211) -/

theorem shoot_tlb {s : State} {kind asn page : Nat} {x : Nat × Core} {e : TlbEntry} (core : x ∈ (s.shoot kind asn page).cores)
    (entry : e ∈ x.2.tlb) : shootsEntry kind asn page e = false := by
  obtain ⟨y, _, rfl⟩ := List.mem_map.1 core
  exact (Bool.not_eq_true' _).mp (List.mem_filter.1 entry).2

theorem shoot_l2tlb {s : State} {kind asn page : Nat} {x : Nat × Die} {e : Nat × TlbEntry} (die : x ∈ (s.shoot kind asn page).dies)
    (entry : e ∈ x.2.l2tlb) : shootsEntry kind asn page e.2 = false := by
  obtain ⟨y, _, rfl⟩ := List.mem_map.1 die
  exact (Bool.not_eq_true' _).mp (List.mem_filter.1 entry).2

/-! ### Engines held for a save (R318, R364) -/

theorem cur_holdEngines (s : State) (c i : Nat) : (s.holdEngines c i).cur = s.cur := (Kept.holdEngines (.refl s true)).cur rfl

/-! ### The checks of CTXSV and CTXLD (R133, R208) -/

section
variable {s : State} {ws wa : Word} {allowed writes : Bool}

theorem contextChecks_user (user : s.slot.mode = false) :
    s.contextChecks ws wa allowed writes = .error (.trap .illPriv 0 0 0 none) := by
  rw [contextChecks, needSupervisor_user user]
  rfl

variable (super : s.slot.mode = true)
include super

theorem contextChecks_closed (closed : s.slotOpen ws = false) :
    s.contextChecks ws wa allowed writes = .error (.trap .ctxState 0 0 0 none) := by
  rw [contextChecks, needSupervisor_ok super, closed]
  rfl

variable (open_ : s.slotOpen ws = true) (may : allowed = true)
include open_ may

theorem contextChecks_misaligned (odd : wa.toNat % 16 ≠ 0) :
    s.contextChecks ws wa allowed writes = .error (.trap .misaligned (contextAccess writes).info wa 0 none) := by
  rw [contextChecks, needSupervisor_ok super, open_, may, aligned, if_neg odd]
  rfl

theorem contextChecks_ok (even : wa.toNat % 16 = 0) : s.contextChecks ws wa allowed writes = .ok () := by
  rw [contextChecks, needSupervisor_ok super, open_, may, aligned, if_pos even]
  rfl

end

theorem needDrained_ok {s : State} {part : Nat} (drained : matrixPart part = true → s.me.matrix = [] ∧ s.me.stages = []) :
    s.needDrained part = .ok () := by
  rw [needDrained]
  cases matrix : matrixPart part with
  | false => rfl
  | true =>
    obtain ⟨queue, stages⟩ := drained matrix
    rw [queue, stages]
    rfl

/-- A record of one page is stored as one access. -/
theorem moveOut_page {s t : State} {a : Word} {n : Nat} {bs : List Byte} (start : a.toNat % 4096 = 0) (some_ : bs ≠ [])
    (page : bs.length ≤ 4096) (stored : s.storeAccess (contextAccess true) a bs 0 = .ok t) : moveOut a (n + 2) 0 bs s = .ok t := by
  have here : a + BitVec.ofNat 64 (8 * 0) = a := BitVec.add_zero a
  have whole : Nat.min bs.length (4096 - a.toNat % 4096) = bs.length := by
    rw [start]
    exact Nat.min_eq_left page
  have filled : bs.isEmpty = false := List.isEmpty_eq_false_iff.2 some_
  rw [moveOut, filled]
  simp only [Bool.false_eq_true, if_false, here, whole, List.take_length, stored, List.drop_length]
  rfl

end State

/-! ### The words -/

theorem exec_tlbinv_ok {s r : State} {a : Reg} {k : BitVec 11} (plain : s.NoPrefix) (super : s.slot.mode = true)
    (held : s.performHeld = .ok r)
    (unused : (r.shoot k.toNat (r.ctxOf r.u.job).asn (bits (r.reg a) 47 12)).translationUsed k.toNat (r.ctxOf r.u.job).asn = false) :
    exec (.tlbinv a k) s = .next (r.shoot k.toNat (r.ctxOf r.u.job).asn (bits (r.reg a) 47 12)).retire := by
  rw [exec_tlbinv, execTlbinv, State.plain_ok plain, State.needSupervisor_ok super, held]
  exact congrArg (fun x => Host.Outcome.next (s.finish x)) (if_neg (ne_true_of_eq_false unused))

section
variable {s : State} {d a : Reg} {p : BitVec 11} (plain : s.NoPrefix) (on : partOn s.kind p.toNat = true)
include plain on

theorem exec_ctxsv_trap {c : Cause} {n : Nat} {x : Word}
    (checks : s.contextChecks (s.reg d) (s.reg a) (s.saveAllowed p.toNat (s.reg d).toNat) true = .error (.trap c n x 0 none)) :
    exec (.ctxsv d a p) s = .next (s.trap c n x 0) := by
  rw [exec_ctxsv, execCtxsv, on, State.plainWhere_legal, State.plain_ok plain]
  dsimp only
  rw [checks]
  rfl

theorem exec_ctxld_trap {c : Cause} {n : Nat} {x : Word}
    (checks : s.contextChecks (s.reg d) (s.reg a) (s.loadAllowed p.toNat (s.reg d).toNat) false = .error (.trap c n x 0 none)) :
    exec (.ctxld d a p) s = .next (s.trap c n x 0) := by
  rw [exec_ctxld, execCtxld, on, State.plainWhere_legal, State.plain_ok plain]
  dsimp only
  rw [checks]
  rfl

end

namespace State

/-- The oldest frame of a slot's strand counted as saved (R133). -/
def frameSaved (t : State) (i : Nat) : State :=
  let u := t.strandAt t.cur.1 i
  t.setStrandAt t.cur.1 i { u with frames := u.frames.dropLast, wspilled := u.wspilled + 1 }

/-- A slot's strand made the owner of the core's matrix state where a part of that is loaded (R191). -/
def partOwned (part i : Nat) (t : State) : State :=
  if matrixPart part = true then
    t.setMe { t.me with owner := some (i, (t.strandAt t.cur.1 i).unit), lastJob := some (t.strandAt t.cur.1 i).job }
  else t

/-- What CTXSV does behind its checks, from the state in which the engines are held back where the part needs it. -/
def savePart (a : Reg) (part i : Nat) (held : State) : Res State := do
  if part = 10 && !held.copiesPaused held.cur.1 i then .error (.wait (.paused i) (some held)) else do
  let bs := held.partRecord part i
  let t ← moveOut (held.reg a) (bs.length / 4096 + 2) held.slot.eprog (bs.drop (8 * held.slot.eprog)) held
  pure (if part = 0 then t.frameSaved i else t).finishSteps

/-- What CTXLD does behind its checks. -/
def loadPart (a : Reg) (part i : Nat) (s : State) : Res State := do
  let n := partBytes s.cur.1 part
  if pieceLoaded part then do
    let t ← moveIn (s.reg a) (fun off bs t => t.loadPiece part i off bs) (n / 4096 + 2) s.slot.eprog (n - 8 * s.slot.eprog)
      (partOwned part i s)
    pure t.finishSteps
  else do
    let (bs, t) ← readRecord (s.reg a) (n / 4096 + 2) s.movedWords (n - s.movedWords.length) s
    match (partOwned part i (t.setSlot { t.slot with moved := [] })).loadRecord part i bs with
    | none => raise .ctxState
    | some u => pure u.finishSteps

section
variable {a : Reg} {part i : Nat} {s held t : State}

theorem savePart_waits (ten : part = 10) (running : held.copiesPaused held.cur.1 i = false) :
    held.savePart a part i = .error (.wait (.paused i) (some held)) := by
  rw [savePart, ten, running]
  rfl

theorem savePart_ok (paused : part = 10 → held.copiesPaused held.cur.1 i = true)
    (moved : moveOut (held.reg a) ((held.partRecord part i).length / 4096 + 2) held.slot.eprog
      ((held.partRecord part i).drop (8 * held.slot.eprog)) held = .ok t) :
    held.savePart a part i = .ok (if part = 0 then t.frameSaved i else t).finishSteps := by
  have goes : (decide (part = 10) && !held.copiesPaused held.cur.1 i) = false := by
    by_cases ten : part = 10
    · rw [paused ten, Bool.not_true, Bool.and_false]
    · rw [decide_eq_false ten, Bool.false_and]
  rw [savePart, goes]
  dsimp only
  rw [moved]
  rfl

theorem loadPart_pieces (pieces : pieceLoaded part = true)
    (moved : moveIn (s.reg a) (fun off bs t => t.loadPiece part i off bs) (partBytes s.cur.1 part / 4096 + 2) s.slot.eprog
      (partBytes s.cur.1 part - 8 * s.slot.eprog) (partOwned part i s) = .ok t) :
    s.loadPart a part i = .ok t.finishSteps := by
  rw [loadPart, pieces]
  dsimp only
  rw [moved]
  rfl

theorem loadPart_record {rs : List Byte} {u : State} (whole : pieceLoaded part = false)
    (read : readRecord (s.reg a) (partBytes s.cur.1 part / 4096 + 2) s.movedWords (partBytes s.cur.1 part - s.movedWords.length) s =
      .ok (rs, t))
    (loaded : (partOwned part i (t.setSlot { t.slot with moved := [] })).loadRecord part i rs = some u) :
    s.loadPart a part i = .ok u.finishSteps := by
  rw [loadPart, whole]
  dsimp only
  rw [read]
  refine (congrArg (fun o => match o with | none => raise .ctxState | some u => .ok u.finishSteps) loaded).trans ?_
  rfl

end

end State

section
variable {s : State} {d a : Reg} {p : BitVec 11} (plain : s.NoPrefix) (on : partOn s.kind p.toNat = true)
  (super : s.slot.mode = true) (open_ : s.slotOpen (s.reg d) = true) (even : (s.reg a).toNat % 16 = 0)
  (drained : State.matrixPart p.toNat = true → s.me.matrix = [] ∧ s.me.stages = [])
include plain on super open_ even drained

theorem exec_ctxsv_checked (may : s.saveAllowed p.toNat (s.reg d).toNat = true) :
    exec (.ctxsv d a p) s = .next (s.finish (State.savePart a p.toNat (s.reg d).toNat
      (if p.toNat = 10 then s.holdEngines s.cur.1 (s.reg d).toNat else s))) := by
  rw [exec_ctxsv, execCtxsv, on, State.plainWhere_legal, State.plain_ok plain]
  dsimp only
  rw [State.contextChecks_ok super open_ may even, State.needDrained_ok drained]
  rfl

theorem exec_ctxld_checked (may : s.loadAllowed p.toNat (s.reg d).toNat = true) :
    exec (.ctxld d a p) s = .next (s.finish (State.loadPart a p.toNat (s.reg d).toNat s)) := by
  rw [exec_ctxld, execCtxld, on, State.plainWhere_legal, State.plain_ok plain]
  dsimp only
  rw [State.contextChecks_ok super open_ may even, State.needDrained_ok drained]
  rfl

end

/-- Settles O21: the checks in order, then the record moved from its progress on; what holds the engines back keeps the strand. -/
theorem supervisorWords : Obligations.SupervisorWords := by
  unfold Obligations.SupervisorWords
  refine ⟨fun s d a k p plain on => ⟨fun user => ?closed, fun super => ⟨fun r held => ?invalidates, fun shut => ?shut,
    fun open_ odd => ?misaligned⟩⟩, fun s d a p plain super on open_ even drained => ?moves⟩
  case closed =>
    refine ⟨?_, exec_ctxsv_trap plain on (State.contextChecks_user user), exec_ctxld_trap plain on (State.contextChecks_user user)⟩
    rw [exec_tlbinv, execTlbinv, State.plain_ok plain, State.needSupervisor_user user]
    rfl
  case invalidates =>
    exact ⟨exec_tlbinv_ok plain super held, fun _ core _ entry => State.shoot_tlb core entry,
      fun _ die _ entry => State.shoot_l2tlb die entry⟩
  case shut =>
    exact ⟨exec_ctxsv_trap plain on (State.contextChecks_closed super shut),
      exec_ctxld_trap plain on (State.contextChecks_closed super shut)⟩
  case misaligned =>
    exact ⟨fun may => exec_ctxsv_trap plain on (State.contextChecks_misaligned super open_ may odd),
      fun may => exec_ctxld_trap plain on (State.contextChecks_misaligned super open_ may odd)⟩
  case moves =>
    intro i n held k bs spilled owned
    have cur : held.cur = s.cur := by
      by_cases ten : p.toNat = 10
      · exact (congrArg State.cur (if_pos ten)).trans (State.cur_holdEngines ..)
      · exact congrArg State.cur (if_neg ten)
    have pausing : held.copiesPaused held.cur.1 i = held.copiesPaused s.cur.1 i := congrArg (held.copiesPaused ·.1 i) cur
    refine ⟨fun may => ⟨fun ten running => ?_, fun t paused moved => ?_, fun t few start page some_ short stored => ?_⟩,
      fun may => ⟨fun t pieces moved => ?_, fun rs t u whole read loaded => ?_⟩⟩
    · rw [exec_ctxsv_checked plain on super open_ even drained may, State.savePart_waits ten (pausing.trans running)]
      rfl
    · rw [exec_ctxsv_checked plain on super open_ even drained may, State.savePart_ok (fun ten => pausing.trans (paused ten)) moved]
      rfl
    · have ten : p.toNat ≠ 10 := fun is => absurd (is ▸ few) (by decide)
      have zero : p.toNat ≠ 0 := fun is => absurd (is ▸ few) (by decide)
      have here : held = s := if_neg ten
      rw [exec_ctxsv_checked plain on super open_ even drained may]
      change Host.Outcome.next (s.finish (held.savePart a p.toNat i)) = _
      have moved : State.moveOut (held.reg a) (bs.length / 4096 + 2) k (bs.drop (8 * k)) held = .ok t := by
        have first : k = 0 := (congrArg (·.slot.eprog) here).trans start
        have place : (held.reg a).toNat % 4096 = 0 := (congrArg (fun t => (t.reg a).toNat % 4096) here).trans page
        rw [first]
        exact State.moveOut_page place some_ short
          ((congrArg (fun t => t.storeAccess (State.contextAccess true) (t.reg a) bs 0) here).trans stored)
      rw [State.savePart_ok (fun is => absurd is ten) moved, if_neg zero]
      rfl
    · rw [exec_ctxld_checked plain on super open_ even drained may, State.loadPart_pieces pieces moved]
      rfl
    · rw [exec_ctxld_checked plain on super open_ even drained may, State.loadPart_record whole read loaded]
      rfl

end Sys2Proof.Machine
end
